-- ==== Sys2Proof/Word.lean ====
section
/-!
DEFINITION. The words of the Rieri-64 and the sparse table that keeps the state plain data.
-/
namespace Sys2Proof

/-- A byte of data. -/
abbrev Byte := BitVec 8

/-- A 32-bit register or mailbox word. -/
abbrev W32 := BitVec 32

/-- A sparse table keyed by a natural number. Its canonical form lists keys strictly rising and lists no
entry equal to the table's default, so that equal tables are equal lists. -/
abbrev Table (α : Type) := List (Nat × α)

end Sys2Proof
end

