-- ==== Sys2Proof/Syntax.lean ====
section
/-!
DEFINITION. The commands of the block: one constructor of `Instr` per row of spec/opcode_table.json, with
the operands that the row's requirement names. An outcome that the outside world decides (a sensor reading,
a die's status, a training result) is an operand; everything else stands in the state.
-/
namespace Sys2Proof

/-- The four register aliases of a 64 KiB block (R45). -/
inductive RegAlias where
  | normal | setBits | clearBits | toggleBits
  deriving DecidableEq, Repr

/-- The windows a register write can address: the Control window (offset without alias bits), the Tenant
window of VF v (R49), and the MSI-X table of function f (R105). -/
inductive Window where
  | control
  | tenant (v : Nat)
  | msix (f : Nat)
  deriving DecidableEq, Repr

/-- Who made an access to a gated block (R63, TOP_GATED_ACCESS.SOURCE). -/
inductive Requester where
  | host | firmware | sideband
  deriving DecidableEq, Repr

/-- An admitted command is named by function, submission queue and command identifier (R167). -/
structure CmdId where
  func : Nat
  sq : Nat
  cid : Nat
  deriving DecidableEq, Repr

/-- A submission queue entry: the dwords this manual gives a meaning, with FUSE and PSDT of dword 0; the segments (address, length)
of host memory that its data pointer (PRP or SGL) names, in order, and the type bytes of its SGL descriptors; and the host bytes that
the command sends to the device (write data, an offload job's input, an admin buffer). -/
structure Sqe where
  cid : Nat
  opc : Nat
  nsid : Nat
  cdw10 : W32
  cdw11 : W32
  cdw12 : W32
  cdw13 : W32
  cdw14 : W32
  cdw15 : W32
  mptr : Nat
  segs : List (Nat × Nat)
  data : List Byte
  fuse : Nat := 0
  psdt : Nat := 0
  cdw2 : W32 := 0
  cdw3 : W32 := 0
  sgl : List Nat := []
  deriving DecidableEq, Repr

/-- A resource of dispatch (R159): a LUN, one coder of a section's codec engine (lane 0 to 15, coder 0 or 1),
or a section's cipher engine. -/
inductive Resource where
  | lun (n : Nat)
  | coder (sec lane c : Nat)
  | cipher (sec : Nat)
  deriving DecidableEq, Repr

/-- The host buffer of a mailbox command: address, length and what it holds (R94). -/
structure BufArg where
  addr : BitVec 64
  len : Nat
  bytes : List Byte
  deriving DecidableEq, Repr

/-- One issue of a mailbox command (steps 2 to 5 of the issue sequence of chapter 05): the arguments written
from MBX_ARG_0 upward, the buffer registers when they are written, the flags of MBX_CMD, and the reserved
bits [31:19] of the value written to MBX_CMD. -/
structure MbxReq where
  args : List W32
  buf : Option BufArg
  notify : Bool
  epoch : Bool
  force : Bool
  rsvd : BitVec 13
  deriving DecidableEq, Repr

/-- What the power-on self-tests found (R398, R399): the boot ROM integrity test, the GCM KAT of each of the
eight engines, the other KATs (FAIL 03h to 0Ah, in order) and the noise source start-up test. -/
structure SelfTest where
  romOk : Bool
  gcmOk : List Bool
  katOk : List Bool
  noiseOk : Bool
  deriving DecidableEq, Repr

/-- What DRAM training found (R317): the density code, which of the device ranks 0 to 15 are populated, and for each rank the least eye
over its data and check bits: its width in 0.01 UI and its height in mV. -/
structure DramProbe where
  density : Nat
  populated : BitVec 16
  eyes : List (Nat × Nat)
  deriving DecidableEq, Repr

/-- What the parameter page of one LUN reports (R276, R280): its geometry and its rated erase cycles (R424), the features used when
reported, its interface capability, and the blocks that the die marks bad. -/
structure LunProbe where
  lun : Nat
  responds : Bool
  pageReadable : Bool
  onfiMajor : Nat
  progSuspend : Bool
  eraseSuspend : Bool
  slc : Bool
  readRetry : Bool
  lpddr4 : Bool
  pageBytes : Nat
  spareBytes : Nat
  pagesPerBlock : Nat
  blocks : Nat
  rated : Nat
  dqTraining : Bool := false
  multiPlane : Bool := false
  zqCal : Bool := false
  dutyCycle : Bool := false
  pulseLimit : Bool := false
  ifCap : Nat := 0
  bad : List Nat := []
  deriving DecidableEq, Repr

/-- How a channel's training ends (R277, R278): the worst eye widths in 1/256 UI and heights in mV at
4,800 MT/s and at 3,600 MT/s. -/
structure ChanProbe where
  chan : Nat
  eye4800 : Nat
  height4800 : Nat
  eye3600 : Nat
  height3600 : Nat
  deriving DecidableEq, Repr

/-- Everything flash discovery reads (R280): one record per LUN that answers or should be judged, and one
training result per channel with flash. A LUN with no record does not respond. -/
structure FlashProbe where
  luns : List LunProbe
  chans : List ChanProbe
  deriving DecidableEq, Repr


/-- What a DRAM line holds, as R328 sorts it. -/
inductive LineData where
  | nothing
  | dirty (ns lba : Nat)
  | clean (ns lba : Nat)
  | job (id : CmdId)
  | zoneTable (ns zone : Nat)
  | tableCache (page : Nat)
  | working (copied : Bool)
  deriving DecidableEq, Repr

/-- One faulty line met in DRAM: its line address within the rank, the bits that read wrong in each of its 16 codewords (bits
0 to 31 the data, 32 to 39 the check byte; none beyond the list), the line address bits [39:6] in which the line reached
differs from the one intended (R322), whether (during a migration) the spare's own copy decodes, what the line holds, and whether a write
to it is queued (R323). -/
structure LineFault where
  line : Nat
  flips : List (BitVec 40)
  off : BitVec 34
  spareClean : Bool
  held : LineData
  queued : Bool := false
  deriving DecidableEq, Repr

/-- A requester of on-chip SRAM, as R338 sorts them: firmware, for a structure of which a journal or NOR copy stands or not; the host,
through a BAR window of a function; the sideband; an engine, for a frame of the write path or of a read, or for an offload job, by number;
the key vault store of a slot. -/
inductive SramReq where
  | firmware (copied : Bool)
  | bar (f : Nat)
  | sideband
  | writeFrame (job : Nat)
  | readFrame (rj : Nat)
  | offload (job : Nat)
  | vault (slot : Nat)
  deriving DecidableEq, Repr

/-- What happens in on-chip SRAM, by row key (macro × 4,096 + row): a cell goes bad, at a column; a requester reads a row, or writes one
word or all eight words of it (R334 to R336). -/
inductive SramMet where
  | cell (row col : Nat)
  | read (who : SramReq) (row : Nat)
  | word (who : SramReq) (row w : Nat) (v : W32)
  | whole (row : Nat) (ws : List W32)
  deriving DecidableEq, Repr

/-- The row key that it concerns. -/
def SramMet.row : SramMet → Nat
  | .cell k _ => k
  | .read _ k => k
  | .word _ k _ _ => k
  | .whole k _ => k

/-- The 12 housekeeping readings of R354, channel 0 first, as 16-bit values. -/
structure Readings where
  ch : List (BitVec 16)
  deriving DecidableEq, Repr

/-- What an exit from WATCH or DOZE finds: the retention image CRC (R69), the DRAM copy check (R358), ranks
that failed drift check and retraining, and the self-tests run again (R401). -/
structure WakeProbe where
  retentionOk : Bool
  dramCopyOk : Bool
  ranksOk : Bool
  tests : SelfTest
  deriving DecidableEq, Repr

/-- Where a wide-value access is made: the TOP view, or the tenant view of VF v (R54). -/
inductive WvView where
  | top
  | vf (v : Nat)
  deriving DecidableEq, Repr

/-- The commands: one constructor per row of the table, in the table's order. -/
inductive Instr where
  -- resets and pins
  | por
  | porstNAssertion
  | porstNDeassertion
  | perstNAssertion (port : Nat)
  | perstNDeassertion (port : Nat)
  | linkDownHotReset (port : Nat)
  | servingPortChange
  | pfFlr
  | vfFlr (v : Nat)
  | controllerReset (f : Nat)
  | controllerEnable (f : Nat) (ams : BitVec 3)
  | nvmSubsystemReset
  | vfEnableClear
  | vfEnableSet (numVfs : Nat)
  | resetDrainDone (f : Nat)
  | zeroizeNAssertion
  | zeroizeRecordStored
  -- START
  | startBegin
  | linkTrained (port : Nat)
  | powerOnSelfTests (t : SelfTest)
  | imageAuthentication
  | dramTraining (p : DramProbe)
  | flashDiscovery (p : FlashProbe)
  | metadataReplay (readable : Bool)
  | ventPoolRestore (unreadable : List Nat)
  | startComplete
  -- NVMe admin commands
  | deleteIoSubmissionQueue (id : CmdId)
  | createIoSubmissionQueue (id : CmdId)
  | getLogPage (id : CmdId)
  | deleteIoCompletionQueue (id : CmdId)
  | createIoCompletionQueue (id : CmdId)
  | identify (id : CmdId)
  | abort (id : CmdId)
  | setFeatures (id : CmdId)
  | getFeatures (id : CmdId)
  | asynchronousEventRequest (id : CmdId)
  | firmwareImageDownload (id : CmdId)
  | firmwareCommit (id : CmdId)
  | activationDrainEnd
  | imageSwitchComplete
  | activationDrainTimeout
  | directiveSend (id : CmdId)
  | directiveReceive (id : CmdId)
  -- NVMe I/O commands
  | flush (id : CmdId)
  | flushComplete (id : CmdId)
  | write (id : CmdId)
  | zoneAppend (id : CmdId)
  | read (id : CmdId)
  | writeZeroes (id : CmdId)
  | datasetManagement (id : CmdId)
  | zoneClose (id : CmdId)
  | zoneFinish (id : CmdId)
  | zoneOpen (id : CmdId)
  | zoneReset (id : CmdId)
  | zoneOffline (id : CmdId)
  | reportZones (id : CmdId)
  | extendedReportZones (id : CmdId)
  | codecEncode (id : CmdId)
  | codecDecode (id : CmdId)
  -- queues, admission, dispatch
  | sqTailDoorbell (f q tail : Nat) (entries : List Sqe)
  | cqHeadDoorbell (f q head : Nat)
  | admission
  | dispatch (r : Resource)
  | kerfExpiry (r : Resource)
  | geyserOverAge (id : CmdId)
  -- write path, read path, media
  | writeDataCached (id : CmdId)
  | encodeComplete (sec lane c : Nat) (verifyOk : Bool)
  | cipherOperationComplete (sec : Nat) (checkOk tagOk : Bool)
  | leaseGrant (sec slot : Nat)
  | decodeComplete (sec lane c : Nat) (faulty retryFaulty : Bool)
  -- of the codewords that the read fetches, whether each decodes (R300)
  | lunReadComplete (lun : Nat) (cws : List Bool)
  | suspendMinRun (lun : Nat)
  | lunSuspended (lun : Nat)
  | programComplete (lun : Nat) (fail : Bool)
  -- `zeros`: the 0 bits that the probe of a suspect block counts (R299)
  | eraseComplete (lun : Nat) (fail : Bool) (zeros : Nat)
  | flashOperationTimeout (lun : Nat)
  | flashDriftCheck (ch eye : Nat)
  | channelRetrain (ch : Nat)
  -- DRAM
  | dramDriftCheck (rank driftPs : Nat)
  | dramRetrain
  | mr4Poll (hot : BitVec 16)
  | refreshDue (rank busy : Nat)
  | dramCaParityAlert (rank : Nat)
  | patrolScrub (rank : Nat) (faults : List LineFault)
  | spareFillComplete (rank : Nat)
  | rankMigrationComplete (ch : Nat) (faults : List LineFault)
  -- pace
  | paceWindowEnd (meter : Nat) (reading : Nat)
  | paceLoopAction (est : Nat)
  | avsAckTimeout
  -- epochs and interrupts
  | shareEpochBoundary
  | coalescingTimerExpiry (f vec : Nat)
  | vectorUnmask (f vec : Nat)
  -- housekeeping, hold-up, power
  | housekeepingRound (r : Readings)
  | fastThermalSample (reading : BitVec 16)
  | capacitanceTestDue
  | holdupTestRun
  | capacitanceTestEnd (v0 v1 : Nat)
  | vinWarning (mv : Nat)
  | dipEnd (mv : Nat)
  | debounceExpiry
  | ventEnd (vinMv : Nat)
  | ventRecovery (vinMv : Nat)
  | powerEntryDrainEnd
  | powerTransitionEnd
  | watchCycle (r : Readings)
  | wakeTimerExpiry
  | hostL12Exit
  | sidebandWakePacket
  | vcoreGood (p : WakeProbe)
  -- register and persistence events
  | aonPostedWrite
  | pWriteStore (ok : Bool)
  | tenantCounterJournal
  | witnessRecompute
  | witnessSettleExpiry
  | noiseSample (bit : Bool)
  | drbgReseed
  | coLockoutExpiry
  | freezeComplete
  | freezeAbortTimeout
  | spdmHeartbeatTimeout (session : Nat)
  | smbusClockLowTimeout
  | gatedBlockAccess (who : Requester) (isWrite : Bool) (off : Nat)
  | registerWrite (w : Window) (al : RegAlias) (off : Nat) (v : W32)
  | gatedAccessClear
  | wvSelWrite (view : WvView) (sel : BitVec 16)
  | wvSnap (view : WvView)
  | secPaceClr (s : Nat)
  | topPaceDevClr
  | paceEnable (al : RegAlias) (v : W32)
  | thermalEnable (al : RegAlias) (v : W32)
  | ventEnable (al : RegAlias) (v : W32)
  | dramMapArm (al : RegAlias) (v : W32)
  | keySlotSelect (al : RegAlias) (v : W32)
  | keyWordWrite (i : Nat) (v : W32)
  | keyCommit
  | keyCommitForce
  | coSubmit
  | coLogout
  | coSetkey
  | rejClr
  | cdcReserveWrite (s : Nat) (al : RegAlias) (v : W32)
  | fltcSizeWrite (al : RegAlias) (v : W32)
  -- mailbox commands
  | devIdentify (r : MbxReq)
  | devState (r : MbxReq)
  | fwWriteSlot (r : MbxReq)
  | fwSlotQuery (r : MbxReq)
  | fwActivate (r : MbxReq)
  | tenantCreate (r : MbxReq)
  | tenantConfigure (r : MbxReq)
  | tenantSetShare (r : MbxReq)
  | tenantEnable (r : MbxReq)
  | tenantReset (r : MbxReq)
  | tenantDestroy (r : MbxReq)
  | tenantQuery (r : MbxReq)
  | nsCreate (r : MbxReq)
  | nsDelete (r : MbxReq)
  | nsAttach (r : MbxReq)
  | nsDetach (r : MbxReq)
  | profileWrite (r : MbxReq)
  | profileEnable (r : MbxReq)
  | profileAttach (r : MbxReq)
  | keyLoadWrapped (r : MbxReq)
  | keyZeroizeSlot (r : MbxReq)
  | keyZeroizeAll (r : MbxReq)
  | keySetCeiling (r : MbxReq)
  | lockDefine (r : MbxReq)
  | lockSet (r : MbxReq)
  | sanitize (r : MbxReq)
  | powerStateSet (r : MbxReq)
  | holdupSet (r : MbxReq)
  | ventTest (r : MbxReq)
  | watchConfig (r : MbxReq)
  | scrub (r : MbxReq) (met : List SramMet)
  | rankMigrate (r : MbxReq)
  | repairAdd (r : MbxReq)
  | fleetSetId (r : MbxReq)
  | fleetSetExpected (r : MbxReq)
  | fleetLoadMigrationKey (r : MbxReq)
  | tenantFreeze (r : MbxReq)
  | tenantSave (r : MbxReq)
  | tenantRestore (r : MbxReq)
  | tenantThaw (r : MbxReq)
  | dirtyLogCtrl (r : MbxReq)
  | dirtyLogHarvest (r : MbxReq)
  | logRead (r : MbxReq)
  | selftest (r : MbxReq) (t : SelfTest)
  -- sideband
  | nvmeMiBasicManagement
  | fleetWitnessRead
  | getVersion
  | getCapabilities
  | negotiateAlgorithms
  | getCertificate
  | challenge (nonce : List Byte)
  | getMeasurements (nonce : List Byte)
  | keyExchange (peer : List Byte) (pairOk : Bool)
  | heartbeat (session : Nat)
  | keyUpdate (session : Nat)
  | endSession (session : Nat)
  | zeroizeNRelease
  | referenceClockLoss
  | referenceClockReturn
  | linkUp (port : Nat)
  | channelRetrainComplete (p : ChanProbe)
  | rankRetrainComplete (rank : Nat)
  | scrubComplete
  | avsbusAcknowledge
  | cleanShutdown
  | unsupportedCommand (id : CmdId)
  | undefinedMailboxOpcode (opc : BitVec 16) (r : MbxReq)
  | sidebandHealthRequest
  | activationWithResetComplete
  deriving DecidableEq, Repr

end Sys2Proof
end

