-- ==== Sys2Proof/Machine/Table.lean ====
section
/-!
DEFINITION. Reading and writing a sparse table in its canonical form, and the byte and bit-field helpers that
every other file uses.
-/
namespace Sys2Proof.Machine

open Sys2Proof

/-- The value at key `i`; `d` where the table lists none. -/
def tget {α : Type} (d : α) : Table α → Nat → α
  | [], _ => d
  | (k, v) :: t, i => if k = i then v else tget d t i

/-- Put `v` at key `i`, keeping keys rising. -/
def tins {α : Type} : Table α → Nat → α → Table α
  | [], i, v => [(i, v)]
  | (k, w) :: t, i, v => if i < k then (i, v) :: (k, w) :: t else if i = k then (i, v) :: t else (k, w) :: tins t i v

/-- Write `v` at key `i`: the default is written by listing nothing. -/
def tset {α : Type} [DecidableEq α] (d : α) (t : Table α) (i : Nat) (v : α) : Table α :=
  if v = d then t.filter fun e => e.1 ≠ i else tins t i v

/-- The canonical form: keys strictly rising, no entry equal to the default. -/
def twf {α : Type} [DecidableEq α] (d : α) : Table α → Bool
  | [] => true
  | [(_, v)] => v ≠ d
  | (k, v) :: (k', v') :: t => v ≠ d && k < k' && twf d ((k', v') :: t)

/-- Keys a table lists, rising. -/
def tkeys {α : Type} (t : Table α) : List Nat := t.map Prod.fst

/-- Apply `f` to every listed value, dropping those that become the default. -/
def tmap {α : Type} [DecidableEq α] (d : α) (f : Nat → α → α) (t : Table α) : Table α :=
  (t.map fun p => (p.1, f p.1 p.2)).filter fun p => p.2 ≠ d

/-- Bits [hi:lo] of a word. -/
def fld (w : W32) (hi lo : Nat) : Nat := (w.toNat >>> lo) % 2 ^ (hi + 1 - lo)

/-- Bit `i` of a word. -/
def bitOf (w : W32) (i : Nat) : Bool := w.getLsbD i

/-- A word with ones at [hi:lo]. -/
def maskOf (hi lo : Nat) : W32 := BitVec.ofNat 32 ((2 ^ (hi + 1 - lo) - 1) <<< lo)

/-- Put a value into bits [hi:lo] of a word. -/
def putFld (w : W32) (hi lo v : Nat) : W32 :=
  (w &&& ~~~(maskOf hi lo)) ||| (BitVec.ofNat 32 ((v % 2 ^ (hi + 1 - lo)) <<< lo))

/-- A word from a natural number. -/
def w32 (n : Nat) : W32 := BitVec.ofNat 32 n

/-- 1 for true. -/
def b2n (b : Bool) : Nat := if b then 1 else 0

/-- `n` little-endian bytes of a number. -/
def leBytes : Nat → Nat → List Byte
  | 0, _ => []
  | n + 1, x => BitVec.ofNat 8 x :: leBytes n (x / 256)

/-- The number that little-endian bytes stand for. -/
def leNat : List Byte → Nat
  | [] => 0
  | b :: bs => b.toNat + 256 * leNat bs

/-- `n` bytes from offset `o`, zeros past the end. -/
def bytesAt (bs : List Byte) (o n : Nat) : List Byte :=
  let r := (bs.drop o).take n
  r ++ List.replicate (n - r.length) 0

/-- The little-endian number in `n` bytes from offset `o`. -/
def leAt (bs : List Byte) (o n : Nat) : Nat := leNat (bytesAt bs o n)

/-- `n` zero bytes. -/
def zeros (n : Nat) : List Byte := List.replicate n 0

/-- Replace the bytes from offset `o` of `bs` by `v`. -/
def putBytes (bs : List Byte) (o : Nat) (v : List Byte) : List Byte :=
  bs.take o ++ v ++ bs.drop (o + v.length)

/-- Smallest multiple of `m` at or above `n`. -/
def roundUp (n m : Nat) : Nat := (n + m - 1) / m * m

/-- Division rounded up. -/
def ceilDiv (n m : Nat) : Nat := (n + m - 1) / m

/-- `x` held between `lo` and `hi`. -/
def clampN (lo hi x : Nat) : Nat := if x < lo then lo else if hi < x then hi else x

/-- A 16-bit value read as signed. -/
def sgn16 (v : BitVec 16) : Int := v.toInt

/-- Increment saturating at `m`. -/
def satInc (m n : Nat) : Nat := if n < m then n + 1 else m

/-- Addition saturating at `m`. -/
def satAdd (m n k : Nat) : Nat := if n + k < m then n + k else m

end Sys2Proof.Machine
end

