-- ==== Sys2Proof/Machine/Crypto.lean ====
section
/-!
DEFINITION. The approved algorithms of R391 that a rule applies to data, written from the standards that R391
names (assumption log 7): SHA-384, HMAC-SHA-384, AES-256, GCM with a 96-bit IV, AES-KWP unwrap; and the CRC-32C
of R220. Byte strings are lists of bytes, first byte first.
-/
namespace Sys2Proof.Machine

open Sys2Proof

/-! ### CRC-32C (R220: reflected polynomial 82F6_3B78h, initial value and final XOR FFFF_FFFFh) -/

/-- Eight shifts of the CRC register. -/
def crcShift : Nat → W32 → W32
  | 0, c => c
  | n + 1, c => crcShift n (if c.getLsbD 0 then (c >>> 1) ^^^ 0x82F63B78#32 else c >>> 1)

/-- One byte into the CRC register. -/
def crcByte (c : W32) (b : Byte) : W32 := crcShift 8 (c ^^^ b.setWidth 32)

/-- CRC-32C of a byte string. -/
def crc32c (bs : List Byte) : W32 := (bs.foldl crcByte 0xFFFFFFFF#32) ^^^ 0xFFFFFFFF#32

/-! ### SHA-384 (FIPS 180-4) and HMAC (FIPS 198-1) -/

/-- The greatest `r` below 2^`b` above `r0` with `r` to the power `k` at most `n`, bit by bit. -/
def rootBits (k n : Nat) : Nat → Nat → Nat
  | 0, r0 => r0
  | b + 1, r0 => rootBits k n b (if (r0 + 2 ^ b) ^ k ≤ n then r0 + 2 ^ b else r0)

/-- The first 64 bits of the fractional part of the `k`-th root of `p`, the form in which FIPS 180-4 gives its constants. -/
def rootFrac (k p : Nat) : BitVec 64 := BitVec.ofNat 64 (rootBits k (p * 2 ^ (64 * k)) 70 0)

/-- The first eighty primes. -/
def primes80 : List Nat := (List.range 410).filter fun n => 1 < n && (List.range n).all fun d => d < 2 || n % d ≠ 0

/-- The round constants: cube roots of the first eighty primes. -/
def shaK : List (BitVec 64) := primes80.map (rootFrac 3)

/-- The initial value of SHA-384: square roots of the ninth to the sixteenth prime. -/
def shaH0 : List (BitVec 64) := ((primes80.drop 8).take 8).map (rootFrac 2)

/-- `n` big-endian bytes of a number. -/
def beBytes (n x : Nat) : List Byte := (leBytes n x).reverse

/-- The number that big-endian bytes stand for. -/
def beNat (bs : List Byte) : Nat := leNat bs.reverse

/-- SHA-512 padding of a message. -/
def shaPad (m : List Byte) : List Byte :=
  let z := (111 + 128 - m.length % 128) % 128
  m ++ [0x80#8] ++ zeros z ++ beBytes 16 (8 * m.length)

/-- A sigma function: two rotations and a third, or a shift. -/
def shaSigma (r1 r2 r3 : Nat) (shift : Bool) (x : BitVec 64) : BitVec 64 :=
  (if shift then x >>> r3 else x.rotateRight r3) ^^^ x.rotateRight r2 ^^^ x.rotateRight r1

/-- A round on the eight working variables, with the sum of its constant and its word. -/
def shaRound (kw : BitVec 64) : List (BitVec 64) → List (BitVec 64)
  | [a, b, c, d, e, f, g, h] =>
    let t := kw + h + shaSigma 14 18 41 false e + (g ^^^ (e &&& (f ^^^ g)))
    (t + shaSigma 28 34 39 false a + ((b &&& c) ||| (a &&& (b ||| c)))) :: a :: b :: c :: (d + t) :: e :: f :: [g]
  | v => v

/-- One round with the oldest of the sixteen words held, which the next word of the schedule then replaces. -/
def shaTurn (p : List (BitVec 64) × List (BitVec 64)) (k : BitVec 64) : List (BitVec 64) × List (BitVec 64) :=
  let at' (i : Nat) : BitVec 64 := p.1.getD i 0
  (p.1.drop 1 ++ [at' 0 + shaSigma 1 8 7 true (at' 1) + at' 9 + shaSigma 19 61 6 true (at' 14)], shaRound (k + at' 0) p.2)

/-- The first `n` 64-bit big-endian words of a byte string. -/
def beWords : Nat → List Byte → List (BitVec 64)
  | 0, _ => []
  | n + 1, bs => BitVec.ofNat 64 (beNat (bytesAt bs 0 8)) :: beWords n (bs.drop 8)

/-- One 128-byte block into the hash value. -/
def shaBlock (h : List (BitVec 64)) (blk : List Byte) : List (BitVec 64) :=
  List.zipWith (· + ·) h (shaK.foldl shaTurn (beWords 16 blk, h)).2

/-- `n` blocks into the hash value. -/
def shaBlocks : Nat → List (BitVec 64) → List Byte → List (BitVec 64)
  | 0, h, _ => h
  | n + 1, h, bs => shaBlocks n (shaBlock h (bs.take 128)) (bs.drop 128)

/-- SHA-384: 48 bytes. -/
def sha384 (m : List Byte) : List Byte :=
  let p := shaPad m
  (((shaBlocks (p.length / 128) shaH0 p).map fun x => beBytes 8 x.toNat).flatten).take 48

/-- HMAC-SHA-384. -/
def hmac384 (key m : List Byte) : List Byte :=
  let k := bytesAt (if key.length > 128 then sha384 key else key) 0 128
  sha384 ((k.map (· ^^^ 0x5C#8)) ++ sha384 ((k.map (· ^^^ 0x36#8)) ++ m))

/-! ### AES-256 (FIPS 197) -/

/-- The AES S-box (FIPS 197), the entry of byte value n at bits [8n+7:8n]. -/
def sboxBits : Nat := 0x16bb54b00f2d99416842e6bf0d89a18cdf2855cee9871e9b948ed9691198f8e19e1dc186b95735610ef6034866b53e708a8bbd4b1f74dde8c6b4a61c2e2578ba08ae7a65eaf4566ca94ed58d6d37c8e779e4959162acd3c25c2406490a3a32e0db0b5ede14b8ee4688902a22dc4f816073195d643d7ea7c41744975fec130ccdd2f3ff1021dab6bcf5389d928f40a351a89f3c507f02f94585334d43fbaaefd0cf584c4a39becb6a5bb1fc20ed00d153842fe329b3d63b52a05a6e1b1a2c830975b227ebe28012079a059618c323c7041531d871f1e5a534ccf73f362693fdb7c072a49cafa2d4adf04759fa7dc982ca76abd7fe2b670130c56f6bf27b777c63
/-- The inverse S-box, in the same form. -/
def isboxBits : Nat := 0x7d0c2155631469e126d677ba7e042b17619953833cbbebc8b0f52aae4d3be0a0ef9cc9939f7ae52d0d4ab519a97f51605fec8027591012b131c7078833a8dd1ff45acd78fec0db9a2079d2c64b3e56fc1bbe18aa0e62b76f89c5291d711af1476edf751ce837f9e28535ade72274ac9673e6b4f0cecff297eadc674f4111913a6b8a130103bdafc1020f3fca8f1e2cd00645b3b80558e4f70ad3bc8c00abd890849d8da75746155edab9edfd5048706c92b6655dcc5ca4d41698688664f6f87225d18b6d49a25b76b224d92866a12e084ec3fa420b954cee3d23c2a632947b54cbe9dec444438e3487ff2f9b8239e37cfbd7f3819ea340bf38a53630d56a0952

/-- SubBytes of one byte. -/
def subByte (b : Byte) : Byte := BitVec.ofNat 8 (sboxBits >>> (8 * b.toNat))
/-- InvSubBytes of one byte. -/
def invSubByte (b : Byte) : Byte := BitVec.ofNat 8 (isboxBits >>> (8 * b.toNat))

/-- Multiplication by x in GF(2^8). -/
def xtime (b : Byte) : Byte := if b.getLsbD 7 then (b <<< 1) ^^^ 0x1B#8 else b <<< 1

/-- Byte `i` of a byte string, 0 past its end. -/
def byteAt (bs : List Byte) (i : Nat) : Byte := bs.getD i 0

/-- XOR of two byte strings, as long as the shorter. -/
def xorBytes (a b : List Byte) : List Byte := List.zipWith (· ^^^ ·) a b

/-- `n` further words of the AES-256 key schedule; `ws` newest first, `i` the index of the next word. -/
def keyWords : Nat → Nat → Byte → List (List Byte) → List (List Byte)
  | 0, _, _, ws => ws
  | n + 1, i, rc, ws =>
    let t := ws.getD 0 []
    let rot := [byteAt t 1, byteAt t 2, byteAt t 3, byteAt t 0].map subByte
    let t' := if i % 8 = 0 then xorBytes rot [rc, 0, 0, 0]
              else if i % 8 = 4 then t.map subByte else t
    keyWords n (i + 1) (if i % 8 = 0 then xtime rc else rc) (xorBytes (ws.getD 7 []) t' :: ws)

/-- The fifteen 16-byte round keys of AES-256. -/
def roundKeys (key : List Byte) : List (List Byte) :=
  let w0 := (List.range 8).map fun i => bytesAt key (4 * i) 4
  let ws := (keyWords 52 8 1#8 w0.reverse).reverse
  (List.range 15).map fun r => ((ws.drop (4 * r)).take 4).flatten

/-- ShiftRows on a 16-byte state, column by column. -/
def shiftRows (s : List Byte) : List Byte :=
  (List.range 16).map fun i => byteAt s ((i + 4 * (i % 4)) % 16)
/-- InvShiftRows. -/
def invShiftRows (s : List Byte) : List Byte :=
  (List.range 16).map fun i => byteAt s ((i + 16 - 4 * (i % 4)) % 16)

/-- MixColumns. -/
def mixColumns (s : List Byte) : List Byte :=
  (List.range 16).map fun i =>
    let c := i / 4 * 4
    let r := i % 4
    let x (k : Nat) := byteAt s (c + (r + k) % 4)
    xtime (x 0) ^^^ (xtime (x 1) ^^^ x 1) ^^^ x 2 ^^^ x 3
/-- InvMixColumns. -/
def invMixColumns (s : List Byte) : List Byte :=
  (List.range 16).map fun i =>
    let c := i / 4 * 4
    let r := i % 4
    let x (k : Nat) := byteAt s (c + (r + k) % 4)
    let x2 (b : Byte) := xtime b
    let x4 (b : Byte) := xtime (xtime b)
    let x8 (b : Byte) := xtime (xtime (xtime b))
    (x8 (x 0) ^^^ x4 (x 0) ^^^ x2 (x 0)) ^^^ (x8 (x 1) ^^^ x2 (x 1) ^^^ x 1)
      ^^^ (x8 (x 2) ^^^ x4 (x 2) ^^^ x 2) ^^^ (x8 (x 3) ^^^ x 3)

/-- AES-256 encryption of one block under expanded round keys. -/
def aesEnc (rks : List (List Byte)) (blk : List Byte) : List Byte :=
  let s0 := xorBytes blk (rks.getD 0 [])
  let s := ((rks.drop 1).take 13).foldl (fun s k => xorBytes (mixColumns (shiftRows (s.map subByte))) k) s0
  xorBytes (shiftRows (s.map subByte)) (rks.getD 14 [])

/-- AES-256 decryption of one block. -/
def aesDec (rks : List (List Byte)) (blk : List Byte) : List Byte :=
  let s0 := xorBytes blk (rks.getD 14 [])
  let s := ((rks.drop 1).take 13).reverse.foldl
    (fun s k => invMixColumns (xorBytes ((invShiftRows s).map invSubByte) k)) s0
  xorBytes ((invShiftRows s).map invSubByte) (rks.getD 0 [])

/-! ### GCM (SP 800-38D) -/

/-- `n` steps of GF(2^128) multiplication: bits of `x` from the most significant, accumulator `z`, multiplicand
`v`. -/
def gfMul : Nat → BitVec 128 → BitVec 128 → BitVec 128 → BitVec 128
  | 0, _, z, _ => z
  | n + 1, x, z, v =>
    let z' := if x.getLsbD 127 then z ^^^ v else z
    let v' := if v.getLsbD 0 then (v >>> 1) ^^^ ((0xE1#128) <<< 120) else v >>> 1
    gfMul n (x <<< 1) z' v'

/-- GHASH over `n` blocks. -/
def ghash : Nat → BitVec 128 → BitVec 128 → List Byte → BitVec 128
  | 0, _, y, _ => y
  | n + 1, h, y, bs =>
    ghash n h (gfMul 128 (y ^^^ BitVec.ofNat 128 (beNat (bytesAt bs 0 16))) 0 h) (bs.drop 16)

/-- A byte string padded with zeros to a multiple of 16. -/
def pad16 (bs : List Byte) : List Byte := bs ++ zeros (roundUp bs.length 16 - bs.length)

/-- Counter-mode over `n` blocks from counter `c`. -/
def gctr : Nat → List (List Byte) → List Byte → Nat → List Byte → List Byte
  | 0, _, _, _, _ => []
  | n + 1, rks, iv, c, bs =>
    xorBytes (bs.take 16) (aesEnc rks (iv ++ beBytes 4 c)) ++ gctr n rks iv (c + 1) (bs.drop 16)

/-- The GCM tag of ciphertext `ct` and additional data `aad`. -/
def gcmTag (rks : List (List Byte)) (iv aad ct : List Byte) : List Byte :=
  let h := BitVec.ofNat 128 (beNat (aesEnc rks (zeros 16)))
  let m := pad16 aad ++ pad16 ct ++ beBytes 8 (8 * aad.length) ++ beBytes 8 (8 * ct.length)
  let y := ghash (m.length / 16) h 0 m
  xorBytes (beBytes 16 y.toNat) (aesEnc rks (iv ++ beBytes 4 1))

/-- AES-256-GCM encryption: ciphertext and tag. -/
def gcmSeal (key iv aad pt : List Byte) : List Byte × List Byte :=
  let rks := roundKeys key
  let ct := gctr (ceilDiv pt.length 16) rks iv 2 pt
  (ct, gcmTag rks iv aad ct)

/-- AES-256-GCM decryption: the plaintext when the tag verifies. -/
def gcmOpen (key iv aad ct tag : List Byte) : Option (List Byte) :=
  let rks := roundKeys key
  if gcmTag rks iv aad ct = tag then some (gctr (ceilDiv ct.length 16) rks iv 2 ct) else none

/-! ### AES-KWP unwrap (SP 800-38F) -/

/-- `n` steps of W, from step `t` upward, over `m` semiblocks. -/
def kwWraps : Nat → Nat → Nat → List (List Byte) → List Byte → List (List Byte) → List Byte × List (List Byte)
  | 0, _, _, _, a, r => (a, r)
  | n + 1, t, m, rks, a, r =>
    let i := t % m
    let b := aesEnc rks (a ++ r.getD i [])
    kwWraps n (t + 1) m rks (beBytes 8 (beNat (b.take 8) ^^^ (t + 1))) (r.set i (b.drop 8))

/-- AES-KWP wrap of a key (SP 800-38F). -/
def kwpWrap (kek key : List Byte) : List Byte :=
  let rks := roundKeys kek
  let m := (key.length + 7) / 8
  let a := [0xA6#8, 0x59#8, 0x59#8, 0xA6#8] ++ beBytes 4 key.length
  let r := (List.range m).map fun i => bytesAt key (8 * i) 8
  if m = 1 then aesEnc rks (a ++ r.flatten)
  else
    let (a, r) := kwWraps (6 * m) 0 m rks a r
    a ++ r.flatten

/-- The KDF in counter mode with HMAC-SHA-384 (SP 800-108), 256 bits (R391). -/
def kdf256 (secret label context : List Byte) : List Byte :=
  (hmac384 secret (beBytes 4 1 ++ label ++ [0#8] ++ context ++ beBytes 4 256)).take 32

/-- `n` steps of W^-1, from step `t` downward, over `m` semiblocks. -/
def kwSteps : Nat → Nat → List (List Byte) → List Byte → List (List Byte) → List Byte × List (List Byte)
  | 0, _, _, a, r => (a, r)
  | t + 1, m, rks, a, r =>
    let i := t % m
    let a' := beBytes 8 (beNat a ^^^ (t + 1))
    let b := aesDec rks (a' ++ r.getD i [])
    kwSteps t m rks (b.take 8) (r.set i (b.drop 8))

/-- AES-KWP unwrap: the key when its integrity check passes. -/
def kwpUnwrap (kek wrapped : List Byte) : Option (List Byte) :=
  let rks := roundKeys kek
  let m := wrapped.length / 8 - 1
  if wrapped.length % 8 ≠ 0 ∨ wrapped.length < 16 then none else
  let p := if m = 1 then aesDec rks wrapped else
    let (a, r) := kwSteps (6 * m) m rks (wrapped.take 8) ((List.range m).map fun i => bytesAt wrapped (8 + 8 * i) 8)
    a ++ r.flatten
  let len := beNat (bytesAt p 4 4)
  if p.take 4 = [0xA6, 0x59, 0x59, 0xA6] ∧ 8 * (m - 1) < len ∧ len ≤ 8 * m ∧ (p.drop (8 + len)).all (· == 0)
  then some ((p.drop 8).take len) else none

end Sys2Proof.Machine
end

