-- ==== Sys2Proof/Machine/Codec.lean ====
section
/-!
DEFINITION. The Dumon codec, bit exact (chapters 10 and 11): sample geometry, the walk over a frame's samples,
prediction, Rice codes, the coded or raw decision, the dovetail header with its check word, and decoding with every
failure of R247 and R248.
-/
namespace Sys2Proof.Machine

open Sys2Proof

/-! ### Geometry (R211 to R215) -/

/-- The geometry record of a coded frame (R215): HPER and VPER are 1 or 2. -/
structure Geom where
  cont : Nat := 0
  sig : Nat := 8
  hper : Nat := 1
  vper : Nat := 1
  linelen : Nat := 1
  startCol : Nat := 0
  startRow : Nat := 0
  head : Nat := 0
  brk : Nat := 0
  img : Nat := 0
  deriving DecidableEq, Repr

/-- Bytes of one container (R240). -/
def contBytes (c : Nat) : Nat := if c = 0 then 1 else if c = 1 then 2 else 3

/-- Line bytes (R212). -/
def lineBytes (c linelen : Nat) : Nat := if c = 2 then 3 * linelen / 2 else contBytes c * linelen

/-- Start of the image that holds stream position z (R212). -/
def imageStart (origin size z : Nat) : Nat :=
  if z < origin then 0 else if size = 0 then origin else origin + (z - origin) / size * size

/-- First image start after stream position z, if any (R212). -/
def nextImage (origin size z : Nat) : Option Nat :=
  if z < origin then some origin else if size = 0 then none else some (origin + ((z - origin) / size + 1) * size)

/-- Column of a line byte (R212). -/
def colOf (c b : Nat) : Nat :=
  if c = 0 then b else if c = 1 then b / 2 else 2 * (b / 3) + (if b % 3 = 2 then 1 else 0)

/-- The geometry record of the frame of `n` bytes at stream position z under a profile descriptor (R212, R213, R215).
FIRST_BREAK is the first image start after the frame's first byte (log 26). -/
def geomOf (desc : List Byte) (z n : Nat) : Geom :=
  let c := leAt desc 3 1
  let hper := leAt desc 5 1 % 2 + 1
  let vper := leAt desc 5 1 / 2 % 2 + 1
  let linelen := leAt desc 8 4
  let origin := leAt desc 40 8
  let img := leAt desc 48 8
  let lb := lineBytes c linelen
  let brk := match nextImage origin img z with
    | some i => if i < z + n then i - z else 0
    | none => 0
  let h0 := if c = 2 then (3 - (z - imageStart origin img z) % lb % 3) % 3 else 0
  let head := if brk ≠ 0 ∧ brk < h0 then brk else h0
  let o := z + head - imageStart origin img (z + head)
  { cont := c, sig := leAt desc 4 1, hper := hper, vper := vper, linelen := linelen,
    startCol := colOf c (o % lb), startRow := o / lb % vper, head := head, brk := brk, img := img }

/-! ### The walk (R238, R239) -/

/-- One element of a coded payload: an edge byte, or a sample with its place and limit offset; `second`: the second
sample of a packed pair. -/
structure Elem where
  edge : Bool
  off : Nat
  second : Bool := false
  col : Nat := 0
  row : Nat := 0
  lim : Nat := 0
  deriving DecidableEq, Repr

/-- Edge bytes from offset `o`. -/
def edges (o n : Nat) : List Elem := (List.range n).map fun i => { edge := true, off := o + i }

/-- The elements from frame offset `o` on (R239): column, row phase, limit offset, next image start. -/
def walkFrom (g : Geom) (n : Nat) : Nat → Nat → Nat → Nat → Nat → Option Nat → List Elem
  | 0, _, _, _, _, _ => []
  | fuel + 1, o, col, row, lim, nb =>
    if n ≤ o then []
    else
      let w := contBytes g.cont
      let adv (c r : Nat) : Nat × Nat := if c + 1 = g.linelen then (0, (r + 1) % g.vper) else (c + 1, r)
      match nb with
      | some b =>
        if o = b then walkFrom g n fuel o 0 0 (max g.head b) (if g.img = 0 then none else some (b + g.img))
        else if o < b ∧ b < o + w ∧ b ≤ n then edges o (b - o) ++ walkFrom g n fuel b col row lim nb
        else if n < o + w then edges o (n - o)
        else if g.cont = 2 then
          let (c2, r2) := adv col row
          let (c3, r3) := adv c2 r2
          ⟨false, o, false, col, row, lim⟩ :: ⟨false, o, true, c2, r2, lim⟩ :: walkFrom g n fuel (o + w) c3 r3 lim nb
        else
          let (c2, r2) := adv col row
          ⟨false, o, false, col, row, lim⟩ :: walkFrom g n fuel (o + w) c2 r2 lim nb
      | none =>
        if n < o + w then edges o (n - o)
        else if g.cont = 2 then
          let (c2, r2) := adv col row
          let (c3, r3) := adv c2 r2
          ⟨false, o, false, col, row, lim⟩ :: ⟨false, o, true, c2, r2, lim⟩ :: walkFrom g n fuel (o + w) c3 r3 lim none
        else
          let (c2, r2) := adv col row
          ⟨false, o, false, col, row, lim⟩ :: walkFrom g n fuel (o + w) c2 r2 lim none

/-- Every element of a frame of `n` original bytes, in stream order (R238). -/
def walk (g : Geom) (n : Nat) : List Elem :=
  edges 0 (min g.head n) ++
    walkFrom g n (3 * n + 3) g.head g.startCol g.startRow g.head (if g.brk = 0 then none else some g.brk)

/-! ### Prediction, residues and contexts (R240 to R243) -/

/-- Step back from a sample to its left neighbour (R240): bytes, and which sample of the pair it is. -/
def leftStep (g : Geom) (second : Bool) : Nat × Bool :=
  if g.cont = 2 then
    if g.hper = 1 then (if second then (0, false) else (3, true)) else (3, second)
  else (contBytes g.cont * g.hper, false)

/-- Median of R241 over integers. -/
def med (a b c : Nat) : Nat :=
  let t : Int := (a : Int) + b - c
  if t < (min a b : Nat) then min a b else if (max a b : Nat) < t then max a b else t.toNat

/-- Prediction of a sample from the values already known (R241). -/
def predict (g : Geom) (val : Nat → Bool → Nat) (e : Elem) : Nat :=
  let (sa, s2) := leftStep g e.second
  let sb := g.vper * lineBytes g.cont g.linelen
  let a? := g.hper ≤ e.col && e.lim + sa ≤ e.off
  let b? := e.lim + sb ≤ e.off
  let c? := g.hper ≤ e.col && e.lim + sb + sa ≤ e.off
  let a := val (e.off - sa) s2
  let b := val (e.off - sb) e.second
  if a? && b? && c? then med a b (val (e.off - sb - sa) s2)
  else if a? && !b? then a
  else if b? then b
  else 2 ^ (g.sig - 1)

/-- Residue in [−2^(s−1), 2^(s−1) − 1] (R242). -/
def residue (s x p : Nat) : Int :=
  let e : Int := (x : Int) - p
  if e < -(2 ^ (s - 1) : Nat) then e + (2 ^ s : Nat) else if (2 ^ (s - 1) : Nat) ≤ e then e - (2 ^ s : Nat) else e

/-- Zigzag (R242). -/
def zigzag (e : Int) : Nat := if 0 ≤ e then (2 * e).toNat else (-2 * e - 1).toNat
/-- Its inverse. -/
def unzigzag (m : Nat) : Int := if m % 2 = 0 then (m / 2 : Nat) else -((m / 2 + 1 : Nat) : Int)

/-- A coder context (R243). -/
structure Ctx where
  acc : Nat
  n : Nat
  deriving DecidableEq, Repr

/-- Contexts at a frame's start (R243). -/
def ctx0 (g : Geom) : List Ctx := List.replicate (g.hper * g.vper) ⟨max 2 (2 ^ (g.sig - 8)), 1⟩

/-- The Rice parameter: the smallest k with n × 2^k ≥ acc (R243). -/
def riceK (c : Ctx) : Nat → Nat → Nat
  | 0, k => k
  | f + 1, k => if c.acc ≤ c.n * 2 ^ k then k else riceK c f (k + 1)

/-- A context after a sample with residue e (R243). -/
def ctxNext (c : Ctx) (e : Int) : Ctx :=
  let a := c.acc + e.natAbs
  if c.n + 1 = 64 then ⟨a / 2, 32⟩ else ⟨a, c.n + 1⟩

/-- Phase of a sample (R239). -/
def phaseOf (g : Geom) (e : Elem) : Nat := e.row * g.hper + e.col % g.hper

/-! ### Bits (R237, R244, R245) -/

/-- `n` bits of `v`, most significant first. -/
def bitsOf (n v : Nat) : List Bool := (List.range n).map fun i => v.testBit (n - 1 - i)

/-- Bits as a number, most significant first. -/
def bitsNat (bs : List Bool) : Nat := bs.foldl (fun a b => 2 * a + b2n b) 0

/-- Bytes of a bit sequence, the last padded with zeros; the count bounds the bytes. -/
def packBits : Nat → List Bool → List Byte
  | 0, _ => []
  | n + 1, bs =>
    let h := bs.take 8
    BitVec.ofNat 8 (bitsNat (h ++ List.replicate (8 - h.length) false)) :: packBits n (bs.drop 8)

/-- All bits of bytes. -/
def unpackBits (bs : List Byte) : List Bool := (bs.map fun b => bitsOf 8 b.toNat).flatten

/-- Code of a sample value x with mapped residue m at parameter k (R244). -/
def codeBits (s m x k : Nat) : List Bool :=
  let q := m / 2 ^ k
  if 24 ≤ q then List.replicate 24 true ++ bitsOf s x
  else List.replicate q true ++ [false] ++ bitsOf k (m % 2 ^ k)

/-! ### Encoding -/

/-- Sample value at an offset of the original bytes (R211). -/
def sampleAt (c : Nat) (bs : List Byte) (o : Nat) (second : Bool) : Nat :=
  let b (i : Nat) : Nat := (byteAt bs (o + i)).toNat
  if c = 0 then b 0
  else if c = 1 then b 0 + 256 * b 1
  else if second then b 1 / 16 + 16 * b 2 else b 0 + 256 * (b 1 % 16)

/-- Bits of the elements, carrying the contexts (R238, R243, R244). -/
def encodeElems (g : Geom) (bs : List Byte) : List Elem → List Ctx → List Bool
  | [], _ => []
  | e :: t, cs =>
    if e.edge then bitsOf 8 (byteAt bs e.off).toNat ++ encodeElems g bs t cs
    else
      let x := sampleAt g.cont bs e.off e.second
      let r := residue g.sig x (predict g (sampleAt g.cont bs) e)
      let ph := phaseOf g e
      let c := cs.getD ph ⟨2, 1⟩
      codeBits g.sig (zigzag r) x (riceK c 40 0) ++ encodeElems g bs t (cs.set ph (ctxNext c r))

/-- Whether some sample has a bit at or above SIGBITS (R216). -/
def overWide (g : Geom) (bs : List Byte) : Bool :=
  (walk g bs.length).any fun e => !e.edge && 2 ^ g.sig ≤ sampleAt g.cont bs e.off e.second

/-- The coded payload of a frame (R237 to R246). -/
def codedPayload (g : Geom) (bs : List Byte) : List Byte :=
  let bits := encodeElems g bs (walk g bs.length) (ctx0 g)
  packBits (16 * ceilDiv bits.length 128) bits

/-- Whether a frame is stored coded (R216, R217). -/
def storedCoded (codec : Nat) (g : Geom) (bs payload : List Byte) : Bool :=
  codec ≠ 0 && !overWide g bs &&
    (if codec = 1 then payload.length ≤ bs.length else 64 * payload.length ≤ 63 * bs.length)

/-- Raw payload (R236). -/
def rawPayload (bs : List Byte) : List Byte := pad16 bs

/-! ### The dovetail header (R232 to R235) -/

/-- The header fields of R233. `fsize` is FLAGS.FSIZE. -/
structure Hdr where
  raw : Bool
  short : Bool
  resealed : Bool
  enc : Bool
  zone : Bool
  fsize : Nat
  prof : Nat
  origLen : Nat
  stored16 : Nat
  geom : Geom
  crc : W32
  wseq : Nat
  counter : Nat
  epoch : Nat
  deriving DecidableEq, Repr

/-- FLAGS byte. -/
def flagsOf (h : Hdr) : Nat :=
  b2n h.raw + 2 * b2n h.short + 4 * b2n h.resealed + 8 * b2n h.enc + 16 * b2n h.zone + 32 * h.fsize

/-- GEOM byte. -/
def geomByte (g : Geom) : Nat :=
  g.cont + 4 * (g.hper - 1) + 8 * (g.vper - 1) + 16 * g.startRow + 32 * g.head

/-- The 48 header bytes (R233); a raw frame has no geometry. -/
def hdrBytes (h : Hdr) : List Byte :=
  [1, BitVec.ofNat 8 (flagsOf h)] ++ leBytes 2 h.prof ++ leBytes 4 h.origLen ++ leBytes 2 h.stored16 ++
  (if h.raw then zeros 2 else [BitVec.ofNat 8 h.geom.sig, BitVec.ofNat 8 (geomByte h.geom)]) ++ leBytes 4 h.crc.toNat ++
  (if h.raw then zeros 16
   else leBytes 2 (h.geom.linelen - 1) ++ leBytes 2 h.geom.startCol ++ leBytes 2 h.geom.brk ++ zeros 2 ++ leBytes 8 h.geom.img) ++
  leBytes 4 h.wseq ++ leBytes 8 h.counter ++ leBytes 4 h.epoch

/-- The check word trailer of a frame in clear (R235). -/
def checkTrailer (hdr payload : List Byte) : List Byte := leBytes 4 (crc32c (hdr ++ payload)).toNat ++ zeros 12

/-- Frame size of an FSIZE code. -/
def fsizeBytes (f : Nat) : Nat := if f = 3 then 4096 else 16384 * 2 ^ f

/-- The geometry of a header. -/
def hdrGeom (h : List Byte) : Geom :=
  let g := leAt h 11 1
  { cont := g % 4, sig := leAt h 10 1, hper := g / 4 % 2 + 1, vper := g / 8 % 2 + 1, linelen := leAt h 16 2 + 1,
    startCol := leAt h 18 2, startRow := g / 16 % 2, head := g / 32 % 4, brk := leAt h 20 2, img := leAt h 24 8 }

/-- SIGBITS and LINELEN against CONTAINER, as R179 checks them. -/
def geomFits (cont sig hper linelen : Nat) : Bool :=
  (cont ≠ 0 || sig = 8) && (cont ≠ 2 || (sig ≤ 12 && linelen % 2 = 0)) && (hper ≠ 2 || linelen % 2 = 0)

/-- Malformed header conditions of a coded frame (R247). -/
def badGeom (h : List Byte) (n p : Nat) (zoneShort : Bool) : Bool :=
  let g := hdrGeom h
  g.cont = 3 || g.sig < 8 || 16 < g.sig || !geomFits g.cont g.sig g.hper g.linelen ||
  g.linelen ≤ g.startCol || (g.cont = 2 && g.startCol % 2 = 1) || (g.startRow = 1 && g.vper = 1) ||
  g.head = 3 || (g.head ≠ 0 && g.cont ≠ 2) || (g.brk ≠ 0 && g.brk < g.head) ||
  (g.brk ≠ 0 && g.head = g.brk && (g.startCol ≠ 0 || g.startRow ≠ 0)) ||
  (g.brk ≠ 0 && n ≤ g.brk) || (g.img ≠ 0 && g.img % (g.vper * lineBytes g.cont g.linelen) ≠ 0) ||
  (g.cont = 1 && n % 2 = 1 && !zoneShort) || roundUp n 16 < p

/-- Whether a 48-byte header is malformed (R247). -/
def malformed (h : List Byte) : Bool :=
  let fl := leAt h 1 1
  let raw := fl % 2 = 1
  let short := fl / 2 % 2 = 1
  let enc := fl / 8 % 2 = 1
  let zone := fl / 16 % 2 = 1
  let fs := fl / 32 % 4
  let n := leAt h 4 4
  let s16 := leAt h 8 2
  leAt h 0 1 ≠ 1 || 128 ≤ fl || leAt h 11 1 ≥ 128 || leAt h 22 2 ≠ 0 || s16 < 5 ||
  n = 0 || 65536 < n || fsizeBytes fs < n || (decide short != decide (n < fsizeBytes fs)) ||
  (fs = 3 && (n ≠ 4096 || !raw)) ||
  (!enc && leAt h 36 12 ≠ 0) || (!zone && (enc || fl / 4 % 2 = 1 || leAt h 32 4 ≠ 0)) ||
  (if raw then 16 * s16 ≠ 64 + roundUp n 16 || leAt h 10 2 ≠ 0 || leAt h 16 4 ≠ 0 || leAt h 20 2 ≠ 0 || leAt h 24 8 ≠ 0
   else badGeom h n (16 * s16 - 64) (!zone && short))

/-! ### Decoding (R247, R248) -/

/-- Outcome of decoding a payload: the bytes, or a failure and whether a second decode may be tried (R222, R248). -/
inductive DecRes where
  | ok (bytes : List Byte)
  | fail (retried : Bool)
  deriving DecidableEq, Repr

/-- Leading ones of a bit sequence, at most 24. -/
def countOnes : Nat → List Bool → Nat
  | 0, _ => 0
  | n + 1, true :: t => countOnes n t + 1
  | _, _ => 0

/-- Read one sample: its value and the bits left; none where the payload ends or m is too large (R244, R248). -/
def readCode (s k p : Nat) (bits : List Bool) : Option (Nat × Int × List Bool) :=
  let q := countOnes 24 bits
  if q = 24 then
    let r := bits.drop 24
    if r.length < s then none else
    let x := bitsNat (r.take s)
    some (x, residue s x p, r.drop s)
  else
    let r := bits.drop (q + 1)
    if bits.length < q + 1 ∨ r.length < k then none else
    let m := q * 2 ^ k + bitsNat (r.take k)
    if 2 ^ s ≤ m then none else
    let e := unzigzag m
    some ((((p : Int) + e) % (2 ^ s : Nat)).toNat, e, r.drop k)

/-- Values of the elements read back, newest first: (offset, second, value); edge bytes too. -/
def decodeElems (g : Geom) : List Elem → List Ctx → List (Nat × Bool × Nat) → List Bool →
    Option (List (Nat × Bool × Nat) × List Bool)
  | [], _, vs, bits => some (vs, bits)
  | e :: t, cs, vs, bits =>
    if e.edge then
      if bits.length < 8 then none
      else decodeElems g t cs ((e.off, false, bitsNat (bits.take 8)) :: vs) (bits.drop 8)
    else
      let val (o : Nat) (b : Bool) : Nat := match vs.find? (fun v => v.1 = o ∧ v.2.1 = b) with | some v => v.2.2 | none => 0
      let ph := phaseOf g e
      let c := cs.getD ph ⟨2, 1⟩
      match readCode g.sig (riceK c 40 0) (predict g val e) bits with
      | none => none
      | some (x, r, rest) => decodeElems g t (cs.set ph (ctxNext c r)) ((e.off, e.second, x) :: vs) rest

/-- Write the values back into their containers, in stream order (R211, R248). -/
def assemble (g : Geom) : List Elem → List Nat → List Byte
  | e :: t, v :: vs =>
    if e.edge then BitVec.ofNat 8 v :: assemble g t vs
    else if g.cont = 0 then BitVec.ofNat 8 v :: assemble g t vs
    else if g.cont = 1 then leBytes 2 v ++ assemble g t vs
    else if e.second then BitVec.ofNat 8 (v / 16) :: assemble g t vs
    else
      let v2 := match vs with | w :: _ => w | [] => 0
      BitVec.ofNat 8 v :: BitVec.ofNat 8 (v / 256 + 16 * (v2 % 16)) :: assemble g t vs
  | _, _ => []

/-- Decode a payload after decryption against its header (R221, R248). -/
def decodePayload (hdr payload : List Byte) : DecRes :=
  let n := leAt hdr 4 4
  let crc := leAt hdr 12 4
  if leAt hdr 1 1 % 2 = 1 then
    if (payload.drop n).any (· ≠ 0) then .fail false
    else if (crc32c (payload.take n)).toNat = crc then .ok (payload.take n) else .fail false
  else
    let g := hdrGeom hdr
    let els := walk g n
    match decodeElems g els (ctx0 g) [] (unpackBits payload) with
    | none => .fail true
    | some (vs, rest) =>
      if 128 ≤ rest.length ∨ rest.any id then .fail true
      else
        let bs := assemble g els (vs.reverse.map fun v => v.2.2)
        if (crc32c bs).toNat = crc then .ok bs else .fail true

/-! ### Frames outside a zone (R227, R228) -/

/-- The whole dovetail frame of Codec Encode for the bytes `bs` at stream position z (R227, R234). -/
def offloadFrame (pno : Nat) (desc : List Byte) (z : Nat) (forceRaw : Bool) (bs : List Byte) : List Byte :=
  let fs := leAt desc 2 1
  let g := geomOf desc z bs.length
  let pay := if leAt desc 1 1 = 0 then [] else codedPayload g bs
  let coded := storedCoded (leAt desc 1 1) g bs pay && !forceRaw
  let pay := if coded then pay else rawPayload bs
  let h := hdrBytes { raw := !coded, short := bs.length < fsizeBytes fs, resealed := false, enc := false, zone := false,
                      fsize := fs, prof := pno, origLen := bs.length, stored16 := (64 + pay.length) / 16, geom := g,
                      crc := crc32c bs, wseq := 0, counter := 0, epoch := 0 }
  h ++ pay ++ checkTrailer h pay

end Sys2Proof.Machine
end

