-- ==== Sys2Proof/Config.lean ====
section
/-!
DEFINITION. What an implementation fixes and the values that the manual leaves open. Every open value is an
opaque constant: nothing proves what it is, so a statement holds for each value it could have.
-/
namespace Sys2Proof.Config

/-- A free value read at the state's own counter: random bits of the DRBG (R406 to R408), and every value
the manual leaves without a rule (assumption log 6). -/
opaque freeBits (w : Nat) : Nat → BitVec w

/-- The 20-byte serial number (SN) of Identify Controller (R394), a byte at each index below 20. -/
opaque serial : Nat → Byte

/-- Bytes of the Identify and log structures that NVMe 2.1 defines and this manual does not list, by
structure number and byte index (R135, R141; log 20). -/
opaque nvmeByte : Nat → Nat → Byte

/-- The Belisk container (R413): its layout is not documented, so what a piece of bytes carries is open. -/
opaque imgAuthentic : List Byte → Bool
/-- Firmware version in a Belisk header (R100, R443). -/
opaque imgVersion : List Byte → W32
/-- Anti-rollback counter in a Belisk header (R413). -/
opaque imgCounter : List Byte → Nat
/-- ADVANCE flag in a Belisk header (R413). -/
opaque imgAdvance : List Byte → Bool
/-- The mark of an image that needs a controller reset (R145). -/
opaque imgNeedsReset : List Byte → Bool
/-- Total length of the image that a Belisk header declares (R413: 'the last image byte'). -/
opaque imgLength : List Byte → Nat

/-- The check columns of the 32 data bits of a DRAM beat (R322): any 32 bytes; `dataCols` takes them where they form the
code that the rule asks for (log 51). -/
opaque dramCheck : Nat → Byte
/-- The constants of the DRAM address fold, bit 6 of the line address first (R322; log 51). -/
opaque dramFold : Nat → Byte

/-- The fused secret from which the chip derives the device storage key (R255), and the label and the context of that derivation (R391),
which the manual does not give (log 50). -/
opaque fusedSecret : List Byte
/-- Label of the derivation of the device storage key. -/
opaque storageLabel : List Byte
/-- Context of the derivation of the device storage key. -/
opaque storageContext : List Byte

/-- The factory fuse map of the on-chip SRAM (R343; log 104): the rows of a macro that its spare rows replace, of which the first two
count. -/
opaque fuseRows : Nat → List Nat
/-- The column of a macro that its spare column replaces. -/
opaque fuseCol : Nat → Option Nat

/-- Bytes of SPDM replies that the manual leaves to SPDM 1.2: certificate chain, signature, key share,
by reply number and byte index (R410, R411; log 21). -/
opaque spdmByte : Nat → Nat → Byte

end Sys2Proof.Config
end

