-- ==== Sys2Proof/Machine/State.lean ====
section
/-!
DEFINITION. The state of the Rieri-64 as plain data: every register, queue, buffer, counter, mode and pin the
manual gives the block, the queue of waiting commands, and the reset state. INVENTORY.md lists each piece with
its rule. A structure's field defaults are its reset values.
-/
namespace Sys2Proof.Machine

open Sys2Proof

/-- Reasons for a fault. The block itself never stops: the manual gives every failure a mode, a status or a
refusal code. No meaning raises it. -/
inductive Fault where
  /-- Raised by nobody; kept so that the type is inhabited. Safe: it could only stop the model. -/
  | unreachable
  deriving DecidableEq, Repr

/-- Reasons for a refusal. -/
inductive Refusal where
  /-- Raised by `exec` for a row that has no meaning yet. Safe: it stops the model. -/
  | notModelled (mnemonic : String)
  deriving DecidableEq, Repr

abbrev Outcome := Host.Outcome

/-! ### Time, mode, pins -/

/-- Device time and the slow clock (R39, R40). `refOn`: the reference clock carries device time; else the slow counter does,
while that clock is absent (`refPin`) or the core domain is off. `ticks`: edges of the slow clock since POR; `edge`: the last
tick ended at one (R354). `total`: powered time before the last POR (R274). -/
structure Clk where
  time : Nat := 0
  refOn : Bool := true
  refPin : Bool := true
  lossTime : Nat := 0
  lossTicks : Nat := 0
  lastRead : Nat := 0
  ticks : Nat := 0
  edge : Bool := true
  total : Nat := 0
  deriving DecidableEq, Repr

/-- The seven device modes (R4). -/
inductive Mode where
  | start | run | quiesce | doze | watch | vent | halt
  deriving DecidableEq, Repr

/-- TOP_MODE, TOP_BOOT and TOP_RESET_LAST (R44, R74, R87), and what START has reached: an image is loaded
(stage 3 has ended), and START is held in stage 1 by temperature (R387); `ventCut`: the core was lost in the middle of a dump
(R375). -/
structure Md where
  cur : Mode := .start
  prev : Mode := .start
  haltWhy : Nat := 0
  stage : Nat := 0
  slot : Nat := 0
  fail : Bool := false
  reason : Nat := 0
  lastShutdown : Nat := 3
  rlKind : Nat := 0
  rlCount : Nat := 0
  rlFunc : Nat := 0
  loaded : Bool := false
  hot : Bool := false
  ventCut : Bool := false
  deriving DecidableEq, Repr

/-- Input pin levels (true: asserted, that is low), strap inputs and sampled straps (R456), port links and
the serving port (R455), and the outputs the device drives (R462, R386); `dramReset`: DMc_RESET_N is low (R453); `l12`: the device
has asked for L1.2 on the link (R352). -/
structure Pin where
  porst : Bool := true
  perst : Bool := true
  perst1 : Bool := true
  zeroize : Bool := false
  inDual : Bool := false
  inLpo : Bool := false
  inSmba : BitVec 2 := 0
  dual : Bool := false
  lpo : Bool := false
  smba : BitVec 2 := 0
  p0Up : Bool := false
  p1Up : Bool := false
  serving : Nat := 0
  holdupTest : Bool := false
  holdupIso : Bool := false
  pwrOff : Bool := false
  smbHeld : Bool := false
  dramReset : Bool := true
  l12 : Bool := false
  deriving DecidableEq, Repr

/-! ### Register machinery -/

/-- A posted always-on write (R52). -/
structure AonWrite where
  off : Nat
  al : RegAlias
  v : W32
  deriving DecidableEq, Repr

/-- *_REFUSE and *_REFUSE_OBJ of one block (R60). -/
structure Refuse where
  seq : BitVec 4 := 0
  bit : Nat := 0
  word : Nat := 0
  code : Nat := 0
  obj : Nat := 0
  deriving DecidableEq, Repr

/-- One wide-value window (R54); `waitEdge`: a snapshot of an always-on value waits for the slow edge (R57). -/
structure WvWin where
  sel : BitVec 16 := 1
  valid : Bool := false
  err : Bool := false
  seq : BitVec 16 := 0
  data : BitVec 128 := 0
  waitEdge : Bool := false
  deriving DecidableEq, Repr

/-- TOP_GATED_ACCESS and TOP_GATED_COUNT (R64). -/
structure Gat where
  valid : Bool := false
  dir : Bool := false
  source : Nat := 0
  block : Nat := 0
  offset : Nat := 0
  count : Nat := 0
  deriving DecidableEq, Repr

/-- A pace meter (R32); `fresh`: no complete window since MIN was cleared or reset; `endAt`: end of its last window. -/
structure Meter where
  pace : Nat := 0
  min : Nat := 0x7FF
  fresh : Bool := true
  endAt : Nat := 0
  deriving DecidableEq, Repr

/-- The pace loop (R33 to R37), with the times of its last action and AVSBus write: meters 0 to 7 of the sections and 8 of the device level, the last in-range
TARGET, CEIL, STEP and HYST, the acknowledged setpoint, the AVSBus write not yet acknowledged, TOP_PACE_STAT. -/
structure Pace where
  meters : Table Meter := []
  target : Nat := 1000
  ceil : Nat := 850
  step : Nat := 5
  hyst : Nat := 20
  vset : Nat := 750
  avsOut : Option Nat := none
  avsAt : Nat := 0
  actAt : Nat := 0
  avsFault : Bool := false
  limit : Nat := 0
  effTarget : Nat := 1000
  deriving DecidableEq, Repr

/-- MBX_STATUS.STATE (chapter 05). -/
inductive MbxSt where
  | idle | busy | done | error
  deriving DecidableEq, Repr

/-- The running mailbox command as latched at the doorbell (R89). `waitStart`: it runs when stage 3 has ended (R71), or when
a firmware activation has (R174). `aux` to `aux3` hold what a command that goes on keeps; `met` and `test` are the outcomes
that SCRUB and SELFTEST were given, `wait` the admitted commands that a LOCK_SET waits for (R308). While a Vent pauses the command
(R90): `fin` and `finErr` keep the end to which its last step came, `drained` that the reset it waits for has reported done. -/
structure MbxRun where
  opc : Nat
  args : List W32
  buf : Option BufArg
  notify : Bool
  epoch : Bool
  force : Bool
  paused : Bool := false
  waitStart : Bool := false
  start : Nat := 0
  aux : Nat := 0
  aux2 : Nat := 0
  aux3 : Nat := 0
  met : List SramMet := []
  test : Option SelfTest := none
  wait : List CmdId := []
  fin : Option (List (Nat × W32)) := none
  finErr : Option (Nat × Nat × Nat) := none
  drained : Bool := false
  deriving DecidableEq, Repr

/-- The mailbox beside its rw registers: status, results, counters, the interrupted record of the always-on
domain (R88 to R93). -/
structure Mbx where
  seq : BitVec 8 := 0
  code : Nat := 0
  long : Bool := false
  st : MbxSt := .idle
  results : Table W32 := []
  progress : Nat := 0
  rejects : Nat := 0
  run : Option MbxRun := none
  intCause : Nat := 0
  intProgress : Nat := 0
  intOpc : Nat := 0
  deriving DecidableEq, Repr

/-! ### Tenants, functions, queues, commands -/

/-- Tenant states (R101). -/
inductive TState where
  | none | created | configured | enabled | frozen
  deriving DecidableEq, Repr

/-- A share: minimum points, weight, bandwidth cap, IOPS cap, interrupt budget (R113, R117). -/
structure Share where
  min : Nat := 0
  weight : Nat := 1
  cap : Nat := 10000
  iops : Nat := 0
  budget : Nat := 0
  deriving DecidableEq, Repr

/-- The tenant record (R103). -/
structure Tenant where
  st : TState := .none
  qp : Nat := 0
  vec : Nat := 0
  stored : Share := {}
  inForce : Share := {}
  pend : Bool := false
  deriving DecidableEq, Repr

/-- An NVMe status. -/
structure Status where
  sct : Nat
  sc : Nat
  dnr : Bool
  deriving DecidableEq, Repr

/-- A completion queue entry. -/
structure Cqe where
  sq : Nat
  cid : Nat
  status : Status
  dw0 : W32
  dw1 : W32
  deriving DecidableEq, Repr

/-- A completion entry for which its queue has no room yet (R150): the entry, whether its command came from an Urgent-class
queue (R110), and whether it answers an Asynchronous Event Request, whose slot it holds. -/
structure WaitEnt where
  e : Cqe
  urgent : Bool := false
  aer : Bool := false
  deriving DecidableEq, Repr

/-- An asynchronous event waiting to be reported (R143). -/
structure Ev where
  typ : Nat
  info : Nat
  log : Nat
  deriving DecidableEq, Repr

/-- An Error Information entry (R148). -/
structure ErrEnt where
  id : CmdId
  status : Status
  lba : Nat
  ns : Nat
  deriving DecidableEq, Repr

/-- Coalescing of one vector (R108): entries not signalled, and when its timer started. -/
structure Coal where
  count : Nat := 0
  since : Option Nat := none
  deriving DecidableEq, Repr

/-- One function's NVMe controller front-end and interrupt state. `feats` is keyed fid × 2^16 + sub, where sub
is the namespace, the vector or the threshold selector. `drain` holds the kind of a reset not yet done (R121), `waitRst` that
of one whose generation a job still carries (R122); device-wide kinds add 16. `cc` keeps the fields of CC but EN and AMS.
`msix`: the address and data words of the MSI-X table, keyed by dword; `msixOn`: the host has set it up since the function was
reset. `ats`: translations of the function may be cached (R121). `aerCa`: AER has logged a Completer Abort (R338). `flr`: an FLR of the function has not reported done; `cfgReset`: the
function reads as reset in configuration space, which is that report, until its driver enables the controller (R83, R121). -/
structure Fn where
  en : Bool := false
  enHeld : Bool := false
  ams : Nat := 0
  rdy : Bool := false
  cfs : Bool := false
  nssro : Bool := false
  pp : Bool := false
  aqa : W32 := 0
  asq : BitVec 64 := 0
  acq : BitVec 64 := 0
  numQ : Option Nat := none
  feats : Table W32 := []
  dirEn : List Nat := []
  unmasked : List Nat := []
  pba : List Nat := []
  urgentPba : List Nat := []
  held : List Nat := []
  coal : Table Coal := []
  sentMsgs : Nat := 0
  heldEpoch : Nat := 0
  lastVec : Nat := 0
  aers : List Nat := []
  evMasked : List Nat := []
  events : List Ev := []
  img : List Byte := []
  drain : Option Nat := none
  waitRst : Option Nat := none
  cc : W32 := 0
  msix : Table W32 := []
  msixOn : Bool := false
  ats : Bool := false
  flr : Bool := false
  aerCa : Bool := false
  cfgReset : Bool := false
  errLog : List ErrEnt := []
  errCount : Nat := 0
  changedNs : List Nat := []
  changedZones : List (Nat × Nat) := []
  tsOff : Nat := 0
  tsSynch : Bool := true
  c1pend : Option W32 := none
  deriving DecidableEq, Repr

/-- A submission queue with the entries the host has submitted and the device has not fetched (R151). -/
structure Sq where
  func : Nat
  id : Nat
  cq : Nat
  size : Nat
  prio : Nat
  base : Nat := 0
  tail : Nat := 0
  head : Nat := 0
  subs : List Sqe := []
  deriving DecidableEq, Repr

/-- A completion queue; `waiting`: entries for which it has no room (R150). -/
structure Cq where
  func : Nat
  id : Nat
  size : Nat
  vec : Nat
  ien : Bool
  base : Nat := 0
  head : Nat := 0
  tail : Nat := 0
  phase : Bool := true
  waiting : List WaitEnt := []
  deriving DecidableEq, Repr

/-- Dispatch classes, highest first (R159). -/
inductive DCls where
  | urgent | high | medium | low | writeBack | maintenance
  deriving DecidableEq, Repr

/-- How far an admitted command has come (R151). -/
inductive Phase where
  | admitted     -- fetched and charged; the zone engine or its first operation has not taken it
  | fetching     -- a write accepted by the zone engine, its data not yet all in the cache
  | durable      -- a FUA write or Flush waiting for durability
  | reading      -- reads outstanding
  | ordered      -- a zone management send waiting for earlier writes (R195)
  | held         -- waits for another event (activation, power state, outstanding event request)
  | decided      -- status decided, completion entry waits for room
  deriving DecidableEq, Repr

/-- A block of data that a Flush or FUA write covers (R169, R170): namespace, LBA and the write that brought it. -/
structure Cov where
  ns : Nat
  lba : Nat
  ver : Nat
  deriving DecidableEq, Repr

/-- An admitted command (R151). `lba` is the start LBA, assigned for an append; `fails` lists LBAs that
failed with their status, `wait` those that wait for a frame read (R148). `prog`: a Flush admitted while d_dump was above the ceiling,
which waits for programs (R370). -/
structure Cmd where
  id : CmdId
  e : Sqe
  gen : BitVec 16
  cls : DCls
  time : Nat
  ord : Nat
  token : Bool := false
  overAge : Bool := false
  phase : Phase := .admitted
  status : Option Status := none
  dw0 : W32 := 0
  dw1 : W32 := 0
  lba : Nat := 0
  chargeR : Nat := 0
  chargeW : Nat := 0
  fails : List (Nat × Status) := []
  wait : List Nat := []
  cover : List Cov := []
  aux : Nat := 0
  prog : Bool := false
  deriving DecidableEq, Repr

/-- A transfer that left the device: host data of a command, a completion entry, an MSI-X message, a mailbox
host buffer, a bus error to firmware (R63), a read that completes as Completer Abort (R338), a sideband or SPDM reply. The list of them is the model's record of the block's outputs. -/
inductive Xfer where
  | data (id : CmdId) (off : Nat) (bytes : List Byte)
  | cqe (f cq : Nat) (phase : Bool) (c : Cqe)
  | msix (f vec : Nat)
  | mbxBuf (bytes : List Byte)
  | busError
  | completerAbort (f : Nat)
  | sideband (bytes : List Byte)
  | sidebandError
  | spdm (bytes : List Byte)
  | spdmError
  | dirtyBit (tenant : Nat) (half : Bool) (granule : Nat)
  deriving DecidableEq, Repr

/-- Credits and use of one contender of admission (R154 to R156), tenants 0 to 1,023, then 1,024 for the PF. -/
structure Cont where
  mincR : Int := 0
  mincW : Int := 0
  capcR : Int := 0
  capcW : Int := 0
  defcR : Int := 0
  defcW : Int := 0
  debtR : Nat := 0
  debtW : Nat := 0
  ops : Int := 0
  charged : Bool := false
  useR : Nat := 0
  useW : Nat := 0
  points : Nat := 0
  promo : Nat := 0
  promoNow : Nat := 0
  heldLast : Nat := 0
  deriving DecidableEq, Repr

/-- Device-wide admission (R153 to R156, R171). `epoch`: epoch boundaries passed (R112). `wbHigh`: write-back runs at class High (R160). -/
structure Qos where
  factorR : Nat := 1000
  factorW : Nat := 1000
  srcR : Nat := 0
  srcW : Nat := 0
  budgetR : Int := 0
  budgetW : Int := 0
  overR : Nat := 0
  overW : Nat := 0
  conts : Table Cont := []
  lastMin : Nat := 1024
  lastExc : Nat := 1024
  lastSq : Table Nat := []
  wrr : Table Nat := []
  compR : Nat := 0
  compW : Nat := 0
  kerfNs : Nat := 0
  kerfSince : Option Nat := none
  pfWeight : Nat := 16
  wbHigh : Bool := false
  epoch : Nat := 0
  deriving DecidableEq, Repr

/-! ### Namespaces, zones, profiles, cache -/

/-- A namespace (R100). `owner`: tenant 0 to 1,023, or FFFFh for the PF. `hints`: (hint, profile) pairs. -/
structure Ns where
  zoned : Bool
  zcode : Nat
  size : Nat
  owner : Option Nat := none
  hints : List (Nat × Nat) := []
  deriving DecidableEq, Repr

/-- ZNS zone states (R175). -/
inductive ZState where
  | empty | implOpen | explOpen | closed | full | readOnly | offline
  deriving DecidableEq, Repr

/-- A stored frame (R188, R196): its place and length in the data space in 16-byte units, whether raw or short, key
epoch (0 in clear), original bytes it holds, its WSEQ, and whether its programs are confirmed. Its bytes stand in the band's pages. -/
structure SFr where
  off16 : Nat
  len16 : Nat
  raw : Bool
  short : Bool
  epoch : Nat
  n : Nat
  wseq : Nat := 0
  confirmed : Bool := false
  deriving DecidableEq, Repr

/-- One frame index of a zone: bytes admitted, bytes that reached the cache, bytes of discarded writes below the write
pointer (R81), bytes taken by the last seal, the live stored frame, the newest confirmed frame it supersedes, dead
space before the live frame, whether a dead-list entry is charged (R191), and whether its data is lost (R304). -/
structure Fr where
  admitted : Nat := 0
  arrived : Nat := 0
  hole : Nat := 0
  sealed : Nat := 0
  live : Option SFr := none
  old : Option SFr := none
  dead16 : Nat := 0
  shorts : Bool := false
  lost : Bool := false
  deriving DecidableEq, Repr

/-- The band of a zone (R182, R183): (LUN, block) by position; page and block geometry; data space used, in 16-byte
units; (row, position) of each data page allocated so far and where the next one is looked for; data-space end issued
and confirmed per data page, and per parity page (key row × 256 + group); positions lost without replacement; the image of
each data page by number, and of each parity accumulator or parity page by key (step 10 of the write path); `gap`: the part of the data
space that stays empty before the index pages at its end (R198); `worn`: positions whose block is to be refreshed (R303). -/
structure Band where
  pos : List (Nat × Nat) := []
  pageBytes : Nat := 16384
  ppb : Nat := 0
  parity : Bool := false
  fill16 : Nat := 0
  pages : List (Nat × Nat) := []
  curRow : Nat := 0
  curIdx : Nat := 0
  iss : Table Nat := []
  conf : Table Nat := []
  pIss : Table Nat := []
  pConf : Table Nat := []
  dead : List Nat := []
  img : Table (List Byte) := []
  acc : Table (List Byte) := []
  gap : Nat × Nat := (0, 0)
  worn : List Nat := []
  deriving DecidableEq, Repr

/-- A zone (R175, R186, R200). `epLo`, `epHi`: its recorded epoch range (R261). `keyLost`: LBAs whose only frame was of an erased
epoch when its index was sealed again (R262). `gone`: LBAs of an aborted FUA write that a stored frame holds (R168). `index`: the index pages that finish wrote, from the data-space offset `indexAt`,
and the parameter unit that holds their copy, once it is programmed (R198). `zcap`: ZCAP as it was when the zone left Empty, reported
until it has a band (R185). A conventional namespace keeps a band of its pool as a zone (R203). -/
structure Zone where
  st : ZState := .empty
  wp : Nat := 0
  prof : Option Nat := none
  band : Option Band := none
  dcap : Nat := 0
  stored : Nat := 0
  reserved : Nat := 0
  dead : Nat := 0
  seals : Nat := 0
  autofin : Bool := false
  warned : Bool := false
  wseq : Nat := 0
  frames : Table Fr := []
  epLo : Nat := 0
  epHi : Nat := 0
  zeroized : Bool := false
  lostLbas : List Nat := []
  poisoned : List Nat := []
  finishing : Bool := false
  indexed : Bool := false
  keyLost : List Nat := []
  gone : List Nat := []
  index : List (List Byte) := []
  indexAt : Nat := 0
  indexCopy : Option (Nat × Nat) := none
  zcap : Nat := 0
  deriving DecidableEq, Repr

/-- A placement profile (R178): its descriptor bytes and enable state. -/
structure Profile where
  desc : List Byte := []
  enabled : Bool := false
  deriving DecidableEq, Repr

/-- A block of a conventional namespace in its page map (R202): the pool band and the place in its data space where the
stored frame stands, its epoch and marks. -/
structure Conv where
  written : Bool := false
  epoch : Nat := 0
  band : Nat := 0
  off16 : Nat := 0
  zeroized : Bool := false
  lost : Bool := false
  poisoned : Bool := false
  ver : Nat := 0
  deriving DecidableEq, Repr

/-- A block of data in the write cache (R19, R363). Every block listed is dirty; a frame's blocks leave the list
when its programs are confirmed. `covered`: a completed Flush or FUA covers it (R373). `ver`: the write that put it
there, by admission order, and `gen` its generation (R122). `kept`: a reset abandoned that write, so that no completion entry was
written (R81, R169). -/
structure CBlk where
  ns : Nat
  lba : Nat
  data : List Byte
  func : Nat
  time : Nat
  vented : Bool := false
  covered : Bool := false
  poisoned : Bool := false
  ver : Nat := 0
  gen : BitVec 16 := 0
  kept : Bool := false
  deriving DecidableEq, Repr

/-- Where a frame job of the write path stands: the stored frame that reclaim copies is being read (R203); its encode has not ended; its length is known and it waits for its
place in the data space; its encryption has not ended; its bytes are assembled and an earlier frame of its index is not stored
yet; it is stored (step 9) and being programmed. -/
inductive JobStage where
  | read | encode | order | cipher | ready | program
  deriving DecidableEq, Repr

/-- A frame on its way from the cache to media (write path steps 5 to 12): its index (or LBA for a conventional
block, whose `zone` is the pool band), original bytes, section, whether short and whether it supersedes a stored frame, payload,
header fields known so far, key epoch and counter, and the stored bytes once assembled. `takes`: the cached blocks it holds, with
the write that put each there; `move`: a stored block that reclaim copies bit for bit from `src` (band and place; `pages` still to
read), so that no cached data goes with it (R203, R251); `kept`: of a write that a reset abandoned (R169); `wseq`: its place in the zone's
sequence (R233). -/
structure Job where
  ns : Nat
  zone : Nat
  idx : Nat
  conv : Bool := false
  orig : List Byte := []
  short : Bool := false
  reseal : Bool := false
  final : Bool := false
  sec : Nat := 0
  stage : JobStage := .encode
  prof : Nat := 0
  raw : Bool := true
  payload : List Byte := []
  header : List Byte := []
  slot : Option Nat := none
  epoch : Nat := 0
  key : List Byte := []
  off16 : Nat := 0
  frame : List Byte := []
  func : Nat := 0
  time : Nat := 0
  ver : Nat := 0
  redo : Bool := false
  counter : Nat := 0
  gen : BitVec 16 := 0
  takes : List (Nat × Nat) := []
  move : Bool := false
  src : Nat × Nat := (0, 0)
  pages : List Nat := []
  kept : Bool := false
  wseq : Nat := 0
  deriving DecidableEq, Repr

/-- Where a frame read stands; `index`: the index pages that locate it are being read (R199). -/
inductive RStage where
  | index | lun | cipher | decode
  deriving DecidableEq, Repr

/-- A frame being read (read path): the frame, its place and length in the data space of band `zone`, the index pages and the pages still
to read,
its stored bytes, the plain payload, the commands that joined it (R223), the time limit of its recovery where one is set (R137)
and retry marks (R222, R275). `base`: start LBA of its zone and first LBA of the frame, `per`: blocks of the frame. `held`: its zone was
reset since, and these blocks of its band are not erased before it ends (R223, R296). `again`: it is read once more after its SRAM row
was lost (R338). -/
structure RJob where
  ns : Nat
  zone : Nat
  idx : Nat
  conv : Bool := false
  stage : RStage := .lun
  idxLeft : List Nat := []
  pages : List Nat := []
  bytes : List Byte := []
  payload : List Byte := []
  sec : Nat := 0
  ids : List CmdId := []
  gen : BitVec 16 := 0
  func : Nat := 0
  cls : DCls := .medium
  age : Nat := 0
  rebuilt : Bool := false
  slot : Option Nat := none
  epoch : Nat := 0
  bound : Bool := false
  key : List Byte := []
  owner : Nat := 0xFFFF
  off16 : Nat := 0
  len16 : Nat := 0
  limit : Option Nat := none
  base : Nat × Nat := (0, 0)
  per : Nat := 1
  held : List (Nat × Nat) := []
  again : Bool := false
  deriving DecidableEq, Repr

/-- Why a block is copied: static wear (R285), refresh (R303), the failed block of a replaced position (R288), a failed LUN's
rebuild (R304), or a block last programmed before an unsafe shutdown (R290). -/
inductive RelKind where
  | wear | refresh | replace | rebuild | restart
  deriving DecidableEq, Repr

/-- A relocation of one block of a band, page by page (R285, R288, R290, R303, R304): the old block, the new one, every row to
copy and those still to copy. -/
structure Rel where
  ns : Nat
  zone : Nat
  pos : Nat
  kind : RelKind
  src : Nat × Nat
  dst : Nat × Nat
  rows : List Nat := []
  left : List Nat := []
  deriving DecidableEq, Repr

/-- An offload job (R225 to R231): its command and generation, whether it decodes, the profile it encodes with, its frames as
(offset, length) of the input, the status that ends it after them, those whose operation has not ended, those that a failed
verification stores raw (R219) and those whose decode failed for good (R222). -/
structure Off where
  id : CmdId
  gen : BitVec 16
  dec : Bool
  pno : Nat := 0
  desc : List Byte := []
  frames : List (Nat × Nat) := []
  stop : Status
  left : List Nat := []
  raw : List Nat := []
  bad : List Nat := []
  deriving DecidableEq, Repr

/-- The work of an operation of dispatch (R159). `verify` names the coder that encoded the frame (R219); `orphan`: a program of
a zone reset while it ran, recorded nowhere; `idxRead`: the index page of a frame read, from the parameter-unit copy or the band
(R199); `indexCopy`: the copy of a zone's index pages in a parameter unit (R198); `moveRead`: a page of a block that reclaim copies
(R203); `groupRead`: a page of the group row of a rebuild (R302); `probe`: page 0 of a suspect block (R299); `relRead`, `relProg`: one
row of a relocation; `offEnc`, `offVerify`, `offDec`: one frame of an offload job (R209). -/
inductive Work where
  | encode (job : Nat)
  | verify (job lane coder : Nat)
  | encrypt (job : Nat)
  | decrypt (rj : Nat)
  | decode (rj : Nat)
  | lunRead (rj page blk : Nat)
  | idxRead (rj blk : Nat) (copy : Bool)
  | indexCopy (ns zone lun blk : Nat)
  | moveRead (job page blk : Nat)
  | program (ns zone page cover : Nat)
  | parity (ns zone unit cover : Nat)
  | orphan (blk : Nat)
  | erase (lun blk : Nat)
  | groupRead (reb pos blk : Nat)
  | probe (blk : Nat)
  | relRead (rel row : Nat)
  | relProg (rel row : Nat)
  | offEnc (off i : Nat)
  | offVerify (off i lane coder : Nat)
  | offDec (off i : Nat)
  | ventTest
  deriving DecidableEq, Repr

/-- The queue an operation waits in: a LUN, a codec engine, a cipher engine. -/
inductive OpQueue where
  | lun (n : Nat)
  | codec (sec : Nat)
  | cipher (sec : Nat)
  deriving DecidableEq, Repr

/-- A step of the recovery ladder at the die (R301): the normal read, a soft decode with so many reads, a read-retry set. -/
inductive Rung where
  | hard
  | soft (reads : Nat)
  | retry (set : Nat)
  deriving DecidableEq, Repr

/-- A ready operation (R159): its work, its resource, class and age reference, the function and generation of
its job (R23), and when it was queued. Of a read: the ladder step it is at, the codewords of its page, by number, that are not decoded yet
(R300, R301). -/
structure Op where
  work : Work
  q : OpQueue
  cls : DCls
  age : Nat
  func : Nat
  gen : BitVec 16
  queued : Nat
  rung : Rung := .hard
  cws : List Nat := []
  deriving DecidableEq, Repr

/-- What waits for a page that band parity rebuilds (R302): a frame read for one of its pages, or for all of them after a tag that did not
verify (R275); its index page (R199); a block that reclaim copies; a row of a relocation. -/
inductive RebFor where
  | frame (rj page : Nat)
  | tag (rj page : Nat)
  | index (rj : Nat)
  | move (job page : Nat)
  | row (rel row : Nat)
  deriving DecidableEq, Repr

/-- A band-parity rebuild of row `row` at a position (R302): what it is for, the operation whose class its reads take, and the positions of
the group whose pages are still to be read. -/
structure Reb where
  ns : Nat
  zone : Nat
  row : Nat
  pos : Nat
  who : RebFor
  op : Op
  left : List Nat
  deriving DecidableEq, Repr

/-- An operation on a resource: running, paused by a kerf before its start (R384), or, on a LUN, suspended
(R291, R292). `kerfUs`: the kerf in force at its start; `suspends` counts its suspends, `served` the reads served while it is
suspended. -/
structure Run where
  res : Resource
  op : Op
  kerf : Bool := false
  kerfUs : Nat := 0
  since : Nat := 0
  suspends : Nat := 0
  suspending : Bool := false
  suspended : Bool := false
  served : Nat := 0
  deriving DecidableEq, Repr

/-! ### Engines, vault, security -/

/-- Codec counters of a section (chapter 10). -/
structure Cdc where
  enc : Nat := 0
  raw : Nat := 0
  dec : Nat := 0
  confirmed : Nat := 0
  cleared : Nat := 0
  verifyFail : Nat := 0
  deriving DecidableEq, Repr

/-- A lease of counter values an engine holds (R263): next value, end, the epoch it belongs to, and its first value. -/
structure Lease where
  next : Nat := 0
  lim : Nat := 0
  epoch : Nat := 0
  first : Nat := 0
  deriving DecidableEq, Repr

/-- A cipher engine (R263, R271 to R275): fault times in powered time, counters, leases by slot. -/
structure Cip where
  fenced : Bool := false
  faultTimes : List Nat := []
  faults : Nat := 0
  enc : Nat := 0
  dec : Nat := 0
  authFail : Nat := 0
  leases : Table Lease := []
  wantLease : List Nat := []
  deriving DecidableEq, Repr

/-- One epoch of a slot (R252): number and 256-bit key as 32 bytes. -/
structure KeyEp where
  epoch : Nat
  key : List Byte
  deriving DecidableEq, Repr

/-- A data slot (R252, R253, R263, R265). -/
structure Slot where
  cur : Option KeyEp := none
  prev : Option KeyEp := none
  owner : Nat := 0xFFFF
  last : Nat := 0
  zmark : Nat := 1
  ceiling : Nat := 2 ^ 40
  hwm : Nat := 0
  deriving DecidableEq, Repr

/-- What the vault holds beside the staging buffer (R252). -/
structure Keys where
  slots : Table Slot := []
  kek : Option (List Byte) := none
  mig : Option (List Byte) := none
  co : Option (List Byte) := none
  deriving DecidableEq, Repr

/-- The vault: keys in use, their durable records in the journal and the mirror in the NOR configuration, each key wrapped (R255, R267, R417;
log 50), the slot staged and its words (R257). -/
structure Vault where
  live : Keys := {}
  recd : Keys := {}
  nor : Keys := {}
  staged : Option Nat := none
  words : Table (Option W32) := []
  deriving DecidableEq, Repr

/-- Crypto Officer authentication (R394 to R396). -/
structure Co where
  count : Nat := 0
  fails : Nat := 0
  lockedUntil : Option Nat := none
  role : Bool := false
  resp : Table W32 := []
  deriving DecidableEq, Repr

/-- An SPDM session (R410, R412). -/
structure Sess where
  id : Nat
  key : List Byte
  updates : Nat := 0
  beats : Nat := 0
  deriving DecidableEq, Repr

/-- An SPDM request that draws on the DRBG and waits for it (R409). -/
inductive SpdmWait where
  | challenge
  | measure
  | exchange (pairOk : Bool)
  deriving DecidableEq, Repr

/-- Security state: TOP_SEC_STATE, engines that passed at error entry (R403), DRBG (R408), noise health tests
(R407, R409), SPDM sessions. `startUp`: samples the start-up test still takes; `fill`: samples an instantiation still takes; `waits`: requests that wait
for the DRBG meanwhile. -/
structure Sec where
  st : Nat := 0
  fail : Nat := 0
  engine : Nat := 0
  passEng : List Nat := []
  drbg : Bool := false
  drbgReqs : Nat := 0
  drbgSince : Nat := 0
  drbgFailed : Bool := false
  lastBit : Option Bool := none
  rep : Nat := 0
  winPos : Nat := 0
  winFirst : Bool := false
  winCount : Nat := 0
  startUp : Nat := 0
  fill : Nat := 0
  waits : List SpdmWait := []
  failTimes : List Nat := []
  sessions : List Sess := []
  sessNext : Nat := 0
  negotiated : Bool := false
  deriving DecidableEq, Repr

/-- A firmware image: what its Belisk header carries (R413). -/
structure Img where
  bytes : List Byte := []
  version : W32 := 0
  counter : Nat := 0
  advance : Bool := false
  needsReset : Bool := false
  authentic : Bool := false
  deriving DecidableEq, Repr

/-- A firmware activation in progress (R172): slot, who asked, whether the drain has ended, when it began. -/
structure Act where
  slot : Nat
  mbx : Bool
  cmd : Option CmdId
  switching : Bool
  withReset : Bool
  start : Nat
  deriving DecidableEq, Repr

/-- The firmware store and the running image (R73, R145, R414). -/
structure Fw where
  slots : Table (Option Img) := []
  recovery : Img := { version := 1, authentic := true }
  active : Nat := 0
  prevActive : Nat := 4
  fused : Nat := 0
  running : Option Img := none
  act : Option Act := none
  deriving DecidableEq, Repr

/-! ### Media -/

/-- Bits of a block's life (R282, R285, R298, R299). -/
inductive BlkSt where
  | erased | used | toErase | intent | suspect | bad
  deriving DecidableEq, Repr

/-- A block: state, erase count, the re-erases begun while it is suspect, 0 when it is not (R299), and the read-retry set, counted from 1,
that succeeded on it last and is tried first (R301). -/
structure Blk where
  st : BlkSt := .erased
  erases : Nat := 0
  probes : Nat := 0
  retry : Nat := 0
  deriving DecidableEq, Repr

/-- A LUN (R280 to R283, R304). `par`: its parameter units; `grown`: blocks retired as grown-bad; `pulse`: the die reports a
pulse-limit feature, and `pulseSet` that the limit in `pulseLim` was sent since START (R287); `dq`, `planes`, `zq`, `duty`: it reports DQ
training, multi-plane operations, ZQ calibration and duty-cycle training, and `zqDone`, `dutyDone` that the last training of its channel used
the last two (R276). `retrySet`: the read-retry set in force on the die, counted from 1 (R301); `wearing`: its static pass runs (R285). -/
structure Lun where
  reason : Nat := 1
  pageBytes : Nat := 0
  ppb : Nat := 0
  blocks : Nat := 0
  rated : Nat := 0
  par : List Nat := []
  bulk : Nat := 0
  spare : Nat := 0
  grown : Nat := 0
  timeouts : Nat := 0
  window : Nat := 0
  pulse : Bool := false
  pulseSet : Bool := false
  pulseLim : Nat := 0
  dq : Bool := false
  planes : Bool := false
  zq : Bool := false
  duty : Bool := false
  zqDone : Bool := false
  dutyDone : Bool := false
  retrySet : Nat := 0
  wearing : Bool := false
  blk : Table Blk := []
  deriving DecidableEq, Repr

/-- A channel unit (R16, R277 to R279, R301). `lastCheck`: device time of its last training or drift check; `checkDue`: an exit
from DOZE or WATCH has restored its training, and the drift check that follows is owed (R351, R358). -/
structure Chan where
  gated : Bool := true
  trained : Bool := false
  fallback : Bool := false
  margin : Nat := 0
  rateCur : Nat := 0
  lastTj : Int := 0
  lastCheck : Nat := 0
  checkDue : Bool := false
  retraining : Bool := false
  wantRetrain : Bool := false
  soft : Nat := 0
  retry : Nat := 0
  rebuild : Nat := 0
  failed : Nat := 0
  deriving DecidableEq, Repr

/-- A lock range (R305 to R307). `since`: its lock took effect before the command of this admission number (R308). -/
structure LockRange where
  ns : Nat := 0
  start : Nat := 0
  len : Nat := 0
  salt : List Byte := []
  verifier : List Byte := []
  defined : Bool := false
  locked : Bool := false
  since : Nat := 0
  attempts : Nat := 5
  deriving DecidableEq, Repr

/-- A DRAM rank (R311, R319, R320, R325). `selfRef`: it is in self-refresh (R331). `freeAt`: device time from which it has no access waiting
(R320). -/
structure Rank where
  st : Nat := 0
  cause : Nat := 0
  ce : Nat := 0
  ceHour : List Nat := []
  hot : Bool := false
  doubled : Bool := false
  outstanding : Nat := 0
  retraining : Bool := false
  wantRetrain : Bool := false
  checkDue : Bool := false
  lastTj : Int := 0
  replays : Nat := 0
  lastCheck : Nat := 0
  refAt : Nat := 0
  freeAt : Nat := 0
  selfRef : Bool := false
  deriving DecidableEq, Repr

/-- A migration of a DRAM channel (R327): ranks within the channel, segments copied, how long it has copied, in ns, and whether it waits for
its spare to fill (R326). -/
structure MigCh where
  active : Bool := false
  src : Nat := 0
  dst : Nat := 0
  frontier : Nat := 0
  ran : Nat := 0
  waitFill : Bool := false
  deriving DecidableEq, Repr

/-- The DRAM controller (chapter 14). `map`: the eight (mask, home) pairs in force; `poison`: poisoned lines, by rank and line, and `holds`
what they hold (R328); `backs`: corrected lines whose write-back is queued (R323); `rebuild`: zones whose frame length table is being rebuilt
from the metadata journal (R328). -/
structure Dram where
  density : Nat := 0
  chans : List Nat := []
  dranks : Nat := 0
  capGib : Nat := 0
  modeCur : Nat := 0
  map : List (BitVec 40 × Nat) := []
  fellBack : Bool := false
  ranks : Table Rank := []
  poison : List (Nat × Nat) := []
  holds : List ((Nat × Nat) × LineData) := []
  backs : List (Nat × Nat) := []
  rebuild : List (Nat × Nat) := []
  mig : Table MigCh := []
  mr4At : Nat := 0
  deriving DecidableEq, Repr

/-- A field-repair entry (R343). -/
structure Repair where
  mac : Nat
  col : Bool
  idx : Nat
  deriving DecidableEq, Repr

/-- On-chip SRAM (chapter 15): rows keyed macro × 4,096 + row, each a block of 297 bit columns. `bad`: the bad cells, by row key and
column, whose bits read inverted; `fused`: START has switched the factory fuse map's spares in (R343). Of the scrub that runs: `scan` the
next macro, `scanAt` when the last one ended, `scanCe` and `scanUe` its rows found so far (R340, R342). -/
structure Sram where
  cells : Table (BitVec 297) := []
  bad : List (Nat × Nat) := []
  fused : Bool := false
  scan : Nat := 0
  scanAt : Nat := 0
  scanCe : Nat := 0
  scanUe : Nat := 0
  ce : Nat := 0
  ue : Nat := 0
  ueValid : Bool := false
  ueSource : Nat := 0
  ueRow : Nat := 0
  ueMac : Nat := 0
  errs : Table Nat := []
  hard : Table (Option (Nat × Nat)) := []
  repairs : List Repair := []
  deriving DecidableEq, Repr

/-! ### Power, hold-up, temperature, health, migration, fleet -/

/-- Who waits for a power state request to complete (R361). -/
inductive PsWaiter where
  | mbx
  | cmd (id : CmdId)
  deriving DecidableEq, Repr

/-- A power-state transition (R349, R360): target, whether the drain has ended, whether it exits to RUN, its
requester. -/
structure Trans where
  target : Nat
  drained : Bool
  exiting : Bool
  owner : Option PsWaiter
  deriving DecidableEq, Repr

/-- The power manager (chapter 16). `pend`, `waiters`: the pending state, that of a request for PS3 or PS4 held by a long command
(R349) or abandoned by a Vent (R362) among them, and who waits for it; `owed`: completions with the state they report, posted after
the next exit (R361). `since`: the commit point of the last WATCH entry; `copied`: firmware's state and the queues stand in DRAM
(R352); `coreOff`: the core supply is off; `haltRec`: a HALT recorded in WATCH (R388); `zerDone`: a zeroization in WATCH whose marks
the exit derives (R418); `ventAfter`, `shutAfter`: a Vent for VIN_SENSE, or a shut-down, follows the exit from DOZE. `cycleAt`: slow
tick of the last Watch cycle. -/
structure Pwr where
  trans : Option Trans := none
  pend : Nat := 7
  lastOp : Nat := 0
  cur : Nat := 0
  est : Nat := 0
  waiters : List PsWaiter := []
  owed : List (PsWaiter × Nat) := []
  watchMask : BitVec 12 := 0
  watchPeriod : Nat := 1000
  thr : Table (Nat × Nat) := []
  wakeSrc : Nat := 0
  wakeCh : Nat := 0
  wakeFrom : Nat := 0
  cycles : Nat := 0
  cyclesNow : Nat := 0
  cycleAt : Nat := 0
  since : Nat := 0
  wakeTime : Nat := 0
  wakeReq : Option Nat := none
  retained : Bool := false
  copied : Bool := false
  coreOff : Bool := false
  haltRec : Bool := false
  ventAfter : Bool := false
  shutAfter : Bool := false
  zerDone : Bool := false
  deriving DecidableEq, Repr

/-- Housekeeping readings (R354), the slow tick of the last round, the last four HOLDUP_SENSE readings, newest first (R367), and the copies of the always-on
registers as the last slow-clock edge refreshed them (R51), by block offset, each as the difference (XOR) from its word at
reset. -/
structure Hk where
  ch : Table (BitVec 16) := []
  holdup : List Nat := []
  rounds : Nat := 0
  roundAt : Nat := 0
  copies : Table W32 := []
  deriving DecidableEq, Repr

/-- A vent record (R373): namespace, first LBA, block count and owner, the slot, epoch and counter of its frame (R263), the raw
dovetail frame, and which of its blocks are poisoned (R328). -/
structure VentRec where
  ns : Nat
  lba : Nat
  n : Nat
  owner : Nat
  slot : Option Nat
  epoch : Nat
  counter : Nat
  frame : List Byte
  poisoned : List Nat
  deriving DecidableEq, Repr

/-- A Vent in progress (R372): what started it, the mode and HALT cause it returns to, whether HALT follows
(R386) and whether its dump has ended; `blocks`: blocks in records durable so far. Causes: 0 VIN, 1 PERST_N, 2 thermal. -/
structure VentRun where
  cause : Nat
  fromMode : Mode
  fromWhy : Nat
  shut : Bool
  perst : Bool
  dumped : Bool
  start : Nat
  mib : Nat
  blocks : Nat := 0
  deriving DecidableEq, Repr

/-- Hold-up and Vent (chapter 17). `deb`, `warn`, `recover`: as latched at the last accepted enable (R61, R371). `poolCap`: blocks
that the vent pool holds, fixed at the first START (R373); `testMib`: what a VENT_TEST takes of it (R377). -/
structure Hold where
  cap : Nat := 0
  vmin : Nat := 0
  low : Bool := false
  tested : Bool := false
  cmeas : Nat := 0
  testRun : Bool := false
  testDue : Bool := false
  lastTest : Nat := 0
  dips : Nat := 0
  vents : Nat := 0
  last : Nat := 0
  debounce : Option Nat := none
  lowVin : Nat := 0
  vent : Option VentRun := none
  deb : Nat := 50
  warn : Nat := 10800
  recover : Nat := 11400
  pool : List VentRec := []
  poolCap : Nat := 0
  testMib : Nat := 0
  ceil : Nat := 0
  waitHoldup : Bool := false
  deriving DecidableEq, Repr

/-- One threshold as last accepted (R382): level and hysteresis in 0.125 °C. -/
structure Thr where
  level : Int
  hyst : Nat
  deriving DecidableEq, Repr

/-- A Thermal History entry (R424). -/
structure TEnt where
  time : Nat
  thr : Nat
  entry : Bool
  reading : Int
  kerf : Nat
  deriving DecidableEq, Repr

/-- The thermal manager (chapter 18). `fastAt`: slow tick of the last fast sample. `lvlNs`, `kerfTotal`: device time at each level
and under kerfs (R424), counted up to `since`. `held`: Thermal History entries of WATCH, newest first, that the next exit writes
(R355); `evOwed`: functions whose SMART temperature bit was set in WATCH, whose events the exit posts (R380). -/
structure Therm where
  warn : Thr := ⟨760, 40⟩
  throt : Thr := ⟨840, 40⟩
  shut : Thr := ⟨944, 40⟩
  thrPace : Nat := 850
  warnOn : Bool := false
  throtOn : Bool := false
  shutOn : Bool := false
  kerf : Nat := 0
  ttarget : Nat := 1250
  fast : Bool := false
  fastAt : Nat := 0
  max : Int := -32768
  last : Int := 0
  lvlNs : Table Nat := []
  kerfTotal : Nat := 0
  since : Nat := 0
  held : List TEnt := []
  evOwed : List Nat := []
  deriving DecidableEq, Repr

/-- AON_ZEROIZE (R417). -/
structure Zer where
  pend : Bool := false
  held : Bool := false
  count : Nat := 0
  deriving DecidableEq, Repr

/-- A Vendor Health log entry (R424). -/
structure HEnt where
  time : Nat
  typ : Nat
  cause : Nat := 0
  subj : Nat := 0
  obj : Nat := 0
  lba : Nat := 0
  count : Nat := 0
  deriving DecidableEq, Repr

/-- A Vendor Vent log entry (R424). -/
structure VEnt where
  time : Nat
  kind : Nat
  lowVin : Nat := 0
  dur : Nat := 0
  mib : Nat := 0
  records : Nat := 0
  blocks : Nat := 0
  deriving DecidableEq, Repr

/-- Replace Request and the vendor logs (chapter 20). Logs list newest first. -/
structure Rep where
  causes : BitVec 6 := 0
  first : Nat := 0
  raisedAt : Nat := 0
  health : List HEnt := []
  healthN : Nat := 0
  thermal : List TEnt := []
  thermalN : Nat := 0
  vent : List VEnt := []
  ventN : Nat := 0
  deriving DecidableEq, Repr

/-- Dirty-page logging of one tenant (R436 to R439): granules set in each half, and the coverage. -/
structure DLog where
  on : Bool := false
  big : Bool := false
  half : Bool := false
  ovf : Bool := false
  pages : Nat := 0
  cover : Nat := 0
  set0 : List Nat := []
  set1 : List Nat := []
  deriving DecidableEq, Repr

/-- Migration (chapter 21): dirty logs, aborted counts, the running freeze. -/
structure Mig where
  dlog : Table DLog := []
  aborted : Table Nat := []
  freeze : Option Nat := none
  frzStart : Nat := 0
  drained : Nat := 0
  saveSeq : BitVec 32 := 0
  deriving DecidableEq, Repr

/-- Fleet identity and witness mark (chapter 22). -/
structure Flt where
  sysid : BitVec 64 := 0
  member : Nat := 0
  epoch : W32 := 0
  expected : BitVec 128 := 0
  expValid : Bool := false
  computed : BitVec 128 := 0
  seq : BitVec 16 := 0
  mismatch : Bool := false
  settle : Option Nat := none
  posted : Bool := false
  deriving DecidableEq, Repr

/-- The four 128-bit counters of a tenant (R55, R470); the PF's own counts are kept under 1,024. -/
structure Ctrs where
  wr : Nat := 0
  rd : Nat := 0
  media : Nat := 0
  cmds : Nat := 0
  wrCmds : Nat := 0
  rdCmds : Nat := 0
  deriving DecidableEq, Repr

/-- Class P content outside the registers (R67): profiles with their enable state, hint bindings by namespace, lock definitions, the fleet
identity and the watch configuration. -/
structure Cfg where
  profiles : Table Profile := []
  hints : Table (List (Nat × Nat)) := []
  locks : Table LockRange := []
  sysid : BitVec 64 := 0
  member : Nat := 0
  epoch : W32 := 0
  watchMask : BitVec 12 := 0
  watchPeriod : Nat := 1000
  thr : Table (Nat × Nat) := []
  deriving DecidableEq, Repr

/-- Sanitize Status (R471): the last 0407h, and whether it restarts at the next START (R98). -/
structure San where
  action : Nat := 0
  target : Nat := 0
  running : Bool := false
  outcome : Nat := 0
  erases : List (Nat × Nat) := []
  total : Nat := 0
  deriving DecidableEq, Repr

/-- The whole state of the block, and the queue of commands that wait, first in, first out. `norCfg`: the NOR configuration beside `nor`
(R67); `journal`: the LUNs that hold the copies of the journal records (R281). -/
structure State where
  clk : Clk := {}
  md : Md := {}
  pin : Pin := {}
  regs : Table W32 := []
  rsv : Table W32 := []
  nor : Table W32 := []
  pPend : List Nat := []
  psaveFail : Bool := false
  aonQ : List AonWrite := []
  aonHeld : List AonWrite := []
  refuse : Table Refuse := []
  wvTop : WvWin := {}
  wvVf : Table WvWin := []
  gat : Gat := {}
  pace : Pace := {}
  mbx : Mbx := {}
  numVfs : Nat := 0
  vfEnable : Bool := false
  tenants : Table Tenant := []
  gens : Table (BitVec 16) := []
  fns : Table Fn := []
  sqs : List Sq := []
  cqs : List Cq := []
  cmds : List Cmd := []
  nextOrd : Nat := 0
  sent : List Xfer := []
  qos : Qos := {}
  nss : Table (Option Ns) := []
  zones : Table Zone := []
  profiles : Table Profile := []
  conv : Table Conv := []
  cache : List CBlk := []
  jobs : Table (Option Job) := []
  rjobs : Table (Option RJob) := []
  rels : Table (Option Rel) := []
  offs : Table (Option Off) := []
  rebs : Table (Option Reb) := []
  journal : List Nat := []
  nextJob : Nat := 0
  ops : List Op := []
  runs : List Run := []
  fltc : List Nat := []
  fltcMiss : Nat := 0
  cdc : Table Cdc := []
  cip : Table Cip := []
  vault : Vault := {}
  co : Co := {}
  sec : Sec := {}
  fw : Fw := {}
  chans : Table Chan := []
  luns : Table Lun := []
  norCfg : Cfg := {}
  suspCount : Table Nat := []
  suspExh : Table Nat := []
  locks : Table LockRange := []
  dram : Dram := {}
  sram : Sram := {}
  pwr : Pwr := {}
  hk : Hk := {}
  hold : Hold := {}
  therm : Therm := {}
  zer : Zer := {}
  rep : Rep := {}
  mig : Mig := {}
  flt : Flt := {}
  ctr : Table Ctrs := []
  ctrStored : Table Ctrs := []
  san : San := {}
  replayed : Bool := false
  freeCtr : Nat := 0
  pending : List Instr := []
  deriving DecidableEq, Repr

/-- The machine right after power-on reset, PORST_N still low (R79, R458, R464): every register at its default,
nothing discovered, nothing stored but the recovery image (assumption log 1 and 2). -/
def State.reset : State := {}

end Sys2Proof.Machine
end

