-- ==== Sys2Proof/Machine/Regs.lean ====
section
/-!
DEFINITION. The rw fields of the Control window, as the register tables of the chapters give them, and the rules
that act on every register alike: reset values, the four aliases (R45 to R47), stored limits, class P storing (R67)
and the retention classes against resets (R68). A register of the table `regs` is kept as the difference (XOR)
from its default, so that a register at its default is not listed.
-/
namespace Sys2Proof.Machine

open Sys2Proof

/-- Retention classes (chapter 00). -/
inductive Cls where
  | p | a | f | c | t | v
  deriving DecidableEq, Repr

/-- One rw field: bits [hi:lo], default, class, limits kept at a write ("stored at the nearer limit"), and
whether it is an ENABLE or ARM bit that runs the enable gate (R58). -/
structure RwF where
  hi : Nat
  lo : Nat
  dflt : Nat := 0
  cls : Cls := .p
  min : Nat := 0
  max : Nat := 0xFFFFFFFF
  gate : Bool := false
  deriving DecidableEq, Repr

/-- rw fields of the TOP block (chapters 02, 03). -/
def rwTop : Nat → List RwF
  | 0x0200 => [{ hi := 16, lo := 16, dflt := 1, gate := true }, { hi := 11, lo := 8, dflt := 5 },
               { hi := 7, lo := 0, dflt := 20 }]
  | 0x0204 => [{ hi := 10, lo := 0, dflt := 1000, cls := .c }]
  | 0x0208 => [{ hi := 9, lo := 0, dflt := 850 }]
  | _ => []

/-- rw fields of the MBX block (chapter 05). -/
def rwMbx (o : Nat) : List RwF :=
  if o = 0 then [{ hi := 18, lo := 18, cls := .f }, { hi := 17, lo := 17, cls := .f },
                 { hi := 16, lo := 16, cls := .f }, { hi := 15, lo := 0, cls := .f }]
  else if 0x10 ≤ o ∧ o ≤ 0x58 ∧ o % 4 = 0 then [{ hi := 31, lo := 0, cls := .f }]
  else []

/-- rw fields of the AON block (chapters 16 to 18). -/
def rwAon (o : Nat) : List RwF :=
  if o = 0x34 then [{ hi := 31, lo := 0, cls := .a }]
  else if o = 0x40 then [{ hi := 31, lo := 16, dflt := 0x7FFF }, { hi := 15, lo := 0, dflt := 0x8000 }]
  else if 0x44 ≤ o ∧ o ≤ 0x6C ∧ o % 4 = 0 then [{ hi := 31, lo := 16, dflt := 0xFFFF }, { hi := 15, lo := 0 }]
  else match o with
  | 0x100 => [{ hi := 23, lo := 16, dflt := 40 }, { hi := 15, lo := 0, dflt := 760 }]
  | 0x104 => [{ hi := 23, lo := 16, dflt := 40 }, { hi := 15, lo := 0, dflt := 840 }]
  | 0x108 => [{ hi := 23, lo := 16, dflt := 40 }, { hi := 15, lo := 0, dflt := 944 }]
  | 0x10C => [{ hi := 31, lo := 31, dflt := 1, gate := true }, { hi := 10, lo := 0, dflt := 850 }]
  | 0x200 => [{ hi := 31, lo := 31, dflt := 1, gate := true }, { hi := 24, lo := 16, dflt := 50 }]
  | 0x204 => [{ hi := 31, lo := 16, dflt := 11400 }, { hi := 15, lo := 0, dflt := 10800 }]
  | 0x214 => [{ hi := 31, lo := 16, dflt := 3000, min := 3000, max := 30000 },
              { hi := 15, lo := 0, dflt := 1700, min := 1700, max := 20000 }]
  | _ => []

/-- Reset home bits of the address map functions SUB, CH0, CH1, BG0, BG1, BG2, BA0, BA1 (R314). -/
def mapHome : List Nat := [6, 7, 8, 12, 13, 14, 15, 16]

/-- rw fields of the DRMC block (chapter 14). -/
def rwDrmc (o : Nat) : List RwF :=
  if 0x10 ≤ o ∧ o < 0x50 ∧ o % 4 = 0 then
    let home := mapHome.getD ((o - 0x10) / 8) 0
    if o % 8 = 0 then [{ hi := 31, lo := 6, dflt := 2 ^ home / 64 }]
    else [{ hi := 21, lo := 16, dflt := home }, { hi := 7, lo := 0 }]
  else match o with
  | 0x00 => [{ hi := 16, lo := 16, dflt := 1 }]
  | 0x04 => [{ hi := 8, lo := 8, dflt := 1, gate := true }, { hi := 2, lo := 0 }]
  | 0x60 => [{ hi := 9, lo := 9, dflt := 1 }, { hi := 8, lo := 8, dflt := 1 },
             { hi := 3, lo := 0, dflt := 8, min := 1, max := 8 }]
  | 0x64 => [{ hi := 31, lo := 16, dflt := 1000, min := 100, max := 60000 },
             { hi := 15, lo := 8, dflt := 20, min := 5, max := 100 }]
  | 0x70 => [{ hi := 31, lo := 16, dflt := 1000 }, { hi := 7, lo := 0, dflt := 24 }]
  | 0x80 => [{ hi := 3, lo := 0, cls := .v }]
  | 0x8C => [{ hi := 15, lo := 0 }]
  | _ => []

/-- rw fields of the blocks KEYV, QOS, ZONE, MEMP, FLT and MIG, by Control window offset. -/
def rwDev : Nat → List RwF
  | 0x40000 => [{ hi := 31, lo := 16, dflt := 0xFFFF, cls := .v }, { hi := 11, lo := 0, cls := .v }]
  | 0x60010 => [{ hi := 9, lo := 0, cls := .v }]
  | 0x60028 => [{ hi := 7, lo := 0, dflt := 16, min := 1 }]
  | 0x70110 => [{ hi := 9, lo := 0, cls := .v }]
  | 0x70120 => [{ hi := 6, lo := 0, dflt := 8, min := 1, max := 64 }]
  | 0x70130 => [{ hi := 7, lo := 0, cls := .v }]
  | 0x90010 => [{ hi := 10, lo := 0, cls := .v }]
  | 0xA000C => [{ hi := 9, lo := 0, dflt := 5, max := 600 }]
  | 0xA0010 => [{ hi := 0, lo := 0, cls := .c }]
  | 0xA0014 => [{ hi := 31, lo := 0, cls := .c }]
  | 0xB0000 => [{ hi := 9, lo := 0, cls := .v }]
  | _ => []

/-- rw fields of a section's SEC, CDC and CIP blocks and of a CHU block (block number within the section, block
offset; chapters 10, 12, 13). -/
def rwSec (b o : Nat) : List RwF :=
  match b, o with
  | 0, 0x100 => [{ hi := 31, lo := 31, dflt := 1 }, { hi := 30, lo := 30, dflt := 1 },
                 { hi := 27, lo := 24, dflt := 8, min := 1 }, { hi := 23, lo := 12, dflt := 40, min := 10, max := 200 },
                 { hi := 11, lo := 0, dflt := 15, min := 5, max := 100 }]
  | 0, 0x110 => [{ hi := 27, lo := 16, dflt := 300, min := 100, max := 2000 }, { hi := 7, lo := 0, dflt := 64, min := 8 }]
  | 0, 0x114 => [{ hi := 21, lo := 16, dflt := 4, max := 32 }, { hi := 15, lo := 0, dflt := 96 }]
  | 0, 0x118 => [{ hi := 7, lo := 0 }]
  | 1, 0x000 => [{ hi := 8, lo := 8 }, { hi := 3, lo := 0, dflt := 4, min := 2, max := 12 }]
  | 2, 0x000 => [{ hi := 8, lo := 8 }, { hi := 4, lo := 4, dflt := 1 }, { hi := 2, lo := 0, dflt := 2, max := 4 }]
  | b, o =>
    if b < 4 ∨ 11 < b then [] else
    match o with
    | 0x00 => [{ hi := 1, lo := 0, dflt := 1, max := 1 }]
    | 0x08 => [{ hi := 23, lo := 16, dflt := 64 }, { hi := 15, lo := 0, dflt := 1000, min := 100, max := 60000 }]
    | 0x10 => [{ hi := 6, lo := 0, cls := .v }]
    | 0x1C => [{ hi := 11, lo := 8, dflt := 8 }, { hi := 1, lo := 0, dflt := 3 }]
    | _ => []

/-- The rw fields at a normal Control window offset (R41); none where the offset is reserved or read-only. -/
def rwFields (off : Nat) : List RwF :=
  if off < 0x10000 then []
  else if off < 0x20000 then rwTop (off - 0x10000)
  else if off < 0x30000 then rwMbx (off - 0x20000)
  else if off < 0x40000 then rwAon (off - 0x30000)
  else if 0x80000 ≤ off ∧ off < 0x90000 then rwDrmc (off - 0x80000)
  else if off < 0x100000 then rwDev off
  else if off < 0x900000 then rwSec (off % 0x100000 / 0x10000) (off % 0x10000)
  else []

/-- A register's word with every rw field at its default and the other bits 0. -/
def regDefault (off : Nat) : W32 := (rwFields off).foldl (fun w f => putFld w f.hi f.lo f.dflt) 0

/-- The stored rw bits of the register at a normal offset. -/
def regGet (s : State) (off : Nat) : W32 := tget 0 s.regs off ^^^ regDefault off

/-- Store rw bits. -/
def regPut (s : State) (off : Nat) (v : W32) : State :=
  { s with regs := tset 0 s.regs off (v ^^^ regDefault off) }

/-- Field [hi:lo] of a stored register. -/
def regFld (s : State) (off hi lo : Nat) : Nat := fld (regGet s off) hi lo

/-- The effect of an alias on a stored word (R45). -/
def aliasWord : RegAlias → W32 → W32 → W32
  | .normal, _, w => w
  | .setBits, old, w => old ||| w
  | .clearBits, old, w => old &&& ~~~w
  | .toggleBits, old, w => old ^^^ w

/-- A written word as it is stored: only rw fields, each held within its limits; a gate bit keeps its old value
(the enable gate decides it, R58). -/
def storeWord (off : Nat) (old new : W32) : W32 :=
  (rwFields off).foldl (fun w f =>
    putFld w f.hi f.lo (if f.gate then fld old f.hi f.lo else clampN f.min f.max (fld new f.hi f.lo))) old

/-- Insert into a rising list without repeats. -/
def insNat (x : Nat) : List Nat → List Nat
  | [] => [x]
  | y :: t => if x < y then x :: y :: t else if x = y then y :: t else y :: insNat x t

/-- Mark a class P register as not yet stored in the NOR configuration (R67). -/
def markP (s : State) (off : Nat) : State :=
  if (rwFields off).any (·.cls = .p) then { s with pPend := insNat off s.pPend } else s

/-- The rw bits of a register. -/
def rwMask (off : Nat) : W32 := (rwFields off).foldl (fun w f => w ||| maskOf f.hi f.lo) 0

/-- Registers whose reserved bits an enable gate checks (R10, R258, R314, R381), and MBX_CMD (R91). -/
def gateChecked (off : Nat) : Bool :=
  off ∈ [0x10200, 0x10204, 0x20000, 0x10208, 0x30100, 0x30104, 0x30108, 0x3010C, 0x30200, 0x30204, 0x40000, 0x80004] ||
  (0x80010 ≤ off && off < 0x80050)

/-- A plain register write through an alias, with no gate (R45 to R47, R67). Reserved bits read 0; those that a gate
checks are remembered for it (R10). -/
def regWrite (s : State) (al : RegAlias) (off : Nat) (v : W32) : State :=
  let s' := markP (regPut s off (storeWord off (regGet s off) (aliasWord al (regGet s off) v))) off
  if gateChecked off then
    { s' with rsv := tset 0 s'.rsv off (aliasWord al (tget 0 s.rsv off) (v &&& ~~~(rwMask off))) }
  else s'

/-- Set one field of a register, as the device itself sets a gate bit or DRMC_RETIRED. -/
def regSetFld (s : State) (off hi lo v : Nat) : State :=
  markP (regPut s off (putFld (regGet s off) hi lo v)) off

/-- The NOR copy of the class P fields of a register (R67). -/
def norGet (s : State) (off : Nat) : W32 := tget 0 s.nor off ^^^ regDefault off

/-- The fields of a register that the classes `cs` name, back at their defaults. -/
def defaultFlds (cs : List Cls) (off : Nat) (w : W32) : W32 :=
  (rwFields off).foldl (fun w f => if f.cls ∈ cs then putFld w f.hi f.lo f.dflt else w) w

/-- Control window registers after an event that defaults the classes `cs` (R68). -/
def regsDefault (cs : List Cls) (s : State) : State :=
  { s with regs := tmap 0 (fun off d => defaultFlds cs off (d ^^^ regDefault off) ^^^ regDefault off) s.regs }

/-- The class P fields of a register as NOR holds them. -/
def reloadFlds (s : State) (off : Nat) (w : W32) : W32 :=
  (rwFields off).foldl (fun w f => if f.cls = .p then putFld w f.hi f.lo (fld (norGet s off) f.hi f.lo) else w) w

/-- Class P reloaded from the NOR configuration (R67, R68); a write not yet stored is lost, and reserved bits, which are no
fields, with it. -/
def regsReloadP (s : State) : State :=
  let offs := tkeys s.regs ++ tkeys s.nor
  { offs.foldl (fun s' off => regPut s' off (reloadFlds s off (regGet s off))) s with pPend := [], rsv := [] }

/-- The class P content outside the registers as it is in force (R180, R305, R356, R442). -/
def cfgOf (s : State) : Cfg :=
  { profiles := s.profiles,
    hints := s.nss.filterMap fun e => e.2.bind fun n => if n.hints = [] then none else some (e.1, n.hints),
    locks := tmap {} (fun _ l => { l with locked := false, since := 0, attempts := 5 }) s.locks,
    sysid := s.flt.sysid, member := s.flt.member, epoch := s.flt.epoch,
    watchMask := s.pwr.watchMask, watchPeriod := s.pwr.watchPeriod, thr := s.pwr.thr }

/-- Whether a class P write is not yet stored (R67). -/
def pOwed (s : State) : Bool := s.pPend ≠ [] || cfgOf s ≠ s.norCfg

/-- That content reloaded from the NOR configuration (R67, R68), every defined range locked (R306). -/
def cfgReload (s : State) : State :=
  let c := s.norCfg
  { s with profiles := c.profiles, nss := tmap none (fun k n => n.map fun n => { n with hints := tget [] c.hints k }) s.nss,
           locks := tmap {} (fun _ l => { l with locked := l.defined }) c.locks,
           flt := { s.flt with sysid := c.sysid, member := c.member, epoch := c.epoch },
           pwr := { s.pwr with watchMask := c.watchMask, watchPeriod := c.watchPeriod, thr := c.thr } }

/-- Store every pending class P write in NOR (R67). -/
def storeP (s : State) : State :=
  { s with nor := s.pPend.foldl (fun t off => tset 0 t off (regGet s off ^^^ regDefault off)) s.nor, pPend := [], norCfg := cfgOf s }

/-! ### Addresses of the sections and channels (R13 to R15) -/

/-- Block base of section `k`. -/
def secBase (k : Nat) : Nat := 0x100000 + k * 0x100000
/-- Block base of section `k`'s codec engine. -/
def cdcBase (k : Nat) : Nat := secBase k + 0x10000
/-- Block base of section `k`'s cipher engine. -/
def cipBase (k : Nat) : Nat := secBase k + 0x20000
/-- Block base of channel unit `n` (R15). -/
def chuBase (n : Nat) : Nat := 0x100000 + n / 8 * 0x100000 + 0x40000 + n % 8 * 0x10000
/-- Section of a channel. -/
def chanSec (n : Nat) : Nat := n / 8
/-- Channel of a device LUN. -/
def lunChan (l : Nat) : Nat := l / 128
/-- Section of a device LUN. -/
def lunSec (l : Nat) : Nat := l / 1024
/-- Device LUN number of channel-local index `i` on channel `n` (R14). -/
def lunNo (n i : Nat) : Nat := n * 128 + i

/-! ### The enable gate's record (R60) -/

/-- Record the outcome of a gate run in the block at `base`: field at block offset `off`, bit `bit`. -/
def gateRecord (s : State) (base off bit code obj : Nat) : State :=
  let r := tget {} s.refuse base
  let r' : Refuse := if code = 0 then ⟨r.seq + 1, 0, 0, 0, obj⟩ else ⟨r.seq + 1, bit, off / 4, code, obj⟩
  { s with refuse := tset {} s.refuse base r' }

/-- *_REFUSE of the block at `base`. -/
def refuseWord (s : State) (base : Nat) : W32 :=
  let r := tget {} s.refuse base
  w32 (r.seq.toNat * 2 ^ 28 + r.bit * 2 ^ 20 + r.word * 256 + r.code)

end Sys2Proof.Machine
end

