-- ==== Sys2Proof/Machine/Ops.lean ====
section
/-!
DEFINITION. Named operations over the state that every family shares: access to the records of functions, tenants,
LUNs and slots; device time and mode; the logs, Replace Request and asynchronous events; completion entries and
MSI-X messages; the generation check and dirty-page logging at egress.
-/
namespace Sys2Proof.Machine

open Sys2Proof

/-! ### Records -/

/-- The NVMe front-end of function `f` (0 the PF, v the VF v). -/
def fnOf (s : State) (f : Nat) : Fn := tget {} s.fns f
/-- Change function `f`. -/
def modFn (f : Nat) (g : Fn → Fn) (s : State) : State := { s with fns := tset {} s.fns f (g (fnOf s f)) }
/-- The record of tenant `t`. -/
def tnOf (s : State) (t : Nat) : Tenant := tget {} s.tenants t
/-- Change tenant `t`. -/
def modTn (t : Nat) (g : Tenant → Tenant) (s : State) : State :=
  { s with tenants := tset {} s.tenants t (g (tnOf s t)) }
/-- Generation of function `f`. -/
def genOf (s : State) (f : Nat) : BitVec 16 := tget 0 s.gens f
/-- A LUN. -/
def lunOf (s : State) (l : Nat) : Lun := tget {} s.luns l
/-- Change a LUN. -/
def modLun (l : Nat) (g : Lun → Lun) (s : State) : State := { s with luns := tset {} s.luns l (g (lunOf s l)) }
/-- A channel unit. -/
def chanOf (s : State) (c : Nat) : Chan := tget {} s.chans c
/-- Change a channel unit. -/
def modChan (c : Nat) (g : Chan → Chan) (s : State) : State := { s with chans := tset {} s.chans c (g (chanOf s c)) }
/-- Key of a zone in the zone table. -/
def zkey (ns z : Nat) : Nat := ns * 2 ^ 24 + z
/-- Key of a block of a conventional namespace. -/
def ckey (ns lba : Nat) : Nat := ns * 2 ^ 32 + lba
/-- A zone. -/
def zoneOf (s : State) (ns z : Nat) : Zone := tget {} s.zones (zkey ns z)
/-- Change a zone. -/
def modZone (ns z : Nat) (g : Zone → Zone) (s : State) : State :=
  { s with zones := tset {} s.zones (zkey ns z) (g (zoneOf s ns z)) }
/-- A block of a conventional namespace. -/
def convOf (s : State) (ns lba : Nat) : Conv := tget {} s.conv (ckey ns lba)
/-- Change a conventional block. -/
def modConv (ns lba : Nat) (g : Conv → Conv) (s : State) : State :=
  { s with conv := tset {} s.conv (ckey ns lba) (g (convOf s ns lba)) }
/-- A namespace, when it exists. -/
def nsOf (s : State) (ns : Nat) : Option Ns := tget none s.nss ns
/-- Store a namespace. -/
def setNs (ns : Nat) (n : Option Ns) (s : State) : State := { s with nss := tset none s.nss ns n }
/-- A placement profile. -/
def profOf (s : State) (p : Nat) : Profile := tget {} s.profiles p
/-- Change a profile. -/
def modProf (p : Nat) (g : Profile → Profile) (s : State) : State :=
  { s with profiles := tset {} s.profiles p (g (profOf s p)) }
/-- A cipher engine. -/
def cipOf (s : State) (k : Nat) : Cip := tget {} s.cip k
/-- Change a cipher engine. -/
def modCip (k : Nat) (g : Cip → Cip) (s : State) : State := { s with cip := tset {} s.cip k (g (cipOf s k)) }
/-- A codec engine's counters. -/
def cdcOf (s : State) (k : Nat) : Cdc := tget {} s.cdc k
/-- Change a codec engine's counters. -/
def modCdc (k : Nat) (g : Cdc → Cdc) (s : State) : State := { s with cdc := tset {} s.cdc k (g (cdcOf s k)) }
/-- A DRAM rank by device rank number. -/
def rankOf (s : State) (r : Nat) : Rank := tget {} s.dram.ranks r
/-- Change a DRAM rank. -/
def modRank (r : Nat) (g : Rank → Rank) (s : State) : State :=
  { s with dram := { s.dram with ranks := tset {} s.dram.ranks r (g (rankOf s r)) } }
/-- A data slot of the live vault. -/
def slotOf (s : State) (k : Nat) : Slot := tget {} s.vault.live.slots k
/-- Change a data slot of the live vault. -/
def modSlot (k : Nat) (g : Slot → Slot) (s : State) : State :=
  { s with vault := { s.vault with live := { s.vault.live with slots := tset {} s.vault.live.slots k (g (slotOf s k)) } } }
/-- A contender of admission (tenant, or 1,024 for the PF). -/
def contOf (s : State) (i : Nat) : Cont := tget {} s.qos.conts i
/-- Change a contender. -/
def modCont (i : Nat) (g : Cont → Cont) (s : State) : State :=
  { s with qos := { s.qos with conts := tset {} s.qos.conts i (g (contOf s i)) } }
/-- Counters of a tenant (1,024: the PF). -/
def ctrOf (s : State) (i : Nat) : Ctrs := tget {} s.ctr i
/-- Change counters. -/
def modCtr (i : Nat) (g : Ctrs → Ctrs) (s : State) : State := { s with ctr := tset {} s.ctr i (g (ctrOf s i)) }

/-- Contender number of a function: tenant v − 1 of VF v, 1,024 for the PF. -/
def contNo (f : Nat) : Nat := if f = 0 then 1024 else f - 1
/-- Owner value of a function: tenant number, or FFFFh for the PF. -/
def ownerNo (f : Nat) : Nat := if f = 0 then 0xFFFF else f - 1
/-- Function of an owner value. -/
def ownerFn (o : Nat) : Nat := if o = 0xFFFF then 0 else o + 1

/-- A table of the keys below `n`, built in one pass. -/
def tgen {α : Type} [DecidableEq α] (d : α) (n : Nat) (g : Nat → α) : Table α :=
  ((List.range n).map fun i => (i, g i)).filter fun p => p.2 ≠ d

/-- Whether VF v is present (VF Enable set, NumVFs covers it; R79); the PF always is. -/
def fnPresent (s : State) (f : Nat) : Bool := f = 0 || (s.vfEnable && f ≤ s.numVfs)

/-- The PF counts as an enabled owner while CC.EN is 1; a tenant while Enabled or Frozen has its own rules. -/
def ownerEnabled (s : State) (o : Nat) : Bool :=
  if o = 0xFFFF then (fnOf s 0).en else (tnOf s o).st = .enabled

/-! ### Time and mode -/

/-- Nanoseconds carried by `n` slow ticks (R40), a multiple of 10. -/
def ticksNs (n : Nat) : Nat := n * 30517578 / 1000 / 10 * 10

/-- Device time (R39, R40): the base, or the value at loss plus the slow ticks since. -/
def now (s : State) : Nat := if s.clk.refOn then s.clk.time else s.clk.lossTime + ticksNs s.clk.lossTicks

/-- TOP_MODE at a change of mode (R44). -/
def setMode (m : Mode) (s : State) : State :=
  if s.md.cur = m then { s with md := { s.md with haltWhy := 0 } }
  else { s with md := { s.md with prev := s.md.cur, cur := m, haltWhy := 0 } }

/-- Enter HALT with its cause (R44). -/
def enterHalt (why : Nat) (s : State) : State :=
  let s := setMode .halt s
  { s with md := { s.md with haltWhy := why } }

/-- 3-bit code of a mode. -/
def modeCode : Mode → Nat
  | .start => 0 | .run => 1 | .quiesce => 2 | .doze => 3 | .watch => 4 | .vent => 5 | .halt => 6

/-- A free value of `w` bits, and the state with the next one in turn (assumption log 6). -/
def freeBitsAt (w : Nat) (s : State) : BitVec w := Config.freeBits w s.freeCtr
/-- Advance past a free value. -/
def freeNext (s : State) : State := { s with freeCtr := s.freeCtr + 1 }

/-- Thermal level (R380): the highest threshold in force. -/
def thermLevel (s : State) : Nat :=
  if s.therm.shutOn then 3 else if s.therm.throtOn then 2 else if s.therm.warnOn then 1 else 0

/-- Cause for which admission is stopped device-wide (R171); 0 for none. A completed thermal shut-down keeps the
stop of its Vent (R386). -/
def admCause (s : State) : Nat :=
  if s.md.cur = .vent ∨ (s.md.cur = .halt ∧ s.md.haltWhy = 2) then 2
  else match (fnOf s 0).drain with
    | some k => if 16 ≤ k then 3 else if s.pwr.trans.any (fun t => 3 ≤ t.target || t.exiting) then 4 else 0
    | none =>
      if s.pwr.trans.any (fun t => 3 ≤ t.target || t.exiting) ∨ s.md.cur = .doze ∨ s.md.cur = .watch then 4
      else if s.md.cur = .quiesce ∨ s.fw.act.any (fun a => !a.withReset) then 1 else 0

/-- The capsule of R171: admission may take entries. -/
def admitting (s : State) : Bool := admCause s = 0 && s.md.cur ≠ .start

/-! ### Egress: what leaves the device -/

/-- Rows of a macro that the factory fuse map replaces: two spare rows a macro (R343). -/
def fusedRows (s : State) (m : Nat) : List Nat := if s.sram.fused then (Config.fuseRows m).take 2 else []

/-- The column of a macro that the factory fuse map replaces (R343). -/
def fusedCol (s : State) (m : Nat) : Option Nat := if s.sram.fused then Config.fuseCol m else none

/-- Record a transfer on the link or the sideband. -/
def emit (x : Xfer) (s : State) : State := { s with sent := x :: s.sent }

/-- Set granules `g` to `g + n − 1` in the active half (R437), counting bits that change. -/
def dirtyMark (t : Nat) : Nat → Nat → State → State
  | 0, _, s => s
  | n + 1, g, s =>
    let d := tget {} s.mig.dlog t
    let cur := if d.half then d.set1 else d.set0
    let d' : DLog :=
      if d.cover ≤ g then { d with ovf := true }
      else if g ∈ cur then d
      else if d.half then { d with set1 := insNat g d.set1, pages := d.pages + 1 }
      else { d with set0 := insNat g d.set0, pages := d.pages + 1 }
    let s' := { s with mig := { s.mig with dlog := tset {} s.mig.dlog t d' } }
    let s' := if d.cover ≤ g ∨ g ∈ cur then s' else emit (.dirtyBit t d.half g) s'
    dirtyMark t n (g + 1) s'

/-- Dirty-page logging of a host write of `len` bytes at `addr` by function `f` (R437, R123). -/
def dirtyLog (f addr len : Nat) (s : State) : State :=
  if f = 0 ∨ len = 0 then s else
  let d := tget {} s.mig.dlog (f - 1)
  if ¬ d.on then s else
  let gran := if d.big then 0x200000 else 0x1000
  dirtyMark (f - 1) ((addr + len - 1) / gran - addr / gran + 1) (addr / gran) s

/-- Log the part of a command's host segments that bytes [off, off + len) of its data occupy. -/
def dirtyLogSegs (f off len : Nat) : List (Nat × Nat) → State → State
  | [], s => s
  | (a, n) :: rest, s =>
    if len = 0 then s
    else if n ≤ off then dirtyLogSegs f (off - n) len rest s
    else
      let k := min (n - off) len
      dirtyLogSegs f 0 (len - k) rest (dirtyLog f (a + off) k s)

/-- A data write of command `c` to host memory: it passes the generation check or is dropped (R24, R119, R123). -/
def sendData (c : Cmd) (off : Nat) (bytes : List Byte) (s : State) : State :=
  if c.gen ≠ genOf s c.id.func ∨ bytes = [] then s
  else dirtyLogSegs c.id.func off bytes.length c.e.segs (emit (.data c.id off bytes) s)

/-! ### MSI-X messages (R107 to R111) -/

/-- Key of a feature value. -/
def featKey (fid sub : Nat) : Nat := fid * 65536 + sub

/-- Default of a feature (R137): C1h 2, 8 and 50 ms (R139); the over-temperature threshold at WCTEMP (log 22). -/
def featDefault (fid sub : Nat) : W32 :=
  if fid = 0xC1 then 0x00320802 else if fid = 4 ∧ sub = 0 then 368 else 0

/-- A feature's current value. -/
def featGet (fn : Fn) (fid sub : Nat) : W32 := tget 0 fn.feats (featKey fid sub) ^^^ featDefault fid sub
/-- Set a feature. -/
def featSet (fid sub : Nat) (v : W32) (fn : Fn) : Fn :=
  { fn with feats := tset 0 fn.feats (featKey fid sub) (v ^^^ featDefault fid sub) }

/-- Interrupt budget of a function in force; 0 for none (R109). The PF has none. -/
def budgetOf (s : State) (f : Nat) : Nat := if f = 0 then 0 else (tnOf s (f - 1)).inForce.budget

/-- Whether function `f` is a Frozen tenant (R427). -/
def frozenFn (s : State) (f : Nat) : Bool := f ≠ 0 && (tnOf s (f - 1)).st = .frozen

/-- Remove a number from a list. -/
def rmNat (x : Nat) (l : List Nat) : List Nat := l.filter (· ≠ x)

/-- Send a message at once, counting it against the budget when `count`; it clears the vector's pending state. The vector `sent last`
of R109 is taken as that of the last message counted (DESIGN CHOICE, log 94). -/
def msiSend (f v : Nat) (count : Bool) (s : State) : State :=
  emit (.msix f v) (modFn f (fun fn => { fn with
    pba := rmNat v fn.pba, urgentPba := rmNat v fn.urgentPba, held := rmNat v fn.held,
    coal := tset {} fn.coal v {}, sentMsgs := if count then fn.sentMsgs + 1 else fn.sentMsgs,
    lastVec := if count then v else fn.lastVec }) s)

/-- A message for a masked vector, or of a Frozen tenant: the pending bit (R111, R427). -/
def msiPend (f v : Nat) (urgent : Bool) (s : State) : State :=
  modFn f (fun fn => { fn with pba := insNat v fn.pba, urgentPba := if urgent then insNat v fn.urgentPba else fn.urgentPba }) s

/-- Send under the interrupt budget, or hold the message (R109). HELD of QOS_TV_INTR counts messages newly held in the epoch (DESIGN
CHOICE, log 94). -/
def msiBudget (f v : Nat) (s : State) : State :=
  let fn := fnOf s f
  if v = 0 ∨ budgetOf s f = 0 then msiSend f v false s
  else if fn.sentMsgs < budgetOf s f then msiSend f v true s
  else if v ∈ fn.held then s
  else modFn f (fun fn => { fn with pba := insNat v fn.pba, held := insNat v fn.held, heldEpoch := fn.heldEpoch + 1,
                                    coal := tset {} fn.coal v {} }) s

/-- The message that vector `v` owes: pending when masked or frozen, at once when urgent, else under the budget. -/
def msiOwe (f v : Nat) (urgent : Bool) (s : State) : State :=
  let fn := fnOf s f
  if v ∉ fn.unmasked ∨ frozenFn s f then msiPend f v urgent s
  else if urgent then msiSend f v false s
  else msiBudget f v s

/-- Whether vector `v` of a function coalesces (R108): not vector 0, not disabled by feature 09h, and feature 08h
sets a threshold and a time. -/
def coalesces (fn : Fn) (v : Nat) : Bool :=
  v ≠ 0 && !(bitOf (featGet fn 9 v) 16) && fld (featGet fn 8 0) 7 0 ≠ 0 && fld (featGet fn 8 0) 15 8 ≠ 0

/-- A completion entry was posted on vector `v` (R108 to R110). -/
def msiEntry (f v : Nat) (urgent : Bool) (s : State) : State :=
  let fn := fnOf s f
  if urgent ∨ ¬ coalesces fn v then msiOwe f v urgent s
  else
    let c := tget {} fn.coal v
    if fld (featGet fn 8 0) 7 0 < c.count + 1 then
      msiOwe f v false (modFn f (fun fn => { fn with coal := tset {} fn.coal v {} }) s)
    else modFn f (fun fn => { fn with coal := tset {} fn.coal v ⟨c.count + 1, some (c.since.getD (now s))⟩ }) s

/-! ### Completion entries (R150) -/

/-- The completion queue `q` of function `f`. -/
def cqOf (s : State) (f q : Nat) : Option Cq := s.cqs.find? fun c => c.func = f ∧ c.id = q
/-- The submission queue `q` of function `f`. -/
def sqOf (s : State) (f q : Nat) : Option Sq := s.sqs.find? fun c => c.func = f ∧ c.id = q
/-- Change a completion queue. -/
def modCq (f q : Nat) (g : Cq → Cq) (s : State) : State :=
  { s with cqs := s.cqs.map fun c => if c.func = f ∧ c.id = q then g c else c }
/-- Change a submission queue. -/
def modSq (f q : Nat) (g : Sq → Sq) (s : State) : State :=
  { s with sqs := s.sqs.map fun c => if c.func = f ∧ c.id = q then g c else c }
/-- Whether the queue has room for one more entry. -/
def cqRoom (c : Cq) : Bool := (c.tail + 1) % c.size ≠ c.head

/-- The admitted command with an identity. -/
def cmdOf (s : State) (id : CmdId) : Option Cmd := s.cmds.find? fun c => c.id = id
/-- Change an admitted command. -/
def modCmd (id : CmdId) (g : Cmd → Cmd) (s : State) : State :=
  { s with cmds := s.cmds.map fun c => if c.id = id then g c else c }

/-- Oldest by admission order. -/
def oldest : List Cmd → Option Cmd
  | [] => none
  | c :: t => match oldest t with
    | none => some c
    | some d => if c.ord ≤ d.ord then some c else some d

/-- Give a promotion token to a command (R163, R164). -/
def promote (id : CmdId) (s : State) : State :=
  modCont (contNo id.func) (fun k => { k with promoNow := k.promoNow + 1 })
    (modCmd id (fun c => { c with token := true }) s)

/-- A freed token goes to the function's oldest waiting over-age command (R164). -/
def passToken (f : Nat) (s : State) : State :=
  match oldest (s.cmds.filter fun c => c.id.func = f ∧ c.overAge ∧ ¬ c.token) with
  | some c => promote c.id s
  | none => s

/-- A command leaves its slot (R150); its token passes on (R164). -/
def freeSlot (id : CmdId) (s : State) : State :=
  match cmdOf s id with
  | none => s
  | some c =>
    let s := { s with cmds := s.cmds.filter fun c => c.id ≠ id }
    if c.token then passToken id.func s else s

/-- Count a completed command of a function in its counters (R55, R142). -/
def countDone (c : Cmd) (s : State) : State :=
  if c.id.sq = 0 then s else
  modCtr (contNo c.id.func) (fun k => { k with
    cmds := k.cmds + 1,
    wrCmds := if c.e.opc = 1 ∨ c.e.opc = 0x7D then k.wrCmds + 1 else k.wrCmds,
    rdCmds := if c.e.opc = 2 then k.rdCmds + 1 else k.rdCmds }) s

/-- Write a completion entry that has room: phase, tail, dirty log, message. -/
def cqWrite (f q : Nat) (c : Cq) (e : Cqe) (urgent : Bool) (s : State) : State :=
  let s := emit (.cqe f q c.phase e) s
  let s := dirtyLog f (c.base + 16 * c.tail) 16 s
  let s := modCq f q (fun c => { c with tail := (c.tail + 1) % c.size,
                                        phase := if c.tail + 1 = c.size then !c.phase else c.phase }) s
  if c.ien then msiEntry f c.vec urgent s else s

/-- Whether a command came from an Urgent-class I/O queue (R110). -/
def urgentSq (s : State) (f q : Nat) : Bool :=
  q ≠ 0 && (fnOf s f).ams = 1 && (match sqOf s f q with | some x => x.prio = 0 | none => false)

/-- Bytes of a completed command per direction count for the epoch (R153). -/
def countBytes (c : Cmd) (s : State) : State :=
  { s with qos := { s.qos with compR := s.qos.compR + c.chargeR, compW := s.qos.compW + c.chargeW } }

/-- Post the entry of a decided command: dropped when its generation is stale (R119), written when its queue
has room, else it waits and the slot stays held (R150). -/
def post (id : CmdId) (s : State) : State :=
  match cmdOf s id with
  | none => s
  | some c =>
    if c.gen ≠ genOf s id.func then freeSlot id s else
    match sqOf s id.func id.sq, c.status with
    | some sq, some st =>
      match cqOf s id.func sq.cq with
      | none => freeSlot id s
      | some cq =>
        let e : Cqe := ⟨id.sq, id.cid, st, c.dw0, c.dw1⟩
        if cq.waiting = [] ∧ cqRoom cq then
          countDone c (freeSlot id (countBytes c (cqWrite id.func sq.cq cq e (urgentSq s id.func id.sq) s)))
        else
          let u := urgentSq s id.func id.sq
          modCq id.func sq.cq (fun q => { q with waiting := q.waiting ++ [{ e := e, urgent := u }] }) s
    | _, _ => freeSlot id s

/-- Write waiting entries of a queue while there is room; the argument bounds how many. -/
def cqDrain : Nat → Nat → Nat → State → State
  | 0, _, _, s => s
  | n + 1, f, q, s =>
    match cqOf s f q with
    | none => s
    | some c =>
      match c.waiting with
      | [] => s
      | e :: rest =>
        if ¬ cqRoom c then s else
        let id : CmdId := ⟨f, e.e.sq, e.e.cid⟩
        let s := cqWrite f q c e.e e.urgent (modCq f q (fun c => { c with waiting := rest }) s)
        let s := if e.aer then s else match cmdOf s id with
          | some c => countDone c (freeSlot id (countBytes c s))
          | none => s
        cqDrain n f q s

/-- A generic success status. -/
def okSt : Status := ⟨0, 0, false⟩
/-- Vendor status of R147 with its DNR. -/
def vendorSt (code : Nat) : Status := ⟨7, code, code ≠ 6 && code ≠ 7⟩
/-- Invalid Field in Command (DNR set: the same command fails again). -/
def invField : Status := ⟨0, 0x02, true⟩
/-- Invalid Command Opcode. -/
def invOpcode : Status := ⟨0, 0x01, true⟩
/-- Whether an SGL descriptor type is one of R125: Data Block, Segment, Last Segment. -/
def sglType (t : Nat) : Bool := t = 0 || t = 0x20 || t = 0x30

/-- Whether an entry uses an option outside R125: a fused operation, a reserved PSDT, SGLs on an admin command, another SGL descriptor
type, or SGL data that is not dword-aligned. -/
def optBad (q : Nat) (e : Sqe) : Bool :=
  e.fuse ≠ 0 || 2 < e.psdt ||
  (e.psdt ≠ 0 && (q = 0 || e.sgl.any (!sglType ·) || e.segs.any fun g => g.1 % 4 ≠ 0 || g.2 % 4 ≠ 0))

/-- Command Sequence Error with DNR cleared (R128). -/
def seqError : Status := ⟨0, 0x0C, false⟩
/-- Internal Error, DNR 1 (R402). -/
def internalErr : Status := ⟨0, 0x06, true⟩

/-! ### End of a mailbox command (R92, R93, R308) -/

/-- STATE becomes DONE or ERROR with its results; NOTIFY sends PF vector 0, subject to its mask (R93). A reset that left the
vector disabled leaves the report to MBX_STATUS alone (R99). -/
def mbxStop (st : MbxSt) (code : Nat) (res : List (Nat × W32)) (s : State) : State :=
  let notify := s.mbx.run.any (·.notify)
  let s := { s with mbx := { s.mbx with
    st := st, code := code, run := none, results := res.foldl (fun t r => tset 0 t r.1 r.2) [],
    progress := if st = .done then 1000 else s.mbx.progress } }
  if notify ∧ (0 ∈ (fnOf s 0).unmasked ∨ (fnOf s 0).msixOn) then msiOwe 0 0 false s else s

/-- Attempts left at a lock range. -/
def lockLeft (s : State) (i : Nat) : W32 := w32 (tget {} s.locks i).attempts

/-- LOCK_SET ends once every command that it waits for has a decided status; an unlock then takes effect (R308). -/
def lockSetEnd (s : State) : State :=
  match s.mbx.run with
  | none => s
  | some r =>
    if r.opc ≠ 0x0406 ∨ r.paused ∨ r.waitStart ∨ s.cmds.any (fun c => c.id ∈ r.wait && c.phase ≠ .decided) then s
    else
      let i := (r.args.getD 0 0).toNat
      let s := if r.aux = 0 then s else
        { s with locks := tset {} s.locks i { (tget {} s.locks i) with locked := false, attempts := 5 } }
      mbxStop .done 0 [(2, lockLeft s i)] s

/-! ### Deciding a status -/

/-- A freeze counts the commands of its tenant that reach a decided status (R427). -/
def frzCount (f : Nat) (s : State) : State :=
  if f ≠ 0 ∧ s.mig.freeze = some (f - 1) then { s with mig := { s.mig with drained := s.mig.drained + 1 } } else s

/-- Decide a command's status and post its entry (R166, R150). -/
def finish (id : CmdId) (st : Status) (dw0 dw1 : W32) (s : State) : State :=
  frzCount id.func <| lockSetEnd (post id (modCmd id (fun c => { c with phase := .decided, status := some st, dw0 := dw0, dw1 := dw1 }) s))

/-- Decide with no completion dwords. -/
def finishSt (id : CmdId) (st : Status) (s : State) : State := finish id st 0 0 s

/-- Aborts whose target's entry has been written end: the target's entry precedes theirs (R167). -/
def abortsGo (s : State) : State :=
  (s.cmds.filter fun c => c.phase = .held && c.id.sq = 0 && c.e.opc = 0x08 && c.aux = 1).foldl (fun s c =>
    if (cmdOf s ⟨c.id.func, fld c.e.cdw10 15 0, fld c.e.cdw10 31 16⟩).isSome then s else finishSt c.id okSt s) s

/-- Post an Error Information entry of a function, newest first, at most 256 (R141, R148). -/
def errEntry (id : CmdId) (st : Status) (lba ns : Nat) (s : State) : State :=
  modFn id.func (fun fn => { fn with errLog := (⟨id, st, lba, ns⟩ :: fn.errLog).take 256, errCount := fn.errCount + 1 }) s

/-! ### Asynchronous events (R143) -/

/-- Whether feature 0Bh lets a function report an event (NVMe bit positions, log 22); vendor events always. -/
def evEnabled (fn : Fn) (typ info : Nat) : Bool :=
  let w := featGet fn 0x0B 0
  if typ = 1 then bitOf w (if info = 0 then 2 else if info = 1 then 1 else 0)
  else if typ = 2 then bitOf w (if info = 0 then 8 else if info = 1 then 9 else 27)
  else true

/-- The entry of an Asynchronous Event Request: written when the admin completion queue has room, else it waits and holds its slot
(R150). -/
def aerPost (f : Nat) (ent : Cqe) (s : State) : State :=
  match cqOf s f 0 with
  | none => s
  | some c =>
    if c.waiting = [] ∧ cqRoom c then cqWrite f 0 c ent false s
    else modCq f 0 (fun q => { q with waiting := q.waiting ++ [{ e := ent, aer := true }] }) s

/-- Report an event with an outstanding request: its entry goes to the admin completion queue. -/
def aerComplete (f cid : Nat) (e : Ev) (s : State) : State :=
  let s := modFn f (fun fn => { fn with aers := rmNat cid fn.aers, evMasked := insNat (e.typ * 256 + e.log) fn.evMasked }) s
  aerPost f ⟨0, cid, okSt, w32 (e.typ + e.info * 256 + e.log * 65536), 0⟩ s

/-- Post an event to function `f`: reported at once, kept until a request arrives, or dropped while its type is
masked or disabled (R143, R422). -/
def postEvent (typ info log : Nat) (f : Nat) (s : State) : State :=
  let fn := fnOf s f
  if ¬ fn.rdy ∨ ¬ evEnabled fn typ info ∨ fn.evMasked.any (fun m => m / 256 = typ) then s
  else match (if frozenFn s f then [] else fn.aers) with
    | cid :: _ => aerComplete f cid ⟨typ, info, log⟩ s
    | [] => if fn.events.any (fun e => e.typ = typ ∧ e.info = info) then s
            else modFn f (fun fn => { fn with events := fn.events ++ [⟨typ, info, log⟩] }) s

/-- Post an event to every function (a function that is not listed has no request and every event disabled). -/
def postEventAll (typ info log : Nat) (s : State) : State :=
  (tkeys s.fns).foldl (fun s f => postEvent typ info log f s) s

/-! ### Vendor logs and Replace Request (R419 to R424) -/

/-- A Vendor Health entry, newest first, 256 kept. -/
def healthLog (e : HEnt) (s : State) : State :=
  { s with rep := { s.rep with health := (e :: s.rep.health).take 256, healthN := (s.rep.healthN + 1) % 2 ^ 32 } }

/-- A Vent log entry, 64 kept. -/
def ventLog (e : VEnt) (s : State) : State :=
  { s with rep := { s.rep with vent := (e :: s.rep.vent).take 64, ventN := (s.rep.ventN + 1) % 2 ^ 32 } }

/-- A Thermal History entry, 128 kept. -/
def thermalLog (e : TEnt) (s : State) : State :=
  { s with rep := { s.rep with thermal := (e :: s.rep.thermal).take 128, thermalN := (s.rep.thermalN + 1) % 2 ^ 32 } }

/-- Cause `n` (1 to 6) of Replace Request becomes active (R419, R422). -/
def causeOn (n : Nat) (s : State) : State :=
  if s.rep.causes.getLsbD (n - 1) then s else
  let first := s.rep.causes = 0
  let s := { s with rep := { s.rep with
    causes := s.rep.causes ||| (1#6 <<< (n - 1)),
    first := if first then n else s.rep.first, raisedAt := if first then now s else s.rep.raisedAt } }
  postEventAll 1 0 2 (healthLog { time := now s, typ := 1, cause := n } s)

/-- Cause `n` becomes inactive (R422). -/
def causeOff (n : Nat) (s : State) : State :=
  if ¬ s.rep.causes.getLsbD (n - 1) then s else
  let c := s.rep.causes &&& ~~~(1#6 <<< (n - 1))
  let s := { s with rep := { s.rep with causes := c, first := if c = 0 then 0 else s.rep.first } }
  healthLog { time := now s, typ := 2, cause := n } s

/-- TOP_REPLACE (R420). -/
def replaceWord (s : State) : W32 :=
  w32 (b2n (s.rep.causes ≠ 0) * 2 ^ 31 + s.rep.first * 65536 + s.rep.causes.toNat)

/-! ### Profiles, hints and slots named by them (R178 to R181, R25) -/

/-- KEYREF of a profile descriptor. -/
def keyref (p : Profile) : Nat := leAt p.desc 12 2
/-- Frame bytes of a descriptor. -/
def frameBytes (p : Profile) : Nat := 16384 * 2 ^ (leAt p.desc 2 1)
/-- Band parity on. -/
def parityOn (p : Profile) : Bool := leAt p.desc 6 1 = 1
/-- Channel mask and LUN mask. -/
def chMask (p : Profile) : Nat := leAt p.desc 16 8
/-- LUN mask. -/
def lunMask (p : Profile) : Nat := leAt p.desc 24 16
/-- Numbers below `n` whose bit is set. -/
def setBits (m n : Nat) : List Nat := (List.range n).filter fun i => m.testBit i
/-- The lane set, in band position order: by channel-local index, then channel (R182). -/
def laneSet (p : Profile) : List Nat :=
  ((setBits (lunMask p) 128).map fun i => (setBits (chMask p) 64).map fun n => lunNo n i).flatten

/-- Profile bound to a hint of a namespace, if any. -/
def hintProf (n : Ns) (h : Nat) : Option Nat := (n.hints.find? fun b => b.1 = h).map Prod.snd

/-- Namespaces to which a profile is attached. -/
def attachedNs (s : State) (p : Nat) : List Nat :=
  (s.nss.filter fun e => match e.2 with | some n => n.hints.any (fun b => b.2 = p) | none => false).map Prod.fst

/-- Slot named by a profile. -/
def profSlot (p : Profile) : Option Nat := if keyref p = 0 then none else some (keyref p - 1)

/-- Profiles that are enabled. -/
def enabledProfs (s : State) : List (Nat × Profile) := s.profiles.filter fun e => e.2.enabled

end Sys2Proof.Machine
end

