-- ==== Sys2Proof/Machine/Zones.lean ====
section
/-!
DEFINITION. The zone engine's arithmetic (R182 to R193), the write cache and its counts (R363), write contexts
(R104, R176), and what abandoning a write or zeroizing a slot does to zones and cache (R81, R168, R267, R268).
-/
namespace Sys2Proof.Machine

open Sys2Proof

/-! ### Sizes -/

/-- Blocks of a zone (ZSZE). -/
def zszeBlocks (n : Ns) : Nat := 2 ^ (18 + n.zcode)
/-- Bytes of a zone. -/
def zszeBytes (n : Ns) : Nat := 4096 * zszeBlocks n
/-- Capacity of a namespace in blocks: `size` counts zones, or GiB when conventional (R100, 0301h). -/
def nsBlocks (n : Ns) : Nat := if n.zoned then n.size * zszeBlocks n else n.size * 262144
/-- Start LBA of zone `z`. -/
def zoneStart (n : Ns) (z : Nat) : Nat := z * zszeBlocks n

/-- User bytes of one erase block of a LUN. -/
def lunU (s : State) (l : Nat) : Nat := (lunOf s l).pageBytes * (lunOf s l).ppb
/-- U of a lane set: the least over its LUNs (R184). -/
def laneU (s : State) : List Nat → Nat
  | [] => 0
  | [l] => lunU s l
  | l :: t => min (lunU s l) (laneU s t)

/-- dcap of R184 for profile `p` and namespace `n`. -/
def dcapOf (s : State) (p : Profile) (n : Ns) : Nat :=
  let l := laneSet p
  let par := if parityOn p then l.length / 32 else 0
  let frames := zszeBytes n / frameBytes p
  (l.length - par) * laneU s l - ceilDiv frames 1920 * 4096

/-- ZCAP in blocks for a data capacity (R185). -/
def zcapOf (dcap fb : Nat) (n : Ns) : Nat :=
  min ((dcap - (fb + 64)) / (fb + 64) * fb / 4096) (zszeBlocks n)

/-- Frame bytes of a zone's bound profile. -/
def zoneFb (s : State) (z : Zone) : Nat := match z.prof with | some p => frameBytes (profOf s p) | none => 16384

/-- Headroom of R186; may be negative. -/
def headroom (s : State) (z : Zone) : Int := (z.dcap : Int) - z.stored - z.reserved - (zoneFb s z + 64)

/-- Frame index record. -/
def frOf (z : Zone) (f : Nat) : Fr := tget {} z.frames f
/-- Change a frame index record. -/
def modFr (f : Nat) (g : Fr → Fr) (z : Zone) : Zone := { z with frames := tset {} z.frames f (g (frOf z f)) }

/-- Frame indexes that bytes [b, b + n) of a zone touch. -/
def framesOf (fb b n : Nat) : List Nat :=
  if n = 0 then [] else (List.range ((b + n - 1) / fb - b / fb + 1)).map (· + b / fb)

/-- Bytes of frame `f` inside [b, b + n). -/
def overlap (fb f b n : Nat) : Nat := min ((f + 1) * fb) (b + n) - max (f * fb) b

/-- Worst-case stored size of a write (R187). -/
def worstOf (z : Zone) (fb b n : Nat) : Nat :=
  n + 64 * ((framesOf fb b n).filter fun f => (frOf z f).admitted = 0).length

/-- Reserve for an accepted write and count its bytes as admitted (R187). -/
def reserveFor (fb b n : Nat) (z : Zone) : Zone :=
  let w := worstOf z fb b n
  (framesOf fb b n).foldl (fun z f => modFr f (fun r => { r with admitted := r.admitted + overlap fb f b n }) z)
    { z with reserved := z.reserved + w }

/-- Undo `reserveFor` for a discarded write: the reservation goes with the bytes (R81, R168, R186). An index left
with no admitted byte gives its 64 bytes back. `keep`: later writes of the zone stay above it, so its bytes stay as
a hole below the write pointer (log 23). -/
def unreserveFor (fb b n : Nat) (keep : Bool) (z : Zone) : Zone :=
  let z := (framesOf fb b n).foldl (fun z f => modFr f (fun r =>
    let k := overlap fb f b n
    { r with admitted := r.admitted - k, hole := if keep then r.hole + k else r.hole }) z) z
  { z with reserved := z.reserved - (n + 64 * ((framesOf fb b n).filter fun f => (frOf z f).admitted = 0).length) }

/-! ### Write contexts (R104, R176) -/

/-- Zone states that hold a claim. -/
def activeSt : ZState → Bool
  | .implOpen => true | .explOpen => true | .closed => true | _ => false

/-- Open states. -/
def openSt : ZState → Bool
  | .implOpen => true | .explOpen => true | _ => false

/-- Namespace of a zone key. -/
def zkeyNs (k : Nat) : Nat := k / 2 ^ 24

/-- Claims held by active zones (ZONE_CTX_STAT.CLAIMED). -/
def claimed (s : State) : Nat := (s.zones.filter fun e => activeSt e.2.st).length

/-- Whether a namespace has an active zone. -/
def nsActive (s : State) (ns : Nat) : Bool := s.zones.any fun e => zkeyNs e.1 = ns && activeSt e.2.st

/-- Whether R104 reserves a context for a namespace: zoned, attached to an Enabled or Frozen tenant. -/
def ctxReserved (s : State) (n : Ns) : Bool :=
  n.zoned && (match n.owner with
    | some o => o ≠ 0xFFFF && ((tnOf s o).st = .enabled || (tnOf s o).st = .frozen)
    | none => false)

/-- Contexts reserved for namespaces with no active zone (ZONE_CTX_STAT.HELD). -/
def ctxHeld (s : State) : Nat :=
  (s.nss.filter fun e => match e.2 with | some n => ctxReserved s n && !nsActive s e.1 | none => false).length

/-- Contexts neither claimed nor reserved. -/
def ctxFree (s : State) : Nat := 4096 - claimed s - ctxHeld s

/-- Whether a zone of namespace `ns` may take a new claim (R131, R176): a free context, or the namespace's own
reservation for its first active zone. -/
def canClaim (s : State) (ns : Nat) : Bool :=
  0 < ctxFree s || (match nsOf s ns with | some n => ctxReserved s n && !nsActive s ns | none => false)

/-! ### Changed zones and the extension notice (R201) -/

/-- A zone enters the Changed Zone List of its namespace's owner, and the notice EFh is posted. -/
def zoneChanged (ns z : Nat) (s : State) : State :=
  match nsOf s ns with
  | some n =>
    match n.owner with
    | some o =>
      let f := ownerFn o
      postEvent 2 0xEF 0xBF f (modFn f (fun fn =>
        { fn with changedZones := if (ns, z) ∈ fn.changedZones then fn.changedZones else fn.changedZones ++ [(ns, z)] }) s)
    | none => s
  | none => s

/-- The headroom warning of R138, once per open: kind 01h, WARNED, and the zone's extension changes (R201). -/
def warnCheck (ns z : Nat) (s : State) : State :=
  let zn := zoneOf s ns z
  match nsOf s ns with
  | some n =>
    match n.owner with
    | some o =>
      let f := ownerFn o
      let thr := fld (featGet (fnOf s f) 0xC0 ns) 15 0
      if thr ≠ 0 ∧ openSt zn.st ∧ ¬ zn.warned ∧ headroom s zn ≤ (thr * (zoneFb s zn + 64) : Nat) then
        postEvent 7 1 0xBF f (zoneChanged ns z (modZone ns z (fun zn => { zn with warned := true }) s))
      else s
    | none => s
  | none => s

/-! ### The write cache (R19, R363) -/

/-- Data bytes of a write command: (NLB + 1) blocks. -/
def cmdBlocks (e : Sqe) : Nat := fld e.cdw12 15 0 + 1
/-- Start LBA field of an I/O command. -/
def cmdSlba (e : Sqe) : Nat := e.cdw10.toNat + 2 ^ 32 * e.cdw11.toNat
/-- Write or Zone Append. -/
def isWrite (e : Sqe) : Bool := e.opc = 0x01 || e.opc = 0x7D

/-- Data bytes of admitted writes not yet in the cache (R363). -/
def incoming (s : State) : Nat :=
  s.cmds.foldl (fun a c => if c.id.sq ≠ 0 ∧ isWrite c.e ∧ (c.phase = .admitted ∨ c.phase = .fetching)
    then a + 4096 * cmdBlocks c.e else a) 0
/-- d_dump of R363. -/
def dDump (s : State) : Nat := 4096 * (s.cache.filter fun b => !b.vented).length + incoming s
/-- d_all of R363. -/
def dAll (s : State) : Nat := 4096 * s.cache.length + incoming s
/-- Vented bytes awaiting programs. -/
def ventedBytes (s : State) : Nat := 4096 * (s.cache.filter fun b => b.vented).length

/-- Whether the cache is power-safe (R364). -/
def powerSafe (s : State) : Bool :=
  s.hold.cap ≠ 0 && regFld s 0x30200 31 31 = 1 && dDump s ≤ s.hold.ceil * 1048576

/-- A cached block. -/
def cachedBlk (s : State) (ns lba : Nat) : Option CBlk := s.cache.find? fun b => b.ns = ns ∧ b.lba = lba

/-- Write the whole of the poisoned lines that hold `hit`: their poison is cleared (R328). -/
def clearPoison (hit : LineData → Bool) (s : State) : State :=
  let mine := (s.dram.holds.filter fun e => hit e.2).map Prod.fst
  { s with dram := { s.dram with poison := s.dram.poison.filter (· ∉ mine), holds := s.dram.holds.filter fun e => !hit e.2 } }

/-- Put one block into the cache; a newer block replaces an older one of the same LBA, whose lines it writes whole (R328). -/
def cachePut (b : CBlk) (s : State) : State :=
  clearPoison (fun h => h = .dirty b.ns b.lba || h = .clean b.ns b.lba)
    { s with cache := (s.cache.filter fun c => ¬ (c.ns = b.ns ∧ c.lba = b.lba)) ++ [b] }

/-- Put the blocks of a write's data into the cache. -/
def cacheData (ns f t ver : Nat) (gen : BitVec 16) : Nat → Nat → List Byte → State → State
  | 0, _, _, s => s
  | n + 1, lba, d, s =>
    cacheData ns f t ver gen n (lba + 1) (d.drop 4096)
      (cachePut { ns := ns, lba := lba, data := bytesAt d 0 4096, func := f, time := t, ver := ver, gen := gen } s)

/-- The cache without the blocks of [lba, lba + n) of a namespace. -/
def cacheDrop (ns lba n : Nat) (s : State) : State :=
  { s with cache := s.cache.filter fun b => ¬ (b.ns = ns ∧ lba ≤ b.lba ∧ b.lba < lba + n) }

/-- Zone of an LBA. -/
def lbaZone (n : Ns) (lba : Nat) : Nat := lba / zszeBlocks n

/-- Discard an admitted write or append whose data is not all in the cache: none of its data is kept, its
reservation is released (R81, R168). The write pointer falls back when the write ends at it (log 23). -/
def discardWrite (c : Cmd) (s : State) : State :=
  match nsOf s c.e.nsid with
  | none => s
  | some n =>
    if ¬ n.zoned ∨ c.phase ≠ .fetching then s else
    let zi := lbaZone n c.lba
    let z := zoneOf s c.e.nsid zi
    let off := c.lba - zoneStart n zi
    let last := z.wp = off + cmdBlocks c.e
    let z := unreserveFor (zoneFb s z) (4096 * off) (4096 * cmdBlocks c.e) (!last) z
    let z := if last then { z with wp := off, st := if z.st = .full then .implOpen else z.st, finishing := z.finishing && z.st ≠ .full } else z
    modZone c.e.nsid zi (fun _ => z) s

/-! ### Slots against zones, blocks and the cache (R261, R266 to R268) -/

/-- Slot under which data of a namespace's zone (or conventional block) is stored: that of the bound profile, or of
the hint-0 profile. -/
def dataSlot (s : State) (ns lba : Nat) : Option Nat :=
  match nsOf s ns with
  | none => none
  | some n =>
    if n.zoned then match (zoneOf s ns (lbaZone n lba)).prof with
      | some p => profSlot (profOf s p)
      | none => none
    else match hintProf n 0 with
      | some p => profSlot (profOf s p)
      | none => none

/-- Zones whose recorded epoch range contains epoch `e` of slot `k` (R261). -/
def zonesOfEpoch (s : State) (k e : Nat) : Nat :=
  (s.zones.filter fun z => z.2.st ≠ .empty && z.2.epLo ≤ e && e ≤ z.2.epHi && z.2.epLo ≠ 0 &&
    (match z.2.prof with | some p => profSlot (profOf s p) = some k | none => false)).length

/-- Whether a conventional namespace holds a live block under epoch `e` of slot `k` (R261), one whose program is not confirmed yet
among them. -/
def convOfEpoch (s : State) (k e : Nat) : Bool :=
  (s.conv.any fun b => b.2.written && b.2.epoch = e && dataSlot s (b.1 / 2 ^ 32) (b.1 % 2 ^ 32) = some k) ||
  s.jobs.any fun e' => e'.2.any fun j => j.conv && j.epoch = e && j.slot = some k && (j.stage = .ready || j.stage = .program)

/-- Whether the previous epoch of a slot is referenced (R261). -/
def prevReferenced (s : State) (k : Nat) : Bool :=
  match (slotOf s k).prev with
  | some e => 0 < zonesOfEpoch s k e.epoch || convOfEpoch s k e.epoch
  | none => false

/-- A slot at its ceiling (R266). -/
def atCeiling (sl : Slot) : Bool := sl.cur.isSome && sl.ceiling ≤ sl.hwm + 2 ^ 26

/-- Whether a zone's bound profile names a slot of `ks`. -/
def zoneUnder (s : State) (ks : Nat → Bool) (z : Zone) : Bool :=
  z.prof.any fun p => (profSlot (profOf s p)).any ks

/-- Whether a cached block lies in zone `key`. -/
def inZone (s : State) (key : Nat) (b : CBlk) : Bool :=
  b.ns = zkeyNs key && (nsOf s b.ns).any fun n => lbaZone n b.lba = key % 2 ^ 24

/-- Whether a vent record under a slot of `ks` holds data of zone `key`. -/
def poolZone (s : State) (ks : Nat → Bool) (key : Nat) : Bool :=
  s.hold.pool.any fun r => r.slot.any ks && r.ns = zkeyNs key && (nsOf s r.ns).any fun n => n.zoned && lbaZone n r.lba = key % 2 ^ 24

/-- Mark the zones that hold a frame, or lose data of the cache or the vent pool, under a slot of `ks` (R268, R269). -/
def markZeroized (ks : Nat → Bool) (s : State) : State :=
  { s with zones := tmap {} (fun key z =>
      if z.st ≠ .empty && zoneUnder s ks z && (z.epLo ≠ 0 || s.cache.any (inZone s key) || poolZone s ks key)
      then { z with zeroized := true } else z) s.zones }

/-- A frame index once the data of its slot is gone: what was not confirmed is recorded nowhere (R270). -/
def dropFr (fr : Fr) : Fr :=
  { fr with live := (fr.live.bind fun l => if l.confirmed then some l else none).or fr.old, old := none }

/-- Step 4 of R267: discard cached data, staged frames, vent records and reservations of the slots `ks`. A
conventional block that loses data is marked (R268). Programs not started are dropped; one that runs ends recorded nowhere
(R270). -/
def dropSlotData (ks : Nat → Bool) (s : State) : State :=
  let hit (b : CBlk) : Bool := (dataSlot s b.ns b.lba).any ks
  let lose (ns lba : Nat) (s : State) : State :=
    if (nsOf s ns).any (fun n => !n.zoned) then modConv ns lba (fun c => { c with zeroized := true }) s else s
  let s' := s.cache.foldl (fun s b => if hit b then lose b.ns b.lba s else s) s
  let s' := s.hold.pool.foldl (fun s r => if r.slot.any ks then (List.range r.n).foldl (fun s i => lose r.ns (r.lba + i) s) s else s) s'
  let under (ns z : Nat) : Bool := zoneUnder s ks (zoneOf s ns z)
  let jobHit (j : Job) : Bool := if j.conv then (dataSlot s j.ns j.idx).any ks else under j.ns j.zone
  let gone (w : Work) : Bool := match w with
    | .program n y _ _ => under n y | .parity n y _ _ => under n y | _ => false
  let loose (w : Work) : Work := match w with
    | .program n y k c => if under n y then
        .orphan (((zoneOf s n y).band.map fun b => (b.pos.getD (b.pages.getD k (0, 0)).2 (0, 0)).2).getD 0) else .program n y k c
    | w => w
  { s' with
    cache := s'.cache.filter fun b => !hit b,
    jobs := s'.jobs.filter fun e => !e.2.any jobHit,
    ops := s'.ops.filter fun o => !gone o.work,
    runs := s'.runs.map fun r => { r with op := { r.op with work := loose r.op.work } },
    hold := { s'.hold with pool := s'.hold.pool.filter fun r => !r.slot.any ks },
    zones := tmap {} (fun _ z => if zoneUnder s ks z then
      { z with reserved := 0, finishing := false, frames := tmap {} (fun _ fr => dropFr fr) z.frames } else z) s'.zones }

/-- Directive type and value of a write (R134). -/
def dtype (e : Sqe) : Nat := fld e.cdw12 23 20
/-- DSPEC. -/
def dspec (e : Sqe) : Nat := fld e.cdw13 31 16

/-- Slot under which an admitted write's data would be stored: that of its zone's profile, or of the profile its hint names. -/
def writeSlot (s : State) (c : Cmd) : Option Nat :=
  match nsOf s c.e.nsid with
  | none => none
  | some n =>
    let h := if dtype c.e = 0 then 0 else dspec c.e
    let lba := if c.phase = .admitted then cmdSlba c.e else c.lba
    let p := if n.zoned then (zoneOf s c.e.nsid (lbaZone n lba)).prof.or (hintProf n h) else hintProf n 0
    p.bind fun p => profSlot (profOf s p)

/-- Step 5 of R267: admitted writes under the slots fail with Key Slot Zeroized; of a zone that is not marked the data of one still
being fetched is discarded, newest first. -/
def failSlotWrites (ks : Nat → Bool) (s : State) : State :=
  let mine := s.cmds.filter fun c => c.id.sq ≠ 0 ∧ isWrite c.e ∧ c.phase ≠ .decided ∧ (writeSlot s c).any ks
  let fresh (c : Cmd) : Bool := (nsOf s c.e.nsid).any fun n => n.zoned && !(zoneOf s c.e.nsid (lbaZone n c.lba)).zeroized
  let s := mine.reverse.foldl (fun s c => if c.phase = .fetching && fresh c then discardWrite c s else s) s
  mine.foldl (fun s c => finishSt c.id (vendorSt 4) s) s

/-! ### Key records (R255, R390) -/

/-- The device storage key: derived inside the chip from fused secrets (R255). -/
def storageKey : List Byte := kdf256 Config.fusedSecret Config.storageLabel Config.storageContext

/-- The keys of a slot changed by `f`; a key for which it gives nothing is gone. -/
def slotKeys (f : List Byte → Option (List Byte)) (sl : Slot) : Slot :=
  let ep (e : KeyEp) : Option KeyEp := (f e.key).map fun k => ⟨e.epoch, k⟩
  { sl with cur := sl.cur.bind ep, prev := sl.prev.bind ep }

/-- Every key changed by `f`. -/
def mapKeys (f : List Byte → Option (List Byte)) (k : Keys) : Keys :=
  { slots := tmap {} (fun _ sl => slotKeys f sl) k.slots, kek := k.kek.bind f, mig := k.mig.bind f, co := k.co.bind f }

/-- A key under AES-KWP with the device storage key (R255). -/
def wrapKey (k : List Byte) : List Byte := kwpWrap storageKey k

/-- What the vault writes to a record: every key wrapped (R255). -/
def wrapKeys : Keys → Keys := mapKeys fun k => some (wrapKey k)

/-- What the vault reloads from a record: every key that unwraps (R255). -/
def unwrapKeys : Keys → Keys := mapKeys (kwpUnwrap storageKey)

/-- The record of a slot, wrapped (R255). -/
def wrapSlot : Slot → Slot := slotKeys fun k => some (wrapKey k)

/-- Change both records of the keys: the metadata journal's and its mirror in the NOR configuration (R255, R267). -/
def recordAs (f : Keys → Keys) (s : State) : State :=
  { s with vault := { s.vault with recd := f s.vault.recd, nor := f s.vault.nor } }

/-- Make the vault's present content durable, wrapped, in the journal, and mirror it in the NOR configuration (R255, R267). -/
def recordVault (s : State) : State := recordAs (fun _ => wrapKeys s.vault.live) s

end Sys2Proof.Machine
end

