-- ==== Sys2Proof/Machine/ResetOps.lean ====
section
/-!
DEFINITION. What a reset does, as operations that the reset rows, the mailbox and the security events share:
class defaults (R68), generation increment (R118 to R122), reset of one function or of all (R80 to R82, R86), the
loss of the core domain (PORST_N, PERST_N, POR), and TOP_RESET_LAST (R87).
-/
namespace Sys2Proof.Machine

open Sys2Proof

/-- TOP_RESET_LAST at a reset that the device takes (R87). -/
def resetLast (kind func : Nat) (s : State) : State :=
  { s with md := { s.md with rlKind := kind, rlFunc := func, rlCount := satInc 0xFFF s.md.rlCount } }

/-! ### Class defaults (R68) -/

/-- What returns to 0 at every event that defaults class V, beside the rw fields: counters of the chapters, pace
minima (R32), coalescing timers and entry counts (R108). -/
def vDefaults (s : State) : State :=
  let s := regsDefault [.v] s
  { s with
    rsv := tset 0 s.rsv 0x40000 0, wvTop := { s.wvTop with sel := 1 },
    wvVf := tmap {} (fun _ w => { w with sel := 1 }) s.wvVf,
    fltcMiss := 0, cdc := [], suspCount := [], suspExh := [],
    cip := tmap {} (fun _ c => { c with enc := 0, dec := 0, authFail := 0 }) s.cip,
    chans := tmap {} (fun _ c => { c with soft := 0, retry := 0, rebuild := 0, failed := 0 }) s.chans,
    dram := { s.dram with ranks := tmap {} (fun _ r => { r with ce := 0 }) s.dram.ranks },
    sram := { s.sram with ce := 0, ue := 0 },
    pace := { s.pace with meters := tmap {} (fun _ m => { m with min := 0x7FF, fresh := true }) s.pace.meters },
    fns := tmap {} (fun _ f => { f with coal := [] }) s.fns }

/-- Features of class C (R137): power management, number of queues, timestamp, age limits. -/
def classCFid (key : Nat) : Bool := key / 65536 ∈ [0x02, 0x07, 0x0E, 0xC1]

/-- A function's front-end after a reset: controller registers, class T features and directives, requests, events
and pending interrupts at their defaults; class C features too when `c` (R68, R80, R133). `msix`: the MSI-X table
is masked again, as PCIe gives for a function reset (log 24). What is queued for its logs stays, and so does the count of the
epoch's messages, which the budget bounds per epoch (R109). -/
def fnClear (c msix : Bool) (fn : Fn) : Fn :=
  { ({} : Fn) with
    rdy := fn.rdy, enHeld := false,
    feats := if c then [] else fn.feats.filter fun e => classCFid e.1,
    numQ := if c then none else fn.numQ,
    tsOff := if c then 0 else fn.tsOff, tsSynch := if c then true else fn.tsSynch,
    c1pend := if c then none else fn.c1pend,
    aqa := if msix then 0 else fn.aqa, asq := if msix then 0 else fn.asq, acq := if msix then 0 else fn.acq,
    unmasked := if msix then [] else fn.unmasked, msix := if msix then [] else fn.msix, msixOn := fn.msixOn && !msix,
    sentMsgs := fn.sentMsgs, heldEpoch := fn.heldEpoch, lastVec := fn.lastVec, ats := fn.ats, waitRst := fn.waitRst,
    flr := fn.flr, cfgReset := fn.cfgReset,
    img := if c then [] else fn.img, drain := fn.drain,
    errLog := fn.errLog, errCount := fn.errCount, changedNs := fn.changedNs, changedZones := fn.changedZones,
    nssro := fn.nssro }

/-! ### Generation increment (R118 to R122) -/

/-- Write-back work (R159, R162). -/
def writeBackWork : Work → Bool
  | .encode _ => true | .verify _ _ _ => true | .encrypt _ => true | .program _ _ _ _ => true
  | .parity _ _ _ _ => true | .indexCopy _ _ _ _ => true | _ => false

/-- Old-generation operations of functions `fs` that have not started take class Maintenance, with the time they were queued as their age
(R159), except write-back, the copies of a replaced position among it (R162). -/
def opsOld (fs : Nat → Bool) (s : State) : State :=
  { s with ops := s.ops.map fun o =>
      if fs o.func ∧ ¬ writeBackWork o.work ∧ o.cls ≠ .writeBack then { o with cls := .maintenance, age := o.queued } else o }

/-- The data of abandoned writes that stays, in the cache and in the write path (R81): no completion entry was or will be written for it
(R169). -/
def markKept (mine : List Cmd) (s : State) : State :=
  let hit (ver f : Nat) : Bool := mine.any fun c => isWrite c.e && c.ord = ver && c.id.func = f
  { s with cache := s.cache.map fun b => if hit b.ver b.func then { b with kept := true } else b,
           jobs := s.jobs.map fun e => (e.1, e.2.map fun j => if j.conv && hit j.ver j.func then { j with kept := true } else j) }

/-- Sort the abandoned writes of functions `fs`, newest first (R81, R120), then drop every admitted command of
theirs: no completion is posted (R80). -/
def abandon (fs : Nat → Bool) (s : State) : State :=
  let mine := s.cmds.filter fun c => fs c.id.func
  let s := mine.reverse.foldl (fun s c => if c.id.sq ≠ 0 ∧ isWrite c.e then discardWrite c s else s) s
  let s := markKept mine s
  lockSetEnd { s with
    cmds := s.cmds.filter fun c => !fs c.id.func,
    rjobs := s.rjobs.map fun e => (e.1, e.2.map fun r => { r with ids := r.ids.filter fun i => !fs i.func }) }

/-- Whether a job inside the device carries generation `g` of function `f` (R122), kept writes among them: the increment to it
waits. -/
def genInUse (s : State) (f : Nat) (g : BitVec 16) : Bool :=
  s.ops.any (fun o => o.func = f && o.gen = g) || s.runs.any (fun r => r.op.func = f && r.op.gen = g) ||
  s.rjobs.any (fun e => e.2.any fun r => r.func = f && r.gen = g) ||
  s.jobs.any (fun e => e.2.any fun j => j.func = f && j.gen = g) || s.cache.any (fun b => b.func = f && b.gen = g)

/-- One function's generation increment (R118). -/
def genStep (f : Nat) (s : State) : State := { s with gens := tset 0 s.gens f (genOf s f + 1) }

/-- Every function's generation increment. -/
def genStepAll (s : State) : State := { s with gens := tgen 0 1025 fun f => genOf s f + 1 }

/-- Queues of the functions `fs` are deleted, host entries with them (R80). -/
def dropQueues (fs : Nat → Bool) (s : State) : State :=
  { s with sqs := s.sqs.filter fun q => !fs q.func, cqs := s.cqs.filter fun q => !fs q.func }

/-! ### Resets of functions -/

/-- Kind of the generation increment of TENANT_DESTROY, which waits as a reset does. -/
def destroyKind : Nat := 10

/-- What PCIe resets with an FLR beside what every reset of the function does (log 24): the MSI-X table, and the admin queue's
registers; its report is the function reading as reset (R121). -/
def fnFlr (fn : Fn) : Fn := { fn with aqa := 0, asq := 0, acq := 0, unmasked := [], msix := [], msixOn := false, flr := true }

/-- A reset of a function that merges with one not yet done (R86): an FLR leaves its own effects all the same (R83). -/
def fnMerge (kind : Nat) (f : Nat) (s : State) : State := if kind = 5 then modFn f fnFlr s else s

/-- A reset of VF `f` alone: VF FLR (5), VF controller reset (6) or tenant reset (8). A reset that merges with one
already draining, or waiting, steps no generation again (R86); one whose new generation is still carried by a job waits (R122). -/
def vfReset (kind f : Nat) (s : State) : State :=
  if (fnOf s f).drain.isSome ∨ (fnOf s 0).drain.any (fun k => 16 ≤ k) ∨ (fnOf s f).waitRst.isSome ∨ (fnOf s 0).waitRst.isSome then
    fnMerge kind f s
  else if genInUse s f (genOf s f + 1) then modFn f (fun fn => { fn with waitRst := some kind }) s
  else
    let fs := fun g => g = f
    let s := abandon fs s
    let s := dropQueues fs (opsOld fs (genStep f s))
    let s := fnMerge kind f (modFn f (fun fn => { fnClear false (kind = 5) fn with drain := some kind, en := false }) s)
    resetLast kind f { s with wvVf := tset {} s.wvVf f { (tget {} s.wvVf f) with sel := 1 } }

/-- The Crypto Officer role ends (R396). -/
def coEnd (s : State) : State := { s with co := { s.co with role := false } }

/-- Whether a reset of every function waits for a job that still carries a generation it would take (R122). -/
def resetWaits (s : State) : Bool :=
  s.gens.any (fun e => genInUse s e.1 (e.2 + 1)) || (tkeys s.fns).any (fun f => genInUse s f (genOf s f + 1))

/-- What a PF FLR does beside what every reset of all functions does: each function reads as reset, and VF Enable is cleared (R79, R83). -/
def pfMerge (kind : Nat) (s : State) : State :=
  if kind = 4 then { s with fns := tmap {} (fun _ fn => fnFlr fn) s.fns, vfEnable := false } else s

/-- A reset of every function: link-down hot reset (3), PF FLR (4), PF controller reset (6), NVM subsystem reset (7)
or firmware activation with reset (9). It takes over function-scoped resets (R86). The mailbox keeps its registers
(R99), the cache and write pointers stay (R80), class C, T and V fields default (R68). A reserved bit once written as 1 stays set for
R10 (DESIGN CHOICE, log 40). It waits while a job carries a generation
it would take (R122); a TENANT_DESTROY that waits goes on waiting (R99). VF Enable and NumVFs stay but at a PF FLR, and a device-wide
reset that meets another not yet done runs in full, each counting a generation (DESIGN CHOICE, log 88); a PF FLR or PF controller reset
merges with it (R86). -/
def allReset (kind : Nat) (s : State) : State :=
  if (kind = 4 ∨ kind = 6) ∧ ((fnOf s 0).drain.isSome ∨ (fnOf s 0).waitRst.isSome) then pfMerge kind s
  else if resetWaits s then modFn 0 (fun fn => { fn with waitRst := some (16 + kind) }) s
  else
  let all := fun _ => true
  let s := abandon all s
  let s := dropQueues all (opsOld all (genStepAll s))
  let s := vDefaults (regsDefault [.c] s)
  let s := { s with
    fns := tmap {} (fun _ fn => { fnClear true (kind ≤ 4) fn with drain := none, waitRst := fn.waitRst.filter (· = destroyKind) }) s.fns }
  let s := pfMerge kind s
  let s := modFn 0 (fun fn => { fn with drain := some (16 + kind), nssro := if kind = 7 then true else fn.nssro }) s
  coEnd (resetLast kind 0 s)

/-- A function whose reset reports done: CSTS.RDY reads 0, after an FLR the function reads as reset in configuration space, and no
translation of it is cached any more (R83, R121). -/
def fnDone (fn : Fn) : Fn :=
  { fn with drain := none, rdy := false, cfs := false, pp := false, ats := false, flr := false, cfgReset := fn.cfgReset || fn.flr }

/-- A reset of function `f`, or of all, reports done (R121). -/
def drainDone (f : Nat) (s : State) : State :=
  match (fnOf s f).drain with
  | none => s
  | some k =>
    if k < 16 then modFn f fnDone s else { s with fns := tmap {} (fun _ fn => fnDone fn) s.fns }

/-- A function whose FLR merged with a waiting TENANT_DESTROY (R86), no reset of it draining, reports done with it (R83). -/
def flrEnd (f : Nat) (s : State) : State :=
  if (fnOf s f).flr ∧ (fnOf s f).drain.isNone ∧ (fnOf s 0).drain.isNone then modFn f fnDone s else s

/-- TENANT_DESTROY takes effect and its command ends (R102, R103, R118, R440); its credits and what it used in the epoch go with it
(R113). -/
def destroyTenant (t : Nat) (s : State) : State :=
  let s := flrEnd (t + 1) s
  let s := genStep (t + 1) (modTn t (fun _ => {}) (modCont t (fun _ => {}) s))
  mbxStop .done 0 [] { s with mig := { s.mig with dlog := tset {} s.mig.dlog t {} } }

/-- A function-scoped increment that waited goes on once no job carries its generation (R122); that of a mailbox command not while a
Vent pauses it (R90). -/
def retryFn (s : State) (f kind : Nat) : State :=
  if genInUse s f (genOf s f + 1) ∨ ((kind = destroyKind ∨ kind = 8) ∧ s.mbx.run.any (·.paused)) then s
  else
    let s := modFn f (fun fn => { fn with waitRst := none }) s
    if kind ≠ destroyKind then vfReset kind f s else destroyTenant (f - 1) s

/-- Resets that wait are tried again, when a job has ended (R122): a device-wide one first. -/
def retryResets (s : State) : State :=
  let s := match (fnOf s 0).waitRst with
    | some k => if resetWaits s then s else allReset (k - 16) (modFn 0 (fun fn => { fn with waitRst := none }) s)
    | none => s
  (s.fns.filterMap fun e => e.2.waitRst.map fun k => (e.1, k)).foldl (fun s w => if w.1 = 0 then s else retryFn s w.1 w.2) s

/-! ### Loss of the core domain -/

/-- Whether cache data is neither programmed nor vented (TOP_BOOT.LAST_SHUTDOWN, R74). -/
def dirtyUnsaved (s : State) : Bool := s.cache.any fun b => !b.vented

/-- How the run that ends now ended (R74): 0 clean, 1 vented, a thermal shut-down among them (R386), 2 unsafe; kept when START had
not ended. -/
def shutdownKind (s : State) : Nat :=
  if s.md.stage ≠ 8 then s.md.lastShutdown
  else if dirtyUnsaved s ∨ s.hold.vent.any (fun v => !v.dumped && v.perst = false) then 2
  else if s.hold.pool ≠ [] ∨ (s.md.cur = .halt ∧ s.md.haltWhy = 2) then 1 else 0

/-- Every mailbox register of class F at its default, and the status registers with them (R98); MBX_INTERRUPTED stays (R88). -/
def mbxEmpty (s : State) : State :=
  regsDefault [.f] { s with rsv := tset 0 s.rsv 0x20000 0, mbx := { ({} : Mbx) with intCause := s.mbx.intCause, intProgress := s.mbx.intProgress, intOpc := s.mbx.intOpc } }

/-- What an interrupted command leaves undone (R92, R98): an activation switches no slot, a freeze freezes nothing, HOLDUP_SET sets
nothing. -/
def mbxLeave (s : State) : State :=
  { s with fw := { s.fw with act := none }, mig := { s.mig with freeze := none }, hold := { s.hold with waitHoldup := false, testMib := 0 } }

/-- The mailbox after PERST_N, PORST_N or POR: a running command is recorded as interrupted (R88, R98). -/
def mbxCut (cause : Nat) (s : State) : State :=
  let s := mbxLeave s
  match s.mbx.run with
  | some r => mbxEmpty { s with mbx := { s.mbx with intCause := cause, intProgress := s.mbx.progress, intOpc := r.opc } }
  | none => mbxEmpty s

/-- Device time goes on from the reference clock where it is present: at its value at the loss with the slow ticks since, never
below a value read (R40). -/
def timeBack (s : State) : State :=
  if s.clk.refOn ∨ ¬ s.clk.refPin then s
  else { s with clk := { s.clk with refOn := true, time := max (now s) s.clk.lastRead } }

/-- The slow counter carries device time from now on (R40). -/
def timeSlow (s : State) : State :=
  if s.clk.refOn then { s with clk := { s.clk with refOn := false, lossTime := s.clk.time, lossTicks := 0 } } else s

/-- Epochs of 1 ms that device time has completed (R112). -/
def epochNow (s : State) : Nat := now s / 1000000

/-- Boundaries that passed with no core to see them are passed: the next is the next multiple of 1 ms (R112). -/
def epochSync (s : State) : State := { s with qos := { s.qos with epoch := epochNow s } }

/-- Everything of the core domain that has no retention class of its own or class F, C, T or V, gone; what the
journal, the NOR configuration, fuses and the always-on domain hold, kept. `Table` content of the media (bands,
stored frames, vent pool) stays on the dies. The loop's last values in range restart at the defaults (DESIGN CHOICE, log 47). -/
def coreLost (s : State) : State :=
  let last := shutdownKind s
  let s := timeBack (cfgReload (regsReloadP (regsDefault [.f, .c, .t, .v] s)))
  { s with
    md := { s.md with cur := .start, prev := if s.md.cur = .start then s.md.prev else s.md.cur, haltWhy := 0, stage := 0, slot := 0,
                      fail := false, lastShutdown := last, loaded := false,
                      ventCut := if s.md.stage ≠ 8 then s.md.ventCut else s.hold.vent.any (!·.dumped) },
    psaveFail := false, aonQ := s.aonQ, refuse := s.refuse.filter fun e => e.1 = 0x30000,
    wvTop := {}, wvVf := [], gat := {}, pace := { ({} : Pace) with vset := if s.pwr.coreOff then 750 else s.pace.vset },
    numVfs := 0, vfEnable := false, tenants := [], gens := [], fns := [], sqs := [], cqs := [], cmds := [],
    qos := { epoch := epochNow s }, cache := [], jobs := [], rjobs := [], offs := [], ops := [], runs := [],
    fltc := [], fltcMiss := 0, cdc := [],
    cip := tmap {} (fun _ c => { c with enc := 0, dec := 0, authFail := 0, leases := [], wantLease := [] }) s.cip,
    vault := { live := {}, recd := s.vault.recd, nor := s.vault.nor, staged := none, words := [] },
    co := { s.co with role := false, resp := [], lockedUntil := none },
    sec := {}, fw := { s.fw with running := none, act := none },
    chans := [], suspCount := [], suspExh := [],
    rebs := [], dram := {}, sram := { s.sram with cells := [], ce := 0, ue := 0, ueValid := false, errs := [], fused := false },
    pwr := { s.pwr with trans := none, pend := 7, cur := 0, waiters := [], owed := [], coreOff := false, retained := false, copied := false, haltRec := false, ventAfter := false, shutAfter := false },
    pin := { s.pin with holdupTest := false, l12 := false }, therm := { s.therm with evOwed := [] },
    hold := { s.hold with debounce := none, vent := none, testRun := false, testMib := 0 },
    mig := { ({} : Mig) with saveSeq := s.mig.saveSeq },
    flt := { s.flt with seq := 0, mismatch := false, settle := none, posted := false },
    ctr := s.ctrStored, replayed := false }

/-- What the loss of VAON takes with it: class A, device time and everything the always-on domain measured or
recorded; the thresholds last accepted and the persistent configuration come back (R382, R356, R364). -/
def aonLost (s : State) : State :=
  let s := regsDefault [.a] s
  { s with
    clk := { refOn := s.clk.refPin, refPin := s.clk.refPin, total := s.clk.total + now s }, aonQ := [], aonHeld := [], refuse := [], qos := {},
    md := { s.md with rlKind := 0, rlCount := 0, rlFunc := 0, prev := .start },
    mbx := { s.mbx with intCause := 0, intProgress := 0, intOpc := 0 },
    pwr := { ({} : Pwr) with watchMask := s.pwr.watchMask, watchPeriod := s.pwr.watchPeriod, thr := s.pwr.thr },
    hk := {},
    hold := { ({} : Hold) with cap := s.hold.cap, vmin := s.hold.vmin, deb := s.hold.deb, warn := s.hold.warn,
                                recover := s.hold.recover, pool := s.hold.pool, poolCap := s.hold.poolCap },
    therm := { ({} : Therm) with warn := s.therm.warn, throt := s.therm.throt, shut := s.therm.shut, thrPace := s.therm.thrPace,
                                 lvlNs := s.therm.lvlNs, kerfTotal := s.therm.kerfTotal },
    pin := { s.pin with pwrOff := false }, pace := {}, zer := { held := s.zer.held } }

end Sys2Proof.Machine
end

