-- ==== Sys2Proof/Machine/ModeOps.lean ====
section
/-!
DEFINITION. Operations that change the mode or meet a change of mode: the end of a mailbox command (R92, R93), power
state requests (R348 to R361), the capacitance test (R366), the Vent (R371 to R375), the thermal shut-down (R386,
R388), the cryptographic error state (R402, R403) and the ways out of each.
-/
namespace Sys2Proof.Machine

open Sys2Proof

/-! ### Capacitance test (R366) -/

/-- Whether VENT_TEST runs. -/
def ventTesting (s : State) : Bool := s.mbx.run.any fun r => r.opc = 0x0503

/-- A test requested or due: started in RUN, merged with a running one, else kept for later. -/
def capTest (s : State) : State :=
  if s.hold.testRun then s
  else if s.md.cur = .run ∧ ¬ ventTesting s then
    { s with hold := { s.hold with testRun := true, testDue := false }, pin := { s.pin with holdupTest := true } }
  else { s with hold := { s.hold with testDue := true } }

/-- A test kept for later runs now if it may. -/
def capTestKept (s : State) : State := if s.hold.testDue then capTest s else s

/-- No test runs outside RUN but the one of START, nor beside VENT_TEST: a running one is cut, and runs when it may again (R366). -/
def capTestCut (s : State) : State :=
  if s.hold.testRun then
    { s with hold := { s.hold with testRun := false, testDue := true }, pin := { s.pin with holdupTest := false } }
  else s

/-- RUN is left for another mode. -/
def leaveRun (m : Mode) (s : State) : State := setMode m (if s.md.cur = .run then capTestCut s else s)

/-! ### Power-state requests (R348, R349, R360, R361) -/

/-- AON_WAKE_LAST, the cycle count and the wake time, at an exit from DOZE (3) or WATCH (4) (R359). -/
def wakeRecord (src ch fr cycles : Nat) (s : State) : State :=
  { s with pwr := { s.pwr with wakeSrc := src, wakeCh := ch, wakeFrom := fr, cycles := cycles, wakeTime := now s, wakeReq := none } }

/-- Rank states that hold a rank in service. -/
def rankLive (st : Nat) : Bool := st = 1 || st = 2 || st = 3 || st = 4 || st = 6

/-- The exit from DOZE or WATCH restores the training of ranks and channels: the ranks leave self-refresh, and each rank and channel
takes a drift check before RUN (R331, R351, R358). -/
def exitBegin (s : State) : State :=
  { s with chans := tmap {} (fun _ c => { c with checkDue := c.trained && !c.gated }) s.chans,
           dram := { s.dram with ranks := tmap {} (fun _ r => { r with checkDue := rankLive r.st, selfRef := false }) s.dram.ranks } }

/-- Whether the sequence of an exit from DOZE or WATCH runs with the core domain on. -/
def exitRuns (s : State) : Bool :=
  !s.pwr.coreOff && s.pwr.trans.any fun t => t.exiting && t.drained && (s.md.cur = .watch || (s.md.cur = .doze && t.target < 3))

/-- Whether the core domain and its clocks serve accesses: not in WATCH, but from VCORE_GOOD on in its exit (R350, R358). -/
def coreOn (s : State) : Bool := s.md.cur ≠ .watch || exitRuns s

/-- Whether every PHY is stopped, and its clock with it: in HALT after a thermal shut-down (R386). -/
def physOff (s : State) : Bool := s.md.cur = .halt && s.md.haltWhy = 2

/-- Whether every check of an exit, with its retraining, has ended. -/
def exitChecked (s : State) : Bool :=
  s.chans.all (fun e => !e.2.checkDue && !e.2.retraining) && s.dram.ranks.all fun e => !e.2.checkDue && !e.2.retraining

/-- A power transition starts. Between PS0, PS1 and PS2 it stops nothing (R347); into PS3 or PS4 admission stops and
the device drains (R349; the drain is QUIESCE by R4, log 25); out of DOZE it is an exit, recorded with the source that
asked for it, a power-state request where no wake did (R359). -/
def psBegin (n : Nat) (w : Option PsWaiter) (s : State) : State :=
  let deep := 3 ≤ n
  let s := if deep ∧ s.md.cur = .run then leaveRun .quiesce s else s
  let s := if s.md.cur = .doze ∧ n < 3 then exitBegin (wakeRecord (s.pwr.wakeReq.getD 8) 0 3 0 s) else s
  { s with pwr := { s.pwr with trans := some ⟨n, !deep, 3 ≤ s.pwr.cur, w⟩ } }

/-- Whether a mailbox long command runs. -/
def longRunning (s : State) : Bool := s.mbx.run.isSome && s.mbx.long

/-- Whether a request for PS3 or PS4 is held: a long command runs (R349), or a DRAM migration (R330). -/
def psHeld (s : State) : Bool := longRunning s || s.dram.mig.any fun e => e.2.active

/-- Power state reported by a Set Features that completes (R361). -/
def psCmdDone (id : CmdId) (s : State) : State := finish id okSt (w32 s.pwr.cur) 0 s

/-! ### End of a mailbox command (R92, R93) -/

/-- The pending state becomes the transition that runs (R360): the last waiter's request starts it, the others were superseded. -/
def psTake (s : State) : State :=
  let ws := s.pwr.waiters
  let s' := psBegin s.pwr.pend ws.getLast? { s with pwr := { s.pwr with pend := 7, waiters := [] } }
  { s' with pwr := { s'.pwr with waiters := ws.dropLast } }

/-- Whether the pending state can be taken now: no transition runs, the Vent that abandoned it has ended (R362), and what holds PS3
and PS4 has (R330, R349). -/
def psMay (s : State) : Bool :=
  s.pwr.pend ≠ 7 && s.pwr.pend ≠ s.pwr.cur && s.pwr.trans.isNone && s.md.cur ≠ .vent && !(3 ≤ s.pwr.pend && psHeld s)

/-- What waits for a long command to end: a power request (R349), a capacitance test (R366). In VENT a request goes on waiting
(R362). -/
def afterLong (s : State) : State :=
  let s := capTestKept s
  if psMay s then psTake s else s

/-- A running command ends DONE with its result registers. One that a Vent pauses keeps them for its end after the Vent (R90). -/
def mbxDone (res : List (Nat × W32)) (s : State) : State :=
  if s.mbx.run.any (·.paused) then { s with mbx := { s.mbx with run := s.mbx.run.map fun r => { r with fin := some res } } }
  else
    let l := s.mbx.long
    let s := mbxStop .done 0 res s
    if l then afterLong s else s

/-- A running command is ended in ERROR at once, by HALT, ZEROIZE_N or a Vent that meets VENT_TEST (R90, R92). -/
def mbxKill (code arg obj : Nat) (s : State) : State :=
  let l := s.mbx.long
  let s := mbxStop .error code [(0, w32 arg), (1, w32 obj)] s
  if l then afterLong s else s

/-- A running command ends in ERROR (R92); one that a Vent pauses keeps that end for after the Vent (R90). -/
def mbxFail (code arg obj : Nat) (s : State) : State :=
  if s.mbx.run.any (·.paused) then { s with mbx := { s.mbx with run := s.mbx.run.map fun r => { r with finErr := some (code, arg, obj) } } }
  else mbxKill code arg obj s

/-- Object that a command's ARG_0 names, for an end that no argument causes (R92). -/
def runObj (r : MbxRun) : Nat :=
  if r.opc / 256 ∈ [0x02, 0x03, 0x08] ∨ r.opc ∈ [0x0103, 0x0105, 0x0401, 0x0402, 0x0404, 0x0405, 0x0406, 0x0601, 0x0602, 0x0603, 0x0901]
  then ((r.args.getD 0 0).toNat) else 0

/-- A waiter of a power request is told that state `n` is in force (R361). -/
def psTellAs (n : Nat) (w : PsWaiter) (s : State) : State :=
  match w with
  | .mbx => if s.mbx.run.any (·.opc = 0x0501) then mbxDone [(0, w32 n)] s else s
  | .cmd id => finish id okSt (w32 n) 0 s

/-- A waiter of a power request is told the state in force (R361). -/
def psTell (w : PsWaiter) (s : State) : State := psTellAs s.pwr.cur w s

/-- With no request pending any more, every waiter is told the state in force (R361). -/
def psTellAll (s : State) : State :=
  s.pwr.waiters.foldl (fun s w => psTell w s) { s with pwr := { s.pwr with pend := 7, waiters := [], wakeReq := none } }

/-- A power state request (R348, R349, R360). One that a long command or a migration holds is the pending state until that ends; a
later request supersedes it. -/
def psRequest (n : Nat) (w : Option PsWaiter) (s : State) : State :=
  let s := { s with pwr := { s.pwr with waiters := s.pwr.waiters ++ w.toList } }
  match s.pwr.trans with
  | some _ => { s with pwr := { s.pwr with pend := n, wakeReq := none } }
  | none =>
    if n = s.pwr.cur then psTellAll s
    else
      let s := { s with pwr := { s.pwr with pend := n } }
      if psMay s then psTake s else s

/-- A wake from DOZE (R351, R359): it requests the last operational state. During the entry it becomes the pending
request, and so it does during an exit after which PS3 or PS4 is pending (R360). -/
def wakeDoze (src : Nat) (s : State) : State :=
  match s.pwr.trans with
  | some t =>
    if 3 ≤ t.target then
      let s := psRequest s.pwr.lastOp none s
      { s with pwr := { s.pwr with wakeReq := some src } }
    else if s.md.cur = .doze ∧ s.pwr.pend ∈ [3, 4] then psRequest s.pwr.lastOp none s
    else s
  | none =>
    if s.md.cur = .doze ∧ s.pwr.cur ≠ s.pwr.lastOp then psRequest s.pwr.lastOp none { s with pwr := { s.pwr with wakeReq := some src } } else s

/-- PERST_N of the serving port is low. -/
def perstLow (s : State) : Bool := if s.pin.serving = 0 then s.pin.perst else s.pin.perst1

/-- A wake from WATCH (R357 to R359): recorded at a slow edge; the core supply is requested at 750 mV over AVSBus. After PERST_N the
device waits for START instead. -/
def wakeWatch (src ch : Nat) (s : State) : State :=
  if s.md.cur = .watch ∧ s.pwr.trans = none ∧ perstLow s = false then
    let s := wakeRecord src ch 4 s.pwr.cyclesNow s
    { s with pwr := { s.pwr with trans := some ⟨s.pwr.lastOp, true, true, none⟩ }, pace := { s.pace with avsOut := some 750, avsAt := now s } }
  else s

/-- The device leaves DOZE for what cannot wait (R351, R362, R388): the exit to the last operational state begins, unless one runs
already; an entry to PS4 is abandoned, its request pending until the return to RUN unless a later one is. -/
def dozeLeave (src : Nat) (s : State) : State :=
  if s.pwr.trans.any (fun t => t.target < 3) then s
  else
    let s := match s.pwr.trans with
      | some t => { s with pwr := { s.pwr with pend := if s.pwr.pend = 7 then t.target else s.pwr.pend,
                                               waiters := t.owner.toList ++ s.pwr.waiters } }
      | none => s
    psBegin s.pwr.lastOp none { s with pwr := { s.pwr with wakeReq := some src } }

/-- Transition and pending requests end without completion (R362). -/
def psDrop (s : State) : State :=
  { s with pwr := { s.pwr with trans := none, pend := 7, waiters := [], owed := [], wakeReq := none } }

/-- All power requests end, reporting the state in force (R362, R388). -/
def psAbandon (s : State) : State :=
  let ws := (match s.pwr.trans with | some t => t.owner.toList | none => []) ++ s.pwr.waiters
  psTellAll { s with pwr := { s.pwr with trans := none, waiters := ws } }

/-- Entry to RUN: a capacitance test kept for later starts (R366). -/
def enterRun (s : State) : State := capTestKept (setMode .run s)

/-- FAST of R379: within 8 °C below the lowest threshold not in force, or Throttle in force. -/
def fastOf (t : Therm) (x : Int) : Bool :=
  t.throtOn || (let low : Option Int :=
      if ¬ t.warnOn then some t.warn.level else if ¬ t.throtOn then some t.throt.level
      else if ¬ t.shutOn then some t.shut.level else none
    low.any fun l => l - 64 ≤ x)

/-- FAST while the 1 ms sampling runs (R379): within 8 °C below the lowest threshold not in force, or Throttle in force; not in
WATCH. -/
def fastSet (s : State) : State := { s with therm := { s.therm with fast := s.md.cur ≠ .watch && fastOf s.therm s.therm.last } }

/-! ### The Vent (R371 to R375) -/

/-- RECOVER level in mV, as last accepted (R61). -/
def ventRecover (s : State) : Nat := s.hold.recover
/-- WARN level in mV, as last accepted (R61). -/
def ventWarn (s : State) : Nat := s.hold.warn
/-- AON_VENT_CTRL.ENABLE. -/
def ventEnabled (s : State) : Bool := regFld s 0x30200 31 31 = 1

/-- What a Vent makes of an operation that has started (R372): an erase aborts and leaves its intent, an encryption gives its key
copy back (R23). -/
def ventCut (s : State) (r : Run) : State :=
  if r.kerf then s else
  match r.op.work with
  | .erase l b => modLun l (fun u => { u with blk := tset {} u.blk b { (tget {} u.blk b) with st := .intent } }) s
  | .encrypt n => { s with jobs := tset none s.jobs n ((tget none s.jobs n).map fun j => { j with key := [] }) }
  | _ => s

/-- Operations met by a Vent (R372): erases abort and leave their intent; encodes and encryptions in progress are
discarded and wait again, as does what a kerf holds before its start; suspended programs run on. -/
def ventOps (s : State) : State :=
  let gone (r : Run) : Bool := r.kerf || match r.op.work with
    | .erase _ _ => true | .encode _ => true | .verify _ _ _ => true | .encrypt _ => true | .offEnc _ _ => true
    | .offVerify _ _ _ _ => true | _ => false
  let back := (s.runs.filter gone).map Run.op
  let s := s.runs.foldl ventCut s
  { s with ops := s.ops ++ back, runs := (s.runs.filter fun r => !gone r).map (fun r => { r with suspended := false, suspending := false }) }

/-- VENT_TEST gives up its operations, its pool space and HOLDUP_ISO_N (R375, R377). -/
def ventTestDrop (s : State) : State :=
  { s with pin := { s.pin with holdupIso := false }, hold := { s.hold with testMib := 0 },
           ops := s.ops.filter fun o => o.work ≠ .ventTest, runs := s.runs.filter fun x => x.op.work ≠ .ventTest }

/-- A Vent meets the running mailbox command: it pauses, VENT_TEST ends with code 14h (R90, R375). -/
def ventMbx (s : State) : State :=
  match s.mbx.run with
  | none => s
  | some r =>
    if r.opc = 0x0503 then mbxKill 0x14 0x11 0 (ventTestDrop s)
    else { s with mbx := { s.mbx with run := some { r with paused := true } } }

/-- A PS3 or PS4 entry met by a Vent is abandoned; its request is pending until the return to RUN, unless a later one is (R362). -/
def ventPower (s : State) : State :=
  match s.pwr.trans with
  | some t => if 3 ≤ t.target then
      { s with pwr := { s.pwr with trans := none, pend := if s.pwr.pend = 7 then t.target else s.pwr.pend,
                                   waiters := t.owner.toList ++ s.pwr.waiters } } else s
  | none => s

/-- Drive HOLDUP_ISO_N: asserted during VENT_TEST and during a Vent (R377, R462). -/
def holdupIso (on : Bool) (s : State) : State := { s with pin := { s.pin with holdupIso := on } }

/-- HALT after a thermal shut-down (R386 step 3, R388): every PHY stops, a running mailbox command ends with code 14h, and leaves what
PERST_N would (R92, R98), power requests complete. -/
def shutHalt (s : State) : State :=
  let s := holdupIso false { s with hold := { s.hold with vent := none },
                                    pin := { s.pin with pwrOff := true, p0Up := false, p1Up := false } }
  let s := psAbandon (enterHalt 2 (capTestCut (mbxLeave s)))
  match s.mbx.run with
  | some r => mbxKill 0x14 0x11 (runObj r) s
  | none => s

/-- A dump that has ended goes on to what it was for (R374, R375, R386): to wait for PERST_N, or to the HALT of a shut-down. -/
def ventClose (v : VentRun) (s : State) : State :=
  let e : VEnt := { time := now s, kind := 3, lowVin := s.hold.lowVin, dur := (now s - v.start) / 1000, mib := v.mib }
  if v.perst then ventLog e { s with hold := { s.hold with last := 3 } }
  else if v.shut then shutHalt (ventLog { e with kind := 8 } { s with hold := { s.hold with last := 5 } })
  else s

/-- Entry to VENT (R372, R462). `cause`: 0 VIN, 1 PERST_N, 2 thermal; `shut`: HALT follows it. In a Vent that runs the cause joins it,
and where its dump has ended the device goes on at once (R375). -/
def ventEnter (cause : Nat) (shut perst : Bool) (s : State) : State :=
  match s.hold.vent with
  | some v =>
    let w := { v with shut := v.shut || shut, perst := v.perst || perst }
    let s := { s with hold := { s.hold with vent := some w } }
    if v.dumped ∧ w ≠ v then ventClose w s else s
  | none =>
    let from' := s.md.cur
    let why := s.md.haltWhy
    let s := leaveRun .vent (ventOps (ventPower s))
    holdupIso true (ventMbx { s with hold := { s.hold with
      vents := satInc 0xFF s.hold.vents, debounce := none,
      vent := some ⟨cause, from', why, shut, perst, false, now s, 0, 0⟩ } })

/-- Whether a LUN was accepted: without one there is no vent pool (R371). -/
def anyLun (s : State) : Bool := s.luns.any fun e => e.2.reason = 0

/-- Whether encryption still serves the dirty data of key-bound zones (R403). -/
def cryptoServes (s : State) : Bool := s.sec.st ≠ 2 || s.sec.passEng ≠ []

/-- Owner value of the namespace of a block. -/
def blkOwner (s : State) (ns : Nat) : Nat := ((nsOf s ns).bind (·.owner)).getD 0xFFFF

/-- MiB of a number of blocks, rounded up. -/
def blocksMib (n : Nat) : Nat := ceilDiv n 256

/-- 0204h and 0205h end once their reset has reported done (R82, R102): 0205h with the new generation, 0204h with the tenant
Configured. -/
def tenantResetEnd (s : State) : State :=
  match s.mbx.run with
  | some r =>
    let t := (r.args.getD 0 0).toNat
    let s := if r.opc = 0x0204 then modTn t (fun n => { n with st := .configured }) s else s
    mbxDone [(0, w32 (genOf s (t + 1)).toNat)] s
  | none => s

/-- A mailbox command paused by a Vent goes on (R90), and ends where its last step ended meanwhile. -/
def mbxResume (s : State) : State :=
  match s.mbx.run with
  | none => s
  | some r =>
    let s := { s with mbx := { s.mbx with run := some { r with paused := false, fin := none, finErr := none, drained := false } } }
    match r.fin, r.finErr with
    | some res, _ => mbxDone res s
    | none, some (c, a, o) => mbxFail c a o s
    | none, none => if r.drained then tenantResetEnd s else lockSetEnd s

/-- The mode that a Vent returns to (R374): RUN, or QUIESCE while an activation without reset goes on (R172). -/
def ventMode (s : State) : State := if s.fw.act.any (fun a => !a.withReset) then setMode .quiesce s else enterRun s

/-- The limit of an activation's drain moves by the time that a Vent took (R90, R173). -/
def actPaused (dt : Nat) (s : State) : State := { s with fw := { s.fw with act := s.fw.act.map fun a => { a with start := a.start + dt } } }

/-- Return from a Vent to the mode it left (R374). -/
def ventReturn (v : VentRun) (s : State) : State :=
  let dur := (now s - v.start) / 1000
  let s := mbxResume (holdupIso false (actPaused (now s - v.start) { s with hold := { s.hold with vent := none } }))
  if v.fromMode = .halt then
    let s := enterHalt v.fromWhy s
    ventLog { time := now s, kind := 8, lowVin := s.hold.lowVin, dur := dur, mib := v.mib }
      { s with hold := { s.hold with last := 5 } }
  else
    let s := ventMode { s with hold := { s.hold with last := 2 } }
    let s := ventLog { time := now s, kind := 2, lowVin := s.hold.lowVin, dur := dur, mib := v.mib } s
    let s := postEvent 7 3 0xC3 0 s
    if psMay s then psTake s else s

/-! ### Cryptographic error state (R402, R403, R412) -/

/-- Sections whose engines pass the GCM KAT at entry to the error state (R403): engines that are not fenced, each by an
outcome that is free (log 6). -/
def katPass (s : State) : List Nat :=
  (List.range 8).filter fun k => !(cipOf s k).fenced && (freeBitsAt 8 s).getLsbD k

/-- The SPDM requests that wait for the DRBG are answered with an ERROR: the error state serves none of them (R412). -/
def waitsEnd (s : State) : State :=
  s.sec.waits.foldl (fun s _ => emit .spdmError s) { s with sec := { s.sec with waits := [] } }

/-- Every SPDM session ends and its keys are zeroized (R412). -/
def sessionsEnd (s : State) : State := { s with sec := { s.sec with sessions := [] } }

/-- Entry to the cryptographic error state with the test that failed; `pass`: sections whose engines passed the GCM KAT
run at entry (R403). A Vent runs to its end first (R86); a HALT that permits fewer mailbox commands stays the governing one
(R97). From DOZE the exit goes on under HALT; that from WATCH leads to it (R358). -/
def cryptoError (fail engine : Nat) (pass : List Nat) (s : State) : State :=
  let s := waitsEnd (coEnd (sessionsEnd s))
  let s := { s with sec := { s.sec with st := 2, fail := fail, engine := engine, passEng := pass,
                                        drbgFailed := fail = 0x0A || fail = 0x0B || fail = 0x0C } }
  match s.md.cur, s.hold.vent with
  | .start, _ => s
  | .vent, some v =>
    { s with hold := { s.hold with vent := some (if v.fromMode = .halt then v else { v with fromMode := .halt, fromWhy := 1 }) } }
  | .halt, _ => if s.md.haltWhy ≤ 1 then enterHalt 1 s else s
  | .doze, _ => enterHalt 1 (if s.pwr.trans.isSome then s else dozeLeave 7 s)
  | .watch, _ => s
  | .run, _ => enterHalt 1 (capTestCut s)
  | .quiesce, _ => enterHalt 1 s
  | .vent, none => enterHalt 1 s

end Sys2Proof.Machine
end

