-- ==== Sys2Proof/Machine/Media.lean ====
section
/-!
DEFINITION. The media manager: block allocation and wear (R282 to R286), retirement and replacement (R288, R304), the
band's rows and pages (R182, R183), and which page and parity programs a zone's placed frames need (R20, R183).
-/
namespace Sys2Proof.Machine

open Sys2Proof

/-! ### Blocks of a LUN -/

/-- A block of a LUN. -/
def blkOf (u : Lun) (b : Nat) : Blk := tget {} u.blk b
/-- Change a block of a LUN. -/
def modBlk (l b : Nat) (g : Blk → Blk) (s : State) : State :=
  modLun l (fun u => { u with blk := tset {} u.blk b (g (blkOf u b)) }) s

/-- Bulk block indices: every block that is no parameter unit (R281). -/
def bulkIdx (u : Lun) : List Nat := (List.range u.blocks).filter (· ∉ u.par)

/-- Whether a block is an erased bulk block. -/
def isFree (u : Lun) (b : Nat) : Bool := b < u.blocks && (blkOf u b).st = .erased && b ∉ u.par

/-- Erased bulk blocks of a LUN. -/
def freeBlks (u : Lun) : List Nat := (bulkIdx u).filter (isFree u)

/-- Block indices of the allocation window (R283). -/
def windowIdx (u : Lun) (w : Nat) : List Nat := (List.range w).map fun i => (u.window + i) % u.blocks

/-- Of the blocks, one with the least value of `f`, the lowest index on a tie. -/
def leastBy (f : Nat → Nat) : List Nat → Option Nat
  | [] => none
  | b :: t => match leastBy f t with
    | none => some b
    | some c => if f b < f c ∨ (f b = f c ∧ b ≤ c) then some b else some c

/-- The block a band takes on a LUN (R283); with `arch` the archive rule (R284). -/
def pickBlk (s : State) (l : Nat) (arch : Bool) : Option Nat :=
  let u := lunOf s l
  let win := (windowIdx u (regFld s (secBase (lunSec l) + 0x110) 7 0)).filter (isFree u)
  let cand := if win = [] then freeBlks u else win
  let e (b : Nat) : Nat := (blkOf u b).erases
  match leastBy e cand with
  | none => none
  | some lo =>
    if ¬ arch then some lo else
    match leastBy (fun b => 2 ^ 40 - e b) cand with
    | none => some lo
    | some hi => if e hi ≤ e lo + regFld s (secBase (lunSec l) + 0x110) 27 16 / 2 then some hi else some lo

/-- Take a block for a band; the window advances by 1 (R283). -/
def takeBlk (l b : Nat) (s : State) : State :=
  modLun l (fun u => { u with window := (u.window + 1) % u.blocks, blk := tset {} u.blk b { (blkOf u b) with st := .used } }) s

/-- An operation as it is queued now. -/
def newOp (w : Work) (q : OpQueue) (cls : DCls) (age func : Nat) (gen : BitVec 16) (s : State) : Op :=
  { work := w, q := q, cls := cls, age := age, func := func, gen := gen, queued := now s }

/-- Queue an operation. -/
def queueOp (o : Op) (s : State) : State := { s with ops := s.ops ++ [o] }

/-- Queue an erase (R286): class Maintenance, by its queueing time. -/
def queueErase (l b : Nat) (s : State) : State := queueOp (newOp (.erase l b) (.lun l) .maintenance (now s) 0 (genOf s 0) s) s

/-- Return a block for erase (R286, R298). -/
def giveBlk (l b : Nat) (s : State) : State :=
  queueErase l b (modBlk l b (fun k => { k with st := .toErase }) s)

/-- Whether a LUN serves (accepted, not failed). -/
def lunOk (s : State) (l : Nat) : Bool := (lunOf s l).reason = 0

/-! ### Spare and cause 3 (R282, R419) -/

/-- Spare of a LUN in 0.01 %. -/
def lunSpare (s : State) (l : Nat) : Nat :=
  let u := lunOf s l
  if u.bulk = 0 then 0 else u.spare * 10000 / u.bulk

/-- Spare of a lane set: the lowest over its LUNs (R282). -/
def laneSpare (s : State) (ls : List Nat) : Nat := (ls.map (lunSpare s)).foldl min 10000

/-- Whether a lane set's spare is below 2 %, exactly. -/
def laneLow (s : State) (ls : List Nat) : Bool :=
  ls.any fun l => (lunOf s l).spare * 100 < 2 * (lunOf s l).bulk

/-- Evaluate cause 3 of Replace Request over the enabled profiles (R419); as it becomes active, so does the spare bit of
Critical Warning, whose SMART event it posts (R142, R143). -/
def spareCheck (s : State) : State :=
  if (enabledProfs s).any (fun p => laneLow s (laneSet p.2)) then
    if s.rep.causes.getLsbD 2 then s else postEventAll 1 2 2 (causeOn 3 s)
  else causeOff 3 s

/-- Evaluate cause 6: a failed LUN in the lane set of an enabled profile with band parity on (R419). -/
def lunCheck (s : State) : State :=
  if (enabledProfs s).any (fun p => parityOn p.2 && (laneSet p.2).any fun l => (lunOf s l).reason = 12) then causeOn 6 s else s

/-- A parameter unit that went bad is replaced by a bulk block of the LUN, as soon as one stands erased (R281). -/
def parFix (l : Nat) (s : State) : State :=
  match (lunOf s l).par.find? fun b => (blkOf (lunOf s l) b).st = .bad, freeBlks (lunOf s l) with
  | some b, nb :: _ => modLun l (fun u => { u with par := u.par.map fun p => if p = b then nb else p }) s
  | _, _ => s

/-- Retire a block as grown-bad (R282, R288): it takes one spare; a parameter unit is replaced (R281). -/
def retireBlk (l b : Nat) (s : State) : State :=
  let s := parFix l (modBlk l b (fun k => { k with st := .bad }) s)
  spareCheck (modLun l (fun u => { u with grown := u.grown + 1, spare := u.spare - 1 }) s)

/-! ### Journal copies (R281) -/

/-- The LUNs that hold the two copies of every journal record: accepted, on different channels; one that no longer serves is replaced
(R281). -/
def journalHomes (s : State) : State :=
  let ok (ls : List Nat) (l : Nat) : Bool := lunOk s l && ls.all fun k => lunChan k ≠ lunChan l
  let add (ls : List Nat) : List Nat := if 2 ≤ ls.length then ls else ls ++ ((s.luns.map Prod.fst).find? (ok ls)).toList
  { s with journal := add (add (s.journal.filter (lunOk s))) }

/-! ### Erases under way (R292, R297) -/

/-- A read of a LUN. -/
def isRead : Work → Bool
  | .lunRead _ _ _ | .idxRead _ _ _ | .relRead _ _ | .moveRead _ _ _ | .groupRead _ _ _ | .probe _ => true | _ => false

/-- The probe of a suspect block (R299). -/
def isProbe : Work → Bool
  | .probe _ => true | _ => false

/-- The run on a LUN that is not a read served during a suspension. -/
def lunMain (s : State) (l : Nat) : Option Run := s.runs.find? fun r => r.res = .lun l && !isRead r.op.work

/-- The block of LUN l whose erase runs or is suspended. -/
def erasing (s : State) (l : Nat) : Option Nat :=
  (lunMain s l).bind fun r => match r.op.work with | .erase _ b => some b | _ => none

/-! ### The band (R182, R183) -/

/-- Groups of a band. -/
def bandGroups (b : Band) : Nat := b.pos.length / 32

/-- Parity position of a group in a row (R183). -/
def parPos (row g : Nat) : Nat := 32 * g + row % 32

/-- Whether a position of a row holds data: not the parity position, not lost (R183, R289). -/
def dataPos (b : Band) (row p : Nat) : Bool := !(b.parity && p = parPos row (p / 32)) && p ∉ b.dead

/-- The next data page from (row, position) on; the first argument bounds the search. -/
def nextPage (b : Band) : Nat → Nat → Nat → Option (Nat × Nat)
  | 0, _, _ => none
  | f + 1, row, p =>
    if b.pos.length ≤ p then nextPage b f (row + 1) 0
    else if dataPos b row p then some (row, p)
    else nextPage b f row (p + 1)

/-- Allocate the next data page of the data space. -/
def bandPage (b : Band) : Band :=
  match nextPage b (2 * b.pos.length + 2) b.curRow b.curIdx with
  | none => b
  | some (r, p) => { b with pages := b.pages ++ [(r, p)], curRow := r, curIdx := p + 1 }

/-- Page size in 16-byte units. -/
def page16 (b : Band) : Nat := b.pageBytes / 16

/-- Allocate pages until the data space used is covered. -/
def bandPages : Nat → Band → Band
  | 0, b => b
  | n + 1, b => if b.pages.length * page16 b < b.fill16 then bandPages n (bandPage b) else b

/-- Key of a parity page. -/
def unitKey (row g : Nat) : Nat := row * 256 + g

/-- Data pages of a parity unit, by page number. -/
def unitPages (b : Band) (u : Nat) : List Nat :=
  ((b.pages.zip (List.range b.pages.length)).filter fun e => unitKey e.1.1 (e.1.2 / 32) = u).map Prod.snd

/-- Whether every data position of a parity unit has its page and data up to `ready` fills them. -/
def unitFull (b : Band) (ready u : Nat) : Bool :=
  let ps := unitPages b u
  let need := ((List.range 32).filter fun i => dataPos b (u / 256) (32 * (u % 256) + i)).length
  ps.length = need && ps.all fun k => (k + 1) * page16 b ≤ ready

/-! ### What the pages hold (R183, R302) -/

/-- The image of data page k: what the frames placed so far put there. -/
def pageImg (b : Band) (k : Nat) : List Byte := bytesAt (tget [] b.img k) 0 b.pageBytes

/-- Parity unit of data page k. -/
def pageUnit (b : Band) (k : Nat) : Nat :=
  let (r, p) := b.pages.getD k (0, 0)
  unitKey r (p / 32)

/-- Put bytes at an offset of data page k, and XOR them into the accumulator of its group row (step 10 of the write path). -/
def pagePut (k o : Nat) (bs : List Byte) (b : Band) : Band :=
  let u := pageUnit b k
  let acc := bytesAt (tget [] b.acc u) 0 b.pageBytes
  { b with img := tset [] b.img k (putBytes (pageImg b k) o bs),
           acc := if b.parity then tset [] b.acc u (xorBytes acc (putBytes (zeros b.pageBytes) o bs)) else b.acc }

/-- Put bytes into the data space from byte offset o on; the first argument bounds the pages touched. -/
def spacePut : Nat → Nat → List Byte → Band → Band
  | 0, _, _, b => b
  | n + 1, o, bs, b =>
    if bs = [] ∨ b.pageBytes = 0 then b else
    let room := b.pageBytes - o % b.pageBytes
    spacePut n (o + room) (bs.drop room) (pagePut (o / b.pageBytes) (o % b.pageBytes) (bs.take room) b)

/-- Bytes [o, o + n) of the data space. -/
def spaceGet (b : Band) (o n : Nat) : List Byte :=
  let k0 := o / b.pageBytes
  bytesAt ((List.range ((o + n - 1) / b.pageBytes + 1 - k0)).map fun i => pageImg b (k0 + i)).flatten (o - k0 * b.pageBytes) n

/-- Band-parity rebuild of data page k (R302): the XOR of the other data pages of its group row and its parity page, or the
accumulator while that page is not programmed. -/
def rebuiltPage (b : Band) (k : Nat) : List Byte :=
  let u := pageUnit b k
  ((unitPages b u).filter (· ≠ k)).foldl (fun a j => xorBytes a (pageImg b j)) (bytesAt (tget [] b.acc u) 0 b.pageBytes)

/-- Band of a first write (R182): one block on each LUN of the lane set; none when a LUN has no erased block. -/
def takeBand (arch : Bool) : List Nat → State → Option (List (Nat × Nat) × State)
  | [], s => some ([], s)
  | l :: t, s =>
    match pickBlk s l arch with
    | none => none
    | some b => match takeBand arch t (takeBlk l b s) with
      | none => none
      | some (ps, s') => some ((l, b) :: ps, s')

/-- Geometry of a lane set: page bytes and pages per block of its first LUN. -/
def newBand (s : State) (p : Profile) (ps : List (Nat × Nat)) : Band :=
  let u := lunOf s ((laneSet p).headD 0)
  { pos := ps, pageBytes := if u.pageBytes = 0 then 16384 else u.pageBytes, ppb := u.ppb, parity := parityOn p }

/-- Every page of every block of a band goes back for erase (R195). -/
def dropBand (b : Band) (s : State) : State :=
  b.pos.foldl (fun s p => if lunOk s p.1 && (blkOf (lunOf s p.1) p.2).st ≠ .bad then giveBlk p.1 p.2 s else s) s

/-! ### Programs of a zone -/

/-- Jobs of a zone, or of a band of a conventional pool, in their order, with their numbers. -/
def zoneJobs (s : State) (ns z : Nat) : List (Nat × Job) :=
  s.jobs.filterMap fun e => match e.2 with
    | some j => if j.ns = ns && j.zone = z then some (e.1, j) else none
    | none => none

/-- Change a job. -/
def modJob (n : Nat) (g : Job → Job) (s : State) : State :=
  { s with jobs := tset none s.jobs n ((tget none s.jobs n).map g) }

/-- Data-space end below which every frame's bytes are assembled. -/
def readyEnd (s : State) (ns z : Nat) (b : Band) : Nat :=
  ((zoneJobs s ns z).filter fun e => e.2.stage = .cipher || e.2.stage = .ready).foldl (fun m e => min m e.2.off16) b.fill16

/-- Whether partly filled pages are programmed as they stand (log 28): the zone is finished or Read Only, or a Flush or
FUA write waits for its programs because the cache is not power-safe. -/
def forceZone (s : State) (ns z : Nat) : Bool :=
  let st := (zoneOf s ns z).st
  st = .full || st = .readOnly || s.md.cur = .quiesce && s.pwr.trans.any (fun t => 3 ≤ t.target) ||
  s.cmds.any (fun c => c.phase = .durable && c.cover.any fun b => b.ns = ns && (nsOf s ns).any fun n => !n.zoned || lbaZone n b.lba = z)
    && !powerSafe s

/-- Bytes of a job's frame, in 16-byte units. -/
def jobLen16 (j : Job) : Nat := (64 + j.payload.length) / 16

/-- Jobs of a zone whose stored bytes overlap [lo, hi) of the data space, in 16-byte units. -/
def spanJobs (s : State) (ns z lo hi : Nat) : List Job :=
  ((zoneJobs s ns z).map Prod.snd).filter fun j =>
    (j.stage = .program || j.stage = .ready || j.stage = .cipher) && j.off16 < hi && lo < j.off16 + jobLen16 j

/-- Function of the owner of a namespace; the PF where it has none. -/
def nsFn (s : State) (ns : Nat) : Nat := (((nsOf s ns).bind (·.owner)).map ownerFn).getD 0

/-- Queue a program for jobs of a zone: as write-back its age is that of the oldest data it carries, of blocks that reclaim moves alone
it takes class Maintenance (R159, R203). It carries that job's function and generation, and without one those of the namespace's owner
(R23). -/
def queueProg (w : Work) (ns l : Nat) (js : List Job) (s : State) : State :=
  let age := (js.map Job.time).foldl min (now s)
  let fg := ((js.find? fun j => j.time = age).map fun j => (j.func, j.gen)).getD (nsFn s ns, genOf s (nsFn s ns))
  let moved := js ≠ [] && js.all (·.move)
  queueOp (newOp w (.lun l) (if moved then .maintenance else .writeBack) (if moved then now s else age) fg.1 fg.2 s) s

/-- Whether data page k lies in the part of the data space that stays empty (R198). -/
def inGap (b : Band) (k : Nat) : Bool := decide (b.gap.1 ≤ k * page16 b) && decide ((k + 1) * page16 b ≤ b.gap.2)

/-- Issue what page k needs: a program of its data up to `ready`, when the page is full or `force`. -/
def issuePage (ns z ready : Nat) (force : Bool) (k : Nat) (s : State) : State :=
  match (zoneOf s ns z).band with
  | none => s
  | some b =>
    let e := min ready ((k + 1) * page16 b)
    let p := (b.pages.getD k (0, 0)).2
    if tget 0 b.iss k < e ∧ k * page16 b < e ∧ (e = (k + 1) * page16 b ∨ force) ∧ p ∉ b.dead ∧ ¬ inGap b k then
      let l := (b.pos.getD p (0, 0)).1
      queueProg (.program ns z k e) ns l (spanJobs s ns z (k * page16 b) e)
        (modZone ns z (fun zn => { zn with band := some { b with iss := tset 0 b.iss k e } }) s)
    else s

/-- Issue a parity page: once its group's row is in the accumulator, or `force` (R183). -/
def issueParity (ns z ready : Nat) (force : Bool) (u : Nat) (s : State) : State :=
  match (zoneOf s ns z).band with
  | none => s
  | some b =>
    let e := ((unitPages b u).map fun k => min ready ((k + 1) * page16 b)).foldl max 0
    let pp := parPos (u / 256) (u % 256)
    if ¬ b.parity ∨ e ≤ tget 0 b.pIss u ∨ pp ∈ b.dead ∨ ¬ (unitFull b ready u || force) ∨ (unitPages b u).all (inGap b) then s
    else
      let l := (b.pos.getD pp (0, 0)).1
      queueProg (.parity ns z u e) ns l ((unitPages b u).map fun k => spanJobs s ns z (k * page16 b) ((k + 1) * page16 b)).flatten
        (modZone ns z (fun zn => { zn with band := some { b with pIss := tset 0 b.pIss u e } }) s)

/-- Issue every program that a zone's placed frames allow. -/
def issueZone (ns z : Nat) (s : State) : State :=
  match (zoneOf s ns z).band with
  | none => s
  | some b0 =>
    let b := bandPages (b0.fill16 / page16 b0 + 2) b0
    let s := modZone ns z (fun zn => { zn with band := some b }) s
    let ready := readyEnd s ns z b
    let force := forceZone s ns z
    let s := (List.range b.pages.length).foldl (fun s k => issuePage ns z ready force k s) s
    (b.pages.map fun e => unitKey e.1 (e.2 / 32)).eraseDups.foldl (fun s u => issueParity ns z ready force u s) s

/-- Whether the data space [off, off + len) of a band is confirmed on media, parity pages with it (R20). -/
def spanConfirmed (b : Band) (off len : Nat) : Bool :=
  (List.range ((off + len - 1) / page16 b - off / page16 b + 1)).all fun i =>
    let k := off / page16 b + i
    let e := min (off + len) ((k + 1) * page16 b)
    let (row, p) := b.pages.getD k (0, 0)
    let u := unitKey row (p / 32)
    e ≤ tget 0 b.conf k && (!b.parity || parPos row (p / 32) ∈ b.dead || e ≤ tget 0 b.pConf u)

/-! ### Replacement (R288, R304) -/

/-- Erased blocks of a LUN, counted. -/
def freeCount (s : State) (l : Nat) : Nat := if lunOk s l then (freeBlks (lunOf s l)).length else 0

/-- The LUN of a list with the most erased blocks, the first on a tie. -/
def mostFree (s : State) : List Nat → Option Nat
  | [] => none
  | l :: t => match mostFree s t with
    | some m => if freeCount s l < freeCount s m then some m else if 0 < freeCount s l then some l else none
    | none => if 0 < freeCount s l then some l else none

/-- Lane set of a zone's profile. -/
def zoneLanes (s : State) (ns z : Nat) : List Nat := ((zoneOf s ns z).prof.map fun p => laneSet (profOf s p)).getD []

/-- Replacement block for position p of a band (R288 step 2): from its own LUN, else from the LUN of the lane set with the most
erased blocks that holds no other position of the parity group; where the lane set has none, from such a LUN of the device
(R289) with pages of the same size. -/
def replacement (s : State) (ns z : Nat) (b : Band) (p : Nat) : Option (Nat × Nat) :=
  let own := (b.pos.getD p (0, 0)).1
  let group := if b.parity then ((List.range 32).map (· + p / 32 * 32)).filter (· ≠ p) else []
  let others := group.map fun q => (b.pos.getD q (0, 0)).1
  let may (l : Nat) : Bool := l ≠ own && l ∉ others && (lunOf s l).pageBytes = b.pageBytes && b.ppb ≤ (lunOf s l).ppb
  let l? := if 0 < freeCount s own then some own
    else (mostFree s ((zoneLanes s ns z).filter may)).or (mostFree s ((s.luns.map Prod.fst).filter may))
  l?.bind fun l => (pickBlk s l false).map fun k => (l, k)

/-- Put a replacement block at a band position; waiting operations of the position move with it. -/
def setPos (ns z p : Nat) (nb : Nat × Nat) (s : State) : State :=
  let s := modZone ns z (fun zn => { zn with band := zn.band.map fun b => { b with pos := b.pos.set p nb, worn := b.worn.filter (· ≠ p) } }) (takeBlk nb.1 nb.2 s)
  let at' (o : Op) : Bool := match o.work, (zoneOf s ns z).band with
    | .program n y k _, some b => n = ns && y = z && (b.pages.getD k (0, 0)).2 = p
    | .parity n y u _, some _ => n = ns && y = z && parPos (u / 256) (u % 256) = p
    | _, _ => false
  { s with ops := s.ops.map fun o => if at' o then { o with q := .lun nb.1 } else o }

/-! ### Relocations (R285, R288, R290, R303, R304) -/

/-- Rows of position p that hold confirmed data or parity pages, rising. -/
def confRows (b : Band) (p : Nat) : List Nat :=
  let data := (List.range b.pages.length).filterMap fun k =>
    let (r, q) := b.pages.getD k (0, 0)
    if q = p ∧ tget 0 b.conf k ≠ 0 then some r else none
  let par := b.pConf.filterMap fun e => if parPos (e.1 / 256) (e.1 % 256) = p then some (e.1 / 256) else none
  (data ++ par).foldl (fun l r => insNat r l) []

/-- The relocation that stands on a band position, if any, with its number. -/
def relAt (s : State) (ns z p : Nat) : Option (Nat × Rel) :=
  s.rels.findSome? fun e => e.2.bind fun r => if r.ns = ns && r.zone = z && r.pos = p then some (e.1, r) else none

/-- Class of a relocation's operations: Write-back for a replaced position, Maintenance otherwise (R285, R303, R304). -/
def relCls : RelKind → DCls
  | .wear => .maintenance | .refresh => .maintenance | .restart => .maintenance | .replace => .writeBack | .rebuild => .writeBack

/-- Where row `row` of a band position stands: at its block, or on the old one while a relocation of that position has not
reached the row. -/
def rowLoc (s : State) (ns z : Nat) (b : Band) (row p : Nat) : Nat × Nat :=
  match relAt s ns z p with
  | some (_, r) => if row ∈ r.left && r.kind ≠ .rebuild && lunOk s r.src.1 then r.src else b.pos.getD p (0, 0)
  | none => b.pos.getD p (0, 0)

/-- Whether a row of a position stands nowhere: its LUN is gone, and its rebuild has not reached the row (R304). -/
def rowGone (s : State) (ns z : Nat) (b : Band) (row p : Nat) : Bool :=
  !lunOk s (rowLoc s ns z b row p).1 || (relAt s ns z p).any fun e => row ∈ e.2.left && (e.2.kind = .rebuild || !lunOk s e.2.src.1)

/-- Where data page k of a band stands. -/
def pageLoc (s : State) (ns z : Nat) (b : Band) (k : Nat) : Nat × Nat :=
  let (row, p) := b.pages.getD k (0, 0)
  rowLoc s ns z b row p

/-- Data page of a row at a band position, if it holds one. -/
def rowPage (b : Band) (row p : Nat) : Option Nat := (List.range b.pages.length).find? fun k => b.pages.getD k (0, 0) = (row, p)

/-! ### Band-parity rebuild (R302) -/

/-- Change a rebuild. -/
def modReb (n : Nat) (g : Reb → Reb) (s : State) : State := { s with rebs := tset none s.rebs n ((tget none s.rebs n).map g) }

/-- Drop the rebuilds that a test names, with their waiting reads. -/
def rebDrop (hit : Reb → Bool) (s : State) : State :=
  let gone (n : Nat) : Bool := (tget none s.rebs n).any hit
  { s with rebs := s.rebs.filter fun e => !e.2.any hit,
           ops := s.ops.filter fun o => match o.work with | .groupRead n _ _ => !gone n | _ => true }

/-- The other positions of a group row that a rebuild reads: those with a confirmed page. An unconfirmed data page is in the staging
buffer (R293), and an unprogrammed parity page in the accumulator. -/
def rebReads (b : Band) (row p : Nat) : List Nat :=
  ((List.range 32).map (· + p / 32 * 32)).filter fun q =>
    q ≠ p && if q = parPos row (p / 32) then tget 0 b.pConf (unitKey row (p / 32)) ≠ 0
      else (rowPage b row q).any fun k => tget 0 b.conf k ≠ 0

/-- Whether band parity can give a row of a position: parity is on, and none of the other pages is known to be beyond reach. -/
def rebMay (s : State) (ns z : Nat) (b : Band) (row p : Nat) : Bool :=
  b.parity && (rebReads b row p).all fun q => !rowGone s ns z b row q

/-- Codewords of a page (R300). -/
def allCws (pageBytes : Nat) : List Nat := List.range (pageBytes / 4096)

/-- Begin a rebuild: the reads of the other pages of the group row are queued, each at the class of operation `o` (R301, R302). -/
def rebStart (ns z row p : Nat) (who : RebFor) (o : Op) (s : State) : State :=
  match (zoneOf s ns z).band with
  | none => s
  | some b =>
    let n := s.nextJob
    let qs := rebReads b row p
    let s := { s with nextJob := n + 1, rebs := tset none s.rebs n (some { ns := ns, zone := z, row := row, pos := p, who := who, op := o, left := qs }) }
    qs.foldl (fun s q =>
      let (l, k) := rowLoc s ns z b row q
      queueOp { newOp (.groupRead n q k) (.lun l) o.cls o.age o.func o.gen s with cws := if o.cws = [] then allCws b.pageBytes else o.cws } s) s

/-! ### Relocations, dropped -/

/-- Drop a relocation with its waiting operations. -/
def relDrop (n : Nat) (s : State) : State :=
  let s := rebDrop (fun r => match r.who with | .row m _ => m = n | _ => false) s
  { s with rels := tset none s.rels n none,
           ops := s.ops.filter fun o => match o.work with | .relRead m _ => m ≠ n | .relProg m _ => m ≠ n | _ => true }

end Sys2Proof.Machine
end

