-- ==== Sys2Proof/Machine/WritePath.lean ====
section
/-!
DEFINITION. The write path from the cache to media (write path steps 5 to 12): cutting and sealing frames (R191, R210),
the coded or raw decision and its accounting (R188, R191 to R193), place and header (R183, R234), confirmation (R20,
R287), auto-finish and finishing (R193, R194), durability (R169, R170), and the stored frames' plaintext (R249, R254).
-/
namespace Sys2Proof.Machine

open Sys2Proof

/-! ### Engines (R22, R206, R274) -/

/-- Decode reserve of a section (R206). -/
def reserveOf (s : State) (k : Nat) : Nat := regFld s (cdcBase k) 3 0

/-- Whether a coder is busy. -/
def coderBusy (s : State) (k lane c : Nat) : Bool := s.runs.any fun r => r.res = .coder k lane c

/-- Free coders of the lanes from `lo` up. -/
def freeCoders (s : State) (k lo : Nat) : Nat :=
  2 * (16 - lo) - (s.runs.filter fun r => match r.res with | .coder j l _ => j = k && lo ≤ l | _ => false).length

/-- Sections that take new frames. -/
def openSecs (s : State) : List Nat := (List.range 8).filter fun k => !(cipOf s k).fenced

/-- The section with the most of `f`, lowest number on a tie. -/
def mostSec (f : Nat → Nat) : List Nat → Nat
  | [] => 0
  | [k] => k
  | k :: t => let m := mostSec f t; if f m ≤ f k then k else m

/-- Another engine for a frame (R273, R275). -/
def otherSec (s : State) (k : Nat) : Nat :=
  let others := (openSecs s).filter (· ≠ k)
  if others = [] then k else mostSec (fun i => freeCoders s i 0) others

/-- Sections that a lane set spans. -/
def laneSecs (p : Profile) : List Nat := ((setBits (chMask p) 64).map chanSec).eraseDups

/-- Section for a frame of a write (R22); 'most free encode lanes' is taken as most free coders of the shared lanes (DESIGN CHOICE,
log 41). -/
def encSec (s : State) (p : Profile) : Nat :=
  let own := (laneSecs p).filter fun k => !(cipOf s k).fenced
  mostSec (fun k => freeCoders s k (reserveOf s k)) (if own = [] then openSecs s else own)

/-! ### Frames and keys (R234, R235, R249, R254) -/

/-- Key of an epoch that a slot may still use (R254). -/
def epochKey (s : State) (slot e : Nat) : Option (List Byte) :=
  let sl := slotOf s slot
  if e < sl.zmark then none
  else if sl.cur.any (·.epoch = e) then sl.cur.map KeyEp.key
  else if sl.prev.any (·.epoch = e) then sl.prev.map KeyEp.key
  else none

/-- Additional authenticated data of a frame (R249). -/
def aadOf (ns owner zstart lba : Nat) (hdr : List Byte) : List Byte :=
  leBytes 4 ns ++ leBytes 2 owner ++ zeros 2 ++ leBytes 8 zstart ++ leBytes 8 lba ++ hdr

/-- Zone start LBA and first LBA of frame index `idx`; for a conventional block 0 and its LBA (R249). -/
def framePlace (s : State) (ns z idx : Nat) (conv : Bool) : Nat × Nat :=
  if conv then (0, idx) else
  match nsOf s ns with
  | some n => (zoneStart n z, zoneStart n z + idx * (zoneFb s (zoneOf s ns z) / 4096))
  | none => (0, 0)

/-- Original bytes of a stored frame, when its keys and checks allow (R249, R254, R221). -/
def frameOrig (s : State) (ns z idx : Nat) (conv : Bool) (slot : Option Nat) (bytes : List Byte) : Option (List Byte) :=
  let hdr := bytes.take 48
  let p := 16 * leAt hdr 8 2 - 64
  let body := (bytes.drop 48).take p
  let (zs, lba) := framePlace s ns z idx conv
  let plain := if bitOf (w32 (leAt hdr 1 1)) 3 then
      slot.bind fun k => (epochKey s k (leAt hdr 44 4)).bind fun key =>
        gcmOpen key ((hdr.drop 36).take 12) (aadOf ns (slotOf s k).owner zs lba hdr) body ((bytes.drop (48 + p)).take 16)
    else some body
  plain.bind fun pl => match decodePayload hdr pl with | .ok b => some b | .fail _ => none

/-- The stored frame of an index that reads use: the live one, else the confirmed one before it. -/
def storedOf (fr : Fr) : Option SFr := fr.live.or fr.old

/-- The stored bytes of a frame, from the pages of its band. -/
def frameBytesOf (zn : Zone) (x : SFr) : List Byte := (zn.band.map fun b => spaceGet b (16 * x.off16) (16 * x.len16)).getD []

/-! ### Cache counts (R160) -/

/-- Write-back class by the dirty share of the ceiling (R160). -/
def wbUpdate (s : State) : State :=
  let d := 4096 * s.cache.length
  let c := s.hold.ceil * 1048576
  { s with qos := { s.qos with wbHigh := if 90 * c ≤ 100 * d then true else if 100 * d < 80 * c then false else s.qos.wbHigh } }

/-! ### Sealing (R191, R192, R210) -/

/-- Blocks of index f from its start to the last that has reached the device (log 23 for gaps). -/
def idxSpan (s : State) (ns z f : Nat) : Nat :=
  let fr := frOf (zoneOf s ns z) f
  let (_, lba) := framePlace s ns z f false
  let per := zoneFb s (zoneOf s ns z) / 4096
  let c := ((s.cache.filter fun b => b.ns = ns && lba ≤ b.lba && b.lba < lba + per).map fun b => b.lba - lba + 1).foldl max 0
  max c (((storedOf fr).map fun x => x.n / 4096).getD 0)

/-- Original bytes of index f's stored frame, when it can be read back: not lost, and under keys still held. -/
def idxOld (s : State) (ns z f : Nat) : Option (List Byte) :=
  let zn := zoneOf s ns z
  let fr := frOf zn f
  let slot := zn.prof.bind fun p => profSlot (profOf s p)
  if fr.lost then none else (storedOf fr).bind fun x => frameOrig s ns z f false slot (frameBytesOf zn x)

/-- Original bytes of the first `n` blocks of index f: from the cache, else from the index's stored frame, zeros where
neither holds data; a poisoned block is stored as zeros (R328). -/
def idxOrig (s : State) (ns z f n : Nat) : List Byte :=
  let (_, lba) := framePlace s ns z f false
  let old := (idxOld s ns z f).getD []
  ((List.range n).map fun i => match cachedBlk s ns (lba + i) with
    | some b => if b.poisoned then zeros 4096 else b.data
    | none => if lba + i ∈ (zoneOf s ns z).gone then zeros 4096 else bytesAt old (4096 * i) 4096).flatten

/-- LBAs of index f that only its stored frame holds, where that frame cannot be read back. -/
def idxGone (s : State) (ns z f n : Nat) : List Nat :=
  let (_, lba) := framePlace s ns z f false
  match storedOf (frOf (zoneOf s ns z) f), idxOld s ns z f with
  | some x, none => ((List.range (min n (x.n / 4096))).map (lba + ·)).filter fun l => (cachedBlk s ns l).isNone
  | _, _ => []

/-- The cached blocks [lba, lba + n) of a namespace, with the write that put each there. -/
def cachedIn (s : State) (ns lba n : Nat) : List (Nat × Nat) :=
  (s.cache.filter fun b => b.ns = ns && lba ≤ b.lba && b.lba < lba + n).map fun b => (b.lba, b.ver)

/-- Age of a job: the oldest cached block it takes. -/
def idxAge (s : State) (ns lba n : Nat) : Nat :=
  ((s.cache.filter fun b => b.ns = ns && lba ≤ b.lba && b.lba < lba + n).map fun b => b.time).foldl min (now s)

/-- Function and generation of a job: those of the write that brought its oldest cached block, so that a kept write keeps its own
(R23, R122); the owner's present ones where the cache holds none. -/
def idxGen (s : State) (ns lba n : Nat) : Nat × BitVec 16 :=
  let t := idxAge s ns lba n
  ((s.cache.find? fun b => b.ns = ns && lba ≤ b.lba && b.lba < lba + n && b.time = t).map fun b => (b.func, b.gen)).getD
    (nsFn s ns, genOf s (nsFn s ns))

/-- Queue an operation of a job, with the job's function and generation (R23). -/
def queueJob (w : Work) (q : OpQueue) (j : Job) (s : State) : State :=
  queueOp (newOp w q .writeBack j.time j.func j.gen s) s

/-- Header of a job's frame (R233, R234). -/
def jobHdr (s : State) (j : Job) (wseq : Nat) : List Byte :=
  let p := profOf s j.prof
  let z := j.idx * frameBytes p
  hdrBytes { raw := j.raw, short := j.short, resealed := j.reseal, enc := j.slot.isSome, zone := true,
             fsize := if j.conv then 3 else leAt p.desc 2 1, prof := j.prof, origLen := j.orig.length,
             stored16 := (64 + j.payload.length) / 16, geom := geomOf p.desc z j.orig.length,
             crc := crc32c j.orig, wseq := wseq, counter := 0, epoch := 0 }

/-! ### The frame length table (R196, R197) -/

/-- Entry of a frame index: DEAD, EPOCH, RAW and LEN. -/
def fltEntry (fr : Fr) : Nat :=
  match fr.live with
  | none => 0
  | some x => (if fr.dead16 = 0 then 0 else 32768) + 16384 * (x.epoch % 2) + (if x.raw then 8192 else 0) + x.len16

/-- 16-byte units that an index takes in the data space, dead space included. -/
def fltSpan (zn : Zone) (f : Nat) : Nat := let fr := frOf zn f; fr.dead16 + (fr.live.map SFr.len16).getD 0

/-- Where the space of index f begins: what every lower index takes. -/
def fltBelow (zn : Zone) (f : Nat) : Nat := ((zn.frames.filter fun e => e.1 < f).map fun e => fltSpan zn e.1).foldl (· + ·) 0

/-- Anchor of a group of 64 indexes: where its first stored byte stands. -/
def fltAnchor (zn : Zone) (g : Nat) : Nat := fltBelow zn (64 * g)

/-- The live frame of index f, located by its anchor, the entries of its group and the dead list (R197). -/
def fltLocate (zn : Zone) (f : Nat) : Nat :=
  let g := f / 64
  fltAnchor zn g + ((List.range (f - 64 * g)).map fun j => fltSpan zn (64 * g + j)).foldl (· + ·) 0 + (frOf zn f).dead16

/-! ### Step 9 (R188 to R193) -/

/-- Stored length known at step 9 of the write path: R188 for a full frame, R191 for a short one, R193 for the final one. -/
def accountJob (j : Job) (z : Zone) : Zone :=
  let a := 64 + j.payload.length
  let fr := frOf z j.idx
  let dead := (fr.live.map SFr.len16).getD 0
  let first := j.short && !j.final && !fr.shorts
  let z := { z with
    stored := z.stored + a + (if first then 8 else 0),
    reserved := if (j.short && !j.final) || j.redo then z.reserved else z.reserved - (fr.admitted + 64),
    seals := if j.short then satInc 0xFFFFFFFF z.seals else z.seals,
    dead := z.dead + 16 * dead + (if dead ≠ 0 ∧ fr.dead16 = 0 ∧ fr.shorts then 8 else 0) }
  modFr j.idx (fun fr => { fr with
    dead16 := max (fr.dead16 + dead) (j.off16 - fltBelow z j.idx), shorts := fr.shorts || first,
    old := (fr.live.bind fun l => if l.confirmed then some l else none).or fr.old,
    live := some { off16 := j.off16, len16 := a / 16, raw := j.raw, short := j.short, epoch := j.epoch, n := j.orig.length, wseq := j.wseq } }) z

/-- Whether an earlier job of the same index is not stored yet (R192). -/
def behind (s : State) (n : Nat) (j : Job) : Bool :=
  (zoneJobs s j.ns j.zone).any fun e => e.1 < n && e.2.idx = j.idx && !j.conv && e.2.stage ≠ .program

/-- Bytes enter the data space at a 16-byte unit: the staging image of their pages and the parity accumulators. -/
def stageBytes (off16 : Nat) (bs : List Byte) (b : Band) : Band :=
  let b := bandPages (b.fill16 / page16 b + 2) b
  spacePut (bs.length / max 1 b.pageBytes + 2) (16 * off16) bs b

/-- Store an assembled frame: its bytes enter the staging image and the parity accumulators, its length the accounting and the
frame length table (steps 8 to 10 of the write path). -/
def storeFrame (n : Nat) (j : Job) (s : State) : State :=
  modZone j.ns j.zone (fun z =>
    let z := { z with band := z.band.map (stageBytes j.off16 j.frame) }
    if j.conv then z else accountJob j z)
    (modJob n (fun j => { j with stage := .program }) s)

/-- Store every assembled frame of a zone that no earlier frame of its index precedes, then issue the programs. -/
def storeReady : List (Nat × Job) → State → State
  | [], s => s
  | (n, j) :: t, s => storeReady t (if j.stage = .ready ∧ ¬ behind s n j then storeFrame n j s else s)

/-- A job's bytes are assembled: its frame is stored in its turn, and the programs it allows are issued. -/
def placeFrame (n : Nat) (frame : List Byte) (s : State) : State :=
  match tget none s.jobs n with
  | none => s
  | some j =>
    let s := modJob n (fun j => { j with stage := .ready, frame := frame, key := [] }) s
    issueZone j.ns j.zone (storeReady (zoneJobs s j.ns j.zone) s)

/-- Give a job whose length is known its place, WSEQ and header; then its encryption waits, or its frame is complete. A frame that
reclaim copies is complete as it was read (R251). -/
def orderJob (n : Nat) (j : Job) (s : State) : State :=
  let zn := zoneOf s j.ns j.zone
  let off := (zn.band.map Band.fill16).getD 0
  let wseq := if j.conv then 0 else zn.wseq
  let hdr := jobHdr s j wseq
  let s := modZone j.ns j.zone (fun z =>
    { z with wseq := if j.conv then z.wseq else z.wseq + 1, band := z.band.map fun b => { b with fill16 := b.fill16 + jobLen16 j } }) s
  let s := modJob n (fun j => { j with off16 := off, header := hdr, wseq := wseq, stage := .cipher }) s
  if j.move then placeFrame n j.frame s
  else if j.slot.isSome then queueJob (.encrypt n) (.cipher j.sec) j s
  else placeFrame n (hdr ++ j.payload ++ checkTrailer hdr j.payload) s

/-- Whether index f of a zone has its final place in the data space: a full frame stored or on its way, or nothing to store. -/
def idxPlaced (s : State) (ns z f : Nat) : Bool :=
  let fr := frOf (zoneOf s ns z) f
  fr.live.any (!·.short) || fr.lost || fr.arrived = 0 && fr.admitted = 0 ||
    (zoneJobs s ns z).any fun e => e.2.idx = f && !e.2.short && e.2.stage ≠ .encode && e.2.stage ≠ .order

/-- Whether the data space may take a frame of index f: every lower index has its place, so that the table's lengths add up to
each frame's offset (R196, R197). -/
def mayOrder (s : State) (ns z f : Nat) : Bool :=
  (zoneOf s ns z).frames.all fun e => f ≤ e.1 || idxPlaced s ns z e.1

/-- Place the jobs of a zone in frame order, as far as every earlier one's length is known. -/
def orderJobs : List (Nat × Job) → State → State
  | [], s => s
  | (n, j) :: t, s =>
    if j.stage = .order ∧ mayOrder s j.ns j.zone j.idx ∧ ¬ (zoneJobs s j.ns j.zone).any (fun e => e.1 < n && e.2.idx = j.idx && e.2.stage = .encode)
    then orderJobs t (orderJob n j s) else orderJobs t s

/-- Jobs of a zone by frame index, then by age: the order of the data space. -/
def byIdx (js : List (Nat × Job)) : List (Nat × Job) :=
  ((js.map fun e => e.2.idx).foldl (fun l i => insNat i l) []).flatMap fun i => js.filter fun e => e.2.idx = i

/-- Place what may be placed. -/
def orderZone (ns z : Nat) (s : State) : State := orderJobs (byIdx (zoneJobs s ns z)) s

/-! ### Finishing (R193, R194) -/

/-- Whether a write or append to the zone is admitted without a decided status; `before` limits it to those admitted
before an order number. -/
def zoneWriting (s : State) (ns z before : Nat) : Bool :=
  s.cmds.any fun c => c.id.sq ≠ 0 && isWrite c.e && c.e.nsid = ns && c.phase ≠ .decided && c.ord < before &&
    (nsOf s ns).any fun n => n.zoned && lbaZone n (if c.phase = .admitted then cmdSlba c.e else c.lba) = z

/-! ### Index pages (R198) -/

/-- The dead list: (frame index, dead length), rising. -/
def fltDead (zn : Zone) : List (Nat × Nat) := (zn.frames.filter fun e => e.2.dead16 ≠ 0).map fun e => (e.1, e.2.dead16)

/-- An index page: its body, then the trailer with the zone start LBA, the page number and the CRC-32C of what precedes it. -/
def indexPage (start i : Nat) (body : List Byte) : List Byte :=
  let b := bytesAt body 0 4080 ++ leBytes 8 start ++ leBytes 4 i
  b ++ leBytes 4 (crc32c b).toNat

/-- One group of an index page: the anchor, then 64 entries. -/
def fltGroup (zn : Zone) (g : Nat) : List Byte :=
  leBytes 8 (fltAnchor zn g) ++ ((List.range 64).map fun j => leBytes 2 (fltEntry (frOf zn (64 * g + j)))).flatten

/-- Every index page of a zone of `frames` indexes: 30 groups a page, then the dead list, 510 entries a page (R198). -/
def indexPages (zn : Zone) (start frames : Nat) : List (List Byte) :=
  let ents := (List.range (ceilDiv frames 1920)).map fun i => ((List.range 30).map fun g => fltGroup zn (30 * i + g)).flatten
  let dead := fltDead zn
  let dpages := (List.range (ceilDiv dead.length 510)).map fun i =>
    (((dead.drop (510 * i)).take 510).map fun e => leBytes 4 e.1 ++ leBytes 4 e.2).flatten
  (ents ++ dpages).zipIdx.map fun e => indexPage start e.2 e.1

/-- The parameter unit that takes the copy of a zone's index pages: an erased one of the last serving LUN of its lane set that has one
(log 49). -/
def indexHome (s : State) (ns z : Nat) : Option (Nat × Nat) :=
  ((zoneLanes s ns z).filter (lunOk s)).reverse.findSome? fun l =>
    ((lunOf s l).par.find? fun b => (blkOf (lunOf s l) b).st = .erased).map fun b => (l, b)

/-- The copy of a zone's index pages is to be programmed in a parameter unit (R198). -/
def copyIndex (ns z : Nat) (s : State) : State :=
  match indexHome s ns z with
  | none => s
  | some (l, b) =>
    let f := nsFn s ns
    let s := modBlk l b (fun k => { k with st := .used }) s
    queueOp (newOp (.indexCopy ns z l b) (.lun l) .writeBack (now s) f (genOf s f) s) s

/-- Data pages that a band may still allocate, in its current row and the rows after it. -/
def pagesLeft (b : Band) : Nat :=
  let row (r from' : Nat) : Nat := ((List.range b.pos.length).filter fun p => from' ≤ p && dataPos b r p).length
  row b.curRow b.curIdx + ((List.range (b.ppb - b.curRow - 1)).map fun i => row (b.curRow + 1 + i) 0).foldl (· + ·) 0

/-- Where `n` index pages stand: at the end of the band's data space, after the last stored frame (R198). -/
def indexPlace (b : Band) (n : Nat) : Nat := max b.fill16 ((b.pages.length + pagesLeft b) * page16 b - 256 * n)

/-- The index pages in the staging image of a band, the space before them empty. -/
def stageIndex (ps : List (List Byte)) (b : Band) : Band :=
  let at' := indexPlace b ps.length
  stageBytes at' ps.flatten { b with gap := (b.fill16, at'), fill16 := at' + 256 * ps.length }

/-- Finish writes the index pages at the end of the data space, with their copy in a parameter unit; the journal records both
(R198). -/
def writeIndex (ns z : Nat) (s : State) : State :=
  match nsOf s ns with
  | none => s
  | some n =>
    if (zoneOf s ns z).band.isNone then s else
    copyIndex ns z (modZone ns z (fun zn =>
      let ps := indexPages zn (zoneStart n z) (zszeBytes n / zoneFb s zn)
      { zn with index := ps, indexAt := (zn.band.map fun b => indexPlace b ps.length).getD 0, indexed := true,
                band := zn.band.map (stageIndex ps) }) s)
/-- The frame of index f enters the write path: `n` blocks of it (R191, R192, R210). A frame of CODEC 0 takes no coder
(R208). LBAs whose only stored copy cannot be read back keep saying so (R262, R304). -/
def cutFrame (ns z f n : Nat) (final redo : Bool) (s : State) : State :=
  let zn := zoneOf s ns z
  match zn.prof with
  | none => s
  | some pno =>
    let p := profOf s pno
    let fr := frOf zn f
    let (_, lba) := framePlace s ns z f false
    let orig := idxOrig s ns z f n
    let gone := idxGone s ns z f n
    let fg := idxGen s ns lba n
    let j : Job := {
      ns := ns, zone := z, idx := f, orig := orig, short := 4096 * n < frameBytes p,
      reseal := fr.live.isSome || (zoneJobs s ns z).any fun e => e.2.idx = f,
      final := final, redo := redo, sec := encSec s p, prof := pno, slot := profSlot p, time := idxAge s ns lba n,
      func := fg.1, gen := fg.2, payload := rawPayload orig, takes := cachedIn s ns lba n }
    let k := s.nextJob
    let s := modZone ns z (fun zn =>
      let zn := modFr f (fun fr => { fr with sealed := fr.arrived, lost := false }) zn
      if fr.lost then { zn with lostLbas := zn.lostLbas ++ gone } else { zn with keyLost := zn.keyLost ++ gone })
      { s with nextJob := k + 1, jobs := tset none s.jobs k (some j) }
    if leAt p.desc 1 1 ≠ 0 then queueJob (.encode k) (.codec j.sec) j s
    else orderZone ns z (modJob k (fun j => { j with stage := .order }) s)

/-- Whether index f of a zone has a full frame, stored or on its way. -/
def idxFull (s : State) (ns z f : Nat) : Bool :=
  (frOf (zoneOf s ns z) f).live.any (!·.short) || (zoneJobs s ns z).any fun e => e.2.idx = f && !e.2.short

/-- Frame indexes of a zone whose data is complete, and of which no full frame is stored or on its way; a zeroized zone cuts nothing
(R268). -/
def fullUncut (s : State) (ns z : Nat) : List Nat :=
  let zn := zoneOf s ns z
  let fb := zoneFb s zn
  if zn.zeroized then [] else
    (zn.frames.filter fun e => fb ≤ e.2.arrived + e.2.hole && e.2.arrived ≠ 0 && !e.2.lost && !idxFull s ns z e.1).map Prod.fst

/-- Cut every complete frame (R210). -/
def cutFull (ns z : Nat) (s : State) : State :=
  let per := zoneFb s (zoneOf s ns z) / 4096
  (fullUncut s ns z).foldl (fun s f => cutFrame ns z f per false false s) s

/-- Partial indexes with data that no seal has taken: an index that admitted writes fill is not partial (R191). -/
def partialUnsealed (s : State) (ns z : Nat) : List Nat :=
  let zn := zoneOf s ns z
  let fb := zoneFb s zn
  (zn.frames.filter fun e => e.2.admitted + e.2.hole < fb && e.2.sealed < e.2.arrived).map Prod.fst

/-- Seal the partial frame of a zone as a short frame (R191, R193). A zeroized zone seals nothing (R268). -/
def sealZone (ns z : Nat) (final : Bool) (s : State) : State :=
  if (zoneOf s ns z).zeroized then s
  else (partialUnsealed s ns z).foldl (fun s f => cutFrame ns z f (idxSpan s ns z f) final false s) s

/-- The finishing accounting, once no write is undecided: what data arrived since is sealed as the final frame, and when every frame is
stored reserved is 0 and the dead-list entry that is not needed is returned (R193); the tables go to the index pages (R198). -/
def finishAcct (ns z : Nat) (s : State) : State :=
  if ¬ (zoneOf s ns z).finishing ∨ zoneWriting s ns z s.nextOrd then s
  else
    let s := sealZone ns z true s
    let zn := zoneOf s ns z
    if (zoneJobs s ns z).any (fun e => e.2.stage ≠ .program) ∨ fullUncut s ns z ≠ [] then s
    else
      let ret := (zn.frames.filter fun e => e.2.shorts && e.2.dead16 = 0 && e.2.live.any (·.short)).length
      writeIndex ns z (modZone ns z (fun zn => { zn with stored := zn.stored - 8 * ret, reserved := 0, finishing := false }) s)

/-- Finish a zone's storage: the last frame and the accounting (R193). -/
def finishData (ns z : Nat) (s : State) : State :=
  let s := sealZone ns z true s
  issueZone ns z (finishAcct ns z (modZone ns z (fun zn => { zn with finishing := true }) s))
/-- Auto-finish (R194). -/
def autoFinish (ns z : Nat) (s : State) : State :=
  let zn := zoneOf s ns z
  if ¬ activeSt zn.st ∨ zn.band.isNone ∨ ((zoneFb s zn + 64 : Nat) : Int) ≤ headroom s zn ∨ zoneWriting s ns z s.nextOrd ∨
     (zoneJobs s ns z).any (fun e => e.2.stage ≠ .program && !e.2.short) ∨ fullUncut s ns z ≠ [] then s
  else match nsOf s ns with
    | none => s
    | some n =>
      let s := modZone ns z (fun zn => { zn with st := .full, autofin := true, wp := zszeBlocks n }) s
      zoneChanged ns z (finishData ns z s)

/-- What follows any change of a zone's data or accounting: complete frames are cut, the zone may finish, programs that
became possible are issued, and the headroom warning is checked. -/
def zoneSettle (ns z : Nat) (s : State) : State :=
  let s := autoFinish ns z (cutFull ns z s)
  warnCheck ns z (issueZone ns z (finishAcct ns z s))

/-- A coder's result is decided: coded with its payload, or raw (R217). Its stored length becomes known. -/
def encoded (n : Nat) (coded : Option (List Byte)) (s : State) : State :=
  match tget none s.jobs n with
  | none => s
  | some j =>
    let j' := match coded with
      | some p => { j with raw := false, payload := p, stage := .order }
      | none => { j with raw := true, payload := rawPayload j.orig, stage := .order }
    let s := modJob n (fun _ => j') s
    zoneSettle j.ns j.zone (orderZone j.ns j.zone s)

/-! ### Durability (R169, R170, R364) -/

/-- Whether a covered block is programmed and confirmed: neither the cache nor the write path holds it as that write brought it. -/
def blkProgrammed (s : State) (b : Cov) : Bool :=
  !(s.cache.any (fun x => x.ns = b.ns && x.lba = b.lba && x.ver = b.ver) ||
    s.jobs.any fun e => e.2.any fun j => j.ns = b.ns && (b.lba, b.ver) ∈ j.takes)

/-- Whether a covered block is durable: programmed and confirmed, or held in a power-safe cache (R169). -/
def blkDurable (s : State) (b : Cov) : Bool := powerSafe s || blkProgrammed s b

/-- Mark cached blocks that a completed Flush or FUA covers (R373). -/
def markCovered (bs : List Cov) (s : State) : State :=
  { s with cache := s.cache.map fun b => if ⟨b.ns, b.lba, b.ver⟩ ∈ bs then { b with covered := true } else b }

/-- Zones that blocks of a cover list lie in. -/
def coverZones (s : State) (bs : List Cov) : List (Nat × Nat) :=
  (bs.filterMap fun b => (nsOf s b.ns).bind fun n => if n.zoned then some (b.ns, lbaZone n b.lba) else none).eraseDups

/-- FUA writes whose data has become durable are decided (R170); with its last undecided write a zone may finish (R194). -/
def fuaCheck (s : State) : State :=
  let done := s.cmds.filter fun c => c.phase = .durable && c.id.sq ≠ 0 && isWrite c.e && c.cover.all (blkDurable s)
  let s := done.foldl (fun s c => finish c.id okSt c.dw0 c.dw1 (markCovered c.cover s)) s
  (coverZones s ((done.map Cmd.cover).flatten)).foldl (fun s z => zoneSettle z.1 z.2 s) s

/-! ### Confirmation (R20, R287) -/

/-- Of the vent records that hold these blocks, those none of whose blocks the cache still holds vented are released (R374); in
START the pool stands until stage 7 ends (R375). -/
def poolRelease (ns : Nat) (lbas : List Nat) (s : State) : State :=
  let has (r : VentRec) (l : Nat) : Bool := r.lba ≤ l && l < r.lba + r.n
  let held (r : VentRec) : Bool :=
    r.ns ≠ ns || !lbas.any (has r) || s.cache.any fun b => b.vented && b.ns = ns && has r b.lba
  if s.md.cur = .start then s else { s with hold := { s.hold with pool := s.hold.pool.filter held } }

/-- Blocks in the poisoned-block list. -/
def poisonListed (s : State) : Nat :=
  (s.zones.map fun e => e.2.poisoned.length).foldl (· + ·) 0 + (s.conv.filter fun e => e.2.poisoned).length

/-- A block enters the poisoned-block list, which holds 16,777,216 entries (R328); a full list takes no more (DESIGN CHOICE, log 101). -/
def poisonList (ns : Nat) (s : State) (lba : Nat) : State :=
  if 16777216 ≤ poisonListed s then s else
  match nsOf s ns with
  | some m =>
    if m.zoned then modZone ns (lbaZone m lba) (fun z => { z with poisoned := z.poisoned ++ [lba] }) s
    else modConv ns lba (fun c => { c with poisoned := true }) s
  | none => s

/-- Release cached blocks of a namespace that a confirmed frame holds, each as (LBA, write); poisoned ones enter the
poisoned-block list (R328). Data that came later stays (R20). -/
def releaseBlks (ns : Nat) (takes : List (Nat × Nat)) (s : State) : State :=
  let hit (b : CBlk) : Bool := b.ns = ns && (b.lba, b.ver) ∈ takes
  let bad := (s.cache.filter fun b => hit b && b.poisoned).map CBlk.lba
  let s := poolRelease ns (takes.map Prod.fst) { s with cache := s.cache.filter fun b => !hit b }
  wbUpdate (bad.foldl (poisonList ns) s)

/-- Media bytes of an owner (R55). -/
def countMedia (ns bytes : Nat) (s : State) : State :=
  match (nsOf s ns).bind (·.owner) with
  | some o => modCtr (contNo (ownerFn o)) (fun k => { k with media := k.media + bytes }) s
  | none => s

/-- A zone frame whose programs are all confirmed: the cache releases the data it holds, and its vent records with it (R374). -/
def confirmJob (n : Nat) (j : Job) (s : State) : State :=
  let len := jobLen16 j
  let s := modZone j.ns j.zone (modFr j.idx fun fr =>
    if fr.live.any (·.off16 = j.off16) then { fr with live := fr.live.map fun l => { l with confirmed := true }, old := none }
    else if fr.live.any (·.confirmed) then fr
    else { fr with old := some { off16 := j.off16, len16 := len, raw := j.raw, short := j.short, epoch := j.epoch,
                                 n := j.orig.length, wseq := j.wseq, confirmed := true } }) s
  countMedia j.ns (16 * len) (releaseBlks j.ns j.takes { s with jobs := tset none s.jobs n none })

/-! ### Conventional blocks (R202, R203, R251) -/

/-- Stored bytes of one conventional block, in 16-byte units. -/
def conv16 : Nat := 260

/-- Data capacity of a pool band, in 16-byte units. -/
def poolCap16 (s : State) (p : Profile) : Nat :=
  let l := laneSet p
  (l.length - if parityOn p then l.length / 32 else 0) * laneU s l / 16

/-- Bands that the pool of a conventional namespace may hold: 1.28 times its capacity, and one that reclaim writes into (R203,
log 29). -/
def poolLimit (s : State) (n : Ns) (p : Profile) : Nat :=
  ceilDiv (128 * nsBlocks n * conv16) (100 * max 1 (poolCap16 s p)) + 1

/-- Bands of a namespace's pool, by number. -/
def poolBands (s : State) (ns : Nat) : List Nat := (s.zones.filter fun e => zkeyNs e.1 = ns && e.2.band.isSome).map fun e => e.1 % 2 ^ 24

/-- Closed bands program their partly filled pages. -/
def issueBands (ns : Nat) (bs : List Nat) (s : State) : State := bs.foldl (fun s i => issueZone ns i s) s

/-- The pool band that takes the next conventional frame: the open one, or a new one within the limit while every LUN of the lane
set has an erased block. -/
def poolBand (ns : Nat) (n : Ns) (pno : Nat) (s : State) : Option (Nat × State) :=
  let p := profOf s pno
  let bs := poolBands s ns
  let fits (i : Nat) : Bool := let z := zoneOf s ns i; z.st = .empty && z.prof = some pno && z.band.any fun b => b.fill16 + conv16 ≤ poolCap16 s p
  match bs.find? fits with
  | some i => some (i, s)
  | none =>
    if poolLimit s n p ≤ bs.length then none else
    let s := bs.foldl (fun s i => modZone ns i (fun z => { z with st := .full }) s) s
    let i := ((List.range (bs.length + 1)).find? (· ∉ bs)).getD bs.length
    (takeBand false (laneSet p) s).map fun e =>
      (i, issueBands ns bs (modZone ns i (fun _ => { prof := some pno, band := some (newBand s p e.1) }) e.2))

/-- Conventional jobs that wait for a place in the pool get one, in their order. -/
def orderConv (ns : Nat) (s : State) : State :=
  match nsOf s ns with
  | none => s
  | some n =>
    (s.jobs.filter fun e => e.2.any fun j => j.conv && j.ns = ns && j.stage = .order).foldl (fun s e =>
      match e.2 with
      | none => s
      | some j => match poolBand ns n j.prof s with
        | none => s
        | some (i, s) =>
          let s := modJob e.1 (fun j => { j with zone := i }) s
          orderJob e.1 { j with zone := i } s) s

/-- A conventional block's frame enters the write path: a raw frame (R202, R210). -/
def convCut (j : Job) (s : State) : State :=
  let k := s.nextJob
  orderConv j.ns { s with nextJob := k + 1, jobs := tset none s.jobs k (some { j with stage := .order }) }

/-- A cached conventional block enters the write path. -/
def convJob (ns lba ver : Nat) (s : State) : State :=
  match nsOf s ns, cachedBlk s ns lba with
  | some n, some b =>
    match hintProf n 0 with
    | none => s
    | some pno =>
      let p := profOf s pno
      let orig := if b.poisoned then zeros 4096 else b.data
      convCut { ns := ns, zone := 0, idx := lba, conv := true, orig := orig, sec := encSec s p, prof := pno, slot := profSlot p,
                payload := orig, func := b.func, gen := b.gen, time := b.time, ver := ver, takes := [(lba, b.ver)], kept := b.kept } s
  | _, _ => s

/-- Live blocks of a pool band: those that the page map places in it. -/
def poolLive (s : State) (ns i : Nat) : List Nat :=
  (s.conv.filter fun e => e.1 / 2 ^ 32 = ns && e.2.written && e.2.band = i).map fun e => e.1 % 2 ^ 32

/-- Whether a band of a pool is being written by jobs. -/
def poolBusy (s : State) (ns i : Nat) : Bool := zoneJobs s ns i ≠ []

/-- Free space of the conventional pool and its size, in 16-byte units, over the whole device (R203). -/
def poolSpace (s : State) : Nat × Nat :=
  (s.nss.map fun e => match e.2 with
    | some n => if n.zoned then (0, 0) else
        let size := 128 * nsBlocks n * conv16 / 100
        let used := ((poolBands s e.1).map fun i => ((zoneOf s e.1 i).band.map Band.fill16).getD 0).foldl (· + ·) 0
        (size - used, size)
    | none => (0, 0)).foldl (fun a b => (a.1 + b.1, a.2 + b.2)) (0, 0)

/-- Whether the pool is short of space: below 2 % free (R203). -/
def poolShort (s : State) : Bool := let (f, n) := poolSpace s; 50 * f < n

/-- Codewords of page k that [off, off + len) of the data space lies in, in 16-byte units (R300): over its pages they are
floor((o + a − 1) / 4096) − floor(o / 4096) + 1 of a frame at byte offset o with stored length a. -/
def spanCws (b : Band) (k off16 len16 : Nat) : List Nat :=
  let lo := max (16 * off16) (k * b.pageBytes) - k * b.pageBytes
  let hi := min (16 * (off16 + len16)) ((k + 1) * b.pageBytes) - k * b.pageBytes
  (allCws b.pageBytes).filter fun c => lo < 4096 * (c + 1) && 4096 * c < hi

/-- Pages that [off, off + len) of the data space covers, in 16-byte units. -/
def framePages (b : Band) (off16 len16 : Nat) : List Nat :=
  (List.range ((off16 + len16 - 1) / page16 b - off16 / page16 b + 1)).map (· + off16 / page16 b)

/-- A zone enters Offline (R175). -/
def zoneOffline (ns z : Nat) (s : State) : State :=
  zoneChanged ns z (modZone ns z (fun zn => { zn with st := .offline, reserved := 0, finishing := false }) s)

/-- A Full or Read Only zone that has lost data beyond rebuild is Offline (R175). -/
def offlineCheck (ns z : Nat) (s : State) : State :=
  let zn := zoneOf s ns z
  if (zn.st = .full ∨ zn.st = .readOnly) ∧ (nsOf s ns).any (·.zoned) ∧ zn.frames.any (fun e => e.2.lost) then zoneOffline ns z s else s

/-- Frames with confirmed bytes in data pages that `gone` names are lost; so are blocks of a conventional pool. -/
def losePages (ns z : Nat) (gone : Nat → Bool) (s : State) : State :=
  let zn := zoneOf s ns z
  match zn.band with
  | none => s
  | some b =>
    let on (off len : Nat) : Bool := (List.range b.pages.length).any fun k =>
      gone k && k * page16 b < off + len && off < (k + 1) * page16 b
    let bad := (zn.frames.filter fun e => (storedOf e.2).any fun x => x.confirmed && on x.off16 x.len16).map Prod.fst
    let s := { s with conv := tmap {} (fun k c =>
      if k / 2 ^ 32 = ns && c.written && c.band = z && (nsOf s ns).any (fun n => !n.zoned) && on c.off16 conv16
      then { c with lost := true } else c) s.conv }
    modZone ns z (fun zn => bad.foldl (fun zn f => modFr f (fun fr => { fr with lost := true }) zn) zn) s

/-- A row of a position that nothing gives back is lost, and what follows for its zone (R304, R175). -/
def rowLost (ns z row p : Nat) (s : State) : State :=
  match (zoneOf s ns z).band.bind fun b => rowPage b row p with
  | some k => offlineCheck ns z (losePages ns z (· = k) s)
  | none => s

/-- Every page of a block that reclaim copies is read: the stored frame takes a place in the pool, unless the block has moved on. -/
def movedIn (n : Nat) (s : State) : State :=
  match tget none s.jobs n with
  | none => s
  | some j =>
    let c := convOf s j.ns j.idx
    if ¬ c.written ∨ (c.band, c.off16) ≠ j.src ∨ c.ver ≠ j.ver then { s with jobs := tset none s.jobs n none }
    else
      let bytes := ((zoneOf s j.ns j.src.1).band.map fun b => spaceGet b (16 * j.src.2) (16 * conv16)).getD []
      orderConv j.ns (modJob n (fun j => { j with stage := .order, frame := bytes, payload := (bytes.drop 48).take 4096 }) s)

/-- Page k of a block that reclaim copies is at hand. -/
def moveGot (n k : Nat) (s : State) : State :=
  let s := modJob n (fun j => { j with pages := j.pages.filter (· ≠ k) }) s
  if (tget none s.jobs n).any fun j => j.stage = .read && j.pages = [] then movedIn n s else s

/-- A block that reclaim copies cannot be read: it is lost, and stays where it is (R303). -/
def moveLost (n : Nat) (s : State) : State :=
  match tget none s.jobs n with
  | none => s
  | some j =>
    let s := modConv j.ns j.idx (fun c => if (c.band, c.off16) = j.src ∧ c.ver = j.ver then { c with lost := true } else c) s
    { s with jobs := tset none s.jobs n none, ops := s.ops.filter fun o => match o.work with | .moveRead m _ _ => m ≠ n | _ => true }

/-- Queue the read of page k of a block that reclaim copies, or its rebuild (R301, R304). -/
def moveIssue (n k : Nat) (s : State) : State :=
  match tget none s.jobs n with
  | none => s
  | some j => match (zoneOf s j.ns j.src.1).band with
    | none => moveLost n s
    | some b =>
      let (row, p) := b.pages.getD k (0, 0)
      let (l, blk) := pageLoc s j.ns j.src.1 b k
      let o := { newOp (.moveRead n k blk) (.lun l) .maintenance (now s) j.func j.gen s with cws := spanCws b k j.src.2 conv16 }
      if ¬ rowGone s j.ns j.src.1 b row p then queueOp o s
      else if ¬ rebMay s j.ns j.src.1 b row p then moveLost n (rowLost j.ns j.src.1 row p s)
      else if rebReads b row p = [] then moveGot n k s
      else rebStart j.ns j.src.1 row p (.move n k) o s

/-- Copy one live block's stored frame bit for bit to the band that takes new frames (R203, R251): its pages are read first. A block with
a frame on its way, and one that is lost, stays. -/
def moveConv (ns lba : Nat) (s : State) : State :=
  let c := convOf s ns lba
  match (nsOf s ns).bind fun n => hintProf n 0, (zoneOf s ns c.band).band with
  | some pno, some b =>
    if c.lost ∨ s.jobs.any fun e => e.2.any fun j => j.conv && j.ns = ns && j.idx = lba then s else
    let k := s.nextJob
    let f := nsFn s ns
    let ps := framePages b c.off16 conv16
    let j : Job := { ns := ns, zone := c.band, idx := lba, conv := true, prof := pno, stage := .read, payload := zeros 4096, epoch := c.epoch,
                     func := f, gen := genOf s f, time := now s, ver := c.ver, move := true, src := (c.band, c.off16), pages := ps }
    ps.foldl (fun s p => moveIssue k p s) { s with nextJob := k + 1, jobs := tset none s.jobs k (some j) }
  | _, _ => s

/-- Reclaim in a namespace's pool (R203): closed bands without a live block go back for erase, unless a page of them is being read; when
the pool has no room for another band, the closed band with the fewest live blocks, some of its space dead, is copied block by block. -/
def reclaim (ns : Nat) (s : State) : State :=
  match nsOf s ns with
  | none => s
  | some n =>
    if n.zoned then s else
    let closed := (poolBands s ns).filter fun i => (zoneOf s ns i).st = .full && !poolBusy s ns i
    let reads (i : Nat) : Bool := s.jobs.any fun e => e.2.any fun j => j.move && j.ns = ns && j.src.1 = i && j.stage = .read
    let s := (closed.filter fun i => poolLive s ns i = [] && !reads i).foldl (fun s i =>
      match (zoneOf s ns i).band with | some b => modZone ns i (fun _ => {}) (dropBand b s) | none => s) s
    match hintProf n 0 with
    | none => s
    | some pno =>
      if (poolBands s ns).length < poolLimit s n (profOf s pno) - 1 ∧ ¬ poolShort s then s
      else
        let live := closed.filter fun i => poolLive s ns i ≠ []
        match leastBy (fun i => (poolLive s ns i).length) live with
        | none => s
        | some i =>
          let l := poolLive s ns i
          if l.length * conv16 < ((zoneOf s ns i).band.map Band.fill16).getD 0 then l.foldl (fun s lba => moveConv ns lba s) s else s

/-- A conventional block's program is confirmed: its new frame replaces the older one in the page map. -/
def confirmConv (n : Nat) (j : Job) (s : State) : State :=
  let s := modConv j.ns j.idx (fun c => if j.ver < c.ver ∨ j.move ∧ (¬ c.written ∨ (c.band, c.off16) ≠ j.src) then c else
    { c with written := true, epoch := j.epoch, band := j.zone, off16 := j.off16, lost := false,
             zeroized := j.move && c.zeroized, poisoned := j.move && c.poisoned, ver := j.ver }) s
  let s := countMedia j.ns 4160 (releaseBlks j.ns j.takes { s with jobs := tset none s.jobs n none })
  orderConv j.ns (reclaim j.ns s)

/-- Confirm every frame of a zone or pool band that its programs now cover. -/
def confirmZone (ns z : Nat) (s : State) : State :=
  match (zoneOf s ns z).band with
  | none => s
  | some b =>
    let done := (zoneJobs s ns z).filter fun e => e.2.stage = .program && spanConfirmed b e.2.off16 ((64 + e.2.payload.length) / 16)
    fuaCheck (done.foldl (fun s e => if e.2.conv then confirmConv e.1 e.2 s else confirmJob e.1 e.2 s) s)

/-! ### Read Only, replacement and lost LUNs (R175, R288, R289, R304) -/

/-- A zone enters Read Only (R175): finished first. -/
def zoneReadOnly (ns z : Nat) (s : State) : State :=
  if ¬ activeSt (zoneOf s ns z).st then s else
  zoneChanged ns z (finishData ns z (modZone ns z (fun zn => { zn with st := .readOnly }) s))

/-- No LUN can replace a position (R289): the position is skipped from now on, the zone enters Read Only, and the frames
with bytes in its unconfirmed pages are encoded and placed again after the last stored frame. -/
def posDead (ns z p : Nat) (s : State) : State :=
  let s := modZone ns z (fun zn => { zn with band := zn.band.map fun b => { b with dead := insNat p b.dead } }) s
  let s := match relAt s ns z p with | some (n, _) => relDrop n s | none => s
  let s := { s with ops := s.ops.filter fun o => match o.work with
    | .program n y k _ => !(n = ns && y = z && ((zoneOf s ns z).band.any fun b => (b.pages.getD k (0, 0)).2 = p))
    | .parity n y u _ => !(n = ns && y = z && parPos (u / 256) (u % 256) = p)
    | _ => true }
  let s := zoneReadOnly ns z s
  match (zoneOf s ns z).band with
  | none => s
  | some b =>
    let badPage (j : Job) : Bool :=
      let e := j.off16 + (64 + j.payload.length) / 16
      (List.range b.pages.length).any fun k =>
        (b.pages.getD k (0, 0)).2 = p && k * page16 b < e && j.off16 < (k + 1) * page16 b &&
        tget 0 b.conf k < min e ((k + 1) * page16 b)
    let redo := (zoneJobs s ns z).filter fun e => (e.2.stage = .program || e.2.stage = .ready || e.2.stage = .cipher) && badPage e.2
    redo.foldl (fun s e =>
      let j := e.2
      let s := { s with jobs := tset none s.jobs e.1 none,
                        ops := s.ops.filter fun o => match o.work with | .encrypt n => n ≠ e.1 | _ => true }
      if j.conv then convCut { j with off16 := 0, frame := if j.move then j.frame else [], key := [] } s
      else
        let s := if j.stage = .program then s else modZone ns z (accountJob j) s
        cutFrame ns z j.idx (j.orig.length / 4096) j.final true s) s

/-- Queue the program of a relocation's row on the new block. -/
def relRowProg (n row : Nat) (s : State) : State :=
  match tget none s.rels n with
  | none => s
  | some r => queueOp (newOp (.relProg n row) (.lun r.dst.1) (relCls r.kind) (now s) (nsFn s r.ns) (genOf s (nsFn s r.ns)) s) s

/-- What relocation n does next: the read of its next row, which waits for the end of an erase of its block (R297), or, where the old LUN is gone, its rebuild from the other positions of the group
(R302); a row that these cannot give is lost (R304). -/
def relNext (n : Nat) (s : State) : State :=
  match tget none s.rels n with
  | none => s
  | some r => match r.left, (zoneOf s r.ns r.zone).band with
    | row :: _, some b =>
      let f := nsFn s r.ns
      let o := { newOp (.relRead n row) (.lun r.src.1) (relCls r.kind) (now s) f (genOf s f) s with cws := allCws b.pageBytes }
      if r.kind ≠ .rebuild then if erasing s r.src.1 = some r.src.2 then s else queueOp o s
      else if ¬ rebMay s r.ns r.zone b row r.pos then relRowProg n row (rowLost r.ns r.zone row r.pos s)
      else if rebReads b row r.pos = [] then relRowProg n row s
      else rebStart r.ns r.zone row r.pos (.row n row) o s
    | _, _ => s

/-- Put a relocation at work. -/
def relStart (r : Rel) (s : State) : State :=
  let n := s.nextJob
  relNext n { s with nextJob := n + 1, rels := tset none s.rels n (some r) }

/-- Put block `nb` at a band position and copy the rows that the position holds from the block before it: the one that a copy
under way still reads, where its LUN serves. A block that only moves goes for erase once it is copied (R285, R290, R303). -/
def relocate (ns z p : Nat) (kind : RelKind) (nb : Nat × Nat) (s : State) : State :=
  match (zoneOf s ns z).band with
  | none => s
  | some b =>
    let old := relAt s ns z p
    let from' : (Nat × Nat) × RelKind := match old with
      | some e => if lunOk s e.2.src.1 ∧ e.2.kind ≠ .rebuild then (e.2.src, e.2.kind) else (b.pos.getD p (0, 0), kind)
      | none => (b.pos.getD p (0, 0), kind)
    let s := match old with | some (n, _) => relDrop n s | none => s
    let rows := confRows b p
    let s := setPos ns z p nb s
    if rows = [] then
      if from'.2 = .restart ∨ from'.2 = .wear ∨ from'.2 = .refresh then giveBlk from'.1.1 from'.1.2 s else s
    else relStart { ns := ns, zone := z, pos := p, kind := from'.2, src := from'.1, dst := nb, rows := rows, left := rows } s

/-- Replace the block at a band position after its block or LUN failed, or after an unsafe shutdown (R288 step 2, R290, R304): the
confirmed pages are copied from the old block, or rebuilt where its LUN is gone. -/
def replacePos (ns z p : Nat) (kind : RelKind) (s : State) : State :=
  match (zoneOf s ns z).band with
  | none => s
  | some b => match replacement s ns z b p with
    | none => posDead ns z p s
    | some nb => relocate ns z p kind nb s

/-- Band positions on a LUN: (namespace, zone, position). -/
def lunPositions (s : State) (l : Nat) : List (Nat × Nat × Nat) :=
  (s.zones.map fun e => match e.2.band with
    | some b => ((List.range b.pos.length).filter fun p => (b.pos.getD p (0, 0)).1 = l).map fun p => (zkeyNs e.1, e.1 % 2 ^ 24, p)
    | none => []).flatten

/-- Frames that lose bytes when the confirmed pages of position p cannot be rebuilt (R304): parity off, or another
position of the group on a failed LUN. -/
def loseFrames (ns z p : Nat) (s : State) : State :=
  let zn := zoneOf s ns z
  match zn.band with
  | none => s
  | some b =>
    let copying := (relAt s ns z p).any fun (e : Nat × Rel) => e.2.kind ≠ .rebuild && e.2.src.1 ≠ (b.pos.getD p (0, 0)).1 && lunOk s e.2.src.1
    let second := ((List.range 32).map (· + p / 32 * 32)).any fun q =>
      q ≠ p && q < b.pos.length && !lunOk s (b.pos.getD q (0, 0)).1
    if copying ∨ b.parity ∧ ¬ second then s else
    losePages ns z (fun k => (b.pages.getD k (0, 0)).2 = p) s

/-- The band positions of a LUN that is gone are replaced and rebuilt; what cannot be rebuilt is lost (R304, R175). -/
def lunGone (l : Nat) (s : State) : State :=
  let ps := lunPositions s l
  let s := ps.foldl (fun s e => loseFrames e.1 e.2.1 e.2.2 s) s
  let s := ps.foldl (fun s e => replacePos e.1 e.2.1 e.2.2 .rebuild s) s
  ps.foldl (fun s e => offlineCheck e.1 e.2.1 s) s

/-- A LUN fails in service (R304). -/
def lunFail (l : Nat) (s : State) : State :=
  lunCheck (lunGone l (healthLog { time := now s, typ := 8, obj := l } (modLun l (fun u => { u with reason := 12, timeouts := 0 }) s)))

end Sys2Proof.Machine
end

