-- ==== Sys2Proof/Machine/ReadPath.lean ====
section
/-!
DEFINITION. The read path (read path steps 2 to 10): what answers each LBA of a Read (R21, R177, R202, R268, R309,
R328), frame reads and the commands that join them (R223), the frame length table cache (R199), release of a frame's data after
its checks (R221, R254, R275) and the status of a command whose LBAs failed for different causes (R148).
-/
namespace Sys2Proof.Machine

open Sys2Proof

/-- Unrecovered Read Error (R303). -/
def ureSt : Status := ⟨2, 0x81, false⟩

/-- Rank of a failure status in the order of R148. -/
def failRank (st : Status) : Nat :=
  if st = vendorSt 8 then 0 else if st = vendorSt 4 then 1 else if st = vendorSt 0x0B then 2 else if st = vendorSt 3 then 3
  else if st = vendorSt 2 then 4 else if st = ureSt then 5 else 6

/-- The first status in R148's order. -/
def worstSt : List (Nat × Status) → Status
  | [] => okSt
  | [e] => e.2
  | e :: t => let r := worstSt t; if failRank e.2 ≤ failRank r then e.2 else r

/-! ### Lock ranges (R308, R309) -/

/-- Whether a locked range covers some block of [lba, lba + n) of a namespace for a command of admission number `ord`: one admitted
before the lock took its place proceeds (R308). -/
def rangeLocked (s : State) (ord ns lba n : Nat) : Bool :=
  s.locks.any fun e => e.2.defined && e.2.locked && decide (e.2.since ≤ ord) && e.2.ns = ns && lba < e.2.start + e.2.len && e.2.start < lba + n

/-! ### What answers an LBA -/

/-- Answer to one LBA of a Read: data at hand, a failure, or the stored frame that holds it. -/
inductive BlkAns where
  | data (bytes : List Byte)
  | fail (st : Status)
  | media (idx : Nat)
  deriving DecidableEq, Repr

/-- Answer to an LBA of a zoned namespace. -/
def zonedAns (s : State) (ns : Nat) (n : Ns) (lba : Nat) : BlkAns :=
  let z := lbaZone n lba
  let zn := zoneOf s ns z
  if zn.wp ≤ lba - zoneStart n z then .data (zeros 4096)
  else if zn.zeroized then .fail (vendorSt 4)
  else match cachedBlk s ns lba with
    | some b => if b.poisoned then .fail (vendorSt 0x0B) else .data b.data
    | none =>
      if lba ∈ zn.gone then .data (zeros 4096)
      else if lba ∈ zn.poisoned then .fail (vendorSt 0x0B)
      else if lba ∈ zn.keyLost then .fail (vendorSt 4)
      else
        let per := zoneFb s zn / 4096
        let f := (lba - zoneStart n z) / per
        let fr := frOf zn f
        if fr.lost ∨ lba ∈ zn.lostLbas then .fail ureSt
        else match storedOf fr with
          | some x => if (lba - zoneStart n z) % per < x.n / 4096 then .media f else .data (zeros 4096)
          | none => .data (zeros 4096)

/-- Answer to an LBA of a conventional namespace. -/
def convAns (s : State) (ns lba : Nat) : BlkAns :=
  match cachedBlk s ns lba with
  | some b => if b.poisoned then .fail (vendorSt 0x0B) else .data b.data
  | none =>
    let c := convOf s ns lba
    if c.zeroized then .fail (vendorSt 4) else if c.poisoned then .fail (vendorSt 0x0B) else if c.lost then .fail ureSt
    else if c.written then .media lba else .data (zeros 4096)

/-- Zone Is Offline. -/
def zoneOffSt : Status := ⟨1, 0xBB, true⟩

/-- Answer to an LBA for a command of admission number `ord`: a lock first (R309), then an Offline zone (R132). -/
def blkAns (s : State) (ord ns : Nat) (n : Ns) (lba : Nat) : BlkAns :=
  if rangeLocked s ord ns lba 1 then .fail (vendorSt 8)
  else if n.zoned then if (zoneOf s ns (lbaZone n lba)).st = .offline then .fail zoneOffSt else zonedAns s ns n lba
  else convAns s ns lba

/-! ### Frame reads -/

/-- Change a frame read. -/
def modR (n : Nat) (g : RJob → RJob) (s : State) : State := { s with rjobs := tset none s.rjobs n ((tget none s.rjobs n).map g) }

/-- Section that decodes a frame assembled in section `home` (R22); free lanes are taken as free coders of all 16 lanes (DESIGN CHOICE,
log 41). -/
def decSec (s : State) (home : Nat) : Nat :=
  if (cipOf s home).fenced ∨ freeCoders s home 0 = 0 then mostSec (fun k => freeCoders s k 0) (openSecs s) else home

/-- An operation of a frame read: class and age are its own (R159). -/
def rOp (w : Work) (q : OpQueue) (r : RJob) (s : State) : Op := newOp w q r.cls r.age r.func r.gen s

/-- Queue an operation of a frame read. -/
def queueR (w : Work) (q : OpQueue) (r : RJob) (s : State) : State := queueOp (rOp w q r s) s

/-- LBAs of a command that wait for frame `idx` of a frame read: (LBA, block within the frame). What the cache answered, or what
failed, waits no more (R148). -/
def cmdBlksIn (r : RJob) (c : Cmd) : List (Nat × Nat) :=
  if r.ns ≠ c.e.nsid then [] else
  (c.wait.filter fun l => r.base.2 ≤ l && l < r.base.2 + r.per).map fun l => (l, l - r.base.2)

/-- LBAs of a command wait no more. -/
def waitDone (id : CmdId) (lbas : List Nat) (s : State) : State := modCmd id (fun c => { c with wait := c.wait.filter (· ∉ lbas) }) s

/-- Higher of two dispatch classes. -/
def clsRank : DCls → Nat
  | .urgent => 0 | .high => 1 | .medium => 2 | .low => 3 | .writeBack => 4 | .maintenance => 5
/-- The higher class. -/
def higher (a b : DCls) : DCls := if clsRank a ≤ clsRank b then a else b

/-- Reads for which a command still waits. -/
def reading (s : State) (id : CmdId) : Bool := s.rjobs.any fun e => e.2.any fun r => id ∈ r.ids

/-- First LBA of the frame that holds an LBA of a namespace; a conventional block is a frame of its own. -/
def frameLba (s : State) (ns lba : Nat) : Nat :=
  match nsOf s ns with
  | some n =>
    if n.zoned then
      let base := zoneStart n (lbaZone n lba)
      let per := max 1 (zoneFb s (zoneOf s ns (lbaZone n lba)) / 4096)
      base + (lba - base) / per * per
    else lba
  | none => lba

/-- Causes that lie in the LBA and not in its frame: a lock, a poisoned line (R309, R328). -/
def lbaCause (st : Status) : Bool := st = vendorSt 8 || st = vendorSt 0x0B

/-- A failed frame's own status: that of its read, where it failed; else the first in R148's order (DESIGN CHOICE, log 98). -/
def frameSt (fails : List (Nat × Status)) : Status :=
  let own := fails.filter fun e => !lbaCause e.2
  worstSt (if own = [] then fails else own)

/-- The Error Information entries of a Read: one for each failed frame, with its first failing LBA and its own status (R148). -/
def readEntries (c : Cmd) (s : State) : State :=
  let lbas := (c.fails.map Prod.fst).foldl (fun l a => insNat a l) []
  ((lbas.map (frameLba s c.e.nsid)).eraseDups).foldl (fun s f =>
    let mine := c.fails.filter fun e => frameLba s c.e.nsid e.1 = f
    errEntry c.id (frameSt mine) ((mine.map Prod.fst).foldl min ((mine.map Prod.fst).headD 0)) c.e.nsid s) s

/-- A Read whose frames have all been answered is decided (R166, R148). -/
def readCheck (id : CmdId) (s : State) : State :=
  match cmdOf s id with
  | none => s
  | some c => if c.phase ≠ .reading ∨ reading s id then s else finishSt id (worstSt c.fails) (readEntries c s)

/-- Record failed LBAs of a command: zero-filled in the host buffer (R148). -/
def failLbas (id : CmdId) (st : Status) (lbas : List Nat) (s : State) : State :=
  match cmdOf s id with
  | some c =>
    let s := lbas.foldl (fun s l => sendData c (4096 * (l - c.lba)) (zeros 4096) s) s
    waitDone id lbas (modCmd id (fun c => { c with fails := c.fails ++ lbas.map fun l => (l, st) }) s)
  | none => s

/-- End a frame read: it leaves the device, its commands are checked. -/
def endR (n : Nat) (ids : List CmdId) (s : State) : State :=
  ids.foldl (fun s id => readCheck id s) { s with rjobs := tset none s.rjobs n none }

/-- A frame read fails: every LBA of the frame that a command asked for (R148). -/
def failR (n : Nat) (st : Status) (s : State) : State :=
  match tget none s.rjobs n with
  | none => s
  | some r =>
    let s := rebDrop (fun b => match b.who with | .frame j _ => j = n | .tag j _ => j = n | .index j => j = n | _ => false) s
    let s := { s with ops := s.ops.filter fun o => match o.work with
      | .lunRead j _ _ => j ≠ n | .idxRead j _ _ => j ≠ n | .decrypt j => j ≠ n | .decode j => j ≠ n | _ => true }
    endR n r.ids (r.ids.foldl (fun s id => match cmdOf s id with
      | some c => failLbas id st ((cmdBlksIn r c).map Prod.fst) s
      | none => s) s)

/-- A frame's data is released: each joined command gets the LBAs it asked for (read path step 9). -/
def deliverR (n : Nat) (bytes : List Byte) (s : State) : State :=
  match tget none s.rjobs n with
  | none => s
  | some r =>
    endR n r.ids (r.ids.foldl (fun s id => match cmdOf s id with
      | some c =>
        let bs := cmdBlksIn r c
        waitDone id (bs.map Prod.fst)
          (bs.foldl (fun s b => sendData c (4096 * (b.1 - c.lba)) (bytesAt bytes (4096 * b.2) 4096) s) s)
      | none => s) s)

/-- A frame's plain payload is at hand: a raw frame is checked at once (R208), a coded one waits for a coder. -/
def payloadReady (n : Nat) (s : State) : State :=
  match tget none s.rjobs n with
  | none => s
  | some r =>
    if leAt r.bytes 1 1 % 2 = 1 then
      match decodePayload (r.bytes.take 48) r.payload with
      | .ok b => deliverR n b s
      | .fail _ => failR n (vendorSt 2) s
    else
      let sec := decSec s r.sec
      queueR (.decode n) (.codec sec) r (modR n (fun r => { r with stage := .decode, sec := sec }) s)

/-- A frame's stored bytes are at hand: header check (R247, R248), then decryption, or the check word of a frame in clear
(R235). A frame in clear under a profile that names a slot fails as an authentication failure (R254). The cipher engine is that of the section `decSec` chooses (DESIGN CHOICE, log 42). -/
def bytesReady (n : Nat) (s : State) : State :=
  match tget none s.rjobs n with
  | none => s
  | some r =>
    let hdr := r.bytes.take 48
    let p := 16 * leAt hdr 8 2 - 64
    let body := (r.bytes.drop 48).take p
    let enc := bitOf (w32 (leAt hdr 1 1)) 3
    if malformed hdr then failR n (vendorSt 2) s
    else if enc ∧ s.sec.st = 2 then failR n internalErr s
    else if enc then
      let sec := decSec s r.sec
      queueR (.decrypt n) (.cipher sec) r (modR n (fun r => { r with stage := .cipher, sec := sec }) s)
    else if r.slot.isSome then failR n (vendorSt 3) (modCip r.sec (fun c => { c with authFail := satInc 0xFFFFFFFF c.authFail }) s)
    else if (r.bytes.drop (48 + p)).take 16 ≠ checkTrailer hdr body then failR n (vendorSt 2) s
    else payloadReady n (modR n (fun r => { r with payload := body }) s)


/-- The image of data page k enters the frame being assembled (read path step 6). -/
def pageInto (b : Band) (k : Nat) (img : List Byte) (r : RJob) : RJob :=
  let lo := max (16 * r.off16) (k * b.pageBytes)
  let hi := min (16 * (r.off16 + r.len16)) ((k + 1) * b.pageBytes)
  { r with bytes := putBytes r.bytes (lo - 16 * r.off16) ((img.drop (lo - k * b.pageBytes)).take (hi - lo)) }

/-- Whether a frame read's frame is still the one that the zone, or the page map, holds at that place. -/
def sameFrame (s : State) (r : RJob) : Bool :=
  if r.conv then (convOf s r.ns r.idx).band = r.zone && (convOf s r.ns r.idx).off16 = r.off16
  else r.held = [] && (storedOf (frOf (zoneOf s r.ns r.zone) r.idx)).any fun x => x.off16 = r.off16 && x.len16 = r.len16

/-- Every page of a frame is at hand: the stored bytes are checked; those that a rebuild brought after a failed tag are decrypted again
on another engine (R275). -/
def pagesDone (n : Nat) (s : State) : State :=
  match tget none s.rjobs n with
  | none => s
  | some r =>
    if r.rebuilt then
      let k := otherSec s r.sec
      queueR (.decrypt n) (.cipher k) r (modR n (fun r => { r with stage := .cipher, sec := k }) s)
    else bytesReady n s

/-- Page k of a frame read is at hand. -/
def pageGot (n k : Nat) (s : State) : State :=
  let s := modR n (fun r => { r with pages := r.pages.filter (· ≠ k) }) s
  if (tget none s.rjobs n).any fun r => r.pages = [] then pagesDone n s else s

/-- Page k of a frame read is rebuilt: its image is what band parity gives (R302). -/
def pageRebuilt (n k : Nat) (s : State) : State :=
  pageGot n k (modR n (fun r => match r.held, (zoneOf s r.ns r.zone).band with | [], some b => pageInto b k (rebuiltPage b k) r | _, _ => r) s)

/-- Data that fails every step in a Full or Read Only zone is lost beyond rebuild: the zone goes Offline (R175). -/
def lostCheck (ns z : Nat) (s : State) : State :=
  let st := (zoneOf s ns z).st
  if (st = .full ∨ st = .readOnly) ∧ (nsOf s ns).any (·.zoned) then zoneOffline ns z s else s

/-- A frame read fails for want of a page (R303): the data is lost with it, unless the frame was superseded meanwhile. -/
def pageLost (n : Nat) (s : State) : State :=
  match tget none s.rjobs n with
  | none => s
  | some r => if sameFrame s r then lostCheck r.ns r.zone (failR n ureSt s) else failR n ureSt s

/-- Queue the read of page k of a frame read, of the codewords that the frame lies in (R300). A page that its LUN's failure took is
rebuilt on demand, and one that cannot be is lost (R304). The reads of a zone that was reset have no band to turn to. -/
def pageRead (n k : Nat) (s : State) : State :=
  match tget none s.rjobs n with
  | none => s
  | some r => match r.held, (zoneOf s r.ns r.zone).band with
    | [], some b =>
      let (row, p) := b.pages.getD k (0, 0)
      let (l, blk) := pageLoc s r.ns r.zone b k
      let o := { rOp (.lunRead n k blk) (.lun l) r s with cws := spanCws b k r.off16 r.len16 }
      if ¬ rowGone s r.ns r.zone b row p then queueOp o s
      else if ¬ rebMay s r.ns r.zone b row p then pageLost n (rowLost r.ns r.zone row p s)
      else if rebReads b row p = [] then pageRebuilt n k s
      else rebStart r.ns r.zone row p (.frame n k) o s
    | _, _ => pageLost n s

/-- Queue the page reads of a frame read whose place is known. A zone that was reset since has no band left: the frame's bytes are
those that its pages held at the read's start (R296). -/
def readPages (n : Nat) (s : State) : State :=
  match tget none s.rjobs n with
  | none => s
  | some r => match r.held, (zoneOf s r.ns r.zone).band with
    | [], some b =>
      let ps := framePages b r.off16 r.len16
      ps.foldl (fun s k => pageRead n k s)
        (modR n (fun r => { r with stage := .lun, pages := ps, sec := lunSec (pageLoc s r.ns r.zone b (ps.headD 0)).1 }) s)
    | _, _ => bytesReady n s

/-- Key of index page i of a zone in the frame length table cache. -/
def fltcKey (ns z i : Nat) : Nat := zkey ns z * 2 ^ 16 + i

/-- Index pages that locate frame f (R197, R198): that of its entry, and those of the dead-list entries of its group up to it. -/
def idxPages (zn : Zone) (f : Nat) : List Nat :=
  let ents := zn.index.length - ceilDiv (fltDead zn).length 510
  let dead := ((fltDead zn).zipIdx.filter fun e => 64 * (f / 64) ≤ e.1.1 && e.1.1 ≤ f).map fun e => ents + e.2 / 510
  (f / 1920 :: dead).eraseDups

/-- The band's data page that holds index page i of a zone. -/
def indexPg (zn : Zone) (b : Band) (i : Nat) : Nat := (zn.indexAt + 256 * i) / page16 b

/-- A page of the frame length table cache is used, or loaded; the least recently used page is dropped (R199). -/
def fltcUse (key : Nat) (s : State) : State :=
  { s with fltc := (key :: s.fltc.filter (· ≠ key)).take (regFld s 0x70120 6 0 * 262144) }

/-- Whether the band's index page i of a zone is still staged: its program is not confirmed (R293). -/
def idxStaged (zn : Zone) (i : Nat) : Bool := zn.band.all fun b => !spanConfirmed b (zn.indexAt + 256 * i) 256

/-- The read of index page i in the copy of a zone's index pages: its LUN, block and codeword; none where the copy is not there, or its
block is under erase, for which the read would end ERASE_SUSPENDED (R297). -/
def idxCopyAt (s : State) (ns z : Nat) (i : Nat) : Option (Nat × Nat × Nat) :=
  ((zoneOf s ns z).indexCopy.filter fun p => lunOk s p.1 && erasing s p.1 ≠ some p.2).map fun p =>
    (p.1, p.2, i % max 1 ((lunOf s p.1).pageBytes / 4096))

/-- An index page is at hand: it enters the cache. -/
def idxHave (n i : Nat) (s : State) : State :=
  modR n (fun r => { r with idxLeft := r.idxLeft.filter (· ≠ i) })
    (match tget none s.rjobs n with | some r => fltcUse (fltcKey r.ns r.zone i) s | none => s)

/-- Read the index pages that a frame read still lacks, one at a time: each at its LUN as a read of the command's class, from the copy in a
parameter unit, or (`copy` false) from the band's page where the copy cannot be read (R199). A page of the band that is still staged is
taken from the staging buffer (R293); one that the failure of its LUN took is rebuilt. -/
def readIndexes : List Nat → Nat → Bool → State → State
  | [], n, _, s => readPages n s
  | i :: t, n, copy, s =>
    match tget none s.rjobs n with
    | none => s
    | some r =>
      let miss (s : State) : State := { s with fltcMiss := satInc 0xFFFFFFFF s.fltcMiss }
      match r.held, (zoneOf s r.ns r.zone).band with
      | [], some b =>
        match (idxCopyAt s r.ns r.zone i).filter fun _ => copy with
        | some (l, blk, cw) => queueOp { rOp (.idxRead n blk true) (.lun l) r s with cws := [cw] } (miss s)
        | none =>
          let zn := zoneOf s r.ns r.zone
          let k := indexPg zn b i
          let (row, p) := b.pages.getD k (0, 0)
          let (l, blk) := pageLoc s r.ns r.zone b k
          let o := { rOp (.idxRead n blk false) (.lun l) r s with cws := spanCws b k (zn.indexAt + 256 * i) 256 }
          if idxStaged zn i then readIndexes t n true (idxHave n i s)
          else if ¬ rowGone s r.ns r.zone b row p then queueOp o (miss s)
          else if ¬ rebMay s r.ns r.zone b row p then failR n ureSt (rowLost r.ns r.zone row p s)
          else if rebReads b row p = [] then readIndexes t n true (idxHave n i s)
          else rebStart r.ns r.zone row p (.index n) o (miss s)
      | _, _ => readPages n s

/-- Go on with the index pages that a frame read lacks. -/
def readIndex (n : Nat) (copy : Bool) (s : State) : State :=
  match tget none s.rjobs n with
  | none => s
  | some r => readIndexes r.idxLeft n copy s

/-- The index page that a frame read waited for is at hand. -/
def indexGot (n : Nat) (s : State) : State :=
  match tget none s.rjobs n with
  | none => s
  | some r => readIndex n true (idxHave n (r.idxLeft.headD 0) s)

/-- Begin the read of a stored frame: data still staged is read from the staging buffer (R21, R293); the table of a finished zone is
looked up in the cache, and a miss reads the index page first (R199). -/
def beginR (r : RJob) (confirmed : Bool) (s : State) : State :=
  let n := s.nextJob
  let zn := zoneOf s r.ns r.zone
  let sec := (zn.band.map fun b => lunSec (pageLoc s r.ns r.zone b (r.off16 / page16 b)).1).getD 0
  let bytes := (zn.band.map fun b => spaceGet b (16 * r.off16) (16 * r.len16)).getD []
  let s := { s with nextJob := n + 1, rjobs := tset none s.rjobs n (some { r with sec := sec, bytes := bytes }) }
  if ¬ confirmed then bytesReady n s
  else if r.conv ∨ ¬ zn.indexed then readPages n s
  else
    let pages := idxPages zn r.idx
    let key (i : Nat) : Nat := fltcKey r.ns r.zone i
    let miss := pages.filter fun i => !(decide (key i ∈ s.fltc) || zn.indexCopy.isNone && idxStaged zn i)
    let s := (pages.filter fun i => decide (key i ∈ s.fltc)).foldl (fun s i => fltcUse (key i) s) s
    if miss = [] then readPages n s
    else readIndex n true (modR n (fun r => { r with stage := .index, idxLeft := miss }) s)

/-- The earlier read that this one joins (R223): of the same generation, namespace and stored frame. A Zone Reset ends that: the frame
read before it holds another. -/
def joinable (s : State) (r : RJob) : Option Nat :=
  (s.rjobs.find? fun e => e.2.any fun x => x.ids ≠ [] && x.held = [] && x.gen = r.gen && x.func = r.func && x.ns = r.ns &&
    x.conv = r.conv && x.zone = r.zone && x.idx = r.idx && x.off16 = r.off16).map Prod.fst

/-- Dispatch class of a command's operations (R159, R163). -/
def cmdCls (c : Cmd) : DCls := if c.token then .urgent else c.cls

/-- Time limit of error recovery on a read (feature 05h, TLER in units of 100 ms; R137): the device time at which it ends. -/
def tlerEnd (s : State) (f ns : Nat) : Option Nat :=
  let t := fld (featGet (fnOf s f) 5 ns) 15 0
  if t = 0 then none else some (now s + 100000000 * t)

/-- The frame read that answers the blocks of frame `idx` for command `id`. A command that joins an earlier read (R223) comes under the
TLER limit of that read (DESIGN CHOICE, log 96). -/
def readFrame (id : CmdId) (conv : Bool) (z idx : Nat) (s : State) : State :=
  match cmdOf s id with
  | none => s
  | some c =>
    let ns := c.e.nsid
    let v := convOf s ns idx
    let zn := zoneOf s ns z
    let x := storedOf (frOf zn idx)
    let place : Nat × Nat × Bool := if conv then (v.off16, conv16, true) else
      match x with
      | some x => (if zn.band.any (·.dead = []) && (frOf zn idx).live.isSome then fltLocate zn idx else x.off16, x.len16, x.confirmed)
      | none => (0, 0, true)
    let r : RJob := { ns := ns, zone := if conv then v.band else z, idx := idx, conv := conv, ids := [id], gen := c.gen, func := id.func,
                      cls := c.cls, age := c.time, off16 := place.1, len16 := place.2.1, limit := tlerEnd s id.func ns,
                      slot := if conv then dataSlot s ns idx else zn.prof.bind fun p => profSlot (profOf s p),
                      base := framePlace s ns z idx conv, per := if conv then 1 else zoneFb s zn / 4096 }
    match joinable s r with
    | some n => modR n (fun r => { r with ids := r.ids ++ [id], cls := higher r.cls c.cls, age := min r.age c.time }) s
    | none => beginR r place.2.2 s


/-- Answer the blocks of a Read, one at a time, collecting the frames to read. -/
def readBlocks (id : CmdId) (n : Ns) : Nat → Nat → State → List (Nat × Nat) → State × List (Nat × Nat)
  | 0, _, s, fs => (s, fs)
  | k + 1, lba, s, fs =>
    match cmdOf s id with
    | none => (s, fs)
    | some c =>
      match blkAns s c.ord c.e.nsid n lba with
      | .data b => readBlocks id n k (lba + 1) (sendData c (4096 * (lba - c.lba)) b s) fs
      | .fail st => readBlocks id n k (lba + 1) (failLbas id st [lba] s) fs
      | .media f =>
        let key := (if n.zoned then lbaZone n lba else 0, f)
        readBlocks id n k (lba + 1) (modCmd id (fun c => { c with wait := c.wait ++ [lba] }) s) (if key ∈ fs then fs else fs ++ [key])

/-- Run a Read that passed its command checks (R166): what is at hand is sent, the rest waits for frames. -/
def runRead (id : CmdId) (n : Ns) (s : State) : State :=
  match cmdOf s id with
  | none => s
  | some c =>
    let s := modCmd id (fun c => { c with phase := .reading, lba := cmdSlba c.e }) s
    let (s, fs) := readBlocks id n (cmdBlocks c.e) (cmdSlba c.e) s []
    readCheck id (fs.foldl (fun s f => readFrame id (!n.zoned) f.1 f.2 s) s)

/-- The engines' key copies at entry to the cryptographic error state (R402, R403): they are zeroized; an encryption they carried is done
again, with a new copy, by an engine that passes; a read that would decrypt fails with Internal Error, its LBAs zero-filled. -/
def keysEnd (s : State) : State :=
  if s.sec.st ≠ 2 then s else
  let mine := s.runs.filter fun x => match x.op.work with | .encrypt _ => true | _ => false
  let s := mine.foldl (fun s x => match x.op.work with
    | .encrypt n => { (modJob n (fun j => { j with key := [] }) s) with ops := s.ops ++ [x.op] }
    | _ => s) { s with runs := s.runs.filter fun x => match x.op.work with | .encrypt _ => false | _ => true }
  (s.rjobs.filter fun e => match e.2 with | some r => r.stage = .cipher | none => false).foldl (fun s e => failR e.1 internalErr s) s

end Sys2Proof.Machine
end

