-- ==== Sys2Proof/Machine/Vault.lean ====
section
/-!
DEFINITION. The key vault: invocation-counter leases (R263 to R266), binding a key copy (R23, R254), the checks and the effect
of a key entry (R253, R255, R258 to R262, R393), and zeroization (R267 to R269).
-/
namespace Sys2Proof.Machine

open Sys2Proof

/-! ### Leases (R263, R264, R265) -/

/-- Key of the second lease an engine holds for a slot. -/
def nextLease (k : Nat) : Nat := k + 4096

/-- The lease an engine takes its next value from: one of the slot's current epoch with values left. -/
def leaseOf (s : State) (sec k : Nat) : Option (Nat × Lease) :=
  let e := ((slotOf s k).cur.map KeyEp.epoch).getD 0
  let ok (l : Lease) : Bool := l.next < l.lim && l.epoch = e
  let a := tget {} (cipOf s sec).leases k
  let b := tget {} (cipOf s sec).leases (nextLease k)
  if ok a then some (k, a) else if ok b then some (nextLease k, b) else none

/-- Values an engine still holds for a slot. -/
def leaseLeft (s : State) (sec k : Nat) : Nat :=
  let e := ((slotOf s k).cur.map KeyEp.epoch).getD 0
  let n (l : Lease) : Nat := if l.epoch = e then l.lim - l.next else 0
  n (tget {} (cipOf s sec).leases k) + n (tget {} (cipOf s sec).leases (nextLease k))

/-- Whether a lease is down to a quarter of its values. -/
def quarterLeft (l : Lease) : Bool := 4 * (l.lim - l.next) ≤ l.lim - l.first

/-- An engine asks for a lease (R264). -/
def askLease (sec k : Nat) (s : State) : State :=
  modCip sec (fun c => { c with wantLease := insNat k c.wantLease }) s

/-- Take one counter value (R263): the value, and the state with it used; the next lease is requested when a quarter of the current
one remains and no next one is held (R264). -/
def takeValue (s : State) (sec k : Nat) : Option (Nat × State) :=
  match leaseOf s sec k with
  | none => none
  | some (i, l) =>
    let l' := { l with next := l.next + 1 }
    let s := modCip sec (fun c => { c with leases := tset {} c.leases i l' }) s
    some (l.next, if quarterLeft l' && leaseLeft s sec k = l'.lim - l'.next then askLease sec k s else s)

/-- The vault records and gives a lease (R263, R265): at most 65,536 values, none at or above the ceiling. -/
def giveLease (sec k : Nat) (s : State) : State :=
  let sl := slotOf s k
  match sl.cur with
  | none => s
  | some e =>
    let n := min 65536 (sl.ceiling - sl.hwm)
    if n = 0 then s else
    let l : Lease := ⟨sl.hwm, sl.hwm + n, e.epoch, sl.hwm⟩
    let i := match leaseOf s sec k with
      | some (i, _) => if i = k then nextLease k else k
      | none => k
    let s := modSlot k (fun x => { x with hwm := x.hwm + n }) s
    recordVault (modCip sec (fun c => { c with leases := tset {} c.leases i l, wantLease := rmNat k c.wantLease }) s)

/-! ### Zeroization (R267 to R269) -/

/-- A slot after zeroization (R267 step 2); its last epoch is kept, so no number repeats (R253). -/
def emptied (sl : Slot) : Slot :=
  { ({} : Slot) with last := sl.last, zmark := sl.last + 1 }

/-- Frame reads bound to a slot of `ks` end with Key Slot Zeroized (R267 step 3). -/
def failBoundReads (ks : Nat → Bool) (s : State) : State :=
  (s.rjobs.filter fun e => e.2.any fun r => r.slot.any ks && (r.stage = .cipher || r.stage = .decode)).foldl
    (fun s e => failR e.1 (vendorSt 4) s) s

/-- Operations whose job or frame read no longer exists are dropped. -/
def dropDead (s : State) : State :=
  let job (n : Nat) : Bool := (tget none s.jobs n).isSome
  let rd (n : Nat) : Bool := (tget none s.rjobs n).isSome
  let alive (w : Work) : Bool := match w with
    | .encode n => job n | .verify n _ _ => job n | .encrypt n => job n | .moveRead n _ _ => job n
    | .decrypt n => rd n | .decode n => rd n | .lunRead n _ _ => rd n | .idxRead n _ _ => rd n
    | .relRead n _ => (tget none s.rels n).isSome | .relProg n _ => (tget none s.rels n).isSome
    | .offEnc n _ => (tget none s.offs n).isSome | .offVerify n _ _ _ => (tget none s.offs n).isSome
    | .offDec n _ => (tget none s.offs n).isSome
    | _ => true
  { s with ops := s.ops.filter fun o => alive o.work }

/-- Zeroize the slots `ks` at one instant (R267, R268). -/
def zeroizeSlots (ks : Nat → Bool) (s : State) : State :=
  let s := markZeroized ks s
  let s := failSlotWrites ks s
  let s := failBoundReads ks s
  let s := fuaCheck (wbUpdate (dropDead (dropSlotData ks s)))
  let v := s.vault
  let drop (st : Option Nat) : Bool := st.any ks
  { s with
    vault := { v with
      live := { v.live with slots := tmap {} (fun k sl => if ks k then emptied sl else sl) v.live.slots },
      staged := if drop v.staged then none else v.staged, words := if drop v.staged then [] else v.words },
    cip := tmap {} (fun _ c => { c with leases := c.leases.filter fun e => !ks (e.1 % 4096), wantLease := c.wantLease.filter fun k => !ks k }) s.cip }

/-- KEY_ZEROIZE_ALL: every data slot, the KEK and the fleet migration key (R269). -/
def zeroizeAll (s : State) : State :=
  let s := zeroizeSlots (fun _ => true) s
  { s with vault := { s.vault with live := { s.vault.live with kek := none, mig := none }, staged := none, words := [] } }

/-! ### Entering keys (R253, R258 to R262) -/

/-- Whether an enabled profile that names slot k is attached to a namespace of another owner (R25, check 4). -/
def ownerClash (s : State) (k owner : Nat) : Bool :=
  (enabledProfs s).any fun p => profSlot p.2 = some k &&
    (attachedNs s p.1).any fun ns => (nsOf s ns).any fun n => n.owner.any (· ≠ owner)

/-- Checks 2, 4 and 5 of the key commit checks on a slot and owner (R258, R253, R261, R262); 0 when all pass. Slot 800h
is the KEK: no owner, no epochs (R259). -/
def slotCheck (s : State) (k owner : Nat) (force : Bool) : Nat :=
  let sl := slotOf s k
  if k = 0x800 then 0
  else if 2047 < k ∨ (1023 < owner ∧ owner ≠ 0xFFFF) ∨ sl.last = 0xFFFFFFFF then 1
  else if sl.cur.isSome ∧ sl.owner ≠ owner then 4
  else if sl.cur.isNone ∧ ownerClash s k owner then 4
  else if sl.cur.isSome ∧ sl.prev.isSome ∧ prevReferenced s k ∧ ¬ force then 0x13
  else 0

/-- Load a key into a slot: an Empty slot takes the higher of its zeroize mark and its last epoch + 1; a Loaded slot is
rewritten (R253, R260). The record is durable before use (R255). -/
def loadKey (k owner : Nat) (key : List Byte) (s : State) : State :=
  if k = 0x800 then recordVault { s with vault := { s.vault with live := { s.vault.live with kek := some key } } }
  else recordVault (modSlot k (fun sl =>
    let e := if sl.cur.isSome then sl.last + 1 else max sl.zmark (sl.last + 1)
    { sl with cur := some ⟨e, key⟩, prev := sl.cur, last := e, hwm := 0,
              owner := if sl.cur.isSome then sl.owner else owner }) s)

/-- Whether key entry is refused: the cryptographic error state, ZEROIZE_N low, or a zeroization pending (R393, R416,
R417). -/
def keyEntryBarred (s : State) : Bool := s.sec.st = 2 || s.pin.zeroize || s.zer.pend

/-- Slot whose unused staged words a commit or a select discards (R257). -/
def unstage (s : State) : State := { s with vault := { s.vault with staged := none, words := [] } }

end Sys2Proof.Machine
end

