-- ==== Sys2Proof/Machine/Engines.lean ====
section
/-!
DEFINITION. What an engine's result is: the coder's payload (R217), the sealed frame (R249, R250), and the storing of a zone's
or a block's jobs in one go, as stage 7 of START needs it (R77, R376).
-/
namespace Sys2Proof.Machine

open Sys2Proof

/-- The coder's result for a job: the coded payload, or none when the frame is stored raw (R217 to R219). -/
def coderResult (s : State) (j : Job) : Option (List Byte) :=
  let desc := (profOf s j.prof).desc
  let g := geomOf desc (j.idx * frameBytes (profOf s j.prof)) j.orig.length
  let pay := codedPayload g j.orig
  if storedCoded (leAt desc 1 1) g j.orig pay then some pay else none

/-- Bind a job to a section's cipher engine: key copy, epoch and a fresh counter value (R23, R249, R263). -/
def bindJob (n sec : Nat) (s : State) : Option State :=
  match tget none s.jobs n with
  | none => none
  | some j => match j.slot with
    | none => none
    | some k => match (slotOf s k).cur, takeValue s sec k with
      | some e, some (v, s) =>
        some (modJob n (fun j => { j with sec := sec, key := e.key, epoch := e.epoch, counter := v }) s)
      | _, _ => none

/-- The frame's bytes under the bound key and counter (R234, R249). -/
def sealedFrame (s : State) (j : Job) : List Byte :=
  let hdr := putBytes j.header 36 (leBytes 8 j.counter ++ leBytes 4 j.epoch)
  let (zs, lba) := framePlace s j.ns j.zone j.idx j.conv
  let owner := (j.slot.map fun k => (slotOf s k).owner).getD 0xFFFF
  let (ct, tag) := gcmSeal j.key ((hdr.drop 36).take 12) (aadOf j.ns owner zs lba hdr) j.payload
  hdr ++ ct ++ tag

/-- A job's encryption ends: its frame is complete, its epoch enters the zone's range (R249, R261); with its last frame stored a zone may
finish (R194). -/
def encrypted (n : Nat) (s : State) : State :=
  match tget none s.jobs n with
  | none => s
  | some j =>
    let f := sealedFrame s j
    let s := if j.conv then s else modZone j.ns j.zone (fun z =>
      { z with epLo := if z.epLo = 0 then j.epoch else min z.epLo j.epoch, epHi := max z.epHi j.epoch }) s
    zoneSettle j.ns j.zone (placeFrame n f s)

/-! ### Storing at once (R77) -/

/-- Bind with a lease granted at once when the engine holds none. -/
def bindNow (n : Nat) (s : State) : Option State :=
  (tget none s.jobs n).bind fun j => match bindJob n j.sec s with
    | some s => some s
    | none => j.slot.bind fun k => bindJob n j.sec (giveLease j.sec k s)

/-- Every page of a zone's data space, parity with it, is confirmed. -/
def confirmAll (ns z : Nat) (s : State) : State :=
  let s := modZone ns z (fun zn => { zn with band := zn.band.map fun b =>
    let b := bandPages (b.fill16 / (page16 b + 1) + 2) b
    let ends := (List.range b.pages.length).foldl (fun t k => tset 0 t k (min b.fill16 ((k + 1) * page16 b))) b.conf
    let us := (b.pages.map fun e => unitKey e.1 (e.2 / 32)).eraseDups
    let par := us.foldl (fun t u => tset 0 t u (((unitPages b u).map fun k => min b.fill16 ((k + 1) * page16 b)).foldl max 0)) b.pConf
    { b with iss := ends, conf := ends, pIss := if b.parity then par else b.pIss, pConf := if b.parity then par else b.pConf } }) s
  let s := { s with ops := s.ops.filter fun o => match o.work with
    | .program n y _ _ => !(n = ns && y = z) | .parity n y _ _ => !(n = ns && y = z) | _ => true }
  confirmZone ns z s

/-- Carry one job as far as it goes. -/
def storeJob (n : Nat) (s : State) : State :=
  match tget none s.jobs n with
  | none => s
  | some j =>
    match j.stage with
    | .read => movedIn n s
    | .encode => encoded n (coderResult s j) s
    | .order => if j.conv then orderConv j.ns s else orderZone j.ns j.zone s
    | .cipher => ((bindNow n s).map (encrypted n)).getD s
    | .ready => issueZone j.ns j.zone (storeReady (zoneJobs s j.ns j.zone) s)
    | .program => confirmAll j.ns j.zone s

/-- Every job of the write path to its end; the argument bounds the passes (a job takes at most four). -/
def storeJobs : Nat → State → State
  | 0, s => dropDead s
  | n + 1, s => storeJobs n ((tkeys s.jobs).foldl (fun s k => storeJob k s) s)

end Sys2Proof.Machine
end

