-- ==== Sys2Proof/Machine/ZoneOps.lean ====
section
/-!
DEFINITION. The zone engine: the order of commands on a zone (R152, R195), what a Reset discards (R195), opening and closing
(R176, R181), the acceptance of a write (R134, R182, R187, R266, R268) and sealing for Flush and FUA (R191).
-/
namespace Sys2Proof.Machine

open Sys2Proof

/-! ### Order (R152) -/

/-- Zone Send Action of a Zone Management Send. -/
def zsa (e : Sqe) : Nat := fld e.cdw13 7 0
/-- Select All. -/
def selAll (e : Sqe) : Bool := bitOf e.cdw13 8

/-- First and last zone that a command addresses at the zone engine. -/
def zoneSpan (s : State) (c : Cmd) : Option (Nat × Nat) :=
  match nsOf s c.e.nsid with
  | none => none
  | some n =>
    if ¬ n.zoned then none
    else if c.e.opc = 1 ∨ c.e.opc = 2 ∨ c.e.opc = 0x7D then
      some (lbaZone n (cmdSlba c.e), lbaZone n (cmdSlba c.e + cmdBlocks c.e - 1))
    else if c.e.opc = 0x7A then some (lbaZone n (cmdSlba c.e), n.size)
    else if c.e.opc = 0x79 then
      if selAll c.e then some (0, n.size) else some (lbaZone n (cmdSlba c.e), lbaZone n (cmdSlba c.e))
    else none

/-- Whether a command has its turn at the zone engine: none admitted before it that shares a zone still waits for its own
(R152). -/
def zoneTurn (s : State) (c : Cmd) : Bool :=
  match zoneSpan s c with
  | none => true
  | some (a, b) => !s.cmds.any fun d =>
      d.ord < c.ord && d.phase = .admitted && d.id.sq ≠ 0 && d.e.nsid = c.e.nsid &&
      (zoneSpan s d).any fun x => x.1 ≤ b && a ≤ x.2

/-! ### Reset (R195, R296) -/

/-- The frame reads of a zone that was reset go on from the blocks of its band, which are not erased before they end (R296). -/
def holdReads (ns z : Nat) (s : State) : State :=
  let pos := ((zoneOf s ns z).band.map Band.pos).getD []
  { s with rjobs := s.rjobs.map fun e => (e.1, e.2.map fun r => if r.ns = ns ∧ r.zone = z ∧ r.held = [] then { r with held := pos } else r) }
/-- The relocations of a zone's blocks, by row. -/
def zoneRels (s : State) (ns z : Nat) : List (Nat × Rel) :=
  s.rels.filterMap fun e => (e.2.filter fun r => r.ns = ns && r.zone = z).map fun r => (e.1, r)

/-- End a relocation; of its two blocks, those that stand in no position of the band are given back. -/
def relAbandon (band : Option Band) (s : State) (e : Nat × Rel) : State :=
  let loose (s : State) (p : Nat × Nat) : Bool :=
    (band.all fun b => p ∉ b.pos) && lunOk s p.1 && (blkOf (lunOf s p.1) p.2).st = .used
  [e.2.src, e.2.dst].foldl (fun s p => if loose s p then giveBlk p.1 p.2 s else s) (relDrop e.1 s)

/-- Discard the data of a zone, or of a band of a conventional pool, and give back its blocks. A program that runs for it ends
unrecorded. -/
def zoneStrip (ns z : Nat) (s : State) : State :=
  let zn := zoneOf s ns z
  let zoned := (nsOf s ns).any (·.zoned)
  let mine (j : Job) : Bool := j.ns = ns && j.zone = z
  let blkAt (p : Nat) : Nat := ((zn.band.map fun b => (b.pos.getD p (0, 0)).2)).getD 0
  let pagePos (k : Nat) : Nat := (zn.band.map fun b => (b.pages.getD k (0, 0)).2).getD 0
  let loose (w : Work) : Work := match w with
    | .program n y k c => if n = ns ∧ y = z then .orphan (blkAt (pagePos k)) else .program n y k c
    | .indexCopy n y l b => if n = ns ∧ y = z then .orphan b else .indexCopy n y l b
    | .parity n y u c => if n = ns ∧ y = z then .orphan (blkAt (parPos (u / 256) (u % 256))) else .parity n y u c
    | w => w
  let gone (w : Work) : Bool := match w with
    | .program n y _ _ => n = ns && y = z | .parity n y _ _ => n = ns && y = z | .indexCopy n y _ _ => n = ns && y = z | _ => false
  let copies := s.ops.filterMap fun o => match o.work with | .indexCopy n y l b => if n = ns ∧ y = z then some (l, b) else none | _ => none
  let s := { s with
    jobs := s.jobs.filter fun e => !e.2.any mine,
    ops := s.ops.filter fun o => !gone o.work,
    runs := s.runs.map fun (r : Run) => { r with op := { r.op with work := loose r.op.work } },
    cache := s.cache.filter fun b => !(zoned && inZone s (zkey ns z) b),
    hold := { s.hold with pool := s.hold.pool.filter fun r => !(zoned && r.ns = ns && (nsOf s ns).any fun n => lbaZone n r.lba = z) },
    fltc := s.fltc.filter fun k => k / 2 ^ 16 ≠ zkey ns z }
  let s := holdReads ns z ((zoneRels s ns z).foldl (relAbandon zn.band) s)
  let s := copies.foldl (fun s p => modBlk p.1 p.2 (fun k => { k with st := .erased }) s) s
  let s := match zn.indexCopy with | some (l, b) => if lunOk s l && (blkOf (lunOf s l) b).st ≠ .bad then giveBlk l b s else s | none => s
  match zn.band with | some b => dropBand b s | none => s

/-- Discard a zone's data and accounting and give back its blocks; the zone is Empty. -/
def zoneClear (ns z : Nat) (s : State) : State :=
  wbUpdate (fuaCheck (dropDead (modZone ns z (fun _ => {}) (zoneStrip ns z s))))

/-! ### Opening and closing (R176, R181) -/

/-- Too Many Active Zones (R131). -/
def tooMany : Status := ⟨1, 0xBD, true⟩
/-- Invalid Zone State Transition. -/
def badTransition : Status := ⟨1, 0xBF, true⟩
/-- Zone Is Full. -/
def zoneFullSt : Status := ⟨1, 0xB9, true⟩
/-- Zone Is Read Only. -/
def zoneRoSt : Status := ⟨1, 0xBA, true⟩

/-- Put a zone into an open state; a new open re-arms the headroom warning (R138). -/
def setOpen (st : ZState) (zn : Zone) : Zone := { zn with st := st, warned := if openSt zn.st then zn.warned else false }

/-- The enabled profile, attached to the namespace, with the least ZCAP: (ZCAP, dcap, frame bytes). -/
def leastCap (s : State) (n : Ns) : Option (Nat × Nat × Nat) :=
  ((n.hints.map Prod.snd).filter fun p => (profOf s p).enabled).foldl (fun a p =>
    let d := dcapOf s (profOf s p) n
    let fb := frameBytes (profOf s p)
    let z := zcapOf d fb n
    match a with
    | none => some (z, d, fb)
    | some m => if z < m.1 then some (z, d, fb) else a) none

/-- A zone leaves Empty without a band: its ZCAP stays what it was (R185). -/
def capKept (s : State) (ns : Nat) (zn : Zone) : Zone :=
  { zn with zcap := (((nsOf s ns).bind (leastCap s)).map Prod.fst).getD 0 }

/-- Open a zone explicitly: the status when refused. -/
def zoneOpenOp (ns z : Nat) (s : State) : Except Status State :=
  let zn := zoneOf s ns z
  match zn.st with
  | .empty => if canClaim s ns then .ok (modZone ns z (fun zn => capKept s ns (setOpen .explOpen zn)) s) else .error tooMany
  | .closed => .ok (warnCheck ns z (modZone ns z (setOpen .explOpen) s))
  | .implOpen => .ok (modZone ns z (setOpen .explOpen) s)
  | .explOpen => .ok s
  | _ => .error badTransition

/-- Close a zone: one opened explicitly and never written returns to Empty (R181). -/
def zoneCloseOp (ns z : Nat) (s : State) : Except Status State :=
  let zn := zoneOf s ns z
  match zn.st with
  | .implOpen | .explOpen =>
    if zn.prof.isNone then .ok (modZone ns z (fun _ => {}) s) else .ok (modZone ns z (fun zn => { zn with st := .closed }) s)
  | .closed => .ok s
  | _ => .error badTransition

/-- Finish a zone (R193, R195). -/
def zoneFinishOp (ns z : Nat) (s : State) : Except Status State :=
  let zn := zoneOf s ns z
  let size := ((nsOf s ns).map zszeBlocks).getD 0
  match zn.st with
  | .full => .ok s
  | .empty => .ok (finishData ns z (modZone ns z (fun zn => capKept s ns { zn with st := .full, wp := size }) s))
  | .implOpen | .explOpen | .closed => .ok (finishData ns z (modZone ns z (fun zn => { zn with st := .full, wp := size }) s))
  | _ => .error badTransition

/-- Reset a zone (R195). -/
def zoneResetOp (ns z : Nat) (s : State) : Except Status State :=
  match (zoneOf s ns z).st with
  | .empty => .ok s
  | .implOpen | .explOpen | .closed | .full => .ok (zoneClear ns z s)
  | _ => .error badTransition

/-- Take a Read Only zone Offline (R175). -/
def zoneOfflineOp (ns z : Nat) (s : State) : Except Status State :=
  match (zoneOf s ns z).st with
  | .offline => .ok s
  | .readOnly => .ok (zoneOffline ns z s)
  | _ => .error badTransition

/-! ### Acceptance of writes -/

/-- Capacity of a namespace in blocks: none without usable flash (R74, code 06h). -/
def nsCap (s : State) (n : Ns) : Nat := if anyLun s then nsBlocks n else 0

/-- The hint of a write, when the directive fields are valid. -/
def writeHint (s : State) (c : Cmd) : Option Nat :=
  if 64 ≤ dspec c.e then none
  else if dtype c.e = 0 then some 0
  else if dtype c.e = 15 ∧ c.e.nsid ∈ (fnOf s c.id.func).dirEn then some (dspec c.e)
  else none

/-- The enabled profile of a hint (R134, R180). -/
def hintEnabled (s : State) (n : Ns) (h : Nat) : Option Nat := (hintProf n h).filter fun p => (profOf s p).enabled

/-- Refusals that come from the slot a write's data would be stored under: Key Slot Zeroized (R268), the ceiling (R266),
the cryptographic error state (R402). -/
def slotRefuses (s : State) (p : Profile) : Option Status :=
  match profSlot p with
  | none => none
  | some k =>
    if (slotOf s k).cur.isNone then some (vendorSt 4)
    else if s.sec.st = 2 then some internalErr
    else if atCeiling (slotOf s k) then some (vendorSt 5)
    else none

/-- Result of a write at the zone engine: refused with a status, waiting, or accepted. -/
inductive WRes where
  | refuse (st : Status)
  | wait
  | take (s : State)
  deriving DecidableEq, Repr

/-- Give a zone its profile and band at its first write (R181, R182); none while a LUN of the lane set has no erased
block. -/
def bindZone (ns z pno : Nat) (n : Ns) (s : State) : Option State :=
  let p := profOf s pno
  match takeBand (leAt p.desc 7 1 = 3) (laneSet p) s with
  | none => none
  | some (pos, s) =>
    some (modZone ns z (fun zn => { zn with prof := some pno, band := some (newBand s p pos), dcap := dcapOf s p n }) s)

/-- A zone as it would be with profile `pno` bound, for the headroom test of a first write. -/
def boundZone (s : State) (n : Ns) (zn : Zone) (pno : Nat) : Zone :=
  { zn with prof := some pno, dcap := dcapOf s (profOf s pno) n }

/-- Admit a write's blocks to a zone that can hold them (R187): reservation, write pointer, state; the zone end makes it
Full (R175, R193). -/
def admitBlocks (id : CmdId) (ns z off nb : Nat) (n : Ns) (s : State) : State :=
  let s := modZone ns z (fun zn =>
    let zn := reserveFor (zoneFb s zn) (4096 * off) (4096 * nb) zn
    let zn := setOpen (if zn.st = .explOpen then .explOpen else .implOpen) zn
    let zn := { zn with wp := off + nb }
    if zn.wp = zszeBlocks n then { zn with st := .full, finishing := true } else zn) s
  let lba := zoneStart n z + off
  let dw (c : Cmd) (v : Nat) : W32 := if c.e.opc = 0x7D then w32 v else 0
  let s := modCmd id (fun c => { c with phase := .fetching, lba := lba, dw0 := dw c lba, dw1 := dw c (lba / 2 ^ 32) }) s
  warnCheck ns z s

/-- Whether a block of the zone is still being copied after an unsafe shutdown: the zone takes no new data before (R290). -/
def zoneRestarts (s : State) (ns z : Nat) : Bool := s.rels.any fun e => e.2.any fun r => r.ns = ns && r.zone = z && r.kind = .restart

/-- Bound or new profile of a write: the refusals and the binding that follow (R131, R134, R187). A zone that a sanitize is erasing
takes nothing until it is Empty (R471). -/
def takeWrite (c : Cmd) (ns z off nb h : Nat) (n : Ns) (s : State) : WRes :=
  let zn := zoneOf s ns z
  match zn.prof.or (hintEnabled s n h) with
  | none => .refuse invField
  | some pno =>
    match slotRefuses s (profOf s pno) with
    | some st => .refuse st
    | none =>
      if ¬ activeSt zn.st ∧ ¬ canClaim s ns then .refuse tooMany
      else
        let zb := if zn.prof.isSome then zn else boundZone s n zn pno
        if headroom s zb < (worstOf zb (frameBytes (profOf s pno)) (4096 * off) (4096 * nb) : Nat) then .refuse (vendorSt 1)
        else if zoneRestarts s ns z ∨ zn.prof.isSome ∧ zn.band.isNone then .wait
        else if zn.prof.isSome then .take (admitBlocks c.id ns z off nb n s)
        else match bindZone ns z pno n s with
          | none => .wait
          | some s => .take (zoneChanged ns z (admitBlocks c.id ns z off nb n s))

/-- A Write or Zone Append at the zone engine (R132, R134, R185, R187, R309). -/
def zonedWrite (c : Cmd) (n : Ns) (s : State) : WRes :=
  let ns := c.e.nsid
  let slba := cmdSlba c.e
  let z := lbaZone n slba
  let zn := zoneOf s ns z
  let append := c.e.opc = 0x7D
  let off := if append then zn.wp else slba - zoneStart n z
  let nb := cmdBlocks c.e
  match writeHint s c with
  | none => .refuse invField
  | some h =>
    if zn.zeroized then .refuse (vendorSt 4)
    else if append ∧ slba ≠ zoneStart n z then .refuse invField
    else if rangeLocked s c.ord ns (if append then zoneStart n z else slba) (if append then zszeBlocks n else nb) then .refuse (vendorSt 8)
    else if zn.st = .full then .refuse zoneFullSt
    else if zn.st = .readOnly then .refuse zoneRoSt
    else if zn.st = .offline then .refuse zoneOffSt
    else if zszeBlocks n < off + nb then .refuse ⟨1, 0xB8, true⟩
    else if off ≠ zn.wp then .refuse ⟨1, 0xBC, true⟩
    else takeWrite c ns z off nb h n s

/-- A write of a conventional namespace (R202, R309). -/
def convWrite (c : Cmd) (n : Ns) (s : State) : WRes :=
  match writeHint s c with
  | none => .refuse invField
  | some h =>
    if h ≠ 0 then .refuse invField
    else if rangeLocked s c.ord c.e.nsid (cmdSlba c.e) (cmdBlocks c.e) then .refuse (vendorSt 8)
    else match hintEnabled s n 0 with
      | none => .refuse invField
      | some pno => match slotRefuses s (profOf s pno) with
        | some st => .refuse st
        | none => .take (modCmd c.id (fun c => { c with phase := .fetching, lba := cmdSlba c.e }) s)

/-! ### Data in the cache (R19) -/

/-- A write's data has reached the cache: its frames take it. -/
def arrive (ns z off nb : Nat) (s : State) : State :=
  modZone ns z (fun zn =>
    let fb := zoneFb s zn
    let lo := ((nsOf s ns).map fun n => zoneStart n z).getD 0 + off
    let zn := { zn with gone := zn.gone.filter fun l => !(lo ≤ l && l < lo + nb) }
    (framesOf fb (4096 * off) (4096 * nb)).foldl (fun zn f =>
      modFr f (fun fr => { fr with arrived := fr.arrived + overlap fb f (4096 * off) (4096 * nb) }) zn) zn) s

/-- Seal the partial frames of a zone that hold one of the LBAs (R191). A zeroized zone seals nothing. -/
def sealCovered (ns z : Nat) (lbas : List Nat) (s : State) : State :=
  match nsOf s ns with
  | none => s
  | some n =>
    let zn := zoneOf s ns z
    if zn.zeroized then s else
    let per := zoneFb s zn / 4096
    let hit (f : Nat) : Bool := lbas.any fun l => zoneStart n z + f * per ≤ l && l < zoneStart n z + (f + 1) * per
    ((partialUnsealed s ns z).filter hit).foldl (fun s f => cutFrame ns z f (idxSpan s ns z f) false false s) s

/-- Seal and push what a Flush or FUA write waits for (R169, R170, R191). -/
def pushCover (bs : List Cov) (s : State) : State :=
  (coverZones s bs).foldl (fun s z =>
    zoneSettle z.1 z.2 (sealCovered z.1 z.2 ((bs.filter fun b => b.ns = z.1).map Cov.lba) s)) s

/-- Undo the accounting of a write whose data the cache held, in the frame indexes that no full frame has taken (R168): `full` says
which those are not; `keep` as in `unreserveFor`. -/
def unstoreFor (fb b n : Nat) (keep : Bool) (full : Nat → Bool) (z : Zone) : Zone :=
  let fs := (framesOf fb b n).filter (!full ·)
  let z := fs.foldl (fun z f => modFr f (fun r =>
    let k := overlap fb f b n
    { r with admitted := r.admitted - k, arrived := r.arrived - k, sealed := min r.sealed (r.arrived - k),
             hole := if keep then r.hole + k else r.hole }) z) z
  let bytes := (fs.map fun f => overlap fb f b n).foldl (· + ·) 0
  { z with reserved := z.reserved - (bytes + 64 * (fs.filter fun f => (frOf z f).admitted = 0).length) }

/-- Discard an aborted FUA write that waits for durability (R168): the cache keeps none of its data, its reservation goes as far as it
stands, and what a frame, or the page map, has already taken reads as zeros (log 23). -/
def discardStored (c : Cmd) (s : State) : State :=
  match nsOf s c.e.nsid with
  | none => s
  | some n =>
    let nb := cmdBlocks c.e
    let mine (b : CBlk) : Bool := b.ns = c.e.nsid && b.ver = c.ord && c.lba ≤ b.lba && b.lba < c.lba + nb
    let s' := { s with cache := s.cache.filter fun b => !mine b }
    if ¬ n.zoned then
      dropDead { s' with
        jobs := s.jobs.filter fun e => !e.2.any fun j => j.conv && j.ns = c.e.nsid && j.ver = c.ord,
        conv := s.conv.filter fun e => !(e.1 / 2 ^ 32 = c.e.nsid && e.2.written && e.2.ver = c.ord) }
    else
      let z := lbaZone n c.lba
      let zn := zoneOf s c.e.nsid z
      let off := c.lba - zoneStart n z
      let fb := zoneFb s zn
      let js := zoneJobs s c.e.nsid z
      let full (f : Nat) : Bool := (frOf zn f).live.any (!·.short) || js.any fun e => e.2.idx = f && !e.2.short
      let last := zn.wp = off + nb && !(framesOf fb (4096 * off) (4096 * nb)).any full
      let taken (l : Nat) : Bool := !s.cache.any (fun b => mine b && b.lba = l) || js.any fun e => (l, c.ord) ∈ e.2.takes
      modZone c.e.nsid z (fun zn =>
        let zn := unstoreFor fb (4096 * off) (4096 * nb) (!last) full zn
        let zn := { zn with gone := zn.gone ++ ((List.range nb).map (c.lba + ·)).filter taken }
        if last then { zn with wp := off, st := if zn.st = .full then .implOpen else zn.st, finishing := zn.finishing && zn.st ≠ .full }
        else zn) s'

/-- The last data byte of a write is in the cache (R166, R170): a FUA write waits for durability. -/
def writeCached (c : Cmd) (n : Ns) (s : State) : State :=
  let ns := c.e.nsid
  let nb := cmdBlocks c.e
  let s := cacheData ns c.id.func (now s) c.ord c.gen nb c.lba c.e.data s
  let bs : List Cov := (List.range nb).map fun i => ⟨ns, c.lba + i, c.ord⟩
  let fua := bitOf c.e.cdw12 30
  let s := modCmd c.id (fun c => { c with phase := .durable, cover := bs }) s
  let s := if n.zoned then
      let z := lbaZone n c.lba
      let s := arrive ns z (c.lba - zoneStart n z) nb s
      if fua then s else finish c.id okSt c.dw0 c.dw1 s
    else (List.range nb).foldl (fun s i => convJob ns (c.lba + i) c.ord s) (if fua then s else finish c.id okSt 0 0 s)
  let s := if n.zoned then zoneSettle ns (lbaZone n c.lba) s else s
  let s := if fua ∧ n.zoned then pushCover [⟨ns, c.lba + nb - 1, c.ord⟩] s else s
  fuaCheck (wbUpdate s)

end Sys2Proof.Machine
end

