-- ==== Sys2Proof/Machine/NvmIo.lean ====
section
/-!
DEFINITION. The NVMe I/O commands (R129): Flush, Write, Zone Append, Read, Write Zeroes, Dataset Management, Zone Management Send
and Receive (chapters 07, 09), the offload jobs (R225 to R231) and the arrival of write data (R19). Each command acts when it has
been admitted and, on a zone, when its turn at the zone engine has come (R152).
-/
namespace Sys2Proof.Machine

open Sys2Proof

/-! ### Which command, which namespace -/

/-- Whether commands are executed: RUN, QUIESCE, and HALT in the cryptographic error state (R372, R402). -/
def ioServes (s : State) : Bool := s.md.cur = .run || s.md.cur = .quiesce || (s.md.cur = .halt && s.md.haltWhy = 1)

/-- The admitted I/O command `id` with opcode `opc`, when it may start now. -/
def ioCmd (s : State) (id : CmdId) (opc : Nat) : Option Cmd :=
  if ioServes s then
    (cmdOf s id).filter fun c => c.phase = .admitted && c.id.sq ≠ 0 && c.e.opc = opc && !optBad c.id.sq c.e && zoneTurn s c
  else none

/-- The namespace of a command: attached to its function (R126), else the NVMe status of an identifier that is not. -/
def nsCheck (s : State) (c : Cmd) : Except Status Ns :=
  if c.e.nsid = 0 ∨ 4096 < c.e.nsid then .error ⟨0, 0x0B, true⟩ else
  match nsOf s c.e.nsid with
  | some n => if n.owner = some (ownerNo c.id.func) then .ok n else .error invField
  | none => .error invField

/-- LBA Out of Range. -/
def lbaRange : Status := ⟨0, 0x80, true⟩
/-- Access Denied (R309). -/
def accessDenied : Status := ⟨2, 0x86, true⟩

/-- Whether a data command breaks MDTS (R125): more than 2 MiB. -/
def tooLong (e : Sqe) : Bool := 512 < cmdBlocks e

/-- Checks shared by Read and Write: namespace, length, range. -/
def rwCheck (s : State) (c : Cmd) : Except Status Ns :=
  match nsCheck s c with
  | .error st => .error st
  | .ok n => if tooLong c.e then .error invField else if nsCap s n < cmdSlba c.e + cmdBlocks c.e then .error lbaRange else .ok n

/-! ### Write, Zone Append and their data -/

/-- Settle the zone that a write addressed, whose status is now decided (R194). -/
def settleWrite (c : Cmd) (s : State) : State :=
  match nsOf s c.e.nsid with
  | some n => if n.zoned then zoneSettle c.e.nsid (lbaZone n (cmdSlba c.e)) s else s
  | none => s

/-- The outcome of a write at the zone engine; one refused lowers d_dump, so that the cache may be power-safe (R166, R364). -/
def writeRes (c : Cmd) (s : State) (r : WRes) : State :=
  match r with
  | .refuse st => fuaCheck (settleWrite c (finishSt c.id st s))
  | .wait => s
  | .take s => s

/-- Writes are accepted in VENT as well: their data fetches go on (R372). -/
def wrCmd (s : State) (id : CmdId) (opc : Nat) : Option Cmd :=
  if ioServes s ∨ s.md.cur = .vent then
    (cmdOf s id).filter fun c => c.phase = .admitted && c.id.sq ≠ 0 && c.e.opc = opc && !optBad c.id.sq c.e && zoneTurn s c
  else none

/-- Write (R129, R132, R134, R187, R202). -/
def execWrite (id : CmdId) (s : State) : Outcome State Fault Refusal :=
  match wrCmd s id 1 with
  | none => .next s
  | some c => match rwCheck s c with
    | .error st => .next (settleWrite c (finishSt id st s))
    | .ok n => .next (writeRes c s (if n.zoned then zonedWrite c n s else convWrite c n s))

/-- Zone Append (R129, R132, R152, R187). -/
def execZoneAppend (id : CmdId) (s : State) : Outcome State Fault Refusal :=
  match wrCmd s id 0x7D with
  | none => .next s
  | some c => match nsCheck s c with
    | .error st => .next (settleWrite c (finishSt id st s))
    | .ok n =>
      if ¬ n.zoned then .next (finishSt id invOpcode s)
      else if tooLong c.e then .next (settleWrite c (finishSt id invField s))
      else if nsCap s n ≤ cmdSlba c.e then .next (finishSt id lbaRange s)
      else .next (writeRes c s (zonedWrite c n s))

/-- The last data byte of a write reaches the cache (R19, R166, R191, R363). -/
def execWriteDataCached (id : CmdId) (s : State) : Outcome State Fault Refusal :=
  match (cmdOf s id).filter (fun c => c.phase = .fetching && isWrite c.e) with
  | none => .next s
  | some c => match nsOf s c.e.nsid with
    | none => .next s
    | some n => .next (writeCached c n s)

/-! ### Flush (R169, R170) -/

/-- Flush: what it covers was settled at its admission (R169); partial frames that it covers are sealed (R191). -/
def execFlush (id : CmdId) (s : State) : Outcome State Fault Refusal :=
  match ioCmd s id 0 with
  | none => .next s
  | some c =>
    if c.e.nsid = 0xFFFFFFFF then
      .next (pushCover c.cover (modCmd id (fun c => { c with phase := .durable }) s))
    else match nsCheck s c with
      | .error st => .next (finishSt id st s)
      | .ok _ => .next (pushCover c.cover (modCmd id (fun c => { c with phase := .durable }) s))

/-- A Flush completes when everything it covers is durable (R166, R169), or programmed where the ceiling had fallen below d_dump at its
admission (R370); until then its programs are pushed. -/
def execFlushComplete (id : CmdId) (s : State) : Outcome State Fault Refusal :=
  match (cmdOf s id).filter (fun c => c.phase = .durable && c.e.opc = 0 && c.id.sq ≠ 0) with
  | none => .next s
  | some c =>
    if c.cover.all (if c.prog then blkProgrammed s else blkDurable s) then .next (finishSt id okSt (markCovered c.cover s))
    else .next ((coverZones s c.cover).foldl (fun s z => issueZone z.1 z.2 s) s)

/-! ### Read (R166, R402) -/

/-- Whether a Read needs a key: a block under a slot is on media, or lies in a vent record kept by R404. -/
def readNeedsKey (s : State) (c : Cmd) (n : Ns) : Bool :=
  (List.range (cmdBlocks c.e)).any fun i =>
    let lba := cmdSlba c.e + i
    (dataSlot s c.e.nsid lba).isSome && (match blkAns s c.ord c.e.nsid n lba with | .media _ => true | _ => false) ||
    s.hold.pool.any (fun r => r.ns = c.e.nsid && r.lba ≤ lba && lba < r.lba + r.n && r.slot.isSome) && (cachedBlk s c.e.nsid lba).isNone

/-- Whether a Read touches a zone that is Offline (R132). -/
def readOffline (s : State) (c : Cmd) (n : Ns) : Bool :=
  n.zoned && (List.range (lbaZone n (cmdSlba c.e + cmdBlocks c.e - 1) + 1 - lbaZone n (cmdSlba c.e))).any fun i =>
    (zoneOf s c.e.nsid (lbaZone n (cmdSlba c.e) + i)).st = .offline

/-- Whether a Read waits for the rebuild of a frame length table (R328). -/
def readRebuilds (s : State) (c : Cmd) (n : Ns) : Bool :=
  n.zoned && s.dram.rebuild.any fun z => z.1 = c.e.nsid && decide (lbaZone n (cmdSlba c.e) ≤ z.2) &&
    decide (z.2 ≤ lbaZone n (cmdSlba c.e + cmdBlocks c.e - 1))

/-- Read (R129, R132, R148, R166, R177, R202, R309). A lock comes before an Offline zone. A Read may run on into the next zone (DESIGN
CHOICE, log 97), and waits while the table of a zone is rebuilt (R328). -/
def execRead (id : CmdId) (s : State) : Outcome State Fault Refusal :=
  match ioCmd s id 2 with
  | none => .next s
  | some c => match rwCheck s c with
    | .error st => .next (finishSt id st s)
    | .ok n =>
      if readOffline s c n ∧ ¬ rangeLocked s c.ord c.e.nsid (cmdSlba c.e) (cmdBlocks c.e) then .next (finishSt id zoneOffSt s)
      else if s.sec.st = 2 ∧ readNeedsKey s c n then
        .next (finishSt id internalErr (sendData c 0 (zeros (4096 * cmdBlocks c.e)) s))
      else .next (if readRebuilds s c n then s else runRead id n s)

/-! ### Deallocation in conventional namespaces (R129, R202) -/

/-- Blocks [lba, lba + n) of a conventional namespace become deallocated. -/
def deallocate (ns lba n : Nat) (s : State) : State :=
  let hit (l : Nat) : Bool := lba ≤ l && l < lba + n
  let s := cacheDrop ns lba n s
  let s := { s with
    jobs := s.jobs.filter fun e => !e.2.any fun j => j.conv && j.ns = ns && hit j.idx,
    conv := s.conv.filter fun e => !(e.1 / 2 ^ 32 = ns && hit (e.1 % 2 ^ 32)),
    hold := { s.hold with pool := s.hold.pool.filter fun r => !(r.ns = ns && hit r.lba) } }
  wbUpdate (fuaCheck (dropDead s))

/-- Write Zeroes (R129, R309). -/
def execWriteZeroes (id : CmdId) (s : State) : Outcome State Fault Refusal :=
  match ioCmd s id 8 with
  | none => .next s
  | some c => match nsCheck s c with
    | .error st => .next (finishSt id st s)
    | .ok n =>
      if n.zoned then .next (finishSt id invOpcode s)
      else if nsCap s n < cmdSlba c.e + cmdBlocks c.e then .next (finishSt id lbaRange s)
      else if rangeLocked s c.ord c.e.nsid (cmdSlba c.e) (cmdBlocks c.e) then .next (finishSt id accessDenied s)
      else .next (finishSt id okSt (deallocate c.e.nsid (cmdSlba c.e) (cmdBlocks c.e) s))

/-- Ranges of a Dataset Management command: (start LBA, length). -/
def dsmRanges (e : Sqe) : List (Nat × Nat) :=
  (List.range (fld e.cdw10 7 0 + 1)).map fun i => (leAt e.data (16 * i + 8) 8, leAt e.data (16 * i + 4) 4)

/-- Dataset Management (R129, R309): only Deallocate acts. -/
def execDatasetManagement (id : CmdId) (s : State) : Outcome State Fault Refusal :=
  match ioCmd s id 9 with
  | none => .next s
  | some c => match nsCheck s c with
    | .error st => .next (finishSt id st s)
    | .ok n =>
      let rs := dsmRanges c.e
      let dealloc := bitOf c.e.cdw11 2
      if n.zoned then .next (finishSt id invOpcode s)
      else if dealloc && rs.any fun r => nsCap s n < r.1 + r.2 then .next (finishSt id lbaRange s)
      else if rs.any fun r => rangeLocked s c.ord c.e.nsid r.1 r.2 then .next (finishSt id accessDenied s)
      else if ¬ dealloc then .next (finishSt id okSt s)
      else .next (finishSt id okSt (rs.foldl (fun s r => deallocate c.e.nsid r.1 r.2 s) s))

/-! ### Zone Management Send (R175, R176, R195, R309) -/

/-- Zones that Select All addresses for an action: those in the states it acts on. -/
def selStates (act : Nat) (st : ZState) : Bool :=
  match act, st with
  | 1, .implOpen | 1, .explOpen => true
  | 2, .implOpen | 2, .explOpen | 2, .closed => true
  | 3, .closed => true
  | 4, .implOpen | 4, .explOpen | 4, .closed | 4, .full => true
  | 5, .readOnly => true
  | _, _ => false

/-- Zones of a namespace that are not in their initial state. -/
def listedZones (s : State) (ns : Nat) : List Nat := (s.zones.filter fun e => zkeyNs e.1 = ns).map fun e => e.1 % 2 ^ 24

/-- One action on one zone. -/
def zoneAct (act ns z : Nat) (s : State) : Except Status State :=
  match act with
  | 1 => zoneCloseOp ns z s
  | 2 => zoneFinishOp ns z s
  | 3 => zoneOpenOp ns z s
  | 4 => zoneResetOp ns z s
  | _ => zoneOfflineOp ns z s

/-- A Zone Management Send with action `act`, at its place in the zone engine order (R195): it waits until the writes
admitted before it have a decided status. -/
def zoneSend (act : Nat) (id : CmdId) (s : State) : State :=
  match (ioCmd s id 0x79).filter (fun c => zsa c.e = act) with
  | none => s
  | some c => match nsCheck s c with
    | .error st => finishSt id st s
    | .ok n =>
      if ¬ n.zoned then finishSt id invOpcode s
      else if selAll c.e then
        let zs := (listedZones s c.e.nsid).filter fun z => selStates act (zoneOf s c.e.nsid z).st
        if zs.any fun z => zoneWriting s c.e.nsid z c.ord then s
        else if zs.any fun z => rangeLocked s c.ord c.e.nsid (zoneStart n z) (zszeBlocks n) then finishSt id (vendorSt 8) s
        else finishSt id okSt (zs.foldl (fun s z => match zoneAct act c.e.nsid z s with | .ok s => s | .error _ => s) s)
      else
        let z := lbaZone n (cmdSlba c.e)
        if nsCap s n ≤ cmdSlba c.e then finishSt id lbaRange s
        else if cmdSlba c.e ≠ zoneStart n z then finishSt id invField s
        else if zoneWriting s c.e.nsid z c.ord then s
        else if rangeLocked s c.ord c.e.nsid (zoneStart n z) (zszeBlocks n) then finishSt id (vendorSt 8) s
        else match zoneAct act c.e.nsid z s with
          | .ok s => finishSt id okSt s
          | .error st => finishSt id st s

/-- Close Zone (R176, R181, R195). -/
def execZoneClose (id : CmdId) (s : State) : Outcome State Fault Refusal := .next (zoneSend 1 id s)

/-- Finish Zone (R193, R195). -/
def execZoneFinish (id : CmdId) (s : State) : Outcome State Fault Refusal := .next (zoneSend 2 id s)

/-- Open Zone (R131, R176, R195). -/
def execZoneOpen (id : CmdId) (s : State) : Outcome State Fault Refusal := .next (zoneSend 3 id s)

/-- Reset Zone (R195). -/
def execZoneReset (id : CmdId) (s : State) : Outcome State Fault Refusal := .next (zoneSend 4 id s)

/-- Offline Zone (R175). -/
def execZoneOffline (id : CmdId) (s : State) : Outcome State Fault Refusal := .next (zoneSend 5 id s)

/-! ### Zone Management Receive (R185, R200) -/

/-- ZCAP of a zone in blocks (R185); of a zone that left Empty and has no band, what it was then (DESIGN CHOICE, log 99). -/
def zoneCap (s : State) (n : Ns) (zn : Zone) : Nat :=
  if zn.band.isSome then zcapOf zn.dcap (zoneFb s zn) n else if zn.st = .empty then ((leastCap s n).map Prod.fst).getD 0 else zn.zcap

/-- ZNS code of a zone state. -/
def zstCode : ZState → Nat
  | .empty => 1 | .implOpen => 2 | .explOpen => 3 | .closed => 4 | .readOnly => 13 | .full => 14 | .offline => 15

/-- Whether the partial frame's data is all sealed. -/
def zoneSealed (s : State) (zn : Zone) : Bool :=
  let part := zn.frames.filter fun e => 0 < e.2.admitted && e.2.admitted + e.2.hole < zoneFb s zn
  part ≠ [] && part.all fun e => e.2.sealed = e.2.admitted && e.2.live.isSome

/-- The 64-byte descriptor extension (R200). -/
def zoneExt (s : State) (n : Ns) (zn : Zone) : List Byte :=
  let head : Nat := if zn.band.isSome then (headroom s zn).toNat
    else ((leastCap s n).map fun m => m.2.1 - (m.2.2 + 64)).getD 0
  leBytes 8 head ++ leBytes 8 zn.stored ++ leBytes 8 zn.reserved ++ leBytes 8 (if zn.band.isSome then zn.dcap else 0) ++
  leBytes 8 zn.dead ++ leBytes 2 (zn.prof.getD 0xFFFF) ++
  leBytes 1 ((zn.prof.map fun p => leAt (profOf s p).desc 2 1).getD 0xFF) ++
  leBytes 1 (b2n zn.autofin + 2 * b2n (zoneSealed s zn) + 4 * b2n zn.warned) ++ leBytes 4 zn.seals ++
  leBytes 8 (zn.frames.filter fun e => e.2.live.isSome).length ++ zeros 8

/-- A zone descriptor of the ZNS layout, with its extension. -/
def zoneDesc (s : State) (ns : Nat) (n : Ns) (z : Nat) : List Byte :=
  let zn := zoneOf s ns z
  leBytes 1 2 ++ leBytes 1 (16 * zstCode zn.st) ++ leBytes 1 (0x80 + b2n zn.autofin) ++ zeros 5 ++
  leBytes 8 (zoneCap s n zn) ++ leBytes 8 (zoneStart n z) ++ leBytes 8 (zoneStart n z + zn.wp) ++ zeros 32 ++ zoneExt s n zn

/-- Whether a zone matches the reporting option of a Zone Management Receive. -/
def reportMatch (opt : Nat) (st : ZState) : Bool :=
  match opt with
  | 0 => true
  | 1 => st = .empty
  | 2 => st = .implOpen
  | 3 => st = .explOpen
  | 4 => st = .closed
  | 5 => st = .full
  | 6 => st = .readOnly
  | _ => st = .offline

/-- Report data: the header and as many descriptors as the length holds. -/
def reportData (s : State) (c : Cmd) (n : Ns) : List Byte :=
  let len := 4 * (c.e.cdw12.toNat + 1)
  let first := lbaZone n (cmdSlba c.e)
  let zs := ((List.range (n.size - first)).map (· + first)).filter fun z => reportMatch (fld c.e.cdw13 15 8) (zoneOf s c.e.nsid z).st
  let fit := zs.take ((len - 64) / 128)
  let count := if bitOf c.e.cdw13 16 then fit.length else zs.length
  (leBytes 8 count ++ zeros 56 ++ (fit.map fun z => zoneDesc s c.e.nsid n z).flatten).take len

/-- A Zone Management Receive with action `act` (R129, R200): its report passes the generation check (R166). -/
def zoneReceive (act : Nat) (id : CmdId) (s : State) : State :=
  match (ioCmd s id 0x7A).filter (fun c => fld c.e.cdw13 7 0 = act) with
  | none => s
  | some c => match nsCheck s c with
    | .error st => finishSt id st s
    | .ok n =>
      if ¬ n.zoned then finishSt id invOpcode s
      else if 7 < fld c.e.cdw13 15 8 ∨ 2097152 < 4 * (c.e.cdw12.toNat + 1) then finishSt id invField s
      else if nsCap s n ≤ cmdSlba c.e then finishSt id lbaRange s
      else finishSt id okSt (sendData c 0 (reportData s c n) s)

/-- Report Zones (R200). -/
def execReportZones (id : CmdId) (s : State) : Outcome State Fault Refusal := .next (zoneReceive 0 id s)

/-- Extended Report Zones (R200). -/
def execExtendedReportZones (id : CmdId) (s : State) : Outcome State Fault Refusal := .next (zoneReceive 1 id s)

/-! ### Offload jobs (R225 to R231) -/

/-- Codec Job Paused. -/
def jobPaused : Status := vendorSt 0x0A

/-- Result of a job: its status, input consumed and output produced. -/
structure JobEnd where
  st : Status := okSt
  used : Nat := 0
  out : List Byte := []
  deriving DecidableEq, Repr

/-- Frames of an encode job's input, as (offset, length): whole ones, then with MORE 0 the remainder (R227). -/
def encFrames (fb len : Nat) (more : Bool) : List (Nat × Nat) :=
  (List.range (len / fb)).map (fun i => (i * fb, fb)) ++ if more ∨ len % fb = 0 then [] else [(len / fb * fb, len % fb)]

/-- Frames that a decode job decodes, as (offset, stored length), with the status that ends the job after them: the steps 1 to 5 of
R228 on one frame after the other. A frame in clear whose check word is wrong has a malformed header (R248). The first argument bounds
the frames. -/
def decFrames (limit before : Nat) (inp : List Byte) (space : Nat) : Nat → Nat → Nat → List (Nat × Nat) × Status
  | 0, _, _ => ([], okSt)
  | k + 1, used, out =>
    let f := inp.drop used
    let hdr := bytesAt f 0 48
    let len := 16 * leAt hdr 8 2
    let n := leAt hdr 4 4
    let enc := bitOf (w32 (leAt hdr 1 1)) 3
    if f = [] ∨ f.length < len then ([], okSt)
    else if malformed hdr ∨ n = 0 ∨ 65536 < n then ([], vendorSt 2)
    else if ¬ enc ∧ (f.take len).drop (len - 16) ≠ checkTrailer hdr ((f.take (len - 16)).drop 48) then ([], vendorSt 2)
    else if enc then ([], invField)
    else if limit ≠ 0 ∧ limit < before + out + n then ([], vendorSt 9)
    else if space < out + n then ([], jobPaused)
    else
      let (fs, st) := decFrames limit before inp space k (used + len) (out + n)
      ((used, len) :: fs, st)

/-- One frame of the input. -/
def offInput (c : Cmd) (f : Nat × Nat) : List Byte := bytesAt (c.e.data.drop f.1) 0 f.2

/-- A frame of an encode job as it is written to the output (R227); a failed verification stores it raw (R219). -/
def offFrame (o : Off) (c : Cmd) (i : Nat) : List Byte :=
  let f := o.frames.getD i (0, 0)
  offloadFrame o.pno o.desc (c.e.cdw14.toNat + f.1) (i ∈ o.raw) (offInput c f)

/-- Original bytes of a frame of a decode job; none when its check fails (R221). -/
def offPlain (o : Off) (c : Cmd) (i : Nat) : Option (List Byte) :=
  let f := offInput c (o.frames.getD i (0, 0))
  match decodePayload (f.take 48) ((f.take (f.length - 16)).drop 48) with
  | .ok b => if i ∈ o.bad then none else some b
  | .fail _ => none

/-- The job's outcome from its frames, in input order: encode pauses at the frame that does not fit (R229), decode ends at the frame
whose check failed (R228 step 6). -/
def offRun (o : Off) (c : Cmd) (space : Nat) : List Nat → JobEnd → JobEnd
  | [], r => { r with st := o.stop }
  | i :: t, r =>
    let n := (o.frames.getD i (0, 0)).2
    if o.dec then match offPlain o c i with
      | none => { r with st := vendorSt 2 }
      | some b => offRun o c space t { r with used := r.used + n, out := r.out ++ b }
    else
      let f := offFrame o c i
      if space < r.out.length + f.length then { r with st := jobPaused }
      else offRun o c space t { r with used := r.used + n, out := r.out ++ f }

/-- Fields of an offload command that R226 checks for both. -/
def offloadBad (e : Sqe) : Bool :=
  let resume := bitOf e.cdw13 16
  1 < e.psdt || e.cdw2 ≠ 0 || e.cdw3 ≠ 0 ||
  2097152 < e.cdw10.toNat || e.cdw11.toNat < 4096 || 2097152 < e.cdw11.toNat || e.cdw11.toNat % 4 ≠ 0 ||
  (!resume && (e.cdw14 ≠ 0 || e.cdw15 ≠ 0)) ||
  0xFFFFFFFF < e.cdw14.toNat + e.cdw10.toNat || 0xFFFFFFFF < e.cdw15.toNat + e.cdw11.toNat

/-- Whether an outcome of a job reports its progress in the completion dwords (R229). -/
def jobReports (st : Status) : Bool := st = okSt || st = jobPaused || st = vendorSt 9

/-- End an offload job: its output passes the generation check (R229). -/
def endJob (c : Cmd) (r : JobEnd) (s : State) : State :=
  let s := sendData c 0 r.out s
  if jobReports r.st then
    finish c.id r.st (w32 (c.e.cdw14.toNat + r.used)) (w32 (c.e.cdw15.toNat + r.out.length)) s
  else finishSt c.id r.st s

/-- Change an offload job. -/
def modOff (n : Nat) (g : Off → Off) (s : State) : State := { s with offs := tset none s.offs n ((tget none s.offs n).map g) }

/-- An offload job whose frames have all been through their coders ends; one whose command is gone leaves nothing (R231). -/
def offCheck (n : Nat) (s : State) : State :=
  match tget none s.offs n with
  | none => s
  | some o =>
    if o.left ≠ [] then s else
    let s := { s with offs := tset none s.offs n none }
    match (cmdOf s o.id).filter fun c => c.gen = o.gen && c.phase = .reading with
    | none => s
    | some c => endJob c (offRun o c c.e.cdw11.toNat (List.range o.frames.length) {}) s

/-- Section for a frame of an offload job: the most free coders that could start it, those that the frames handed out already will
take left out, lowest number first (R209). -/
def offSec (s : State) (dec : Bool) : Nat :=
  let mine (o : Op) : Bool := match o.work with | .offEnc _ _ => true | .offDec _ _ => true | _ => false
  let taken (k : Nat) : Nat := (s.ops.filter fun o => o.q = .codec k && mine o).length
  mostSec (fun k => freeCoders s k (if dec then 0 else reserveOf s k) - taken k) (openSecs s)

/-- Hand a job's frame to an engine. -/
def offHand (n : Nat) (o : Off) (c : Cmd) (i : Nat) (s : State) : State :=
  queueOp (newOp (if o.dec then .offDec n i else .offEnc n i) (.codec (offSec s o.dec)) (cmdCls c) c.time c.id.func c.gen s) s

/-- Start an offload job: every frame that needs a coder is handed out (R208, R209). -/
def offStart (o : Off) (c : Cmd) (s : State) : State :=
  let n := s.nextJob
  let s := modCmd c.id (fun c => { c with phase := .reading }) { s with nextJob := n + 1, offs := tset none s.offs n (some o) }
  offCheck n (o.left.foldl (fun s i => offHand n o c i s) s)

/-- Checks of the namespace of an offload command: an identifier outside 1 to 4,096 is out of range (R225, R226). -/
def offNs (s : State) (c : Cmd) : Except Status Ns :=
  if c.e.nsid = 0 ∨ 4096 < c.e.nsid then .error invField else nsCheck s c

/-- Codec Encode (R225 to R227, R229). -/
def execCodecEncode (id : CmdId) (s : State) : Outcome State Fault Refusal :=
  match ioCmd s id 0x83 with
  | none => .next s
  | some c => match offNs s c with
    | .error st => .next (finishSt id st s)
    | .ok n =>
      match hintEnabled s n (fld c.e.cdw13 5 0) with
      | none => .next (finishSt id invField s)
      | some pno =>
        let desc := (profOf s pno).desc
        let fb := frameBytes (profOf s pno)
        if offloadBad c.e ∨ c.e.cdw10 = 0 ∨ c.e.cdw12 ≠ 0 ∨ c.e.mptr % 4 ≠ 0 ∨ c.e.cdw14.toNat % fb ≠ 0 ∨
           fld c.e.cdw13 15 6 ≠ 0 ∨ fld c.e.cdw13 31 18 ≠ 0 then .next (finishSt id invField s)
        else
          let fs := encFrames fb c.e.cdw10.toNat (bitOf c.e.cdw13 17)
          .next (offStart { id := id, gen := c.gen, dec := false, pno := pno, desc := desc, frames := fs, stop := okSt,
                            left := if leAt desc 1 1 = 0 then [] else List.range fs.length } c s)

/-- Codec Decode (R225, R226, R228, R229). -/
def execCodecDecode (id : CmdId) (s : State) : Outcome State Fault Refusal :=
  match ioCmd s id 0x87 with
  | none => .next s
  | some c => match offNs s c with
    | .error st => .next (finishSt id st s)
    | .ok _ =>
      if offloadBad c.e ∨ c.e.cdw10.toNat < 16 ∨ c.e.cdw10.toNat % 16 ≠ 0 ∨ c.e.mptr % 16 ≠ 0 ∨ c.e.cdw14.toNat % 16 ≠ 0 ∨
         fld c.e.cdw13 15 0 ≠ 0 ∨ fld c.e.cdw13 31 17 ≠ 0 then .next (finishSt id invField s)
      else
        let inp := bytesAt c.e.data 0 c.e.cdw10.toNat
        let (fs, st) := decFrames c.e.cdw12.toNat c.e.cdw15.toNat inp c.e.cdw11.toNat 32769 0 0
        let coded (i : Nat) : Bool := leAt inp ((fs.getD i (0, 0)).1 + 1) 1 % 2 = 0
        .next (offStart { id := id, gen := c.gen, dec := true, frames := fs, stop := st,
                          left := (List.range fs.length).filter coded } c s)

end Sys2Proof.Machine
end

