-- ==== Sys2Proof/Machine/Witness.lean ====
section
/-!
DEFINITION. The shared configuration set and the witness mark (R443 to R447), and the dirty ceiling (R367, R368).
-/
namespace Sys2Proof.Machine

open Sys2Proof

/-! ### The shared configuration set (R443) -/

/-- LEVEL and HYST of one threshold. -/
def thrBytes (t : Thr) : List Byte := leBytes 2 (BitVec.ofInt 16 t.level).toNat ++ leBytes 1 t.hyst

/-- The DRAM map class: mode, then masks and homes in force, 0 unless the mode is native. -/
def mapBytes (d : Dram) : List Byte :=
  leBytes 1 d.modeCur ++ ((List.range 8).map fun i =>
    let (m, h) := d.map.getD i (0, 0)
    if d.modeCur = 0 then leBytes 5 m.toNat ++ leBytes 1 h else zeros 6).flatten

/-- One profile. -/
def profBytes (p : Profile) : List Byte := if p.enabled then [1] ++ bytesAt p.desc 0 256 else zeros 257

/-- Insert a pair in lexicographic order. -/
def insPair (x : Nat × Nat) : List (Nat × Nat) → List (Nat × Nat)
  | [] => [x]
  | y :: t => if x.1 < y.1 ∨ (x.1 = y.1 ∧ x.2 ≤ y.2) then x :: y :: t else y :: insPair x t

/-- Hint bindings: a record for each, by NSID and then hint. -/
def hintBytes (s : State) : List Byte :=
  let recs := (s.nss.map fun e => match e.2 with
    | some n => (n.hints.foldl (fun l h => insPair h l) []).map fun h => leBytes 4 e.1 ++ leBytes 1 h.1 ++ [0] ++ leBytes 2 h.2
    | none => []).flatten
  leBytes 4 recs.length ++ recs.flatten

/-- One lock range. -/
def lockBytes (l : LockRange) : List Byte :=
  if l.defined then [1] ++ zeros 3 ++ leBytes 4 l.ns ++ leBytes 8 l.start ++ leBytes 8 l.len else zeros 24

/-- The shared configuration set, serialised. -/
def sharedSet (s : State) : List Byte :=
  leBytes 4 s.flt.epoch.toNat ++ leBytes 4 ((s.fw.running.map Img.version).getD 0).toNat ++
  thrBytes s.therm.warn ++ thrBytes s.therm.throt ++ thrBytes s.therm.shut ++ leBytes 2 s.therm.thrPace ++
  mapBytes s.dram ++ leBytes 1 (regFld s 0x60028 7 0) ++
  ((List.range 1024).map fun p => profBytes (profOf s p)).flatten ++ hintBytes s ++
  ((List.range 256).map fun i => lockBytes (tget {} s.locks i)).flatten

/-- The mark: the first 16 bytes of the digest, byte 0 least significant. -/
def witnessMark (s : State) : BitVec 128 := BitVec.ofNat 128 (leNat ((sha384 (sharedSet s)).take 16))

/-! ### Match, mismatch and settle (R446) -/

/-- FLT_WSTAT.MATCH. -/
def witnessMatch (s : State) : Bool := s.flt.expValid && s.flt.computed = s.flt.expected

/-- A mismatch outlasted SETTLE: the flag, and one event an episode. -/
def mismatchPost (s : State) : State :=
  let s' := { s with flt := { s.flt with mismatch := true, posted := true, settle := none } }
  if s.flt.posted then s' else postEvent 7 2 0xC0 0 s'

/-- After either mark was evaluated; `changed`: one of them changed, which restarts the settle time. -/
def witnessEval (changed : Bool) (s : State) : State :=
  if witnessMatch s ∨ ¬ s.flt.expValid then { s with flt := { s.flt with settle := none, posted := false } }
  else if ¬ changed ∧ (s.flt.settle.isSome ∨ s.flt.posted) then s
  else if regFld s 0xA000C 9 0 = 0 then mismatchPost s
  else { s with flt := { s.flt with settle := some (now s) } }

/-- The mark is recomputed (R444); not while the core domain is off. -/
def witness (s : State) : State :=
  if ¬ coreOn s then s else
  let m := witnessMark s
  witnessEval (m ≠ s.flt.computed) { s with flt := { s.flt with computed := m, seq := s.flt.seq + 1 } }

/-- Whether the tag of FLT_TAG_CTRL refuses an enable (R447). -/
def tagRefuses (s : State) : Bool := regFld s 0xA0010 0 0 = 1 && regGet s 0xA0014 ≠ s.flt.epoch

/-! ### The dirty ceiling (R367, R368) -/

/-- CMEAS counts in the capacitance once a test has run. -/
def capNow (s : State) : Nat := if s.hold.tested then min s.hold.cap s.hold.cmeas else s.hold.cap

/-- Lowest of the last four HOLDUP_SENSE readings in mV; 0 before the first. -/
def holdupLow (s : State) : Nat := s.hk.holdup.foldl min (s.hk.holdup.headD 0)

/-- The ceiling in MiB for a capacitance in mF, a voltage and VMIN in mV, the costs in mJ, and the DRAM capacity in
MiB, in exact arithmetic: 0.8 e = 4 c (v² − vmin²) / 10^7 mJ. -/
def ceilFor (c v vmin fixed per dramMib : Nat) : Nat :=
  let e := if vmin < v then 4 * c * (v * v - vmin * vmin) else 0
  min ((e - fixed * 10 ^ 7) * 1024 / (per * 10 ^ 7)) (min 65536 (dramMib / 4))

/-- Rank capacity in GiB of a density code (R310). -/
def rankGib (density : Nat) : Nat := if density = 1 then 24 else if density = 2 then 32 else 16

/-- dram_mib of R368: a rank retired in place does not count (R423). -/
def dramMib (s : State) : Nat :=
  1024 * (s.dram.capGib - rankGib s.dram.density * (s.dram.ranks.filter fun e => e.2.st = 6).length)

/-- The ceiling that the present figures give; with no bank it is 64 GiB (R365). -/
def ceilOf (s : State) : Nat :=
  if s.hold.cap = 0 then 65536
  else ceilFor (capNow s) (holdupLow s) s.hold.vmin (regFld s 0x30214 31 16) (regFld s 0x30214 15 0) (dramMib s)

/-- Put the ceiling in force. -/
def setCeil (s : State) : State := { s with hold := { s.hold with ceil := ceilOf s } }

/-- LOW is evaluated when a test ends and when 0502h changes CAP (R367); cause 5 of Replace Request follows it. -/
def lowEval (s : State) : State :=
  let low := s.hold.tested && 2 * s.hold.cmeas < s.hold.cap
  let s := { s with hold := { s.hold with low := low } }
  if low then causeOn 5 s else causeOff 5 s

end Sys2Proof.Machine
end

