-- ==== Sys2Proof/Machine/Dram.lean ====
section
/-!
DEFINITION. The DRAM controller (chapter 14): the map's invertibility (R313, R314), drift checks and retraining (R318), refresh
(R319 to R321), poisoned lines (R326, R328), retirement and migration (R325, R327, R329, R330).
-/
namespace Sys2Proof.Machine

open Sys2Proof

/-! ### The map (R313, R314) -/

/-- Reduce a row by a basis of rows, each with its leading bit. -/
def gfReduce (basis : List (Nat × Nat)) (r : Nat) : Nat :=
  basis.foldl (fun r b => if r.testBit b.1 then r ^^^ b.2 else r) r

/-- Highest set bit of a row below 8. -/
def leadBit (r : Nat) : Nat := ((List.range 8).filter r.testBit).foldl max 0

/-- Index of the first row that is a GF(2) combination of those before it (R314). -/
def firstDependent : List Nat → List (Nat × Nat) → Nat → Option Nat
  | [], _, _ => none
  | r :: t, basis, i =>
    let q := gfReduce basis r
    if q = 0 then some i
    else
      let b := leadBit q
      firstDependent t (basis.map (fun e => if e.2.testBit b then (e.1, e.2 ^^^ q) else e) ++ [(b, q)]) (i + 1)

/-- Rows of the matrix: each mask restricted to the home positions of the same outputs. -/
def mapRows (m : List (BitVec 40 × Nat)) : List Nat :=
  m.map fun o => ((List.range m.length).filter fun j => o.1.getLsbD (m.getD j (0, 0)).2).foldl (fun a j => a + 2 ^ j) 0

/-- The first output whose row depends on those before it; none when the masks are invertible. -/
def mapSingular (m : List (BitVec 40 × Nat)) : Option Nat := firstDependent (mapRows m) [] 0

/-- The stored map: (mask, home) of output i (R313). -/
def storedMap (s : State) : List (BitVec 40 × Nat) :=
  (List.range 8).map fun i =>
    let lo := regGet s (0x80010 + 8 * i)
    let hi := regGet s (0x80014 + 8 * i)
    (BitVec.ofNat 40 (lo.toNat / 64 * 64 + fld hi 7 0 * 2 ^ 32), fld hi 21 16)

/-- Outputs computed with `n` channels in use (R313). -/
def mapReduced (n : Nat) (m : List (BitVec 40 × Nat)) : List (BitVec 40 × Nat) :=
  if n = 4 then m else if n = 2 then m.take 2 ++ m.drop 3 else m.take 1 ++ m.drop 3

/-- The bit that a fixed order takes for output i (R315). -/
def fixedBits : Nat → List Nat
  | 1 => [6, 7, 8, 9, 10, 11, 18, 19]
  | 2 => [12, 13, 14, 15, 16, 17, 18, 19]
  | 3 => [6, 13, 14, 15, 16, 17, 18, 19]
  | 4 => [8, 6, 7, 9, 11, 13, 10, 12]
  | _ => []

/-- Column bits of a fixed order, bit 0 first (R315). -/
def fixedCols : Nat → List Nat
  | 1 => [12, 13, 14, 15, 16, 17]
  | 2 => [6, 7, 8, 9, 10, 11]
  | 3 => [7, 8, 9, 10, 11, 12]
  | 4 => [14, 15, 16, 17, 18, 19]
  | _ => []

/-- Rows per bank of a density code (R310). -/
def rowsPerBank (density : Nat) : Nat := if density = 1 then 98304 else if density = 2 then 131072 else 65536

/-- Where an address lies. -/
structure DLoc where
  sub : Nat
  chan : Nat
  bg : Nat
  ba : Nat
  col : Nat
  row : Nat
  rank : Nat
  deriving DecidableEq, Repr

/-- The number that a list of bits stands for, bit 0 first. -/
def bitsVal (bs : List Bool) : Nat := bs.foldr (fun b a => b2n b + 2 * a) 0

/-- XOR of the bits of an address that a mask selects. -/
def parityOf (a : Nat) (m : BitVec 40) : Bool := (List.range 40).foldl (fun p i => p ^^ (a.testBit i && m.getLsbD i)) false

/-- The address map (R313, R315): device physical address to location. -/
def dramLoc (d : Dram) (a : Nat) : DLoc :=
  let n := d.chans.length
  let used := if n = 4 then [0, 1, 2, 3, 4, 5, 6, 7] else if n = 2 then [0, 1, 3, 4, 5, 6, 7] else [0, 3, 4, 5, 6, 7]
  let fixed := fixedBits d.modeCur
  let home (i : Nat) : Nat := if d.modeCur = 0 then (d.map.getD i (0, 0)).2 else fixed.getD i 0
  let out (i : Nat) : Bool :=
    if i ∉ used then false
    else if d.modeCur = 0 then parityOf a (d.map.getD i (0, 0)).1 else a.testBit (home i)
  let colSet := fixedCols d.modeCur
  let gone := used.map home
  let restBits := ((List.range 34).map (· + 6)).filter fun b => b ∉ gone
  let cols := if d.modeCur = 0 then restBits.take 6 else colSet
  let rest := bitsVal ((restBits.filter (· ∉ cols)).map a.testBit)
  let rows := rowsPerBank d.density
  { sub := b2n (out 0), chan := 2 * b2n (out 2) + b2n (out 1), bg := bitsVal [out 3, out 4, out 5],
    ba := bitsVal [out 6, out 7], col := bitsVal (cols.map a.testBit), row := rest % rows, rank := rest / rows }

/-! ### Service -/

/-- Whether the DRAM is in service outside START: not in self-refresh, not off. During an exit from DOZE or WATCH it takes the drift
checks of that exit (R331). -/
def dramOn (s : State) : Bool :=
  exitRuns s || s.md.cur = .run || s.md.cur = .quiesce || s.md.cur = .vent || (s.md.cur = .halt && s.md.haltWhy ≠ 2)

/-- Whether a rank passes training (R317): every data and check bit has an eye of at least 0.30 UI and 40 mV. -/
def rankPasses (p : DramProbe) (r : Nat) : Bool := let e := p.eyes.getD r (0, 0); decide (30 ≤ e.1) && decide (40 ≤ e.2)

/-- Whether accesses to a rank are served now: a rank that retrains makes them wait (R318). -/
def rankServes (s : State) (r : Nat) : Bool := dramOn s && rankLive (rankOf s r).st && !(rankOf s r).retraining

/-- Channel of a device rank. -/
def rankChan (r : Nat) : Nat := r / 4

/-- Device ranks of a channel. -/
def chanRanks (c : Nat) : List Nat := [4 * c, 4 * c + 1, 4 * c + 2, 4 * c + 3]

/-- Start waiting retrains of a channel, one rank at a time (R318). -/
def rankTrainNext (c : Nat) (s : State) : State :=
  if (chanRanks c).any (fun r => (rankOf s r).retraining) then s else
  match (chanRanks c).find? fun r => (rankOf s r).wantRetrain with
  | some r => modRank r (fun k => { k with wantRetrain := false, retraining := true }) s
  | none => s

/-- A rank needs to retrain. -/
def rankTrain (r : Nat) (s : State) : State :=
  rankTrainNext (rankChan r) (modRank r (fun k => { k with wantRetrain := !k.retraining || k.wantRetrain }) s)

/-- Whether a rank's drift check is due (R318, R331): DRMC_TRAIN.INTERVAL ms after the last, with Tj 10 °C or more from its last
training, or after an exit from DOZE or WATCH. -/
def rankDriftDue (s : State) (r : Nat) : Bool :=
  (rankOf s r).checkDue || (rankOf s r).lastCheck + 1000000 * regFld s 0x80064 31 16 ≤ now s || 80 ≤ (s.therm.last - (rankOf s r).lastTj).natAbs

/-- A drift check of a rank (R318). -/
def execDramDriftCheck (r drift : Nat) (s : State) : Outcome State Fault Refusal :=
  if ¬ dramOn s ∨ ¬ rankLive (rankOf s r).st ∨ (rankOf s r).retraining ∨ ¬ rankDriftDue s r then .next s else
  let s := modRank r (fun k => { k with lastCheck := now s, checkDue := false }) s
  .next (if regFld s 0x80064 15 8 < drift then rankTrain r s else s)

/-- Every rank is to retrain in turn (R318). -/
def rankTrainAll (s : State) : State :=
  if ¬ dramOn s then s else ((List.range 16).filter fun r => rankLive (rankOf s r).st).foldl (fun s r => rankTrain r s) s

/-- DRMC_TRAIN.RETRAIN (R318). -/
def execDramRetrain (s : State) : Outcome State Fault Refusal := .next (rankTrainAll s)

/-- A rank's retrain ends (R318). -/
def execRankRetrainComplete (r : Nat) (s : State) : Outcome State Fault Refusal :=
  .next (if ¬ (rankOf s r).retraining then s else
    rankTrainNext (rankChan r) (modRank r (fun k => { k with retraining := false, lastTj := s.therm.last, lastCheck := now s, checkDue := false }) s))

/-- The MR4 readings of every rank, every 1 ms (R319, R321): the outstanding count is unchanged by a change of rate. -/
def execMr4Poll (hot : BitVec 16) (s : State) : Outcome State Fault Refusal :=
  .next (if ¬ dramOn s ∨ now s < s.dram.mr4At + 1000000 then s else
    ((List.range 16).filter fun r => rankLive (rankOf s r).st).foldl (fun s r =>
      modRank r (fun k => { k with hot := hot.getLsbD r, doubled := hot.getLsbD r && regFld s 0x80060 9 9 = 1 }) s)
      { s with dram := { s.dram with mr4At := now s } })

/-- A write of DRMC_REF_CTRL: while DOUBLE_EN is 0 no rank refreshes at twice the rate, while it is 1 those do whose MR4 last read above
85 °C (R319). -/
def refCtrlWrite (s : State) : State :=
  { s with dram := { s.dram with ranks := tmap {} (fun _ k => { k with doubled := k.hot && regFld s 0x80060 9 9 = 1 }) s.dram.ranks } }

/-- Refresh interval of a rank, in ns (R319). -/
def refInterval (k : Rank) : Nat := if k.doubled then 975 else 1950

/-- Postponed refreshes are issued at the first moment the rank has no access waiting (R320). -/
def refreshFree (s : State) (k : Rank) : Rank := if k.freeAt ≤ now s then { k with outstanding := 0 } else k

/-- A refresh of a rank falls due, an interval after the last (R320, R321): postponed while accesses wait, `busy` ns from now on, and fewer
than POSTPONE_MAX are outstanding; at the limit the outstanding ones are issued and this one waits; with no access waiting all are
issued. -/
def execRefreshDue (r busy : Nat) (s : State) : Outcome State Fault Refusal :=
  .next (if ¬ dramOn s ∨ ¬ rankLive (rankOf s r).st ∨ now s < (rankOf s r).refAt + refInterval (rankOf s r) then s else
    let n := (refreshFree s (rankOf s r)).outstanding
    let m := if busy = 0 ∨ regFld s 0x80060 8 8 = 0 then 0 else if n < regFld s 0x80060 3 0 then n + 1 else 1
    modRank r (fun k => { k with outstanding := m, refAt := now s, freeAt := now s + busy }) s)

/-! ### Check bits (R322, R323) -/

/-- Whether a byte has odd weight. -/
def oddByte (b : Byte) : Bool := (List.range 8).foldl (fun p i => p ^^ b.getLsbD i) false

/-- Columns of data bits that make the code of R322 with the unit columns of the check bits: 32 distinct bytes of odd weight,
none of them a unit. -/
def dataColsOk (l : List Byte) : Bool :=
  l.length = 32 && l.all (fun b => oddByte b && !((List.range 8).any fun i => b = BitVec.twoPow 8 i)) && decide l.Nodup

/-- The check columns of the data bits: the device's own where they form the code, which they do on every device (R322; DEDUCED,
log 51). -/
def dataCols : List Byte :=
  let own := (List.range 32).map Config.dramCheck
  if dataColsOk own then own
  else (((List.range 256).map (BitVec.ofNat 8)).filter fun b => oddByte b && !((List.range 8).any fun i => b = BitVec.twoPow 8 i)).take 32

/-- The 40 check columns of a codeword: the data bits', then a unit for each check bit (R322). -/
def checkCols : List Byte := dataCols ++ (List.range 8).map (BitVec.twoPow 8)

/-- Fold constants as R322 asks for them: 34 distinct non-zero bytes of even weight, no one and no two of which leave the
poison mark 0Fh. -/
def foldOk (l : List Byte) : Bool :=
  l.length = 34 && l.all (fun a => !oddByte a && a ≠ 0 && a ≠ 0x0F && l.all fun b => a ^^^ b ≠ 0x0F) && decide l.Nodup

/-- The constants of the address fold, bit 6 first: the device's own where they are as R322 asks (DEDUCED, log 51). -/
def foldConsts : List Byte :=
  let own := (List.range 34).map Config.dramFold
  if foldOk own then own
  else (((List.range 256).map (BitVec.ofNat 8)).filter fun b => !oddByte b && b ≠ 0 && !b.getLsbD 0).take 34

/-- The XOR of the entries of a list that a predicate picks by index. -/
def xorPicked (l : List Byte) (p : Nat → Bool) : Byte :=
  (List.range l.length).foldl (fun x i => if p i then x ^^^ l.getD i 0 else x) 0

/-- The address fold of line address bits [39:6] (R322). -/
def addrFold (a : BitVec 34) : Byte := xorPicked foldConsts a.getLsbD

/-- The check byte of 32 data bits written to a line (R322): the code's, XORed with the fold. -/
def checkByte (d : W32) (a : BitVec 34) : Byte := xorPicked dataCols d.getLsbD ^^^ addrFold a

/-- The syndrome of a codeword as read from a line address: the fold of the address read is removed (R322). Bits 32 to 39 are
the check byte. -/
def syndrome (cw : BitVec 40) (a : BitVec 34) : Byte := xorPicked checkCols cw.getLsbD ^^^ addrFold a

/-- How a line reads (R323, R326): the poison mark, or the number of its codewords that were corrected and whether one is
uncorrectable. -/
inductive LineRes where
  | poisoned
  | read (corrected : Nat) (bad : Bool)
  deriving DecidableEq, Repr

/-- The 16 codewords of a line by their syndromes (R323, R326). -/
def lineRes (syn : List Byte) : LineRes :=
  if syn.all (· = 0x0F) then .poisoned
  else .read (syn.filter fun b => b ∈ checkCols).length (syn.any fun b => b ≠ 0 && b ∉ checkCols)

/-- The syndromes of a faulty line: the syndrome is linear, so what was written drops out and the bad bits, the fold of the
address bits that differ and the mark of a poisoned line remain (R322, R326). -/
def faultSyn (f : LineFault) (marked : Bool) : List Byte :=
  (List.range 16).map fun i => syndrome (f.flips.getD i 0) f.off ^^^ (if marked && f.off = 0 then 0x0F else 0)

/-- The migration of a channel. -/
def migOf (s : State) (c : Nat) : MigCh := tget {} s.dram.mig c
/-- Change the migration of a channel. -/
def setMig (c : Nat) (m : MigCh) (s : State) : State := { s with dram := { s.dram with mig := tset {} s.dram.mig c m } }

/-- Segment of 4 KiB that a line of a rank lies in (R327). -/
def lineSeg (line : Nat) : Nat := line / 64

/-- Whether a line of rank r still bears the mark of the fill (R326): a ready spare is full of poisoned lines, but for those that a
migration into it has copied, below its frontier. -/
def fillMarked (s : State) (r : Nat) (f : LineFault) : Bool :=
  let m := migOf s (rankChan r)
  (rankOf s r).st = 2 && !(m.active && m.dst = r % 4 && (decide (lineSeg f.line < m.frontier) || f.spareClean))

/-- Whether a line of rank r bears the poison mark. -/
def marked (s : State) (r : Nat) (f : LineFault) : Bool := decide ((r, f.line) ∈ s.dram.poison) || fillMarked s r f

/-- How rank r's faulty line reads. -/
def faultRes (s : State) (r : Nat) (f : LineFault) : LineRes := lineRes (faultSyn f (marked s r f))

/-- Whether a line reads uncorrectably, or as poisoned. -/
def lineBad (s : State) (r : Nat) (f : LineFault) : Bool :=
  match faultRes s r f with
  | .poisoned => true
  | .read _ bad => bad

/-! ### Poisoned lines (R326, R328) -/

/-- What a poisoned line does to the data it held. A page of the table cache is dropped, and the working metadata reloaded or rebuilt at
once, which writes the line whole; an active zone's frame length table is rebuilt, and its reads wait (`tableRebuilt`). -/
def poisonData (held : LineData) (s : State) : State :=
  match held with
  | .dirty ns lba =>
    { s with cache := s.cache.map fun b => if b.ns = ns ∧ b.lba = lba then { b with poisoned := true } else b }
  | .clean ns lba =>
    (s.cmds.filter fun c => c.phase = .reading && c.e.nsid = ns && c.lba ≤ lba && lba < c.lba + cmdBlocks c.e).foldl
      (fun s c => failLbas c.id (vendorSt 0x0B) [lba] s) s
  | .job id =>
    match cmdOf s id with
    | some c => if c.phase = .decided then s else finishSt id (vendorSt 0x0B) s
    | none => s
  | .tableCache page => clearPoison (fun h => h = held) { s with fltc := s.fltc.filter (· ≠ page) }
  | .zoneTable ns z => { s with dram := { s.dram with rebuild := if (ns, z) ∈ s.dram.rebuild then s.dram.rebuild else (ns, z) :: s.dram.rebuild } }
  | .working copied => clearPoison (fun h => h = held) (if copied then s else healthLog { time := now s, typ := 6 } s)
  | .nothing => s

/-- The frame length tables under rebuild are rebuilt from the metadata journal: their lines are written whole, and reads of their zones
go on (R328). -/
def tableRebuilt (s : State) : State :=
  let z := s.dram.rebuild
  let s := { s with dram := { s.dram with rebuild := [] } }
  clearPoison (fun h => match h with | .zoneTable ns n => (ns, n) ∈ z | _ => false) s

/-- Poison a line of a rank at once. -/
def poisonLine (r : Nat) (f : LineFault) (s : State) : State :=
  poisonData f.held { s with dram := { s.dram with
    poison := if (r, f.line) ∈ s.dram.poison then s.dram.poison else (r, f.line) :: s.dram.poison,
    holds := ((r, f.line), f.held) :: s.dram.holds.filter fun e => e.1 ≠ (r, f.line) } }

/-! ### Retirement and migration (R325, R327, R329, R330) -/

/-- Set a rank's DRMC_RETIRED bit, durable with the retirement (R325, R330). -/
def setRetired (r : Nat) (s : State) : State :=
  let v := putFld (regGet s 0x8008C) r r 1
  let s := regPut s 0x8008C v
  { s with nor := tset 0 s.nor 0x8008C (v ^^^ regDefault 0x8008C) }

/-- A rank of the channel in a state. -/
def rankIn (s : State) (c st : Nat) : Option Nat := (chanRanks c).find? fun r => (rankOf s r).st = st

/-- Retired in place (R329). -/
def retireInPlace (r : Nat) (s : State) : State := causeOn 1 (modRank r (fun k => { k with st := 6 }) s)

/-- A mailbox RANK_MIGRATE of rank r ends, with the lines that its copy poisoned. -/
def migMbx (r code lines : Nat) (s : State) : State :=
  match s.mbx.run with
  | some m => if m.opc = 0x0602 ∧ 4 * (m.args.getD 0 0).toNat + (m.args.getD 1 0).toNat = r then
      (if code = 0 then mbxDone [(0, w32 lines)] s else mbxFail code 0x11 r s) else s
  | none => s

/-- Begin the next migration of a channel: a rank in state 4h with no migration, and a spare; with no spare left it is retired in place,
and a RANK_MIGRATE for it ends with code 05h (R329). -/
def migNext (c : Nat) (s : State) : State :=
  if (migOf s c).active then s else
  match rankIn s c 4, rankIn s c 2, rankIn s c 3 with
  | some r, some t, _ => setMig c { active := true, src := r % 4, dst := t % 4 } s
  | some r, none, some t => setMig c { active := true, src := r % 4, dst := t % 4, waitFill := true } s
  | some r, none, none => migMbx r 5 0 (retireInPlace r s)
  | none, _, _ => s

/-- Spares of a channel that no migration has taken: ready, or filling. -/
def freeSpare (s : State) (c : Nat) : Bool :=
  let m := migOf s c
  (chanRanks c).any fun r => ((rankOf s r).st = 2 || (rankOf s r).st = 3 && !m.active) && !(m.active && m.dst = r % 4)

/-- A data rank is taken out of service (R325): migrated when its channel holds a spare, else retired in place. -/
def retireRank (r cause : Nat) (s : State) : State :=
  if (rankOf s r).st ≠ 1 then s else
  let c := rankChan r
  let s := setRetired r (modRank r (fun k => { k with cause := cause }) s)
  let s := healthLog { time := now s, typ := 9, cause := cause, subj := r } s
  if freeSpare s c then migNext c (modRank r (fun k => { k with st := 4 }) s)
  else retireInPlace r s

/-- Power requests held for a migration go on (R330). -/
def migReleased (s : State) : State := if s.dram.mig.any (fun e => e.2.active) then s else afterLong s

/-- An uncorrectable codeword in a spare (R330): the spare is retired, a migration into it stops, and the old rank is
retired in place. -/
def spareFails (r : Nat) (s : State) : State :=
  let c := rankChan r
  let m := migOf s c
  let s := setRetired r (modRank r (fun k => { k with st := 5, cause := 1 }) s)
  let s := healthLog { time := now s, typ := 9, cause := 1, subj := r } s
  if m.active ∧ m.dst = r % 4 then
    let old := 4 * c + m.src
    migReleased (migMbx old 5 0 (migNext c (retireInPlace old (setMig c {} s))))
  else s

/-! ### Accesses (R323, R327) -/

/-- Ranks that an access to a line of rank r goes to (R327): below the frontier of a migration of r the spare; at or above it a read goes
to r, a write to both. -/
def accessRanks (s : State) (r line : Nat) (write : Bool) : List Nat :=
  let c := rankChan r
  let m := migOf s c
  if ¬ (m.active ∧ m.src = r % 4 ∧ ¬ m.waitFill) then [r]
  else if lineSeg line < m.frontier then [4 * c + m.dst]
  else if write then [r, 4 * c + m.dst] else [r]

/-- Whether a write of a line of rank r is held until the copy has passed its segment (R327). -/
def writeHeld (s : State) (r line : Nat) : Bool :=
  let m := migOf s (rankChan r)
  m.active && !m.waitFill && m.src = r % 4 && lineSeg line = m.frontier

/-- The corrected line is written back, in every rank that a write of it goes to, unless a write to it is queued (R323). -/
def writeBack (r : Nat) (f : LineFault) (s : State) : State :=
  if f.queued then s else
  { s with dram := { s.dram with backs := s.dram.backs ++ (accessRanks s r f.line true).filterMap fun k =>
      if (k, f.line) ∈ s.dram.backs then none else some (k, f.line) } }

/-- Queued write-backs reach their ranks: one of a rank that retrains waits, and one of the segment under copy (R318, R327). -/
def backsDone (s : State) : State :=
  { s with dram := { s.dram with backs := s.dram.backs.filter fun e => !rankServes s e.1 || writeHeld s e.1 e.2 } }

/-- One correctable codeword (R323, R325). -/
def countCe (r : Nat) (s : State) : State :=
  let s := modRank r (fun k => { k with ce := satInc 0xFFFFFFFF k.ce,
                                        ceHour := now s :: k.ceHour.filter fun t => now s < t + 3600000000000 }) s
  let lim := regFld s 0x80070 31 16
  if lim ≠ 0 ∧ lim < (rankOf s r).ceHour.length then retireRank r 3 s else s

/-- An uncorrectable codeword (R323, R325, R328, R330). -/
def lineLost (r : Nat) (f : LineFault) (s : State) : State :=
  if (rankOf s r).st = 2 ∨ (rankOf s r).st = 3 then spareFails r s else retireRank r 1 (poisonLine r f s)

/-- One faulty line that a read of a rank meets: a poisoned line is poison and no error, each codeword corrected counts, and one
that cannot be corrected loses the line (R322, R323, R326); a corrected line is written back (R323). -/
def lineFault (r : Nat) (s : State) (f : LineFault) : State :=
  match faultRes s r f with
  | .poisoned => if marked s r f then s else poisonLine r f s
  | .read n bad => Nat.repeat (countCe r) n (if bad then lineLost r f s else if n ≠ 0 then writeBack r f s else s)

/-- A patrol scrub of a rank (R322, R323, R325, R328): a line below the frontier of a migration is read in the spare (R327). SCRUB_HOURS 0
stops the patrol; a rank that retrains makes it wait (R318). -/
def execPatrolScrub (r : Nat) (faults : List LineFault) (s : State) : Outcome State Fault Refusal :=
  .next (if ¬ rankServes s r ∨ regFld s 0x80070 7 0 = 0 then s
    else faults.foldl (fun s f => lineFault ((accessRanks s r f.line false).headD r) s f) s)

/-- A command/address parity error (R324, R325): the replay loses nothing; the rank retires. -/
def execDramCaParityAlert (r : Nat) (s : State) : Outcome State Fault Refusal :=
  .next (if ¬ dramOn s ∨ ¬ rankLive (rankOf s r).st then s
    else retireRank r 2 (modRank r (fun k => { k with replays := k.replays + 1 }) s))

/-- A spare has been filled with poisoned lines (R326): ready; a migration that waited for it begins. -/
def execSpareFillComplete (r : Nat) (s : State) : Outcome State Fault Refusal :=
  if (rankOf s r).st ≠ 3 then .next s else
  let c := rankChan r
  let m := migOf s c
  let s := modRank r (fun k => { k with st := 2 }) s
  .next (if m.active ∧ m.dst = r % 4 then setMig c { m with waitFill := false } s else s)

/-- The copy meets a faulty line of the old rank (R327). -/
def copyFault (src dst : Nat) (s : State) (f : LineFault) : State :=
  match faultRes s src f with
  | .poisoned => if marked s src f then s else poisonLine dst f s
  | .read n bad => Nat.repeat (countCe src) n (if bad && !f.spareClean then poisonLine dst f s else s)

/-- A migration's frontier reaches the end of the rank (R327): the spare takes the old rank's place. It pauses in VENT and
waits for a spare still filling (R326, R330). -/
def execRankMigrationComplete (c : Nat) (faults : List LineFault) (s : State) : Outcome State Fault Refusal :=
  let m := migOf s c
  let src := 4 * c + m.src
  let dst := 4 * c + m.dst
  if ¬ m.active ∨ m.waitFill ∨ ¬ rankServes s src ∨ ¬ rankServes s dst ∨ s.md.cur = .vent then .next s else
  let lost := (faults.filter fun f => lineBad s src f && !f.spareClean).length
  let s := faults.foldl (copyFault src dst) s
  let moved (p : Nat × Nat) : Nat × Nat := if p.1 = src ∧ ¬ faults.any (fun f => f.line = p.2 && f.spareClean) then (dst, p.2) else p
  let s := { s with dram := { s.dram with
    poison := (s.dram.poison.map moved).filter fun p => p.1 ≠ src,
    holds := (s.dram.holds.map fun e => (moved e.1, e.2)).filter fun e => e.1.1 ≠ src,
    backs := s.dram.backs.filter fun p => p.1 ≠ src } }
  let s := modRank dst (fun k => { k with st := 1 }) (modRank src (fun k => { k with st := 5 }) s)
  let s := setMig c { src := m.src, dst := m.dst, frontier := rankGib s.dram.density * 262144 } s
  .next (migReleased (migMbx src 0 lost (migNext c s)))

/-! ### What goes on by itself -/

/-- Whether a channel's migration copies now (R326, R327, R330). -/
def migRuns (s : State) (c : Nat) (m : MigCh) : Bool :=
  m.active && !m.waitFill && s.md.cur ≠ .vent && rankServes s (4 * c + m.src) && rankServes s (4 * c + m.dst)

/-- A migration copies for `dt` ns: its frontier moves by a segment of 4 KiB at 2 GiB/s, up to the last segment, whose copy
RANK_MIGRATION_COMPLETE reports (R327; DESIGN CHOICE, log 101). -/
def migAdvance (total dt : Nat) (m : MigCh) : MigCh :=
  { m with ran := m.ran + dt, frontier := max m.frontier (min ((m.ran + dt) * 524288 / 1000000000) (total - 1)) }

/-- What the DRAM controller does in `dt` ns: postponed refreshes of ranks with no access waiting, write-backs, rebuilt tables, and the
copying of migrations. -/
def dramTick (dt : Nat) (s : State) : State :=
  if ¬ dramOn s then s else
  let s := tableRebuilt (backsDone s)
  let total := rankGib s.dram.density * 262144
  { s with dram := { s.dram with
    ranks := tmap {} (fun _ k => refreshFree s k) s.dram.ranks,
    mig := tmap {} (fun c m => if migRuns s c m then migAdvance total dt m else m) s.dram.mig } }

end Sys2Proof.Machine
end

