-- ==== Sys2Proof/Machine/Ladder.lean ====
section
/-!
DEFINITION. The recovery ladder of a page read (R300 to R303): its rungs at the die, the band-parity rebuild after them, what each kind of
read does with the page or without it, and the refresh of blocks that needed deep recovery.
-/
namespace Sys2Proof.Machine

open Sys2Proof

/-! ### Blocks that are refreshed (R285, R303) -/

/-- Take a block on the same LUN and copy a position's block to it (R285, R303), where one is erased and no copy is under way. -/
def moveBlk (ns z p l : Nat) (kind : RelKind) (s : State) : State :=
  if (relAt s ns z p).isSome then s
  else match pickBlk s l false with
    | some k => relocate ns z p kind (l, k) s
    | none => s

/-- Begin the refresh of a zone's blocks that wait for one, where an erased block stands (R303). -/
def wornRefresh (ns z : Nat) (s : State) : State :=
  match (zoneOf s ns z).band with
  | none => s
  | some b => b.worn.foldl (fun s p => if lunOk s (b.pos.getD p (0, 0)).1 then moveBlk ns z p (b.pos.getD p (0, 0)).1 .refresh s else s) s

/-- A page of the block `at'` at a band position needed step 3 or 4: the block is refreshed (R303). One that is being copied from, or has
left the band, is not. -/
def wornMark (ns z p : Nat) (at' : Nat × Nat) (s : State) : State :=
  if (zoneOf s ns z).band.any fun b => b.pos.getD p (0, 0) = at' then
    wornRefresh ns z (modZone ns z (fun zn => { zn with band := zn.band.map fun b => { b with worn := insNat p b.worn } }) s)
  else s

/-! ### Rungs (R301) -/

/-- Block that a read addresses. -/
def readBlk (s : State) (w : Work) : Nat :=
  match w with
  | .lunRead _ _ b | .idxRead _ b _ | .moveRead _ _ b | .groupRead _ _ b | .probe b => b
  | .relRead n _ => ((tget none s.rels n).map fun r => r.src.2).getD 0
  | _ => 0

/-- CHU_ECC_CTRL of a LUN's channel. -/
def eccCtrl (s : State) (l : Nat) : BitVec 32 := regGet s (chuBase (lunChan l) + 0x1C)

/-- The first read-retry set, where RETRY_MAX allows one. -/
def firstRetry (s : State) (l : Nat) : Option Rung := if fld (eccCtrl s l) 11 8 = 0 then none else some (.retry 0)

/-- The rung after one on which a codeword failed, up to SOFT_MAX and RETRY_MAX; none after the last (R301). -/
def nextRung (s : State) (l : Nat) : Rung → Option Rung
  | .hard => if fld (eccCtrl s l) 1 0 = 0 then firstRetry s l else some (.soft 3)
  | .soft n => if n < 2 * fld (eccCtrl s l) 1 0 + 1 then some (.soft (n + 2)) else firstRetry s l
  | .retry k => if k + 1 < fld (eccCtrl s l) 11 8 then some (.retry (k + 1)) else none

/-- The read-retry set in force on the die as a read starts (R301): that of its rung, or the one that succeeded on its block last, which is
tried first; else the set stays. -/
def readSet (l : Nat) (o : Op) (s : State) : State :=
  let u := lunOf s l
  let want := match o.rung with | .retry k => k + 1 | .hard => (blkOf u (readBlk s o.work)).retry | .soft _ => 0
  if want = 0 then s else modLun l (fun u => { u with retrySet := want }) s

/-- Count the codewords that decoded on a rung (R301), and keep the read-retry set that did it. -/
def rungCount (l : Nat) (o : Op) (got : Nat) (s : State) : State :=
  match o.rung with
  | .hard => s
  | .soft _ => modChan (lunChan l) (fun c => { c with soft := satAdd 0xFFFFFFFF c.soft got }) s
  | .retry k =>
    if got = 0 then s
    else modBlk l (readBlk s o.work) (fun x => { x with retry := k + 1 }) (modChan (lunChan l) (fun c => { c with retry := satAdd 0xFFFFFFFF c.retry got }) s)

/-- Count codewords that no step recovers. -/
def cwFail (l n : Nat) (s : State) : State := modChan (lunChan l) (fun c => { c with failed := satAdd 0xFFFFFFFF c.failed n }) s

/-- Whether the read reached step 3. -/
def deepRung : Rung → Bool
  | .retry _ => true
  | _ => false

/-! ### What a rebuild gives (R302) -/

/-- A rebuild has read every page of its row: the page is theirs XORed (R302). -/
def rebDone (n : Nat) (r : Reb) (s : State) : State :=
  let s := rebDrop (fun x => x = r) { s with rebs := tset none s.rebs n none }
  let s := match r.op.q with
    | .lun l => modChan (lunChan l) (fun c => { c with rebuild := satAdd 0xFFFFFFFF c.rebuild 1 }) s
    | _ => s
  match r.who with
  | .frame j k => pageRebuilt j k s
  | .tag j k => pageRebuilt j k s
  | .index j => indexGot j s
  | .move j k => moveGot j k s
  | .row m row => if (tget none s.rels m).isSome then relRowProg m row s else s

/-- A frame read whose tag did not verify, and whose pages cannot be rebuilt, fails (R275). -/
def tagFail (n : Nat) (s : State) : State :=
  match tget none s.rjobs n with
  | none => s
  | some r => failR n (vendorSt 3) (modCip r.sec (fun c => { c with authFail := satInc 0xFFFFFFFF c.authFail }) s)

/-- A page cannot be recovered (R303): what waited for it does without. -/
def whoFail (who : RebFor) (s : State) : State :=
  match who with
  | .frame j _ => pageLost j s
  | .tag j _ => tagFail j s
  | .index j => failR j ureSt s
  | .move j _ => moveLost j s
  | .row m row => match tget none s.rels m with
    | some r => relRowProg m row (rowLost r.ns r.zone row r.pos s)
    | none => s

/-- A rebuild fails: a page of its row failed step 3, or is beyond reach (R302, R303). -/
def rebFail (n : Nat) (s : State) : State :=
  match tget none s.rebs n with
  | none => s
  | some r =>
    let s := { s with rebs := tset none s.rebs n none, ops := s.ops.filter fun o => match o.work with | .groupRead m _ _ => m ≠ n | _ => true }
    whoFail r.who (match r.op.q with | .lun l => cwFail l r.op.cws.length s | _ => s)

/-- The page of one position of a rebuild's row is at hand. -/
def rebGot (n p : Nat) (s : State) : State :=
  match tget none s.rebs n with
  | none => s
  | some r =>
    let r := { r with left := r.left.filter (· ≠ p) }
    if r.left = [] then rebDone n r s else modReb n (fun _ => r) s

/-- Rebuild the page of operation `o` from band parity, or fail it with the codewords `o.cws` (R301 step 4). -/
def rebTry (l ns z row p : Nat) (who : RebFor) (o : Op) (s : State) : State :=
  match (zoneOf s ns z).band with
  | none => whoFail who (cwFail l o.cws.length s)
  | some b =>
    if ¬ rebMay s ns z b row p then whoFail who (cwFail l o.cws.length s)
    else
      let m := s.nextJob
      let s := rebStart ns z row p who o s
      if rebReads b row p = [] then match tget none s.rebs m with | some r => rebDone m r s | none => s else s

/-- Rebuild every page of a frame once, after its tag did not verify (R275). -/
def rebTag (n : Nat) (b : Band) (r : RJob) (s : State) : State :=
  let ks := framePages b r.off16 r.len16
  ks.foldl (fun s k =>
    if (tget none s.rjobs n).isNone then s else
    let (row, p) := b.pages.getD k (0, 0)
    let (l, blk) := pageLoc s r.ns r.zone b k
    rebTry l r.ns r.zone row p (.tag n k) { rOp (.lunRead n k blk) (.lun l) r s with cws := spanCws b k r.off16 r.len16 } s)
    (modR n (fun r => { r with rebuilt := true, stage := .lun, pages := ks, key := [], bound := false }) s)

/-! ### The end of a read at the die (R301) -/

/-- Whether a frame read's job is stale (R24): its function's generation has moved on. -/
def staleR (s : State) (r : RJob) : Bool := r.gen ≠ genOf s r.func

/-- Place in the band of the page that a read gives: (namespace, zone, row, position). -/
def readPlace (s : State) (w : Work) : Option (Nat × Nat × Nat × Nat) :=
  let at' (ns z k : Nat) : Option (Nat × Nat × Nat × Nat) :=
    (zoneOf s ns z).band.map fun b => let (row, p) := b.pages.getD k (0, 0); (ns, z, row, p)
  match w with
  | .lunRead n k _ => (tget none s.rjobs n).bind fun r => if r.held = [] then at' r.ns r.zone k else none
  | .idxRead n _ copy => if copy then none else (tget none s.rjobs n).bind fun r =>
      if r.held ≠ [] then none else
      let zn := zoneOf s r.ns r.zone
      zn.band.bind fun b => at' r.ns r.zone (indexPg zn b (r.idxLeft.headD 0))
  | .moveRead n k _ => (tget none s.jobs n).bind fun j => at' j.ns j.src.1 k
  | .groupRead n q _ => (tget none s.rebs n).map fun r => (r.ns, r.zone, r.row, q)
  | .relRead n row => (tget none s.rels n).map fun r => (r.ns, r.zone, row, r.pos)
  | _ => none

/-- Refresh the block of a read that reached step 3 or 4 (R303). -/
def readWorn (l : Nat) (o : Op) (s : State) : State :=
  match readPlace s o.work with
  | some (ns, z, _, p) => wornMark ns z p (l, readBlk s o.work) s
  | none => s

/-- A page is at hand: what its read was for goes on. A stale frame read ends (R24). -/
def readGot (o : Op) (s : State) : State :=
  match o.work with
  | .lunRead n k _ => match tget none s.rjobs n with
    | some r => if staleR s r then endR n r.ids s else pageGot n k s
    | none => s
  | .idxRead n _ _ => match tget none s.rjobs n with
    | some r => if staleR s r then endR n r.ids s else indexGot n s
    | none => s
  | .moveRead n k _ => moveGot n k s
  | .groupRead n q _ => rebGot n q s
  | .relRead n row => if (tget none s.rels n).isSome then relRowProg n row s else s
  | _ => s

/-- What a page is wanted for, of a read that climbed its rungs in vain; a page of a rebuild ends the rebuild. -/
def readWho (w : Work) : Option RebFor :=
  match w with
  | .lunRead n k _ => some (.frame n k)
  | .idxRead n _ _ => some (.index n)
  | .moveRead n k _ => some (.move n k)
  | .relRead n row => some (.row n row)
  | _ => none

/-- Steps 1 to 3 failed for the codewords `o.cws` (R301): band parity rebuilds the page; the copy of an index page leaves the band's page
(R199); a page of a rebuild's own row ends that rebuild (R302). -/
def readDeep (l : Nat) (o : Op) (s : State) : State :=
  match o.work with
  | .groupRead n _ _ => rebFail n s
  | .idxRead n _ true => readIndex n false (cwFail l o.cws.length s)
  | w => match readWho w, readPlace s w with
    | some who, some (ns, z, row, p) => rebTry l ns z row p who o s
    | some who, none => whoFail who (cwFail l o.cws.length s)
    | none, _ => s

/-- Whether error recovery of a read's frame has reached its time limit (R137). -/
def readLate (s : State) (w : Work) : Bool :=
  match w with
  | .lunRead n _ _ => (tget none s.rjobs n).any fun r => r.limit.any (· < now s)
  | _ => false

/-- A read whose recovery time is over ends (R137): the data itself is not lost. -/
def readTimed (l : Nat) (o : Op) (s : State) : State :=
  match o.work with
  | .lunRead n _ _ => failR n ureSt (cwFail l o.cws.length s)
  | _ => s

/-- A read at the die ends; `oks` says of each codeword it was to decode whether it did (R300, R301). The codewords that did not climb the
next rung, at the class of the read. -/
def readEnd (l : Nat) (o : Op) (oks : List Bool) (s : State) : State :=
  let left := ((o.cws.zip oks).filter fun e => !e.2).map Prod.fst
  let s := rungCount l o (o.cws.length - left.length) s
  let s := if deepRung o.rung then readWorn l o s else s
  if left = [] then readGot o s
  else if readLate s o.work then readTimed l { o with cws := left } s
  else match nextRung s l o.rung with
    | some g => queueOp { o with rung := g, cws := left } s
    | none => readDeep l { o with cws := left } (readWorn l o s)

end Sys2Proof.Machine
end

