-- ==== Sys2Proof/Machine/Sanitize.lean ====
section
/-!
DEFINITION. Sanitize (R471): its start at one instant, its erases and its end.
-/
namespace Sys2Proof.Machine

open Sys2Proof

/-- Whether a sanitize with this target acts on a namespace. -/
def sanHits (target ns : Nat) : Bool := target = 0xFFFFFFFF || target = ns

/-- Zones of the target namespaces that the table lists: (namespace, zone). -/
def sanZones (s : State) (target : Nat) : List (Nat × Nat) :=
  (s.zones.filter fun e => sanHits target (zkeyNs e.1)).map fun e => (zkeyNs e.1, e.1 % 2 ^ 24)

/-- Step 1 of R471: cache, staging and vent pool data of the target go, with their reservations and poisoned-block
entries. -/
def sanDrop (target : Nat) (s : State) : State :=
  let hit := sanHits target
  wbUpdate <| fuaCheck <| dropDead { s with
    cache := s.cache.filter fun b => !hit b.ns,
    jobs := s.jobs.filter fun e => !e.2.any fun j => hit j.ns,
    hold := { s.hold with pool := s.hold.pool.filter fun r => !hit r.ns },
    zones := tmap {} (fun k z => if hit (zkeyNs k) then { z with reserved := 0, poisoned := [], finishing := false } else z) s.zones,
    conv := tmap {} (fun k c => if hit (k / 2 ^ 32) then { c with poisoned := false } else c) s.conv }

/-- Slots named by profiles attached to a target namespace. -/
def sanSlots (s : State) (target k : Nat) : Bool :=
  s.nss.any fun e => sanHits target e.1 && e.2.any fun n => n.hints.any fun h => profSlot (profOf s h.2) = some k

/-- Whether a zone's frames are stored without encryption. -/
def zoneClearText (s : State) (z : Nat × Nat) : Bool :=
  (zoneOf s z.1 z.2).prof.any fun p => (profSlot (profOf s p)).isNone

/-- Zones and pool bands of the target that steps 2 and 3 erase: for a crypto erase those stored without encryption. -/
def sanErasable (s : State) (action target : Nat) : List (Nat × Nat) :=
  (sanZones s target).filter fun z => action ≠ 1 || zoneClearText s z

/-- The blocks of the copies that run in a zone: what each is copied from still holds the zone's data. -/
def sanCopies (s : State) (z : Nat × Nat) : List (Nat × Nat) :=
  s.rels.flatMap fun e => match e.2 with
    | some r => if r.ns = z.1 ∧ r.zone = z.2 then [r.src, r.dst] else []
    | none => []

/-- Blocks that steps 2 and 3 erase: of the bands, with those of copies under way, and the parameter units with the copies of index
pages (log 49). -/
def sanBlocks (s : State) (action target : Nat) : List (Nat × Nat) :=
  ((sanErasable s action target).flatMap fun z =>
    let zn := zoneOf s z.1 z.2
    (zn.band.map Band.pos).getD [] ++ sanCopies s z ++ (if zn.index = [] then [] else zn.indexCopy.toList)).eraseDups.filter fun p =>
      lunOk s p.1 && (blkOf (lunOf s p.1) p.2).st ≠ .bad

/-- Step 4 of R471: every zone of the target is Empty, every conventional block deallocated; the mailbox command ends. -/
def sanDone (s : State) : State :=
  let t := s.san.target
  let n := (s.nss.filter fun e => sanHits t e.1).length
  let s := (sanZones s t).foldl (fun s z => zoneClear z.1 z.2 s) s
  let s := { s with conv := s.conv.filter fun e => !sanHits t (e.1 / 2 ^ 32),
                    san := { s.san with running := false, outcome := 1, erases := [], total := 0 } }
  match s.mbx.run with
  | some r => if r.opc = 0x0407 then mbxDone [(0, w32 n)] s else s
  | none => s

/-- An erase of the sanitize has ended, or its LUN is gone: MBX_PROGRESS follows, and after the last one the sanitize ends. -/
def sanErased (p : Nat × Nat) (s : State) : State :=
  if ¬ s.san.running ∨ p ∉ s.san.erases then s else
  let left := s.san.erases.filter (· ≠ p)
  let mine := s.mbx.run.any fun r => r.opc = 0x0407
  let s := { s with
    san := { s.san with erases := left },
    mbx := { s.mbx with progress := if mine then 1000 - 1000 * left.length / max 1 s.san.total else s.mbx.progress } }
  if left = [] then sanDone s else s

/-- A zone or pool band that is erased gives up its band and its frames now; it is Empty only at the end (R471 step 4). -/
def sanStrip (z : Nat × Nat) (s : State) : State :=
  modZone z.1 z.2 (fun zn => { zn with band := none, frames := [], index := [], indexCopy := none, indexed := false, lostLbas := [],
                                       keyLost := [], gone := [] }) (zoneStrip z.1 z.2 s)

/-- Queue the erase of a block that none waits for. -/
def sanQueue (s : State) (p : Nat × Nat) : State :=
  if s.ops.any (fun o => o.work = .erase p.1 p.2) || s.runs.any (fun r => r.op.work = .erase p.1 p.2) || !lunOk s p.1 then s
  else giveBlk p.1 p.2 s

/-- Steps 1 to 3 of R471: the data goes, the keys go (crypto erase), the erases are queued; begun again after a START, every block
that it has not reported erased is among them (R98). -/
def sanStart (action target : Nat) (s : State) : State :=
  let s := sanDrop target s
  let s := if action = 1 then recordVault (zeroizeSlots (sanSlots s target) s) else s
  let bs := (s.san.erases.filter (fun p => s.san.running && lunOk s p.1) ++ sanBlocks s action target).eraseDups
  let zs := sanErasable s action target
  let s := zs.foldl (fun s z => sanStrip z s) s
  let s := { s with
    conv := s.conv.filter fun e => !zs.any fun z => z.1 = e.1 / 2 ^ 32 && e.2.band = z.2,
    san := ⟨action, target, true, 0, bs, bs.length⟩ }
  let s := bs.foldl sanQueue s
  if bs = [] then sanDone s else s

end Sys2Proof.Machine
end

