-- ==== Sys2Proof/Machine/MediaRows.lean ====
section
/-!
DEFINITION. Dispatch (R159 to R161, R206, R291, R292, R384), geyser promotion (R163, R164), and the ends of the operations it
starts: coders (R217 to R222), cipher engines (R249, R271 to R275), LUN reads, programs and erases (R287 to R304), and the
training of flash channels (R277 to R279).
-/
namespace Sys2Proof.Machine

open Sys2Proof

/-! ### Ready operations (R159, R160) -/

/-- Class of a frame read's operation: Urgent when a promoted command waits for it (R163). -/
def readCls (s : State) (o : Op) (n : Nat) : DCls :=
  if o.cls = .maintenance then .maintenance else
  match tget none s.rjobs n with
  | none => o.cls
  | some r => if s.cmds.any fun c => c.token && c.id ∈ r.ids then .urgent else r.cls

/-- Class of an offload job's operation: Urgent when its command is promoted (R159, R163). -/
def offCls (s : State) (o : Op) (n : Nat) : DCls :=
  if o.cls ≠ .maintenance ∧ (tget none s.offs n).any (fun x => s.cmds.any fun c => c.token && c.id = x.id && c.gen = x.gen) then .urgent else o.cls

/-- Whether a waiting write-back needs a block of LUN l (R160, R286): no erased one is left there, and a write that opens a band, or a
block that waits for one in a conventional pool, has the LUN in its lane set. -/
def eraseNeeded (s : State) (l : Nat) : Bool :=
  let on (p : Nat) : Bool := l ∈ laneSet (profOf s p)
  freeCount s l = 0 && (s.cmds.any (fun c => c.id.sq ≠ 0 && isWrite c.e && c.phase = .admitted && (nsOf s c.e.nsid).any fun n =>
      n.zoned && (zoneOf s c.e.nsid (lbaZone n (cmdSlba c.e))).prof.isNone && (writeHint s c).any fun h => (hintEnabled s n h).any on) ||
    s.jobs.any fun e => e.2.any fun j => j.conv && j.stage = .order && (!j.move || poolShort s) && on j.prof && (nsOf s j.ns).any fun n =>
      decide ((poolBands s j.ns).length < poolLimit s n (profOf s j.prof)))

/-- Whether an operation is part of a reclaim: the reads of the blocks that it copies, and the programs that carry nothing else, which
class Maintenance marks (R203). -/
def reclaimWork (s : State) (w : Work) : Bool :=
  match w with
  | .moveRead _ _ _ => true
  | .program n _ _ _ | .parity n _ _ _ => (nsOf s n).any (!·.zoned)
  | _ => false

/-- The frame read that a rebuild serves. -/
def rebFrame (s : State) (n : Nat) : Option Nat := (tget none s.rebs n).bind fun r => match r.who with
  | .frame j _ | .tag j _ | .index j => some j
  | .move _ _ | .row _ _ => none
/-- Whether a rebuild serves the copying of a block by reclaim. -/
def rebMoves (s : State) (n : Nat) : Bool := (tget none s.rebs n).any fun r => match r.who with | .move _ _ => true | _ => false

/-- Class with which an operation waits now (R159, R160, R203, R286, R301). -/
def effCls (s : State) (o : Op) : DCls :=
  let wb : DCls := if s.qos.wbHigh then .high else .writeBack
  let kept (reclaims : Bool) : DCls := if o.cls = .maintenance ∧ ¬ (reclaims ∧ poolShort s) then .maintenance else wb
  match o.work with
  | .lunRead n _ _ | .idxRead n _ _ | .decrypt n | .decode n => readCls s o n
  | .offEnc n _ | .offVerify n _ _ _ | .offDec n _ => offCls s o n
  | .erase l _ => if eraseNeeded s l then wb else .maintenance
  | .probe _ => match o.q with | .lun l => if eraseNeeded s l then wb else .maintenance | _ => .maintenance
  | .groupRead n _ _ => match rebFrame s n with | some j => readCls s o j | none => kept (rebMoves s n)
  | .ventTest => .urgent
  | w => kept (reclaimWork s w)

/-- An erase. -/
def isErase : Work → Bool
  | .erase _ _ => true | _ => false

/-- Reads waiting on a LUN. -/
def waitingReads (s : State) (l : Nat) : List Op := s.ops.filter fun o => o.q = .lun l && isRead o.work

/-- Whether a read that addresses block b of LUN l has not ended at its LUN yet: it waits there, or it is one of the reads of a zone
that was reset, of whose band the block was (R296). -/
def readsBlk (s : State) (l b : Nat) : Bool :=
  s.ops.any (fun o => o.q = .lun l && match o.work with | .lunRead _ _ k | .groupRead _ _ k => k = b | _ => false) ||
  s.rjobs.any fun e => e.2.any fun r => (r.stage = .lun || r.stage = .index) && (l, b) ∈ r.held

/-- Whether an erase may start (R286, R296): in class Maintenance only while no read waits and fewer than PRE_ERASED erased blocks are
ready, unless a sanitize, a suspect block or a parameter unit asks for it (R299, R471). -/
def eraseMay (s : State) (l b : Nat) (cls : DCls) : Bool :=
  (cls ≠ .maintenance || waitingReads s l = [] && (freeCount s l < regFld s (secBase (lunSec l) + 0x114) 21 16 ||
    (l, b) ∈ s.san.erases || (blkOf (lunOf s l) b).st = .suspect || b ∈ (lunOf s l).par)) &&
  !readsBlk s l b

/-- Whether a program may start: not at a band position whose block is still being copied (R288, R290). -/
def programMay (s : State) (w : Work) : Bool :=
  match w with
  | .program ns z k _ => (zoneOf s ns z).band.all fun b => (relAt s ns z (b.pages.getD k (0, 0)).2).isNone
  | .parity ns z u _ => (relAt s ns z (parPos (u / 256) (u % 256))).isNone
  | _ => true

/-- Whether a LUN may start operation `o` now (R172, R279, R292, R161). -/
def lunMay (s : State) (l : Nat) (o : Op) : Bool :=
  let ch := chanOf s (lunChan l)
  !s.fw.act.any (·.switching) && !ch.retraining && !ch.gated &&
  !s.runs.any (fun r => r.res = .lun l && !r.suspended) &&
  (match lunMain s l with
   | some r => isRead o.work && r.served < regFld s (secBase (lunSec l) + 0x100) 27 24
   | none => true) &&
  (match o.work with | .erase l b => eraseMay s l b (effCls s o) | w => programMay s w)

/-- Whether a coder may start operation `o` now (R206, R22); a verification takes another coder than the encode had (R219). -/
def coderMay (s : State) (k lane c : Nat) (o : Op) : Bool :=
  let res := reserveOf s k
  let decode := match o.work with | .decode _ => true | .offDec _ _ => true | _ => false
  let same := match o.work with | .verify _ l d => l = lane && d = c | .offVerify _ _ l d => l = lane && d = c | _ => false
  !(cipOf s k).fenced && !coderBusy s k lane c && !same &&
  (if decode then lane < res || freeCoders s k 0 = freeCoders s k res else res ≤ lane)

/-- Whether a cipher engine may start operation `o` now: free, not fenced, with a counter value to take for an encryption
(R263), and able to serve in the cryptographic error state (R403). -/
def cipherMay (s : State) (k : Nat) (o : Op) : Bool :=
  !(cipOf s k).fenced && !s.runs.any (fun r => r.res = .cipher k) &&
  (s.sec.st ≠ 2 || k ∈ s.sec.passEng) &&
  (match o.work with
   | .encrypt n => (tget none s.jobs n).any fun j => j.slot.any fun i => (leaseOf s k i).isSome
   | _ => true)

/-- Whether dispatch has stopped for an entry to PS3 or PS4 (R349, R350): once every admitted command has completed, what has started
runs to its end and nothing follows it. -/
def psStops (s : State) : Bool :=
  s.pwr.trans.any fun t => 3 ≤ t.target && (t.drained || (s.cmds.all (fun c => c.phase = .held) && s.fw.act.isNone))

/-- Whether a resource may start an operation. -/
def mayStart (s : State) (r : Resource) (o : Op) : Bool :=
  ioServes s && !psStops s && match r with
    | .lun l => o.q = .lun l && lunMay s l o
    | .coder k lane c => o.q = .codec k && coderMay s k lane c o
    | .cipher k => o.q = .cipher k && cipherMay s k o

/-- First of two operations by class, then age (R159). -/
def before (s : State) (a b : Op) : Bool :=
  let x := clsRank (effCls s a)
  let y := clsRank (effCls s b)
  x < y || (x = y && a.age ≤ b.age)

/-- The operation that a resource starts next (R159). -/
def pickOp (s : State) : List Op → Option Op
  | [] => none
  | o :: t => match pickOp s t with
    | none => some o
    | some p => if before s o p then some o else some p

/-- Remove one operation from a list. -/
def rmOp (o : Op) : List Op → List Op
  | [] => []
  | p :: t => if p = o then t else p :: rmOp o t

/-! ### Dispatch -/

/-- A program on a die: its first after START is preceded by the pulse limit, where one is set and the die takes it (R287). -/
def pulseSet (l : Nat) (s : State) : State :=
  let lim := regFld s (secBase (lunSec l) + 0x118) 7 0
  let u := lunOf s l
  if lim = 0 ∨ ¬ u.pulse ∨ u.pulseSet then s else modLun l (fun u => { u with pulseSet := true, pulseLim := lim }) s

/-- What binding does at the start of an operation: a counter value and key copy (R23, R263), the key of the frame's epoch
(R254), the erase intent (R298), the die's pulse limit (R287), the read-retry set of a read (R301). -/
def startWork (r : Resource) (o : Op) (s : State) : State :=
  match r, o.work with
  | .cipher k, .encrypt n => (bindJob n k s).getD s
  | .cipher _, .decrypt n => match tget none s.rjobs n with
    | none => s
    | some rj =>
      let key := rj.slot.bind fun i => epochKey s i (leAt rj.bytes 44 4)
      match key with
      | some k =>
        let owner := (rj.slot.map fun i => (slotOf s i).owner).getD 0xFFFF
        modR n (fun rj => { rj with bound := true, key := k, owner := owner, epoch := leAt rj.bytes 44 4 }) s
      | none => s
  | .lun _, .erase l b => modBlk l b (fun k => { k with st := .intent, probes := if k.st = .suspect then k.probes + 1 else k.probes }) s
  | .lun l, w => if isRead w then readSet l o s else pulseSet l s
  | _, _ => s

/-- Whether a decrypt can bind no key (R254). -/
def decryptKeyless (s : State) (w : Work) : Option Nat :=
  match w with
  | .decrypt n => match tget none s.rjobs n with
    | some rj => if (rj.slot.bind fun i => epochKey s i (leAt rj.bytes 44 4)).isNone then some n else none
    | none => none
  | _ => none

/-- A suspended operation resumes when it has no more reads to serve (R292), or dispatch has stopped (R349). -/
def lunResume (l : Nat) (s : State) : State :=
  match lunMain s l with
  | none => s
  | some r =>
    if ¬ r.suspended ∨ s.runs.any (fun x => x.res = .lun l && isRead x.op.work) then s
    else if waitingReads s l ≠ [] ∧ r.served < regFld s (secBase (lunSec l) + 0x100) 27 24 ∧ ¬ psStops s then s
    else { s with runs := s.runs.map fun x =>
      if x.res = .lun l ∧ ¬ isRead x.op.work then { x with suspended := false, served := 0, since := now s } else x }

/-- Start operation `o` on a resource; with kerfs in force it first takes one, on LUNs and coders (R384), and binds at its end. -/
def startOp (r : Resource) (o : Op) (s : State) : State :=
  let cls := effCls s o
  let kerf := s.therm.kerf ≠ 0 && (match r with | .cipher _ => false | _ => true)
  let s := { s with ops := rmOp o s.ops }
  let s := if kerf then s else startWork r o s
  { s with runs := s.runs ++ [{ res := r, op := { o with cls := cls }, kerf := kerf, kerfUs := if kerf then s.therm.kerf else 0, since := now s }] }

/-- Ask for leases that waiting encryptions of an engine need (R264). -/
def wantLeases (k : Nat) (s : State) : State :=
  (s.ops.filter fun o => o.q = .cipher k).foldl (fun s o => match o.work with
    | .encrypt n => match (tget none s.jobs n).bind (·.slot) with
      | some i => if (leaseOf s k i).isNone then askLease k i s else s
      | none => s
    | _ => s) s

/-- Status of an internal read that meets a block under erase: ERASE_SUSPENDED, never returned to a host (R297). -/
def eraseSuspended : Status := vendorSt 0x0C

/-- Status with which a read ends before it reaches the die: that of an internal read of a block under erase (R297). -/
def internalSt (s : State) (o : Op) : Option Status :=
  match o.q, o.work with
  | .lun l, .idxRead _ b _ => if erasing s l = some b then some eraseSuspended else none
  | .lun l, .relRead n row => if erasing s l = some (readBlk s (.relRead n row)) then some eraseSuspended else none
  | _, _ => none

/-- The requester of an internal read that ended ERASE_SUSPENDED (R297): an index-page read takes the other copy, a relocation repeats the
read after the erase ends (`relRepeat`). -/
def internalEnd (s : State) (o : Op) : State :=
  if (internalSt s o).isNone then s else
  let s := { s with ops := rmOp o s.ops }
  match o.work with
  | .idxRead n _ copy => readIndex n (!copy) s
  | _ => s

/-- Internal reads that wait on LUN l for the block whose erase starts end (R297). -/
def endInternal (l : Nat) (s : State) : State := (s.ops.filter fun o => o.q = .lun l).foldl internalEnd s

/-- Relocations whose old block was under erase read on (R297). -/
def relRepeat (l b : Nat) (s : State) : State :=
  let asks (n : Nat) : Bool := s.ops.any (fun o => match o.work with | .relRead m _ | .relProg m _ => m = n | _ => false) ||
    s.runs.any (fun r => match r.op.work with | .relRead m _ | .relProg m _ => m = n | _ => false)
  (s.rels.filter fun e => e.2.any (fun r => r.src = (l, b) && r.kind ≠ .rebuild) && !asks e.1).foldl (fun s e => relNext e.1 s) s

/-- Work that waits for section k and what is bound to come to it move to another section (R22, R274): the open one with the most free
coders, whatever the lane set of the zone (DESIGN CHOICE, log 41). -/
def moveOps (k : Nat) (s : State) : State :=
  let sec2 := mostSec (fun i => freeCoders s i 0) ((openSecs s).filter (· ≠ k))
  let free (w : Work) : Work := match w with | .verify n _ _ => .verify n 16 0 | .offVerify n i _ _ => .offVerify n i 16 0 | w => w
  { s with
    ops := s.ops.map fun o =>
      if o.q = .codec k then { o with q := .codec sec2, work := free o.work } else if o.q = .cipher k then { o with q := .cipher sec2 } else o,
    jobs := s.jobs.map fun e => (e.1, e.2.map fun j => if j.sec = k then { j with sec := sec2 } else j),
    rjobs := s.rjobs.map fun e => (e.1, e.2.map fun r =>
      if r.sec = k ∧ (r.stage = .cipher ∨ r.stage = .decode) then { r with sec := sec2 } else r) }

/-- What waits for a fenced section moves on, also what came to it after the fence (R22, R219). -/
def rehome (s : State) : State := ((List.range 8).filter fun k => (cipOf s k).fenced).foldl (fun s k => moveOps k s) s

/-- Dispatch on one resource (R159): the highest class that it may start, the earliest age within it. Internal reads of a block whose
erase starts end (R297). -/
def execDispatch (r : Resource) (s : State) : Outcome State Fault Refusal :=
  let s := rehome s
  let s := match r with
    | .lun l => if ioServes s then lunResume l (endInternal l s) else s
    | .cipher k => if ioServes s then wantLeases k s else s
    | _ => s
  match pickOp s (s.ops.filter (mayStart s r)) with
  | none => .next s
  | some o => match decryptKeyless s o.work with
    | some n => .next (failR n (vendorSt 4) s)
    | none =>
      let s := startOp r o s
      .next (match o.work with | .erase l _ => endInternal l s | _ => s)

/-- Whether the kerf of a run on resource r has lasted its time (R384). -/
def kerfOver (s : State) (r : Resource) (x : Run) : Bool := x.res = r && x.kerf && decide (x.since + 1000 * x.kerfUs ≤ now s)

/-- The kerf before an operation's start ends, and it starts (R384); a LUN starts none while an image switch is under way (R172). -/
def execKerfExpiry (r : Resource) (s : State) : Outcome State Fault Refusal :=
  let held := s.fw.act.any (·.switching) && match r with | .lun _ => true | _ => false
  .next <| if held then s else
    let s := (s.runs.filter (kerfOver s r)).foldl (fun s x => startWork r x.op s) s
    { s with runs := s.runs.map fun x => if kerfOver s r x then { x with kerf := false, since := now s } else x }

/-! ### Geyser promotion (R163, R164) -/

/-- Age limit of a class for a function in ns (R139). -/
def ageLimit (s : State) (f : Nat) (c : DCls) : Option Nat :=
  let w := featGet (fnOf s f) 0xC1 0
  match c with
  | .high => some (1000000 * fld w 7 0)
  | .medium => some (1000000 * fld w 15 8)
  | .low => some (1000000 * fld w 31 16)
  | _ => none

/-- A command becomes over-age: it takes a free token of its function, or waits for one (R163, R164). -/
def execGeyserOverAge (id : CmdId) (s : State) : Outcome State Fault Refusal :=
  match (cmdOf s id).filter (fun c => !c.overAge && c.id.sq ≠ 0 && (ageLimit s id.func c.cls).any fun l => c.time + l ≤ now s) with
  | none => .next s
  | some _ =>
    let held := (s.cmds.filter fun c => c.id.func = id.func && c.token).length
    let s := modCmd id (fun c => { c with overAge := true }) s
    .next (if held < 4 then promote id s else s)

/-! ### Coders (R217 to R222) -/

/-- The run on a resource, when its kerf has passed and it is not suspended. -/
def runOn (s : State) (r : Resource) : Option Run := s.runs.find? fun x => x.res = r && !x.kerf && !x.suspended

/-- A resource is free again. -/
def endRun (x : Run) (s : State) : State := { s with runs := s.runs.filter fun y => y ≠ x }

/-- One more frame in a counter of section k. -/
def cdcEnc (k : Nat) (s : State) : State := modCdc k (fun d => { d with enc := satInc 0xFFFFFFFF d.enc }) s
/-- One more frame stored raw after its coder ran. -/
def cdcRaw (k : Nat) (s : State) : State := modCdc k (fun d => { d with raw := satInc 0xFFFFFFFF d.raw }) s
/-- A failed verification: the frame is stored raw (R219). -/
def cdcVerify (k : Nat) (s : State) : State :=
  cdcRaw k (modCdc k (fun d => { d with verifyFail := satInc 0xFFFFFFFF d.verifyFail }) s)

/-- Whether encodes of section k are verified (R219). -/
def everify (s : State) (k : Nat) : Bool := regFld s (cdcBase k) 8 8 = 1

/-- A frame of the write path leaves its coder (R217, R219): stored coded or raw; with EVERIFY a coded frame is decoded again on
another coder first. -/
def encodeEnd (k lane c n : Nat) (s : State) : State :=
  match tget none s.jobs n with
  | none => s
  | some j => match coderResult s j with
    | none => encoded n none (cdcRaw k s)
    | some p => if everify s k then rehome (queueJob (.verify n lane c) (.codec k) j s) else encoded n (some p) (cdcEnc k s)

/-- Its verification ends. -/
def verifyEnd (k n : Nat) (ok : Bool) (s : State) : State :=
  match tget none s.jobs n with
  | none => s
  | some j => if ok then encoded n (coderResult s j) (cdcEnc k s) else encoded n none (cdcVerify k s)

/-- One frame of an offload job has been through its coders. -/
def offLeft (n i : Nat) (s : State) : State := offCheck n (modOff n (fun o => { o with left := o.left.filter (· ≠ i) }) s)

/-- A frame of an encode job leaves its coder (R209, R217, R219). -/
def offEncEnd (k lane c n i : Nat) (o : Op) (s : State) : State :=
  match tget none s.offs n with
  | none => s
  | some x =>
    match (cmdOf s x.id).filter fun c => c.gen = x.gen with
    | none => offLeft n i s
    | some cmd =>
      if leAt (offFrame x cmd i) 1 1 % 2 = 1 then offLeft n i (cdcRaw k s)
      else if everify s k then rehome (queueOp { o with work := .offVerify n i lane c } s)
      else offLeft n i (cdcEnc k s)

/-- A frame of an encode job has been verified. -/
def offVerifyEnd (k n i : Nat) (ok : Bool) (s : State) : State :=
  if ok then offLeft n i (cdcEnc k s) else offLeft n i (modOff n (fun o => { o with raw := insNat i o.raw }) (cdcVerify k s))

/-- A coder finishes a frame (R217, R219); `verifyOk` is the outcome where it verified one. -/
def execEncodeComplete (k lane c : Nat) (verifyOk : Bool) (s : State) : Outcome State Fault Refusal :=
  match runOn s (.coder k lane c) with
  | none => .next s
  | some x => match x.op.work with
    | .encode n => .next (encodeEnd k lane c n (endRun x s))
    | .verify n _ _ => .next (verifyEnd k n verifyOk (endRun x s))
    | .offEnc n i => .next (offEncEnd k lane c n i x.op (endRun x s))
    | .offVerify n i _ _ => .next (offVerifyEnd k n i verifyOk (endRun x s))
    | _ => .next s

/-- Count a decode of section k, and the second one on another engine with what it found (R222): `ok` whether that one passed. -/
def decodeRetry (k : Nat) (ok : Bool) (s : State) : State :=
  let again := mostSec (fun i => freeCoders s i 0) ((openSecs s).filter (· ≠ k))
  let s := modCdc k (fun d => if ok then { d with cleared := satInc 0xFFFF d.cleared } else { d with confirmed := satInc 0xFFFF d.confirmed }) s
  modCdc again (fun d => { d with dec := satInc 0xFFFFFFFF d.dec }) s

/-- Whether a decode passes its check, on the first or the second try (R221, R222): the stored bytes decode, and the engine of the
first (`faulty`) or the second (`retryFaulty`) try works. -/
def decodePasses (stored faulty retryFaulty : Bool) : Bool := stored && !(faulty && retryFaulty)

/-- A decode of section k ends: what it counts. -/
def decodeCount (k : Nat) (stored faulty retryFaulty : Bool) (s : State) : State :=
  let s := modCdc k (fun d => { d with dec := satInc 0xFFFFFFFF d.dec }) s
  if stored ∧ ¬ faulty then s else decodeRetry k (decodePasses stored faulty retryFaulty) s

/-- A frame read leaves its coder. -/
def decodeEnd (k n : Nat) (faulty retryFaulty : Bool) (s : State) : State :=
  match tget none s.rjobs n with
  | none => s
  | some r =>
    if staleR s r then endR n r.ids s else
    match decodePayload (r.bytes.take 48) r.payload with
    | .ok b =>
      let s := decodeCount k true faulty retryFaulty s
      if decodePasses true faulty retryFaulty then deliverR n b s else failR n (vendorSt 2) s
    | .fail _ => failR n (vendorSt 2) (decodeCount k false faulty retryFaulty s)

/-- A frame of a decode job leaves its coder (R228 step 6). -/
def offDecEnd (k n i : Nat) (faulty retryFaulty : Bool) (s : State) : State :=
  match tget none s.offs n with
  | none => s
  | some x =>
    match (cmdOf s x.id).filter fun c => c.gen = x.gen with
    | none => offLeft n i s
    | some cmd =>
      let ok := (offPlain x cmd i).isSome
      let s := decodeCount k ok faulty retryFaulty s
      offLeft n i (if decodePasses ok faulty retryFaulty then s else modOff n (fun o => { o with bad := insNat i o.bad }) s)

/-- A decoder finishes a frame (R221, R222): its check is recomputed from the stored bytes; `faulty` and `retryFaulty` say
that the first and the second decode went wrong in the engine. -/
def execDecodeComplete (k lane c : Nat) (faulty retryFaulty : Bool) (s : State) : Outcome State Fault Refusal :=
  match runOn s (.coder k lane c) with
  | none => .next s
  | some x => match x.op.work with
    | .decode n => .next (decodeEnd k n faulty retryFaulty (endRun x s))
    | .offDec n i => .next (offDecEnd k n i faulty retryFaulty (endRun x s))
    | _ => .next s

/-! ### Cipher engines (R249, R263, R271 to R275) -/


/-- What a fenced engine was working on (R273, R274): an encryption is done again elsewhere with a new key copy and counter value, a
decryption fails its LBAs with Cipher Fault. -/
def fencedRun (s : State) (x : Run) : State :=
  match x.op.work with
  | .encrypt n => { (modJob n (fun j => { j with key := [] }) s) with ops := s.ops ++ [x.op] }
  | .decrypt n => failR n (vendorSt 6) s
  | _ => s

/-- Fence an engine (R274): its work in progress is handled as a failed check is, and traffic moves to other sections. -/
def fence (k : Nat) (s : State) : State :=
  let s := causeOn 4 (modCip k (fun c => { c with fenced := true }) s)
  let mine := s.runs.filter fun r => r.res = .cipher k
  moveOps k (mine.foldl fencedRun { s with runs := s.runs.filter (fun r => r.res ≠ .cipher k) })

/-- Powered time of the device, over every power cycle (R274). -/
def powered (s : State) : Nat := s.clk.total + now s

/-- Faults of an engine within 24 hours of powered time. -/
def recentFaults (s : State) (c : Cip) : List Nat := c.faultTimes.filter fun t => powered s < t + 86400000000000

/-- A result check failed (R273, R274): counted, logged, and the engine fenced at the third in 24 hours unless it is the
last. -/
def cipherFault (k : Nat) (s : State) : State :=
  let s := modCip k (fun c => { c with faults := satInc 0xFFFFFFFF c.faults, faultTimes := powered s :: recentFaults s c }) s
  let s := healthLog { time := now s, typ := 7, subj := k } s
  if 3 ≤ (cipOf s k).faultTimes.length ∧ 1 < (openSecs s).length ∧ ¬ (cipOf s k).fenced then fence k s else s

/-- A decryption ends with its check passed: the tag decides (R221, R275). -/
def decrypted (n k : Nat) (r : RJob) (tagOk : Bool) (s : State) : State :=
  let hdr := r.bytes.take 48
  let p := 16 * leAt hdr 8 2 - 64
  let plain := gcmOpen r.key ((hdr.drop 36).take 12) (aadOf r.ns r.owner r.base.1 r.base.2 hdr) ((r.bytes.drop 48).take p)
    ((r.bytes.drop (48 + p)).take 16)
  match plain, tagOk with
  | some b, true => payloadReady n (modR n (fun r => { r with payload := b, key := [], bound := false })
      (modCip k (fun c => { c with dec := satInc 0xFFFFFFFF c.dec }) s))
  | _, _ =>
    let s := modR n (fun r => { r with sec := k }) s
    match (zoneOf s r.ns r.zone).band.filter fun b => b.parity && sameFrame s r && !r.rebuilt with
    | some b => rebTag n b { r with sec := k } s
    | none => tagFail n s

/-- A cipher engine finishes a frame (R249, R273, R275): `checkOk` its result check, `tagOk` whether the stored frame reached
the engine as it was written. -/
def execCipherOperationComplete (k : Nat) (checkOk tagOk : Bool) (s : State) : Outcome State Fault Refusal :=
  match runOn s (.cipher k) with
  | none => .next s
  | some x =>
    let s := endRun x s
    match x.op.work with
    | .encrypt n => match tget none s.jobs n with
      | none => .next (if checkOk then s else cipherFault k s)
      | some j =>
        if checkOk then .next (encrypted n (modCip k (fun c => { c with enc := satInc 0xFFFFFFFF c.enc }) s))
        else
          let s := cipherFault k s
          let sec2 := otherSec s k
          .next (queueJob (.encrypt n) (.cipher sec2) j (modJob n (fun j => { j with sec := sec2, key := [] }) s))
    | .decrypt n => match tget none s.rjobs n with
      | none => .next (if checkOk then s else cipherFault k s)
      | some r =>
        if ¬ checkOk then .next (failR n (vendorSt 6) (cipherFault k s))
        else if staleR s r then .next (endR n r.ids s)
        else .next (decrypted n k r tagOk s)
    | _ => .next s

/-- The vault gives an engine its lease (R263, R264). -/
def execLeaseGrant (k i : Nat) (s : State) : Outcome State Fault Refusal :=
  .next (if i ∈ (cipOf s k).wantLease ∧ s.md.cur ≠ .watch ∧ s.md.cur ≠ .doze then giveLease k i s else s)

/-! ### Suspend and resume (R291, R292) -/

/-- Programs and erases that a read may suspend. -/
def suspendable (s : State) (l : Nat) (w : Work) : Bool :=
  let ctrl := regGet s (secBase (lunSec l) + 0x100)
  match w with
  | .erase _ _ => bitOf ctrl 31
  | .program _ _ _ _ | .parity _ _ _ _ | .relProg _ _ | .indexCopy _ _ _ _ | .orphan _ | .ventTest => bitOf ctrl 30
  | _ => false

/-- Least run before a suspend, in ns (SEC_SUSP_CTRL). -/
def minRun (s : State) (l : Nat) (w : Work) : Nat :=
  let ctrl := regGet s (secBase (lunSec l) + 0x100)
  10000 * (if isErase w then fld ctrl 23 12 else fld ctrl 11 0)

/-- A program or erase has run its minimum while a read of a higher class waits: the suspend is issued (R291). -/
def execSuspendMinRun (l : Nat) (s : State) : Outcome State Fault Refusal :=
  match lunMain s l with
  | none => .next s
  | some x =>
    let wants := (waitingReads s l).any fun o =>
      (internalSt s o).isNone && clsRank (effCls s o) ≤ clsRank .low && clsRank (effCls s o) < clsRank x.op.cls
    if x.kerf ∨ x.suspended ∨ x.suspending ∨ 16 ≤ x.suspends ∨ ¬ suspendable s l x.op.work ∨ ¬ wants ∨ ¬ ioServes s ∨
       now s < x.since + minRun s l x.op.work then .next s
    else
      let k := lunSec l
      .next { s with
        runs := s.runs.map fun y => if y = x then { y with suspending := true } else y,
        suspCount := tset 0 s.suspCount k (satInc 0xFFFFFFFF (tget 0 s.suspCount k)) }

/-- The die reports the operation suspended (R292). -/
def execLunSuspended (l : Nat) (s : State) : Outcome State Fault Refusal :=
  .next { s with runs := s.runs.map fun y =>
    if y.res = .lun l ∧ y.suspending then { y with suspending := false, suspended := true, suspends := y.suspends + 1, served := 0 } else y }

/-- An operation that used its 16 suspends has run to its end. -/
def countExh (l : Nat) (x : Run) (s : State) : State :=
  if x.suspends < 16 then s else
  let k := lunSec l
  { s with suspExh := tset 0 s.suspExh k (satInc 0xFFFFFFFF (tget 0 s.suspExh k)) }

/-! ### Programs (R287 to R290) -/

/-- A die confirmed a data page. -/
def pageDone (ns z k e : Nat) (s : State) : State :=
  let s := modZone ns z (fun zn => { zn with band := zn.band.map fun b => { b with conf := tset 0 b.conf k (max e (tget 0 b.conf k)) } }) s
  zoneSettle ns z (confirmZone ns z s)

/-- A die confirmed a parity page. -/
def parityDone (ns z u e : Nat) (s : State) : State :=
  let s := modZone ns z (fun zn => { zn with band := zn.band.map fun b => { b with pConf := tset 0 b.pConf u (max e (tget 0 b.pConf u)) } }) s
  zoneSettle ns z (confirmZone ns z s)

/-- A program at position p failed (R288): the block is retired and replaced, its confirmed pages are copied, and the page is
programmed again from its staged image after them. -/
def programFail (ns z p : Nat) (o : Op) (s : State) : State :=
  match (zoneOf s ns z).band with
  | none => s
  | some b =>
    let (l, k) := b.pos.getD p (0, 0)
    let s := replacePos ns z p .replace (retireBlk l k s)
    match (zoneOf s ns z).band with
    | none => s
    | some b => if p ∈ b.dead then s else { s with ops := s.ops ++ [{ o with q := .lun (b.pos.getD p (0, 0)).1 }] }

/-- Spread of erase counts over a LUN's good bulk blocks (R285). -/
def wearSpread (u : Lun) : Nat :=
  let es := ((bulkIdx u).filter fun b => (blkOf u b).st ≠ .bad).map fun b => (blkOf u b).erases
  es.foldl max 0 - es.foldl min (es.headD 0)

/-- Band positions of Full zones on a LUN, with the erase count of their block. -/
def fullPositions (s : State) (l : Nat) : List (Nat × Nat × Nat) :=
  (lunPositions s l).filter fun e => (zoneOf s e.1 e.2.1).st = .full && (nsOf s e.1).any (·.zoned)

/-- Erase count of the block at a band position. -/
def posErases (s : State) (e : Nat × Nat × Nat) : Nat :=
  match (zoneOf s e.1 e.2.1).band with
  | some b => let (l, k) := b.pos.getD e.2.2 (0, 0); (blkOf (lunOf s l) k).erases
  | none => 0

/-- Position with the lowest erase count. -/
def leastWorn (s : State) : List (Nat × Nat × Nat) → Option (Nat × Nat × Nat)
  | [] => none
  | e :: t => match leastWorn s t with
    | none => some e
    | some d => if posErases s e ≤ posErases s d then some e else some d

/-- SPREAD of a LUN's section. -/
def spreadOf (s : State) (l : Nat) : Nat := regFld s (secBase (lunSec l) + 0x110) 27 16

/-- Whether a LUN's static pass runs (R285): it starts as the spread exceeds SPREAD, and stops when it has fallen to SPREAD − 50. -/
def wearRuns (s : State) (l : Nat) : Bool :=
  let u := lunOf s l
  decide (spreadOf s l < wearSpread u) || u.wearing && decide (spreadOf s l - 50 < wearSpread u)

/-- Static pass of a LUN (R285): while it runs, one block at a time is copied, as soon as an erased one stands. -/
def wearPass (l : Nat) (s : State) : State :=
  let on := lunOk s l && wearRuns s l
  let s := if (lunOf s l).wearing = on then s else modLun l (fun u => { u with wearing := on }) s
  if ¬ on ∨ s.rels.any (fun e => e.2.any fun r => r.kind = .wear && r.src.1 = l) then s
  else match leastWorn s ((fullPositions s l).filter fun e => (relAt s e.1 e.2.1 e.2.2).isNone) with
    | some e => moveBlk e.1 e.2.1 e.2.2 l .wear s
    | none => s

/-- A relocation has copied its block (R285, R288, R290, R303, R304): a block that only moved goes for erase, and a static pass goes
on. -/
def relDone (n : Nat) (r : Rel) (s : State) : State :=
  let s := { s with rels := tset none s.rels n none }
  match r.kind with
  | .wear => wearPass r.src.1 (giveBlk r.src.1 r.src.2 s)
  | .refresh => giveBlk r.src.1 r.src.2 s
  | .restart => giveBlk r.src.1 r.src.2 s
  | .replace => s
  | .rebuild => s

/-- The program of a relocation's row ends: the next row follows; a failed block is retired and the copy begins again on another
(R288). -/
def relProgEnd (n row : Nat) (fail : Bool) (s : State) : State :=
  match tget none s.rels n with
  | none => s
  | some r =>
    if fail then replacePos r.ns r.zone r.pos r.kind (retireBlk r.dst.1 r.dst.2 s)
    else
      let left := r.left.filter (· ≠ row)
      let s := { s with rels := tset none s.rels n (some { r with left := left }) }
      if left = [] then relDone n r s else relNext n s

/-- VENT_TEST ends with the last of its operations (R377, 0503h): its dump rate, and the energy drawn from the bank; its pool space is
released. -/
def ventTestEnd (s : State) : State :=
  match s.mbx.run with
  | none => s
  | some r =>
    if r.opc ≠ 0x0503 ∨ s.ops.any (fun o => o.work = .ventTest) ∨ s.runs.any (fun x => x.op.work = .ventTest) then s else
    let ns := now s - r.start
    let mib := (r.args.getD 0 0).toNat
    let v0 := r.aux
    let v1 := s.hk.holdup.headD 0
    let rate := mib * 1048576 * 1000 / max ns 1
    let energy := s.hold.cmeas * (v0 * v0 - v1 * v1) / 2000000
    let s := { s with pin := { s.pin with holdupIso := false }, hold := { s.hold with last := 4, testMib := 0 } }
    let s := ventLog { time := now s, kind := 5, dur := ns / 1000, mib := mib } s
    mbxDone [(0, w32 rate), (1, w32 energy)] s

/-- The program of a zone's index pages in a parameter unit ends (R198): the journal records the copy; a bad unit is retired, and another
takes it. -/
def indexCopied (ns z : Nat) (p : Nat × Nat) (fail : Bool) (s : State) : State :=
  if fail then copyIndex ns z (retireBlk p.1 p.2 s) else modZone ns z (fun zn => { zn with indexCopy := some p }) s

/-- A program ends (R287, R288, R304). -/
def execProgramComplete (l : Nat) (fail : Bool) (s : State) : Outcome State Fault Refusal :=
  match runOn s (.lun l) with
  | none => .next s
  | some x =>
    if isRead x.op.work ∨ isErase x.op.work then .next s else
    let s := countExh l x (modLun l (fun u => { u with timeouts := 0 }) (endRun x s))
    match x.op.work with
    | .program ns z k e =>
      let p := ((zoneOf s ns z).band.map fun b => (b.pages.getD k (0, 0)).2).getD 0
      .next (if fail then programFail ns z p x.op s else pageDone ns z k e s)
    | .parity ns z u e => .next (if fail then programFail ns z (parPos (u / 256) (u % 256)) x.op s else parityDone ns z u e s)
    | .relProg n row => .next (relProgEnd n row fail s)
    | .indexCopy ns z u b => .next (indexCopied ns z (u, b) fail s)
    | .orphan b => .next (if fail then retireBlk l b s else s)
    | .ventTest => .next (ventTestEnd s)
    | _ => .next s

/-! ### Erases (R285, R286, R298, R299) -/

/-- Conventional blocks that wait for a band try again. -/
def convRetry (s : State) : State := (tkeys s.nss).foldl (fun s ns => orderConv ns s) s

/-- What an erase's end lets go on: a parameter unit that waits for a bulk block, the static pass, refreshes of the LUN's blocks, and
relocations that waited for the block (R281, R285, R297, R303). -/
def eraseNext (l b : Nat) (s : State) : State :=
  let zs := (lunPositions s l).map fun e => (e.1, e.2.1)
  let s := relRepeat l b (wearPass l (parFix l s))
  zs.eraseDups.foldl (fun s z => wornRefresh z.1 z.2 s) s

/-- A block is erased (R298): the done record, and it may be allocated. -/
def erasedBlk (l b : Nat) (s : State) : State :=
  eraseNext l b (convRetry (sanErased (l, b) (modBlk l b (fun k => { k with st := .erased, probes := 0 }) s)))

/-- The probe of a suspect block ends (R299): with at most PROBE_MAX 0 bits the block is erased; else it is erased again, and retired
after the third erase. -/
def probeEnd (l b zs : Nat) (s : State) : State :=
  if zs ≤ regFld s (secBase (lunSec l) + 0x114) 15 0 then erasedBlk l b s
  else if (blkOf (lunOf s l) b).probes < 3 then queueErase l b (modBlk l b (fun k => { k with st := .suspect }) s)
  else eraseNext l b (sanErased (l, b) (retireBlk l b s))

/-- A read at the die is over: its LUN is free, and an operation suspended there has served one more (R292). -/
def readOver (l : Nat) (x : Run) (s : State) : State :=
  let s := endRun x s
  let s := { s with runs := s.runs.map fun y => if y.res = .lun l ∧ y.suspended then { y with served := y.served + 1 } else y }
  modLun l (fun u => { u with timeouts := 0 }) s

/-- An erase ends (R298): a block that failed is retired; a suspect one is probed before its done record may be made (R299). The end of that
probe, which counted `zs` 0 bits, is the other occasion of this row (DESIGN CHOICE, log 105). -/
def execEraseComplete (l : Nat) (fail : Bool) (zs : Nat) (s : State) : Outcome State Fault Refusal :=
  match runOn s (.lun l) with
  | none => .next s
  | some x => match x.op.work with
    | .erase _ b =>
      let s := countExh l x (modLun l (fun u => { u with timeouts := 0 }) (endRun x s))
      if fail then .next (eraseNext l b (sanErased (l, b) (retireBlk l b s)))
      else
        let s := modBlk l b (fun k => { k with erases := k.erases + 1 }) s
        .next (if (blkOf (lunOf s l) b).probes = 0 then erasedBlk l b s
          else wearPass l (queueOp (newOp (.probe b) (.lun l) .maintenance (now s) 0 (genOf s 0) s) s))
    | .probe b => .next (lunResume l (probeEnd l b zs (readOver l x s)))
    | _ => .next s

/-- A read at the die ends (R292, R300 to R303). `oks`: of each codeword that it was to decode, whether it did. -/
def execLunReadComplete (l : Nat) (oks : List Bool) (s : State) : Outcome State Fault Refusal :=
  match s.runs.find? fun x => x.res = .lun l && !x.kerf && isRead x.op.work && !isProbe x.op.work with
  | none => .next s
  | some x =>
    if oks.length ≠ x.op.cws.length then .next s
    else .next (lunResume l (readEnd l x.op oks (readOver l x s)))

/-! ### LUN failure (R304) -/

/-- A relocation whose old block is on a LUN that is gone goes on by rebuild (R302, R304). -/
def relLost (l : Nat) (s : State) (e : Nat × Rel) : State :=
  if e.2.src.1 ≠ l ∨ e.2.kind = .rebuild ∨ e.2.left = [] then s else
  let s := offlineCheck e.2.ns e.2.zone (loseFrames e.2.ns e.2.zone e.2.pos s)
  let s := relDrop e.1 s
  relNext e.1 { s with rels := tset none s.rels e.1 (some { e.2 with kind := .rebuild }) }

/-- A waiting page read of a rebuild whose LUN is gone follows its page, or ends the rebuild (R302). -/
def rebRehome (n q : Nat) (o : Op) (s : State) : State :=
  match tget none s.rebs n with
  | none => s
  | some r => match (zoneOf s r.ns r.zone).band with
    | some b =>
      if rowGone s r.ns r.zone b r.row q then rebFail n s
      else
        let (l, k) := rowLoc s r.ns r.zone b r.row q
        queueOp { o with work := .groupRead n q k, q := .lun l, rung := .hard } s
    | none => rebFail n s

/-- Where a waiting operation of a LUN that is gone goes: page reads follow their page or are rebuilt, an index page is read from its
other copy, the copy of index pages goes to another parameter unit, what only that LUN could do ends. -/
def orphanOp (l : Nat) (s : State) (o : Op) : State :=
  if o.q ≠ .lun l ∨ o ∉ s.ops then s else
  let t := { s with ops := rmOp o s.ops }
  match o.work with
  | .erase _ _ | .probe _ | .orphan _ | .ventTest => t
  | .idxRead n _ copy => readIndex n (!copy) t
  | .lunRead n k _ => pageRead n k t
  | .moveRead n k _ => moveIssue n k t
  | .groupRead n q _ => rebRehome n q o t
  | .indexCopy ns z _ _ => copyIndex ns z t
  | _ => s

/-- After a LUN is gone: copies from it go on by rebuild, its waiting operations follow the replaced positions, its erases end, and
frames that are lost fail their reads. -/
def lunOrphans (l : Nat) (s : State) : State :=
  let s := (s.rels.filterMap fun e => e.2.map fun r => (e.1, r)).foldl (relLost l) s
  let s := journalHomes (s.ops.foldl (orphanOp l) s)
  let lost (r : RJob) : Bool := if r.conv then (convOf s r.ns r.idx).lost else (frOf (zoneOf s r.ns r.zone) r.idx).lost
  let s := (s.rjobs.filter fun e => e.2.any lost).foldl (fun s e => failR e.1 ureSt s) s
  ventTestEnd ((s.san.erases.filter fun p => p.1 = l).foldl (fun s p => sanErased p s) s)

/-- What ran on a LUN waits again. -/
def lunDrop (l : Nat) (s : State) : State :=
  { s with runs := s.runs.filter (fun y => y.res ≠ .lun l), ops := s.ops ++ (s.runs.filter fun y => y.res = .lun l).map Run.op }

/-- An operation on a LUN times out at four times its maximum, or ends without a valid status (R304): it is queued again; at
the third in a row the LUN fails. -/
def execFlashOperationTimeout (l : Nat) (s : State) : Outcome State Fault Refusal :=
  match s.runs.find? fun x => x.res = .lun l && !x.kerf && !x.suspended with
  | none => .next s
  | some x =>
    let s := { endRun x s with ops := s.ops ++ [x.op] }
    let s := modLun l (fun u => { u with timeouts := u.timeouts + 1 }) s
    .next (if (lunOf s l).timeouts < 3 then s else lunOrphans l (lunFail l (lunDrop l s)))

/-! ### Channel training (R277 to R279) -/

/-- An eye that passes training (R277). -/
def eyePass (width height : Nat) : Bool := 90 ≤ width && 60 ≤ height

/-- A channel after training with the requested rate (R276 to R278); `dq`: every accepted die of it reports DQ training, which
4,800 MT/s needs. -/
def trainChan (rate : Nat) (dq : Bool) (tj : Int) (t : Nat) (p : ChanProbe) (c : Chan) : Chan :=
  let c := { c with lastTj := tj, lastCheck := t, checkDue := false }
  if rate = 1 ∧ dq ∧ eyePass p.eye4800 p.height4800 then
    { c with gated := false, trained := true, fallback := false, margin := p.eye4800, rateCur := 1 }
  else if eyePass p.eye3600 p.height3600 then
    { c with gated := false, trained := true, fallback := rate = 1, margin := p.eye3600, rateCur := 0 }
  else { c with gated := true, trained := false, fallback := rate = 1, margin := p.eye3600, rateCur := 0 }

/-- The training of a channel uses ZQ calibration and duty-cycle training on the dies that report them (R276). -/
def lunsTrained (c : Nat) (s : State) : State :=
  (List.range 128).foldl (fun s i => if lunOk s (lunNo c i) then modLun (lunNo c i) (fun u => { u with zqDone := u.zq, dutyDone := u.duty }) s else s) s

/-- Whether every accepted die of a channel reports DQ training (R276). -/
def chanDq (s : State) (c : Nat) : Bool := (List.range 128).all fun i => !lunOk s (lunNo c i) || (lunOf s (lunNo c i)).dq

/-- Whether the flash channels are in service; during an exit from DOZE or WATCH they take its drift checks (R351, R358). -/
def flashOn (s : State) : Bool := ioServes s || s.md.cur = .vent || exitRuns s

/-- Start waiting retrains of a section, one channel at a time (R279). -/
def chanTrainNext (k : Nat) (s : State) : State :=
  let chs := (List.range 8).map (· + 8 * k)
  if chs.any (fun c => (chanOf s c).retraining) then s else
  match chs.find? fun c => (chanOf s c).wantRetrain with
  | some c => modChan c (fun x => { x with wantRetrain := false, retraining := true }) s
  | none => s

/-- A channel is to retrain. -/
def chanTrain (c : Nat) (s : State) : State :=
  if ¬ flashOn s ∨ (chanOf s c).gated ∨ (chanOf s c).retraining then s
  else chanTrainNext (chanSec c) (modChan c (fun x => { x with wantRetrain := true }) s)

/-- Whether a channel's drift check is due (R279, R351): CHU_DRIFT.INTERVAL ms after the last, with Tj 10 °C or more from its last
training, or after an exit from DOZE or WATCH. -/
def driftDue (s : State) (c : Nat) : Bool :=
  (chanOf s c).checkDue || (chanOf s c).lastCheck + 1000000 * regFld s (chuBase c + 8) 15 0 ≤ now s || 80 ≤ (s.therm.last - (chanOf s c).lastTj).natAbs

/-- A drift check of a channel (R279). -/
def execFlashDriftCheck (c eye : Nat) (s : State) : Outcome State Fault Refusal :=
  if ¬ flashOn s ∨ (chanOf s c).gated ∨ (chanOf s c).retraining ∨ ¬ driftDue s c then .next s else
  let s := modChan c (fun x => { x with margin := eye, lastCheck := now s, checkDue := false }) s
  .next (if eye < regFld s (chuBase c + 8) 23 16 then chanTrain c s else s)

/-- CHU_TRAIN.RETRAIN (R279). -/
def execChannelRetrain (c : Nat) (s : State) : Outcome State Fault Refusal := .next (chanTrain c s)

/-- A LUN of a channel that no longer trains is refused (R278): its positions are replaced. -/
def lunRefuse (l : Nat) (s : State) : State :=
  if ¬ lunOk s l then s else lunOrphans l (lunGone l (modLun l (fun u => { u with reason := 0x0B }) (lunDrop l s)))

/-- A channel's retrain ends (R277 to R279). -/
def execChannelRetrainComplete (p : ChanProbe) (s : State) : Outcome State Fault Refusal :=
  let c := p.chan
  if ¬ (chanOf s c).retraining then .next s else
  let s := modChan c (fun x => { trainChan (regFld s (chuBase c) 1 0) (chanDq s c) s.therm.last (now s) p x with retraining := false }) s
  let s := if (chanOf s c).gated then (List.range 128).foldl (fun s i => lunRefuse (lunNo c i) s) s else lunsTrained c s
  .next (chanTrainNext (chanSec c) s)

end Sys2Proof.Machine
end

