-- ==== Sys2Proof/Machine/Resets.lean ====
section
/-!
DEFINITION. Resets and pins (chapters 04, 19, 23): POR, PORST_N, PERST_N, the link, function and subsystem resets, VF
Enable, CC.EN, the end of a reset's drain, and ZEROIZE_N.
-/
namespace Sys2Proof.Machine

open Sys2Proof

/-! ### Shared steps -/

/-- Whether functions have state that a reset can act on: START has ended (R78), and the core domain is on. -/
def served (s : State) : Bool := s.md.stage = 8 && coreOn s && !s.hold.vent.any (·.perst)

/-- Whether Tj is at or above Shut-down minus H (R387). -/
def shutHot (s : State) : Bool := s.therm.shut.level - s.therm.shut.hyst ≤ s.therm.last

/-- Sample the straps (R456). -/
def sampleStraps (s : State) : State :=
  { s with pin := { s.pin with dual := s.pin.inDual, lpo := s.pin.inLpo, smba := s.pin.inSmba } }

/-- A START that finds FAILS at 5 begins with a 60 s lockout (R394). -/
def startLockout (s : State) : State :=
  if 5 ≤ s.co.fails then { s with co := { s.co with lockedUntil := some (now s + 60000000000) } } else s

/-- START enters stage 1; it stays there while Tj is at or above Shut-down minus H (R387). -/
def enterStage1 (s : State) : State :=
  startLockout { s with md := { s.md with stage := 1, hot := shutHot s } }

/-- A dump that is cut: the Vent log records it with the dirty blocks that are lost (R375, R424). -/
def ventCutLog (s : State) : State :=
  match s.hold.vent with
  | some v => if v.dumped then s else
      ventLog { time := now s, kind := 4, lowVin := s.hold.lowVin, dur := (now s - v.start) / 1000,
                blocks := (s.cache.filter fun b => !b.vented).length } s
  | none => s

/-- Key-bound dirty data lost in the cryptographic error state (R403). -/
def keyLossLog (s : State) : State :=
  let n := (s.cache.filter fun b => !b.vented && (dataSlot s b.ns b.lba).isSome).length
  if s.sec.st = 2 ∧ s.sec.passEng = [] ∧ n ≠ 0 then ventLog { time := now s, kind := 7, blocks := n } s else s

/-- Outputs released while the device is held in reset (R462). PWR_OFF_REQ_N stays with the level (R387). -/
def releaseOutputs (s : State) : State :=
  { s with pin := { s.pin with holdupTest := false, holdupIso := false } }

/-- The links of both ports are down. -/
def linksDown (s : State) : State := { s with pin := { s.pin with p0Up := false, p1Up := false } }

/-- The serving port (R455): port 0 while its link is up or DUALPORT is low, else port 1. -/
def servingOf (s : State) : Nat := if s.pin.dual && !s.pin.p0Up then 1 else 0

/-- Set the link state of a port. -/
def setLink (p : Nat) (up : Bool) (s : State) : State :=
  if p = 0 then { s with pin := { s.pin with p0Up := up } } else { s with pin := { s.pin with p1Up := up } }

/-- A reset, CC.EN write or doorbell in DOZE wakes the device (R351). -/
def dozeWake (s : State) : State := wakeDoze 7 s

/-- A hot reset before stage 8 (R78 exempts only controller resets, FLRs and NVM subsystem resets): no command drains, so it is
done at once. -/
def hotResetStart (s : State) : State := drainDone 0 (allReset 3 s)

/-- Whether a link-down hot reset meets a START that has not ended, or its HALT. -/
def hotInStart (s : State) : Bool :=
  1 ≤ s.md.stage && s.md.stage < 8 && (s.md.cur = .start || s.md.cur = .halt)

/-- A link-down hot reset of every function (R78, R79, R351). -/
def hotReset (s : State) : State :=
  if served s then dozeWake (allReset 3 s) else if hotInStart s then hotResetStart s else s

/-- The serving port as R455 gives it; a change is a link-down hot reset of every function. -/
def portSettle (s : State) : State :=
  let p := servingOf s
  if p = s.pin.serving then s else hotReset { s with pin := { s.pin with serving := p } }

/-! ### POR, PORST_N, PERST_N -/

/-- POR: loss and return of VAON acts as PORST_N with class A returned to its defaults too (R79, R88, R98, R458); a
zeroization not yet recorded is lost (R417). -/
def execPor (s : State) : Outcome State Fault Refusal :=
  .next (linksDown (releaseOutputs (aonLost (coreLost (abandon (fun _ => true) (mbxCut 2 (keyLossLog (ventCutLog s))))))))

/-- PORST_N asserted (R78, R80, R85, R86, R98): the core domain resets at once, no dump takes place, and the DRAM is held in
reset (R453). -/
def execPorstNAssertion (s : State) : Outcome State Fault Refusal :=
  if s.pin.porst then .next s else
  let s := resetLast 1 0 (coreLost (abandon (fun _ => true) (mbxCut 2 (keyLossLog (ventCutLog s)))))
  .next (linksDown (releaseOutputs { s with pin := { s.pin with porst := true, dramReset := true } }))

/-- PORST_N deasserted: the straps are sampled and START begins at stage 1 (R70, R456). -/
def execPorstNDeassertion (s : State) : Outcome State Fault Refusal :=
  if ¬ s.pin.porst then .next s else
  let s := sampleStraps { s with pin := { s.pin with porst := false } }
  .next (if s.md.cur = .start ∧ s.md.stage = 0 then enterStage1 s else s)

/-- What PERST_N of the serving port ends at once (R80, R84): functions, queues, commands, tenants and generations. The
cache stays for the dump. -/
def perstDrop (s : State) : State :=
  let all := fun _ => true
  let s := dropQueues all (abandon all (mbxCut 1 s))
  let s := coEnd (sessionsEnd (psDrop s))
  resetLast 2 0 (unstage { s with fns := [], tenants := [], gens := [], numVfs := 0, vfEnable := false })

/-- The core domain restarts after PERST_N: START begins at stage 1 (R84). -/
def perstStart (s : State) : State := holdupIso false (enterStage1 (coreLost s))

/-- PERST_N of the serving port in START (R78): the stages go on; a running mailbox command is interrupted (R98), classes F, C, T
and V default (R68), staged key words are erased (R257), and no function has state to reset. -/
def perstInStart (s : State) : State :=
  vDefaults (regsDefault [.c, .t] (mbxCut 1 { (unstage s) with fns := [], gens := [], tenants := [], numVfs := 0, vfEnable := false }))

/-- PERST_N of a port asserted. On the serving port: the link goes down and the device dumps (R84); during START the stages go
on (R78), and TOP_RESET_LAST stays (DESIGN CHOICE, log 48); in WATCH it is recorded as a wake that leads to START (R357),
and so is the exit from DOZE (R359). The other port's pin takes only its link down (R455). -/
def execPerstNAssertion (p : Nat) (s : State) : Outcome State Fault Refusal :=
  let was := if p = 0 then s.pin.perst else s.pin.perst1
  if was then .next s else
  let serving := p = s.pin.serving
  let s := setLink p false { s with pin := if p = 0 then { s.pin with perst := true } else { s.pin with perst1 := true } }
  if ¬ serving then .next s
  else if s.md.cur = .start then .next (perstInStart s)
  else if s.md.cur = .watch then
    .next (resetLast 2 0 (psDrop (wakeRecord 2 0 4 s.pwr.cyclesNow (mbxCut 1 s))))
  else
    let s := if s.md.cur = .doze ∧ ¬ s.pwr.trans.any (fun t => t.target < 3) then wakeRecord 2 0 3 0 s else s
    .next (ventEnter 1 false true (perstDrop s))

/-- PERST_N of a port deasserted: START begins when the dump has ended too (R84). -/
def execPerstNDeassertion (p : Nat) (s : State) : Outcome State Fault Refusal :=
  let s := { s with pin := if p = 0 then { s.pin with perst := false } else { s.pin with perst1 := false } }
  if p ≠ s.pin.serving then .next s
  else if s.md.cur = .watch ∧ s.md.rlKind = 2 ∧ s.pwr.wakeSrc = 2 ∧ s.pwr.trans = none then .next (perstStart s)
  else match s.hold.vent with
    | some v => .next (if v.perst && v.dumped then perstStart s else s)
    | none => .next s

/-! ### The link -/

/-- Link down or hot reset on a port: every function is reset when the port serves (R78, R79, R80, R455). -/
def execLinkDownHotReset (p : Nat) (s : State) : Outcome State Fault Refusal :=
  let serving := p = s.pin.serving
  let s := setLink p false s
  if ¬ serving then .next s else
  let s := { s with pin := { s.pin with serving := servingOf s } }
  .next (hotReset s)

/-- The serving port changes: a link-down hot reset of every function (R455). -/
def execServingPortChange (s : State) : Outcome State Fault Refusal := .next (portSettle s)

/-- A port's link comes up outside START (R455), unless the PHYs are stopped (R386). -/
def execLinkUp (p : Nat) (s : State) : Outcome State Fault Refusal :=
  if (if p = 0 then s.pin.perst else s.pin.perst1) ∨ (p = 1 ∧ ¬ s.pin.dual) ∨ physOff s then .next s
  else .next (portSettle (setLink p true s))

/-! ### Function resets -/

/-- PF FLR (R79, R80, R83): every function; VF Enable is cleared with it. -/
def execPfFlr (s : State) : Outcome State Fault Refusal :=
  .next (if served s then dozeWake (allReset 4 s) else s)

/-- VF FLR (R79, R80, R83). -/
def execVfFlr (v : Nat) (s : State) : Outcome State Fault Refusal :=
  .next (if served s ∧ v ≠ 0 ∧ fnPresent s v then dozeWake (vfReset 5 v s) else s)

/-- CC.EN written 1 to 0 (R79): a controller reset of the VF, or of every function from the PF. In START it takes back a
held CC.EN (R71, R78). -/
def ctrlReset (f : Nat) (s : State) : State :=
  if s.md.stage ≠ 8 then modFn f (fun fn => { fn with enHeld := false }) s
  else if ¬ served s ∨ ¬ fnPresent s f ∨ ¬ (fnOf s f).en then s
  else dozeWake (if f = 0 then allReset 6 s else vfReset 6 f s)

/-- CC.EN written 1 to 0. -/
def execControllerReset (f : Nat) (s : State) : Outcome State Fault Refusal := .next (ctrlReset f s)

/-- The fused counter follows a running image that asks for it, never above the recovery image's (R414). -/
def fuseRaise (s : State) : State :=
  match s.fw.running with
  | some i =>
    if i.advance ∧ s.fw.fused < i.counter then
      { s with fw := { s.fw with fused := max s.fw.fused (min i.counter (min s.fw.recovery.counter 64)) } }
    else s
  | none => s

/-- A controller becomes ready with its admin queue pair (R101, R105), whose sizes and bases AQA, ASQ and ACQ give
(log 31). -/
def fnReady (f : Nat) (s : State) : State :=
  let s := fuseRaise s
  let fn := fnOf s f
  let s := modFn f (fun fn => { fn with rdy := true, cfs := false, pp := false, cfgReset := false }) s
  let sq : Sq := { func := f, id := 0, cq := 0, size := fld fn.aqa 11 0 + 1, prio := 0, base := fn.asq.toNat }
  let cq : Cq := { func := f, id := 0, size := fld fn.aqa 27 16 + 1, vec := 0, ien := true, base := fn.acq.toNat }
  { s with
    sqs := (s.sqs.filter fun q => !(q.func = f && q.id = 0)) ++ [sq],
    cqs := (s.cqs.filter fun q => !(q.func = f && q.id = 0)) ++ [cq] }

/-- CC.EN = 1 with CC.AMS takes effect (R101, R157): an arbitration mechanism that CAP.AMS does not report enables
nothing and sets CSTS.CFS; a tenant that is not Enabled or Frozen stores CC.EN and stays not ready. -/
def enableFn (f ams : Nat) (s : State) : State :=
  if 1 < ams then modFn f (fun fn => { fn with cfs := true }) s
  else
    let s := modFn f (fun fn => { fn with en := true, ams := ams, enHeld := false }) s
    let st := (tnOf s (f - 1)).st
    if f = 0 ∨ st = .enabled ∨ st = .frozen then fnReady f s else s

/-- CC.EN written 0 to 1 (R71, R86, R101, R157): held until stage 8 during START, and until the new image runs after a
firmware activation with reset. -/
def ctrlEnable (f : Nat) (ams : BitVec 3) (s : State) : State :=
  let fn := fnOf s f
  if fn.en ∨ ¬ fnPresent s f ∨ fn.drain.isSome then s
  else if s.md.stage ≠ 8 ∨ s.fw.act.any (·.withReset) then modFn f (fun fn => { fn with enHeld := true, ams := ams.toNat }) s
  else if ¬ served s then s
  else enableFn f ams.toNat s

/-- CC.EN written 0 to 1. -/
def execControllerEnable (f : Nat) (ams : BitVec 3) (s : State) : Outcome State Fault Refusal := .next (ctrlEnable f ams s)

/-- The tenant of a function that stored CC.EN = 1 becomes Enabled: the controller becomes ready (R101). -/
def lateReady (f : Nat) (s : State) : State :=
  let fn := fnOf s f
  if fn.en ∧ ¬ fn.rdy ∧ ¬ fn.cfs ∧ fn.drain.isNone ∧ fnPresent s f then fnReady f s else s

/-- An NVM subsystem reset (R79). -/
def nssReset (s : State) : State := if served s then dozeWake (allReset 7 s) else s

/-- 4E56_4D65h written to NSSR of the PF (R79). -/
def execNvmSubsystemReset (s : State) : Outcome State Fault Refusal := .next (nssReset s)

/-- VF Enable cleared: a VF FLR of every VF, which wakes the device from DOZE (R79, R87, R351); tenant records stay. Each counts as one
reset (DESIGN CHOICE, log 48). Before stage 8 no function has state to reset (R78). -/
def execVfEnableClear (s : State) : Outcome State Fault Refusal :=
  if ¬ coreOn s ∨ ¬ s.vfEnable then .next s
  else if ¬ served s then .next { s with vfEnable := false }
  else
    let s := (List.range s.numVfs).foldl (fun s v => vfReset 5 (v + 1) s) s
    .next (dozeWake { s with vfEnable := false })

/-- VF Enable set with NumVFs, which may change only while VF Enable is 0 (R79). -/
def execVfEnableSet (n : Nat) (s : State) : Outcome State Fault Refusal :=
  .next (if s.vfEnable ∨ ¬ coreOn s then s else { s with numVfs := n, vfEnable := true })

/-- A reset's drain ends: the reset reports done (R82, R86, R121), and a mailbox command that waits for it ends (R102), after the Vent
where one pauses it (R90). -/
def execResetDrainDone (f : Nat) (s : State) : Outcome State Fault Refusal :=
  match (fnOf s f).drain with
  | none => .next s
  | some k =>
    let s := drainDone f s
    match s.mbx.run with
    | none => .next s
    | some r =>
      if ¬ ((r.opc = 0x0205 ∨ r.opc = 0x0204) ∧ ¬ r.waitStart ∧ (16 ≤ k ∨ (r.args.getD 0 0).toNat + 1 = f)) then .next s
      else if r.paused then .next { s with mbx := { s.mbx with run := some { r with drained := true } } }
      else .next (tenantResetEnd s)

/-! ### ZEROIZE_N (R415 to R418) -/

/-- Keys as a zeroize record leaves them (R253, R267, R415): every data slot Empty at its new mark, no KEK, no fleet
migration key, no Crypto Officer key. -/
def emptyKeys (k : Keys) : Keys := { slots := tmap {} (fun _ sl => emptied sl) k.slots }

/-- The mailbox command that ZEROIZE_N meets (R98): recorded; those that its table ends do so with code 07h. -/
def mbxZeroize (s : State) : State :=
  match s.mbx.run with
  | none => s
  | some r =>
    let s := { s with mbx := { s.mbx with intCause := 3, intProgress := s.mbx.progress, intOpc := r.opc } }
    if r.opc ∈ [0x0401, 0x0404, 0x0703, 0x0802, 0x0803] then mbxKill 7 0x11 (runObj r) s else s

/-- The DRBG, erased, is instantiated again from 1,536 samples (R408, R415), after its KAT, whose outcome is open (log 6) and whose failure is the
error state (R400). -/
def drbgAgain (s : State) : State :=
  if ¬ s.sec.drbg ∨ s.sec.st = 2 then s
  else
  let pass := (freeBitsAt 1 s).getLsbD 0
  let s := freeNext s
  if ¬ pass then keysEnd (cryptoError 0x0A 0 (katPass s) (freeNext s))
  else { s with sec := { s.sec with drbgReqs := 0, drbgSince := now s, fill := 1536 } }

/-- One ZEROIZE_N assertion: the vault, K_co, SPDM sessions and DRBG state are zeroized, PEND is set (R415, R417). In WATCH the core domain is off, so only the record remains to be written (R418). -/
def zeroizeN (s : State) : State :=
  let s := { s with zer := ⟨true, true, satInc 0xFFFF s.zer.count⟩ }
  if ¬ coreOn s then { s with pwr := { s.pwr with zerDone := true } } else
  let s := zeroizeAll s
  let s := { s with vault := { s.vault with live := { s.vault.live with co := none } } }
  drbgAgain (wakeDoze 6 (mbxZeroize (coEnd (sessionsEnd s))))

/-- ZEROIZE_N asserted (R416): one zeroization for each assertion. -/
def execZeroizeNAssertion (s : State) : Outcome State Fault Refusal :=
  let s := { s with pin := { s.pin with zeroize := true } }
  .next (if s.zer.held then s else zeroizeN s)

/-- ZEROIZE_N released. -/
def execZeroizeNRelease (s : State) : Outcome State Fault Refusal :=
  .next { s with pin := { s.pin with zeroize := false }, zer := { s.zer with held := false } }

/-- The NOR zeroize record is written and PEND cleared (R417, R418). -/
def execZeroizeRecordStored (s : State) : Outcome State Fault Refusal :=
  .next (if s.zer.pend then recordAs emptyKeys { s with zer := { s.zer with pend := false } } else s)

end Sys2Proof.Machine
end

