-- ==== Sys2Proof/Machine/Slow.lean ====
section
/-!
DEFINITION. Registers of the always-on domain and the copies that a host reads (chapter 03, R51; chapters 16 to 19).
-/
namespace Sys2Proof.Machine

open Sys2Proof

/-- Fields of a word: (lowest bit, value), the fields disjoint and each value within its field. -/
def word (fs : List (Nat × Nat)) : W32 := w32 (fs.foldl (fun a f => a + f.2 * 2 ^ f.1) 0)

/-- AON_VENT_STAT. -/
def ventStat (s : State) : W32 := word [(16, s.hold.dips), (8, s.hold.vents), (0, s.hold.last)]

/-- The always-on registers, but the rw fields, as they stand now. -/
def aonRo (s : State) (o : Nat) : W32 :=
  if 0x80 ≤ o ∧ o < 0xB0 ∧ o % 4 = 0 then w32 (tget 0 s.hk.ch ((o - 0x80) / 4)).toNat else
  match o with
  | 0x020 => word [(31, b2n s.pwr.trans.isSome), (28, s.pwr.pend), (26, s.pwr.lastOp), (22, s.pwr.cur), (0, s.pwr.est)]
  | 0x030 => word [(16, s.pwr.watchMask.toNat), (0, s.pwr.watchPeriod)]
  | 0x070 => word [(28, s.pwr.wakeSrc), (24, s.pwr.wakeCh), (21, s.pwr.wakeFrom)]
  | 0x074 => w32 s.pwr.cycles
  | 0x110 => word [(31, b2n s.therm.fast), (26, thermLevel s), (16, s.therm.kerf), (0, s.therm.ttarget)]
  | 0x114 => w32 (BitVec.ofInt 16 s.therm.max).toNat
  | 0x208 => word [(16, s.hold.vmin), (0, s.hold.cap)]
  | 0x20C => word [(31, b2n s.hold.low), (30, b2n s.hold.tested), (0, s.hold.cmeas)]
  | 0x218 => ventStat s
  | 0x300 => word [(31, b2n s.zer.pend), (30, b2n s.zer.held), (0, s.zer.count)]
  | _ => 0

/-- An always-on register as it stands now, rw fields included. -/
def aonWord (s : State) (o : Nat) : W32 := aonRo s o ||| regGet s (0x30000 + o)

/-- Offsets of the always-on registers that a host reads as copies, rising. -/
def aonOffs : List Nat :=
  [0x20, 0x30, 0x34] ++ (List.range 12).map (fun c => 0x40 + 4 * c) ++ [0x70, 0x74] ++ (List.range 12).map (fun c => 0x80 + 4 * c) ++
  [0x100, 0x104, 0x108, 0x10C, 0x110, 0x114, 0x200, 0x204, 0x208, 0x20C, 0x214, 0x218, 0x300]

/-- Offsets of the AON block that hold a register; a write to any other is discarded before it is posted (R42). -/
def aonHas (o : Nat) : Bool := o ∈ aonOffs || o ∈ [0x10, 0x210, 0x3FF0, 0x3FF4]

/-- Every copy is refreshed, as at a slow-clock edge (R51). -/
def aonRefresh (s : State) : State :=
  { s with hk := { s.hk with
      copies := (aonOffs.map fun o => (o, aonWord s o ^^^ aonWord {} o)).filter fun e => e.2 ≠ 0 } }

/-- What a read of the AON block returns: the copy as the last slow-clock edge left it (R51); AON_WPEND.COUNT is exact. -/
def readAon (s : State) (o : Nat) : W32 :=
  if o = 0x10 then w32 s.aonQ.length
  else if o ∈ aonOffs then tget 0 s.hk.copies o ^^^ aonWord {} o
  else 0

end Sys2Proof.Machine
end

