-- ==== Sys2Proof/Machine/Gates.lean ====
section
/-!
DEFINITION. Register writes (chapter 03): aliases, status flags and strobes (R45 to R48), posted always-on writes (R52),
gated blocks (R63, R64), wide values (R54 to R57), the enable gates (R58 to R62), persistent fields (R67), key entry
through KEYV (R256 to R259) and Crypto Officer authentication (R394 to R396).
-/
namespace Sys2Proof.Machine

open Sys2Proof

/-! ### Gated blocks (R16, R17, R63, R64, R71, R331, R350, R353) -/

/-- Whether DRAM is out of service: in DOZE and WATCH, until every rank's drift check in the exit has ended (R331, R350, R358). -/
def dramGated (s : State) : Bool :=
  (s.md.cur = .watch || s.md.cur = .doze) && (!exitRuns s || s.dram.ranks.any fun e => e.2.checkDue || e.2.retraining)

/-- Whether the block that holds a Control window offset is gated: its power domain is off, or the clock of the PHY that it
controls is stopped. The exit from WATCH powers the sections after the ranks' checks, that from DOZE before; a channel is served after
its own check (R351, R358). -/
def blockGated (s : State) (off : Nat) : Bool :=
  let core := !coreOn s
  let sec := core || (s.md.cur = .watch && dramGated s) || (s.md.cur = .doze && !exitRuns s) || !s.md.loaded
  if off < 0x20000 then false
  else if off < 0x30000 then s.md.cur = .watch
  else if off < 0x80000 then core || !s.md.loaded
  else if off < 0x90000 then core || dramGated s || !s.md.loaded || physOff s
  else if off < 0xC0000 then core || !s.md.loaded
  else if off < 0x100000 then false
  else if off < 0x900000 then
    let b := off % 0x100000 / 0x10000
    let c := chanOf s ((off - 0x100000) / 0x100000 * 8 + (b - 4))
    if b = 3 ∨ 11 < b then false
    else sec || (4 ≤ b && (physOff s || c.gated || c.checkDue))
  else false

/-- Window offset of a normal offset seen through an alias (R45). -/
def aliasOff (al : RegAlias) (off : Nat) : Nat :=
  off + (match al with | .normal => 0 | .setBits => 0x4000 | .clearBits => 0x8000 | .toggleBits => 0xC000)

/-- SOURCE code of a requester. -/
def reqCode : Requester → Nat
  | .host => 0 | .firmware => 1 | .sideband => 2

/-- The record of a gated access (R64). -/
def gatedRecord (who : Requester) (isWrite : Bool) (off : Nat) (s : State) : State :=
  let g := s.gat
  let g' : Gat := if g.valid then g else
    { g with valid := true, dir := isWrite, source := reqCode who, block := off / 0x10000 % 512, offset := off % 0x10000 / 4 }
  { s with gat := { g' with count := satInc 0xFFFFFFFF g.count } }

/-- An access to a gated block: a host write is discarded and a host read completes with ones; a sideband request is
answered with an error, and firmware gets a bus error; no access wakes the block (R63). -/
def execGatedBlockAccess (who : Requester) (isWrite : Bool) (off : Nat) (s : State) : Outcome State Fault Refusal :=
  if ¬ blockGated s off then .next s else
  let s := gatedRecord who isWrite off s
  .next (match who with
    | .host => s
    | .firmware => emit .busError s
    | .sideband => emit .sidebandError s)

/-- VALID cleared through the clear alias (R64). -/
def gatedClear (s : State) : State := { s with gat := { s.gat with valid := false, count := 0 } }

/-- The row of R64. -/
def execGatedAccessClear (s : State) : Outcome State Fault Refusal := .next (gatedClear s)

/-! ### Wide values (R54 to R57) -/

/-- A wide-value window. -/
def wvOf (s : State) : WvView → WvWin
  | .top => s.wvTop
  | .vf v => tget {} s.wvVf v

/-- Change a wide-value window. -/
def modWv (w : WvView) (g : WvWin → WvWin) (s : State) : State :=
  match w with
  | .top => { s with wvTop := g s.wvTop }
  | .vf v => { s with wvVf := tset {} s.wvVf v (g (tget {} s.wvVf v)) }

/-- One of a contender's four counters, in the order of selectors 1000h to 1003h. -/
def ctrSel (k : Ctrs) : Nat → Nat
  | 0 => k.wr | 1 => k.rd | 2 => k.media | _ => k.cmds

/-- The value a selector names in a view; none where it is undefined or not permitted (R55, R56). -/
def wvValue (s : State) (w : WvView) (sel : Nat) : Option Nat :=
  if sel = 1 then some (now s)
  else match w with
    | .vf v => if 0x10 ≤ sel ∧ sel ≤ 0x13 then some (ctrSel (ctrOf s (v - 1)) (sel - 0x10)) else none
    | .top =>
      if sel = 2 then some s.flt.computed.toNat
      else if sel = 3 then some s.flt.expected.toNat
      else if sel = 4 then some s.pwr.wakeTime
      else if 0x1000 ≤ sel ∧ sel < 0x2000 then some (ctrSel (ctrOf s ((sel - 0x1000) / 4)) (sel % 4))
      else if 0x4000 ≤ sel ∧ sel < 0x4800 then some (slotOf s (sel - 0x4000)).hwm
      else none

/-- A write of SEL (R54): VALID and ERR cleared, the data left. -/
def wvSelect (w : WvView) (sel : BitVec 16) (s : State) : State :=
  modWv w (fun x => { x with sel := sel, valid := false, err := false }) s

/-- A SNAP (R54, R57). A value of the core domain is complete at once; the always-on one at the next slow edge. A read of
device time bounds its later values (R40). -/
def wvSnap (w : WvView) (s : State) : State :=
  let sel := (wvOf s w).sel.toNat
  let s := if sel = 1 then { s with clk := { s.clk with lastRead := now s } } else s
  match wvValue s w sel with
  | none => modWv w (fun x => { x with valid := true, err := true, seq := x.seq + 1, data := 0, waitEdge := false }) s
  | some d =>
    if sel = 4 then modWv w (fun x => { x with valid := false, err := false, seq := x.seq + 1, waitEdge := true }) s
    else modWv w (fun x => { x with valid := true, err := false, seq := x.seq + 1, data := BitVec.ofNat 128 d, waitEdge := false }) s

/-- Whether the host reaches the TOP block: the link is served from stage 1 of START on, and the core domain is on (R71). -/
def topServed (s : State) : Bool := coreOn s && !(s.md.cur = .start && s.md.stage = 0)

/-- Whether a window is there to be written: the TOP block, or a Tenant window of a present VF. -/
def wvServed (s : State) : WvView → Bool
  | .top => topServed s
  | .vf v => v ≠ 0 && fnPresent s v && coreOn s

/-- A write of WV_SEL. -/
def execWvSelWrite (view : WvView) (sel : BitVec 16) (s : State) : Outcome State Fault Refusal :=
  .next (if wvServed s view then wvSelect view sel s else s)

/-- A write of WV_CTRL.SNAP. -/
def execWvSnap (view : WvView) (s : State) : Outcome State Fault Refusal :=
  .next (if wvServed s view then wvSnap view s else s)

/-! ### Pace meters (R32) -/

/-- MIN of a meter (section 0 to 7, device 8) returns to 7FFh. -/
def paceClr (m : Nat) (s : State) : State :=
  let x := tget {} s.pace.meters m
  { s with pace := { s.pace with meters := tset {} s.pace.meters m { x with min := 0x7FF, fresh := true } } }

/-- SEC_PACE_CLR.MIN. -/
def execSecPaceClr (k : Nat) (s : State) : Outcome State Fault Refusal :=
  .next (if 8 ≤ k then s else if blockGated s (secBase k) then gatedRecord .host true (secBase k + 0x44) s else paceClr k s)

/-- TOP_PACE_DEV_CLR.MIN. -/
def execTopPaceDevClr (s : State) : Outcome State Fault Refusal := .next (if topServed s then paceClr 8 s else s)

/-! ### Enable gates (R58 to R62, R447) -/

/-- A failing check: register (Control window offset), bit and code. -/
abbrev GateFail := Option (Nat × Nat × Nat)

/-- The first that fails. -/
def firstFail : List GateFail → GateFail
  | [] => none
  | some f :: _ => some f
  | none :: t => firstFail t

/-- Lowest set bit of a word. -/
def lowBit (w : W32) : Nat := ((List.range 32).find? fun i => bitOf w i).getD 0

/-- A reserved bit set in a register (R10). -/
def rsvFail (s : State) (off : Nat) : GateFail :=
  let r := tget 0 s.rsv off
  if r = 0 then none else some (off, lowBit r, 2)

/-- A field outside its range (01h). -/
def rangeFail (s : State) (off hi lo mn mx : Nat) : GateFail :=
  let v := regFld s off hi lo
  if v < mn ∨ mx < v then some (off, lo, 1) else none

/-- The objects of KEYV and AON that the running long command owns (R469). -/
def ownsSlot (s : State) (k : Nat) : Bool :=
  s.mbx.run.any fun r =>
    (r.opc = 0x0407 && (s.nss.any fun e => (r.args.getD 1 0 = 0xFFFFFFFF || (r.args.getD 1 0).toNat = e.1) &&
        e.2.any fun n => n.hints.any fun h => profSlot (profOf s h.2) = some k)) ||
    (r.opc = 0x0803 && (slotOf s k).cur.isSome && (slotOf s k).owner = (r.args.getD 0 0).toNat)

/-- A gate run in the block at `base` for the bit at (off, bit) (R58, R60, R447): the tag first, then an owned object, then
the object's checks. On acceptance `ok` runs. Code 07h for the cryptographic error state is given to key commits only, as the check
lists of R34, R314, R381 and chapter 17 have no such check (DESIGN CHOICE, log 92). -/
def gateRun (base off bit obj : Nat) (owned : Bool) (checks : GateFail) (ok : State → State) (s : State) : State :=
  if tagRefuses s then gateRecord s base (off - base) bit 0x16 obj
  else if owned then gateRecord s base (off - base) bit 0x10 obj
  else match checks with
    | some (o, b, c) => gateRecord s base (o - base) b c obj
    | none => ok (gateRecord s base 0 0 0 obj)

/-- A write of a register with an ENABLE or ARM bit: the other fields are stored, a bit that becomes 1 runs its gate, a bit
that becomes 0 is cleared with no check (R58, R61). -/
def gatedWrite (al : RegAlias) (off bit : Nat) (v : W32) (gate : State → State) (s : State) : State :=
  let old := regGet s off
  let new := aliasWord al old v
  let s := regWrite s al off v
  if bitOf new bit ∧ ¬ bitOf old bit then gate s
  else if ¬ bitOf new bit ∧ bitOf old bit then regSetFld s off bit bit 0
  else s

/-- The pace loop takes the values in range (R34). -/
def paceLatch (s : State) : State :=
  let inR (off hi lo mn mx old : Nat) : Nat :=
    let v := regFld s off hi lo
    if mn ≤ v ∧ v ≤ mx then v else old
  { s with pace := { s.pace with
      target := inR 0x10204 10 0 100 1250 s.pace.target, ceil := inR 0x10208 9 0 600 850 s.pace.ceil,
      step := inR 0x10200 11 8 1 10 s.pace.step, hyst := inR 0x10200 7 0 5 200 s.pace.hyst } }

/-- The gate of TOP_PACE_CTRL.ENABLE (R34): reserved bits, then TARGET, CEIL, STEP and HYST. -/
def paceGate (s : State) : State :=
  gateRun 0x10000 0x10200 16 0 false
    (firstFail [rsvFail s 0x10200, rsvFail s 0x10204, rsvFail s 0x10208, rangeFail s 0x10204 10 0 100 1250,
      rangeFail s 0x10208 9 0 600 850, rangeFail s 0x10200 11 8 1 10, rangeFail s 0x10200 7 0 5 200])
    (fun s => regSetFld s 0x10200 16 16 1) s

/-- A write of TOP_PACE_CTRL. -/
def paceCtrlWrite (al : RegAlias) (v : W32) (s : State) : State :=
  paceLatch (gatedWrite al 0x10200 16 v paceGate s)

/-- TOP_PACE_CTRL written with ENABLE. -/
def execPaceEnable (al : RegAlias) (v : W32) (s : State) : Outcome State Fault Refusal :=
  .next (if topServed s then paceCtrlWrite al v s else s)

/-- LEVEL of a threshold register as written. -/
def thrLevel (s : State) (off : Nat) : Int := sgn16 (BitVec.ofNat 16 (regFld s off 15 0))
/-- HYST of a threshold register as written. -/
def thrHyst (s : State) (off : Nat) : Nat := regFld s off 23 16

/-- The checks of R381, in order. -/
def thermChecks (s : State) : GateFail :=
  let regs := [0x30100, 0x30104, 0x30108]
  let lv := thrLevel s
  let lvl (o : Nat) : GateFail := if lv o < 400 ∨ 1000 < lv o then some (o, 0, 1) else none
  let hys (o : Nat) : GateFail := if thrHyst s o < 4 ∨ 160 < thrHyst s o then some (o, 16, 1) else none
  let w := lv 0x30100
  let t := lv 0x30104
  let h := lv 0x30108
  firstFail (regs.map (rsvFail s) ++ [rsvFail s 0x3010C] ++
    (regs.map fun o => firstFail [lvl o, hys o]) ++ [rangeFail s 0x3010C 10 0 100 1000,
     (if t ≤ w then some (0x30104, 0, 0x0E) else none), (if h ≤ t then some (0x30108, 0, 0x0E) else none),
     (if t - w < thrHyst s 0x30104 then some (0x30104, 16, 0x0F) else none),
     (if h - t < thrHyst s 0x30108 then some (0x30108, 16, 0x0F) else none)])

/-- An accepted thermal enable: the thresholds come into force for the next sample (R382), and the mark is recomputed. -/
def thermAccept (s : State) : State :=
  let th (o : Nat) : Thr := ⟨thrLevel s o, thrHyst s o⟩
  let s := { s with therm := { s.therm with
    warn := th 0x30100, throt := th 0x30104, shut := th 0x30108, thrPace := regFld s 0x3010C 10 0 } }
  witness (regSetFld s 0x3010C 31 31 1)

/-- The gate of AON_THERM_CTRL.ENABLE. -/
def thermGate (s : State) : State := gateRun 0x30000 0x3010C 31 0 false (thermChecks s) thermAccept s

/-- The checks of chapter 17 on DEBOUNCE, WARN and RECOVER. -/
def ventChecks (s : State) : GateFail :=
  firstFail [rsvFail s 0x30200, rsvFail s 0x30204, rangeFail s 0x30200 24 16 20 500,
    rangeFail s 0x30204 15 0 1000 15000, rangeFail s 0x30204 31 16 0 16000,
    if regFld s 0x30204 31 16 ≤ regFld s 0x30204 15 0 then some (0x30204, 16, 0x0E) else none]

/-- An accepted enable latches the levels and the debounce (R61) and arms the Vent (R371); what the cache holds may now be power-safe
(R166, R364). -/
def ventAccept (s : State) : State :=
  let s := { s with hold := { s.hold with
    deb := regFld s 0x30200 24 16, warn := regFld s 0x30204 15 0, recover := regFld s 0x30204 31 16 } }
  fuaCheck (regSetFld s 0x30200 31 31 1)

/-- The gate of AON_VENT_CTRL.ENABLE; VENT_TEST owns it (R469). -/
def ventGate (s : State) : State := gateRun 0x30000 0x30200 31 0 (ventTesting s) (ventChecks s) ventAccept s

/-- The checks of R314, in order. -/
def mapChecks (s : State) : GateFail :=
  let m := storedMap s
  let regs := 0x80004 :: ((List.range 8).map fun i => [0x80010 + 8 * i, 0x80014 + 8 * i]).flatten
  let home (i : Nat) : Nat := (m.getD i (0, 0)).2
  let out := (List.range 8).find? fun i => home i < 6 || 29 < home i
  let dup := (List.range 8).find? fun i => (List.range i).any fun j => home j = home i
  firstFail (regs.map (rsvFail s) ++ [
    (if 5 ≤ regFld s 0x80004 2 0 then some (0x80004, 0, 1) else none),
    out.map (fun i => (0x80014 + 8 * i, 16, 1)), dup.map (fun i => (0x80014 + 8 * i, 16, 1)),
    (if regFld s 0x80004 2 0 = 0 then (mapSingular m).map (fun i => (0x80010 + 8 * i, 6, 0x0D)) else none)])

/-- The gate of DRMC_MAP_CTRL.ARM: an accepted map waits for the next START (R316). -/
def mapGate (s : State) : State :=
  gateRun 0x80000 0x80004 8 0 false (mapChecks s) (fun s => regSetFld s 0x80004 8 8 1) s

/-- A write of DRMC_MAP_CTRL. -/
def mapCtrlWrite (al : RegAlias) (v : W32) (s : State) : State := gatedWrite al 0x80004 8 v mapGate s

/-- DRMC_MAP_CTRL written with ARM. -/
def execDramMapArm (al : RegAlias) (v : W32) (s : State) : Outcome State Fault Refusal :=
  .next (if blockGated s 0x80000 then gatedRecord .host true (aliasOff al 0x80004) s else mapCtrlWrite al v s)

/-! ### Always-on writes (R51 to R53) -/

/-- A posted always-on write: the queue of eight, or held at the crossing (R52). -/
def aonPost (w : AonWrite) (s : State) : State :=
  if s.aonHeld = [] ∧ s.aonQ.length < 8 then { s with aonQ := s.aonQ ++ [w] } else { s with aonHeld := s.aonHeld ++ [w] }

/-- One always-on write taking effect at its edge, against the stored value at that moment (R53, R59). -/
def aonApply (w : AonWrite) (s : State) : State :=
  if w.off = 0x3010C then gatedWrite w.al w.off 31 w.v thermGate s
  else if w.off = 0x30200 then gatedWrite w.al w.off 31 w.v ventGate s
  else if w.off = 0x30210 then (if w.al = .normal ∧ bitOf w.v 0 then capTest s else s)
  else regWrite s w.al w.off w.v

/-- Snapshots of the always-on value complete at the edge (R57). -/
def wvEdge (s : State) : State :=
  let fin (x : WvWin) : WvWin :=
    if x.waitEdge then { x with valid := true, data := BitVec.ofNat 128 s.pwr.wakeTime, waitEdge := false } else x
  { s with wvTop := fin s.wvTop, wvVf := tmap {} (fun _ x => fin x) s.wvVf }

/-- A slow-clock edge (R51, R52): every write posted before it takes effect, held ones enter the queue, and every copy is
refreshed, these writes in it. -/
def aonEdge (s : State) : State :=
  let q := s.aonQ
  let s := wvEdge { s with aonQ := s.aonHeld.take 8, aonHeld := s.aonHeld.drop 8 }
  aonRefresh (q.foldl (fun s w => aonApply w s) s)

/-- A slow-clock edge with writes posted. -/
def execAonPostedWrite (s : State) : Outcome State Fault Refusal := .next (aonEdge s)

/-- An always-on write together with the slow edge at which it takes effect, after every write before it (log 8). -/
def aonWriteEdge (w : AonWrite) (s : State) : State :=
  let q := s.aonQ ++ s.aonHeld ++ [w]
  let s := wvEdge { s with aonQ := [], aonHeld := [] }
  aonRefresh (q.foldl (fun s w => aonApply w s) s)

/-- AON_THERM_CTRL written with ENABLE (R381, R382). -/
def execThermalEnable (al : RegAlias) (v : W32) (s : State) : Outcome State Fault Refusal :=
  .next (if blockGated s 0x30000 then gatedRecord .host true (aliasOff al 0x3010C) s else aonWriteEdge ⟨0x3010C, al, v⟩ s)

/-- AON_VENT_CTRL written with ENABLE (R371). -/
def execVentEnable (al : RegAlias) (v : W32) (s : State) : Outcome State Fault Refusal :=
  .next (if blockGated s 0x30000 then gatedRecord .host true (aliasOff al 0x30200) s else aonWriteEdge ⟨0x30200, al, v⟩ s)

/-- AON_HOLDUP_TEST.RUN at its slow edge (R366). -/
def execHoldupTestRun (s : State) : Outcome State Fault Refusal :=
  .next (if blockGated s 0x30000 then gatedRecord .host true 0x30210 s else aonWriteEdge ⟨0x30210, .normal, 1⟩ s)

/-! ### Persistent fields (R67) -/

/-- Firmware stores the pending class P writes, or a NOR write fails and is tried again (R67). -/
def execPWriteStore (ok : Bool) (s : State) : Outcome State Fault Refusal :=
  .next (if ¬ pOwed s ∨ ¬ coreOn s then s else if ok then storeP s else { s with psaveFail := true })

/-! ### Key entry through KEYV (R256 to R259) -/

/-- SLOT of KEYV_SLOT_SEL. -/
def selSlot (s : State) : Nat := regFld s 0x40000 11 0
/-- OWNER of KEYV_SLOT_SEL. -/
def selOwner (s : State) : Nat := regFld s 0x40000 31 16

/-- A write of KEYV_SLOT_SEL discards the staged words (R257). -/
def keySelect (al : RegAlias) (v : W32) (s : State) : State := unstage (regWrite s al 0x40000 v)

/-- KEYV_SLOT_SEL written. -/
def execKeySlotSelect (al : RegAlias) (v : W32) (s : State) : Outcome State Fault Refusal :=
  .next (if blockGated s 0x40000 then gatedRecord .host true (aliasOff al 0x40000) s else keySelect al v s)

/-- A key word staged for the selected slot (R257). -/
def keyWord (i : Nat) (v : W32) (s : State) : State :=
  { s with vault := { s.vault with
      staged := some (s.vault.staged.getD (selSlot s)), words := tset none s.vault.words i (some v) } }

/-- KEYV_KEY_i written at the normal offset. -/
def execKeyWordWrite (i : Nat) (v : W32) (s : State) : Outcome State Fault Refusal :=
  .next (if 8 ≤ i then s else if blockGated s 0x40000 then gatedRecord .host true (0x40010 + 4 * i) s else keyWord i v s)

/-- The 32 bytes of the staged key. -/
def stagedKey (s : State) : List Byte :=
  ((List.range 8).map fun i => leBytes 4 ((tget none s.vault.words i).getD 0).toNat).flatten

/-- The key commit checks of R258, in order, with what KEYV_REFUSE names. -/
def commitChecks (force : Bool) (s : State) : GateFail :=
  let k := selSlot s
  let o := selOwner s
  let c := slotCheck s k o force
  let badOwner := k ≠ 0x800 && 1023 < o && o ≠ 0xFFFF
  let missing := (List.range 8).find? fun i => (tget none s.vault.words i).isNone
  firstFail [
    (if keyEntryBarred s ∨ ¬ s.co.role then some (0x40040, 0, 7) else none),
    (if c = 1 then some (0x40000, if k ≤ 2047 ∧ badOwner then 16 else 0, 1) else none),
    missing.map (fun i => (0x40010 + 4 * i, 0, 1)),
    rsvFail s 0x40000,
    (if c = 4 then some (0x40000, 16, 4) else none),
    (if c = 0x13 then some (0x40000, 0, 0x13) else none)]

/-- KEYV_COMMIT.COMMIT: the gate over the staged key; the staged words are erased whatever its outcome (R258). -/
def keyCommitOp (force : Bool) (s : State) : State :=
  let k := selSlot s
  let o := selOwner s
  unstage (gateRun 0x40000 0x40040 0 k (ownsSlot s k) (commitChecks force s) (fun s => loadKey k o (stagedKey s) s) s)

/-- COMMIT without FORCE. -/
def execKeyCommit (s : State) : Outcome State Fault Refusal :=
  .next (if blockGated s 0x40000 then gatedRecord .host true 0x40040 s else keyCommitOp false s)

/-- COMMIT with FORCE (R262). -/
def execKeyCommitForce (s : State) : Outcome State Fault Refusal :=
  .next (if blockGated s 0x40000 then gatedRecord .host true 0x40040 s else keyCommitOp true s)

/-! ### Crypto Officer (R394 to R396) -/

/-- The serial number bytes. -/
def serialBytes : List Byte := (List.range 20).map Config.serial

/-- The response words as bytes. -/
def coResp (s : State) : List Byte := ((List.range 12).map fun i => leBytes 4 (tget 0 s.co.resp i).toNat).flatten

/-- The response that K_co and COUNT call for. -/
def coExpected (key : List Byte) (count : Nat) : List Byte := hmac384 key (serialBytes ++ leBytes 4 count)

/-- Whether SUBMIT and SETKEY are ignored: a lockout runs, or COUNT has ended. -/
def coIgnored (s : State) : Bool := s.co.lockedUntil.isSome || s.co.count = 0xFFFFFFFF || !topServed s

/-- What SUBMIT and SETKEY both do last: COUNT rises and the words are erased. -/
def coUsed (s : State) : State := { s with co := { s.co with count := s.co.count + 1, resp := [] } }

/-- A failure is counted; at five a lockout of 60 s begins. -/
def coFailed (s : State) : State :=
  let n := satInc 5 s.co.fails
  { s with co := { s.co with fails := n, lockedUntil := if n = 5 then some (now s + 60000000000) else none } }

/-- SUBMIT (R394). -/
def coSubmitOp (s : State) : State :=
  if coIgnored s then s else
  match s.vault.live.co with
  | some k =>
    if coResp s = coExpected k s.co.count then coUsed { s with co := { s.co with role := true, fails := 0 } }
    else coUsed (coFailed s)
  | none => coUsed (coFailed s)

/-- SETKEY (R395). -/
def coSetkeyOp (s : State) : State :=
  if coIgnored s then s
  else if s.vault.live.co.isNone ∨ s.co.role then
    let v := s.vault
    let s := recordAs (fun r => { r with co := some (wrapKey (coResp s)) }) { s with vault := { v with live := { v.live with co := some (coResp s) } } }
    coUsed { s with co := { s.co with role := true } }
  else coUsed (coFailed s)

/-- SUBMIT written alone. -/
def execCoSubmit (s : State) : Outcome State Fault Refusal := .next (coSubmitOp s)

/-- LOGOUT written alone (R396), where the block answers. -/
def execCoLogout (s : State) : Outcome State Fault Refusal := .next (if topServed s then coEnd s else s)

/-- SETKEY written alone. -/
def execCoSetkey (s : State) : Outcome State Fault Refusal := .next (coSetkeyOp s)

/-- TOP_CO_AUTH written: more than one strobe is ignored as a whole (R394). -/
def coAuthWrite (v : W32) (s : State) : State :=
  match bitOf v 2, bitOf v 1, bitOf v 0 with
  | true, false, false => coSetkeyOp s
  | false, true, false => coEnd s
  | false, false, true => coSubmitOp s
  | _, _, _ => s

/-! ### Other registers with an effect of their own -/

/-- A reduction of the frame length table cache evicts pages at once (R199). -/
def fltcWrite (al : RegAlias) (v : W32) (s : State) : State :=
  let s := regWrite s al 0x70120 v
  { s with fltc := s.fltc.take (regFld s 0x70120 6 0 * 262144) }

/-- ZONE_FLTC_CTRL written. -/
def execFltcSizeWrite (al : RegAlias) (v : W32) (s : State) : Outcome State Fault Refusal :=
  .next (if blockGated s 0x70000 then gatedRecord .host true (aliasOff al 0x70120) s else fltcWrite al v s)

/-- CDC_CTRL of section k written: RESERVE applies to coder operations that start after it (R207). -/
def execCdcReserveWrite (k : Nat) (al : RegAlias) (v : W32) (s : State) : Outcome State Fault Refusal :=
  .next (if 8 ≤ k then s
    else if blockGated s (cdcBase k) then gatedRecord .host true (aliasOff al (cdcBase k)) s
    else regWrite s al (cdcBase k) v)

/-- MBX_REJECTS returns to 0 (R90). -/
def rejClr (s : State) : State := { s with mbx := { s.mbx with rejects := 0 } }

/-- MBX_CTRL.REJ_CLR written. -/
def execRejClr (s : State) : Outcome State Fault Refusal :=
  .next (if blockGated s 0x20000 then gatedRecord .host true 0x200A8 s else rejClr s)

/-- A write to MBX_CMD, MBX_ARG or MBX_BUF: ignored and counted while a command runs (R90). -/
def mbxRegWrite (al : RegAlias) (off : Nat) (v : W32) (s : State) : State :=
  let o := off - 0x20000
  let counts := o = 0 ∨ o = 0x60 ∨ (0x10 ≤ o ∧ o ≤ 0x58 ∧ o % 4 = 0)
  if s.mbx.st = .busy ∧ counts then { s with mbx := { s.mbx with rejects := satInc 0xFFFFFFFF s.mbx.rejects } }
  else regWrite s al off v

/-- The vector-control bit of an MSI-X entry cleared: the message that waits is sent, at once when an Urgent-class entry is among
those pending, else under the budget (R111). -/
def msiUnmask (f v : Nat) (s : State) : State :=
  let fn := fnOf s f
  let s := modFn f (fun fn => { fn with unmasked := insNat v fn.unmasked, msixOn := true }) s
  if v ∈ fn.unmasked ∨ v ∉ fn.pba ∨ frozenFn s f then s
  else if v ∈ fn.urgentPba then msiSend f v false s
  else if v ∈ fn.held ∧ budgetOf s f ≠ 0 ∧ budgetOf s f ≤ fn.sentMsgs then s
  else msiBudget f v (modFn f (fun fn => { fn with held := rmNat v fn.held }) s)

/-- Vectors of a function (R105, R106). -/
def fnVectors (s : State) (f : Nat) : Nat := if f = 0 then 64 else (tnOf s (f - 1)).vec

/-- A vector unmasked by the host. -/
def execVectorUnmask (f v : Nat) (s : State) : Outcome State Fault Refusal :=
  .next (if fnPresent s f ∧ v < fnVectors s f ∧ coreOn s then msiUnmask f v s else s)

end Sys2Proof.Machine
end

