-- ==== Sys2Proof/Machine/Pace.lean ====
section
/-!
DEFINITION. Pace meters (R32), the pace loop and its regulator (R33 to R37), and the device time base without its reference
clock (R40).
-/
namespace Sys2Proof.Machine

open Sys2Proof

/-- Whether a meter's section is gated: sections are off in DOZE and WATCH (R17); the mode at the window's end decides (DESIGN CHOICE,
log 43). Meter 8 is the device's. -/
def meterGated (s : State) (m : Nat) : Bool := s.md.cur = .watch || (m < 8 && s.md.cur = .doze && !exitRuns s)

/-- The end of a 1 ms window of a meter (R32). The first window that ends after a clear is 'the next complete window' (DESIGN CHOICE,
log 43). -/
def execPaceWindowEnd (meter reading : Nat) (s : State) : Outcome State Fault Refusal :=
  let x := tget {} s.pace.meters meter
  if 8 < meter ∨ now s < x.endAt + 1000000 then .next s else
  let r := min reading 2000
  let x' : Meter :=
    if meterGated s meter then { x with pace := 0, endAt := now s }
    else { pace := r, min := if x.fresh then r else min x.min r, fresh := false, endAt := now s }
  .next { s with pace := { s.pace with meters := tset {} s.pace.meters meter x' } }

/-- The measured pace: the lowest reading among powered sections and the device meter (R33). -/
def measuredPace (s : State) : Nat :=
  (((List.range 8).filter fun m => !meterGated s m).map fun m => (tget {} s.pace.meters m).pace).foldl min
    (tget {} s.pace.meters 8).pace

/-- Power cap of a power state in 10 mW (R346); the power of PS3 is a cap too (DESIGN CHOICE, log 45). -/
def powerCap : Nat → Nat
  | 0 => 5500 | 1 => 4000 | 2 => 2800 | 3 => 700 | _ => 60

/-- Of two candidate setpoints with the bound that asks for each, the lower; at one voltage a bound before none (R35). -/
def lowerCand (a b : Nat × Nat) : Nat × Nat :=
  if b.1 < a.1 ∨ (b.1 = a.1 ∧ a.2 = 0) then b else a

/-- The next setpoint and the bound in force (R33, R35): tracking, the power cap, the ceiling, then the floor and the
thermal target. Steps that would pass a bound are cut to it (DESIGN CHOICE, log 44). -/
def paceNext (p : Pace) (measured eff est cap ttarget : Nat) : Nat × Nat :=
  let v := p.vset
  let track := if measured < eff then v + p.step else if eff + p.hyst < measured then v - p.step else v
  let c := (track, 0)
  let c := if cap ≤ est then lowerCand c (v - p.step, 2) else c
  let c := if p.ceil < v then lowerCand c (max (v - p.step) p.ceil, 1)
           else if p.ceil < track then lowerCand c (p.ceil, 1) else c
  let (n, l) := if c.1 < 600 then (600, if c.2 = 0 then 3 else c.2) else c
  (n, if l = 0 ∧ ttarget < p.target then 4 else l)

/-- Whether the loop acts: firmware has enabled it, and no Vent holds the setpoint (R37, R372). It stays idle through
START (DESIGN CHOICE, log 46). -/
def paceActs (s : State) : Bool :=
  s.md.loaded && s.md.cur ≠ .start && s.md.cur ≠ .vent && s.md.cur ≠ .watch && regFld s 0x10200 16 16 = 1

/-- One action of the pace loop, every 1 ms, with the controller power estimate in 10 mW (R33 to R36). A step in progress on AVSBus is
not cut short; after a failed write each action writes again. -/
def execPaceLoopAction (est : Nat) (s : State) : Outcome State Fault Refusal :=
  let s := if s.md.cur = .watch then s else { s with pwr := { s.pwr with est := min est 0xFFFF } }
  if ¬ paceActs s ∨ s.pace.avsOut.isSome ∨ now s < s.pace.actAt + 1000000 then .next s else
  let s := paceLatch s
  let eff := min s.pace.target s.therm.ttarget
  let (v, l) := paceNext s.pace (measuredPace s) eff est (powerCap s.pwr.cur) s.therm.ttarget
  let out := if v ≠ s.pace.vset ∨ s.pace.avsFault then some v else none
  let since := if out.isSome then now s else s.pace.avsAt
  .next { s with pace := { s.pace with effTarget := eff, limit := l, avsOut := out, actAt := now s, avsAt := since } }

/-- No acknowledge within 1 ms (R36): the last acknowledged setpoint stands. -/
def execAvsAckTimeout (s : State) : Outcome State Fault Refusal :=
  .next (if s.pace.avsOut.isSome ∧ s.pace.avsAt + 1000000 ≤ now s then { s with pace := { s.pace with avsOut := none, avsFault := true } } else s)

/-- The regulator acknowledges a write. -/
def execAvsbusAcknowledge (s : State) : Outcome State Fault Refusal :=
  .next (match s.pace.avsOut with
    | some v => { s with pace := { s.pace with vset := v, avsOut := none, avsFault := false } }
    | none => s)

/-- The reference clock stops: the slow counter carries device time (R40). -/
def execReferenceClockLoss (s : State) : Outcome State Fault Refusal :=
  .next (timeSlow { s with clk := { s.clk with refPin := false } })

/-- The reference clock returns: device time resumes with the slow ticks that passed, never below a value read; while the core domain is
off the slow counter carries it on to the exit (R40, R358). -/
def execReferenceClockReturn (s : State) : Outcome State Fault Refusal :=
  let s := { s with clk := { s.clk with refPin := true } }
  .next (if s.pwr.coreOff then s else timeBack s)

end Sys2Proof.Machine
end

