-- ==== Sys2Proof/Machine/Admission.lean ====
section
/-!
DEFINITION. Doorbells (R49, R150), admission between tenants and within a function (R113 to R117, R149 to R158, R369), the
epoch boundary (R109, R117, R139, R153, R154) and the interrupt timers (R108).
-/
namespace Sys2Proof.Machine

open Sys2Proof

/-! ### Doorbells -/

/-- A wake that a doorbell makes: Doze (R351). In WATCH the link is in L1.2, and its exit is the wake (R357). -/
def doorbellReaches (s : State) (f : Nat) : Bool :=
  fnPresent s f && (fnOf s f).rdy && (fnOf s f).drain.isNone && coreOn s && s.md.cur ≠ .start

/-- A submission queue tail doorbell, with the entries up to it that the device has not been given (R151): recorded even
while admission is stopped (R171). A tail outside the queue changes nothing. -/
def sqTail (f q tail : Nat) (entries : List Sqe) (s : State) : State :=
  if ¬ doorbellReaches s f then s else
  match sqOf s f q with
  | none => s
  | some sq =>
    let n := (tail + sq.size - (sq.head + sq.subs.length) % sq.size) % sq.size
    if sq.size ≤ tail ∨ n ≠ entries.length then s
    else dozeWake (modSq f q (fun x => { x with tail := tail, subs := x.subs ++ entries }) s)

/-- SQ_TAIL_DOORBELL. -/
def execSqTailDoorbell (f q tail : Nat) (entries : List Sqe) (s : State) : Outcome State Fault Refusal := .next (sqTail f q tail entries s)

/-- A completion queue head doorbell: room for entries that wait (R150); those of a Frozen tenant stay held until it
thaws (R427, R429). -/
def cqHead (f q head : Nat) (s : State) : State :=
  if ¬ doorbellReaches s f then s else
  match cqOf s f q with
  | none => s
  | some cq =>
    if cq.size ≤ head ∨ (cq.tail + cq.size - cq.head) % cq.size < (head + cq.size - cq.head) % cq.size then s
    else
      let s := modCq f q (fun x => { x with head := head }) s
      dozeWake (if frozenFn s f then s else abortsGo (cqDrain cq.waiting.length f q s))

/-- CQ_HEAD_DOORBELL. -/
def execCqHeadDoorbell (f q head : Nat) (s : State) : Outcome State Fault Refusal := .next (cqHead f q head s)

/-! ### Charges (R113) -/

/-- The charge of an I/O command in the read and the write direction. -/
def charges (e : Sqe) : Nat × Nat :=
  if e.opc = 0x02 then (4096 * cmdBlocks e, 0)
  else if isWrite e then (0, 4096 * cmdBlocks e)
  else if e.opc = 0x7A then (max 4096 (4 * (e.cdw12.toNat + 1)), 0)
  else if e.opc = 0x83 ∨ e.opc = 0x87 then (max 4096 e.cdw11.toNat, max 4096 e.cdw10.toNat)
  else (0, 4096)

/-- Data length of a command that charges the write direction, as R369 counts it: the data of a write, the input of an offload job. A
command without such data is not held: R370 admits a Flush above the ceiling (DEDUCED, log 87). -/
def writeLen (e : Sqe) : Nat :=
  if isWrite e then 4096 * cmdBlocks e else if e.opc = 0x83 ∨ e.opc = 0x87 then e.cdw10.toNat else 0

/-- Whether the dirty ceiling holds a head that charges the write direction in its queue (R369). -/
def ceilHolds (s : State) (e : Sqe) : Bool :=
  writeLen e ≠ 0 && s.hold.ceil * 2 ^ 20 < dAll s + writeLen e

/-! ### The head command of a function (R157) -/

/-- Slots that a queue's commands hold; outstanding event requests hold admin slots, until their entries are written (R149, R150). -/
def slotsHeld (s : State) (f q : Nat) : Nat :=
  let waiting := ((cqOf s f 0).map fun c => (c.waiting.filter (·.aer)).length).getD 0
  (s.cmds.filter fun c => c.id.func = f && c.id.sq = q).length + if q = 0 then (fnOf s f).aers.length + waiting else 0

/-- Whether an I/O queue's head may be fetched: an entry, a free slot, no write held by the ceiling, and an identifier that
no admitted command of the queue carries. -/
def sqReady (s : State) (q : Sq) : Bool :=
  match q.subs with
  | [] => false
  | e :: _ => slotsHeld s q.func q.id < (if q.id = 0 then 8 else 32) && (q.id = 0 || !ceilHolds s e) &&
      (cmdOf s ⟨q.func, q.id, e.cid⟩).isNone

/-- Key of a function's arbitration counters. -/
def arbKey (f c : Nat) : Nat := f * 8 + c

/-- The queue after `last` in turn, by ascending identifier. -/
def nextQ (last : Nat) (qs : List Sq) : Option Sq :=
  let ids := qs.foldl (fun l q => insNat q.id l) []
  let pick := match ids.find? fun i => last < i with
    | some i => some i
    | none => ids.head?
  pick.bind fun i => qs.find? fun q => q.id = i

/-- Weight of an arbitration class in commands a round, and the burst (feature 01h, as NVMe defines). -/
def arbWeight (s : State) (f c : Nat) : Nat :=
  let w := featGet (fnOf s f) 1 0
  1 + (if c = 1 then fld w 31 24 else if c = 2 then fld w 23 16 else fld w 15 8)

/-- Commands taken from one queue in a row, 2^AB. -/
def arbBurst (s : State) (f : Nat) : Nat := 2 ^ fld (featGet (fnOf s f) 1 0) 2 0

/-- The queue of class c whose turn it is: the same one while its burst lasts, else the next. -/
def classQ (s : State) (f c : Nat) (qs : List Sq) : Option Sq :=
  let last := tget 0 s.qos.lastSq (arbKey f c)
  let used := tget 0 s.qos.wrr (2 ^ 16 + arbKey f c)
  match qs.find? fun q => q.id = last && used < arbBurst s f with
  | some q => some q
  | none => nextQ last qs

/-- The queue whose head a function's arbitration fetches next, with its class (0 urgent or round robin). -/
def pickQ (s : State) (f : Nat) : Option (Sq × Nat) :=
  let qs := s.sqs.filter fun q => q.func = f && q.id ≠ 0 && sqReady s q
  if (fnOf s f).ams = 0 then (nextQ (tget 0 s.qos.lastSq (arbKey f 0)) qs).map (·, 0)
  else
    match nextQ (tget 0 s.qos.lastSq (arbKey f 0)) (qs.filter (·.prio = 0)) with
    | some q => some (q, 0)
    | none =>
      let cls := [1, 2, 3].filter fun c => qs.any (·.prio = c)
      let pick := match cls.find? fun c => tget 0 s.qos.wrr (arbKey f c) < arbWeight s f c with
        | some c => some c
        | none => cls.head?
      pick.bind fun c => (classQ s f c (qs.filter (·.prio = c))).map (·, c)

/-- The counters after a queue of class c was served: a round ends when no class with an entry has weight left. -/
def arbServed (f : Nat) (q : Sq) (c : Nat) (s : State) : State :=
  let last := tget 0 s.qos.lastSq (arbKey f c)
  let s := { s with qos := { s.qos with lastSq := tset 0 s.qos.lastSq (arbKey f c) q.id } }
  if c = 0 then s else
  let used := tget 0 s.qos.wrr (arbKey f c)
  let w := if arbWeight s f c ≤ used
    then [1, 2, 3].foldl (fun w d => tset 0 w (arbKey f d) 0) s.qos.wrr else s.qos.wrr
  let w := tset 0 w (arbKey f c) (tget 0 w (arbKey f c) + 1)
  let bk := 2 ^ 16 + arbKey f c
  let b := tget 0 w bk
  let b' := if last = q.id ∧ b < arbBurst s f then b + 1 else 1
  { s with qos := { s.qos with wrr := tset 0 w bk b' } }

/-! ### Eligibility and the admission loop (R154 to R156) -/

/-- The admission allowance of a tenant in force (R116). -/
def allowOf (s : State) (t : Nat) : Nat :=
  let n := tnOf s t
  min (32 * n.qp) (max 32 (ceilDiv (n.inForce.cap * 131072) 10000))

/-- I/O commands that a function holds admitted. -/
def ioHeld (s : State) (f : Nat) : Nat := (s.cmds.filter fun c => c.id.func = f && c.id.sq ≠ 0).length

/-- Share of a contender: the PF has a weight only (R154). -/
def shareOf (s : State) (i : Nat) : Share :=
  if i = 1024 then { weight := s.qos.pfWeight } else (tnOf s i).inForce

/-- Whether a contender is an enabled tenant whose admission no freeze has stopped, or the PF. -/
def contends (s : State) (i : Nat) : Bool :=
  let f := if i = 1024 then 0 else i + 1
  (fnOf s f).rdy && (fnOf s f).drain.isNone && (i = 1024 || ((tnOf s i).st = .enabled && s.mig.freeze ≠ some i))

/-- Whether one direction lets a charge pass (R155): budget left, and cap credit for all of it; a charge above the cap of a
whole epoch passes the cap when nothing was charged yet and no debt is carried. -/
def dirOk (budget capc : Int) (charge cap debt : Nat) (charged : Bool) : Bool :=
  charge = 0 || (0 < budget && ((charge : Int) ≤ capc || (cap * 11200 < charge && !charged && debt = 0)))

/-- Whether contender i, whose head charges (r, w), is eligible (R155). -/
def eligible (s : State) (i r w : Nat) : Bool :=
  let k := contOf s i
  let sh := shareOf s i
  (i = 1024 || ioHeld s (i + 1) < allowOf s i) && (sh.iops = 0 || 0 < k.ops) &&
    dirOk s.qos.budgetR k.capcR r sh.cap k.debtR k.charged && dirOk s.qos.budgetW k.capcW w sh.cap k.debtW k.charged

/-- Whether minimum credit is left in every direction the head charges. -/
def hasMin (k : Cont) (r w : Nat) : Bool := (r = 0 || 0 < k.mincR) && (w = 0 || 0 < k.mincW)

/-- The contender's function. -/
def contFn (i : Nat) : Nat := if i = 1024 then 0 else i + 1

/-- A contender that waits and is eligible, with its head. -/
abbrev Cand := Nat × Sq × Nat × Sqe

/-- The eligible contenders in contender order. -/
def candidates (s : State) : List Cand :=
  let is := (s.sqs.filter (·.id ≠ 0)).foldl (fun l q => insNat (contNo q.func) l) []
  is.filterMap fun i =>
    if ¬ contends s i then none else
    match pickQ s (contFn i) with
    | none => none
    | some (q, c) => match q.subs with
      | [] => none
      | e :: _ => if eligible s i (charges e).1 (charges e).2 then some (i, q, c, e) else none

/-- The next after `last` in contender order. -/
def nextCand (last : Nat) (cs : List Cand) : Option Cand :=
  match cs.find? fun c => last < c.1 with
  | some c => some c
  | none => cs.head?

/-- The dispatch class of a queue's commands (R157). -/
def sqCls (ams : Nat) (q : Sq) : DCls :=
  if q.id = 0 then .urgent
  else if ams = 0 then .medium
  else match q.prio with | 0 => .urgent | 1 => .high | 2 => .medium | _ => .low

/-- Blocks that a Flush covers, settled at its admission (R169, R130): its function's cached blocks of the namespaces it
addresses whose writes have completed, and completed writes' blocks still in the write path that a newer write replaced in the
cache. -/
def flushCover (f nsid : Nat) (s : State) : List Cov :=
  let mine (ns : Nat) : Bool := nsid = 0xFFFFFFFF || ns = nsid
  let open' (v : Nat) : Bool := s.cmds.any fun c => c.ord = v && c.id.func = f
  let cached := (s.cache.filter fun b => b.func = f && mine b.ns && !b.kept && !open' b.ver).map fun b => (⟨b.ns, b.lba, b.ver⟩ : Cov)
  let older := s.jobs.flatMap fun e => match e.2 with
    | some j => if j.conv && !j.move && !j.kept && j.func = f && mine j.ns && !open' j.ver then [(⟨j.ns, j.idx, j.ver⟩ : Cov)] else []
    | none => []
  cached ++ older.filter (· ∉ cached)

/-- Whether a new ceiling has fallen below d_dump, so that the cache is not power-safe (R370). -/
def ceilFell (s : State) : Bool := s.hold.cap ≠ 0 && regFld s 0x30200 31 31 = 1 && decide (s.hold.ceil * 1048576 < dDump s)

/-- Fetch the head of a queue into a slot (R151); the function's addresses are translated from then on (R121). -/
def fetch (q : Sq) (s : State) : State :=
  match q.subs with
  | [] => s
  | e :: rest =>
    let (r, w) := if q.id = 0 then (0, 0) else charges e
    let flush := q.id ≠ 0 ∧ e.opc = 0
    let cov := if flush then flushCover q.func e.nsid s else []
    let c : Cmd := { id := ⟨q.func, q.id, e.cid⟩, e := e, gen := genOf s q.func, cls := sqCls (fnOf s q.func).ams q,
                     time := now s, ord := s.nextOrd, chargeR := r, chargeW := w, cover := cov,
                     prog := flush ∧ ceilFell s }
    let s := modSq q.func q.id (fun x => { x with subs := rest, head := (x.head + 1) % x.size }) s
    modFn q.func (fun fn => { fn with ats := true }) { s with cmds := s.cmds ++ [c], nextOrd := s.nextOrd + 1 }

/-- Rounds of weight × 4,096 that a deficit needs (R156). -/
def deficitRounds (defc : Int) (charge weight : Nat) : Nat :=
  if (charge : Int) ≤ defc then 0 else ceilDiv ((charge : Int) - defc).toNat (weight * 4096)

/-- Charge contender i; `min`: in phase 1. -/
def chargeCont (i r w : Nat) (phase1 : Bool) (s : State) : State :=
  let wt := (shareOf s i).weight
  let s := modCont i (fun k =>
    let n := max (if r = 0 then 0 else deficitRounds k.defcR r wt) (if w = 0 then 0 else deficitRounds k.defcW w wt)
    { k with
      mincR := if phase1 then k.mincR - r else k.mincR, mincW := if phase1 then k.mincW - w else k.mincW,
      defcR := if phase1 ∨ r = 0 then k.defcR else k.defcR + n * wt * 4096 - r,
      defcW := if phase1 ∨ w = 0 then k.defcW else k.defcW + n * wt * 4096 - w,
      capcR := k.capcR - r, capcW := k.capcW - w, ops := k.ops - 1, charged := true,
      useR := k.useR + r, useW := k.useW + w }) s
  { s with qos := { s.qos with budgetR := s.qos.budgetR - r, budgetW := s.qos.budgetW - w } }

/-- Admit a candidate. -/
def admitCand (phase1 : Bool) (c : Cand) (s : State) : State :=
  let (i, q, cl, e) := c
  let s := fetch q (chargeCont i (charges e).1 (charges e).2 phase1 (arbServed (contFn i) q cl s))
  if phase1 then { s with qos := { s.qos with lastMin := i } } else { s with qos := { s.qos with lastExc := i } }

/-- Whether a function's admin queue may be fetched from (R158): a Frozen tenant's is (R427). -/
def adminReady (s : State) (q : Sq) : Bool :=
  q.id = 0 && (fnOf s q.func).rdy && (fnOf s q.func).drain.isNone && sqReady s q

/-- One turn of admission: an admin queue first (R158), then the minimums, then the excess (R156). -/
def execAdmission (s : State) : Outcome State Fault Refusal :=
  if ¬ admitting s then .next s else
  let adm := (s.sqs.filter (adminReady s)).foldl (fun l q => insNat q.func l) []
  match adm.head?.bind fun f => sqOf s f 0 with
  | some q => .next (fetch q s)
  | none =>
    let cs := candidates s
    match nextCand s.qos.lastMin (cs.filter fun c => hasMin (contOf s c.1) (charges c.2.2.2).1 (charges c.2.2.2).2) with
    | some c => .next (admitCand true c s)
    | none => match nextCand s.qos.lastExc cs with
      | some c => .next (admitCand false c s)
      | none => .next s

/-! ### The epoch boundary (R112, R153, R154) -/

/-- Bytes admitted and not completed in a direction. -/
def backlog (s : State) (g : Cmd → Nat) : Nat := s.cmds.foldl (fun a c => a + g c) 0

/-- The capacity factor and the figure that set it (R153). -/
def capFactor (p k b : Nat) : Nat × Nat :=
  let m := min p (min k b)
  (max 10 m, if m = 1000 then 0 else if m = p then 1 else if m = k then 2 else 3)

/-- Kerf time of the ending epoch, in ns. -/
def kerfTime (s : State) : Nat :=
  s.qos.kerfNs + match s.qos.kerfSince with | some t => now s - t | none => 0

/-- The factors for the new epoch. -/
def setFactors (s : State) : State :=
  let p := min 1000 (measuredPace s)
  let k := 1000 - min 1000 (kerfTime s / 1000)
  let b (n comp : Nat) : Nat := if 448000000 < n then min 1000 (1000 * comp / 112000000) else 1000
  let (fr, sr) := capFactor p k (b (backlog s Cmd.chargeR) s.qos.compR)
  let (fw, sw) := capFactor p k (b (backlog s Cmd.chargeW) s.qos.compW)
  { s with qos := { s.qos with factorR := fr, srcR := sr, factorW := fw, srcW := sw, compR := 0, compW := 0,
                               kerfNs := 0, kerfSince := s.qos.kerfSince.map fun _ => now s } }

/-- Stored shares come into force (R117). -/
def settleShares (s : State) : State :=
  { s with tenants := tmap {} (fun _ n => if n.pend then { n with inForce := n.stored, pend := false } else n) s.tenants,
           qos := { s.qos with pfWeight := regFld s 0x60028 7 0 } }

/-- Negative credit carried over (R156). -/
def debtOf (c : Int) : Nat := (-c).toNat

/-- A contender's record at the boundary (R113, R154). -/
def contEpoch (s : State) (i held : Nat) : Cont :=
  let k := contOf s i
  let sh := shareOf s i
  let cap := if i = 1024 then 10000 else sh.cap
  { mincR := (sh.min * 11200 * s.qos.factorR / 1000 : Nat), mincW := (sh.min * 11200 * s.qos.factorW / 1000 : Nat),
    debtR := debtOf k.capcR, debtW := debtOf k.capcW,
    capcR := (cap * 11200 : Nat) - (debtOf k.capcR : Int), capcW := (cap * 11200 : Nat) - (debtOf k.capcW : Int),
    ops := sh.iops, points := max k.useR k.useW / 11200, promo := k.promoNow, heldLast := min 0xFFFF held }

/-- Credits of the new epoch (R154). -/
def setCredits (s : State) : State :=
  let is := ((s.tenants.filter fun e => e.2.st ≠ .none).map Prod.fst) ++ [1024]
  let s := is.foldl (fun s i => modCont i (fun _ => contEpoch s i (fnOf s (contFn i)).heldEpoch) s) s
  { s with
    qos := { s.qos with
      overR := debtOf s.qos.budgetR, overW := debtOf s.qos.budgetW,
      budgetR := (112000000 * s.qos.factorR / 1000 : Nat) - (debtOf s.qos.budgetR : Int),
      budgetW := (112000000 * s.qos.factorW / 1000 : Nat) - (debtOf s.qos.budgetW : Int) },
    fns := tmap {} (fun _ fn => { fn with sentMsgs := 0, heldEpoch := 0 }) s.fns }

/-- Held messages of a function in ascending vector order after the vector sent last (R109). -/
def heldOrder (fn : Fn) : List Nat :=
  let h := fn.held.filter fun v => v ∈ fn.unmasked
  (h.filter fun v => fn.lastVec < v) ++ h.filter fun v => v ≤ fn.lastVec

/-- Send held messages until the budget is used (R109). -/
def sendHeld (f : Nat) (s : State) : State :=
  if frozenFn s f then s else
  (heldOrder (fnOf s f)).foldl (fun s v =>
    if budgetOf s f = 0 ∨ (fnOf s f).sentMsgs < budgetOf s f then msiSend f v true s else s) s

/-- The age limit of a class under feature C1h. -/
def limitNs (w : W32) (c : DCls) : Nat :=
  1000000 * match c with | .high => fld w 7 0 | .medium => fld w 15 8 | .low => fld w 31 16 | _ => 0

/-- Changed age limits take effect (R139, R165): a waiting command that they leave under age stops waiting. -/
def settleAges (s : State) : State :=
  (tkeys s.fns).foldl (fun s f =>
    match (fnOf s f).c1pend with
    | none => s
    | some w =>
      let s := modFn f (fun fn => { featSet 0xC1 0 w fn with c1pend := none }) s
      { s with cmds := s.cmds.map fun c =>
          if c.id.func = f ∧ c.overAge ∧ ¬ c.token ∧ now s < c.time + limitNs w c.cls then { c with overAge := false } else c }) s

/-- An epoch boundary: device time has reached a multiple of 1 ms, the last it has reached from then on (R112). -/
def execShareEpochBoundary (s : State) : Outcome State Fault Refusal :=
  if s.md.cur = .watch ∨ s.md.cur = .start ∨ epochNow s ≤ s.qos.epoch then .next s else
  let s := settleAges (setCredits (settleShares (setFactors s)))
  let s := { s with qos := { s.qos with epoch := epochNow s } }
  .next ((tkeys s.fns).foldl (fun s f => sendHeld f s) s)

/-! ### Interrupt timers -/

/-- A coalescing timer expires (R108): its time has passed since the first entry not signalled. -/
def execCoalescingTimerExpiry (f vec : Nat) (s : State) : Outcome State Fault Refusal :=
  let fn := fnOf s f
  match (tget {} fn.coal vec).since with
  | none => .next s
  | some t =>
    if now s < t + 100000 * fld (featGet fn 8 0) 15 8 then .next s
    else .next (msiOwe f vec false (modFn f (fun fn => { fn with coal := tset {} fn.coal vec {} }) s))

end Sys2Proof.Machine
end

