-- ==== Sys2Proof/Machine/Readout.lean ====
section
/-!
DEFINITION. What a read returns: every register of the Control window, the tenant status page and the windows of wide
values, as their tables give them (chapters 02 to 23). A read changes nothing, but for the record of a gated access.
-/
namespace Sys2Proof.Machine

open Sys2Proof

/-! ### Identity, mode, start (chapters 03, 04, 23) -/

/-- TOP_ID (R43). -/
def topId : W32 := 0x64000001
/-- TOP_MODE (R44). -/
def topMode (s : State) : W32 := word [(12, modeCode s.md.prev), (4, s.md.haltWhy), (0, modeCode s.md.cur)]
/-- TOP_BOOT (R74). -/
def topBoot (s : State) : W32 :=
  word [(16, s.md.reason), (14, s.md.lastShutdown), (12, b2n s.md.fail), (8, s.md.slot), (0, s.md.stage)]
/-- TOP_RESET_LAST (R87). -/
def topResetLast (s : State) : W32 := word [(16, s.md.rlFunc), (4, s.md.rlCount), (0, s.md.rlKind)]
/-- TOP_STRAP (R456). -/
def topStrap (s : State) : W32 :=
  word [(16, s.pin.serving), (9, b2n s.pin.p1Up), (8, b2n s.pin.p0Up), (3, b2n s.pin.lpo), (1, s.pin.smba.toNat), (0, b2n s.pin.dual)]
/-- TOP_PACE_STAT (R33 to R36). -/
def paceStat (s : State) : W32 :=
  word [(29, b2n s.pace.avsFault), (26, s.pace.limit), (16, s.pace.vset), (0, s.pace.effTarget)]
/-- A pace meter (R32). -/
def meterWord (s : State) (m : Nat) : W32 := let x := tget {} s.pace.meters m; word [(16, x.min), (0, x.pace)]
/-- TOP_GATED_ACCESS (R64). -/
def gatWord (g : Gat) : W32 := word [(31, b2n g.valid), (30, b2n g.dir), (28, g.source), (16, g.block), (2, g.offset)]
/-- TOP_SEC_STATE.STATE: zeroizing while a zeroization is not yet recorded (R417, R418). -/
def secCode (s : State) : Nat := if s.sec.st = 2 then 2 else if s.zer.pend then 3 else s.sec.st
/-- TOP_SEC_STATE (R397). -/
def secWord (s : State) : W32 :=
  word [(31, b2n (secCode s = 1)), (30, b2n s.co.role), (29, b2n s.vault.live.co.isSome),
        (28, b2n ((enabledProfs s).any fun p => keyref p.2 = 0)), (24, s.sec.engine), (16, s.sec.fail), (0, secCode s)]
/-- TOP_CO_AUTH (R394). -/
def coWord (s : State) : W32 := word [(20, s.co.fails), (16, b2n s.co.lockedUntil.isSome)]
/-- One word of a wide-value window (R54). -/
def wvWord (w : WvWin) (o : Nat) : W32 :=
  if o = 0 then w32 w.sel.toNat
  else if o = 8 then word [(31, b2n w.valid), (30, b2n w.err), (0, w.seq.toNat)]
  else if 0x10 ≤ o ∧ o < 0x20 then w32 (w.data.toNat >>> (8 * (o - 0x10)))
  else 0

/-- Registers of the TOP block, but the rw fields. -/
def readTop (s : State) (o : Nat) : W32 :=
  if 0x100 ≤ o ∧ o < 0x120 then wvWord s.wvTop (o - 0x100) else
  match o with
  | 0x000 => topId | 0x004 => topMode s | 0x020 => topBoot s | 0x024 => topResetLast s | 0x030 => topStrap s
  | 0x20C => paceStat s | 0x240 => meterWord s 8 | 0x250 => word [(1, b2n s.psaveFail), (0, b2n (pOwed s))]
  | 0x300 => gatWord s.gat | 0x304 => w32 s.gat.count
  | 0x400 => w32 s.co.count | 0x440 => coWord s | 0x450 => secWord s | 0x500 => replaceWord s
  | _ => 0

/-! ### Mailbox (chapter 05) -/

/-- STATE code. -/
def mbxCode : MbxSt → Nat
  | .idle => 0 | .busy => 1 | .done => 2 | .error => 3

/-- Registers of the MBX block, but the rw fields. -/
def readMbx (s : State) (o : Nat) : W32 :=
  if 0x80 ≤ o ∧ o < 0xA0 ∧ o % 4 = 0 then tget 0 s.mbx.results ((o - 0x80) / 4) else
  match o with
  | 0x70 => word [(24, s.mbx.seq.toNat), (16, s.mbx.code), (3, b2n s.mbx.long), (0, mbxCode s.mbx.st)]
  | 0xA0 => w32 s.mbx.progress | 0xA4 => w32 s.mbx.rejects
  | 0xB0 => word [(30, s.mbx.intCause), (20, s.mbx.intProgress), (0, s.mbx.intOpc)]
  | _ => 0

/-! ### Key vault (chapter 12) -/

/-- KEYV_SLOT_LEFT (R263, R266). -/
def slotLeft (sl : Slot) : Nat := if atCeiling sl then 0 else min 0xFFFFFFFF ((sl.ceiling - 2 ^ 26 - sl.hwm) / 65536)

/-- Registers of the KEYV block, but the rw fields; the selected slot is a data slot or the KEK. -/
def readKeyv (s : State) (o : Nat) : W32 :=
  let k := selSlot s
  let sl := slotOf s k
  let staged := s.vault.staged = some k
  match o with
  | 0x50 =>
    if k = 0x800 then word [(16, 0xFFFF), (1, b2n staged), (0, b2n s.vault.live.kek.isSome)]
    else word [(16, if sl.cur.isSome then sl.owner else 0xFFFF), (3, b2n (atCeiling sl)), (2, b2n sl.prev.isSome), (1, b2n staged),
               (0, b2n sl.cur.isSome)]
  | 0x54 => w32 ((sl.cur.map KeyEp.epoch).getD 0)
  | 0x58 => match sl.prev with
    | some e => word [(31, b2n (prevReferenced s k)), (30, b2n (convOfEpoch s k e.epoch)), (0, min 0xFFFFFF (zonesOfEpoch s k e.epoch))]
    | none => 0
  | 0x5C => w32 (slotLeft sl)
  | 0x60 => word [(18, b2n s.vault.staged.isSome), (17, b2n s.vault.live.mig.isSome), (16, b2n s.vault.live.kek.isSome),
                  (0, (s.vault.live.slots.filter fun e => e.2.cur.isSome).length)]
  | _ => 0

/-! ### Admission and tenants (chapters 06, 08) -/

/-- FAB_TS_SHARE of a share. -/
def shareWord (x : Share) : W32 := word [(16, x.min), (0, x.weight)]
/-- FAB_TS_CAPS of a share. -/
def capsWord (x : Share) : W32 := word [(16, x.iops), (0, x.cap)]
/-- FAB_TS_USE of a tenant. -/
def useWord (s : State) (t : Nat) : W32 := word [(24, min 255 (contOf s t).promo), (0, min 0x3FFF (contOf s t).points)]
/-- Event requests whose entry waits for room (R150). -/
def aerWaits (qs : List Cq) : Nat := (qs.map fun q => (q.waiting.filter (·.aer)).length).foldl (· + ·) 0
/-- Commands that a function holds admitted, its outstanding event requests among them (R149). -/
def heldOf (s : State) (f : Nat) : Nat :=
  (s.cmds.filter fun c => c.id.func = f).length + (fnOf s f).aers.length + aerWaits (s.cqs.filter fun q => q.func = f)
/-- Commands admitted device-wide. -/
def heldAll (s : State) : Nat := s.cmds.length + (s.fns.map fun e => e.2.aers.length).foldl (· + ·) 0 + aerWaits s.cqs

/-- Registers of the QOS block, but the rw fields. -/
def readQos (s : State) (o : Nat) : W32 :=
  let t := regFld s 0x60010 9 0
  let n := tnOf s t
  match o with
  | 0x00 => word [(31, b2n (admCause s ≠ 0)), (28, admCause s), (0, heldAll s)]
  | 0x04 => word [(27, s.qos.srcW), (16, s.qos.factorW), (11, s.qos.srcR), (0, s.qos.factorR)]
  | 0x14 => shareWord n.inForce | 0x18 => capsWord n.inForce | 0x1C => useWord s t
  | 0x20 => word [(31, b2n n.pend), (16, allowOf s t), (0, heldOf s (t + 1))]
  | 0x24 => word [(16, (contOf s t).heldLast), (0, n.inForce.budget)]
  | 0x2C => word [(16, (s.cmds.filter fun c => c.id.func = t + 1 && c.overAge && !c.token).length),
                  (0, (s.cmds.filter fun c => c.id.func = t + 1 && c.token).length)]
  | 0x30 => w32 (contOf s t).debtR | 0x34 => w32 (contOf s t).debtW
  | _ => 0

/-! ### Zones and the write cache (chapters 09, 13, 17) -/

/-- Whether a conventional namespace holds a written block: on media, or still in the cache. -/
def convWritten (s : State) (ns : Nat) : Bool :=
  s.conv.any (fun c => c.1 / 2 ^ 32 = ns && c.2.written) || s.cache.any fun b => b.ns = ns

/-- BOUND of a profile (R180). -/
def boundOf (s : State) (p : Nat) : Nat :=
  (s.zones.filter fun e => e.2.st ≠ .empty && e.2.prof = some p && (nsOf s (zkeyNs e.1)).any (·.zoned)).length +
  (s.nss.filter fun e => e.2.any fun n => !n.zoned && hintProf n 0 = some p && convWritten s e.1).length

/-- Hint bindings of a profile over all namespaces. -/
def bindingsOf (s : State) (p : Nat) : Nat :=
  (s.nss.map fun e => match e.2 with | some n => (n.hints.filter fun b => b.2 = p).length | none => 0).foldl (· + ·) 0

/-- Whether writes are held by the dirty ceiling (R369): a queue's head waits for it. -/
def throttled (s : State) : Bool :=
  s.sqs.any fun q => q.id ≠ 0 && (match q.subs with | e :: _ => ceilHolds s e | [] => false)

/-- Registers of the ZONE block, but the rw fields. -/
def readZone (s : State) (o : Nat) : W32 :=
  let l := tget {} s.locks (regFld s 0x70130 7 0)
  let p := regFld s 0x70110 9 0
  match o with
  | 0x100 => word [(16, ctxHeld s), (0, claimed s)]
  | 0x114 => word [(31, b2n (profOf s p).enabled), (24, min 127 (bindingsOf s p)), (0, boundOf s p)]
  | 0x124 => w32 s.fltcMiss
  | 0x134 => word [(31, b2n l.defined), (30, b2n l.locked), (29, b2n (l.attempts = 0)), (16, l.attempts), (0, if l.defined then l.ns else 0)]
  | 0x140 => word [(31, b2n (powerSafe s)), (30, b2n (throttled s)), (0, ceilDiv (ventedBytes s) 1048576)]
  | 0x144 => w32 s.hold.ceil
  | 0x148 => w32 (ceilDiv (dAll s) 1048576)
  | _ => 0

/-! ### DRAM, SRAM, fleet, migration (chapters 14, 15, 21, 22) -/

/-- Whether a map is in force: START fixes one when it has trained the DRAM (R316). -/
def mapInForce (s : State) : Bool := s.dram.chans ≠ [] && (s.md.cur ≠ .start || decide (5 ≤ s.md.stage))

/-- Whether the stored map differs from the map in force, whatever ARM is (R316; log 101). -/
def mapPending (s : State) : Bool :=
  let mode := regFld s 0x80004 2 0
  mapInForce s && (mode ≠ s.dram.modeCur || (mode = 0 && storedMap s ≠ s.dram.map))

/-- Bits read beside the rw fields in the DRMC block. -/
def readDrmc (s : State) (o : Nat) : W32 :=
  let d := s.dram
  let r := rankOf s (regFld s 0x80080 3 0)
  if 0x90 ≤ o ∧ o < 0xA0 ∧ o % 4 = 0 then
    let m := migOf s ((o - 0x90) / 4)
    word [(31, b2n m.active), (27, m.src), (25, m.dst), (0, m.frontier)]
  else match o with
  | 0x00 => word [(8, d.density), (4, if d.chans.length = 4 then 2 else d.chans.length - 1), (0, d.dranks - 1)]
  | 0x08 => word [(31, b2n (mapPending s)), (0, d.modeCur)]
  | 0x0C => w32 d.capGib
  | 0x60 => word [(16, ((List.range 4).filter fun c => (chanRanks c).any fun k => rankLive (rankOf s k).st && (rankOf s k).hot).foldl (fun a c => a + 2 ^ c) 0)]
  | 0x84 => word [(28, r.st), (24, r.cause)]
  | 0x88 => w32 r.ce
  | 0xA0 => w32 d.poison.length
  | _ => 0

/-- Registers of the MEMP block, but the rw fields. -/
def readMemp (s : State) (o : Nat) : W32 :=
  let m := regFld s 0x90010 10 0
  let r := s.sram
  match o with
  | 0x00 => w32 r.ce | 0x04 => w32 r.ue
  | 0x08 => word [(31, b2n r.ueValid), (28, r.ueSource), (16, r.ueRow), (0, r.ueMac)]
  | 0x14 => word [(30, (fusedRows s m).length), (29, b2n (fusedCol s m).isSome), (22, (r.repairs.filter fun e => e.mac = m).length),
                  (0, min 0xFFFF (tget 0 r.errs m))]
  | 0x18 => match tget none r.hard m with
    | some (row, col) => word [(31, 1), (16, row), (0, col)]
    | none => 0
  | 0x20 => w32 r.repairs.length
  | _ => 0

/-- Registers of the FLT block, but the rw fields. -/
def readFlt (s : State) (o : Nat) : W32 :=
  match o with
  | 0x00 => w32 s.flt.member | 0x04 => s.flt.epoch
  | 0x08 => word [(31, b2n (witnessMatch s)), (30, b2n s.flt.expValid), (29, b2n s.flt.mismatch), (0, s.flt.seq.toNat)]
  | _ => 0

/-- Code of a tenant state (R101). -/
def tstCode : TState → Nat
  | .none => 0 | .created => 1 | .configured => 2 | .enabled => 3 | .frozen => 4

/-- Completion entries of a tenant's queues that are held (R427). -/
def carried (s : State) (f : Nat) : Nat := ((s.cqs.filter fun q => q.func = f).map fun q => q.waiting.length).foldl (· + ·) 0

/-- Registers of the MIG block, but the rw fields. -/
def readMig (s : State) (o : Nat) : W32 :=
  let t := regFld s 0xB0000 9 0
  let d := tget {} s.mig.dlog t
  match o with
  | 0x04 => word [(31, b2n d.on), (30, b2n d.big), (29, b2n d.half), (28, b2n d.ovf), (0, tstCode (tnOf s t).st)]
  | 0x08 => w32 d.pages
  | 0x0C => word [(16, carried s (t + 1)), (0, min 0xFFFF (tget 0 s.mig.aborted t))]
  | 0x10 => s.mig.saveSeq
  | _ => 0

/-! ### Sections and channels (chapters 02, 10, 12, 13) -/

/-- Coders of a section at work on a kind of operation (CDC_STAT). -/
def coderCount (s : State) (k : Nat) (p : Work → Bool) : Nat :=
  (s.runs.filter fun r => (match r.res with | .coder c _ _ => c = k | _ => false) && !r.kerf && p r.op.work).length

/-- Encodes, verifies aside. -/
def isEnc : Work → Bool
  | .encode _ => true | .offEnc _ _ => true | _ => false
/-- Decodes, verifies among them. -/
def isDec : Work → Bool
  | .decode _ => true | .offDec _ _ => true | .verify _ _ _ => true | .offVerify _ _ _ _ => true | _ => false

/-- Registers of block b of section k beside the rw fields. -/
def readSec (s : State) (k b o : Nat) : W32 :=
  if b = 0 then
    (match o with
     | 0x040 => meterWord s k | 0x104 => w32 (tget 0 s.suspCount k) | 0x108 => w32 (tget 0 s.suspExh k) | _ => 0)
  else if b = 1 then
    let c := cdcOf s k
    (match o with
     | 0x10 => word [(16, coderCount s k isDec), (8, coderCount s k isEnc), (0, reserveOf s k)]
     | 0x20 => w32 c.enc | 0x24 => w32 c.raw | 0x28 => w32 c.dec
     | 0x2C => word [(16, c.confirmed), (0, c.cleared)] | 0x30 => w32 c.verifyFail | _ => 0)
  else if b = 2 then
    let c := cipOf s k
    (match o with
     | 0x10 => word [(31, b2n c.fenced), (0, min 15 (recentFaults s c).length)]
     | 0x14 => w32 c.faults | 0x20 => w32 c.enc | 0x24 => w32 c.dec | 0x28 => w32 c.authFail | _ => 0)
  else if 4 ≤ b ∧ b ≤ 11 then
    let n := k * 8 + (b - 4)
    let c := chanOf s n
    let l := lunNo n (regFld s (chuBase n + 0x10) 6 0)
    (match o with
     | 0x00 => word [(31, b2n c.trained), (30, b2n c.fallback), (29, b2n c.gated), (16, c.margin), (8, c.rateCur)]
     | 0x14 => word [(31, b2n (lunOk s l)), (16, (lunOf s l).reason), (0, (lunOf s l).spare)]
     | 0x20 => w32 c.soft | 0x24 => w32 c.retry | 0x28 => w32 c.rebuild | 0x2C => w32 c.failed | _ => 0)
  else 0

/-! ### NVMe controller registers (R41, R49, R72, R124, R125, R157) -/

/-- CAP, low half: TO 78h, AMS with weighted round robin, CQR, MQES; at the places that NVMe 2.1 gives (log 31). -/
def capLo : W32 := word [(24, 0x78), (17, 1), (16, 1), (0, 0x0FFF)]
/-- CAP, high half: MPSMAX 4, MPSMIN 0, CSS with the NVM and the I/O command set bits, NSSRS on the PF only, DSTRD 0. -/
def capHi (f : Nat) : W32 := word [(20, 4), (11, 1), (5, 1), (4, b2n (f = 0))]
/-- CC: the stored fields, AMS and EN. -/
def ccWord (fn : Fn) : W32 := putFld (putFld fn.cc 13 11 fn.ams) 0 0 (b2n (fn.en || fn.enHeld))
/-- CSTS: PP, NSSRO, CFS and RDY. -/
def cstsWord (fn : Fn) : W32 := word [(5, b2n fn.pp), (4, b2n fn.nssro), (1, b2n fn.cfs), (0, b2n fn.rdy)]

/-- The NVMe controller registers of function f; doorbells and the rest of the block read 0. -/
def readNvme (s : State) (f off : Nat) : W32 :=
  let fn := fnOf s f
  match off with
  | 0x00 => capLo | 0x04 => capHi f | 0x08 => 0x00020100 | 0x14 => ccWord fn | 0x1C => cstsWord fn | 0x24 => fn.aqa
  | 0x28 => fn.asq.setWidth 32 | 0x2C => w32 (fn.asq.toNat / 2 ^ 32) | 0x30 => fn.acq.setWidth 32
  | 0x34 => w32 (fn.acq.toNat / 2 ^ 32) | _ => 0

/-- The MSI-X Table Size field of function f: its vectors minus 1 (R107). -/
def msixTableSize (s : State) (f : Nat) : Nat := fnVectors s f - 1

/-- A read of BAR 4/5 of function f: the MSI-X table at 0000h, the pending bits at 1000h (R105). -/
def readMsix (s : State) (f off : Nat) : W32 :=
  let fn := fnOf s f
  if off < 0x1000 then
    if fnVectors s f ≤ off / 16 then 0
    else if off % 16 = 12 then w32 (b2n (off / 16 ∉ fn.unmasked))
    else tget 0 fn.msix (off / 4)
  else if off < 0x2000 then w32 ((fn.pba.filter fun v => v / 32 = (off - 0x1000) / 4).foldl (fun a v => a + 2 ^ (v % 32)) 0)
  else 0

/-! ### Reads -/

/-- Base of the block that holds a Control window offset. -/
def blockBase (off : Nat) : Nat := off / 0x10000 * 0x10000

/-- Blocks that have an enable gate's record (R60). -/
def hasGate (base : Nat) : Bool := base ∈ [0x10000, 0x30000, 0x40000, 0x80000]

/-- What a host read of a Control window register returns; a block shows the same value at its four aliases (R45), a gated
block ones (R63), reserved offsets of it among them (DESIGN CHOICE, log 90), else a reserved offset 0 (R42). An always-on register shows its copy (R51). A register that exists nowhere in a table reads 0. -/
def readReg (s : State) (off : Nat) : W32 :=
  if blockGated s off then 0xFFFFFFFF
  else if off < 0x10000 then (if off < 0x1000 then readNvme s 0 off else 0)
  else if 0x900000 ≤ off then 0
  else
    let base := blockBase off
    let o := off % 0x4000
    let ro : W32 :=
      if o = 0x3FF0 then (if hasGate base then refuseWord s base else 0)
      else if o = 0x3FF4 then (if hasGate base then w32 (tget {} s.refuse base).obj else 0)
      else if base = 0x10000 then readTop s o
      else if base = 0x20000 then readMbx s o
      else if base = 0x30000 then readAon s o
      else if base = 0x40000 then readKeyv s o
      else if base = 0x60000 then readQos s o
      else if base = 0x70000 then readZone s o
      else if base = 0x80000 then readDrmc s o
      else if base = 0x90000 then readMemp s o
      else if base = 0xA0000 then readFlt s o
      else if base = 0xB0000 then readMig s o
      else if 0x100000 ≤ base then readSec s ((base - 0x100000) / 0x100000) (base % 0x100000 / 0x10000) o
      else 0
    if base = 0x30000 ∧ o < 0x3FF0 then ro else ro ||| regGet s (base + o)

/-- FAB_TS_HEALTH of VF f (R50); THERM is a copy (R51). -/
def healthWord (s : State) (f : Nat) : W32 :=
  word [(5, b2n (frozenFn s f)), (4, b2n (s.rep.causes ≠ 0)), (0, fld (readAon s 0x110) 28 26)]

/-- What a read in the Tenant window of VF f returns (R49, R50). -/
def readTenant (s : State) (f off : Nat) : W32 :=
  if off < 0x1000 then readNvme s f off else
  if 0x8100 ≤ off ∧ off < 0x8120 then wvWord (tget {} s.wvVf f) (off - 0x8100) else
  match off with
  | 0x8000 => word [(16, f - 1), (0, (genOf s f).toNat)]
  | 0x8004 => shareWord (tnOf s (f - 1)).inForce
  | 0x8008 => capsWord (tnOf s (f - 1)).inForce
  | 0x800C => useWord s (f - 1)
  | 0x8010 => healthWord s f
  | 0x8014 => readAon s 0x80
  | _ => 0

end Sys2Proof.Machine
end

