-- ==== Sys2Proof/Machine/Structs.lean ====
section
/-!
DEFINITION. The data structures that Identify, Get Log Page and LOG_READ return (R135, R136, R141, R142, R424, R471). Bytes
that NVMe 2.1 defines and this manual does not are opaque (log 20).
-/
namespace Sys2Proof.Machine

open Sys2Proof

/-- Bytes of a structure at their offsets over a base. -/
def putAll (base : List Byte) (ps : List (Nat × List Byte)) : List Byte := ps.foldl (fun b p => putBytes b p.1 p.2) base

/-- The opaque bytes of structure `st` of function `f` and namespace or subject `sub`. -/
def openBytes (st f sub n : Nat) : List Byte := (List.range n).map (Config.nvmeByte (st + 1024 * (f + 2048 * sub)))

/-- A byte whose bits outside `mask` are `v`; those of `mask` are opaque. -/
def openIn (st f i mask v : Nat) : List Byte :=
  [(Config.nvmeByte (st + 1024 * f) i &&& BitVec.ofNat 8 mask) ||| BitVec.ofNat 8 v]

/-! ### Temperature (R142) -/

/-- A reading in 0.125 °C as kelvins, rounded to the nearest. -/
def kelvin (x : Int) : Nat := ((x * 100 + 218520 + 400) / 800).toNat

/-- Composite Temperature. -/
def compositeK (s : State) : Nat := kelvin s.therm.last

/-- Critical Warning bit 1 of a function: at or above Warning, or outside a threshold of its feature 04h. -/
def tempOut (s : State) (f : Nat) : Bool :=
  let fn := fnOf s f
  1 ≤ thermLevel s || (featGet fn 4 0).toNat ≤ compositeK s || compositeK s ≤ (featGet fn 4 1).toNat

/-- Critical Warning bit 0: spare below 2 % in the lane set of an enabled profile (R142, R282). -/
def spareOut (s : State) : Bool := (enabledProfs s).any fun p => laneLow s (laneSet p.2)

/-! ### Identify (R135, R136) -/

/-- Largest number of blocks a namespace reports (R74: none without usable flash). -/
def nsze (s : State) (n : Ns) : Nat := nsCap s n

/-- The vendor Identify data of function `f`, 1,024 bytes. -/
def vendorIdent (s : State) (f : Nat) : List Byte :=
  let pf := f = 0
  putAll (zeros 1024)
    [(0, leBytes 4 topId.toNat), (4, leBytes 2 1024), (6, leBytes 2 (ownerNo f)), (8, [7]), (9, [0x0F]), (10, leBytes 2 1024),
     (12, leBytes 2 2048), (14, leBytes 2 4096), (16, leBytes 2 1200), (18, leBytes 2 (genOf s f).toNat),
     (20, leBytes 8 (if s.hold.cap = 0 then 0 else s.hold.ceil * 1048576)),
     (28, leBytes 8 (if pf then s.flt.sysid.toNat else 0)), (36, leBytes 2 (if pf then s.flt.member else 0)), (38, leBytes 2 7)]

/-- One power state descriptor of the PF (R346): MP, flags, ENLAT and EXLAT; the rest is open. -/
def powerDesc (i mp en ex : Nat) : List Byte :=
  leBytes 2 mp ++ [0, if 3 ≤ i then 2 else 0] ++ leBytes 4 en ++ leBytes 4 ex ++ (openBytes 1 0 0 4096).drop (2048 + 32 * i + 12) |>.take 32

/-- The five power states (R346). -/
def powerDescs : List Byte :=
  powerDesc 0 5500 1000 1000 ++ powerDesc 1 4000 1000 1000 ++ powerDesc 2 2800 1000 1000 ++ powerDesc 3 700 2000 5000 ++
  powerDesc 4 60 570000 40000

/-- Identify Controller (CNS 01h). LPA and ONCS: the bits of R135 read 1 and those of commands and log pages that the device does
not have read 0 (ONCS has no Flush bit in NVMe 2.1, so the two others are set: DESIGN CHOICE, log 95); SGLS: SGLs with dword alignment, no bit bucket (R125); the rest of these bytes is open (log 22). -/
def identCtrl (s : State) (f : Nat) : List Byte :=
  let pf := f = 0
  putAll (openBytes 1 f 0 4096)
    ([(4, serialBytes), (77, [9]), (80, leBytes 4 0x00020100), (256, leBytes 2 (if pf then 0x24 else 0x20)), (258, [3]), (259, [7]),
      (260, [0x18]), (261, openIn 1 f 261 0xA1 6), (262, [255]), (263, [if pf then 4 else 0]), (266, leBytes 2 (kelvin s.therm.warn.level)),
      (268, leBytes 2 (kelvin s.therm.shut.level)), (270, leBytes 2 12), (319, [1]), (512, [0x66, 0x44]), (514, leBytes 2 32),
      (516, leBytes 4 4096), (520, openIn 1 f 520 0x50 0x0C ++ openIn 1 f 521 0xFE 0), (522, leBytes 2 0), (525, [7]),
      (536, [2] ++ openIn 1 f 537 0xFF 0 ++ openIn 1 f 538 0xFE 0), (3072, vendorIdent s f)] ++
     if pf then [(2048, powerDescs)] else [])

/-- Identify Namespace (CNS 00h): one format, 4,096-byte data, no metadata, no protection (R125). -/
def identNs (s : State) (nsid : Nat) (n : Ns) : List Byte :=
  putAll (openBytes 0 0 nsid 4096)
    [(0, leBytes 8 (nsze s n)), (8, leBytes 8 (nsze s n)), (25, [0]), (26, [0]), (27, [0]), (28, [0]), (29, [0]), (128, [0, 0, 12])]

/-- ZNS Identify Namespace (CNS 05h): 4,096 active and open zones, ZSZE, one 64-byte extension (R131). -/
def identZns (nsid : Nat) (n : Ns) : List Byte :=
  putAll (openBytes 5 0 nsid 4096)
    [(4, leBytes 4 0xFFF), (8, leBytes 4 0xFFF), (2816, leBytes 8 (zszeBlocks n)), (2824, [1])]

/-- Namespaces of a function (R126), rising. -/
def ownedNs (s : State) (f : Nat) : List Nat := (s.nss.filter fun e => e.2.any fun n => n.owner = some (ownerNo f)).map Prod.fst

/-- A list of 4-byte identifiers, zeros after it. -/
def idList (ids : List Nat) (n : Nat) : List Byte := bytesAt ((ids.map (leBytes 4)).flatten) 0 n

/-- Namespace Identification Descriptors: NGUID, then CSI (CNS 03h). -/
def identDescs (nsid : Nat) (n : Ns) : List Byte :=
  bytesAt ([2, 16, 0, 0] ++ openBytes 3 0 nsid 16 ++ [4, 1, 0, 0, if n.zoned then 2 else 0]) 0 4096

/-! ### Log pages (R141, R142) -/

/-- Pages in the table of R141: (LID, whether a VF reads it). -/
def logTable : List (Nat × Bool) :=
  [(0x00, true), (0x01, true), (0x02, true), (0x03, true), (0x04, true), (0x05, true), (0x81, false), (0xBF, true), (0xC0, true),
   (0xC1, false), (0xC2, true), (0xC3, false)]

/-- Whether function `f` may read a page. -/
def logReadable (f lid : Nat) : Bool := logTable.any fun e => e.1 = lid && (f = 0 || e.2)

/-- Supported Log Pages (00h). -/
def logSupported (f : Nat) : List Byte :=
  ((List.range 256).map fun l => leBytes 4 (b2n (logReadable f l))).flatten

/-- Error Information (01h): newest first. -/
def logErrors (s : State) (f : Nat) : List Byte :=
  let fn := fnOf s f
  let es := fn.errLog.zipIdx.map fun (e, i) =>
    putAll (openBytes 16 f i 64)
      [(0, leBytes 8 (fn.errCount - i)), (8, leBytes 2 e.id.sq), (10, leBytes 2 e.id.cid),
       (12, leBytes 2 (2 * (e.status.sc + 256 * e.status.sct) + 32768 * b2n e.status.dnr)), (16, leBytes 8 e.lba), (24, leBytes 4 e.ns)]
  bytesAt es.flatten 0 16384

/-- Erase counts of the good bulk blocks of a LUN. -/
def lunErases (s : State) (l : Nat) : List Nat :=
  let u := lunOf s l
  ((bulkIdx u).filter fun b => (blkOf u b).st ≠ .bad).map fun b => (blkOf u b).erases

/-- LUNs in use. -/
def goodLuns (s : State) : List Nat := (s.luns.filter fun e => e.2.reason = 0).map Prod.fst

/-- LUNs that are populated, in use or not: discovery has read their geometry. -/
def popLuns (s : State) : List Nat := (s.luns.filter fun e => e.2.blocks ≠ 0).map Prod.fst

/-- Percentage Used: the highest erase count over its rated maximum among populated LUNs, at most 255. -/
def percentUsed (s : State) : Nat :=
  min 255 (((popLuns s).map fun l =>
    let r := (lunOf s l).rated
    if r = 0 then 0 else (lunErases s l).foldl max 0 * 100 / r).foldl max 0)

/-- SMART / Health (02h): device health with the function's own counts. -/
def logSmart (s : State) (f : Nat) : List Byte :=
  let k := ctrOf s (contNo f)
  putAll (openBytes 17 f 0 512)
    [(0, [BitVec.ofNat 8 (b2n (spareOut s) + 2 * b2n (tempOut s f) + 4 * b2n (s.rep.causes ≠ 0) + 16 * b2n s.hold.low)]),
     (1, leBytes 2 (compositeK s)), (5, leBytes 1 (percentUsed s)), (32, leBytes 16 (ceilDiv k.rd 512000)),
     (48, leBytes 16 (ceilDiv k.wr 512000)), (64, leBytes 16 k.rdCmds), (80, leBytes 16 k.wrCmds)]

/-- Version of a slot's image; 0 when empty. -/
def slotVer (s : State) (i : Nat) : W32 := ((tget none s.fw.slots i).map Img.version).getD 0

/-- Firmware Slot Information (03h): the active slot, the one active at the next reset, and the revisions, whose text the
version gives in a form that is open. NVMe slots 1 to 4 are device slots 0 to 3 (R144). -/
def logFirmware (s : State) : List Byte :=
  let run := if s.md.slot < 4 then s.md.slot + 1 else 0
  let next := if s.fw.active < 4 then s.fw.active + 1 else 0
  let rev (i : Nat) : List Byte := if (tget none s.fw.slots i).isSome then openBytes 18 0 (slotVer s i).toNat 8 else zeros 8
  bytesAt (leBytes 1 (run + 16 * (if next = run then 0 else next)) ++ zeros 7 ++ rev 0 ++ rev 1 ++ rev 2 ++ rev 3) 0 512

/-- Admin opcodes of R127 that a function accepts, and I/O opcodes of R129. -/
def adminOps (f : Nat) : List Nat :=
  [0x00, 0x01, 0x02, 0x04, 0x05, 0x06, 0x08, 0x09, 0x0A, 0x0C] ++ (if f = 0 then [0x10, 0x11] else []) ++ [0x19, 0x1A]
/-- I/O opcodes of R129. -/
def ioOps : List Nat := [0x00, 0x01, 0x02, 0x08, 0x09, 0x79, 0x7A, 0x7D, 0x83, 0x87]

/-- Commands Supported and Effects (05h): CSUPP for every opcode; 83h and 87h change no logical block. -/
def logEffects (f : Nat) : List Byte :=
  let ent (ops : List Nat) (io : Bool) (o : Nat) : List Byte :=
    if o ∉ ops then zeros 4
    else
      let b := openBytes 19 f (o + 256 * b2n io) 4
      let b0 := byteAt b 0 ||| 1
      [if io ∧ (o = 0x83 ∨ o = 0x87) then b0 &&& 0xFD else b0] ++ b.drop 1
  bytesAt (((List.range 256).map (ent (adminOps f) false)).flatten ++ ((List.range 256).map (ent ioOps true)).flatten) 0 4096

/-- Sanitize Status (81h): progress over 65,536 while it runs, then FFFFh, and the outcome (R471). -/
def logSanitize (s : State) : List Byte :=
  let prog := if s.san.running then s.mbx.progress * 65536 / 1000 else 0xFFFF
  putAll (openBytes 20 0 0 512) [(0, leBytes 2 prog), (2, leBytes 1 (if s.san.running then 2 else s.san.outcome))]

/-- Changed Zone List (BFh) of a zoned namespace. -/
def logZones (s : State) (f nsid : Nat) (n : Ns) : List Byte :=
  let zs := ((fnOf s f).changedZones.filter fun z => z.1 = nsid).map Prod.snd
  bytesAt (leBytes 2 (if 511 < zs.length then 0xFFFF else zs.length) ++ zeros 6 ++
    ((zs.take 511).map fun z => leBytes 8 (zoneStart n z)).flatten) 0 4096

/-! ### Vendor logs (R141, R424) -/

/-- The header and body of a vendor log. -/
def vendorLog (s : State) (lid : Nat) (body : List Byte) : List Byte :=
  leBytes 1 lid ++ [1, 0, 0] ++ leBytes 4 body.length ++ leBytes 8 (now s) ++ body

/-- A Vendor Health entry. -/
def healthEnt (e : HEnt) : List Byte :=
  leBytes 8 e.time ++ leBytes 1 e.typ ++ leBytes 1 e.cause ++ leBytes 2 e.subj ++ leBytes 4 e.obj ++ leBytes 8 e.lba ++ leBytes 8 e.count

/-- Vendor Health (C0h); a VF sees the entries of types 01h and 02h only. -/
def logHealth (s : State) (f : Nat) : List Byte :=
  let es := if f = 0 then s.rep.health else s.rep.health.filter fun e => e.typ = 1 || e.typ = 2
  vendorLog s 0xC0 (leBytes 4 (replaceWord s).toNat ++ leBytes 4 s.rep.healthN ++ leBytes 8 s.rep.raisedAt ++
    bytesAt (es.map healthEnt).flatten 0 8192)

/-- Mean of a list, rounded down. -/
def meanOf (l : List Nat) : Nat := l.foldl (· + ·) 0 / max l.length 1

/-- A Vendor Wear profile record. -/
def wearRec (s : State) (p : Nat × Profile) : List Byte :=
  let ls := laneSet p.2
  leBytes 2 p.1 ++ leBytes 2 ls.length ++ leBytes 4 (laneSpare s ls) ++ leBytes 4 ((leastBy (lunSpare s) ls).getD 0) ++
  leBytes 8 (laneU s ls) ++ leBytes 4 (meanOf (ls.map (lunErases s)).flatten) ++ zeros 8

/-- Vendor Wear (C1h). -/
def logWear (s : State) : List Byte :=
  let gs := goodLuns s
  let es := (gs.map (lunErases s)).flatten
  let ps := enabledProfs s
  vendorLog s 0xC1 (leBytes 4 ((gs.head?.map fun l => (lunOf s l).rated).getD 0) ++ leBytes 4 (es.foldl min (es.headD 0)) ++
    leBytes 4 (es.foldl max 0) ++ leBytes 4 ((s.luns.map fun e => e.2.grown).foldl (· + ·) 0) ++ leBytes 4 ps.length ++
    leBytes 4 (s.luns.filter fun e => e.2.reason = 0x0C).length ++ (ps.map (wearRec s)).flatten)

/-- A Thermal History entry. -/
def thermEnt (e : TEnt) : List Byte :=
  leBytes 8 e.time ++ leBytes 1 e.thr ++ leBytes 1 (b2n e.entry) ++ leBytes 2 (BitVec.ofInt 16 e.reading).toNat ++ leBytes 2 e.kerf ++ zeros 2

/-- Vendor Thermal History (C2h). -/
def logThermal (s : State) : List Byte :=
  vendorLog s 0xC2 (leBytes 2 (BitVec.ofInt 16 s.therm.max).toNat ++ zeros 2 ++
    ([1, 2, 3].map fun l => leBytes 4 (tget 0 s.therm.lvlNs l / 1000000000)).flatten ++ leBytes 8 (s.therm.kerfTotal / 1000000) ++ leBytes 4 s.rep.thermalN ++ zeros 4 ++
    bytesAt (s.rep.thermal.map thermEnt).flatten 0 2048)

/-- A Vendor Vent entry. -/
def ventEnt (e : VEnt) : List Byte :=
  leBytes 8 e.time ++ leBytes 1 e.kind ++ [0] ++ leBytes 2 e.lowVin ++ leBytes 4 e.dur ++ leBytes 4 e.mib ++ leBytes 4 e.records ++
  leBytes 8 e.blocks

/-- Vendor Vent (C3h). -/
def logVent (s : State) : List Byte :=
  vendorLog s 0xC3 (leBytes 4 (ventStat s).toNat ++ leBytes 4 s.rep.ventN ++ bytesAt (s.rep.vent.map ventEnt).flatten 0 2048)

/-- Changed Namespace List (04h): more than 1,024 identifiers are reported as FFFF_FFFFh alone, as NVMe gives (log 20). -/
def logChanged (ids : List Nat) : List Byte := idList (if 1024 < ids.length then [0xFFFFFFFF] else ids) 4096

/-- A log page as function `f` reads it, BFh aside. -/
def logPage (s : State) (f lid : Nat) : List Byte :=
  match lid with
  | 0x00 => logSupported f | 0x01 => logErrors s f | 0x02 => logSmart s f | 0x03 => logFirmware s
  | 0x04 => logChanged (fnOf s f).changedNs | 0x05 => logEffects f | 0x81 => logSanitize s | 0xC0 => logHealth s f
  | 0xC1 => logWear s | 0xC2 => logThermal s | 0xC3 => logVent s | _ => []

end Sys2Proof.Machine
end

