-- ==== Sys2Proof/Machine/Admin.lean ====
section
/-!
DEFINITION. NVMe admin commands (R127 to R146, R166 to R168): queues, Identify, features, log pages, events, firmware
download and commit, directives, Abort, and commands outside the tables of R127 and R129.
-/
namespace Sys2Proof.Machine

open Sys2Proof

/-! ### Which command -/

/-- The admitted admin command `id` with opcode `opc`, when it may run now. -/
def adminCmd (s : State) (id : CmdId) (opc : Nat) : Option Cmd :=
  if ioServes s then (cmdOf s id).filter fun c => c.phase = .admitted && c.id.sq = 0 && c.e.opc = opc && !optBad 0 c.e else none

/-- Status of an admin command of a Frozen tenant (R128, R427). -/
def frozenSt (opc : Nat) : Status := if opc ∈ [0x00, 0x01, 0x04, 0x05, 0x09] then seqError else vendorSt 7

/-- Run an admin command: nothing where it is not admitted; a Frozen tenant's ends with its status. -/
def admin (id : CmdId) (opc : Nat) (s : State) (k : Cmd → State) : State :=
  match adminCmd s id opc with
  | none => s
  | some c => if frozenFn s id.func then finishSt id (frozenSt opc) s else k c

/-- A status of type 1h, DNR set. -/
def cmdSt (sc : Nat) : Status := ⟨1, sc, true⟩

/-! ### Ending a command early (R127, R167, R168) -/

/-- A command leaves what waits for it: a power transition, an activation. -/
def unwait (id : CmdId) (s : State) : State :=
  let other (w : PsWaiter) : Bool := w ≠ .cmd id
  { s with
    pwr := { s.pwr with
      trans := s.pwr.trans.map fun t => { t with owner := t.owner.filter other },
      waiters := s.pwr.waiters.filter other, owed := s.pwr.owed.filter fun w => other w.1 },
    fw := { s.fw with act := s.fw.act.map fun a => { a with cmd := a.cmd.filter (· ≠ id) } } }

/-- End an admitted command whose status is not decided: a write not all in the cache is discarded (R168), a read's
further bursts are dropped. -/
def stopCmd (st : Status) (c : Cmd) (s : State) : State :=
  let s := if c.id.sq = 0 ∨ ¬ isWrite c.e then s else if c.phase = .durable then discardStored c s else discardWrite c s
  let s := dropDead { s with
    rjobs := s.rjobs.map fun e => (e.1, e.2.map fun r => { r with ids := r.ids.filter fun i => i ≠ c.id }),
    offs := s.offs.filter fun e => !e.2.any fun o => o.id = c.id && o.gen = c.gen }
  let s := finishSt c.id st (unwait c.id s)
  if c.id.sq ≠ 0 ∧ isWrite c.e then wbUpdate (fuaCheck (settleWrite c s)) else s

/-- Abort Requested and Aborted due to SQ Deletion. -/
def abortSt : Status := ⟨0, 0x07, false⟩
/-- Command Aborted due to SQ Deletion. -/
def sqDelSt : Status := ⟨0, 0x08, false⟩

/-! ### Queues (R105 to R107, R127) -/

/-- I/O queue pairs a function may create: a tenant's configured count, or the PF's Number of Queues. -/
def queueLimit (s : State) (f : Nat) : Nat := if f = 0 then (fnOf s 0).numQ.getD 0 else (tnOf s (f - 1)).qp

/-- Delete I/O Submission Queue (R127): its admitted commands end first. -/
def execDeleteIoSubmissionQueue (id : CmdId) (s : State) : Outcome State Fault Refusal :=
  .next (admin id 0x00 s fun c =>
    let q := fld c.e.cdw10 15 0
    if q = 0 ∨ (sqOf s id.func q).isNone then finishSt id (cmdSt 0x01) s
    else
      let s := (s.cmds.filter fun d => d.id.func = id.func && d.id.sq = q && d.phase ≠ .decided).foldl (fun s d => stopCmd sqDelSt d s) s
      finishSt id okSt { s with sqs := s.sqs.filter fun x => !(x.func = id.func && x.id = q) })

/-- Base address of a queue: the first segment of the command's data pointer. -/
def queueBase (e : Sqe) : Nat := (e.segs.head?.map Prod.fst).getD 0

/-- Create I/O Submission Queue (R105, R127, R157). -/
def execCreateIoSubmissionQueue (id : CmdId) (s : State) : Outcome State Fault Refusal :=
  .next (admin id 0x01 s fun c =>
    let q := fld c.e.cdw10 15 0
    let n := fld c.e.cdw10 31 16
    let cq := fld c.e.cdw11 31 16
    if ¬ bitOf c.e.cdw11 0 then finishSt id invField s
    else if q = 0 ∨ queueLimit s id.func < q ∨ (sqOf s id.func q).isSome then finishSt id (cmdSt 0x01) s
    else if n = 0 ∨ 0xFFF < n then finishSt id (cmdSt 0x02) s
    else if cq = 0 ∨ (cqOf s id.func cq).isNone then finishSt id (cmdSt 0x00) s
    else
      let x : Sq := { func := id.func, id := q, cq := cq, size := n + 1, prio := fld c.e.cdw11 2 1, base := queueBase c.e }
      finishSt id okSt { s with sqs := s.sqs ++ [x] })

/-- Delete I/O Completion Queue. -/
def execDeleteIoCompletionQueue (id : CmdId) (s : State) : Outcome State Fault Refusal :=
  .next (admin id 0x04 s fun c =>
    let q := fld c.e.cdw10 15 0
    match (if q = 0 then none else cqOf s id.func q) with
    | none => finishSt id (cmdSt 0x01) s
    | some x =>
      if s.sqs.any fun y => y.func = id.func && y.cq = q then finishSt id (cmdSt 0x0C) s
      else
        let s := x.waiting.foldl (fun s e => if e.aer then s else freeSlot ⟨id.func, e.e.sq, e.e.cid⟩ s) s
        finishSt id okSt { s with cqs := s.cqs.filter fun y => !(y.func = id.func && y.id = q) })

/-- Create I/O Completion Queue (R105, R107). -/
def execCreateIoCompletionQueue (id : CmdId) (s : State) : Outcome State Fault Refusal :=
  .next (admin id 0x05 s fun c =>
    let q := fld c.e.cdw10 15 0
    let n := fld c.e.cdw10 31 16
    let v := fld c.e.cdw11 31 16
    if ¬ bitOf c.e.cdw11 0 then finishSt id invField s
    else if q = 0 ∨ queueLimit s id.func < q ∨ (cqOf s id.func q).isSome then finishSt id (cmdSt 0x01) s
    else if n = 0 ∨ 0xFFF < n then finishSt id (cmdSt 0x02) s
    else if fnVectors s id.func ≤ v then finishSt id (cmdSt 0x08) s
    else
      let x : Cq := { func := id.func, id := q, size := n + 1, vec := v, ien := bitOf c.e.cdw11 1, base := queueBase c.e }
      finishSt id okSt { s with cqs := s.cqs ++ [x] })

/-! ### Identify (R135) -/

/-- What Identify returns, or the status of a value that is not supported. -/
def identData (s : State) (c : Cmd) : Except Status (List Byte) :=
  let f := c.id.func
  let csi := fld c.e.cdw11 31 24
  match fld c.e.cdw10 7 0 with
  | 0x00 => (nsCheck s c).map (identNs s c.e.nsid)
  | 0x01 => .ok (identCtrl s f)
  | 0x02 =>
    if 0xFFFFFFFE ≤ c.e.nsid then .error ⟨0, 0x0B, true⟩
    else .ok (idList (((ownedNs s f).filter fun n => c.e.nsid < n).take 1024) 4096)
  | 0x03 => (nsCheck s c).map (identDescs c.e.nsid)
  | 0x05 =>
    if csi ≠ 2 then .error invField
    else match nsCheck s c with
      | .error st => .error st
      | .ok n => if n.zoned then .ok (identZns c.e.nsid n) else .error invField
  | 0x06 =>
    if csi = 0 then .ok (openBytes 6 f 0 4096)
    else if csi = 2 then .ok (putAll (openBytes 7 f 0 4096) [(0, [9])])
    else .error invField
  | 0x1C => if fld c.e.cdw11 15 0 ≠ 0 then .error invField else .ok (bytesAt (leBytes 8 5) 0 4096)
  | _ => .error invField

/-- Identify. -/
def execIdentify (id : CmdId) (s : State) : Outcome State Fault Refusal :=
  .next (admin id 0x06 s fun c =>
    match identData s c with
    | .error st => finishSt id st s
    | .ok b => finishSt id okSt (sendData c 0 b s))

/-! ### Abort (R166 to R168) -/

/-- Abort: the target, if its status is not decided, ends before the Abort does, whose entry waits for the target's. An outstanding event request is a
target too. -/
def execAbort (id : CmdId) (s : State) : Outcome State Fault Refusal :=
  .next (admin id 0x08 s fun c =>
    let sq := fld c.e.cdw10 15 0
    let cid := fld c.e.cdw10 31 16
    let t : CmdId := ⟨id.func, sq, cid⟩
    let aborts := (s.cmds.filter fun d => d.id.func = id.func && d.id.sq = 0 && d.e.opc = 0x08 && d.ord < c.ord).length
    if 4 ≤ aborts then finishSt id (cmdSt 0x03) s
    else if sq = 0 ∧ cid ∈ (fnOf s id.func).aers then
      let s := modFn id.func (fun fn => { fn with aers := rmNat cid fn.aers }) s
      finishSt id okSt (aerPost id.func ⟨0, cid, abortSt, 0, 0⟩ s)
    else match cmdOf s t with
      | some d =>
        if t = id ∨ d.phase = .decided then finish id okSt 1 0 s
        else abortsGo (stopCmd abortSt d (modCmd id (fun c => { c with phase := .held, aux := 1 }) s))
      | none => finish id okSt 1 0 s)

/-! ### Features (R137 to R140) -/

/-- Supported features. -/
def features : List Nat := [0x01, 0x02, 0x04, 0x05, 0x06, 0x07, 0x08, 0x09, 0x0B, 0x0E, 0xC0, 0xC1, 0xC2]
/-- Features whose scope is a namespace. -/
def nsFeature (fid : Nat) : Bool := fid = 0x05 || fid = 0xC0
/-- Whether a function may change a feature. -/
def changeable (f fid : Nat) : Bool :=
  fid ∈ [0x01, 0x04, 0x05, 0x08, 0x09, 0x0B, 0x0E, 0xC0] || (f = 0 && fid ∈ [0x02, 0x07, 0xC1])

/-- The temperature events that follow a change of state (R143): the bit became set. -/
def tempEvents (s0 s : State) : State :=
  (tkeys s.fns).foldl (fun s f => if tempOut s0 f then s else if tempOut s f then postEvent 1 1 2 f s else s) s

/-- I/O queue pairs of the device-wide pool that are free for the PF (R106). -/
def poolFree (s : State) : Nat := 4096 - (s.tenants.map fun t => t.2.qp).foldl (· + ·) 0

/-- The Timestamp value in ms (feature 0Eh), an offset to device time. -/
def tsNow (s : State) (f : Nat) : Nat := (now s / 1000000 + (fnOf s f).tsOff) % 2 ^ 48

/-- Function that feature C1h of this command names: the PF selects a tenant or itself (R139). -/
def ageFn (c : Cmd) : Nat := if c.id.func = 0 then (if bitOf c.e.cdw12 31 then 0 else fld c.e.cdw12 9 0 + 1) else c.id.func

/-- Whether a running long command owns the tenant of a function (R469). -/
def fnOwned (s : State) (f : Nat) : Bool :=
  f ≠ 0 && s.mbx.run.any fun r => (r.opc = 0x0801 || r.opc = 0x0803) && !r.waitStart && (r.args.getD 0 0).toNat = f - 1

/-- Namespaces that a Set Features of namespace scope changes. -/
def featNss (s : State) (c : Cmd) : Except Status (List Nat) :=
  if c.e.nsid = 0xFFFFFFFF then .ok (ownedNs s c.id.func) else (nsCheck s c).map fun _ => [c.e.nsid]

/-- Set Features of a value that this function may change. -/
def setFeature (c : Cmd) (s : State) : State :=
  let id := c.id
  let f := id.func
  let v := c.e.cdw11
  let put (fid sub : Nat) (w : W32) (s : State) : State := modFn f (featSet fid sub w) s
  match fld c.e.cdw10 7 0 with
  | 0x01 => if 5 < fld v 2 0 then finishSt id invField s else finishSt id okSt (put 1 0 (v &&& 0xFFFFFF07) s)
  | 0x02 =>
    if 4 < fld v 4 0 then finishSt id invField s
    else psRequest (fld v 4 0) (some (.cmd id)) (modCmd id (fun c => { c with phase := .held }) s)
  | 0x04 =>
    if fld v 19 16 ≠ 0 ∨ 1 < fld v 21 20 then finishSt id invField s
    else finishSt id okSt (tempEvents s (put 4 (fld v 21 20) (v &&& 0xFFFF) s))
  | 0x07 =>
    let want := max (fld v 15 0) (fld v 31 16) + 1
    if fld v 15 0 = 0xFFFF ∨ fld v 31 16 = 0xFFFF then finishSt id invField s
    else if (fnOf s 0).numQ.isSome ∨ s.sqs.any (fun q => q.func = 0 && q.id ≠ 0) ∨ s.cqs.any (fun q => q.func = 0 && q.id ≠ 0)
      then finishSt id seqError s
    else
      let n := min want (min 64 (poolFree s))
      finish id okSt (w32 ((n - 1) * 65537)) 0 (modFn 0 (fun fn => { fn with numQ := some n }) s)
  | 0x08 => finishSt id okSt (put 8 0 (v &&& 0xFFFF) s)
  | 0x09 =>
    if fnVectors s f ≤ fld v 15 0 then finishSt id invField s
    else finishSt id okSt (put 9 (fld v 15 0) (v &&& 0x10000) s)
  | 0x0B => finishSt id okSt (put 0x0B 0 v s)
  | 0x0E =>
    let t := leAt c.e.data 0 6
    finishSt id okSt (modFn f (fun fn => { fn with tsOff := (t + 2 ^ 48 - now s / 1000000 % 2 ^ 48) % 2 ^ 48, tsSynch := false }) s)
  | 0xC1 =>
    let h := fld v 7 0
    let m := fld v 15 8
    let l := fld v 31 16
    if h = 0 ∨ m < h ∨ l < m then finishSt id invField s
    else if fnOwned s (ageFn c) then finishSt id seqError s
    else finishSt id okSt (modFn (ageFn c) (fun fn => { fn with c1pend := some v }) s)
  | fid =>
    if fid = 5 ∧ bitOf v 16 then finishSt id invField s
    else match featNss s c with
      | .error st => finishSt id st s
      | .ok ns => finishSt id okSt (ns.foldl (fun s n => put fid n (v &&& 0xFFFF) s) s)

/-- Set Features (R128, R137). -/
def execSetFeatures (id : CmdId) (s : State) : Outcome State Fault Refusal :=
  .next (admin id 0x09 s fun c =>
    let fid := fld c.e.cdw10 7 0
    if fid ∉ features then finishSt id invField s
    else if bitOf c.e.cdw10 31 then finishSt id (cmdSt 0x0D) s
    else if fid = 0x06 then finishSt id (if bitOf c.e.cdw11 0 then cmdSt 0x0E else invField) s
    else if fid = 0x07 ∧ id.func ≠ 0 then finishSt id seqError s
    else if fid = 0x02 ∧ id.func ≠ 0 then finishSt id (if fld c.e.cdw11 4 0 = 0 then okSt else invField) s
    else if ¬ changeable id.func fid then finishSt id (cmdSt 0x0E) s
    else setFeature c s)

/-- The 8 bytes of the Timestamp feature: milliseconds, then the Synch bit and the origin. -/
def tsBytes (s : State) (f : Nat) : List Byte :=
  leBytes 6 (tsNow s f) ++ leBytes 1 (if (fnOf s f).tsSynch then 1 else 2) ++ [0]

/-- Current value of a feature as dword 0; none where a value is not supported. -/
def featValue (s : State) (c : Cmd) : Option W32 :=
  let f := c.id.func
  let fn := fnOf s f
  let v := c.e.cdw11
  match fld c.e.cdw10 7 0 with
  | 0x01 => some (featGet fn 1 0)
  | 0x02 => some (w32 (if f = 0 then s.pwr.cur else 0))
  | 0x04 => if fld v 19 16 ≠ 0 ∨ 1 < fld v 21 20 then none else some (featGet fn 4 (fld v 21 20))
  | 0x06 => some 1
  | 0x07 =>
    let n := queueLimit s f
    if n = 0 then some (freeBitsAt 32 s) else some (w32 ((n - 1) * 65537))
  | 0x08 => some (featGet fn 8 0)
  | 0x09 => if fnVectors s f ≤ fld v 15 0 then none else some (featGet fn 9 (fld v 15 0) ||| w32 (fld v 15 0))
  | 0x0B => some (featGet fn 0x0B 0)
  | 0x0E => some 0
  | 0xC1 => some (featGet (fnOf s (ageFn c)) 0xC1 0)
  | 0xC2 => some (word [(16, s.pace.effTarget), (4, s.therm.kerf), (0, thermLevel s)])
  | fid => some (featGet fn fid c.e.nsid)

/-- Default of a feature, which is its saved value too (R137). -/
def featDflt (c : Cmd) : W32 :=
  match fld c.e.cdw10 7 0 with
  | 0x04 => featDefault 4 (fld c.e.cdw11 21 20)
  | 0x06 => 1
  | 0x09 => w32 (fld c.e.cdw11 15 0)
  | fid => featDefault fid 0

/-- Get Features (R137). The value of Number of Queues before the PF has set it is open. -/
def execGetFeatures (id : CmdId) (s : State) : Outcome State Fault Refusal :=
  .next (admin id 0x0A s fun c =>
    let fid := fld c.e.cdw10 7 0
    let sel := fld c.e.cdw10 10 8
    if fid ∉ features ∨ 3 < sel then finishSt id invField s
    else if sel = 3 then finish id okSt (word [(2, b2n (changeable id.func fid)), (1, b2n (nsFeature fid))]) 0 s
    else if nsFeature fid ∧ (nsCheck s c).toOption.isNone then
      finishSt id (match nsCheck s c with | .error st => st | .ok _ => okSt) s
    else match featValue s c with
      | none => finishSt id invField s
      | some v =>
        let s' := if fid = 0x07 ∧ queueLimit s id.func = 0 then freeNext s else s
        if fid = 0x0E then finishSt id okSt (sendData c 0 (if sel = 0 then tsBytes s id.func else leBytes 8 (2 ^ 48)) s)
        else finish id okSt (if sel = 0 then v else featDflt c) 0 s')

/-! ### Asynchronous events (R143) -/

/-- Report the first stored event that is not masked with an outstanding request; a Frozen tenant's wait (R427). -/
def aerReport (f : Nat) (s : State) : State :=
  let fn := fnOf s f
  let open' (e : Ev) : Bool := !fn.evMasked.any fun m => m / 256 = e.typ
  if frozenFn s f then s else
  match fn.aers, fn.events.find? open' with
  | cid :: _, some e => aerComplete f cid e (modFn f (fun fn => { fn with events := fn.events.filter fun x => x ≠ e }) s)
  | _, _ => s

/-- Asynchronous Event Request: held outstanding, at most 8 of them (R125, R427). -/
def execAsynchronousEventRequest (id : CmdId) (s : State) : Outcome State Fault Refusal :=
  match adminCmd s id 0x0C with
  | none => .next s
  | some _ =>
    if 8 ≤ (fnOf s id.func).aers.length then .next (finishSt id (cmdSt 0x05) s)
    else
      let s := { s with cmds := s.cmds.filter fun c => c.id ≠ id }
      .next (aerReport id.func (modFn id.func (fun fn => { fn with aers := fn.aers ++ [id.cid] }) s))

/-! ### Get Log Page (R141) -/

/-- A page was read with RAE 0: its events are unmasked, and a list of changes is emptied. -/
def logRead (f lid nsid : Nat) (s : State) : State :=
  let s := modFn f (fun fn => { fn with
    evMasked := fn.evMasked.filter fun m => m % 256 ≠ lid,
    changedNs := if lid = 4 then [] else fn.changedNs,
    changedZones := if lid = 0xBF then fn.changedZones.filter (fun z => z.1 ≠ nsid) else fn.changedZones }) s
  aerReport f s

/-- Get Log Page. -/
def execGetLogPage (id : CmdId) (s : State) : Outcome State Fault Refusal :=
  .next (admin id 0x02 s fun c =>
    let f := id.func
    let lid := fld c.e.cdw10 7 0
    let len := 4 * (fld c.e.cdw10 31 16 + 65536 * fld c.e.cdw11 15 0 + 1)
    let off := c.e.cdw12.toNat + 2 ^ 32 * c.e.cdw13.toNat
    let page : Except Status (List Byte) :=
      if lid = 0xBF then match nsCheck s c with
        | .error st => .error st
        | .ok n => if n.zoned then .ok (logZones s f c.e.nsid n) else .error invField
      else if c.e.nsid ≠ 0 ∧ c.e.nsid ≠ 0xFFFFFFFF then .error invField
      else .ok (logPage s f lid)
    if ¬ logReadable f lid then finishSt id (cmdSt 0x09) s
    else if 2097152 < len ∨ off % 4 ≠ 0 then finishSt id invField s
    else match page with
      | .error st => finishSt id st s
      | .ok b =>
        if b.length ≤ off then finishSt id invField s
        else
          let s := sendData c 0 ((b.drop off).take len) s
          finishSt id okSt (if bitOf c.e.cdw10 15 then s else logRead f lid c.e.nsid s))

/-! ### Firmware (R144 to R146, R172, R413) -/

/-- What a piece of bytes carries as a Belisk image (R413). -/
def imgOf (bytes : List Byte) : Img :=
  { bytes := bytes, version := Config.imgVersion bytes, counter := Config.imgCounter bytes, advance := Config.imgAdvance bytes,
    needsReset := Config.imgNeedsReset bytes, authentic := Config.imgAuthentic bytes }

/-- Signature and anti-rollback counter (R73, R145, R413). -/
def imgOk (s : State) (i : Img) : Bool := i.authentic && s.fw.fused ≤ i.counter

/-- Write a slot. -/
def putSlot (n : Nat) (i : Img) (s : State) : State := { s with fw := { s.fw with slots := tset none s.fw.slots n (some i) } }

/-- Make a slot active in the NOR slot table. -/
def setActive (n : Nat) (s : State) : State :=
  if s.fw.active = n then s else { s with fw := { s.fw with active := n, prevActive := s.fw.active } }

/-- Step 2 of R172: admission stops, the mode becomes QUIESCE (a HALT stays HALT), ready controllers set CSTS.PP and post Notice
01h. -/
def actBegin (slot : Nat) (mbx : Bool) (cmd : Option CmdId) (s : State) : State :=
  let s := { s with fw := { s.fw with act := some ⟨slot, mbx, cmd, false, false, now s⟩ } }
  let s := if s.md.cur = .run then setMode .quiesce s else s
  postEventAll 2 1 3 { s with fns := tmap {} (fun _ fn => if fn.rdy then { fn with pp := true } else fn) s.fns }

/-- Firmware activation with reset (R79, R86): the slot becomes active, and every function is reset at once. -/
def actReset (slot : Nat) (mbx : Bool) (s : State) : State :=
  allReset 9 (setActive slot { s with fw := { s.fw with act := some ⟨slot, mbx, none, false, true, now s⟩ } })

/-- Firmware Image Download (R144): pieces are joined in download order. -/
def execFirmwareImageDownload (id : CmdId) (s : State) : Outcome State Fault Refusal :=
  .next (admin id 0x11 s fun c =>
    let len := 4 * (c.e.cdw10.toNat + 1)
    let off := 4 * c.e.cdw11.toNat
    let old := if off = 0 then [] else (fnOf s 0).img
    if id.func ≠ 0 then finishSt id invOpcode s
    else if len % 4096 ≠ 0 ∨ off % 4096 ≠ 0 ∨ 16777216 < off + len ∨ 16777216 < old.length + len then finishSt id invField s
    else finishSt id okSt (modFn 0 (fun fn => { fn with img := old ++ bytesAt c.e.data 0 len }) s))

/-- The slot that a Firmware Commit addresses: slot 0 asks the device to choose, and it takes the lowest that is not
active (log 32). -/
def commitSlot (s : State) (fs : Nat) : Nat :=
  if fs ≠ 0 then fs - 1 else ([0, 1, 2, 3].find? fun i => i ≠ s.fw.active).getD 0

/-- Carry out a Firmware Commit whose image passed. -/
def commitImg (id : CmdId) (ca slot : Nat) (loaded : Bool) (i : Img) (s : State) : State :=
  let w (s : State) : State := if loaded then modFn 0 (fun fn => { fn with img := [] }) (putSlot slot i s) else s
  match ca with
  | 0 => finishSt id okSt (w s)
  | 3 => actBegin slot false (some id) (modCmd id (fun c => { c with phase := .held }) (w s))
  | _ => actReset slot false (finishSt id okSt (w s))

/-- Firmware Commit (R145, R146). One that activates waits while a mailbox long command other than 0105h runs. -/
def execFirmwareCommit (id : CmdId) (s : State) : Outcome State Fault Refusal :=
  .next (admin id 0x10 s fun c =>
    let fs := fld c.e.cdw10 2 0
    let ca := fld c.e.cdw10 5 3
    let slot := commitSlot s fs
    let down := (fnOf s 0).img
    let loaded := ca ≤ 1 || (ca = 3 && down ≠ [])
    let image : Option Img := if loaded then (if down = [] then none else some (imgOf down)) else tget none s.fw.slots slot
    if id.func ≠ 0 then finishSt id invOpcode s
    else if 4 ≤ ca then finishSt id invField s
    else if 4 < fs ∨ (¬ loaded ∧ fs = 0) ∨ (ca ≤ 1 ∧ slot = s.fw.active) then finishSt id (cmdSt 0x06) s
    else if s.fw.act.any fun a => ca ≠ 0 || a.slot = slot then finishSt id seqError s
    else if ca ≠ 0 ∧ s.mbx.long ∧ s.mbx.run.any (·.opc ≠ 0x0105) then s
    else match image with
      | none => finishSt id (cmdSt 0x07) s
      | some i =>
        if ¬ imgOk s i then finishSt id (cmdSt 0x07) s
        else if ca = 3 ∧ i.needsReset then finishSt id (cmdSt 0x11) s
        else if ca = 3 ∧ s.md.cur ≠ .run then finishSt id (cmdSt 0x13) s
        else commitImg id ca slot loaded i s)

/-! ### Directives (R133) -/

/-- Directive Send: Identify directive, Enable Directive for the placement directive. -/
def execDirectiveSend (id : CmdId) (s : State) : Outcome State Fault Refusal :=
  .next (admin id 0x19 s fun c =>
    let v := c.e.cdw11
    if fld v 7 0 ≠ 1 ∨ fld v 15 8 ≠ 0 ∨ fld c.e.cdw12 15 8 ≠ 0x0F then finishSt id invField s
    else match featNss s c with
      | .error st => finishSt id st s
      | .ok ns =>
        let on := bitOf c.e.cdw12 0
        finishSt id okSt (modFn id.func (fun fn => { fn with
          dirEn := ns.foldl (fun l n => if on then insNat n l else rmNat n l) fn.dirEn }) s))

/-- Return Parameters: directives supported, then enabled; bit 0 the Identify directive, bit 15 the placement directive. -/
def dirParams (s : State) (f nsid : Nat) : List Byte :=
  bytesAt (leBytes 32 0x8001 ++ leBytes 32 (1 + 0x8000 * b2n (nsid ∈ (fnOf s f).dirEn))) 0 4096

/-- Directive Receive: Identify directive, Return Parameters. -/
def execDirectiveReceive (id : CmdId) (s : State) : Outcome State Fault Refusal :=
  .next (admin id 0x1A s fun c =>
    let v := c.e.cdw11
    if fld v 7 0 ≠ 1 ∨ fld v 15 8 ≠ 0 then finishSt id invField s
    else match nsCheck s c with
      | .error st => finishSt id st s
      | .ok _ => finishSt id okSt (sendData c 0 ((dirParams s id.func c.e.nsid).take (4 * (c.e.cdw10.toNat + 1))) s))

/-! ### Commands outside the tables (R124, R127, R129) -/

/-- Status of a command that no row of R127 or R129 supports; none for one that another row serves. -/
def unsupported (s : State) (c : Cmd) : Option Status :=
  if c.id.sq = 0 then
    if c.e.opc ∉ adminOps 0 then some (if frozenFn s c.id.func then vendorSt 7 else invOpcode)
    else if optBad 0 c.e then some (if frozenFn s c.id.func then frozenSt c.e.opc else invField) else none
  else if c.e.opc ∉ ioOps then some invOpcode
  else if optBad c.id.sq c.e then some invField
  else
    let bad := (c.e.opc = 0x79 && !(1 ≤ zsa c.e && zsa c.e ≤ 5)) || (c.e.opc = 0x7A && 1 < fld c.e.cdw13 7 0)
    if ¬ bad then none
    else some (match nsCheck s c with
      | .error st => st
      | .ok n => if n.zoned then invField else invOpcode)

/-- A command with an opcode, an option or an action that is not supported. -/
def execUnsupportedCommand (id : CmdId) (s : State) : Outcome State Fault Refusal :=
  match (if ioServes s then (cmdOf s id).filter (fun c => c.phase = .admitted) else none).bind (unsupported s) with
  | some st => .next (finishSt id st s)
  | none => .next s

end Sys2Proof.Machine
end

