-- ==== Sys2Proof/Machine/Power.lean ====
section
/-!
DEFINITION. Housekeeping and temperature (chapters 16, 18), the capacitance test and the Vent (chapter 17), power states,
DOZE and WATCH (chapter 16), and a clean shutdown.
-/
namespace Sys2Proof.Machine

open Sys2Proof

/-! ### Writing back everything (R195, R352) -/

/-- Work whose end the flush brings about. -/
def flushedWork : Work → Bool
  | .encode _ => true | .verify _ _ _ => true | .encrypt _ => true | .program _ _ _ _ => true | .parity _ _ _ _ => true
  | _ => false

/-- Partial frames are sealed, all dirty data is encoded, programmed and confirmed. -/
def flushAll (s : State) : State :=
  let s := (tkeys s.zones).foldl (fun s k =>
    let (ns, z) := (zkeyNs k, k % 2 ^ 24)
    zoneSettle ns z (sealZone ns z false (cutFull ns z s))) s
  storeJobs 8 { s with ops := s.ops.filter fun o => !flushedWork o.work, runs := s.runs.filter fun r => !flushedWork r.op.work }

/-- A clean shutdown (R55, R74, R195). -/
def execCleanShutdown (s : State) : Outcome State Fault Refusal :=
  if ¬ ioServes s then .next s else
  let s := flushAll s
  .next { s with ctrStored := s.ctr }

/-! ### Temperature (R378 to R383, R386 to R388) -/

/-- A threshold's own state after a reading: in force at or above its level, out of force below level − H. -/
def thrStep (on : Bool) (t : Thr) (x : Int) : Bool := if on then !(x < t.level - t.hyst) else decide (t.level ≤ x)

/-- Kerf in µs and thermal target while Throttle is in force (R383): `d` whole degrees above the level. -/
def kerfOf (on : Bool) (d : Int) : Nat := if on then min 1000 (25 * max 1 (d + 1).toNat) else 0
/-- The thermal target. -/
def targetOf (on : Bool) (thrPace : Nat) (d : Int) : Nat := if on then max 100 (thrPace - 25 * d.toNat) else 1250

/-- A Thermal History entry of a crossing; in WATCH the always-on domain holds it (R355, R380). -/
def crossLog (n : Nat) (was is : Bool) (x : Int) (k : Nat) (s : State) : State :=
  if was = is then s
  else if s.md.cur = .watch then { s with therm := { s.therm with held := ⟨now s, n, is, x, k⟩ :: s.therm.held } }
  else thermalLog ⟨now s, n, is, x, k⟩ s

/-- Functions whose SMART temperature bit was set in WATCH: the exit posts their events (R143, R380). -/
def tempOwe (s0 s : State) : State :=
  { s with therm := { s.therm with
      evOwed := s.therm.evOwed ++ (tkeys s.fns).filter fun f => !tempOut s0 f && tempOut s f && f ∉ s.therm.evOwed } }

/-- Time at the level, and under kerfs, up to now (R153, R424). -/
def thermAccount (s : State) : State :=
  let dt := now s - s.therm.since
  let l := thermLevel s
  let t := s.therm
  { s with therm := { t with
      lvlNs := if l = 0 then t.lvlNs else tset 0 t.lvlNs l (tget 0 t.lvlNs l + dt),
      kerfTotal := if t.kerf = 0 then t.kerfTotal else t.kerfTotal + dt, since := now s } }

/-- Kerfs come into force or leave it (R153). -/
def kerfMark (s : State) : State :=
  if s.therm.kerf ≠ 0 then { s with qos := { s.qos with kerfSince := some (s.qos.kerfSince.getD (now s)) } }
  else match s.qos.kerfSince with
    | some t => { s with qos := { s.qos with kerfNs := s.qos.kerfNs + (now s - t), kerfSince := none } }
    | none => s

/-- Shut-down comes into force (R386, R388), by the mode it meets. -/
def shutDown (s : State) : State :=
  match s.md.cur with
  | .run | .quiesce | .vent => ventEnter 2 true false s
  | .doze => let s := dozeLeave 8 s; { s with pwr := { s.pwr with shutAfter := true } }
  | .watch => { s with pwr := { s.pwr with haltRec := true }, pin := { s.pin with pwrOff := true } }
  | .start => shutHalt s
  | .halt => if s.cache ≠ [] then ventEnter 2 true false s else { s with pin := { s.pin with pwrOff := true } }

/-- One temperature reading (R378 to R383). The first since POR finds the level that START begins with: at or above Shut-down minus H
it holds START in stage 1 (R387). -/
def thermStep (x : Int) (s0 : State) : State :=
  let s := thermAccount s0
  let t := s.therm
  let sh := thrStep t.shutOn t.shut x
  let th := thrStep t.throtOn t.throt x || sh
  let wa := thrStep t.warnOn t.warn x || th
  let d := (x - t.throt.level) / 8
  let k := kerfOf th d
  let t' : Therm := { t with warnOn := wa, throtOn := th, shutOn := sh, kerf := k, ttarget := targetOf th t.thrPace d,
                             max := max t.max x, last := x }
  let first := t.max = -32768 ∧ s.md.cur = .start ∧ s.md.stage ≤ 1
  let s := fastSet (kerfMark { s with therm := t' })
  let s := crossLog 1 t.warnOn wa x k (crossLog 2 t.throtOn th x k (crossLog 3 t.shutOn sh x k s))
  let s := { s with md := { s.md with hot := (first || s.md.hot) && shutHot s },
                    pin := { s.pin with pwrOff := ((first && sh) || s.pin.pwrOff) && shutHot s } }
  let s := if s.md.cur = .watch then tempOwe s0 s else tempEvents s0 s
  if sh ∧ ¬ t.shutOn ∧ ¬ first then shutDown s else s

/-- Whether the slow clock is at an edge and `n` of its ticks have passed since tick `t` (R354, R379). -/
def ticksPast (s : State) (t n : Nat) : Bool := s.clk.edge && decide (t + n ≤ s.clk.ticks)

/-- A 1 ms sample, 32 slow ticks after the last (R379). -/
def execFastThermalSample (reading : BitVec 16) (s : State) : Outcome State Fault Refusal :=
  if ¬ s.therm.fast ∨ s.md.cur = .watch ∨ ¬ ticksPast s s.therm.fastAt 32 then .next s
  else .next (thermStep reading.toInt { s with hk := { s.hk with ch := tset 0 s.hk.ch 0 reading }, therm := { s.therm with fastAt := s.clk.ticks } })

/-! ### Housekeeping (R354, R367) -/

/-- The 12 readings of a round. -/
def putReadings (r : Readings) (s : State) : State :=
  let hk := s.hk
  { s with hk := { hk with
      ch := (List.range 12).foldl (fun t c => tset 0 t c (r.ch.getD c 0)) hk.ch,
      holdup := (((r.ch.getD 2 0).toNat) :: hk.holdup).take 4, rounds := hk.rounds + 1 } }

/-- CAP and VMIN of the HOLDUP_SET that waits for this round come into force; LOW is evaluated where CAP changes (R367, R368). -/
def holdupApply (s : State) : State :=
  match s.mbx.run with
  | some r =>
    if s.hold.waitHoldup ∧ r.opc = 0x0502 ∧ ¬ r.paused then
      let cap := (r.args.getD 0 0).toNat
      let s' := { s with hold := { s.hold with cap := cap, vmin := (r.args.getD 1 0).toNat } }
      if cap ≠ s.hold.cap then lowEval s' else s'
    else s
  | none => s

/-- The ceiling of a round comes into force; what it decides follows: write-back class (R160), durable FUA writes, and a
HOLDUP_SET that waits for it (0502h). -/
def ceilRound (s : State) : State :=
  let s := fuaCheck (wbUpdate (setCeil (holdupApply s)))
  if s.hold.waitHoldup ∧ ¬ s.mbx.run.any (·.paused) then
    let s := { s with hold := { s.hold with waitHoldup := false } }
    if s.mbx.run.any (·.opc = 0x0502) then mbxDone [(0, w32 s.hold.ceil)] s else s
  else s

/-- A slow round, 1,638 slow ticks after the last (R354). WATCH has its own cycle (R355). -/
def execHousekeepingRound (r : Readings) (s : State) : Outcome State Fault Refusal :=
  if s.md.cur = .watch ∨ ¬ ticksPast s s.hk.roundAt 1638 then .next s
  else .next (thermStep (r.ch.getD 0 0).toInt (ceilRound (putReadings r { s with hk := { s.hk with roundAt := s.clk.ticks } })))

/-! ### Capacitance test (R366, R367) -/

/-- 24 hours in ns. -/
def dayNs : Nat := 86400000000000

/-- A test falls due, 24 hours after the one before it was. -/
def execCapacitanceTestDue (s : State) : Outcome State Fault Refusal :=
  if now s < s.hold.lastTest + dayNs then .next s
  else .next (capTest { s with hold := { s.hold with lastTest := s.hold.lastTest + dayNs } })

/-- CMEAS in mF: 100 ms × 1 A over the voltage lost, in mV (R366). -/
def cmeasOf (v0 v1 : Nat) : Nat := if v0 ≤ v1 then 0xFFFF else min 0xFFFF (100000 / (v0 - v1))

/-- A test ends with the readings before and after it. -/
def execCapacitanceTestEnd (v0 v1 : Nat) (s : State) : Outcome State Fault Refusal :=
  if ¬ s.hold.testRun then .next s else
  .next (lowEval { s with hold := { s.hold with testRun := false, tested := true, cmeas := cmeasOf v0 v1 },
                          pin := { s.pin with holdupTest := false } })

/-! ### Dips and the Vent (R371, R374, R375) -/

/-- A doze exit that goes on to a Vent (R351, R362). -/
def dozeVent (s : State) : State :=
  let s := dozeLeave 9 s
  { s with pwr := { s.pwr with ventAfter := true } }

/-- A warning that outlasts the debounce enters a Vent; without an accepted LUN it is only recorded (R371). -/
def vinVent (dur : Nat) (s : State) : State :=
  if anyLun s then ventEnter 0 false false s else ventLog { time := now s, kind := 1, lowVin := s.hold.lowVin, dur := dur } s

/-- VIN_SENSE falls below WARN: the debounce starts; a dip within one is the same dip. In DOZE the device leaves for VENT. -/
def execVinWarning (mv : Nat) (s : State) : Outcome State Fault Refusal :=
  if ¬ ventEnabled s ∨ ventWarn s ≤ mv then .next s
  else
    let low := if s.hold.debounce.isSome ∨ s.md.cur = .vent then min s.hold.lowVin mv else mv
    let s := { s with hold := { s.hold with lowVin := low } }
    if s.md.cur = .doze then .next (dozeVent s)
    else if s.md.cur = .vent ∨ s.hold.debounce.isSome then .next s
    else .next { s with hold := { s.hold with debounce := some (now s) } }

/-- VIN_SENSE is back at RECOVER within the debounce: a dip. -/
def execDipEnd (mv : Nat) (s : State) : Outcome State Fault Refusal :=
  match s.hold.debounce with
  | none => .next s
  | some t =>
    if mv < ventRecover s then .next s
    else .next (ventLog { time := now s, kind := 1, lowVin := s.hold.lowVin, dur := (now s - t) / 1000 }
      { s with hold := { s.hold with debounce := none, dips := satInc 0xFFFF s.hold.dips, last := 1 } })

/-- The debounce, held to ± 10 %, expires: VENT from RUN, QUIESCE and HALT; in START and WATCH nothing, nor with ENABLE cleared
meanwhile; without an accepted LUN only the record (R371). -/
def execDebounceExpiry (s : State) : Outcome State Fault Refusal :=
  match s.hold.debounce with
  | none => .next s
  | some t =>
    if now s < t + 900 * s.hold.deb then .next s
    else
      let s := { s with hold := { s.hold with debounce := none } }
      if ¬ ventEnabled s then .next s else
      match s.md.cur with
      | .start | .watch | .vent => .next s
      | .doze => .next (dozeVent s)
      | .run | .quiesce | .halt => .next (vinVent ((now s - t) / 1000) s)

/-! ### Power transitions (R349, R350, R352, R360, R361) -/

/-- Whether the drain of R349 is over: every admitted command has completed, but those that wait for the transition, no
activation runs, and no operation runs. -/
def psDrained (s : State) : Bool :=
  s.cmds.all (fun c => c.phase = .held) && s.fw.act.isNone && s.runs.isEmpty

/-- The drain ends and the entry sequence runs: into WATCH, everything is written back, P writes and counters are stored, and
firmware's state and the queues are copied to DRAM (R352, R67, R470). -/
def execPowerEntryDrainEnd (s : State) : Outcome State Fault Refusal :=
  match s.pwr.trans with
  | none => .next s
  | some t =>
    if t.drained ∨ s.md.cur = .vent ∨ ¬ psDrained s then .next s
    else
      let s := { s with pwr := { s.pwr with trans := some { t with drained := true } } }
      if t.target = 4 then
        let s := storeP (flushAll s)
        .next { s with ctrStored := s.ctr, pwr := { s.pwr with copied := true } }
      else .next s

/-- The state that a transition reaches is in force. -/
def psReach (t : Trans) (s : State) : State :=
  let s := { s with pwr := { s.pwr with trans := none, cur := t.target, lastOp := if t.target < 3 then t.target else s.pwr.lastOp } }
  match t.owner with
  | some w => psTell w s
  | none => s

/-- The pending request after a transition (R360, R361): the next transition at once, unless what holds PS3 and PS4 does (R330, R349)
or a Vent runs (R362); or the end of every waiter, after the next exit where the core domain is off. -/
def psNext (s : State) : State :=
  if s.pwr.pend ≠ 7 ∧ s.pwr.pend ≠ s.pwr.cur then
    if ¬ psMay s then s
    else
      let s := if s.md.cur = .watch then
          let s := wakeRecord (s.pwr.wakeReq.getD 8) 0 4 0 s
          { s with pace := { s.pace with avsOut := some 750, avsAt := now s } }
        else s
      psTake s
  else if s.pwr.coreOff then
    { s with pwr := { s.pwr with pend := 7, waiters := [], wakeReq := none,
                                 owed := s.pwr.owed ++ s.pwr.waiters.map fun w => (w, s.pwr.cur) } }
  else psTellAll s

/-- What the always-on domain holds for firmware at an exit: Thermal History entries (R355), temperature events (R143, R380), and
completions that fell while the core domain was off (R361). -/
def exitOwed (s : State) : State :=
  let h := s.therm.held
  let e := s.therm.evOwed
  let o := s.pwr.owed
  let s := { s with therm := { s.therm with held := [], evOwed := [] }, pwr := { s.pwr with owed := [] } }
  let s := h.reverse.foldl (fun s x => thermalLog x s) s
  let s := e.foldl (fun s f => postEvent 1 1 2 f s) s
  o.foldl (fun s w => psTellAs w.2 w.1 s) s

/-- The mode that an exit from DOZE or WATCH leads to: a Vent that was to follow, the error state's HALT, a HALT recorded
in WATCH, or RUN. A Vent that VIN_SENSE asked for needs ENABLE and a LUN still (R371). -/
def exitMode (s : State) : State :=
  let vin := s.pwr.ventAfter && ventEnabled s
  let shut := s.pwr.shutAfter
  let s := { s with pwr := { s.pwr with ventAfter := false, shutAfter := false } }
  let s :=
    if s.pwr.haltRec then shutHalt { s with pwr := { s.pwr with haltRec := false } }
    else
      let s := if s.sec.st = 2 then enterHalt 1 s else s
      if shut then (if s.md.cur = .halt then shutDown s else ventEnter 2 true false s)
      else if vin ∧ anyLun s then ventEnter 0 false false s
      else
        let s := if s.md.cur = .halt then s else enterRun s
        if vin then vinVent 0 s else s
  epochSync (fastSet (exitOwed s))

/-- The ranks enter self-refresh (R331, R350, R352). -/
def ranksSleep (s : State) : State :=
  { s with dram := { s.dram with ranks := tmap {} (fun _ r => { r with selfRef := r.st ≠ 0 }) s.dram.ranks } }

/-- Entry to DOZE (R350). -/
def enterDoze (s : State) : State := setMode .doze (ranksSleep s)

/-- Entry to WATCH at its commit point (R352, R353, R396, R412): requests have completed, every P write that has come meanwhile is
stored (R67), the retention image is saved, L1.2 is asked for, the slow counter carries device time (R40); then the core supply is
off, and with it the fast sampling (R379) and the DRBG, which the exit instantiates again (R401). -/
def enterWatch (s : State) : State :=
  let s := ranksSleep (timeSlow (storeP (aonEdge (coEnd (sessionsEnd s)))))
  fastSet (setMode .watch { s with
    pwr := { s.pwr with coreOff := true, retained := true, cyclesNow := 0, cycleAt := s.clk.ticks, since := now s, zerDone := false },
    pin := { s.pin with l12 := true }, pace := { s.pace with vset := 0, avsOut := none },
    sec := { s.sec with drbg := false, lastBit := none, rep := 0, winPos := 0, winCount := 0, startUp := 0, fill := 0, waits := [] } })

/-- A transition ends; one that leaves DOZE or WATCH not before the checks of ranks and channels have (R331, R351, R358). -/
def execPowerTransitionEnd (s : State) : Outcome State Fault Refusal :=
  match s.pwr.trans with
  | none => .next s
  | some t =>
    if ¬ t.drained ∨ s.pwr.coreOff ∨ (t.exiting ∧ ¬ exitChecked s) then .next s
    else if t.target = 4 then .next (psNext (enterWatch (psReach t s)))
    else if t.target = 3 then .next (psNext (enterDoze (psReach t s)))
    else .next (psNext (if t.exiting then exitMode (timeBack (psReach t s)) else psReach t s))

/-! ### WATCH (R355, R357, R358) -/

/-- Wake limits in force of a channel (R356): LOW and HIGH. -/
def thrDflt (c : Nat) : Nat × Nat := if c = 0 then (0x8000, 0x7FFF) else (0, 0xFFFF)
/-- The pair in force. -/
def wakeThr (s : State) (c : Nat) : Nat × Nat := tget (thrDflt c) s.pwr.thr c

/-- A channel's value as its compare takes it: channel 0 signed. -/
def chVal (c v : Nat) : Int := if c = 0 then sgn16 (BitVec.ofNat 16 v) else v

/-- The lowest channel in the mask whose reading breaches its limits. -/
def breach (s : State) : Option Nat :=
  (List.range 12).find? fun c =>
    s.pwr.watchMask.getLsbD c &&
    (let v := chVal c (tget 0 s.hk.ch c).toNat
     let (lo, hi) := wakeThr s c
     decide (v < chVal c lo) || decide (chVal c hi < v))

/-- A Watch cycle, a period of slow ticks after the last: VCORE reads 0, limits and thresholds are compared, the cycle is counted. -/
def execWatchCycle (r : Readings) (s : State) : Outcome State Fault Refusal :=
  if s.md.cur ≠ .watch ∨ s.pwr.trans.isSome ∨ ¬ ticksPast s s.pwr.cycleAt (s.pwr.watchPeriod * 32768 / 1000) then .next s else
  let s := putReadings { r with ch := r.ch.set 4 0 } s
  let s := thermStep (r.ch.getD 0 0).toInt s
  let s := { s with pwr := { s.pwr with cyclesNow := s.pwr.cyclesNow + 1, cycleAt := s.clk.ticks } }
  .next (match breach s with | some c => wakeWatch 3 c s | none => s)

/-- AON_WAKE_TIMER expires: SECONDS after the commit point, 0 for off. -/
def execWakeTimerExpiry (s : State) : Outcome State Fault Refusal :=
  let n := regFld s 0x30034 31 0
  .next (if n = 0 ∨ now s < s.pwr.since + n * 1000000000 then s else wakeWatch 4 0 s)

/-- The host leaves L1.2. -/
def execHostL12Exit (s : State) : Outcome State Fault Refusal := .next (wakeWatch 1 0 s)

/-- The first byte of an MCTP packet in WATCH: not acknowledged, and a wake (R353). -/
def execSidebandWakePacket (s : State) : Outcome State Fault Refusal := .next (wakeWatch 5 0 s)

/-! ### Self-tests (R398 to R401) -/

/-- Engines whose GCM test passed. -/
def gcmPass (t : SelfTest) : List Nat := (List.range 8).filter fun k => t.gcmOk.getD k false

/-- The first failing test (FAIL encoding); 02h only when every engine fails (R399). -/
def firstFailed (t : SelfTest) : Nat :=
  if ¬ t.romOk then 1
  else if gcmPass t = [] then 2
  else match (List.range 8).find? fun i => !(t.katOk.getD i false) with
    | some i => i + 3
    | none => if t.noiseOk then 0 else 11

/-- Run the tests: engines that fail are fenced while others pass; a failure is the cryptographic error state, else the
device is approved and the DRBG instantiated. -/
def runTests (t : SelfTest) (s : State) : State :=
  let s := if gcmPass t = [] then s else
    ((List.range 8).filter fun k => !(t.gcmOk.getD k false) && !(cipOf s k).fenced).foldl (fun s k => fence k s) s
  let f := firstFailed t
  if f ≠ 0 then cryptoError f 0 ((openSecs s).filter fun k => t.gcmOk.getD k false) s
  else
    let s := if s.sec.drbg ∧ ¬ s.sec.drbgFailed then s else
      { s with sec := { s.sec with drbg := true, drbgFailed := false, drbgReqs := 0, drbgSince := now s } }
    { s with sec := { s.sec with st := 1, fail := 0, engine := 0, passEng := [] } }

/-- START from stage 1 after a WATCH whose state could not be restored (R69, R358). -/
def watchRestart (crc : Bool) (s : State) : State :=
  let s := enterStage1 (coreLost (mbxEmpty (psDrop s)))
  let s := { s with pwr := { s.pwr with coreOff := false } }
  let s := if crc then { s with md := { s.md with reason := 8, fail := true } } else s
  healthLog { time := now s, typ := 3 } s

/-- VCORE is good after a wake: the retention image and the DRAM copy are checked, class V defaults, the self-tests run
again, and a zeroization made in WATCH marks its zones (R68, R69, R358, R401, R418). -/
def execVcoreGood (p : WakeProbe) (s : State) : Outcome State Fault Refusal :=
  match s.pwr.trans with
  | none => .next s
  | some t =>
    if ¬ s.pwr.coreOff ∨ s.md.cur ≠ .watch then .next s
    else if ¬ p.retentionOk then .next (watchRestart true s)
    else if ¬ (p.dramCopyOk ∧ p.ranksOk) then .next (watchRestart false s)
    else
      let s := exitBegin (timeBack s)
      let s := vDefaults { s with pwr := { s.pwr with coreOff := false, retained := false, copied := false, trans := some { t with drained := true } },
                                  pin := { s.pin with l12 := false },
                                  pace := { s.pace with vset := 750, avsOut := none }, sram := { s.sram with cells := [] } }
      let s := if s.pwr.zerDone then
          let s := zeroizeAll s
          { s with vault := { s.vault with live := { s.vault.live with co := none } }, pwr := { s.pwr with zerDone := false } }
        else s
      .next (witness (runTests p.tests s))

end Sys2Proof.Machine
end

