-- ==== Sys2Proof/Machine/Mailbox.lean ====
section
/-!
DEFINITION. The manager mailbox (chapter 05): the doorbell, the checks of R91 and the modes of R97, and the commands of
devices (01xxh), tenants (02xxh), namespaces and profiles (03xxh).
-/
namespace Sys2Proof.Machine

open Sys2Proof

/-! ### Protocol (R89 to R92, R97) -/

/-- A failed check of R91: code, RESULT_0 and RESULT_1. -/
abbrev MFail := Option (Nat × Nat × Nat)

/-- A check that fails when `c` holds. -/
def mfail (c : Bool) (code arg obj : Nat) : MFail := if c then some (code, arg, obj) else none

/-- The first check that fails. -/
def firstM : List MFail → MFail
  | [] => none
  | some f :: _ => some f
  | none :: t => firstM t

/-- A command: it ends in ERROR at its first failing check, else it acts. -/
def mbxDo (checks : List MFail) (act : State → State) (s : State) : State :=
  match firstM checks with
  | some (code, arg, obj) => mbxFail code arg obj s
  | none => act s

/-- Argument i of a command. -/
def argN (r : MbxRun) (i : Nat) : Nat := (r.args.getD i 0).toNat
/-- A 64-bit argument in two consecutive registers, low word first. -/
def arg64 (r : MbxRun) (i : Nat) : Nat := argN r i + 2 ^ 32 * argN r (i + 1)
/-- Length of the host buffer. -/
def bufLen (r : MbxRun) : Nat := (r.buf.map BufArg.len).getD 0
/-- The first `n` bytes of the host buffer; what the command was not told reads 0 (log 5). -/
def bufBytes (r : MbxRun) (n : Nat) : List Byte := bytesAt ((r.buf.map BufArg.bytes).getD []) 0 n

/-- Step 5 of R91 for a command that needs `need` bytes. -/
def bufChecks (r : MbxRun) (need : Nat) : List MFail :=
  [mfail (r.buf.any fun b => b.addr.toNat % 4096 ≠ 0) 8 0x10 (runObj r), mfail (bufLen r < need) 1 0x10 (runObj r)]

/-- A buffer longer than a command takes, or than MBX_BUF_LEN may say: out of range, after the arguments (R91 step 6). -/
def bufLong (r : MbxRun) (most : Nat) : MFail := mfail (min most 0x4000000 < bufLen r) 1 0x10 (runObj r)

/-- Opcodes of the catalogue (R100). -/
def mbxDefined (opc : Nat) : Bool :=
  let n := opc % 256
  1 ≤ n && n ≤ match opc / 256 with
    | 1 => 5 | 2 => 7 | 3 => 7 | 4 => 7 | 5 => 4 | 6 => 3 | 7 => 3 | 8 => 6 | 9 => 2 | _ => 0

/-- Long commands (R100). -/
def mbxLong (opc : Nat) : Bool := opc ∈ [0x0105, 0x0407, 0x0503, 0x0601, 0x0602, 0x0801, 0x0803]

/-- The boot-ROM subset (R97). -/
def bootSet (opc : Nat) : Bool := opc ∈ [0x0101, 0x0102, 0x0103, 0x0104]

/-- The mode table of R97: the code that refuses an opcode. -/
def modeRefuses (s : State) (opc : Nat) : Option Nat :=
  let only (ok : Bool) (code : Nat) : Option Nat := if ok then none else some code
  match s.md.cur with
  | .run | .quiesce | .watch => none
  | .start => only (bootSet opc) 6
  | .doze => only (opc = 0x0102 || opc = 0x0501 || opc = 0x0901) 0x14
  | .vent => only (opc = 0x0102) 0x14
  | .halt => match s.md.haltWhy with
    | 3 => only (bootSet opc) 6
    | 4 => only (bootSet opc || opc = 0x0901) 6
    | 2 => only (opc = 0x0102 || opc = 0x0901) 0x14
    | _ => only (opc / 256 ≠ 4 && opc ≠ 0x0703 && opc ≠ 0x0802 && opc ≠ 0x0803) 7

/-- Steps 1 to 4 of R91, which name no object (R92). -/
def preChecks (s : State) (opc : Nat) (r : MbxReq) (epoch : W32) : List MFail :=
  [mfail (r.rsvd ≠ 0) 2 0x11 0, mfail (!mbxDefined opc) 1 0x11 0,
   mfail (r.epoch && epoch ≠ s.flt.epoch) 0x16 15 0,
   (modeRefuses s opc).map fun code => (code, 0x11, 0)]

/-- Registers that the manager writes at an issue: offset within MBX and value. -/
def reqWrites (opc : Nat) (r : MbxReq) : List (Nat × W32) :=
  ((r.args.take 16).zipIdx.map fun (a, i) => (0x10 + 4 * i, a)) ++
  (match r.buf with
   | some b => [(0x50, b.addr.setWidth 32), (0x54, w32 (b.addr.toNat / 2 ^ 32)), (0x58, w32 b.len)]
   | none => []) ++
  [(0, w32 (opc + 2 ^ 16 * b2n r.force + 2 ^ 17 * b2n r.epoch + 2 ^ 18 * b2n r.notify))]

/-- What the doorbell latches (R89). -/
def mbxLatch (opc : Nat) (r : MbxReq) (met : List SramMet) (test : Option SelfTest) (s : State) : MbxRun :=
  { opc := opc, args := (List.range 16).map fun i => regGet s (0x20010 + 4 * i),
    buf := some ⟨BitVec.ofNat 64 ((regGet s 0x20050).toNat + 2 ^ 32 * (regGet s 0x20054).toNat), (regGet s 0x20058).toNat,
      (r.buf.map BufArg.bytes).getD []⟩,
    notify := r.notify, epoch := r.epoch, force := r.force, start := now s, met := met, test := test }

/-- The doorbell is accepted (R89): SEQ rises, results and progress read 0, STATE is BUSY. -/
def mbxAccept (opc : Nat) (r : MbxReq) (met : List SramMet) (test : Option SelfTest) (s : State) : State :=
  let s := (reqWrites opc r).foldl (fun s w => regPut s (0x20000 + w.1) w.2) s
  { s with rsv := tset 0 s.rsv 0x20000 (w32 (r.rsvd.toNat * 2 ^ 19)), mbx := { s.mbx with
      seq := s.mbx.seq + 1, code := 0, results := [], progress := 0, st := .busy, long := mbxLong opc,
      run := some (mbxLatch opc r met test s) } }

/-- Whether an accepted command starts later: before stage 3 has ended (R71), while an image switches (R174), or a second
activation while one is in progress (log 5). -/
def mbxLater (s : State) (opc : Nat) : Bool :=
  (s.md.cur = .start && !s.md.loaded && opc ≠ 0x0102) || s.fw.act.any (·.switching) ||
  (opc = 0x0105 && s.fw.act.isSome)

/-- Whether the manager can reach the mailbox at all: configuration space is served from stage 1 on, and the link is up. -/
def mbxReached (s : State) : Bool := !(s.md.cur = .start && s.md.stage = 0) && !s.hold.vent.any (·.perst)

/-- Issue a command: the register writes and the doorbell (chapter 05). While a command runs every write is ignored and
counted (R90); in WATCH they meet a gated block (R63, R97). `body` is what the command does after the checks of R91's steps 1
to 4. -/
def ring (opc : Nat) (r : MbxReq) (met : List SramMet) (test : Option SelfTest) (body : MbxRun → State → State) (s : State) :
    State :=
  let ws := reqWrites opc r
  if ¬ mbxReached s then s
  else if s.md.cur = .watch then
    gatedRecord .host true 0x20060 (ws.foldl (fun s w => gatedRecord .host true (0x20000 + w.1) s) s)
  else if s.mbx.st = .busy then { s with mbx := { s.mbx with rejects := satAdd 0xFFFFFFFF s.mbx.rejects (ws.length + 1) } }
  else
    let s := mbxAccept opc r met test s
    match s.mbx.run with
    | none => s
    | some m =>
      mbxDo (preChecks s opc r (m.args.getD 15 0)) (fun s =>
        if mbxLater s opc then { s with mbx := { s.mbx with run := some { m with waitStart := true } } } else body m s) s

/-! ### Device commands, 01xxh -/

/-- 0101h DEV_IDENTIFY (R136). -/
def mbDevIdentify (r : MbxRun) (s : State) : State :=
  mbxDo (bufChecks r 4096 ++ [bufLong r 0x4000000]) (fun s => mbxDone [(0, topId)] (emit (.mbxBuf (identCtrl s 0)) s)) s

/-- 0102h DEV_STATE. -/
def mbDevState (s : State) : State := mbxDone [(0, topMode s), (1, topBoot s), (2, topResetLast s)] s

/-- A slot's bytes with a piece written at an offset; bytes never written read 0. -/
def slotBytes (s : State) (slot off : Nat) (b : List Byte) : List Byte :=
  let old := ((tget none s.fw.slots slot).map Img.bytes).getD []
  putBytes (bytesAt old 0 (max old.length off)) off b

/-- The image that a slot's bytes carry (R413): authentic only once its last byte is there. -/
def slotImg (b : List Byte) : Img :=
  let n := Config.imgLength b
  let i := imgOf (b.take n)
  { i with bytes := b, authentic := i.authentic && n ≤ b.length }

/-- 0103h FW_WRITE_SLOT (R413). -/
def mbFwWriteSlot (r : MbxRun) (s : State) : State :=
  let slot := argN r 0
  let off := argN r 1
  let n := bufLen r
  mbxDo (bufChecks r 1 ++ [mfail (3 < slot) 1 0 slot,
      mfail (off % 4096 ≠ 0 || 0x1000000 ≤ off || (n ≤ 0x1000000 && 0x1000000 < off + n)) 1 1 slot, bufLong r 0x1000000,
      mfail (slot = s.fw.active) 4 0 slot])
    (fun s => mbxDone [(0, w32 n)] (putSlot slot (slotImg (slotBytes s slot off (bufBytes r n))) s)) s

/-- 0104h FW_SLOT_QUERY. -/
def mbFwSlotQuery (s : State) : State :=
  mbxDone ([(0, w32 s.fw.active)] ++ ((List.range 4).map fun i => (i + 1, slotVer s i)) ++
    [(5, s.fw.recovery.version), (6, w32 s.fw.fused)]) s

/-- 0105h FW_ACTIVATE (R145, R172, R86). Action 1 goes on until the image switch ends, action 2 ends before its reset begins. An
Empty slot holds no image that verifies; for an image that needs a controller reset action 1 is out of range (log 33). -/
def mbFwActivate (r : MbxRun) (s : State) : State :=
  let slot := argN r 0
  let act := argN r 1
  let img := tget none s.fw.slots slot
  mbxDo [mfail (3 < slot) 1 0 slot, mfail (2 < act) 1 1 slot, mfail (!img.any (imgOk s)) 7 0 slot,
      mfail (act = 1 && img.any (·.needsReset)) 1 1 slot]
    (fun s =>
      if act = 0 then mbxDone [(0, w32 slot)] (setActive slot s)
      else if act = 1 then actBegin slot true none s
      else actReset slot true (mbxDone [(0, w32 slot)] s)) s

/-! ### Tenant commands, 02xxh -/

/-- Queue pairs and vectors that tenants other than t have reserved (R106). -/
def othersQp (s : State) (t : Nat) : Nat := ((s.tenants.filter fun e => e.1 ≠ t).map fun e => e.2.qp).foldl (· + ·) 0
/-- Vectors reserved by others. -/
def othersVec (s : State) (t : Nat) : Nat := ((s.tenants.filter fun e => e.1 ≠ t).map fun e => e.2.vec).foldl (· + ·) 0
/-- Minimum points last stored for created tenants other than t (R117). -/
def othersMin (s : State) (t : Nat) : Nat :=
  ((s.tenants.filter fun e => e.1 ≠ t && e.2.st ≠ .none).map fun e => e.2.stored.min).foldl (· + ·) 0

/-- A tenant number out of range. -/
def badTenant (r : MbxRun) : MFail := mfail (1023 < argN r 0) 1 0 (argN r 0)

/-- 0201h TENANT_CREATE (R102, R103, R470). -/
def mbTenantCreate (r : MbxRun) (s : State) : State :=
  let t := argN r 0
  mbxDo [badTenant r, mfail (!fnPresent s (t + 1)) 3 0 t, mfail ((tnOf s t).st ≠ .none) 4 0 t]
    (fun s =>
      let s := modCtr t (fun _ => {}) (modTn t (fun _ => { ({} : Tenant) with st := .created }) s)
      mbxDone [(0, w32 (genOf s (t + 1)).toNat)] s) s

/-- Whether queue pairs and vectors can be reserved for a tenant: code 05h names the argument. -/
def poolFail (s : State) (t qp vec aQ aV obj code : Nat) : List MFail :=
  [mfail (4096 < othersQp s t + ((fnOf s 0).numQ.getD 0) + qp) code aQ obj, mfail (32768 < othersVec s t + vec) code aV obj]

/-- 0202h TENANT_CONFIGURE (R103, R106). -/
def mbTenantConfigure (r : MbxRun) (s : State) : State :=
  let t := argN r 0
  let qp := argN r 1
  let vec := argN r 2
  let st := (tnOf s t).st
  mbxDo ([badTenant r, mfail (qp = 0 || 64 < qp) 1 1 t, mfail (vec < 2 || 65 < vec) 1 2 t, mfail (st = .none) 3 0 t,
      mfail (st = .frozen) 0x17 0 t, mfail (st = .enabled) 4 0 t] ++ poolFail s t qp vec 1 2 t 5)
    (fun s => mbxDone [] (modTn t (fun n => { n with st := .configured, qp := qp, vec := vec }) s)) s

/-- 0203h TENANT_SET_SHARE (R117): stored now, in force at the next epoch boundary. -/
def mbTenantSetShare (r : MbxRun) (s : State) : State :=
  let t := argN r 0
  let mn := argN r 1
  let w := argN r 2
  let cap := argN r 3
  mbxDo [badTenant r, mfail (10000 < mn) 1 1 t, mfail (w = 0 || 255 < w) 1 2 t, mfail (cap < mn || 10000 < cap) 1 3 t,
      mfail (65535 < argN r 4) 1 4 t, mfail (65535 < argN r 5) 1 5 t, mfail ((tnOf s t).st = .none) 3 0 t,
      mfail ((tnOf s t).st = .frozen) 0x17 0 t, mfail (10000 < mn + othersMin s t) 0x0B 1 t]
    (fun s => mbxDone [] (modTn t (fun n => { n with stored := ⟨mn, w, cap, argN r 4, argN r 5⟩, pend := true }) s)) s

/-- Namespaces attached to tenant t, rising. -/
def tenantNss (s : State) (t : Nat) : List (Nat × Ns) :=
  s.nss.filterMap fun e => match e.2 with | some n => if n.owner = some t then some (e.1, n) else none | none => none

/-- Whether a profile attached to a namespace names an empty slot. -/
def nsKeyless (s : State) (n : Ns) : Bool :=
  n.hints.any fun h => (profSlot (profOf s h.2)).any fun k => (slotOf s k).cur.isNone

/-- Write contexts that R104 reserves for tenant t: one for each zoned namespace with no active zone. -/
def ctxNeed (s : State) (t : Nat) : Nat := ((tenantNss s t).filter fun e => e.2.zoned && !nsActive s e.1).length

/-- 0204h TENANT_ENABLE (R101, R102, R104): a controller with CC.EN stored becomes ready; a disable acts as a tenant reset and ends
when its drain does. -/
def mbTenantEnable (r : MbxRun) (s : State) : State :=
  let t := argN r 0
  let on := argN r 1 = 1
  let st := (tnOf s t).st
  mbxDo [badTenant r, mfail (1 < argN r 1) 1 1 t, mfail (st = .frozen) 0x17 0 t,
      mfail (if on then st = .none || st = .created else st ≠ .enabled) 3 0 t, mfail (on && st = .enabled) 4 0 t,
      mfail (on && (tenantNss s t).any fun e => nsKeyless s e.2) 0x0A 0 t, mfail (on && ctxFree s < ctxNeed s t) 5 0 t]
    (fun s =>
      if on then mbxDone [(0, w32 (genOf s (t + 1)).toNat)] (lateReady (t + 1) (modTn t (fun n => { n with st := .enabled }) s))
      else vfReset 8 (t + 1) s) s

/-- 0205h TENANT_RESET (R80 to R82): it ends when its drain does. -/
def mbTenantReset (r : MbxRun) (s : State) : State :=
  let t := argN r 0
  mbxDo [badTenant r, mfail ((tnOf s t).st = .frozen) 0x17 0 t, mfail ((tnOf s t).st ≠ .enabled) 3 0 t]
    (vfReset 8 (t + 1)) s

/-- 0206h TENANT_DESTROY (R102, R103, R118, R122, R440). -/
def mbTenantDestroy (r : MbxRun) (s : State) : State :=
  let t := argN r 0
  let st := (tnOf s t).st
  mbxDo [badTenant r, mfail (st = .none) 3 0 t,
      mfail (st = .enabled || st = .frozen || tenantNss s t ≠ [] ||
        s.vault.live.slots.any fun e => e.2.cur.isSome && e.2.owner = t) 4 0 t]
    (fun s =>
      if genInUse s (t + 1) (genOf s (t + 1) + 1) then modFn (t + 1) (fun fn => { fn with waitRst := some destroyKind }) s
      else destroyTenant t s) s

/-- 0207h TENANT_QUERY. -/
def mbTenantQuery (r : MbxRun) (s : State) : State :=
  let t := argN r 0
  let n := tnOf s t
  mbxDo [badTenant r]
    (mbxDone [(0, w32 (tstCode n.st)), (1, w32 (genOf s (t + 1)).toNat), (2, word [(16, n.vec), (0, n.qp)]),
      (3, shareWord n.stored), (4, capsWord n.stored), (5, w32 n.stored.budget)]) s

/-! ### Namespace and profile commands, 03xxh -/

/-- A namespace identifier out of range. -/
def badNs (r : MbxRun) (i : Nat) : MFail := mfail (argN r i = 0 || 4096 < argN r i) 1 i (argN r i)
/-- A namespace that does not exist. -/
def noNs (s : State) (r : MbxRun) (i : Nat) : MFail := mfail ((nsOf s (argN r i)).isNone) 3 i (argN r i)
/-- A profile number out of range. -/
def badProf (r : MbxRun) : MFail := mfail (1023 < argN r 0) 1 0 (argN r 0)

/-- Raw flash bytes: every bulk and parameter block of the accepted LUNs (log 34). -/
def rawBytes (s : State) : Nat := ((goodLuns s).map fun l => (lunOf s l).blocks * lunU s l).foldl (· + ·) 0
/-- Bytes of a namespace's capacity. -/
def nsBytes (n : Ns) : Nat := 4096 * nsBlocks n
/-- Bytes of the namespaces that satisfy a test. -/
def nssBytes (s : State) (p : Ns → Bool) : Nat :=
  (s.nss.map fun e => match e.2 with | some n => if p n then nsBytes n else 0 | none => 0).foldl (· + ·) 0

/-- 0301h NS_CREATE (R202). -/
def mbNsCreate (r : MbxRun) (s : State) : State :=
  let ns := argN r 0
  let n : Ns := { zoned := argN r 1 = 1, zcode := if argN r 1 = 1 then argN r 2 else 0, size := argN r 3 }
  let conv := nssBytes s (fun m => !m.zoned) + (if n.zoned then 0 else nsBytes n)
  mbxDo [badNs r 0, mfail (1 < argN r 1) 1 1 ns, mfail (n.zoned && 4 < argN r 2) 1 2 ns, mfail (n.size = 0) 1 3 ns,
      mfail (nsOf s ns).isSome 4 0 ns,
      mfail (rawBytes s < nssBytes s (fun _ => true) + nsBytes n || (!n.zoned && rawBytes s < 100 * conv)) 5 3 ns]
    (fun s => mbxDone [(0, w32 (nsBlocks n)), (1, w32 (nsBlocks n / 2 ^ 32))] (setNs ns (some n) s)) s

/-- A namespace's zones, blocks and data leave the device. -/
def nsDrop (ns : Nat) (s : State) : State :=
  let s := ((s.zones.filter fun e => zkeyNs e.1 = ns).map fun e => e.1 % 2 ^ 24).foldl (fun s z => zoneClear ns z s) s
  fuaCheck <| wbUpdate <| dropDead { s with
    zones := s.zones.filter fun e => zkeyNs e.1 ≠ ns, conv := s.conv.filter fun e => e.1 / 2 ^ 32 ≠ ns,
    cache := s.cache.filter fun b => b.ns ≠ ns, jobs := s.jobs.filter fun e => !e.2.any fun j => j.ns = ns,
    rjobs := s.rjobs.filter fun e => !e.2.any fun j => j.ns = ns, hold := { s.hold with pool := s.hold.pool.filter fun v => v.ns ≠ ns },
    nss := tset none s.nss ns none }

/-- 0302h NS_DELETE. -/
def mbNsDelete (r : MbxRun) (s : State) : State :=
  let ns := argN r 0
  mbxDo [badNs r 0, noNs s r 0, mfail ((nsOf s ns).any fun n => n.owner.isSome) 4 0 ns,
      mfail (s.locks.any fun e => e.2.defined && e.2.ns = ns) 0x11 0 ns]
    (fun s => mbxDone [] (witness (nsDrop ns s))) s

/-- A namespace attached to or detached from function f: its Changed Namespace List and event (R143). -/
def nsNotice (ns f : Nat) (s : State) : State :=
  postEvent 2 0 4 f (modFn f (fun fn => { fn with changedNs := insNat ns fn.changedNs }) s)

/-- Whether a profile attached to a namespace names a loaded slot of another owner (R25). -/
def r25Fails (s : State) (n : Ns) (owner : Nat) : Bool :=
  n.hints.any fun h => (profSlot (profOf s h.2)).any fun k => (slotOf s k).cur.isSome && (slotOf s k).owner ≠ owner

/-- 0303h NS_ATTACH (R25, R104). -/
def mbNsAttach (r : MbxRun) (s : State) : State :=
  let ns := argN r 0
  let o := argN r 1
  let n? := nsOf s ns
  let tn := o ≠ 0xFFFF
  let mine := n?.any fun n => n.owner = some o
  mbxDo [badNs r 0, mfail (1023 < o && tn) 1 1 o, noNs s r 0, mfail (tn && (tnOf s o).st = .none) 3 1 o,
      mfail (n?.any fun n => n.owner.isSome && n.owner ≠ some o) 4 0 ns, mfail (n?.any fun n => r25Fails s n o) 4 1 o,
      mfail (tn && (tnOf s o).st = .frozen) 0x17 1 o,
      mfail (!mine && tn && (tnOf s o).st = .enabled && ctxFree s = 0 && n?.any fun n => n.zoned && !nsActive s ns) 5 1 o]
    (fun s => if mine then mbxDone [] s else
      mbxDone [] (nsNotice ns (ownerFn o) (setNs ns (n?.map fun n => { n with owner := some o }) s))) s

/-- 0304h NS_DETACH. -/
def mbNsDetach (r : MbxRun) (s : State) : State :=
  let ns := argN r 0
  let o? := (nsOf s ns).bind (·.owner)
  let o := o?.getD 0xFFFF
  mbxDo [badNs r 0, mfail o?.isNone 3 0 ns, mfail (ownerEnabled s o) 4 0 ns,
      mfail (o ≠ 0xFFFF && (tnOf s o).st = .frozen) 0x17 0 ns]
    (fun s => mbxDone [] (nsNotice ns (ownerFn o) (setNs ns ((nsOf s ns).map fun n => { n with owner := none }) s))) s

/-- 0305h PROFILE_WRITE (R178). -/
def mbProfileWrite (r : MbxRun) (s : State) : State :=
  let p := argN r 0
  mbxDo (bufChecks r 256 ++ [badProf r, bufLong r 0x4000000, mfail (profOf s p).enabled 4 0 p])
    (fun s => mbxDone [] (modProf p (fun x => { x with desc := bufBytes r 256 }) s)) s

/-- Check 1 of R179: a reserved byte or bit is non-zero; MOSAIC counts only with CODEC on. -/
def descRsv (d : List Byte) : Bool :=
  leAt d 14 2 ≠ 0 || leAt d 56 200 ≠ 0 || (leAt d 1 1 ≠ 0 && 4 ≤ leAt d 5 1)

/-- Check 2 of R179: a field outside its values. -/
def descRange (d : List Byte) : Bool :=
  leAt d 0 1 ≠ 1 || 2 < leAt d 1 1 || 2 < leAt d 2 1 || 1 < leAt d 6 1 || 3 < leAt d 7 1 || 2048 < leAt d 12 2 ||
  (leAt d 1 1 ≠ 0 && (2 < leAt d 3 1 || leAt d 4 1 < 8 || 16 < leAt d 4 1 || leAt d 8 4 = 0 || 65536 < leAt d 8 4))

/-- Check 4 of R179: the geometry does not fit. -/
def descGeom (d : List Byte) : Bool :=
  let m := leAt d 5 1
  let unit := lineBytes (leAt d 3 1) (leAt d 8 4) * (if m.testBit 1 then 2 else 1)
  leAt d 1 1 ≠ 0 && (!geomFits (leAt d 3 1) (leAt d 4 1) (if m.testBit 0 then 2 else 1) (leAt d 8 4) || leAt d 48 8 % unit ≠ 0)

/-- The lane set checks of R18: their code. -/
def laneFail (s : State) (p : Profile) : Option Nat :=
  let ls := laneSet p
  if ls = [] then some 1
  else if ls.any fun l => !(chanOf s (lunChan l)).gated && 1 ≤ (lunOf s l).reason && (lunOf s l).reason ≤ 10 then some 1
  else if parityOn p ∧ ls.length % 32 ≠ 0 then some 9
  else if ls.any fun l => (chanOf s (lunChan l)).gated then some 6
  else if ls.any fun l => (lunOf s l).reason = 12 then some 0x0C
  else none

/-- The checks of R179, in order. -/
def enableChecks (s : State) (no : Nat) (p : Profile) : List MFail :=
  let empty := (profSlot p).any fun k => (slotOf s k).cur.isNone
  let staged := (profSlot p).any fun k => s.vault.staged = some k
  let clash := (profSlot p).any fun k => (slotOf s k).cur.isSome &&
    (attachedNs s no).any fun ns => (nsOf s ns).any fun n => n.owner.any (· ≠ (slotOf s k).owner)
  [mfail (descRsv p.desc) 2 0 no, mfail (descRange p.desc) 1 0 no, mfail (leAt p.desc 40 8 % 4096 ≠ 0) 8 0 no,
   mfail (descGeom p.desc) 9 0 no, (laneFail s p).map fun c => (c, 0, no), mfail empty 0x0A 0 no, mfail staged 3 0 no,
   mfail clash 4 0 no]

/-- 0306h PROFILE_ENABLE (R179, R180): nothing is checked where the profile is already so. -/
def mbProfileEnable (r : MbxRun) (s : State) : State :=
  let no := argN r 0
  let on := argN r 1 = 1
  let p := profOf s no
  let set (s : State) : State :=
    mbxDone [] (lunCheck (spareCheck (witness (modProf no (fun x => { x with enabled := on }) s))))
  mbxDo [badProf r, mfail (1 < argN r 1) 1 1 no]
    (fun s =>
      if p.enabled = on then mbxDone [] s
      else if on then mbxDo (enableChecks s no p) set s
      else mbxDo [mfail (0 < boundOf s no) 4 0 no] set s) s

/-- 0307h PROFILE_ATTACH (R25, R134). -/
def mbProfileAttach (r : MbxRun) (s : State) : State :=
  let no := argN r 0
  let ns := argN r 1
  let h := argN r 2
  let n? := nsOf s ns
  let clash := (profSlot (profOf s no)).any fun k => (slotOf s k).cur.isSome &&
    n?.any fun n => n.owner.any (· ≠ (slotOf s k).owner)
  mbxDo [badProf r, badNs r 1, mfail (63 < h) 1 2 no, mfail (!(profOf s no).enabled) 3 0 no, noNs s r 1, mfail clash 4 0 no,
      mfail (n?.any fun n => (hintProf n h).isSome) 4 2 no, mfail (n?.any fun n => 64 ≤ n.hints.length) 5 1 ns]
    (fun s => mbxDone [] (witness (setNs ns (n?.map fun n => { n with hints := n.hints ++ [(h, no)] }) s))) s

end Sys2Proof.Machine
end

