-- ==== Sys2Proof/Machine/Sram.lean ====
section
/-!
DEFINITION. On-chip SRAM protection (chapter 15): the row check (R333, R334), reads and writes with the outcomes by requester
(R335 to R339), the scrub (R340 to R342) and field repairs (R343, R344).
-/
namespace Sys2Proof.Machine

open Sys2Proof

/-! ### Rows (R333, R334) -/

/-- Key of a row of a macro. -/
def rowKey (m row : Nat) : Nat := m * 4096 + row

/-- Array rows whose 33 bits have odd parity (R334). -/
def synR (v : BitVec 297) : List Nat :=
  (List.range 9).filter fun i => (List.range 33).foldl (fun p j => p ^^ v.getLsbD (33 * i + j)) false
/-- Array columns with odd parity. -/
def synS (v : BitVec 297) : List Nat :=
  (List.range 33).filter fun j => (List.range 9).foldl (fun p i => p ^^ v.getLsbD (33 * i + j)) false

/-- Outcome of a row check (R334): clean, one bit column bad, or uncorrectable. -/
inductive RowRes where
  | clean
  | bad (col : Nat)
  | uncorrectable
  deriving DecidableEq, Repr

/-- The check of a row as read. -/
def rowCheck (v : BitVec 297) : RowRes :=
  match synR v, synS v with
  | [], [] => .clean
  | [i], [j] => .bad (33 * i + j)
  | _, _ => .uncorrectable

/-- A row with one bit inverted. -/
def flipBit (v : BitVec 297) (c : Nat) : BitVec 297 := v ^^^ BitVec.ofNat 297 (2 ^ c)

/-- Whether a spare of the fuse map or a field repair replaces a bit (R343). -/
def repaired (s : State) (m row col : Nat) : Bool :=
  s.sram.repairs.any (fun e => e.mac = m && (if e.col then e.idx = col else e.idx = row)) ||
    decide (row ∈ fusedRows s m) || fusedCol s m = some col

/-- A row as it is read: what it stores, with the bits of its bad cells inverted (R335). -/
def rowRead (s : State) (k : Nat) : BitVec 297 :=
  (s.sram.bad.filter fun h => h.1 = k && !repaired s (k / 4096) (k % 4096) h.2).foldl (fun v h => flipBit v h.2) (tget 0 s.sram.cells k)

/-- A corrected read is counted (R335). -/
def sramCe (s : State) : State := { s with sram := { s.sram with ce := satInc 0xFFFFFFFF s.sram.ce } }

/-- An uncorrectable row is counted and recorded (R338), with MEMP_UE_FIRST.SOURCE. -/
def sramUe (src k : Nat) (s : State) : State :=
  let r := { s.sram with ue := satInc 0xFFFFFFFF s.sram.ue }
  { s with sram := if r.ueValid then r else { r with ueValid := true, ueSource := src, ueRow := k % 4096, ueMac := k / 4096 } }

/-- Write a row. -/
def setRow (k : Nat) (v : BitVec 297) (s : State) : State := { s with sram := { s.sram with cells := tset 0 s.sram.cells k v } }

/-! ### Writes of on-chip memory (R336) -/

/-- A word with its parity bit above it (R333). -/
def withParity (v : W32) : BitVec 33 := BitVec.cons ((List.range 32).foldl (fun p i => p ^^ v.getLsbD i) false) v

/-- Data word i of a row; the column word for i = 8. -/
def rowWord (v : BitVec 297) (i : Nat) : W32 := v.extractLsb' (33 * i) 32

/-- A row with array row i replaced. -/
def putRowWord (v : BitVec 297) (i : Nat) (x : W32) : BitVec 297 :=
  (v &&& ~~~ ((BitVec.allOnes 33).setWidth 297 <<< (33 * i))) ||| ((withParity x).setWidth 297 <<< (33 * i))

/-- The XOR of the eight data words of a row: its column word (R333). -/
def columnWord (v : BitVec 297) : W32 := (List.range 8).foldl (fun a i => a ^^^ rowWord v i) 0

/-- The whole row of eight data words, column word and corner bit included (R333). -/
def rowOfWords (ws : List W32) : BitVec 297 :=
  let v := (List.range 8).foldl (fun v i => putRowWord v i (ws.getD i 0)) 0
  putRowWord v 8 (columnWord v)

/-- The row that was read, with its one bad bit inverted. -/
def corrected (v : BitVec 297) : BitVec 297 :=
  match rowCheck v with
  | .bad c => flipBit v c
  | _ => v

/-- The cells after word i of a row is written: the word with its parity bit, and the column word and corner bit computed from
it and the corrected other words; the other words' cells stay (R336). -/
def writeWord (cells asRead : BitVec 297) (i : Nat) (x : W32) : BitVec 297 :=
  putRowWord (putRowWord cells i x) 8 (columnWord (putRowWord (corrected asRead) i x))

/-! ### Requesters (R338) -/

/-- MEMP_UE_FIRST.SOURCE of a requester. -/
def reqSource : SramReq → Nat
  | .firmware _ => 0
  | .bar _ => 1
  | .sideband => 2
  | .writeFrame _ | .readFrame _ | .offload _ | .vault _ => 3

/-- The operation of a job that runs is repeated from the write cache, with a new key copy (R338, R20). -/
def jobRepeat (n : Nat) (s : State) : State :=
  let mine (w : Work) : Bool := match w with | .encode m | .verify m _ _ | .encrypt m => m = n | _ => false
  let back := (s.runs.filter fun r => mine r.op.work).map Run.op
  modJob n (fun j => { j with key := [] }) { s with runs := s.runs.filter fun r => !mine r.op.work, ops := s.ops ++ back }

/-- A frame read whose row is lost reads its frame from media once more; a second failure fails its LBAs (R338). -/
def frameAgain (n : Nat) (s : State) : State :=
  match tget none s.rjobs n with
  | none => s
  | some r =>
    if r.again then failR n ureSt s else
    let mine (w : Work) : Bool := match w with
      | .lunRead j _ _ | .idxRead j _ _ | .decrypt j | .decode j => j = n
      | _ => false
    let s := { s with ops := s.ops.filter fun o => !mine o.work, runs := s.runs.filter fun x => !mine x.op.work }
    readPages n (modR n (fun r => { r with again := true, rebuilt := false, payload := [], key := [], bound := false }) s)

/-- An offload job whose row is lost fails with Internal Error (R229, R338). -/
def offLost (n : Nat) (s : State) : State :=
  match tget none s.offs n with
  | none => s
  | some o =>
    let s := dropDead { s with offs := tset none s.offs n none }
    match (cmdOf s o.id).filter fun c => c.gen = o.gen && c.phase = .reading with
    | none => s
    | some c => finishSt c.id internalErr s

/-- A slot whose store is lost takes its epochs from the journal again; frame reads bound to it meanwhile fail with Cipher Fault, and
encryptions take a new key copy (R255, R338). -/
def slotReload (k : Nat) (s : State) : State :=
  let rec' := tget {} (unwrapKeys s.vault.recd).slots k
  let s := modSlot k (fun sl => { sl with cur := rec'.cur, prev := rec'.prev }) s
  let s := (s.jobs.filter fun e => e.2.any fun j => j.slot = some k && j.stage = .cipher).foldl (fun s e => jobRepeat e.1 s) s
  (s.rjobs.filter fun e => e.2.any fun r => r.slot = some k && r.bound).foldl (fun s e => failR e.1 (vendorSt 6) s) s

/-- What a requester sees of an uncorrectable row (R338): a bus error, and what follows from it. A write of the host is discarded. -/
def reqLost (who : SramReq) (write : Bool) (s : State) : State :=
  match who with
  | .firmware copied => let s := emit .busError s; if copied then s else healthLog { time := now s, typ := 6 } s
  | .bar f => if write then s else emit (.completerAbort f) (modFn f (fun fn => { fn with aerCa := true }) s)
  | .sideband => emit .sidebandError s
  | .writeFrame n => jobRepeat n s
  | .readFrame n => frameAgain n s
  | .offload n => offLost n s
  | .vault k => slotReload k s

/-- What happens in the SRAM (R334 to R336, R338). A read, and a write of a word, checks its row first: it is counted as corrected, or the
row is uncorrectable, its requester sees that and a write changes nothing; a write of all eight words checks nothing. -/
def sramDo (s : State) : SramMet → State
  | .cell k c => { s with sram := { s.sram with bad := if (k, c) ∈ s.sram.bad then s.sram.bad else (k, c) :: s.sram.bad } }
  | .whole k ws => setRow k (rowOfWords ws) s
  | .read who k => match rowCheck (rowRead s k) with
    | .clean => s
    | .bad _ => sramCe s
    | .uncorrectable => reqLost who false (sramUe (reqSource who) k s)
  | .word who k i x =>
    let v := rowRead s k
    let put (s : State) : State := setRow k (writeWord (tget 0 s.sram.cells k) v i x) s
    match rowCheck v with
    | .clean => put s
    | .bad _ => put (sramCe s)
    | .uncorrectable => reqLost who true (sramUe (reqSource who) k s)

/-! ### The scrub (R340 to R342) -/

/-- The bits that are written back for bad column c: the corrected word, the parity bit, the column word or the corner bit (R340). -/
def backMask (c : Nat) : BitVec 297 :=
  if c % 33 = 32 then BitVec.ofNat 297 (2 ^ c) else (BitVec.allOnes 32).setWidth 297 <<< (33 * (c / 33))

/-- Of two rows, the second in the bits of a mask. -/
def mixRow (m a b : BitVec 297) : BitVec 297 := (a &&& ~~~ m) ||| (b &&& m)

/-- The scrub writes what it corrected back and reads the row again: the same bit bad again is a hard fault (R340, R341). -/
def scrubBack (k c : Nat) (s : State) : State :=
  let s := setRow k (mixRow (backMask c) (tget 0 s.sram.cells k) (flipBit (rowRead s k) c)) s
  match rowCheck (rowRead s k) with
  | .clean => s
  | .uncorrectable => sramUe 4 k s
  | .bad d =>
    let s := sramCe s
    if d = c then { s with sram := { s.sram with hard := tset none s.sram.hard (k / 4096) (some (k % 4096, c)) } } else s

/-- A row as the scrub finds it enters its counts, and those of its macro (R342). -/
def scrubCount (k : Nat) (res : RowRes) (s : State) : State :=
  if res = .clean then s else
  let r := s.sram
  { s with sram := { r with errs := tset 0 r.errs (k / 4096) (min 0xFFFF (tget 0 r.errs (k / 4096) + 1)),
                            scanCe := r.scanCe + b2n (res ≠ .uncorrectable), scanUe := r.scanUe + b2n (res = .uncorrectable) } }

/-- The scrub reads one row (R340): with repair it writes a corrected row back, unless a write of `here` has reached the row since it read
it; then the newer write stands and the row is read again. -/
def scrubRow (repair : Bool) (here : List SramMet) (k : Nat) (s : State) : State :=
  let res := rowCheck (rowRead s k)
  let wrote := here.any fun m => match m with | .word _ _ _ _ | .whole _ _ => true | _ => false
  let landed (s : State) : State := here.foldl sramDo s
  let s := scrubCount k res s
  match res with
  | .clean => landed s
  | .uncorrectable => landed (sramUe 4 k s)
  | .bad c =>
    let s := landed (sramCe s)
    if ¬ repair then s
    else if ¬ wrote then scrubBack k c s
    else match rowCheck (rowRead s k) with
      | .clean => s
      | .uncorrectable => sramUe 4 k s
      | .bad d => scrubBack k d (sramCe s)

/-- Rows of a macro that can read other than clean, rising. -/
def scrubRows (s : State) (met : List SramMet) (m : Nat) : List Nat :=
  (tkeys s.sram.cells ++ s.sram.bad.map Prod.fst ++ met.map SramMet.row).foldl (fun l k => if k / 4096 = m then insNat k l else l) []

/-- Whether something happens in a row of the scrub's range: it does when the scrub reaches the row; a cell that goes bad is bad before. -/
def metInRange (r : MbxRun) (e : SramMet) : Bool :=
  (match e with | .cell _ _ => false | _ => true) && decide (argN r 0 ≤ e.row / 4096) && decide (e.row / 4096 ≤ argN r 1)

/-- The scrub begins (R340). -/
def scrubStart (r : MbxRun) (s : State) : State :=
  let s := (r.met.filter fun e => !metInRange r e).foldl sramDo s
  { s with sram := { s.sram with scan := argN r 0, scanAt := now s, scanCe := 0, scanUe := 0 } }

/-- The scrub reads one macro, row by row (R340, R342). -/
def scrubMacro (r : MbxRun) (s : State) : State :=
  let m := s.sram.scan
  let met := r.met.filter (metInRange r)
  let s := { s with sram := { s.sram with errs := tset 0 s.sram.errs m 0 } }
  let s := (scrubRows s met m).foldl (fun s k => scrubRow (argN r 2 = 1) (met.filter fun e => e.row = k) k s) s
  { s with sram := { s.sram with scan := m + 1, scanAt := now s } }

/-- Macros read one after another; the argument bounds them. -/
def scrubMacros (r : MbxRun) : Nat → State → State
  | 0, s => s
  | n + 1, s => scrubMacros r n (scrubMacro r s)

/-- The scrub that runs, where the mailbox command does. -/
def scrubRun (s : State) : Option MbxRun := s.mbx.run.filter fun r => r.opc = 0x0601 && !r.paused && !r.waitStart

/-- The scrub goes on by itself: a macro takes 1,875 µs, at 15 ms per MiB (R340), and what it wrote back stays when it is cut (R342). -/
def scrubTick (s : State) : State :=
  match scrubRun s with
  | none => s
  | some r => if argN r 1 < s.sram.scan ∨ now s < s.sram.scanAt + 1875000 then s else scrubMacro r s

/-- The macro of a range with the most rows found, the lowest number on a tie. -/
def worstMacro (s : State) (a b : Nat) : Option Nat :=
  leastBy (fun m => 4096 - tget 0 s.sram.errs m) (((List.range (b + 1 - a)).map (· + a)).filter fun m => tget 0 s.sram.errs m ≠ 0)

/-- The scrub reaches the end of its range: its summary, and 0601h ends (R342). -/
def scrubEnd (r : MbxRun) (s : State) : State :=
  let s := scrubMacros r (argN r 1 + 1 - s.sram.scan) s
  mbxDone [(0, w32 s.sram.scanCe), (1, w32 s.sram.scanUe), (2, w32 ((worstMacro s (argN r 0) (argN r 1)).getD 0xFFFFFFFF))] s

/-! ### Repairs (R344) -/

/-- A row is copied before a repair (R344): of a row repair the whole corrected row, of a column repair the corrected bit of that column;
an uncorrectable row is rewritten as zeros. -/
def repairRow (e : Repair) (k : Nat) (s : State) : State :=
  let put (s : State) : State :=
    let v := corrected (rowRead s k)
    setRow k (if e.col then mixRow (BitVec.ofNat 297 (2 ^ e.idx)) (tget 0 s.sram.cells k) v else v) s
  match rowCheck (rowRead s k) with
  | .clean => put s
  | .bad _ => sramCe (put s)
  | .uncorrectable => setRow k 0 (sramUe 0 k s)

/-- The rows that a repair copies. -/
def repairCopy (e : Repair) (s : State) : State :=
  (if e.col then scrubRows s [] e.mac else [rowKey e.mac e.idx]).foldl (fun s k => repairRow e k s) s

end Sys2Proof.Machine
end

