-- ==== Sys2Proof/Machine/MailKeys.lean ====
section
/-!
DEFINITION. Mailbox commands of keys, locks and sanitize (04xxh), power and hold-up (05xxh), memory and repair (06xxh), fleet
(07xxh), and logs and self-tests (09xxh).
-/
namespace Sys2Proof.Machine

open Sys2Proof

/-! ### Keys (R253 to R269) -/

/-- A slot out of range; the mailbox does not reach the KEK. -/
def badSlot (r : MbxRun) : MFail := mfail (2047 < argN r 0) 1 0 (argN r 0)

/-- Check 1 of R258 (R393): not the Crypto Officer, or key entry barred. -/
def keyBarred (s : State) (obj : Nat) : MFail := mfail (keyEntryBarred s || !s.co.role) 7 0x11 obj

/-- The argument that a failed check of R258 names. -/
def slotCheckFail (s : State) (k owner : Nat) (force : Bool) : MFail :=
  match slotCheck s k owner force with
  | 0 => none
  | 1 => some (1, if 2047 < k ∨ owner ≤ 1023 ∨ owner = 0xFFFF then 0 else 1, k)
  | 4 => some (4, 1, k)
  | c => some (c, 0, k)

/-- A key unwrapped under the KEK, when it has the length it should have (R258). -/
def unwrapKey (s : State) (wrapped : List Byte) (n : Nat) : Option (List Byte) :=
  (s.vault.live.kek.bind fun k => kwpUnwrap k wrapped).filter fun x => x.length = n

/-- 0401h KEY_LOAD_WRAPPED (R258, R259). -/
def mbKeyLoadWrapped (r : MbxRun) (s : State) : State :=
  let k := argN r 0
  let key := unwrapKey s (bufBytes r 40) 32
  mbxDo (bufChecks r 40 ++ [keyBarred s k, badSlot r, bufLong r 0x4000000, slotCheckFail s k (argN r 1) r.force,
      mfail s.vault.live.kek.isNone 7 0x11 k, mfail key.isNone 7 0x10 k])
    (fun s =>
      let s := loadKey k (argN r 1) (key.getD []) s
      mbxDone [(0, w32 (((slotOf s k).cur.map KeyEp.epoch).getD 0))] s) s

/-- 0402h KEY_ZEROIZE_SLOT (R267): the zeroize record of the slot is durable before it ends, in the journal and, within its 100 ms, in the
NOR configuration. -/
def mbKeyZeroizeSlot (r : MbxRun) (s : State) : State :=
  let k := argN r 0
  mbxDo [badSlot r] (fun s =>
    let s := zeroizeSlots (fun i => i = k) s
    mbxDone [] (recordAs (fun r => { r with slots := tset {} r.slots k (wrapSlot (slotOf s k)) }) s)) s

/-- 0403h KEY_ZEROIZE_ALL (R269). -/
def mbKeyZeroizeAll (s : State) : State :=
  let s := zeroizeAll s
  mbxDone [] (recordAs (fun r => { r with slots := (wrapKeys s.vault.live).slots, kek := none, mig := none }) s)

/-- 0404h KEY_SET_CEILING (R265). -/
def mbKeySetCeiling (r : MbxRun) (s : State) : State :=
  let k := argN r 0
  let c := arg64 r 1
  mbxDo [badSlot r, mfail (c = 0 || 2 ^ 48 < c) 1 1 k, mfail (slotOf s k).cur.isNone 0x0A 0 k,
      mfail (c ≤ (slotOf s k).hwm) 0x12 1 k]
    (fun s => mbxDone [] (recordVault (modSlot k (fun x => { x with ceiling := c }) s))) s

/-! ### Lock ranges (R305 to R308) -/

/-- A lock range. -/
def lockOf (s : State) (i : Nat) : LockRange := tget {} s.locks i
/-- Store a lock range. -/
def setLock (i : Nat) (l : LockRange) (s : State) : State := { s with locks := tset {} s.locks i l }

/-- Whether blocks [a, a + n) and [b, b + m) share one. -/
def meets (a n b m : Nat) : Bool := a < b + m && b < a + n

/-- 0405h LOCK_DEFINE (R305): length 0 removes the range, whatever else is given (log 35). -/
def mbLockDefine (r : MbxRun) (s : State) : State :=
  let i := argN r 0
  let ns := argN r 1
  let start := arg64 r 2
  let len := arg64 r 4
  let cap := ((nsOf s ns).map nsBlocks).getD 0
  let other := s.locks.any fun e => e.1 ≠ i && e.2.defined && e.2.ns = ns && meets e.2.start e.2.len start len
  let barred := mfail (lockOf s i).locked 0x11 0 i
  if len = 0 then
    mbxDo [mfail (255 < i) 1 0 i, barred] (fun s => mbxDone [] (witness (setLock i {} s))) s
  else
    mbxDo (bufChecks r 64 ++ [mfail (255 < i) 1 0 i, badNs r 1, noNs s r 1, mfail (cap ≤ start) 1 2 i,
        mfail (cap < start + len) 1 4 i, bufLong r 0x4000000, mfail other 4 0 i, mfail (start % 16 ≠ 0) 8 2 i, mfail (len % 16 ≠ 0) 8 4 i, barred])
      (fun s =>
        let b := bufBytes r 64
        mbxDone [] (witness (setLock i ⟨ns, start, len, b.take 16, b.drop 16, true, false, 0, 5⟩ s))) s

/-- Whether a command touches a lock range (R309). -/
def cmdTouches (s : State) (l : LockRange) (c : Cmd) : Bool :=
  let slba := cmdSlba c.e
  let zone (n : Ns) : Bool := meets (zoneStart n (lbaZone n slba)) (zszeBlocks n) l.start l.len
  c.id.sq ≠ 0 && c.phase ≠ .decided && c.e.nsid = l.ns &&
  (match c.e.opc with
   | 0x01 | 0x02 | 0x08 => meets slba (cmdBlocks c.e) l.start l.len
   | 0x09 => (dsmRanges c.e).any fun d => meets d.1 d.2 l.start l.len
   | 0x7D => (nsOf s l.ns).any zone
   | 0x79 => selAll c.e || (nsOf s l.ns).any zone
   | _ => false)

/-- 0406h LOCK_SET (R307, R308): a lock is in force at once, an unlock when the command ends; it ends when every command
admitted before it that touches the range has a decided status. -/
def mbLockSet (r : MbxRun) (s : State) : State :=
  let i := argN r 0
  let unlock := argN r 1 = 0
  let l := lockOf s i
  let wait := (s.cmds.filter (cmdTouches s l)).map Cmd.id
  let failed (arg : Nat) (s : State) : State :=
    mbxStop .error 7 [(0, w32 arg), (1, w32 i), (2, lockLeft s i)] s
  let go (s : State) : State :=
    lockSetEnd { s with mbx := { s.mbx with run := some { r with wait := wait, aux := b2n unlock } } }
  mbxDo ((if unlock then bufChecks r 1 else []) ++ [mfail (255 < i) 1 0 i, mfail (1 < argN r 1) 1 1 i,
      (if unlock then bufLong r 64 else none), mfail (!l.defined) 3 0 i])
    (fun s =>
      if ¬ unlock then go (setLock i { l with locked := true, since := if l.locked then l.since else s.nextOrd } s)
      else if l.attempts = 0 then failed 0 s
      else if sha384 (l.salt ++ bufBytes r (bufLen r)) = l.verifier then go s
      else failed 0x10 (setLock i { l with attempts := l.attempts - 1 } s)) s

/-- 0407h SANITIZE (R471). -/
def mbSanitize (r : MbxRun) (s : State) : State :=
  let act := argN r 0
  let t := argN r 1
  let enabled := s.nss.find? fun e => sanHits t e.1 && e.2.any fun n => n.owner.any (ownerEnabled s)
  mbxDo [mfail (act ≠ 1 && act ≠ 2) 1 0 0, mfail (t ≠ 0xFFFFFFFF && (t = 0 || 4096 < t)) 1 1 t,
      mfail (t ≠ 0xFFFFFFFF && (nsOf s t).isNone) 3 1 t, enabled.map fun e => (4, 1, e.1)]
    (sanStart act t) s

/-! ### Power and hold-up, 05xxh -/

/-- 0501h POWER_STATE_SET (R348, R361): it ends when the transition does. -/
def mbPowerStateSet (r : MbxRun) (s : State) : State :=
  mbxDo [mfail (4 < argN r 0) 1 0 0] (psRequest (argN r 0) (some .mbx)) s

/-- 0502h HOLDUP_SET (R364, R367, R368): it ends at the next slow round, which writes CAP and VMIN; what interrupts it before leaves
them as they were (R98). -/
def mbHoldupSet (r : MbxRun) (s : State) : State :=
  let cap := argN r 0
  let vmin := argN r 1
  let new : State := { s with hold := { s.hold with cap := cap, vmin := vmin } }
  mbxDo [mfail (65535 < cap) 1 0 0, mfail (16000 < vmin) 1 1 0, mfail (ceilOf new * 2 ^ 20 < dDump s) 0x15 0 0]
    (fun s => { s with hold := { s.hold with waitHoldup := true } }) s

/-- Whether a test of `mib` MiB would draw more than the bank may spare beyond a dump of d_dump (R377); both dumps bear the
fixed cost (log 36). -/
def ventTestTooMuch (s : State) (mib : Nat) : Bool :=
  let v := holdupLow s
  let vm := s.hold.vmin
  let e := if vm < v then 4 * capNow s * (v * v - vm * vm) else 0
  let fixed := regFld s 0x30214 31 16
  let per := regFld s 0x30214 15 0
  e * 2 ^ 30 < (2 * fixed * 2 ^ 30 + per * mib * 2 ^ 20 + per * dDump s) * 10 ^ 7

/-- 0503h VENT_TEST (R377): the pattern is dumped over the pool, an operation on every accepted LUN, with HOLDUP_ISO_N asserted and
its pool space taken meanwhile. A capacitance test that runs is cut and runs after it (R366). -/
def mbVentTest (r : MbxRun) (s : State) : State :=
  let mib := argN r 0
  mbxDo [mfail (mib = 0 || 4096 < mib) 1 0 0, mfail (s.pwr.cur ≠ 0) 0x14 0x11 0, mfail (ventTestTooMuch s mib) 0x15 0 0]
    (fun s =>
      let s := capTestCut s
      let s := { s with pin := { s.pin with holdupIso := true }, hold := { s.hold with testMib := mib },
                        mbx := { s.mbx with run := some { r with aux := s.hk.holdup.headD 0 } } }
      ventTestEnd { s with ops := s.ops ++ (goodLuns s).map fun l => newOp .ventTest (.lun l) .urgent (now s) 0 (genOf s 0) s }) s

/-- The limits of wake channel c as AON_WAKE_THR_c holds them: LOW and HIGH. -/
def wakeRegs (s : State) (c : Nat) : Nat × Nat := (regFld s (0x30040 + 4 * c) 15 0, regFld s (0x30040 + 4 * c) 31 16)

/-- 0504h WATCH_CONFIG (R356). Its gate reports in the mailbox; AON_REFUSE and AON_REFUSE_OBJ stay (DESIGN CHOICE, log 93). -/
def mbWatchConfig (r : MbxRun) (s : State) : State :=
  let p := argN r 0
  let m := argN r 1
  let bad := (List.range 12).find? fun c => chVal c (wakeRegs s c).2 < chVal c (wakeRegs s c).1
  mbxDo [mfail (p < 10 || 60000 < p) 1 0 0, mfail (4095 < m || m.testBit 4) 1 1 0, bad.map fun c => (0x0E, 0x11, c)]
    (fun s => mbxDone [] { s with pwr := { s.pwr with
      watchPeriod := p, watchMask := BitVec.ofNat 12 m,
      thr := (List.range 12).foldl (fun t c => tset (thrDflt c) t c (wakeRegs s c)) s.pwr.thr } }) s

/-! ### On-chip memory (R332 to R345) -/

/-- 0601h SCRUB (R340): it starts at the first macro of its range, and ends at the last. What happens in the rest of the SRAM meanwhile
has no bearing on it. -/
def mbScrub (r : MbxRun) (s : State) : State :=
  let a := argN r 0
  mbxDo [mfail (1151 < a) 1 0 a, mfail (argN r 1 < a || 1151 < argN r 1) 1 1 (argN r 1), mfail (1 < argN r 2) 1 2 a]
    (scrubStart r) s

/-- 0602h RANK_MIGRATE (R325, R329, R330): it ends with the migration. -/
def mbRankMigrate (r : MbxRun) (s : State) : State :=
  let c := argN r 0
  let d := 4 * c + argN r 1
  mbxDo [mfail (3 < c) 1 0 c, mfail (3 < argN r 1) 1 1 d, mfail ((rankOf s d).st = 6) 5 1 d, mfail ((rankOf s d).st ≠ 1) 4 1 d,
      mfail (!freeSpare s c) 5 0 c]
    (retireRank d 4) s

/-- 0603h REPAIR_ADD (R343 to R345). -/
def mbRepairAdd (r : MbxRun) (s : State) : State :=
  let m := argN r 0
  let col := argN r 1 = 1
  let i := argN r 2
  let e : Repair := ⟨m, col, i⟩
  mbxDo [mfail (1151 < m) 1 0 m, mfail (1 < argN r 1) 1 1 m, mfail (if col then 296 < i else 4095 < i) 1 2 m,
      mfail (e ∈ s.sram.repairs) 4 2 m, mfail (64 ≤ s.sram.repairs.length) 5 0 m]
    (fun s =>
      let all := s.sram.repairs ++ [e]
      let s := repairCopy e s
      let s := { s with sram := { s.sram with repairs := all } }
      mbxDone [(0, w32 all.length)] (if all.length = 64 then causeOn 2 s else s)) s

/-! ### Fleet, 07xxh (R442 to R446) -/

/-- 0701h FLEET_SET_ID. -/
def mbFleetSetId (r : MbxRun) (s : State) : State :=
  mbxDo [mfail (16383 < argN r 2) 1 2 0]
    (fun s => mbxDone [] { s with flt := { s.flt with sysid := BitVec.ofNat 64 (arg64 r 0), member := argN r 2 } }) s

/-- 0702h FLEET_SET_EXPECTED (R445, R446): a change of either mark restarts the settle time. -/
def mbFleetSetExpected (r : MbxRun) (s : State) : State :=
  let e := BitVec.ofNat 128 (arg64 r 0 + 2 ^ 64 * arg64 r 2)
  let new := e ≠ s.flt.expected
  let s := { s with flt := { s.flt with expected := e, expValid := true, epoch := w32 (argN r 4) } }
  let m := witnessMark s
  let s := witnessEval (new || m ≠ s.flt.computed) { s with flt := { s.flt with computed := m, seq := s.flt.seq + 1 } }
  mbxDone [(0, w32 (b2n (witnessMatch s)))] s

/-- 0703h FLEET_LOAD_MIGRATION_KEY (R258, R259, R393). -/
def mbFleetLoadMigrationKey (r : MbxRun) (s : State) : State :=
  let key := unwrapKey s (bufBytes r 56) 48
  mbxDo (bufChecks r 56 ++ [keyBarred s 0, bufLong r 0x4000000, mfail s.vault.live.kek.isNone 7 0x11 0, mfail key.isNone 7 0x10 0])
    (fun s => mbxDone [] (recordVault { s with vault := { s.vault with live := { s.vault.live with mig := key } } })) s

/-! ### Logs and self-tests, 09xxh -/

/-- 0901h LOG_READ: the bytes of a log page of the PF from an offset; the events of the page stay masked. -/
def mbLogRead (r : MbxRun) (s : State) : State :=
  let lid := argN r 0
  let b := ((logPage s 0 lid).drop (arg64 r 1)).take (bufLen r)
  mbxDo (bufChecks r 0 ++ [mfail (!logReadable 0 lid || lid = 0xBF) 1 0 lid, bufLong r 0x4000000])
    (fun s => mbxDone [(0, w32 b.length)] (emit (.mbxBuf b) s)) s

/-- 0902h SELFTEST (R401, R402, R405). -/
def mbSelftest (r : MbxRun) (s : State) : State :=
  match r.test with
  | none => mbxDone [] s
  | some t =>
    let s' := keysEnd (runTests t s)
    let s' := if firstFailed t = 0 ∧ s.md.cur = .halt ∧ s.md.haltWhy = 1 then enterRun s' else s'
    mbxDone [(0, w32 (firstFailed t))] s'

end Sys2Proof.Machine
end

