-- ==== Sys2Proof/Machine/Migrate.lean ====
section
/-!
DEFINITION. Tenant migration (chapter 21): freeze, save, restore, thaw and dirty-page logging, with the state blob of R431.
The manual gives the contents of the controller, queue and event sections but not the place of each value in them: the
places below are this model's (log 37).
-/
namespace Sys2Proof.Machine

open Sys2Proof

/-! ### Freezing (R427, R428) -/

/-- Commands of a tenant that have no decided status. -/
def undecided (s : State) (t : Nat) : List Cmd := s.cmds.filter fun c => c.id.func = t + 1 && c.phase ≠ .decided

/-- 0801h TENANT_FREEZE: it ends when every admitted command has a decided status (R427). -/
def mbTenantFreeze (r : MbxRun) (s : State) : State :=
  let t := argN r 0
  mbxDo [badTenant r, mfail ((tnOf s t).st = .frozen) 0x17 0 t, mfail ((tnOf s t).st ≠ .enabled) 3 0 t]
    (fun s => { s with mig := { s.mig with
      freeze := some t, frzStart := now s, drained := 0, aborted := tset 0 s.mig.aborted t 0 } }) s

/-- The tenant that a running freeze drains. -/
def freezing (s : State) : Option Nat :=
  if s.mbx.run.any fun r => r.opc = 0x0801 && !r.paused then s.mig.freeze else none

/-- FREEZE_COMPLETE (R427): the tenant is Frozen, RESULT_0 counts the commands decided meanwhile. -/
def execFreezeComplete (s : State) : Outcome State Fault Refusal :=
  match freezing s with
  | none => .next s
  | some t =>
    if undecided s t ≠ [] then .next s
    else .next (mbxDone [(0, w32 s.mig.drained)]
      { modTn t (fun n => { n with st := .frozen }) s with mig := { s.mig with freeze := none } })

/-- FREEZE_ABORT_TIMEOUT (R428): 450 ms after the doorbell the commands left are aborted, oldest first. -/
def execFreezeAbortTimeout (s : State) : Outcome State Fault Refusal :=
  match freezing s with
  | none => .next s
  | some t =>
    let left := undecided s t
    if now s < s.mig.frzStart + 450000000 then .next s
    else
      let s := left.foldl (fun s c => stopCmd abortSt c s) s
      .next { s with mig := { s.mig with
        aborted := tset 0 s.mig.aborted t (satAdd 0xFFFF (tget 0 s.mig.aborted t) left.length) } }

/-! ### Digests (R432) -/

/-- First 8 bytes of a SHA-384. -/
def sha8 (b : List Byte) : List Byte := (sha384 b).take 8

/-- The record of one hint: the bound profile's descriptor, or zeros. -/
def hintRec (s : State) (n : Ns) (h : Nat) : List Byte :=
  match hintProf n h with
  | none => zeros 16
  | some p =>
    let d := (profOf s p).desc
    let r := bytesAt d 1 6 ++ bytesAt d 8 4 ++ leBytes 1 (b2n (keyref (profOf s p) ≠ 0)) ++ zeros 5
    r.take 8 ++ xorBytes (r.drop 8) (sha8 (bytesAt d 40 16))

/-- PDIGEST. -/
def pDigest (s : State) (n : Ns) : List Byte := sha8 (((List.range 64).map (hintRec s n)).flatten)

/-- State code of a zone in ZDIGEST: open and closed count as one. -/
def digestSt : ZState → Nat
  | .empty => 1 | .implOpen => 4 | .explOpen => 4 | .closed => 4 | .readOnly => 13 | .full => 14 | .offline => 15

/-- The 10 bytes of one zone in ZDIGEST. -/
def zoneRec (s : State) (ns : Nat) (n : Ns) (z : Nat) : List Byte :=
  let zn := zoneOf s ns z
  leBytes 1 (digestSt zn.st) ++ leBytes 8 (zoneStart n z + zn.wp) ++
    leBytes 1 ((zn.prof.map fun p => leAt (profOf s p).desc 2 1).getD 0xFF)

/-- ZDIGEST; 0 for a conventional namespace. -/
def zDigest (s : State) (ns : Nat) (n : Ns) : List Byte :=
  if n.zoned then sha8 (((List.range n.size).map (zoneRec s ns n)).flatten) else zeros 8

/-! ### The blob (R431) -/

/-- Length of a blob. -/
def blobLen (nq nns ncpl : Nat) : Nat := 720 + 64 * (nq + 1) + 40 * nns + 16 * ncpl

/-- A list of bits as bytes, the lowest number first. -/
def bitBytes (l : List Nat) (n : Nat) : List Byte := leBytes n (l.foldl (fun m i => m ||| 2 ^ i) 0)

/-- Completion entries a tenant's function holds, each with its queue. -/
def heldCqes (s : State) (f : Nat) : List (Nat × Cqe) :=
  ((s.cqs.filter fun q => q.func = f).map fun q => q.waiting.map fun e => (q.id, e.e)).flatten

/-- Bytes 0 to 127 of a blob. -/
def blobHead (s : State) (t len nns ncpl : Nat) : List Byte :=
  let n := tnOf s t
  let b := leBytes 1 1 ++ zeros 3 ++ leBytes 4 len ++ leBytes 8 s.flt.sysid.toNat ++ leBytes 2 s.flt.member ++ leBytes 2 t ++
    leBytes 2 (genOf s (t + 1)).toNat ++ leBytes 1 n.qp ++ leBytes 1 n.vec ++ leBytes 4 s.flt.epoch.toNat ++
    leBytes 4 s.mig.saveSeq.toNat ++ leBytes 4 ((s.fw.running.map Img.version).getD 0).toNat ++ leBytes 2 nns ++ leBytes 2 ncpl ++
    leBytes 1 (fnOf s (t + 1)).aers.length
  bytesAt b 0 128

/-- The controller section. -/
def blobCtrl (s : State) (t : Nat) : List Byte :=
  let fn := fnOf s (t + 1)
  let n := tnOf s t
  let cdis := (List.range 65).filter fun v => bitOf (featGet fn 9 v) 16
  let b := leBytes 4 (ccWord fn).toNat ++ leBytes 4 fn.aqa.toNat ++ leBytes 8 fn.asq.toNat ++ leBytes 8 fn.acq.toNat ++
    leBytes 4 (b2n fn.rdy) ++
    (([(1, 0), (4, 0), (4, 1), (8, 0), (0x0B, 0), (0xC1, 0)].map fun k => leBytes 4 (featGet fn k.1 k.2).toNat).flatten) ++
    leBytes 6 fn.tsOff ++ leBytes 6 (b2n fn.tsSynch) ++ bitBytes cdis 16 ++ bitBytes fn.pba 16 ++
    ([n.stored.min, n.stored.weight, n.stored.cap, n.stored.iops, n.stored.budget].map (leBytes 2)).flatten
  bytesAt b 0 512

/-- The record of queue pair k. -/
def blobQueue (s : State) (f k : Nat) : List Byte :=
  let q? := sqOf s f k
  let c? := cqOf s f k
  let q := q?.getD { func := f, id := k, cq := 0, size := 1, prio := 0 }
  let c := c?.getD { func := f, id := k, size := 1, vec := 0, ien := false }
  let b := leBytes 8 q.base ++ leBytes 8 c.base ++ leBytes 2 (q.size - 1) ++ leBytes 2 (c.size - 1) ++
    leBytes 2 (q.prio + 4 * b2n q?.isSome + 8 * b2n c?.isSome + 16 * b2n c.ien + 32 * b2n c.phase) ++
    leBytes 2 c.vec ++ leBytes 2 q.head ++ leBytes 2 q.tail ++ leBytes 2 c.tail ++ leBytes 2 c.head ++ leBytes 2 q.cq
  bytesAt b 0 64

/-- A namespace record. -/
def blobNs (s : State) (t ns : Nat) (n : Ns) : List Byte :=
  let fn := fnOf s (t + 1)
  leBytes 4 ns ++ leBytes 1 (b2n n.zoned + 2 * b2n (ns ∈ fn.dirEn)) ++ leBytes 1 n.zcode ++ leBytes 2 (featGet fn 5 ns).toNat ++
    leBytes 2 (featGet fn 0xC0 ns).toNat ++ zeros 6 ++ leBytes 8 (nsBlocks n) ++ pDigest s n ++ zDigest s ns n

/-- A held completion entry. -/
def blobCqe (e : Nat × Cqe) : List Byte :=
  let st := e.2.status
  leBytes 4 e.2.dw0.toNat ++ leBytes 4 e.2.dw1.toNat ++ leBytes 2 e.2.sq ++ leBytes 2 e.2.cid ++
    leBytes 2 (st.sc + 256 * st.sct + 2 ^ 14 * b2n st.dnr) ++ leBytes 2 e.1

/-- The blob of a Frozen tenant under a migration key. -/
def blobOf (s : State) (t : Nat) (key : List Byte) : List Byte :=
  let f := t + 1
  let nss := tenantNss s t
  let cpl := heldCqes s f
  let nq := (tnOf s t).qp
  let body := blobHead s t (blobLen nq nss.length cpl.length) nss.length cpl.length ++ blobCtrl s t ++
    ((List.range (nq + 1)).map (blobQueue s f)).flatten ++ bytesAt (((fnOf s f).aers.map (leBytes 4)).flatten) 0 32 ++
    (nss.map fun e => blobNs s t e.1 e.2).flatten ++ (cpl.map blobCqe).flatten
  body ++ hmac384 key body

/-- 0802h TENANT_SAVE (R430, R431): SAVE_SEQ counts the save; the tenant does not change. -/
def mbTenantSave (r : MbxRun) (s : State) : State :=
  let t := argN r 0
  mbxDo (bufChecks r 65536 ++ [badTenant r, bufLong r 0x4000000, mfail (512 < (tenantNss s t).length) 1 0x10 t,
      mfail ((tnOf s t).st ≠ .frozen) 3 0 t, mfail s.vault.live.mig.isNone 0x0A 0x11 t])
    (fun s =>
      let s := { s with mig := { s.mig with saveSeq := s.mig.saveSeq + 1 } }
      let b := blobOf s t (s.vault.live.mig.getD [])
      mbxDone [(0, w32 b.length)] (emit (.mbxBuf b) s)) s

/-! ### Restoring (R433, R434) -/

/-- Queue pairs that a blob records. -/
def blobNq (b : List Byte) : Nat := leAt b 22 1
/-- Namespace records of a blob. -/
def blobNns (b : List Byte) : Nat := leAt b 36 2
/-- Held completion entries of a blob. -/
def blobNcpl (b : List Byte) : Nat := leAt b 38 2
/-- Where the namespace records begin. -/
def blobNsAt (b : List Byte) : Nat := 672 + 64 * (blobNq b + 1)
/-- The namespace records of a blob. -/
def blobNsRecs (b : List Byte) : List (List Byte) := (List.range (blobNns b)).map fun i => bytesAt b (blobNsAt b + 40 * i) 40

/-- Check 1: the length fits the buffer and the formula. -/
def blobLenBad (b : List Byte) (len : Nat) : Bool :=
  let l := leAt b 4 4
  len < l || l ≠ blobLen (blobNq b) (blobNns b) (blobNcpl b)

/-- Check 2: the seal verifies under the migration key. -/
def blobSealed (s : State) (b : List Byte) : Bool :=
  let body := leAt b 4 4 - 48
  s.vault.live.mig.any (fun k => hmac384 k (b.take body) = bytesAt b body 48) && leAt b 0 1 = 1

/-- Check 5 for one namespace record. -/
def nsRecBad (s : State) (t : Nat) (x : List Byte) : Bool :=
  let ns := leAt x 0 4
  match nsOf s ns with
  | none => true
  | some n => n.owner ≠ some t || b2n n.zoned ≠ leAt x 4 1 % 2 || n.zcode ≠ leAt x 5 1 || nsBlocks n ≠ leAt x 16 8 ||
      zDigest s ns n ≠ bytesAt x 32 8

/-- Check 6 for one namespace record. -/
def profRecBad (s : State) (x : List Byte) : Bool :=
  (nsOf s (leAt x 0 4)).any fun n => pDigest s n ≠ bytesAt x 24 8 || n.hints.any fun h => !(profOf s h.2).enabled

/-- Check 7 for one namespace record. -/
def keyRecBad (s : State) (t : Nat) (x : List Byte) : Bool :=
  (nsOf s (leAt x 0 4)).any fun n => n.hints.any fun h => (profSlot (profOf s h.2)).any fun k => (slotOf s k).owner ≠ t

/-- The first record that a check fails, as a failure naming its NSID. -/
def recFail (p : List Byte → Bool) (code : Nat) (rs : List (List Byte)) : MFail :=
  (rs.find? p).map fun x => (code, 0x10, leAt x 0 4)

/-- The checks of R433, in order. -/
def restoreChecks (s : State) (t : Nat) (b : List Byte) (len : Nat) : List MFail :=
  let rs := blobNsRecs b
  let nq := blobNq b
  let nv := leAt b 23 1
  [mfail (blobLenBad b len) 1 0x10 t, mfail s.vault.live.mig.isNone 7 0x11 t, mfail (!blobSealed s b) 7 0x10 t,
   mfail (leAt b 24 4 ≠ s.flt.epoch.toNat) 0x16 0x10 t, mfail (leAt b 8 8 ≠ s.flt.sysid.toNat) 4 0x10 t,
   mfail ((tnOf s t).st ≠ .created) 4 0 t, recFail (nsRecBad s t) 4 rs, recFail (profRecBad s) 9 rs, recFail (keyRecBad s t) 4 rs,
   mfail (nq = 0 || 64 < nq || nv < 2 || 65 < nv) 4 0x10 t] ++ poolFail s t nq nv 0x10 0x10 t 4 ++
  [mfail (ctxFree s < ctxNeed s t || 10000 < leAt b 224 2 + othersMin s t) 4 0x10 t]

/-- Numbers of the bits set in `n` bytes. -/
def bitList (b : List Byte) (o n : Nat) : List Nat := setBits (leAt b o n) (8 * n)

/-- The function of a restored tenant: controller registers, features, directive enables, pending bits and event requests of
the blob; the MSI-X table keeps the destination's values (R434). -/
def restoreFn (b : List Byte) (fn : Fn) : Fn :=
  let c := b.drop 128
  let w (o : Nat) : W32 := w32 (leAt c o 4)
  let rs := blobNsRecs b
  let fn' : Fn := { ({} : Fn) with
    cc := putFld (putFld (w 0) 13 11 0) 0 0 0, en := bitOf (w 0) 0, ams := fld (w 0) 13 11, aqa := w 4, asq := BitVec.ofNat 64 (leAt c 8 8), acq := BitVec.ofNat 64 (leAt c 16 8),
    rdy := leAt c 24 4 = 1, tsOff := leAt c 52 6, tsSynch := leAt c 58 6 = 1, pba := bitList c 80 16,
    unmasked := fn.unmasked, msix := fn.msix, msixOn := fn.msixOn, nssro := fn.nssro, aers := (List.range (leAt b 40 1)).map fun i => leAt b (640 + 64 * (blobNq b + 1) + 4 * i) 2,
    dirEn := (rs.filter fun x => (leAt x 4 1).testBit 1).map fun x => leAt x 0 4 }
  let fn' := [(1, 0), (4, 0), (4, 1), (8, 0), (0x0B, 0), (0xC1, 0)].zipIdx.foldl (fun fn k => featSet k.1.1 k.1.2 (w (28 + 4 * k.2)) fn) fn'
  let fn' := (bitList c 64 16).foldl (fun fn v => featSet 9 v 0x10000 fn) fn'
  rs.foldl (fun fn x => featSet 0xC0 (leAt x 0 4) (w32 (leAt x 8 2)) (featSet 5 (leAt x 0 4) (w32 (leAt x 6 2)) fn)) fn'

/-- The submission queue of pair k, if the record holds one; its entries the host has still to show (log 37). -/
def restoreSq (b : List Byte) (f k : Nat) : Option Sq :=
  let x := bytesAt b (640 + 64 * k) 64
  let fl := leAt x 20 2
  if ¬ fl.testBit 2 then none else
  some { func := f, id := k, cq := leAt x 32 2, size := leAt x 16 2 + 1, prio := fl % 4, base := leAt x 0 8,
         tail := leAt x 26 2, head := leAt x 24 2 }

/-- Whether a held entry comes from an Urgent-class queue of the blob (R110). -/
def restoreUrgent (b : List Byte) (f q : Nat) : Bool :=
  q ≠ 0 && (restoreFn b {}).ams = 1 && (restoreSq b f q).any fun x => x.prio = 0

/-- The completion queue of pair k with the entries held for it. -/
def restoreCq (b : List Byte) (f k : Nat) : Option Cq :=
  let x := bytesAt b (640 + 64 * k) 64
  let fl := leAt x 20 2
  let es := (List.range (blobNcpl b)).map fun i => bytesAt b (blobNsAt b + 40 * blobNns b + 16 * i) 16
  let cqe (e : List Byte) : Cqe :=
    let st := leAt e 12 2
    ⟨leAt e 8 2, leAt e 10 2, ⟨st / 256 % 8, st % 256, st.testBit 14⟩, w32 (leAt e 0 4), w32 (leAt e 4 4)⟩
  if ¬ fl.testBit 3 then none else
  some { func := f, id := k, size := leAt x 18 2 + 1, vec := leAt x 22 2, ien := fl.testBit 4, base := leAt x 8 8,
         head := leAt x 30 2, tail := leAt x 28 2, phase := fl.testBit 5,
         waiting := (es.filter fun e => leAt e 14 2 = k).map fun e => { e := cqe e, urgent := restoreUrgent b f (cqe e).sq } }

/-- A restore that passed its checks, in one step (R434). -/
def restoreDo (t : Nat) (b : List Byte) (s : State) : State :=
  let f := t + 1
  let ks := List.range (blobNq b + 1)
  let own := (genOf s f).toNat
  let gen : BitVec 16 := BitVec.ofNat 16 (max own (leAt b 20 2) + 1)
  let sh : Share := ⟨leAt b 224 2, leAt b 226 2, leAt b 228 2, leAt b 230 2, leAt b 232 2⟩
  let s := modTn t (fun n => { n with st := .frozen, qp := blobNq b, vec := leAt b 23 1, stored := sh, pend := true }) s
  let s := modFn f (restoreFn b) s
  mbxDone [(0, w32 gen.toNat)] { s with
    gens := tset 0 s.gens f gen,
    sqs := (s.sqs.filter fun q => q.func ≠ f) ++ ks.filterMap (restoreSq b f),
    cqs := (s.cqs.filter fun q => q.func ≠ f) ++ ks.filterMap (restoreCq b f) }

/-- 0803h TENANT_RESTORE. -/
def mbTenantRestore (r : MbxRun) (s : State) : State :=
  let t := argN r 0
  let b := bufBytes r (bufLen r)
  mbxDo (bufChecks r 0 ++ [badTenant r, bufLong r 0x4000000] ++ restoreChecks s t b (bufLen r)) (restoreDo t b) s

/-! ### Thawing (R429) -/

/-- Messages that pending bits of unmasked vectors call for. -/
def thawMsgs (f : Nat) (s : State) : State :=
  let fn := fnOf s f
  (fn.pba.filter (· ∈ fn.unmasked)).foldl
    (fun s v => if v ∈ (fnOf s f).urgentPba then msiSend f v false s else if v ∈ (fnOf s f).pba then msiBudget f v s else s) s

/-- A Frozen tenant is Enabled again: held entries, messages, event requests, admission. -/
def thaw (t : Nat) (s : State) : State :=
  let f := t + 1
  let s := modTn t (fun n => { n with st := .enabled }) s
  let s := abortsGo ((s.cqs.filter fun q => q.func = f).foldl (fun s q => cqDrain q.waiting.length f q.id s) s)
  aerReport f (thawMsgs f s)

/-- 0804h TENANT_THAW. -/
def mbTenantThaw (r : MbxRun) (s : State) : State :=
  let t := argN r 0
  mbxDo [badTenant r, mfail ((tnOf s t).st ≠ .frozen) 3 0 t] (fun s => mbxDone [] (thaw t s)) s

/-! ### Dirty-page logging (R436 to R440) -/

/-- The dirty log of a tenant. -/
def dlogOf (s : State) (t : Nat) : DLog := tget {} s.mig.dlog t
/-- Store it. -/
def setDlog (t : Nat) (d : DLog) (s : State) : State := { s with mig := { s.mig with dlog := tset {} s.mig.dlog t d } }

/-- The other half becomes active, taken to be zero (R439). -/
def dlogTurn (d : DLog) : DLog :=
  if d.half then { d with half := false, pages := 0, set0 := [] } else { d with half := true, pages := 0, set1 := [] }

/-- 0805h DIRTY_LOG_CTRL: a start takes the buffer's two halves; a stop closes the active half. -/
def mbDirtyLogCtrl (r : MbxRun) (s : State) : State :=
  let t := argN r 0
  let m := argN r 1
  let d := dlogOf s t
  mbxDo ((if m = 0 then [] else bufChecks r 1) ++ [badTenant r, mfail (2 < m) 1 1 t, (if m = 0 then none else bufLong r 0x4000000), mfail (m ≠ 0 && d.on) 4 0 t,
      mfail (m ≠ 0 && bufLen r % 8192 ≠ 0) 8 0x10 t])
    (fun s =>
      if m = 0 then mbxDone [] (if d.on then setDlog t { dlogTurn d with on := false } s else s)
      else mbxDone [] (setDlog t { on := true, big := m = 2, half := false, ovf := d.ovf, pages := 0,
                                   cover := bufLen r / 2 * 8, set0 := [], set1 := [] } s)) s

/-- 0806h DIRTY_LOG_HARVEST. -/
def mbDirtyLogHarvest (r : MbxRun) (s : State) : State :=
  let t := argN r 0
  mbxDo [badTenant r, mfail (!(dlogOf s t).on) 3 0 t]
    (fun s => mbxDone [(0, w32 (dlogOf s t).pages)] (setDlog t (dlogTurn (dlogOf s t)) s)) s

end Sys2Proof.Machine
end

