-- ==== Sys2Proof/Machine/MbxRows.lean ====
section
/-!
DEFINITION. The rows of the mailbox: which body each opcode has, the command that waits for its start, and one meaning per
command of the catalogue (R100).
-/
namespace Sys2Proof.Machine

open Sys2Proof

/-- What a latched command does once the checks of R91's steps 1 to 4 have passed. -/
def mbxBody (r : MbxRun) (s : State) : State :=
  match r.opc with
  | 0x0101 => mbDevIdentify r s
  | 0x0102 => mbDevState s
  | 0x0103 => mbFwWriteSlot r s
  | 0x0104 => mbFwSlotQuery s
  | 0x0105 => mbFwActivate r s
  | 0x0201 => mbTenantCreate r s
  | 0x0202 => mbTenantConfigure r s
  | 0x0203 => mbTenantSetShare r s
  | 0x0204 => mbTenantEnable r s
  | 0x0205 => mbTenantReset r s
  | 0x0206 => mbTenantDestroy r s
  | 0x0207 => mbTenantQuery r s
  | 0x0301 => mbNsCreate r s
  | 0x0302 => mbNsDelete r s
  | 0x0303 => mbNsAttach r s
  | 0x0304 => mbNsDetach r s
  | 0x0305 => mbProfileWrite r s
  | 0x0306 => mbProfileEnable r s
  | 0x0307 => mbProfileAttach r s
  | 0x0401 => mbKeyLoadWrapped r s
  | 0x0402 => mbKeyZeroizeSlot r s
  | 0x0403 => mbKeyZeroizeAll s
  | 0x0404 => mbKeySetCeiling r s
  | 0x0405 => mbLockDefine r s
  | 0x0406 => mbLockSet r s
  | 0x0407 => mbSanitize r s
  | 0x0501 => mbPowerStateSet r s
  | 0x0502 => mbHoldupSet r s
  | 0x0503 => mbVentTest r s
  | 0x0504 => mbWatchConfig r s
  | 0x0601 => mbScrub r s
  | 0x0602 => mbRankMigrate r s
  | 0x0603 => mbRepairAdd r s
  | 0x0701 => mbFleetSetId r s
  | 0x0702 => mbFleetSetExpected r s
  | 0x0703 => mbFleetLoadMigrationKey r s
  | 0x0801 => mbTenantFreeze r s
  | 0x0802 => mbTenantSave r s
  | 0x0803 => mbTenantRestore r s
  | 0x0804 => mbTenantThaw r s
  | 0x0805 => mbDirtyLogCtrl r s
  | 0x0806 => mbDirtyLogHarvest r s
  | 0x0901 => mbLogRead r s
  | 0x0902 => mbSelftest r s
  | _ => s

/-- A command whose start waited begins (R71, R174), but not while a Vent pauses it (R90). -/
def mbxGo (s : State) : State :=
  match s.mbx.run with
  | some r =>
    if r.waitStart ∧ ¬ r.paused ∧ ¬ mbxLater s r.opc then
      let r := { r with waitStart := false, start := now s }
      mbxBody r { s with mbx := { s.mbx with run := some r } }
    else s
  | none => s

/-- 0101h DEV_IDENTIFY (R89 to R92, R97, R100). -/
def execDevIdentify (r : MbxReq) (s : State) : Outcome State Fault Refusal :=
  .next (ring 0x0101 r [] none mbxBody s)

/-- 0102h DEV_STATE (R89 to R92, R97, R100). -/
def execDevState (r : MbxReq) (s : State) : Outcome State Fault Refusal :=
  .next (ring 0x0102 r [] none mbxBody s)

/-- 0103h FW_WRITE_SLOT (R89 to R92, R97, R100). -/
def execFwWriteSlot (r : MbxReq) (s : State) : Outcome State Fault Refusal :=
  .next (ring 0x0103 r [] none mbxBody s)

/-- 0104h FW_SLOT_QUERY (R89 to R92, R97, R100). -/
def execFwSlotQuery (r : MbxReq) (s : State) : Outcome State Fault Refusal :=
  .next (ring 0x0104 r [] none mbxBody s)

/-- 0105h FW_ACTIVATE (R89 to R92, R97, R100). -/
def execFwActivate (r : MbxReq) (s : State) : Outcome State Fault Refusal :=
  .next (ring 0x0105 r [] none mbxBody s)

/-- 0201h TENANT_CREATE (R89 to R92, R97, R100). -/
def execTenantCreate (r : MbxReq) (s : State) : Outcome State Fault Refusal :=
  .next (ring 0x0201 r [] none mbxBody s)

/-- 0202h TENANT_CONFIGURE (R89 to R92, R97, R100). -/
def execTenantConfigure (r : MbxReq) (s : State) : Outcome State Fault Refusal :=
  .next (ring 0x0202 r [] none mbxBody s)

/-- 0203h TENANT_SET_SHARE (R89 to R92, R97, R100). -/
def execTenantSetShare (r : MbxReq) (s : State) : Outcome State Fault Refusal :=
  .next (ring 0x0203 r [] none mbxBody s)

/-- 0204h TENANT_ENABLE (R89 to R92, R97, R100). -/
def execTenantEnable (r : MbxReq) (s : State) : Outcome State Fault Refusal :=
  .next (ring 0x0204 r [] none mbxBody s)

/-- 0205h TENANT_RESET (R89 to R92, R97, R100). -/
def execTenantReset (r : MbxReq) (s : State) : Outcome State Fault Refusal :=
  .next (ring 0x0205 r [] none mbxBody s)

/-- 0206h TENANT_DESTROY (R89 to R92, R97, R100). -/
def execTenantDestroy (r : MbxReq) (s : State) : Outcome State Fault Refusal :=
  .next (ring 0x0206 r [] none mbxBody s)

/-- 0207h TENANT_QUERY (R89 to R92, R97, R100). -/
def execTenantQuery (r : MbxReq) (s : State) : Outcome State Fault Refusal :=
  .next (ring 0x0207 r [] none mbxBody s)

/-- 0301h NS_CREATE (R89 to R92, R97, R100). -/
def execNsCreate (r : MbxReq) (s : State) : Outcome State Fault Refusal :=
  .next (ring 0x0301 r [] none mbxBody s)

/-- 0302h NS_DELETE (R89 to R92, R97, R100). -/
def execNsDelete (r : MbxReq) (s : State) : Outcome State Fault Refusal :=
  .next (ring 0x0302 r [] none mbxBody s)

/-- 0303h NS_ATTACH (R89 to R92, R97, R100). -/
def execNsAttach (r : MbxReq) (s : State) : Outcome State Fault Refusal :=
  .next (ring 0x0303 r [] none mbxBody s)

/-- 0304h NS_DETACH (R89 to R92, R97, R100). -/
def execNsDetach (r : MbxReq) (s : State) : Outcome State Fault Refusal :=
  .next (ring 0x0304 r [] none mbxBody s)

/-- 0305h PROFILE_WRITE (R89 to R92, R97, R100). -/
def execProfileWrite (r : MbxReq) (s : State) : Outcome State Fault Refusal :=
  .next (ring 0x0305 r [] none mbxBody s)

/-- 0306h PROFILE_ENABLE (R89 to R92, R97, R100). -/
def execProfileEnable (r : MbxReq) (s : State) : Outcome State Fault Refusal :=
  .next (ring 0x0306 r [] none mbxBody s)

/-- 0307h PROFILE_ATTACH (R89 to R92, R97, R100). -/
def execProfileAttach (r : MbxReq) (s : State) : Outcome State Fault Refusal :=
  .next (ring 0x0307 r [] none mbxBody s)

/-- 0401h KEY_LOAD_WRAPPED (R89 to R92, R97, R100). -/
def execKeyLoadWrapped (r : MbxReq) (s : State) : Outcome State Fault Refusal :=
  .next (ring 0x0401 r [] none mbxBody s)

/-- 0402h KEY_ZEROIZE_SLOT (R89 to R92, R97, R100). -/
def execKeyZeroizeSlot (r : MbxReq) (s : State) : Outcome State Fault Refusal :=
  .next (ring 0x0402 r [] none mbxBody s)

/-- 0403h KEY_ZEROIZE_ALL (R89 to R92, R97, R100). -/
def execKeyZeroizeAll (r : MbxReq) (s : State) : Outcome State Fault Refusal :=
  .next (ring 0x0403 r [] none mbxBody s)

/-- 0404h KEY_SET_CEILING (R89 to R92, R97, R100). -/
def execKeySetCeiling (r : MbxReq) (s : State) : Outcome State Fault Refusal :=
  .next (ring 0x0404 r [] none mbxBody s)

/-- 0405h LOCK_DEFINE (R89 to R92, R97, R100). -/
def execLockDefine (r : MbxReq) (s : State) : Outcome State Fault Refusal :=
  .next (ring 0x0405 r [] none mbxBody s)

/-- 0406h LOCK_SET (R89 to R92, R97, R100). -/
def execLockSet (r : MbxReq) (s : State) : Outcome State Fault Refusal :=
  .next (ring 0x0406 r [] none mbxBody s)

/-- 0407h SANITIZE (R89 to R92, R97, R100). -/
def execSanitize (r : MbxReq) (s : State) : Outcome State Fault Refusal :=
  .next (ring 0x0407 r [] none mbxBody s)

/-- 0501h POWER_STATE_SET (R89 to R92, R97, R100). -/
def execPowerStateSet (r : MbxReq) (s : State) : Outcome State Fault Refusal :=
  .next (ring 0x0501 r [] none mbxBody s)

/-- 0502h HOLDUP_SET (R89 to R92, R97, R100). -/
def execHoldupSet (r : MbxReq) (s : State) : Outcome State Fault Refusal :=
  .next (ring 0x0502 r [] none mbxBody s)

/-- 0503h VENT_TEST (R89 to R92, R97, R100). -/
def execVentTest (r : MbxReq) (s : State) : Outcome State Fault Refusal :=
  .next (ring 0x0503 r [] none mbxBody s)

/-- 0504h WATCH_CONFIG (R89 to R92, R97, R100). -/
def execWatchConfig (r : MbxReq) (s : State) : Outcome State Fault Refusal :=
  .next (ring 0x0504 r [] none mbxBody s)

/-- 0601h SCRUB (R89 to R92, R97, R100). -/
def execScrub (r : MbxReq) (met : List SramMet) (s : State) : Outcome State Fault Refusal :=
  .next (ring 0x0601 r met none mbxBody s)

/-- 0602h RANK_MIGRATE (R89 to R92, R97, R100). -/
def execRankMigrate (r : MbxReq) (s : State) : Outcome State Fault Refusal :=
  .next (ring 0x0602 r [] none mbxBody s)

/-- 0603h REPAIR_ADD (R89 to R92, R97, R100). -/
def execRepairAdd (r : MbxReq) (s : State) : Outcome State Fault Refusal :=
  .next (ring 0x0603 r [] none mbxBody s)

/-- 0701h FLEET_SET_ID (R89 to R92, R97, R100). -/
def execFleetSetId (r : MbxReq) (s : State) : Outcome State Fault Refusal :=
  .next (ring 0x0701 r [] none mbxBody s)

/-- 0702h FLEET_SET_EXPECTED (R89 to R92, R97, R100). -/
def execFleetSetExpected (r : MbxReq) (s : State) : Outcome State Fault Refusal :=
  .next (ring 0x0702 r [] none mbxBody s)

/-- 0703h FLEET_LOAD_MIGRATION_KEY (R89 to R92, R97, R100). -/
def execFleetLoadMigrationKey (r : MbxReq) (s : State) : Outcome State Fault Refusal :=
  .next (ring 0x0703 r [] none mbxBody s)

/-- 0801h TENANT_FREEZE (R89 to R92, R97, R100). -/
def execTenantFreeze (r : MbxReq) (s : State) : Outcome State Fault Refusal :=
  .next (ring 0x0801 r [] none mbxBody s)

/-- 0802h TENANT_SAVE (R89 to R92, R97, R100). -/
def execTenantSave (r : MbxReq) (s : State) : Outcome State Fault Refusal :=
  .next (ring 0x0802 r [] none mbxBody s)

/-- 0803h TENANT_RESTORE (R89 to R92, R97, R100). -/
def execTenantRestore (r : MbxReq) (s : State) : Outcome State Fault Refusal :=
  .next (ring 0x0803 r [] none mbxBody s)

/-- 0804h TENANT_THAW (R89 to R92, R97, R100). -/
def execTenantThaw (r : MbxReq) (s : State) : Outcome State Fault Refusal :=
  .next (ring 0x0804 r [] none mbxBody s)

/-- 0805h DIRTY_LOG_CTRL (R89 to R92, R97, R100). -/
def execDirtyLogCtrl (r : MbxReq) (s : State) : Outcome State Fault Refusal :=
  .next (ring 0x0805 r [] none mbxBody s)

/-- 0806h DIRTY_LOG_HARVEST (R89 to R92, R97, R100). -/
def execDirtyLogHarvest (r : MbxReq) (s : State) : Outcome State Fault Refusal :=
  .next (ring 0x0806 r [] none mbxBody s)

/-- 0901h LOG_READ (R89 to R92, R97, R100). -/
def execLogRead (r : MbxReq) (s : State) : Outcome State Fault Refusal :=
  .next (ring 0x0901 r [] none mbxBody s)

/-- 0902h SELFTEST (R89 to R92, R97, R100). -/
def execSelftest (r : MbxReq) (t : SelfTest) (s : State) : Outcome State Fault Refusal :=
  .next (ring 0x0902 r [] (some t) mbxBody s)

/-- A doorbell with an opcode that the catalogue does not list, or a value with reserved bits set (R91): code 01h or 02h. A
listed opcode with its reserved bits clear is another row's command. -/
def execUndefinedMailboxOpcode (opc : BitVec 16) (r : MbxReq) (s : State) : Outcome State Fault Refusal :=
  if mbxDefined opc.toNat ∧ r.rsvd = 0 then .next s else .next (ring opc.toNat r [] none mbxBody s)

end Sys2Proof.Machine
end

