-- ==== Sys2Proof/Machine/Activate.lean ====
section
/-!
DEFINITION. Firmware activation after its start: the end of the drain, the image switch, the timeout and the end of an
activation with reset (R86, R172 to R174).
-/
namespace Sys2Proof.Machine

open Sys2Proof

/-- Whether the drain of R172 has ended: no admitted command but the activating one, and no mailbox command but 0105h or one
that starts later (R174). -/
def actDrained (a : Act) (s : State) : Bool :=
  s.cmds.all (fun c => some c.id = a.cmd) && !s.mbx.run.any fun r => r.opc ≠ 0x0105 && !r.waitStart

/-- Slot `n`'s image runs. -/
def runSlot (n : Nat) (s : State) : State :=
  { s with fw := { s.fw with running := tget none s.fw.slots n }, md := { s.md with slot := n } }

/-- Admission resumes: CSTS.PP returns to 0 and the mode to RUN; the activating command ends (R172, R173). -/
def actEnd (a : Act) (st : Status) (s : State) : State :=
  let s := { s with fw := { s.fw with act := none }, fns := tmap {} (fun _ fn => { fn with pp := false }) s.fns }
  let s := if s.md.cur = .quiesce ∧ ¬ s.pwr.trans.any (fun t => 3 ≤ t.target) then enterRun s else s
  let s := if a.mbx then mbxDone [(0, w32 s.fw.active)] s else (a.cmd.map fun id => finishSt id st s).getD s
  mbxGo s

/-- When the drain's 500 ms end (R172). -/
def actLimit (a : Act) : Nat := a.start + 500000000

/-- ACTIVATION_DRAIN_END (R172 step 4), within the drain's 500 ms. -/
def execActivationDrainEnd (s : State) : Outcome State Fault Refusal :=
  match s.fw.act with
  | none => .next s
  | some a =>
    if a.switching ∨ a.withReset ∨ s.md.cur = .vent ∨ ¬ actDrained a s ∨ actLimit a < now s then .next s
    else .next { s with fw := { s.fw with act := some { a with switching := true } } }

/-- IMAGE_SWITCH_COMPLETE (R172 steps 5 and 6): the slot is active, its image runs, and the fused counter may follow it
(R414). A Vent holds it (R90). -/
def execImageSwitchComplete (s : State) : Outcome State Fault Refusal :=
  match s.fw.act with
  | none => .next s
  | some a =>
    if ¬ a.switching ∨ s.md.cur = .vent then .next s
    else .next (witness (actEnd a okSt (resetLast 10 0 (fuseRaise (runSlot a.slot (setActive a.slot s))))))

/-- ACTIVATION_DRAIN_TIMEOUT (R173): a command has not completed 500 ms after admission stopped, or no end of the drain came in
that time; the running image goes on. A Vent that pauses 0105h holds it. -/
def execActivationDrainTimeout (s : State) : Outcome State Fault Refusal :=
  match s.fw.act with
  | none => .next s
  | some a =>
    if a.switching ∨ a.withReset ∨ s.md.cur = .vent ∨ now s < actLimit a ∨ (actDrained a s ∧ now s = actLimit a) then .next s
    else .next (actEnd a (cmdSt 0x13) s)

/-- ACTIVATION_WITH_RESET_COMPLETE (R86): the new image runs, and controllers that the host enabled meanwhile become ready. -/
def execActivationWithResetComplete (s : State) : Outcome State Fault Refusal :=
  match s.fw.act with
  | none => .next s
  | some a =>
    if ¬ a.withReset ∨ (fnOf s 0).waitRst.isSome then .next s
    else
      let s := runSlot a.slot { s with fw := { s.fw with act := none } }
      let s := (s.fns.filter fun e => e.2.enHeld).foldl (fun s e => enableFn e.1 e.2.ams s) s
      .next (mbxGo (witness s))

end Sys2Proof.Machine
end

