-- ==== Sys2Proof/Machine/RegWrite.lean ====
section
/-!
DEFINITION. Register writes as the host makes them (chapter 03): the windows and their aliases (R41 to R50), strobes and status
flags (R47, R48), and the registers whose write acts: the NVMe block with its doorbells, the mailbox doorbell, the MSI-X table.
-/
namespace Sys2Proof.Machine

open Sys2Proof

/-- A write of a dword of function f's MSI-X table: address and data are held, the mask bit of the vector control word masks
or unmasks (R105, R111). The pending bits are read-only. -/
def msixWrite (f off : Nat) (v : W32) (s : State) : State :=
  if ¬ fnPresent s f ∨ fnVectors s f ≤ off / 16 ∨ 0x1000 ≤ off ∨ ¬ coreOn s then s
  else if off % 16 ≠ 12 then modFn f (fun fn => { fn with msix := tset 0 fn.msix (off / 4) v, msixOn := true }) s
  else if bitOf v 0 then modFn f (fun fn => { fn with unmasked := rmNat (off / 16) fn.unmasked, msixOn := true }) s
  else msiUnmask f (off / 16) s

/-- The self-tests of a SELFTEST that the doorbell register starts: their outcome is open (log 6). -/
def openTest (s : State) : SelfTest :=
  let b := freeBitsAt 18 s
  { romOk := b.getLsbD 0, gcmOk := (List.range 8).map fun i => b.getLsbD (i + 1),
    katOk := (List.range 8).map fun i => b.getLsbD (i + 9), noiseOk := b.getLsbD 17 }

/-- A write of 1 to MBX_DOORBELL.RING while STATE is not BUSY (R89): the command that the registers hold starts. -/
def ringHeld (s : State) : State :=
  let cmd := regGet s 0x20000
  let r : MbxReq := { args := [], buf := none, notify := bitOf cmd 18, epoch := bitOf cmd 17, force := bitOf cmd 16, rsvd := (tget 0 s.rsv 0x20000).extractLsb' 19 13 }
  if fld cmd 15 0 = 0x0902 then ring 0x0902 r [] (some (openTest s)) mbxBody (freeNext s)
  else ring (fld cmd 15 0) r [] none mbxBody s

/-- Status flags: cleared by 1 through the clear alias only (R47). -/
def flagClear (off : Nat) (v : W32) (s : State) : State :=
  if off = 0x10300 then (if bitOf v 31 then gatedClear s else s)
  else if off = 0x10250 then (if bitOf v 1 then { s with psaveFail := false } else s)
  else if off = 0x90008 then (if bitOf v 31 then { s with sram := { s.sram with ueValid := false } } else s)
  else if off = 0xA0008 then (if bitOf v 29 then { s with flt := { s.flt with mismatch := false } } else s)
  else if off = 0xB0004 then
    (if bitOf v 28 then
      let t := regFld s 0xB0000 9 0
      { s with mig := { s.mig with dlog := tset {} s.mig.dlog t { (tget {} s.mig.dlog t) with ovf := false } } }
     else s)
  else s

/-- Strobes and write-only words at the normal offset (R48). -/
def strobe (off : Nat) (v : W32) (s : State) : State :=
  if off = 0x10104 then (if bitOf v 0 then wvSnap .top s else s)
  else if off = 0x10244 then (if bitOf v 0 then paceClr 8 s else s)
  else if 0x10410 ≤ off ∧ off ≤ 0x1043C ∧ off % 4 = 0 then
    { s with co := { s.co with resp := tset 0 s.co.resp ((off - 0x10410) / 4) v } }
  else if off = 0x10440 then coAuthWrite v s
  else if off = 0x20060 then (if bitOf v 0 ∧ s.mbx.st ≠ .busy then ringHeld s else s)
  else if off = 0x200A8 then (if bitOf v 0 then rejClr s else s)
  else if 0x40010 ≤ off ∧ off ≤ 0x4002C ∧ off % 4 = 0 then keyWord ((off - 0x40010) / 4) v s
  else if off = 0x40040 then (if bitOf v 0 then keyCommitOp (bitOf v 1) s else s)
  else if off = 0x80064 then (if bitOf v 0 then rankTrainAll s else s)
  else if 0x100000 ≤ off ∧ off < 0x900000 then
    let b := off % 0x100000 / 0x10000
    let k := (off - 0x100000) / 0x100000
    if b = 0 ∧ off % 0x10000 = 0x44 then (if bitOf v 0 then paceClr k s else s)
    else if 4 ≤ b ∧ b ≤ 11 ∧ off % 0x10000 = 4 then (if bitOf v 0 then chanTrain (k * 8 + (b - 4)) s else s)
    else s
  else s

/-- Fields of type rw of the registers that a write affects beyond storing them. -/
def rwEffect (al : RegAlias) (off : Nat) (v : W32) (s : State) : State :=
  if off = 0x10100 then wvSelect .top ((aliasWord al (w32 s.wvTop.sel.toNat) v).setWidth 16) s
  else if off = 0x10200 then paceCtrlWrite al v s
  else if off = 0x10204 ∨ off = 0x10208 then paceLatch (regWrite s al off v)
  else if 0x20000 ≤ off ∧ off < 0x30000 then mbxRegWrite al off v s
  else if off = 0x40000 then keySelect al v s
  else if off = 0x60028 then
    let s' := regWrite s al off v
    if regGet s' off = regGet s off then s' else witness s'
  else if off = 0x70120 then fltcWrite al v s
  else if off = 0x80004 then mapCtrlWrite al v s
  else if off = 0x80060 then refCtrlWrite (regWrite s al off v)
  else regWrite s al off v

/-- The entry that a submission queue holds in host memory, where only its doorbell is written: what it is, is open (log 6). -/
def openSqe (s : State) (i : Nat) : Sqe :=
  let b := (Config.freeBits 512 (s.freeCtr + i)).toNat
  let d (k : Nat) : W32 := w32 (b / 2 ^ (32 * k))
  { cid := (d 0).toNat / 65536, opc := (d 0).toNat % 256, nsid := (d 1).toNat, cdw10 := d 10, cdw11 := d 11, cdw12 := d 12, cdw13 := d 13,
    cdw14 := d 14, cdw15 := d 15, mptr := b / 2 ^ 128 % 2 ^ 64, segs := [], data := [] }

/-- A doorbell register written (R41, R49): the tail of submission queue q, whose new entries are then open, or the head of
completion queue q. -/
def doorbellWrite (f i : Nat) (v : W32) (s : State) : State :=
  let q := i / 2
  let n := fld v 15 0
  if i % 2 = 1 then cqHead f q n s
  else match sqOf s f q with
    | none => s
    | some sq =>
      let k := (n + sq.size - (sq.head + sq.subs.length) % sq.size) % sq.size
      sqTail f q n ((List.range k).map (openSqe s)) { s with freeCtr := s.freeCtr + k }

/-- CC written (R71, R79, R101): EN rising or falling is an enable or a controller reset; the other fields are stored. -/
def ccWrite (f : Nat) (v : W32) (s : State) : State :=
  let fn := fnOf s f
  let s := modFn f (fun fn => { fn with cc := putFld (putFld v 13 11 0) 0 0 0 }) s
  let on := fn.en || fn.enHeld
  if bitOf v 0 ∧ ¬ on then ctrlEnable f (v.extractLsb' 11 3) s
  else if ¬ bitOf v 0 ∧ on then ctrlReset f s
  else s

/-- A write in the NVMe block of function f, at the offsets that NVMe 2.1 gives (R41, R49, R79, R124; log 31): CC, NSSR on the PF,
the doorbells, and AQA, ASQ and ACQ while CC.EN is 0. -/
def nvmeWrite (f off : Nat) (v : W32) (s : State) : State :=
  let put (b : BitVec 64) (hi : Bool) : BitVec 64 :=
    BitVec.ofNat 64 (if hi then v.toNat * 2 ^ 32 + b.toNat % 2 ^ 32 else b.toNat / 2 ^ 32 * 2 ^ 32 + v.toNat / 4096 * 4096)
  if off = 0x14 then ccWrite f v s
  else if off = 0x20 then (if f = 0 ∧ v = 0x4E564D65 then nssReset s else s)
  else if 0x1000 ≤ off ∧ off ≤ 0x1204 ∧ off % 4 = 0 then doorbellWrite f ((off - 0x1000) / 4) v s
  else if (fnOf s f).en then s
  else if off = 0x24 then modFn f (fun fn => { fn with aqa := v &&& 0x0FFF0FFF }) s
  else if off = 0x28 ∨ off = 0x2C then modFn f (fun fn => { fn with asq := put fn.asq (off = 0x2C) }) s
  else if off = 0x30 ∨ off = 0x34 then modFn f (fun fn => { fn with acq := put fn.acq (off = 0x34) }) s
  else s

/-- A write in the Control window (R41 to R48, R52, R63). With the core domain off, a write that meets a gated block is recorded
(R64, R97); inside a gated block a reserved offset is met as R63 and R64 give, not as R42 (DESIGN CHOICE, log 90). -/
def controlWrite (al : RegAlias) (off : Nat) (v : W32) (s : State) : State :=
  if ¬ coreOn s then (if blockGated s off then gatedRecord .host true (aliasOff al off) s else s)
  else if ¬ topServed s then s
  else if off < 0x10000 then (if al = .normal then nvmeWrite 0 off v s else s)
  else if blockGated s off then gatedRecord .host true (aliasOff al off) s
  else if 0x30000 ≤ off ∧ off < 0x40000 then (if aonHas (off - 0x30000) then aonPost ⟨off, al, v⟩ s else s)
  else
    let s := rwEffect al off v s
    if al = .normal then strobe off v s else if al = .clearBits then flagClear off v s else s

/-- A write in the Tenant window of VF f: its controller registers and its wide-value window (R49, R50); it has no
aliases. -/
def tenantWrite (f off : Nat) (v : W32) (s : State) : State :=
  if ¬ wvServed s (.vf f) then s
  else if off < 0x1208 then nvmeWrite f off v s
  else if off = 0x8100 then wvSelect (.vf f) (v.setWidth 16) s
  else if off = 0x8104 then (if bitOf v 0 then wvSnap (.vf f) s else s)
  else s

/-- A write through an alias to a register (R45). -/
def execRegisterWrite (w : Window) (al : RegAlias) (off : Nat) (v : W32) (s : State) : Outcome State Fault Refusal :=
  match w with
  | .control => .next (controlWrite al off v s)
  | .tenant f => .next (tenantWrite f off v s)
  | .msix f => .next (msixWrite f off v s)

end Sys2Proof.Machine
end

