-- ==== Sys2Proof/Machine/Pins.lean ====
section
/-!
DEFINITION. The output pins that follow from the state (chapter 23, R380, R421, R452, R453, R462, R466); those with a state of
their own are fields of `Pin`. An open-drain output is true while it is asserted (low).
-/
namespace Sys2Proof.Machine

open Sys2Proof

/-- SERVICE_REQ_N, asserted while Replace Request is raised (R421). -/
def serviceReq (s : State) : Bool := s.rep.causes ≠ 0

/-- THERM_ALERT_N, asserted while Warning is in force (R380). -/
def thermAlert (s : State) : Bool := s.therm.warnOn

/-- SMB_ALERT_N, asserted while Replace Request is raised or FLT_WSTAT.MISMATCH is 1 (R466). -/
def smbAlert (s : State) : Bool := serviceReq s || s.flt.mismatch

/-- PWR_OFF_REQ_N (R386, R387). -/
def pwrOffReq (s : State) : Bool := s.pin.pwrOff

/-- HOLDUP_TEST_N and HOLDUP_ISO_N; high-impedance during POR and PORST_N (R462). -/
def holdupPins (s : State) : Bool × Bool := (s.pin.holdupTest && !s.pin.porst, s.pin.holdupIso && !s.pin.porst)

/-- Levels of a flash channel's outputs that the device holds: FCn_CE_N[3:0] high, FCn_WP_N and the others low. -/
structure FlashPins where
  ceN : BitVec 4
  wpN : Bool
  others : Bool
  deriving DecidableEq, Repr

/-- The outputs of flash channel n while PORST_N is low or its channel unit is gated (R452), or the PHYs are stopped (R386, R350); none while the channel works and
drives its bus cycles. -/
def flashPins (s : State) (n : Nat) : Option FlashPins :=
  if s.pin.porst || (chanOf s n).gated || physOff s || ((s.md.cur = .watch || s.md.cur = .doze) && !exitRuns s) then some { ceN := 0xF, wpN := false, others := false }
  else none

/-- DMc_RESET_N of every DRAM channel, true while it is held low (R453). -/
def dramResetPin (s : State) : Bool := s.pin.dramReset

/-- 7-bit SMBus address of the MCTP endpoint (R456, R466). -/
def mctpAddr (s : State) : Nat := 0x30 + s.pin.smba.toNat

/-- 7-bit SMBus address of the NVMe-MI Basic Management Command (R466). -/
def basicAddr : Nat := 0x6A

end Sys2Proof.Machine
end

