-- ==== Sys2Proof/Machine/Timers.lean ====
section
/-!
DEFINITION. Rows that the passing of time brings: counters journaled, the witness mark, the reseed of the DRBG
(R408), the Crypto Officer lockout, an SPDM heartbeat timeout, the SMBus timeout and the end of a scrub.
-/
namespace Sys2Proof.Machine

open Sys2Proof

/-- Whether the core domain's firmware runs: past START, and not in WATCH. -/
def coreRuns (s : State) : Bool := s.md.cur ≠ .start && coreOn s

/-- TENANT_COUNTER_JOURNAL (R470). -/
def execTenantCounterJournal (s : State) : Outcome State Fault Refusal :=
  .next (if coreRuns s then { s with ctrStored := s.ctr } else s)

/-- WITNESS_RECOMPUTE (R444): the 1 s recomputation. -/
def execWitnessRecompute (s : State) : Outcome State Fault Refusal := .next (if coreRuns s then witness s else s)

/-- WITNESS_SETTLE_EXPIRY (R446). -/
def execWitnessSettleExpiry (s : State) : Outcome State Fault Refusal :=
  match s.flt.settle with
  | none => .next s
  | some t => .next (if coreRuns s ∧ t + regFld s 0xA000C 9 0 * 1000000000 ≤ now s then mismatchPost s else s)

/-! ### DRBG (R408) -/

/-- DRBG_RESEED (R408): after 2^20 generate requests or 24 hours; it waits while the noise source runs its start-up test. -/
def execDrbgReseed (s : State) : Outcome State Fault Refusal :=
  let due := 2 ^ 20 ≤ s.sec.drbgReqs || s.sec.drbgSince + 86400000000000 ≤ now s
  .next (if s.sec.drbg ∧ s.sec.st ≠ 2 ∧ s.sec.startUp = 0 ∧ due then
    { s with sec := { s.sec with drbgReqs := 0, drbgSince := now s } } else s)

/-- CO_LOCKOUT_EXPIRY (R394): FAILS stays. -/
def execCoLockoutExpiry (s : State) : Outcome State Fault Refusal :=
  match s.co.lockedUntil with
  | none => .next s
  | some t => .next (if t ≤ now s then { s with co := { s.co with lockedUntil := none } } else s)

/-- SPDM_HEARTBEAT_TIMEOUT (R412): the session ends and its keys are zeroized. -/
def execSpdmHeartbeatTimeout (session : Nat) (s : State) : Outcome State Fault Refusal :=
  .next { s with sec := { s.sec with sessions := s.sec.sessions.filter fun x => x.id ≠ session } }

/-- SMBUS_CLOCK_LOW_TIMEOUT (R466): the device releases the bus. -/
def execSmbusClockLowTimeout (s : State) : Outcome State Fault Refusal := .next { s with pin := { s.pin with smbHeld := false } }

/-- SCRUB_COMPLETE (R340 to R342): the macro range has been read; summary, ERRS and the end of 0601h. -/
def execScrubComplete (s : State) : Outcome State Fault Refusal :=
  match scrubRun s with
  | none => .next s
  | some r => .next (scrubEnd r s)

end Sys2Proof.Machine
end

