-- ==== Sys2Proof/Machine/Sideband.lean ====
section
/-!
DEFINITION. The management sideband: NVMe-MI (R353, R421, R448) and the SPDM responder (R410 to R412), whose requests the noise source
(R407, R409) can hold up. Message layouts are those of NVMe-MI and SPDM 1.2 (log 21).
-/
namespace Sys2Proof.Machine

open Sys2Proof

/-! ### NVMe-MI -/

/-- A packet over MCTP: in WATCH it is not acknowledged and wakes the device (R353). -/
def mctp (reply : State → State) (s : State) : State := if ¬ coreOn s then wakeWatch 5 0 s else reply s

/-- FLT_WSTAT (chapter 22). -/
def fltWstat (s : State) : W32 := readFlt s 0x08

/-- Byte 10 of the Basic Management Command data (chapter 22). -/
def witnessByte (s : State) : Nat :=
  let w := fltWstat s
  b2n (bitOf w 31) + 2 * b2n (bitOf w 30) + 4 * b2n (bitOf w 29)

/-- NVME_MI_BASIC_MANAGEMENT (R421): answered in every mode from always-on copies; bytes 0 to 7, which NVMe-MI defines, are
free. -/
def execNvmeMiBasicManagement (s : State) : Outcome State Fault Refusal :=
  .next (emit (.sideband (leBytes 8 (freeBitsAt 64 s).toNat ++ leBytes 2 (replaceWord s).toNat ++ leBytes 1 (witnessByte s))) (freeNext s))

/-- The 56 bytes of Fleet Witness Read (R448). -/
def witnessData (s : State) : List Byte :=
  leBytes 8 s.flt.sysid.toNat ++ leBytes 2 s.flt.member ++ zeros 2 ++ leBytes 4 s.flt.epoch.toNat ++ leBytes 16 s.flt.computed.toNat ++
    leBytes 16 s.flt.expected.toNat ++ leBytes 4 (fltWstat s).toNat ++ leBytes 4 s.flt.seq.toNat

/-- FLEET_WITNESS_READ (R448). -/
def execFleetWitnessRead (s : State) : Outcome State Fault Refusal :=
  .next (mctp (fun s => emit (.sideband (witnessData s)) s) s)

/-- SIDEBAND_HEALTH_REQUEST (R421): byte 1 of the health data structure carries the Critical Warning bits of the PF; the
others, which NVMe-MI defines, are free. -/
def execSidebandHealthRequest (s : State) : Outcome State Fault Refusal :=
  .next (mctp (fun s =>
    let x := (freeBitsAt 56 s).toNat
    emit (.sideband (leBytes 1 x ++ (logSmart s 0).take 1 ++ leBytes 6 (x / 256))) (freeNext s)) s)

/-! ### SPDM (R410 to R412) -/

/-- Header of an SPDM 1.2 message. -/
def spdmHead (code p1 p2 : Nat) : List Byte := leBytes 1 0x12 ++ leBytes 1 code ++ leBytes 1 p1 ++ leBytes 1 p2

/-- A request that the error state answers with an SPDM ERROR (R412), as it does one that comes before the negotiation. -/
def spdmServed (ok : Bool) (reply : State → State) (s : State) : State :=
  mctp (fun s => if s.sec.st = 2 ∨ ¬ ok then emit .spdmError s else reply s) s

/-- `n` random bytes of the DRBG, as one generate request (R408). -/
def drbgBytes (n : Nat) (s : State) : List Byte × State :=
  (leBytes n (freeBitsAt (8 * n) s).toNat, freeNext { s with sec := { s.sec with drbgReqs := s.sec.drbgReqs + 1 } })

/-- GET_VERSION: version 1.2; what was negotiated ends. -/
def execGetVersion (s : State) : Outcome State Fault Refusal :=
  .next (mctp (fun s => emit (.spdm (leBytes 1 0x10 ++ leBytes 3 4 ++ leBytes 2 0x0100 ++ leBytes 2 0x1200))
    { s with sec := { s.sec with negotiated := false } }) s)

/-- GET_CAPABILITIES (R410): the flags of CERT, CHAL, MEAS with signature, ENCRYPT, MAC, KEY_EX, HBEAT and KEY_UPD. -/
def execGetCapabilities (s : State) : Outcome State Fault Refusal :=
  .next (mctp (fun s => emit (.spdm (spdmHead 0x61 0 0 ++ zeros 1 ++ [Config.spdmByte 0 0] ++ zeros 2 ++ leBytes 4 0x62D6 ++
    (List.range 8).map fun i => Config.spdmByte 0 (i + 1))) s) s)

/-- NEGOTIATE_ALGORITHMS (R410): SHA-384, ECDSA P-384, secp384r1 and AES-256-GCM. -/
def execNegotiateAlgorithms (s : State) : Outcome State Fault Refusal :=
  .next (mctp (fun s => emit (.spdm (spdmHead 0x63 3 0 ++ leBytes 2 48 ++ leBytes 2 1 ++ leBytes 4 4 ++ leBytes 4 0x80 ++ leBytes 4 2 ++
    zeros 16 ++ leBytes 4 0x102002 ++ leBytes 4 0x22003 ++ leBytes 4 0x12005)) { s with sec := { s.sec with negotiated := true } }) s)

/-- The certificate chain of slot 0, of open length and contents. -/
def certChain : List Byte :=
  (List.range (leNat [Config.spdmByte 1 0, Config.spdmByte 1 1])).map (Config.spdmByte 2)

/-- GET_CERTIFICATE of slot 0 (R410). -/
def execGetCertificate (s : State) : Outcome State Fault Refusal :=
  .next (spdmServed s.sec.negotiated
    (fun s => emit (.spdm (spdmHead 0x02 0 0 ++ leBytes 2 certChain.length ++ zeros 2 ++ certChain)) s) s)

/-- A reply closed by a nonce of the DRBG, the opaque length 0, and a signature by the device identity key, which no outside
party can compute (free). -/
def signed (body : List Byte) (s : State) : State :=
  let (n, s) := drbgBytes 32 s
  let (g, s) := drbgBytes 96 s
  emit (.spdm (body ++ n ++ zeros 2 ++ g)) s


/-- A measurement block: index, type, contents. -/
def measBlock (i ty : Nat) (v : List Byte) : List Byte :=
  leBytes 1 i ++ leBytes 1 1 ++ leBytes 2 (v.length + 3) ++ leBytes 1 ty ++ leBytes 2 v.length ++ v

/-- The seven blocks of R411. -/
def measRecord (s : State) : List Byte :=
  measBlock 1 0 ((List.range 48).map (Config.spdmByte 3)) ++
  measBlock 2 1 (sha384 ((s.fw.running.map Img.bytes).getD [])) ++ measBlock 3 1 (sha384 s.fw.recovery.bytes) ++
  measBlock 4 0x83 (leBytes 4 ((s.fw.running.map Img.version).getD 0).toNat ++ leBytes 4 s.fw.fused) ++
  measBlock 5 0x83 (leBytes 4 (secWord s).toNat) ++ measBlock 6 0x83 (leBytes 16 s.flt.computed.toNat) ++
  measBlock 7 0x82 (leBytes 4 topId.toNat)

/-- A new session: an ephemeral pair that fails its pair-wise test is discarded and the error state follows (R400); at most 4
sessions (R410). -/
def exchanged (pairOk : Bool) (s : State) : State :=
  if 4 ≤ s.sec.sessions.length then emit .spdmError s
  else if ¬ pairOk then emit .spdmError (keysEnd (cryptoError 0x0D 0 (katPass s) (freeNext s))) else
  let id := s.sec.sessNext
  let (k, s) := drbgBytes 48 s
  let (e, s) := drbgBytes 96 s
  signed (spdmHead 0x64 0 0 ++ leBytes 2 id ++ zeros 2 ++ e)
    { s with sec := { s.sec with sessions := s.sec.sessions ++ [{ id := id, key := k }], sessNext := (id + 1) % 65536 } }

/-- The answer to a request that draws on the DRBG (R410, R411). -/
def spdmAnswer (w : SpdmWait) (s : State) : State :=
  match w with
  | .challenge => signed (spdmHead 0x03 0 1 ++ sha384 certChain) s
  | .measure =>
    let m := measRecord s
    signed (spdmHead 0x60 0 0 ++ leBytes 1 7 ++ leBytes 3 m.length ++ m) s
  | .exchange pairOk => exchanged pairOk s

/-- A generate request is served, or waits while the noise source runs its start-up test or fills an instantiation (R408, R409). -/
def drawn (w : SpdmWait) (s : State) : State :=
  if s.sec.startUp = 0 ∧ s.sec.fill = 0 then spdmAnswer w s else { s with sec := { s.sec with waits := s.sec.waits ++ [w] } }

/-- CHALLENGE (R410): the signature covers the requester's nonce. -/
def execChallenge (_nonce : List Byte) (s : State) : Outcome State Fault Refusal :=
  .next (spdmServed s.sec.negotiated (drawn .challenge) s)

/-- GET_MEASUREMENTS (R411). -/
def execGetMeasurements (_nonce : List Byte) (s : State) : Outcome State Fault Refusal :=
  .next (spdmServed s.sec.negotiated (drawn .measure) s)

/-- KEY_EXCHANGE (R400, R410). -/
def execKeyExchange (_peer : List Byte) (pairOk : Bool) (s : State) : Outcome State Fault Refusal :=
  .next (spdmServed (s.sec.negotiated && s.sec.sessions.length < 4) (drawn (.exchange pairOk)) s)

/-! ### Noise source (R406, R407, R409) -/

/-- A health test failed (R409): the window is discarded and the start-up test of 1,024 samples begins; the third failure
within 1 s is the error state. -/
def noiseFail (s : State) : State :=
  let times := (now s :: s.sec.failTimes).filter fun t => now s ≤ t + 1000000000
  let fill := if s.sec.fill = 0 ∨ s.sec.startUp ≠ 0 then s.sec.fill else min 1536 (s.sec.fill + (s.sec.winPos + 1023) % 1024 + 1)
  let s := { s with sec := { s.sec with
    lastBit := none, rep := 0, winPos := 0, winCount := 0, startUp := 1024, fill := fill, failTimes := times.take 3 } }
  if 3 ≤ times.length then keysEnd (cryptoError 0x0C 0 (katPass s) (freeNext s)) else s

/-- The requests that waited are answered in order once samples are at hand again. -/
def waitsServed (s : State) : State :=
  if s.sec.startUp = 0 ∧ s.sec.fill = 0 then
    s.sec.waits.foldl (fun s w => if s.sec.st = 2 then emit .spdmError s else spdmAnswer w s) { s with sec := { s.sec with waits := [] } }
  else s

/-- NOISE_SAMPLE: the repetition count test with cutoff 41 and the adaptive proportion test over windows of 1,024 samples
with cutoff 800 (R407); a sample that the start-up test does not take goes to an instantiation (R408). -/
def execNoiseSample (bit : Bool) (s : State) : Outcome State Fault Refusal :=
  if ¬ s.sec.drbg ∨ s.sec.st = 2 ∨ ¬ coreOn s then .next s else
  let c := s.sec
  let rep := if c.lastBit = some bit then c.rep + 1 else 1
  let first := if c.winPos = 0 then bit else c.winFirst
  let cnt := if c.winPos = 0 then 1 else if bit = first then c.winCount + 1 else c.winCount
  let s := { s with sec := { c with
    lastBit := some bit, rep := rep, winFirst := first, winCount := cnt, winPos := (c.winPos + 1) % 1024, startUp := c.startUp - 1,
    fill := if c.startUp = 0 then c.fill - 1 else c.fill } }
  .next (if 41 ≤ rep ∨ 800 ≤ cnt then noiseFail s else waitsServed s)

/-- An open session. -/
def sessOpen (id : Nat) (s : State) : Bool := s.sec.sessions.any fun x => x.id = id
/-- Change a session. -/
def modSess (id : Nat) (g : Sess → Sess) (s : State) : State :=
  { s with sec := { s.sec with sessions := s.sec.sessions.map fun x => if x.id = id then g x else x } }

/-- HEARTBEAT of an open session. -/
def execHeartbeat (session : Nat) (s : State) : Outcome State Fault Refusal :=
  .next (spdmServed (sessOpen session s)
    (fun s => emit (.spdm (spdmHead 0x68 0 0)) (modSess session (fun x => { x with beats := x.beats + 1 }) s)) s)

/-- KEY_UPDATE of an open session: fresh keys, which SPDM derives from the former ones (free). -/
def execKeyUpdate (session : Nat) (s : State) : Outcome State Fault Refusal :=
  .next (spdmServed (sessOpen session s) (fun s =>
    let k := leBytes 48 (freeBitsAt 384 s).toNat
    emit (.spdm (spdmHead 0x69 0 0)) (modSess session (fun x => { x with key := k, updates := x.updates + 1 }) (freeNext s))) s)

/-- END_SESSION (R412): the session's keys are zeroized. -/
def execEndSession (session : Nat) (s : State) : Outcome State Fault Refusal :=
  .next (spdmServed (sessOpen session s) (fun s => emit (.spdm (spdmHead 0x6C 0 0))
    { s with sec := { s.sec with sessions := s.sec.sessions.filter fun x => x.id ≠ session } }) s)

end Sys2Proof.Machine
end

