-- ==== Sys2Proof/Machine/Vent.lean ====
section
/-!
DEFINITION. The dump of a Vent, record by record, and the ends of a Vent (R372 to R375); reading a vent record back (R376).
-/
namespace Sys2Proof.Machine

open Sys2Proof

/-! ### Vent records (R373) -/

/-- Whether a cached block is to be dumped: not vented, and its data in clear or an engine serving (R403). -/
def ventCan (s : State) (b : CBlk) : Bool := !b.vented && ((dataSlot s b.ns b.lba).isNone || cryptoServes s)

/-- The block that the dump takes next: data that a completed Flush or FUA covers first, then the oldest cache entry. -/
def ventFirst (s : State) : Option CBlk := (s.cache.find? fun b => ventCan s b && b.covered).or (s.cache.find? (ventCan s))

/-- Blocks of the frame index that holds an LBA: (first LBA, count). -/
def ventIdx (s : State) (ns lba : Nat) : Nat × Nat :=
  match nsOf s ns with
  | some n =>
    if ¬ n.zoned then (lba, 1) else
    let z := lbaZone n lba
    let per := max 1 (zoneFb s (zoneOf s ns z) / 4096)
    (zoneStart n z + (lba - zoneStart n z) / per * per, per)
  | none => (lba, 1)

/-- Consecutive LBAs from `lba` on, at most `n`, whose blocks are to be dumped. -/
def ventSpan (s : State) (ns : Nat) : Nat → Nat → Nat
  | 0, _ => 0
  | n + 1, lba => if (cachedBlk s ns lba).any (ventCan s) then ventSpan s ns n (lba + 1) + 1 else 0

/-- The run of dirty blocks of one frame index around a block: (first LBA, count). -/
def ventRange (s : State) (b : CBlk) : Nat × Nat :=
  let (lo, n) := ventIdx s b.ns b.lba
  let first := ((List.range (b.lba + 1 - lo)).find? fun i => ventSpan s b.ns (b.lba + 1 - (lo + i)) (lo + i) = b.lba + 1 - (lo + i)).getD (b.lba - lo)
  (lo + first, ventSpan s b.ns (n - first) (lo + first))

/-- Header of a record's raw frame (R233, R373). -/
def ventHdr (s : State) (ns lba : Nat) (slot : Option Nat) (data : List Byte) (epoch counter : Nat) : List Byte :=
  let pno := match nsOf s ns with
    | some n => if n.zoned then (zoneOf s ns (lbaZone n lba)).prof.getD 0 else (hintProf n 0).getD 0
    | none => 0
  let fs := if (nsOf s ns).any (·.zoned) then leAt (profOf s pno).desc 2 1 else 3
  hdrBytes { raw := true, short := data.length < fsizeBytes fs, resealed := false, enc := slot.isSome, zone := true, fsize := fs,
             prof := pno, origLen := data.length, stored16 := (64 + data.length) / 16, geom := {}, crc := crc32c data, wseq := 0,
             counter := counter, epoch := epoch }

/-- Additional authenticated data of a record: the place of its first block (R249). -/
def ventAad (s : State) (ns lba owner : Nat) (hdr : List Byte) : List Byte :=
  let zs := match nsOf s ns with | some n => if n.zoned then zoneStart n (lbaZone n lba) else 0 | none => 0
  aadOf ns owner zs lba hdr

/-- An engine that gives a counter value for a slot, with a lease granted at once where none is held. -/
def ventEngine (s : State) (k : Nat) : Option (Nat × Nat × State) :=
  let secs := (openSecs s).filter fun i => s.sec.st ≠ 2 || i ∈ s.sec.passEng
  match secs.find? fun i => (leaseOf s i k).isSome with
  | some i => (takeValue s i k).map fun e => (i, e)
  | none => secs.head?.bind fun i => (takeValue (giveLease i k s) i k).map fun e => (i, e)

/-- Blocks of the vent pool in use: its records, and what a VENT_TEST has taken (R373, R377). -/
def poolUsed (s : State) : Nat := (s.hold.pool.map VentRec.n).foldl (· + ·) 0 + 256 * s.hold.testMib

/-- One record of the dump, sealed under the slot's current epoch with a fresh counter value (R263, R373); none where the pool has no
room for it. -/
def ventOne (s : State) : Option State :=
  (ventFirst s).bind fun b =>
    let (lba, n) := ventRange s b
    if s.hold.poolCap < poolUsed s + n then none else
    let at' (i : Nat) : Option CBlk := cachedBlk s b.ns (lba + i)
    let data := ((List.range n).map fun i => ((at' i).map CBlk.data).getD (zeros 4096)).flatten
    let bad := ((List.range n).filter fun i => (at' i).any (·.poisoned)).map (lba + ·)
    let owner := blkOwner s b.ns
    let put (slot : Option Nat) (epoch counter : Nat) (frame : List Byte) (s : State) : State :=
      { s with
        hold := { s.hold with
          pool := s.hold.pool ++ [⟨b.ns, lba, n, owner, slot, epoch, counter, frame, bad⟩],
          vent := s.hold.vent.map fun v => { v with blocks := v.blocks + n } },
        cache := s.cache.map fun c => if c.ns = b.ns ∧ lba ≤ c.lba ∧ c.lba < lba + n then { c with vented := true } else c }
    match dataSlot s b.ns b.lba with
    | none =>
      let hdr := ventHdr s b.ns lba none data 0 0
      some (put none 0 0 (hdr ++ data ++ checkTrailer hdr data) s)
    | some k => (slotOf s k).cur.bind fun e => (ventEngine s k).map fun (_, v, s) =>
        let hdr := ventHdr s b.ns lba (some k) data e.epoch v
        let (ct, tag) := gcmSeal e.key ((hdr.drop 36).take 12) (ventAad s b.ns lba (slotOf s k).owner hdr) data
        put (some k) e.epoch v (hdr ++ ct ++ tag) s

/-- Data of a record as read back: none where its key is gone or a check fails (R376). -/
def ventOpen (s : State) (r : VentRec) : Option (List Byte) :=
  let hdr := r.frame.take 48
  let p := 4096 * r.n
  let body := (r.frame.drop 48).take p
  match r.slot with
  | none => some body
  | some k => (epochKey s k r.epoch).bind fun key =>
      gcmOpen key ((hdr.drop 36).take 12) (ventAad s r.ns r.lba (slotOf s k).owner hdr) body ((r.frame.drop (48 + p)).take 16)

/-! ### The dump (R372 steps 4 and 5) -/

/-- Records up to `due` blocks; the first argument bounds them. -/
def ventUntil : Nat → Nat → State → State
  | 0, _, s => s
  | n + 1, due, s =>
    if s.hold.vent.any (fun v => due ≤ v.blocks) then s
    else match ventOne s with
      | some s => ventUntil n due s
      | none => s

/-- Blocks that the dump has had time for: 40 GB/s over at least 1,024 accepted LUNs, in proportion with fewer (R373). -/
def ventDue (s : State) (v : VentRun) : Nat := (now s - v.start) * 40 * min 1024 (goodLuns s).length / 1024 / 4096

/-- The dump goes on as device time passes (R372): records already durable stand whatever follows (R375). Data that reaches the cache
after its end, with VIN_SENSE still low, is dumped too. -/
def ventTick (s : State) : State :=
  match s.hold.vent with
  | some v =>
    if s.md.cur ≠ .vent then s else
    let s := ventUntil s.cache.length (ventDue s v) s
    { s with hold := { s.hold with vent := s.hold.vent.map fun v => if v.dumped then { v with mib := blocksMib v.blocks } else v } }
  | none => s

/-- The rest of the dump; the journal is closed, counters with it (R372 step 5, R470). What the cache holds may now be power-safe
(R166, R364). -/
def ventDump (s : State) : State :=
  let s := ventUntil s.cache.length (2 ^ 64) s
  fuaCheck { s with ctrStored := s.ctr }

/-! ### The ends of a Vent (R374, R375, R386) -/

/-- The return from a Vent; a mailbox command that waited for it goes on (R90). -/
def ventBack (v : VentRun) (s : State) : State := mbxGo (ventReturn v s)

/-- Whether an admitted write moves on in a Vent: its turn has come, and its zone or pool does not hold it up. -/
def writeMoves (s : State) (c : Cmd) : Bool :=
  zoneTurn s c && !optBad c.id.sq c.e && match nsOf s c.e.nsid with
    | none => true
    | some n => match (if n.zoned then zonedWrite c n s else convWrite c n s) with | .wait => false | _ => true

/-- Whether the dump waits for data: fetches of admitted writes go on until it is in the cache, while the link is up (R372). -/
def ventFetching (s : State) (v : VentRun) : Bool :=
  !v.perst && s.cmds.any fun c =>
    c.id.sq ≠ 0 && isWrite c.e && (c.phase = .fetching || (c.phase = .admitted && writeMoves s c))

/-- The dump ends (R372 steps 4 and 5, R374, R375, R386): START after PERST_N, HALT after a shut-down, else the return when
the supply has recovered. -/
def execVentEnd (vinMv : Nat) (s : State) : Outcome State Fault Refusal :=
  match s.hold.vent with
  | none => .next s
  | some v0 =>
    if v0.dumped ∨ ventFetching s v0 then .next s else
    let s := ventDump s
    let v := { (s.hold.vent.getD v0) with dumped := true, mib := blocksMib ((s.hold.vent.getD v0).blocks) }
    let s := { s with hold := { s.hold with vent := some v } }
    if v.perst then
      let s := ventClose v s
      .next (if perstLow s then s else perstStart s)
    else if v.shut then .next (ventClose v s)
    else if ventRecover s ≤ vinMv then .next (ventBack v s)
    else .next s

/-- VIN_SENSE reaches RECOVER after the dump. -/
def execVentRecovery (vinMv : Nat) (s : State) : Outcome State Fault Refusal :=
  match s.hold.vent with
  | none => .next s
  | some v => if v.dumped ∧ ¬ v.perst ∧ ¬ v.shut ∧ ventRecover s ≤ vinMv then .next (ventBack v s) else .next s

end Sys2Proof.Machine
end

