-- ==== Sys2Proof/Machine/Start.lean ====
section
/-!
DEFINITION. START stage by stage (chapter 04): self-tests, image, DRAM, flash discovery, replay, vent pool restore and the end
of START.
-/
namespace Sys2Proof.Machine

open Sys2Proof

/-- START has reached stage `n` and is not held by temperature (R387). -/
def atStage (s : State) (n : Nat) : Bool := s.md.cur = .start && s.md.stage = n && !s.md.hot
/-- The next stage begins. -/
def toStage (n : Nat) (s : State) : State := { s with md := { s.md with stage := n } }
/-- A failure of START (R74). -/
def startFail (reason : Nat) (s : State) : State := { s with md := { s.md with reason := reason, fail := true } }

/-! ### Stages 0 to 3 -/

/-- START_BEGIN (R70, R456, R465): the always-on POR releases; the straps are sampled, a ZEROIZE_N held low is one assertion,
and with PORST_N deasserted stage 1 begins. -/
def execStartBegin (s : State) : Outcome State Fault Refusal :=
  if ¬ atStage s 0 then .next s else
  let s := sampleStraps s
  let s := if s.pin.zeroize ∧ ¬ s.zer.held then zeroizeN s else s
  .next (if s.pin.porst then s else enterStage1 s)

/-- LINK_TRAINED (R70, R71, R454): the port's link is up; stage 1 ends. -/
def execLinkTrained (port : Nat) (s : State) : Outcome State Fault Refusal :=
  if (if port = 0 then s.pin.perst else s.pin.perst1) ∨ (port ≠ 0 ∧ ¬ s.pin.dual) ∨ (s.md.cur = .start ∧ s.md.stage = 0) then .next s
  else
    let s := portSettle (setLink port true s)
    .next (if atStage s 1 then toStage 2 s else s)

/-- POWER_ON_SELF_TESTS (R70, R74, R398, R399): link training runs beside them, so they end in stage 1 or 2. The spares of the factory fuse
map and the field repairs are switched in by stage 3 (R343). -/
def execPowerOnSelfTests (t : SelfTest) (s : State) : Outcome State Fault Refusal :=
  if ¬ (atStage s 1 || atStage s 2) then .next s else
  let s := toStage 3 (runTests t { s with sram := { s.sram with fused := true } })
  .next (if firstFailed t = 0 then s else startFail 1 s)

/-- The images that the boot ROM tries, in order (R73). -/
def startImages (s : State) : List (Nat × Img) :=
  let slot (n : Nat) : Option (Nat × Img) := if n = 4 then some (4, s.fw.recovery) else (tget none s.fw.slots n).map fun i => (n, i)
  ((slot s.fw.active).toList ++ (slot s.fw.prevActive).toList ++ [(4, s.fw.recovery)])

/-- IMAGE_AUTHENTICATION (R70, R73, R74): the first image that verifies is loaded, the setpoint is 750 mV (R37); with none the
device enters HALT. A mailbox command that waited runs (R71). -/
def execImageAuthentication (s : State) : Outcome State Fault Refusal :=
  if ¬ atStage s 3 then .next s else
  match (startImages s).find? fun e => imgOk s e.2 with
  | some (n, i) =>
    .next (mbxGo (toStage 4 { s with
      fw := { s.fw with running := some i }, md := { s.md with slot := n, loaded := true },
      pace := { s.pace with vset := 750 } }))
  | none =>
    .next (mbxGo (enterHalt 3 (startFail (if (startImages s).any (·.2.authentic) then 3 else 2) s)))

/-! ### Stage 4: DRAM (R311, R316, R317, R366) -/

/-- Usable ranks of a channel, rising (R311 step 1). -/
def usableRanks (s : State) (p : DramProbe) (c : Nat) : List Nat :=
  (chanRanks c).filter fun r => p.populated.getLsbD r && rankPasses p r && regFld s 0x8008C r r = 0

/-- Usable ranks that step 2 of R311 does not hold as a spare. -/
def dataRanks (s : State) (p : DramProbe) (c : Nat) : List Nat :=
  let u := usableRanks s p c
  if regFld s 0x80000 16 16 = 1 ∧ 2 ≤ u.length then u.dropLast else u

/-- Channels in use (R311 step 3). -/
def usedChans (s : State) (p : DramProbe) : List Nat :=
  let cs := (List.range 4).filter fun c => usableRanks s p c ≠ []
  if cs.length = 4 then cs else if 2 ≤ cs.length then cs.take 2 else cs

/-- State and cause of a device rank at START. -/
def rankStart (s : State) (p : DramProbe) (d : Nat) (r : Nat) : Nat × Nat :=
  let c := rankChan r
  if ¬ p.populated.getLsbD r then (0, 0)
  else if ¬ rankPasses p r then (7, 5)
  else if regFld s 0x8008C r r = 1 then (5, 0)
  else if c ∉ usedChans s p then (0, 0)
  else if r ∈ (dataRanks s p c).take d then (1, 0)
  else (3, 0)

/-- The map of R316: mode, map, and whether it fell back to fixed order 1. -/
def startMap (s : State) (n : Nat) : Nat × List (BitVec 40 × Nat) × Bool :=
  let mode := if regFld s 0x80004 8 8 = 1 then regFld s 0x80004 2 0 else 1
  if mode ≠ 0 then (mode, [], false)
  else if n < 4 ∧ (mapSingular (mapReduced n (storedMap s))).isSome then (1, [], true)
  else (0, storedMap s, false)

/-- A rank failed training: retired with cause 5 (R74, R317), unless it is already. -/
def trainFailed (r : Nat) (s : State) : State :=
  let s := startFail 4 s
  if regFld s 0x8008C r r = 1 then s else healthLog { time := now s, typ := 9, cause := 5, subj := r } (setRetired r s)

/-- DRAM_TRAINING (R70, R74, R311, R316, R317, R326, R366); DMc_RESET_N is released for it (R453). -/
def execDramTraining (p : DramProbe) (s : State) : Outcome State Fault Refusal :=
  if ¬ atStage s 4 then .next s else
  let cs := usedChans s p
  let failed := (List.range 16).filter fun r => p.populated.getLsbD r && !rankPasses p r
  let d := (cs.map fun c => (dataRanks s p c).length).foldl min (((cs.head?.map fun c => (dataRanks s p c).length)).getD 0)
  let ranks := tgen ({} : Rank) 16 fun r =>
    let (st, cause) := rankStart s p d r
    if st = 0 then {} else { st := st, cause := cause, lastTj := s.therm.last, lastCheck := now s, refAt := now s }
  let (mode, map, fell) := startMap s cs.length
  let s := { s with dram := { ({} : Dram) with
    density := p.density, chans := cs, dranks := d, capGib := cs.length * d * rankGib p.density, modeCur := mode, map := map,
    fellBack := fell, ranks := ranks } }
  let s := failed.foldl (fun s r => trainFailed r s) s
  if cs = [] then .next (enterHalt 4 (startFail 5 { s with pin := { s.pin with dramReset := false } }))
  else
    let s := if fell then healthLog { time := now s, typ := 5 } s else s
    let s := { s with hold := { s.hold with testRun := true, lastTest := now s },
                      pin := { s.pin with holdupTest := true, dramReset := false } }
    .next (toStage 5 (setCeil s))

/-! ### Stage 5: flash (R16, R277 to R282) -/

/-- Whether a LUN's geometry is one that the device supports (code 09h). -/
def geomOk (p : LunProbe) : Bool :=
  (p.pageBytes = 16384 && 1792 ≤ p.spareBytes) || (p.pageBytes = 32768 && 3584 ≤ p.spareBytes)

/-- The first check of R280 that a LUN fails, before those that compare it with its channel. -/
def lunReason (p : LunProbe) : Nat :=
  if ¬ p.responds then 1 else if ¬ p.pageReadable then 2 else if p.onfiMajor < 5 then 3 else if ¬ p.progSuspend then 4
  else if ¬ p.eraseSuspend then 5 else if ¬ p.slc then 6 else if ¬ p.readRetry then 7 else if ¬ p.lpddr4 then 8
  else if ¬ geomOk p then 9 else 0

/-- Whether a LUN differs from the first accepted one of its channel (code 0Ah). -/
def lunDiffers (a b : LunProbe) : Bool :=
  a.pageBytes ≠ b.pageBytes || a.pagesPerBlock ≠ b.pagesPerBlock || a.ifCap ≠ b.ifCap

/-- Reason of every LUN of a channel that was probed, with its record; LUNs in ascending order. -/
def chanReasons (s : State) (ok : Bool) : List LunProbe → Option LunProbe → List (LunProbe × Nat)
  | [], _ => []
  | p :: t, first =>
    if (lunOf s p.lun).reason = 12 then (p, 12) :: chanReasons s ok t first
    else
      let r := lunReason p
      if r ≠ 0 then (p, r) :: chanReasons s ok t first
      else if first.any (lunDiffers p) then (p, 0x0A) :: chanReasons s ok t first
      else (p, if ok then 0 else 0x0B) :: chanReasons s ok t (some (first.getD p))

/-- A LUN after discovery (R276, R280); the pools are split at the first START that accepts it: the lowest good blocks are the
parameter units (R281, R282; log 27). -/
def lunRecord (p : LunProbe) (reason : Nat) (u : Lun) : Lun :=
  if reason ≠ 0 then { u with reason := reason }
  else
    let u := { u with reason := 0, timeouts := 0, pulse := p.pulseLimit, pulseSet := false, dq := p.dqTraining, planes := p.multiPlane, zq := p.zqCal,
                      duty := p.dutyCycle }
    if u.bulk ≠ 0 then u
    else
      let good := (List.range p.blocks).filter (· ∉ p.bad)
      let params := ceilDiv p.blocks 200
      let bulk := good.length - params
      { u with pageBytes := p.pageBytes, ppb := p.pagesPerBlock, blocks := p.blocks, rated := p.rated, par := good.take params,
               bulk := bulk, spare := ceilDiv (3 * bulk) 100,
               blk := p.bad.foldl (fun t b => tset {} t b { (tget {} t b) with st := .bad }) u.blk }

/-- Discover one channel: its LUNs, and its training where a die would be accepted. A channel whose dies are all recorded as failed in
service (0Ch) has every die refused, and stays gated (DESIGN CHOICE, log 91). -/
def discoverChan (p : FlashProbe) (c : Nat) (s : State) : State :=
  let ps := (List.range 128).filterMap fun i => p.luns.find? fun x => x.lun = lunNo c i
  let dq := (chanReasons s true ps none).all fun e => e.2 ≠ 0 || e.1.dqTraining
  let tr := trainChan (regFld s (chuBase c) 1 0) dq s.therm.last (now s) ((p.chans.find? fun x => x.chan = c).getD ⟨c, 0, 0, 0, 0⟩) {}
  let rs := chanReasons s tr.trained ps none
  let s := modChan c (fun _ => if rs.any fun e => e.2 = 0 ∨ e.2 = 0x0B then tr else {}) s
  let s := rs.foldl (fun s e => modLun e.1.lun (lunRecord e.1 e.2) s) s
  if tr.trained then lunsTrained c s else s

/-- The vent pool, a part of the parameter units of every accepted LUN, is sized at the first START that finds one: 72 GiB, in blocks
of 4,096 bytes (R373). -/
def poolSize (s : State) : State :=
  if s.hold.poolCap = 0 ∧ goodLuns s ≠ [] then { s with hold := { s.hold with poolCap := 72 * 2 ^ 18 } } else s

/-- FLASH_DISCOVERY (R70, R74, R280): a LUN with no record does not respond. -/
def execFlashDiscovery (p : FlashProbe) (s : State) : Outcome State Fault Refusal :=
  if ¬ atStage s 5 then .next s else
  let s := { s with luns := tmap {} (fun _ u => if u.reason = 12 then u else { u with reason := 1 }) s.luns }
  let s := ((p.luns.map fun x => lunChan x.lun).foldl (fun l c => insNat c l) []).foldl (fun s c => discoverChan p c s) s
  .next (toStage 6 (if goodLuns s = [] then startFail 6 s else poolSize (journalHomes s)))

/-! ### Stage 6: replay (R75, R264, R290, R299, R375, R417) -/

/-- The stored frame of an index that replay keeps: the newest confirmed one. -/
def keptFrame (fr : Fr) : Option SFr :=
  match fr.live with
  | some l => if l.confirmed then some l else fr.old
  | none => fr.old

/-- Whether a block of a zone is on media or in the vent pool. -/
def blkKept (s : State) (ns : Nat) (n : Ns) (z off : Nat) : Bool :=
  let zn := zoneOf s ns z
  let per := zoneFb s zn / 4096
  (keptFrame (frOf zn (off / per))).any (fun x => off % per < x.n / 4096) ||
    s.hold.pool.any fun r => r.ns = ns && r.lba ≤ zoneStart n z + off && zoneStart n z + off < r.lba + r.n

/-- Offsets of blocks below the write pointer, of indexes that took data, that are not kept. -/
def lostBlks (s : State) (ns : Nat) (n : Ns) (z : Nat) : List Nat :=
  let zn := zoneOf s ns z
  let per := zoneFb s zn / 4096
  (List.range zn.wp).filter fun off => (frOf zn (off / per)).admitted ≠ 0 && !blkKept s ns n z off

/-- The write pointer after an unsafe shutdown (R75): the end of the last kept frame; where PORST_N cut a dump, the end of the
contiguous data in the zone or the vent pool (R375). -/
def keptEnd (s : State) (ns : Nat) (n : Ns) (z : Nat) : Nat :=
  let wp := (zoneOf s ns z).wp
  if s.md.ventCut then ((lostBlks s ns n z).head?).getD wp
  else ((List.range wp).filter (blkKept s ns n z)).foldl (fun m off => max m (off + 1)) 0

/-- Cut a zone's data after an unsafe shutdown (R75): its write pointer falls to the end of the data kept, blocks below it that are
not kept are recorded as lost, and the loss is logged with its count of frames. -/
def cutZone (ns : Nat) (n : Ns) (z : Nat) (s : State) : State :=
  let zn := zoneOf s ns z
  let fb := zoneFb s zn
  let per := fb / 4096
  let lost := lostBlks s ns n z
  let wp := keptEnd s ns n z
  let below := lost.filter (· < wp)
  let cnt (l : List Nat) (f : Nat) : Nat := 4096 * (l.filter fun off => off / per = f).length
  let cut (f : Nat) (fr : Fr) : Fr :=
    if wp ≤ f * per then {} else
      let a := fr.admitted - cnt lost f
      { fr with admitted := a, arrived := a, hole := fr.hole + cnt below f }
  let s := modZone ns z (fun zn => { zn with
    wp := wp, lostLbas := zn.lostLbas ++ below.map (· + zoneStart n z), frames := tmap {} cut zn.frames }) s
  if lost = [] then s
  else healthLog { time := now s, typ := 4, obj := ns, lba := zoneStart n z, count := (lost.map (· / per)).eraseDups.length } s

/-- An index after replay: its kept frame is live; what came after it is not sealed. -/
def replayFr (fr : Fr) : Fr :=
  let k := keptFrame fr
  { fr with live := k, old := none, sealed := (k.map fun x => min (x.n - fr.hole) fr.arrived).getD 0, dead16 := 0 }

/-- The dead lengths of a zone's indexes follow from the places of the kept frames (R196): what lies between a frame and the one of the
index before it. -/
def replayDead : List (Nat × Fr) → Nat → List (Nat × Fr)
  | [], _ => []
  | (f, fr) :: t, at' => match fr.live with
    | some x => (f, { fr with dead16 := x.off16 - at' }) :: replayDead t (max at' (x.off16 + x.len16))
    | none => (f, fr) :: replayDead t at'

/-- A band after replay: its data space ends at `fill`, its pages hold what is confirmed, and the accumulators follow from them. -/
def replayBand (b : Band) (fill : Nat) : Band :=
  let pages := b.pages.take (ceilDiv fill (page16 b))
  let cur := pages.getLast?.map fun e => (e.1, e.2 + 1)
  let keep (t : Table Nat) : Table Nat := t.filter fun e => e.1 < pages.length
  let img := tmap [] (fun k v => v.take (16 * (min fill (tget 0 b.conf k) - k * page16 b))) (b.img.filter fun e => e.1 < pages.length)
  let b := { b with fill16 := fill, pages := pages, curRow := (cur.map Prod.fst).getD 0, curIdx := (cur.map Prod.snd).getD 0,
                    iss := keep b.conf, conf := keep b.conf, pIss := b.pConf, img := img }
  let acc (u : Nat) : List Byte := (unitPages b u).foldl (fun a k => xorBytes a (pageImg b k)) (zeros b.pageBytes)
  { b with acc := if b.parity then (pages.map fun e => unitKey e.1 (e.2 / 32)).eraseDups.foldl (fun t u => tset [] t u (acc u)) [] else [] }

/-- Band and accounting of a zone, or of a pool band, from its kept frames (R75, R186 to R191). Index pages stand where every frame
before them is kept. -/
def replayZone (s : State) (key : Nat) (zn : Zone) : Zone :=
  let frames := replayDead (tmap {} (fun _ fr => replayFr fr) zn.frames) 0
  let fb := zoneFb s zn
  let lives := frames.filterMap fun e => e.2.live
  match zn.band with
  | none => { zn with frames := frames }
  | some b =>
    let conv := (s.conv.filter fun e => e.1 / 2 ^ 32 = zkeyNs key && e.2.written && e.2.band = key % 2 ^ 24).map fun e => e.2.off16 + conv16
    let whole := zn.indexed && zn.frames.all fun e => (keptFrame e.2) = e.2.live
    let ends := lives.map (fun x => x.off16 + x.len16) ++ conv ++ (if whole then [zn.indexAt + 256 * zn.index.length] else [])
    let fill := (ends ++ b.conf.map Prod.snd).foldl max 0
    let band := if whole then b else replayBand b fill
    let short := (frames.filter fun e => e.2.shorts).length
    let deads := (frames.filter fun e => e.2.shorts && e.2.dead16 ≠ 0).length
    { zn with
      frames := frames, band := some band,
      stored := 16 * (fill - if whole then 256 * zn.index.length else 0) + 8 * short,
      dead := 16 * ((frames.map fun e => e.2.dead16).foldl (· + ·) 0) + 8 * deads,
      reserved := (frames.map fun e => if e.2.live.any fun x => !x.short || fb ≤ x.n then 0 else if e.2.admitted = 0 then 0
        else e.2.admitted + 64).foldl (· + ·) 0,
      indexed := whole, index := if whole then zn.index else [], wseq := (lives.map fun x => x.wseq + 1).foldl max 0,
      finishing := zn.finishing || ((zn.st = .full || zn.st = .readOnly) && !whole) }

/-- Band positions with a program that the journal does not confirm (R290). -/
def unconfirmedPos (b : Band) : List Nat :=
  let data := (List.range b.pages.length).filter fun k => tget 0 b.conf k < tget 0 b.iss k
  let par := (b.pIss.filter fun e => tget 0 b.pConf e.1 < e.2).map fun e => parPos (e.1 / 256) (e.1 % 256)
  (data.map (fun k => (b.pages.getD k (0, 0)).2) ++ par).eraseDups

/-- Such a block is copied to a fresh one for its position, and returned for erase (R290). -/
def refreshPos (ns z : Nat) (s : State) (p : Nat) : State :=
  if (relAt s ns z p).isSome then s else replacePos ns z p .restart s

/-- A copy that START interrupted begins again on another block; the one it was filling goes for erase. -/
def relAgain (s : State) (r : Rel) : State :=
  let s := replacePos r.ns r.zone r.pos r.kind s
  let here := (zoneOf s r.ns r.zone).band.any fun b => b.pos.getD r.pos (0, 0) = r.dst
  if here ∨ ¬ lunOk s r.dst.1 then s else giveBlk r.dst.1 r.dst.2 s

/-- LUNs that hold band positions and do not serve after discovery, while others do: what they hold is rebuilt elsewhere. -/
def lunsMissing (s : State) : List Nat :=
  if goodLuns s = [] then [] else (tkeys s.luns).filter fun l => !lunOk s l && lunPositions s l ≠ []

/-- A block with an erase intent and no done record is suspect (R299). -/
def replayBlk (k : Blk) : Blk := { k with st := if k.st = .intent then .suspect else k.st, probes := 0 }

/-- Erases that wait again after START: blocks returned for erase, and suspect ones (R299). -/
def replayErases (s : State) : State :=
  s.luns.foldl (fun s e => if e.2.reason ≠ 0 then s else
    (e.2.blk.filter fun b => b.2.st = .toErase || b.2.st = .suspect).foldl (fun s b => queueErase e.1 b.1 s) s) s

/-- The copy of a finished zone's index pages that was not programmed yet is (R198). -/
def copyAgain (ns z : Nat) (s : State) : State :=
  let zn := zoneOf s ns z
  if zn.indexed ∧ zn.indexCopy.isNone then copyIndex ns z s else s

/-- METADATA_REPLAY (R70, R74, R75): keys, zones, blocks and leases come back from the journal. -/
def execMetadataReplay (readable : Bool) (s : State) : Outcome State Fault Refusal :=
  if ¬ atStage s 6 then .next s
  else if ¬ readable then .next (enterHalt 4 (startFail 7 s))
  else
    let lossy := s.md.lastShutdown = 2
    let recd := if s.zer.pend then emptyKeys s.vault.recd else s.vault.recd
    let s := { s with
      vault := { live := unwrapKeys recd, recd := recd, nor := recd, staged := none, words := [] },
      luns := tmap {} (fun _ u => { u with blk := tmap {} (fun _ k => replayBlk k) u.blk }) s.luns }
    let keys := s.zones.map fun e => (zkeyNs e.1, e.1 % 2 ^ 24)
    let bad := keys.map fun k => (k, ((zoneOf s k.1 k.2).band.map unconfirmedPos).getD [])
    let s := if lossy then keys.foldl (fun s k => match nsOf s k.1 with | some n => cutZone k.1 n k.2 s | none => s) s else s
    let s := replayErases { s with zones := tmap {} (replayZone s) s.zones }
    let s := (s.rels.filterMap Prod.snd).foldl relAgain s
    let s := if lossy then bad.foldl (fun s e => e.2.foldl (refreshPos e.1.1 e.1.2) s) s else s
    let s := keys.foldl (fun s k => copyAgain k.1 k.2 s) s
    let s := (lunsMissing s).foldl (fun s l => lunGone l s) s
    .next (toStage 7 s)

/-! ### Stage 7: the vent pool (R77, R269, R376, R404) -/

/-- LBAs of a record. -/
def recLbas (r : VentRec) : List Nat := (List.range r.n).map (r.lba + ·)

/-- A record whose data cannot be read is lost: its LBAs say so until they are rewritten or their zone is reset, and what an older
record of them held is not their data (R376). -/
def recLost (r : VentRec) (s : State) : State :=
  match nsOf s r.ns with
  | none => s
  | some n =>
    let s := { s with cache := s.cache.filter fun b => !(b.ns = r.ns && r.lba ≤ b.lba && b.lba < r.lba + r.n) }
    if n.zoned then modZone r.ns (lbaZone n r.lba) (fun z => { z with lostLbas := z.lostLbas ++ recLbas r }) s
    else (recLbas r).foldl (fun s l => modConv r.ns l (fun c => { c with lost := true }) s) s

/-- A record of a zeroized slot is discarded; its zone or block is marked (R268, R269). -/
def recZeroized (r : VentRec) (s : State) : State :=
  match nsOf s r.ns with
  | none => s
  | some n =>
    if n.zoned then modZone r.ns (lbaZone n r.lba) (fun z => { z with zeroized := true }) s
    else (recLbas r).foldl (fun s l => modConv r.ns l (fun c => { c with zeroized := true }) s) s

/-- The LBAs of a record are not lost: a newer record holds them. -/
def recFound (r : VentRec) (s : State) : State :=
  match nsOf s r.ns with
  | none => s
  | some n =>
    if n.zoned then modZone r.ns (lbaZone n r.lba) (fun z => { z with lostLbas := z.lostLbas.filter (· ∉ recLbas r) }) s
    else (recLbas r).foldl (fun s l => if (convOf s r.ns l).lost then modConv r.ns l (fun c => { c with lost := false }) s else s) s

/-- One record that can be read goes back to its place: its data is decrypted and enters the cache; one whose check fails is lost
(R376). -/
def recRestore (r : VentRec) (s : State) : State :=
  if (nsOf s r.ns).isNone then s
  else if r.slot.any fun k => (epochKey s k r.epoch).isNone then recZeroized r s
  else match ventOpen s r with
    | none => recLost r s
    | some data => (List.range r.n).foldl (fun s i =>
        cachePut { ns := r.ns, lba := r.lba + i, data := bytesAt data (4096 * i) 4096, func := ownerFn r.owner, time := now s,
                   vented := true, poisoned := r.lba + i ∈ r.poisoned, ver := (convOf s r.ns (r.lba + i)).ver,
                   gen := genOf s (ownerFn r.owner) } s) (recFound r s)

/-- One record of the pool, in dump order; `unreadable` lists the numbers of those that no recovery step reads (R376). -/
def recOne (unreadable : List Nat) (s : State) (e : VentRec × Nat) : State :=
  if e.2 ∈ unreadable then recLost e.1 s else recRestore e.1 s

/-- Records that this START restores: in the cryptographic error state only those stored without encryption (R404). -/
def recServed (s : State) (r : VentRec) : Bool := s.sec.st ≠ 2 || r.slot.isNone

/-- Write the restored data into a namespace's place. -/
def restorePlace (s : State) (k : Nat × Nat) : State :=
  match nsOf s k.1 with
  | none => s
  | some n =>
    if ¬ n.zoned then convJob k.1 k.2 (((cachedBlk s k.1 k.2).map CBlk.ver).getD 0) s
    else if (zoneOf s k.1 k.2).finishing then finishData k.1 k.2 (cutFull k.1 k.2 s)
    else sealZone k.1 k.2 false (cutFull k.1 k.2 s)

/-- Places that records name: (namespace, zone), or (namespace, LBA) where it is conventional. -/
def recPlaces (s : State) (rs : List VentRec) : List (Nat × Nat) :=
  (rs.flatMap fun r => match nsOf s r.ns with
    | some n => if n.zoned then [(r.ns, lbaZone n r.lba)] else ((recLbas r).filter fun l => (cachedBlk s r.ns l).isSome).map fun l => (r.ns, l)
    | none => []).eraseDups

/-- VENT_POOL_RESTORE (R70, R77, R376): records in dump order; `unreadable` lists the numbers of those that no recovery step
reads. The pool is released when the stage ends; zones that were being finished are. -/
def execVentPoolRestore (unreadable : List Nat) (s : State) : Outcome State Fault Refusal :=
  if ¬ atStage s 7 ∨ s.replayed then .next s else
  let all := s.hold.pool.zipIdx
  let todo := all.filter fun e => recServed s e.1
  let bad := (todo.filter fun e => e.2 ∈ unreadable).map Prod.fst
  let good := (todo.filter fun e => e.2 ∉ unreadable).map Prod.fst
  let s := todo.foldl (recOne unreadable) s
  let s := (recPlaces s good).foldl restorePlace s
  let fin := (s.zones.filter fun e => e.2.finishing).map fun e => (zkeyNs e.1, e.1 % 2 ^ 24)
  let s := storeJobs 4 (fin.foldl (fun s k => finishData k.1 k.2 s) s)
  let s := if todo = [] then s else
    let blocks (rs : List VentRec) : Nat := (rs.map VentRec.n).foldl (· + ·) 0
    ventLog { time := now s, kind := 6, mib := blocksMib (blocks good), records := good.length, blocks := blocks bad } s
  .next { s with replayed := true,
                 hold := { s.hold with pool := (all.filter fun e => !recServed s e.1).map Prod.fst } }

/-! ### The end of START (R71, R76, R98, R348, R419, R444) -/

/-- The causes of Replace Request, evaluated again (R419, R420). -/
def causesAgain (s : State) : State :=
  let s := if s.dram.ranks.any fun e => e.2.st = 6 then causeOn 1 s else causeOff 1 s
  let s := if 64 ≤ s.sram.repairs.length then causeOn 2 s else s
  let s := spareCheck s
  let s := if s.cip.any fun e => e.2.fenced then causeOn 4 s else s
  lunCheck (if s.hold.low then causeOn 5 s else causeOff 5 s)

/-- A SANITIZE that START interrupted begins again, with its mailbox command (R98, R471). -/
def sanAgain (s : State) : State :=
  if ¬ s.san.running then s else
  let args := [w32 s.san.action, w32 s.san.target]
  let s := regPut (regPut (regPut s 0x20000 0x0407) 0x20010 (w32 s.san.action)) 0x20014 (w32 s.san.target)
  let run : MbxRun := { opc := 0x0407, args := args, buf := none, notify := false, epoch := false, force := false, start := now s }
  sanStart s.san.action s.san.target { s with mbx := { s.mbx with st := .busy, long := true, progress := 0, run := some run } }

/-- START_COMPLETE: opened zones are Closed, the last operational state is in force, the mode is RUN, or HALT in the
cryptographic error state, the crossings held since a WATCH are logged (R355), and a held CC.EN takes effect. -/
def execStartComplete (s : State) : Outcome State Fault Refusal :=
  if ¬ atStage s 7 ∨ ¬ (s.replayed || s.hold.pool = []) then .next s else
  let s := { s with
    zones := tmap {} (fun _ z => if openSt z.st then { z with st := .closed } else z) s.zones,
    pwr := { s.pwr with cur := s.pwr.lastOp } }
  let s := toStage 8 s
  let s := if s.sec.st = 2 then enterHalt 1 s else enterRun s
  let s := epochSync (causesAgain (sanAgain (exitOwed s)))
  let s := (s.fns.filter fun e => e.2.enHeld).foldl (fun s e => enableFn e.1 e.2.ams s) s
  .next (witness s)

end Sys2Proof.Machine
end

