-- ==== Sys2Proof/Machine/Dispatch.lean ====
section
/-!
DEFINITION. One arm per command of the table: the meaning of the command at the front of the queue.
-/
namespace Sys2Proof.Machine

open Sys2Proof

/-- The effect of a command on everything but the queue. -/
def exec (i : Instr) (s : State) : Host.Outcome State Fault Refusal :=
  match i with
  | .por => Sys2Proof.Machine.execPor s
  | .porstNAssertion => Sys2Proof.Machine.execPorstNAssertion s
  | .porstNDeassertion => Sys2Proof.Machine.execPorstNDeassertion s
  | .perstNAssertion port => Sys2Proof.Machine.execPerstNAssertion port s
  | .perstNDeassertion port => Sys2Proof.Machine.execPerstNDeassertion port s
  | .linkDownHotReset port => Sys2Proof.Machine.execLinkDownHotReset port s
  | .servingPortChange => Sys2Proof.Machine.execServingPortChange s
  | .pfFlr => Sys2Proof.Machine.execPfFlr s
  | .vfFlr v => Sys2Proof.Machine.execVfFlr v s
  | .controllerReset f => Sys2Proof.Machine.execControllerReset f s
  | .controllerEnable f ams => Sys2Proof.Machine.execControllerEnable f ams s
  | .nvmSubsystemReset => Sys2Proof.Machine.execNvmSubsystemReset s
  | .vfEnableClear => Sys2Proof.Machine.execVfEnableClear s
  | .vfEnableSet numVfs => Sys2Proof.Machine.execVfEnableSet numVfs s
  | .resetDrainDone f => Sys2Proof.Machine.execResetDrainDone f s
  | .zeroizeNAssertion => Sys2Proof.Machine.execZeroizeNAssertion s
  | .zeroizeRecordStored => Sys2Proof.Machine.execZeroizeRecordStored s
  | .startBegin => Sys2Proof.Machine.execStartBegin s
  | .linkTrained port => Sys2Proof.Machine.execLinkTrained port s
  | .powerOnSelfTests t => Sys2Proof.Machine.execPowerOnSelfTests t s
  | .imageAuthentication => Sys2Proof.Machine.execImageAuthentication s
  | .dramTraining p => Sys2Proof.Machine.execDramTraining p s
  | .flashDiscovery p => Sys2Proof.Machine.execFlashDiscovery p s
  | .metadataReplay readable => Sys2Proof.Machine.execMetadataReplay readable s
  | .ventPoolRestore unreadable => Sys2Proof.Machine.execVentPoolRestore unreadable s
  | .startComplete => Sys2Proof.Machine.execStartComplete s
  | .deleteIoSubmissionQueue id => Sys2Proof.Machine.execDeleteIoSubmissionQueue id s
  | .createIoSubmissionQueue id => Sys2Proof.Machine.execCreateIoSubmissionQueue id s
  | .getLogPage id => Sys2Proof.Machine.execGetLogPage id s
  | .deleteIoCompletionQueue id => Sys2Proof.Machine.execDeleteIoCompletionQueue id s
  | .createIoCompletionQueue id => Sys2Proof.Machine.execCreateIoCompletionQueue id s
  | .identify id => Sys2Proof.Machine.execIdentify id s
  | .abort id => Sys2Proof.Machine.execAbort id s
  | .setFeatures id => Sys2Proof.Machine.execSetFeatures id s
  | .getFeatures id => Sys2Proof.Machine.execGetFeatures id s
  | .asynchronousEventRequest id => Sys2Proof.Machine.execAsynchronousEventRequest id s
  | .firmwareImageDownload id => Sys2Proof.Machine.execFirmwareImageDownload id s
  | .firmwareCommit id => Sys2Proof.Machine.execFirmwareCommit id s
  | .activationDrainEnd => Sys2Proof.Machine.execActivationDrainEnd s
  | .imageSwitchComplete => Sys2Proof.Machine.execImageSwitchComplete s
  | .activationDrainTimeout => Sys2Proof.Machine.execActivationDrainTimeout s
  | .directiveSend id => Sys2Proof.Machine.execDirectiveSend id s
  | .directiveReceive id => Sys2Proof.Machine.execDirectiveReceive id s
  | .flush id => Sys2Proof.Machine.execFlush id s
  | .flushComplete id => Sys2Proof.Machine.execFlushComplete id s
  | .write id => Sys2Proof.Machine.execWrite id s
  | .zoneAppend id => Sys2Proof.Machine.execZoneAppend id s
  | .read id => Sys2Proof.Machine.execRead id s
  | .writeZeroes id => Sys2Proof.Machine.execWriteZeroes id s
  | .datasetManagement id => Sys2Proof.Machine.execDatasetManagement id s
  | .zoneClose id => Sys2Proof.Machine.execZoneClose id s
  | .zoneFinish id => Sys2Proof.Machine.execZoneFinish id s
  | .zoneOpen id => Sys2Proof.Machine.execZoneOpen id s
  | .zoneReset id => Sys2Proof.Machine.execZoneReset id s
  | .zoneOffline id => Sys2Proof.Machine.execZoneOffline id s
  | .reportZones id => Sys2Proof.Machine.execReportZones id s
  | .extendedReportZones id => Sys2Proof.Machine.execExtendedReportZones id s
  | .codecEncode id => Sys2Proof.Machine.execCodecEncode id s
  | .codecDecode id => Sys2Proof.Machine.execCodecDecode id s
  | .sqTailDoorbell f q tail entries => Sys2Proof.Machine.execSqTailDoorbell f q tail entries s
  | .cqHeadDoorbell f q head => Sys2Proof.Machine.execCqHeadDoorbell f q head s
  | .admission => Sys2Proof.Machine.execAdmission s
  | .dispatch r => Sys2Proof.Machine.execDispatch r s
  | .kerfExpiry r => Sys2Proof.Machine.execKerfExpiry r s
  | .geyserOverAge id => Sys2Proof.Machine.execGeyserOverAge id s
  | .writeDataCached id => Sys2Proof.Machine.execWriteDataCached id s
  | .encodeComplete sec lane c verifyOk => Sys2Proof.Machine.execEncodeComplete sec lane c verifyOk s
  | .cipherOperationComplete sec checkOk tagOk => Sys2Proof.Machine.execCipherOperationComplete sec checkOk tagOk s
  | .leaseGrant sec slot => Sys2Proof.Machine.execLeaseGrant sec slot s
  | .decodeComplete sec lane c faulty retryFaulty => Sys2Proof.Machine.execDecodeComplete sec lane c faulty retryFaulty s
  | .lunReadComplete lun cws => Sys2Proof.Machine.execLunReadComplete lun cws s
  | .suspendMinRun lun => Sys2Proof.Machine.execSuspendMinRun lun s
  | .lunSuspended lun => Sys2Proof.Machine.execLunSuspended lun s
  | .programComplete lun fail => Sys2Proof.Machine.execProgramComplete lun fail s
  | .eraseComplete lun fail zeros => Sys2Proof.Machine.execEraseComplete lun fail zeros s
  | .flashOperationTimeout lun => Sys2Proof.Machine.execFlashOperationTimeout lun s
  | .flashDriftCheck ch eye => Sys2Proof.Machine.execFlashDriftCheck ch eye s
  | .channelRetrain ch => Sys2Proof.Machine.execChannelRetrain ch s
  | .dramDriftCheck rank driftPs => Sys2Proof.Machine.execDramDriftCheck rank driftPs s
  | .dramRetrain => Sys2Proof.Machine.execDramRetrain s
  | .mr4Poll hot => Sys2Proof.Machine.execMr4Poll hot s
  | .refreshDue rank busy => Sys2Proof.Machine.execRefreshDue rank busy s
  | .dramCaParityAlert rank => Sys2Proof.Machine.execDramCaParityAlert rank s
  | .patrolScrub rank faults => Sys2Proof.Machine.execPatrolScrub rank faults s
  | .spareFillComplete rank => Sys2Proof.Machine.execSpareFillComplete rank s
  | .rankMigrationComplete ch faults => Sys2Proof.Machine.execRankMigrationComplete ch faults s
  | .paceWindowEnd meter reading => Sys2Proof.Machine.execPaceWindowEnd meter reading s
  | .paceLoopAction est => Sys2Proof.Machine.execPaceLoopAction est s
  | .avsAckTimeout => Sys2Proof.Machine.execAvsAckTimeout s
  | .shareEpochBoundary => Sys2Proof.Machine.execShareEpochBoundary s
  | .coalescingTimerExpiry f vec => Sys2Proof.Machine.execCoalescingTimerExpiry f vec s
  | .vectorUnmask f vec => Sys2Proof.Machine.execVectorUnmask f vec s
  | .housekeepingRound r => Sys2Proof.Machine.execHousekeepingRound r s
  | .fastThermalSample reading => Sys2Proof.Machine.execFastThermalSample reading s
  | .capacitanceTestDue => Sys2Proof.Machine.execCapacitanceTestDue s
  | .holdupTestRun => Sys2Proof.Machine.execHoldupTestRun s
  | .capacitanceTestEnd v0 v1 => Sys2Proof.Machine.execCapacitanceTestEnd v0 v1 s
  | .vinWarning mv => Sys2Proof.Machine.execVinWarning mv s
  | .dipEnd mv => Sys2Proof.Machine.execDipEnd mv s
  | .debounceExpiry => Sys2Proof.Machine.execDebounceExpiry s
  | .ventEnd vinMv => Sys2Proof.Machine.execVentEnd vinMv s
  | .ventRecovery vinMv => Sys2Proof.Machine.execVentRecovery vinMv s
  | .powerEntryDrainEnd => Sys2Proof.Machine.execPowerEntryDrainEnd s
  | .powerTransitionEnd => Sys2Proof.Machine.execPowerTransitionEnd s
  | .watchCycle r => Sys2Proof.Machine.execWatchCycle r s
  | .wakeTimerExpiry => Sys2Proof.Machine.execWakeTimerExpiry s
  | .hostL12Exit => Sys2Proof.Machine.execHostL12Exit s
  | .sidebandWakePacket => Sys2Proof.Machine.execSidebandWakePacket s
  | .vcoreGood p => Sys2Proof.Machine.execVcoreGood p s
  | .aonPostedWrite => Sys2Proof.Machine.execAonPostedWrite s
  | .pWriteStore ok => Sys2Proof.Machine.execPWriteStore ok s
  | .tenantCounterJournal => Sys2Proof.Machine.execTenantCounterJournal s
  | .witnessRecompute => Sys2Proof.Machine.execWitnessRecompute s
  | .witnessSettleExpiry => Sys2Proof.Machine.execWitnessSettleExpiry s
  | .noiseSample bit => Sys2Proof.Machine.execNoiseSample bit s
  | .drbgReseed => Sys2Proof.Machine.execDrbgReseed s
  | .coLockoutExpiry => Sys2Proof.Machine.execCoLockoutExpiry s
  | .freezeComplete => Sys2Proof.Machine.execFreezeComplete s
  | .freezeAbortTimeout => Sys2Proof.Machine.execFreezeAbortTimeout s
  | .spdmHeartbeatTimeout session => Sys2Proof.Machine.execSpdmHeartbeatTimeout session s
  | .smbusClockLowTimeout => Sys2Proof.Machine.execSmbusClockLowTimeout s
  | .gatedBlockAccess who isWrite off => Sys2Proof.Machine.execGatedBlockAccess who isWrite off s
  | .registerWrite w al off v => Sys2Proof.Machine.execRegisterWrite w al off v s
  | .gatedAccessClear => Sys2Proof.Machine.execGatedAccessClear s
  | .wvSelWrite view sel => Sys2Proof.Machine.execWvSelWrite view sel s
  | .wvSnap view => Sys2Proof.Machine.execWvSnap view s
  | .secPaceClr k => Sys2Proof.Machine.execSecPaceClr k s
  | .topPaceDevClr => Sys2Proof.Machine.execTopPaceDevClr s
  | .paceEnable al v => Sys2Proof.Machine.execPaceEnable al v s
  | .thermalEnable al v => Sys2Proof.Machine.execThermalEnable al v s
  | .ventEnable al v => Sys2Proof.Machine.execVentEnable al v s
  | .dramMapArm al v => Sys2Proof.Machine.execDramMapArm al v s
  | .keySlotSelect al v => Sys2Proof.Machine.execKeySlotSelect al v s
  | .keyWordWrite j v => Sys2Proof.Machine.execKeyWordWrite j v s
  | .keyCommit => Sys2Proof.Machine.execKeyCommit s
  | .keyCommitForce => Sys2Proof.Machine.execKeyCommitForce s
  | .coSubmit => Sys2Proof.Machine.execCoSubmit s
  | .coLogout => Sys2Proof.Machine.execCoLogout s
  | .coSetkey => Sys2Proof.Machine.execCoSetkey s
  | .rejClr => Sys2Proof.Machine.execRejClr s
  | .cdcReserveWrite k al v => Sys2Proof.Machine.execCdcReserveWrite k al v s
  | .fltcSizeWrite al v => Sys2Proof.Machine.execFltcSizeWrite al v s
  | .devIdentify r => Sys2Proof.Machine.execDevIdentify r s
  | .devState r => Sys2Proof.Machine.execDevState r s
  | .fwWriteSlot r => Sys2Proof.Machine.execFwWriteSlot r s
  | .fwSlotQuery r => Sys2Proof.Machine.execFwSlotQuery r s
  | .fwActivate r => Sys2Proof.Machine.execFwActivate r s
  | .tenantCreate r => Sys2Proof.Machine.execTenantCreate r s
  | .tenantConfigure r => Sys2Proof.Machine.execTenantConfigure r s
  | .tenantSetShare r => Sys2Proof.Machine.execTenantSetShare r s
  | .tenantEnable r => Sys2Proof.Machine.execTenantEnable r s
  | .tenantReset r => Sys2Proof.Machine.execTenantReset r s
  | .tenantDestroy r => Sys2Proof.Machine.execTenantDestroy r s
  | .tenantQuery r => Sys2Proof.Machine.execTenantQuery r s
  | .nsCreate r => Sys2Proof.Machine.execNsCreate r s
  | .nsDelete r => Sys2Proof.Machine.execNsDelete r s
  | .nsAttach r => Sys2Proof.Machine.execNsAttach r s
  | .nsDetach r => Sys2Proof.Machine.execNsDetach r s
  | .profileWrite r => Sys2Proof.Machine.execProfileWrite r s
  | .profileEnable r => Sys2Proof.Machine.execProfileEnable r s
  | .profileAttach r => Sys2Proof.Machine.execProfileAttach r s
  | .keyLoadWrapped r => Sys2Proof.Machine.execKeyLoadWrapped r s
  | .keyZeroizeSlot r => Sys2Proof.Machine.execKeyZeroizeSlot r s
  | .keyZeroizeAll r => Sys2Proof.Machine.execKeyZeroizeAll r s
  | .keySetCeiling r => Sys2Proof.Machine.execKeySetCeiling r s
  | .lockDefine r => Sys2Proof.Machine.execLockDefine r s
  | .lockSet r => Sys2Proof.Machine.execLockSet r s
  | .sanitize r => Sys2Proof.Machine.execSanitize r s
  | .powerStateSet r => Sys2Proof.Machine.execPowerStateSet r s
  | .holdupSet r => Sys2Proof.Machine.execHoldupSet r s
  | .ventTest r => Sys2Proof.Machine.execVentTest r s
  | .watchConfig r => Sys2Proof.Machine.execWatchConfig r s
  | .scrub r met => Sys2Proof.Machine.execScrub r met s
  | .rankMigrate r => Sys2Proof.Machine.execRankMigrate r s
  | .repairAdd r => Sys2Proof.Machine.execRepairAdd r s
  | .fleetSetId r => Sys2Proof.Machine.execFleetSetId r s
  | .fleetSetExpected r => Sys2Proof.Machine.execFleetSetExpected r s
  | .fleetLoadMigrationKey r => Sys2Proof.Machine.execFleetLoadMigrationKey r s
  | .tenantFreeze r => Sys2Proof.Machine.execTenantFreeze r s
  | .tenantSave r => Sys2Proof.Machine.execTenantSave r s
  | .tenantRestore r => Sys2Proof.Machine.execTenantRestore r s
  | .tenantThaw r => Sys2Proof.Machine.execTenantThaw r s
  | .dirtyLogCtrl r => Sys2Proof.Machine.execDirtyLogCtrl r s
  | .dirtyLogHarvest r => Sys2Proof.Machine.execDirtyLogHarvest r s
  | .logRead r => Sys2Proof.Machine.execLogRead r s
  | .selftest r t => Sys2Proof.Machine.execSelftest r t s
  | .nvmeMiBasicManagement => Sys2Proof.Machine.execNvmeMiBasicManagement s
  | .fleetWitnessRead => Sys2Proof.Machine.execFleetWitnessRead s
  | .getVersion => Sys2Proof.Machine.execGetVersion s
  | .getCapabilities => Sys2Proof.Machine.execGetCapabilities s
  | .negotiateAlgorithms => Sys2Proof.Machine.execNegotiateAlgorithms s
  | .getCertificate => Sys2Proof.Machine.execGetCertificate s
  | .challenge nonce => Sys2Proof.Machine.execChallenge nonce s
  | .getMeasurements nonce => Sys2Proof.Machine.execGetMeasurements nonce s
  | .keyExchange peer pairOk => Sys2Proof.Machine.execKeyExchange peer pairOk s
  | .heartbeat session => Sys2Proof.Machine.execHeartbeat session s
  | .keyUpdate session => Sys2Proof.Machine.execKeyUpdate session s
  | .endSession session => Sys2Proof.Machine.execEndSession session s
  | .zeroizeNRelease => Sys2Proof.Machine.execZeroizeNRelease s
  | .referenceClockLoss => Sys2Proof.Machine.execReferenceClockLoss s
  | .referenceClockReturn => Sys2Proof.Machine.execReferenceClockReturn s
  | .linkUp port => Sys2Proof.Machine.execLinkUp port s
  | .channelRetrainComplete p => Sys2Proof.Machine.execChannelRetrainComplete p s
  | .rankRetrainComplete rank => Sys2Proof.Machine.execRankRetrainComplete rank s
  | .scrubComplete => Sys2Proof.Machine.execScrubComplete s
  | .avsbusAcknowledge => Sys2Proof.Machine.execAvsbusAcknowledge s
  | .cleanShutdown => Sys2Proof.Machine.execCleanShutdown s
  | .unsupportedCommand id => Sys2Proof.Machine.execUnsupportedCommand id s
  | .undefinedMailboxOpcode opc r => Sys2Proof.Machine.execUndefinedMailboxOpcode opc r s
  | .sidebandHealthRequest => Sys2Proof.Machine.execSidebandHealthRequest s
  | .activationWithResetComplete => Sys2Proof.Machine.execActivationWithResetComplete s

end Sys2Proof.Machine
end

