-- ==== Sys2Proof/Machine/Idle.lean ====
section
/-!
DEFINITION. The tick that passes when no command waits (assumption log 3).
-/
namespace Sys2Proof.Machine

open Sys2Proof

/-- Edges of the 32.768 kHz slow clock up to device time `t`. -/
def slowEdges (t : Nat) : Nat := t * 32768 / 1000000000

/-- Device time moves by its resolution of 10 ns while the reference clock carries it (R39), and a slow-clock edge that falls in
the tick acts (R51, R52); else each tick is an edge of the slow counter, which carries time (R40). The slow clock is taken in phase
with device time (DESIGN CHOICE, log 13). -/
def tick (s : State) : State :=
  if s.clk.refOn then
    let e := decide (slowEdges s.clk.time < slowEdges (s.clk.time + 10))
    let s := { s with clk := { s.clk with time := s.clk.time + 10, edge := e, ticks := s.clk.ticks + b2n e } }
    if e then aonEdge s else s
  else aonEdge { s with clk := { s.clk with lossTicks := s.clk.lossTicks + 1, ticks := s.clk.ticks + 1, edge := true } }

/-- What the media manager does of itself while it serves: static passes and parameter units of the LUNs (R281, R285), refreshes
(R303), and what a change of another part let a zone or a FUA write do: cut, finish, complete (R166, R194, R210). -/
def upkeep (s : State) : State :=
  if ¬ ioServes s ∨ psStops s then s else
  let s := (s.luns.map Prod.fst).foldl (fun s l => wearPass l (parFix l s)) s
  fuaCheck (s.zones.foldl (fun s e => let ns := zkeyNs e.1; let z := e.1 % 2 ^ 24; zoneSettle ns z (wornRefresh ns z s)) s)

/-- What passes when no command waits: a tick, in which the dump of a Vent goes on (R372), a reset that waits for a job goes on
once that job has ended (R122), and the DRAM controller, a scrub and the media manager do what is due. -/
def idle (s : State) : State :=
  let t := tick s
  upkeep (scrubTick (dramTick (now t - now s) (retryResets (ventTick t))))

end Sys2Proof.Machine
end

