-- ==== Sys2Proof/Safety.lean ====
section
/-!
DEFINITION. What counts as a safe run, and the terms in which the claims are stated: the invariants of a step, a mailbox
command that is issued and acts at once, and an NVMe command that may run.
-/
namespace Sys2Proof.Machine

open Sys2Proof

/-- A step that answers a next state. -/
def safeStep (s : State) : Bool :=
  match step s with
  | .next _ => true
  | _ => false

/-- The state after `n` steps, while every step answers a next state. -/
def runN : Nat → State → Option State
  | 0, s => some s
  | n + 1, s =>
    match step s with
    | .next t => runN n t
    | _ => none

/-! ### Invariants of a step -/

/-- The register table is canonical: offsets strictly rising, no register at its default listed. -/
def RegsCanonical (s : State) : Prop := twf 0 s.regs = true

/-- The fused counter never passes the recovery image's, nor the 64 fuses (R414). -/
def FusesBounded (s : State) : Prop := s.fw.fused ≤ min s.fw.recovery.counter 64

/-- The field-repair bank holds at most 64 entries (R343). -/
def RepairsBounded (s : State) : Prop := s.sram.repairs.length ≤ 64

/-! ### Terms of the claims -/

/-- `exec` answers a next state for which `P` holds. -/
def Answers (c : Instr) (s : State) (P : State → Prop) : Prop := ∃ t, exec c s = .next t ∧ P t

/-- No command is admitted and no queue is left. -/
def QueuesGone (t : State) : Prop := t.cmds = [] ∧ t.sqs = [] ∧ t.cqs = []

/-- A mailbox command is issued in RUN, not tagged or with the epoch's tag, and passes steps 1 to 4 of R91 with no activation in progress: `a` is the
state with the doorbell accepted, `m` the command as latched (R89). -/
def Issued (opc : Nat) (r : MbxReq) (met : List SramMet) (test : Option SelfTest) (s a : State) (m : MbxRun) : Prop :=
  mbxReached s = true ∧ s.md.cur = .run ∧ s.mbx.st ≠ .busy ∧ r.rsvd = 0 ∧
  (r.epoch = true → m.args.getD 15 0 = s.flt.epoch) ∧ s.fw.act = none ∧ a = mbxAccept opc r met test s ∧ a.mbx.run = some m

/-- The host buffer of a command passes step 5 of R91: 4 KiB aligned, at least `need` bytes and at most `most`. -/
def BufOk (m : MbxRun) (need most : Nat) : Prop :=
  (∀ b, m.buf = some b → b.addr.toNat % 4096 = 0) ∧ need ≤ bufLen m ∧ bufLen m ≤ min most 0x4000000

/-- An admin command that may run now, of a function whose tenant is not Frozen. -/
def AdminRuns (s : State) (id : CmdId) (opc : Nat) (c : Cmd) : Prop :=
  adminCmd s id opc = some c ∧ frozenFn s id.func = false

/-- An admitted I/O command that may run now, on a namespace attached to its function. -/
def IoRuns (s : State) (id : CmdId) (opc : Nat) (c : Cmd) (n : Ns) : Prop := ioCmd s id opc = some c ∧ nsCheck s c = .ok n

/-- A Write or Zone Append at its turn, addressing an attached zoned namespace. -/
def WriteRuns (s : State) (id : CmdId) (opc : Nat) (c : Cmd) (n : Ns) : Prop :=
  wrCmd s id opc = some c ∧ nsCheck s c = .ok n ∧ n.zoned = true ∧ cmdBlocks c.e ≤ 512 ∧ cmdSlba c.e + cmdBlocks c.e ≤ nsCap s n

/-- What the zone engine asks of a write at block `off` of zone `z`, bound to profile `p`, before its headroom test (R134, R187). -/
def ZoneTakes (s : State) (c : Cmd) (n : Ns) (z off p : Nat) : Prop :=
  (writeHint s c).isSome = true ∧ (zoneOf s c.e.nsid z).prof = some p ∧ (zoneOf s c.e.nsid z).zeroized = false ∧
  slotRefuses s (profOf s p) = none ∧ (activeSt (zoneOf s c.e.nsid z).st = true ∨
  ((zoneOf s c.e.nsid z).st = .empty ∧ canClaim s c.e.nsid = true)) ∧ off = (zoneOf s c.e.nsid z).wp ∧
  off + cmdBlocks c.e ≤ zszeBlocks n

/-- The worst-case size of a write at block `off` of zone `z` bound to profile `p` (R187). -/
def worstAt (s : State) (c : Cmd) (z off p : Nat) : Nat :=
  worstOf (zoneOf s c.e.nsid z) (frameBytes (profOf s p)) (4096 * off) (4096 * cmdBlocks c.e)

/-- A Zone Management Send with action `act` for the one zone `z`, at its turn, with no earlier write of the zone undecided and no
locked range over the zone. -/
def SendRuns (s : State) (id : CmdId) (act : Nat) (c : Cmd) (n : Ns) (z : Nat) : Prop :=
  IoRuns s id 0x79 c n ∧ zsa c.e = act ∧ n.zoned = true ∧ selAll c.e = false ∧ cmdSlba c.e = zoneStart n z ∧
  cmdSlba c.e < nsCap s n ∧ lbaZone n (cmdSlba c.e) = z ∧ zoneWriting s c.e.nsid z c.ord = false ∧
  rangeLocked s c.ord c.e.nsid (zoneStart n z) (zszeBlocks n) = false

/-- The state `t` is `u`, but for what an NVMe front-end changes when it posts an event: entries, messages, the dirty-page log. -/
def FrontFrame (t u : State) : Prop := t = { u with fns := t.fns, cqs := t.cqs, sent := t.sent, mig := t.mig }

/-- The register state that a plain write of the Control window changes. -/
def RegFrame (s t : State) : Prop := { t with regs := s.regs, pPend := s.pPend, rsv := s.rsv } = s

end Sys2Proof.Machine
end

