-- ==== Sys2Proof/Certificates/Slice0/Obligations.lean ====
section
/-!
DEFINITION. The statements for the provers. In a frame such as `t = { s with pin := t.pin }` every field of the state but the
ones named is unchanged.
-/
open Sys2Proof Sys2Proof.Machine

/-! ### The step -/

/-- A step takes the command at the front of the queue and is `exec` of it on the state with the queue's rest. -/
def Obligations.StepRunsFront : Prop :=
  ∀ (c : Instr) (q : List Instr) (s : State), s.pending = c :: q → step s = exec c { s with pending := q }

/-- Nothing of the device is due: no reset waits, no Vent or scrub is in progress, and the media manager does not serve or has no die, no zone
and no command. -/
def NothingDue (s : State) : Prop :=
  (∀ e ∈ s.fns, e.2.waitRst = none) ∧ s.hold.vent = none ∧ scrubRun s = none ∧
  (ioServes s = false ∨ (s.luns = [] ∧ s.zones = [] ∧ s.cmds = []))

/-- On an empty queue the step lets one tick pass: where nothing else is due, 10 ns of device time while the reference clock is
present (R39), and nothing more, but in the DRAM controller, where no edge of the slow clock falls in the tick; without it one tick of the slow
counter (R40), an edge at which the copies of the always-on registers are refreshed (R51). That a tick passes on an empty queue is the
model's choice (log 3). -/
def Obligations.IdleTick : Prop :=
  ∀ s : State, s.pending = [] → NothingDue s →
    (s.clk.refOn = true → slowEdges (s.clk.time + 10) = slowEdges s.clk.time → ∃ t, step s = .next t ∧
      now t = now s + 10 ∧ t = { s with clk := { s.clk with time := s.clk.time + 10, edge := false }, dram := t.dram } ∧
      (dramOn s = false → t.dram = s.dram)) ∧
    (s.clk.refOn = false → s.aonQ = [] → s.aonHeld = [] → ∃ t, step s = .next t ∧
      now t = s.clk.lossTime + ticksNs (s.clk.lossTicks + 1) ∧
      t = { s with clk := t.clk, hk := t.hk, wvTop := t.wvTop, wvVf := t.wvVf, dram := t.dram } ∧
      ∀ o, o ∈ aonOffs → readAon t o = aonWord t o)

/-- No command stops the block: every command answers a next state, in every state, and no command touches the commands that
wait behind it. -/
def Obligations.EveryCommandAnswers : Prop :=
  ∀ (c : Instr) (s : State), Answers c s fun t => t.pending = s.pending

/-- Every step keeps the register table canonical. -/
def Obligations.StepKeepsRegisterTable : Prop :=
  ∀ s t : State, RegsCanonical s → step s = .next t → RegsCanonical t

/-! ### Resets and pins (chapter 04) -/

/-- The cache holds the same blocks with the same data; only the note that a block is kept with no completion entry (R81, R169) may
differ. -/
def CacheKept (s t : State) : Prop :=
  t.cache.map (fun b => { b with kept := false }) = s.cache.map (fun b => { b with kept := false })

/-- What a loss of the core domain leaves (R67, R68, R74, R80, R464): START before stage 1, no function, queue, command, tenant, cached data or
running image; the vault's keys in use are gone, and what NOR, the journal and the vault's record hold is kept; profiles, hint bindings and
lock definitions are those that the NOR configuration stores. -/
def CoreGone (s t : State) : Prop :=
  t.md.cur = .start ∧ t.md.stage = 0 ∧ t.fns = [] ∧ QueuesGone t ∧ t.tenants = [] ∧ t.gens = [] ∧ t.vfEnable = false ∧
  t.cache = [] ∧ t.vault.live = {} ∧ t.fw.running = none ∧ t.mbx.st = .idle ∧ t.mbx.run = none ∧ t.co.role = false ∧
  t.pin.p0Up = false ∧ t.pin.p1Up = false ∧
  t.nor = s.nor ∧ t.norCfg = s.norCfg ∧ t.profiles = s.norCfg.profiles ∧ t.nss = (cfgReload s).nss ∧ t.locks = (cfgReload s).locks ∧
  t.vault.recd = s.vault.recd ∧ t.vault.nor = s.vault.nor ∧ t.fw.slots = s.fw.slots

/-- What a reset of every function leaves (R80, R87, R99, R118, R121, R396): every generation one higher, no queue and no admitted command, no
controller enabled and no event request or pending message kept, the reset draining at the PF and named in TOP_RESET_LAST; the
cache, namespaces, tenants' records and keys stay, and so does an idle mailbox. -/
def AllResetDone (kind : Nat) (s t : State) : Prop :=
  (∀ f, f ≤ 1024 → genOf t f = genOf s f + 1) ∧ QueuesGone t ∧
  (∀ f, (fnOf t f).en = false ∧ (fnOf t f).aers = [] ∧ (fnOf t f).events = [] ∧ (fnOf t f).pba = []) ∧
  (fnOf t 0).drain = some (16 + kind) ∧ t.md.rlKind = kind ∧ t.md.rlFunc = 0 ∧ t.md.rlCount = satInc 0xFFF s.md.rlCount ∧
  t.co.role = false ∧ CacheKept s t ∧ t.nss = s.nss ∧ t.tenants = s.tenants ∧ t.vault = s.vault ∧
  (s.mbx.run = none → t.mbx = s.mbx)

/-- The resets of every function: PF FLR, controller reset of the PF, NVM subsystem reset, link-down hot reset and a change of the
serving port, each while functions are served and no job carries a generation that comes next (R122). A PF FLR or PF controller reset
that meets a reset of every function not yet done merges with it: no generation steps again, and a PF FLR clears VF Enable (R86). -/
def Obligations.AllFunctionResets : Prop :=
  ∀ s : State, served s = true → resetWaits s = false →
    ((fnOf s 0).drain = none → (fnOf s 0).waitRst = none → Answers .pfFlr s fun t => AllResetDone 4 s t ∧ t.vfEnable = false) ∧
    ((fnOf s 0).drain.isSome = true → Answers .pfFlr s fun t => t.vfEnable = false ∧ t.gens = s.gens ∧ t.cmds = s.cmds ∧
      t.sqs = s.sqs ∧ t.cqs = s.cqs ∧ t.tenants = s.tenants ∧ t.cache = s.cache) ∧
    (Answers .nvmSubsystemReset s fun t => AllResetDone 7 s t ∧ t.vfEnable = s.vfEnable ∧ (fnOf t 0).nssro = true) ∧
    ((fnOf s 0).drain = none → (fnOf s 0).waitRst = none → (fnOf s 0).en = true →
      Answers (.controllerReset 0) s fun t => AllResetDone 6 s t ∧ t.vfEnable = s.vfEnable) ∧
    (∀ p, p = s.pin.serving → Answers (.linkDownHotReset p) s fun t => AllResetDone 3 s t ∧
      (if p = 0 then t.pin.p0Up else t.pin.p1Up) = false) ∧
    (servingOf s ≠ s.pin.serving → Answers .servingPortChange s fun t => AllResetDone 3 s t ∧ t.pin.serving = servingOf s)

/-- What a reset of VF `v` alone leaves (R80, R87, R118, R120): its commands and queues gone, its controller disabled, its reset draining; the other
VFs, the cache, the namespaces and the tenants' records are untouched. -/
def VfResetDone (kind v : Nat) (s t : State) : Prop :=
  genOf t v = genOf s v + 1 ∧ (∀ g, g ≠ v → genOf t g = genOf s g) ∧ t.cmds = s.cmds.filter (fun c => c.id.func ≠ v) ∧
  t.sqs = s.sqs.filter (fun q => q.func ≠ v) ∧ t.cqs = s.cqs.filter (fun q => q.func ≠ v) ∧
  (fnOf t v).en = false ∧ (fnOf t v).aers = [] ∧ (fnOf t v).pba = [] ∧ (fnOf t v).drain = some kind ∧
  (∀ g, g ≠ v → g ≠ 0 → fnOf t g = fnOf s g) ∧ t.md.rlKind = kind ∧ t.md.rlFunc = v ∧
  CacheKept s t ∧ t.nss = s.nss ∧ t.tenants = s.tenants ∧ t.vault = s.vault

/-- VF FLR and the controller reset of a VF; the clearing of VF Enable, which resets every VF; and setting it with NumVFs. -/
def Obligations.VfResets : Prop :=
  (∀ s v, served s = true → v ≠ 0 → fnPresent s v = true → (fnOf s v).drain = none → (fnOf s 0).drain = none →
    (fnOf s v).waitRst = none → (fnOf s 0).waitRst = none → genInUse s v (genOf s v + 1) = false →
    Answers (.vfFlr v) s (VfResetDone 5 v s) ∧ ((fnOf s v).en = true → Answers (.controllerReset v) s (VfResetDone 6 v s))) ∧
  (∀ s, served s = true → s.vfEnable = true → (∀ v, v ≤ s.numVfs → (fnOf s v).drain = none ∧ (fnOf s v).waitRst = none) →
    s.ops = [] → s.runs = [] → s.rjobs = [] → s.jobs = [] → (∀ b ∈ s.cache, b.gen ≠ genOf s b.func + 1) →
    Answers .vfEnableClear s fun t => t.vfEnable = false ∧ t.tenants = s.tenants ∧ CacheKept s t ∧
      (∀ v, v ≠ 0 → v ≤ s.numVfs → (fnOf t v).drain = some 5 ∧ (fnOf t v).en = false) ∧
      t.cmds = s.cmds.filter (fun c => c.id.func = 0 ∨ s.numVfs < c.id.func)) ∧
  (∀ s, served s = false → coreOn s = true → s.vfEnable = true → exec .vfEnableClear s = .next { s with vfEnable := false }) ∧
  (∀ n s, s.vfEnable = false → coreOn s = true →
    Answers (.vfEnableSet n) s fun t => t.numVfs = n ∧ t = { s with numVfs := n, vfEnable := true })

/-- What a zeroization leaves of the vault in use (R253, R267, R415): every data slot Empty at its new mark, no KEK, migration key or Crypto Officer
key, and no staged key word. -/
def VaultEmpty (t : State) : Prop :=
  (∀ k, (slotOf t k).cur = none ∧ (slotOf t k).prev = none) ∧ t.vault.live.kek = none ∧ t.vault.live.mig = none ∧
  t.vault.live.co = none ∧ t.vault.staged = none ∧ t.vault.words = []

/-- ZEROIZE_N (R415 to R418): one zeroization for each assertion, PEND set until the NOR record is stored, and the DRBG instantiated again
after its KAT, whose outcome is open and whose failure is the cryptographic error state (R400); a pin held low zeroizes nothing again, and its release ends the
assertion. -/
def Obligations.Zeroization : Prop :=
  (∀ s, s.zer.held = false → coreOn s = true → Answers .zeroizeNAssertion s fun t =>
    VaultEmpty t ∧ t.pin.zeroize = true ∧ t.zer = ⟨true, true, satInc 0xFFFF s.zer.count⟩ ∧ t.sec.sessions = [] ∧ t.co.role = false ∧
    (s.sec.drbg = true → s.sec.st ≠ 2 →
      (t.sec.drbgReqs = 0 ∧ t.sec.fill = 1536 ∧ t.sec.st = s.sec.st) ∨ (t.sec.st = 2 ∧ t.sec.fail = 0x0A))) ∧
  (∀ s, s.zer.held = false → coreOn s = false → Answers .zeroizeNAssertion s fun t =>
    t.zer = ⟨true, true, satInc 0xFFFF s.zer.count⟩ ∧ t = { s with zer := t.zer, pin := t.pin, pwr := { s.pwr with zerDone := true } }) ∧
  (∀ s, s.zer.held = true → Answers .zeroizeNAssertion s fun t => t = { s with pin := { s.pin with zeroize := true } }) ∧
  (∀ s, Answers .zeroizeNRelease s fun t =>
    t = { s with pin := { s.pin with zeroize := false }, zer := { s.zer with held := false } }) ∧
  (∀ s, s.zer.pend = true → Answers .zeroizeRecordStored s fun t =>
    t.zer.pend = false ∧ t.vault.recd.kek = none ∧ t.vault.recd.mig = none ∧ t.vault.recd.co = none ∧
    (∀ k, (tget {} t.vault.recd.slots k).cur = none) ∧ t.vault.nor = emptyKeys s.vault.nor ∧ t.vault.live = s.vault.live ∧
    t = { s with zer := t.zer, vault := t.vault })

/-! ### START (chapter 04) -/

/-! ### Completions and NVMe admin commands (chapters 07, 08) -/

/-- Identify, Get Log Page, and commands outside the tables (R127, R135, R141): the data asked for goes to the host and the status is
success; a log page read with RAE clears what it reports; an opcode that no table lists ends with Invalid Command Opcode. -/
def Obligations.AdminData : Prop :=
  (∀ id s c b, AdminRuns s id 0x06 c → identData s c = .ok b →
    exec (.identify id) s = .next (finishSt id okSt (sendData c 0 b s))) ∧
  (∀ id s c, AdminRuns s id 0x06 c → fld c.e.cdw10 7 0 = 1 →
    exec (.identify id) s = .next (finishSt id okSt (sendData c 0 (identCtrl s id.func) s))) ∧
  (∀ id s c, AdminRuns s id 0x02 c →
    let lid := fld c.e.cdw10 7 0
    let len := 4 * (fld c.e.cdw10 31 16 + 65536 * fld c.e.cdw11 15 0 + 1)
    let off := c.e.cdw12.toNat + 2 ^ 32 * c.e.cdw13.toNat
    lid ≠ 0xBF → (c.e.nsid = 0 ∨ c.e.nsid = 0xFFFFFFFF) → logReadable id.func lid = true → len ≤ 2097152 → off % 4 = 0 →
    off < (logPage s id.func lid).length →
    exec (.getLogPage id) s = .next (finishSt id okSt
      (if bitOf c.e.cdw10 15 then sendData c 0 (((logPage s id.func lid).drop off).take len) s
       else logRead id.func lid c.e.nsid (sendData c 0 (((logPage s id.func lid).drop off).take len) s)))) ∧
  (∀ id s c, ioServes s = true → cmdOf s id = some c → c.phase = .admitted → c.id.sq = 0 → c.e.opc ∉ adminOps 0 →
    frozenFn s c.id.func = false → exec (.unsupportedCommand id) s = .next (finishSt id ⟨0, 1, true⟩ s))

/-- R140: Get Features C2h completes with the thermal level in bits [2:0], the kerf in force in bits [15:4] and the effective pace target
in bits [26:16] of dword 0. -/
def Obligations.ThermalFeature : Prop :=
  ∀ id s c, AdminRuns s id 0x0A c → fld c.e.cdw10 7 0 = 0xC2 → fld c.e.cdw10 10 8 = 0 → s.therm.kerf ≤ 1000 →
    s.pace.effTarget < 2048 → ∃ v : W32, exec (.getFeatures id) s = .next (finish id okSt v 0 s) ∧
      fld v 2 0 = thermLevel s ∧ fld v 15 4 = s.therm.kerf ∧ fld v 26 16 = s.pace.effTarget

/-- Firmware Image Download and Firmware Commit (R144, R145): a piece joins the image; an image that verifies is stored in its slot and the
download buffer emptied; an image that does not is refused; an activation without reset begins with the drain. -/
def Obligations.FirmwareCommands : Prop :=
  (∀ id s c, AdminRuns s id 0x11 c → id.func = 0 →
    let len := 4 * (c.e.cdw10.toNat + 1)
    let off := 4 * c.e.cdw11.toNat
    let old := if off = 0 then [] else (fnOf s 0).img
    len % 4096 = 0 → off % 4096 = 0 → off + len ≤ 16777216 → old.length + len ≤ 16777216 →
    exec (.firmwareImageDownload id) s =
      .next (finishSt id okSt (modFn 0 (fun fn => { fn with img := old ++ bytesAt c.e.data 0 len }) s))) ∧
  (∀ id s c, AdminRuns s id 0x10 c → id.func = 0 → fld c.e.cdw10 5 3 = 0 →
    let fs := fld c.e.cdw10 2 0
    let slot := commitSlot s fs
    fs ≤ 4 → slot ≠ s.fw.active → s.fw.act = none → (fnOf s 0).img ≠ [] →
    (imgOk s (imgOf (fnOf s 0).img) = true → exec (.firmwareCommit id) s =
      .next (finishSt id okSt (modFn 0 (fun fn => { fn with img := [] }) (putSlot slot (imgOf (fnOf s 0).img) s)))) ∧
    (imgOk s (imgOf (fnOf s 0).img) = false → exec (.firmwareCommit id) s = .next (finishSt id ⟨1, 7, true⟩ s))) ∧
  (∀ id s c i, AdminRuns s id 0x10 c → id.func = 0 → fld c.e.cdw10 5 3 = 3 → (fnOf s 0).img = [] →
    let slot := commitSlot s (fld c.e.cdw10 2 0)
    fld c.e.cdw10 2 0 ≠ 0 → fld c.e.cdw10 2 0 ≤ 4 → s.fw.act = none → s.mbx.long = false → tget none s.fw.slots slot = some i →
    imgOk s i = true → i.needsReset = false → s.md.cur = .run →
    Answers (.firmwareCommit id) s fun t => t.md.cur = .quiesce ∧ t.fw.slots = s.fw.slots ∧
      t.fw.act = some ⟨slot, false, some id, false, false, now s⟩ ∧ (cmdOf t id).map (·.phase) = some .held) ∧
  (∀ n i s, tget none (putSlot n i s).fw.slots n = some i ∧ ∀ k, k ≠ n → tget none (putSlot n i s).fw.slots k = tget none s.fw.slots k)

/-! ### NVMe I/O commands (chapters 07 to 10) -/

/-- A write that the zone engine accepts into a zone with a profile (R132, R134, R175, R187): the write pointer moves past it, its worst-case size
is reserved, the zone is open or, at its end, Full, and the command waits for its data at its assigned LBA, which a Zone Append will report. The
first write binds the profile of its hint and takes a band of one block on each LUN of the lane set (R181, R182). One
that the headroom does not cover ends with Zone Headroom Exhausted and takes nothing; a write that is not at the write pointer is invalid; the
zone may then finish (R194). A zone whose block is still copied after an unsafe shutdown lets its writes wait (R290). -/
def Obligations.ZonedWrites : Prop :=
  (∀ id s c n p, WriteRuns s id 1 c n →
    let z := lbaZone n (cmdSlba c.e)
    let off := cmdSlba c.e - zoneStart n z
    let zn := zoneOf s c.e.nsid z
    rangeLocked s c.ord c.e.nsid (cmdSlba c.e) (cmdBlocks c.e) = false → ZoneTakes s c n z off p →
    ((worstAt s c z off p : Nat) ≤ headroom s zn → zoneRestarts s c.e.nsid z = false → zn.band.isSome = true → Answers (.write id) s fun t =>
      (zoneOf t c.e.nsid z).wp = off + cmdBlocks c.e ∧ (zoneOf t c.e.nsid z).reserved = zn.reserved + worstAt s c z off p ∧
      (zoneOf t c.e.nsid z).stored = zn.stored ∧
      (zoneOf t c.e.nsid z).st = (if off + cmdBlocks c.e = zszeBlocks n then .full else if zn.st = .explOpen then .explOpen else .implOpen) ∧
      (cmdOf t id).map (fun d => (d.phase, d.lba)) = some (Phase.fetching, cmdSlba c.e) ∧
      FrontFrame t { s with zones := t.zones, cmds := t.cmds }) ∧
    ((worstAt s c z off p : Nat) ≤ headroom s zn → zoneRestarts s c.e.nsid z = true → exec (.write id) s = .next s) ∧
    (headroom s zn < (worstAt s c z off p : Nat) →
      exec (.write id) s = .next (fuaCheck (zoneSettle c.e.nsid z (finishSt id (vendorSt 1) s))))) ∧
  (∀ id s c n h, WriteRuns s id 1 c n →
    let z := lbaZone n (cmdSlba c.e)
    let off := cmdSlba c.e - zoneStart n z
    rangeLocked s c.ord c.e.nsid (cmdSlba c.e) (cmdBlocks c.e) = false → writeHint s c = some h → off + cmdBlocks c.e ≤ zszeBlocks n →
    (zoneOf s c.e.nsid z).zeroized = false →
    ((zoneOf s c.e.nsid z).st = .empty ∨ activeSt (zoneOf s c.e.nsid z).st = true) → off ≠ (zoneOf s c.e.nsid z).wp →
    exec (.write id) s = .next (fuaCheck (zoneSettle c.e.nsid z (finishSt id ⟨1, 0xBC, true⟩ s)))) ∧
  (∀ id s c n p, WriteRuns s id 0x7D c n →
    let z := lbaZone n (cmdSlba c.e)
    let zn := zoneOf s c.e.nsid z
    cmdSlba c.e = zoneStart n z → rangeLocked s c.ord c.e.nsid (zoneStart n z) (zszeBlocks n) = false → ZoneTakes s c n z zn.wp p →
    (worstAt s c z zn.wp p : Nat) ≤ headroom s zn → zoneRestarts s c.e.nsid z = false → zn.band.isSome = true → Answers (.zoneAppend id) s fun t =>
      (zoneOf t c.e.nsid z).wp = zn.wp + cmdBlocks c.e ∧ (zoneOf t c.e.nsid z).reserved = zn.reserved + worstAt s c z zn.wp p ∧
      (cmdOf t id).map (fun d => (d.phase, d.lba, d.dw0)) =
        some (Phase.fetching, zoneStart n z + zn.wp, w32 (zoneStart n z + zn.wp)) ∧
      FrontFrame t { s with zones := t.zones, cmds := t.cmds }) ∧
  (∀ id s c n h p pos u, ∀ op ∈ [1, 0x7D], WriteRuns s id op c n →
    let z := lbaZone n (cmdSlba c.e)
    let zn := zoneOf s c.e.nsid z
    cmdSlba c.e = zoneStart n z → rangeLocked s c.ord c.e.nsid (zoneStart n z) (if op = 1 then cmdBlocks c.e else zszeBlocks n) = false →
    writeHint s c = some h → hintEnabled s n h = some p → zn.prof = none → zn.zeroized = false → slotRefuses s (profOf s p) = none →
    zn.st = .empty → zn.wp = 0 → canClaim s c.e.nsid = true → zoneRestarts s c.e.nsid z = false → cmdBlocks c.e ≤ zszeBlocks n →
    (worstOf (boundZone s n zn p) (frameBytes (profOf s p)) 0 (4096 * cmdBlocks c.e) : Nat) ≤ headroom s (boundZone s n zn p) →
    takeBand (leAt (profOf s p).desc 7 1 = 3) (laneSet (profOf s p)) s = some (pos, u) →
    Answers (if op = 1 then .write id else .zoneAppend id) s fun t =>
      (zoneOf t c.e.nsid z).prof = some p ∧ (zoneOf t c.e.nsid z).band.map Band.pos = some pos ∧ (zoneOf t c.e.nsid z).wp = cmdBlocks c.e ∧
      activeSt (zoneOf t c.e.nsid z).st = decide (cmdBlocks c.e < zszeBlocks n) ∧
      (cmdOf t id).map (fun d => (d.phase, d.lba)) = some (Phase.fetching, cmdSlba c.e) ∧ t.cache = s.cache)

/-- Flush (R166, R169, R370): it waits for what it covers and completes once neither the cache nor the write path holds a covered block as the
covered write brought it, or the cache is power-safe and was so at its admission, marking the cached ones. -/
def Obligations.FlushCommands : Prop :=
  (∀ id s c, ioCmd s id 0 = some c → (c.e.nsid = 0xFFFFFFFF ∨ ∃ n, nsCheck s c = .ok n) →
    exec (.flush id) s = .next (pushCover c.cover (modCmd id (fun c => { c with phase := .durable }) s)) ∧
    (cmdOf (modCmd id (fun c => { c with phase := .durable }) s) id).map (·.phase) = some .durable) ∧
  (∀ id s c, cmdOf s id = some c → c.phase = .durable → c.e.opc = 0 → c.id.sq ≠ 0 →
    ((powerSafe s = true ∧ c.prog = false) ∨ ∀ b ∈ c.cover, (∀ x ∈ s.cache, x.ns = b.ns → x.lba = b.lba → x.ver ≠ b.ver) ∧
      ∀ e ∈ s.jobs, ∀ j, e.2 = some j → j.ns = b.ns → (b.lba, b.ver) ∉ j.takes) →
    exec (.flushComplete id) s = .next (finishSt id okSt (markCovered c.cover s)))

/-- Read, and the commands of a conventional namespace (R129, R132, R202, R309): a Read in range starts, unless it touches a zone that is Offline; a
Write waits for its data; Write Zeroes and the Deallocate of Dataset Management leave their blocks deallocated and succeed; Dataset Management
without Deallocate only succeeds; on a locked range Dataset Management is denied; past the capacity each ends with LBA Out of Range. -/
def Obligations.ReadAndDeallocate : Prop :=
  (∀ id s c n, IoRuns s id 2 c n → cmdBlocks c.e ≤ 512 →
    (nsCap s n < cmdSlba c.e + cmdBlocks c.e → exec (.read id) s = .next (finishSt id lbaRange s)) ∧
    (cmdSlba c.e + cmdBlocks c.e ≤ nsCap s n → s.sec.st ≠ 2 → readOffline s c n = false → readRebuilds s c n = false →
      exec (.read id) s = .next (runRead id n s)) ∧
    (cmdSlba c.e + cmdBlocks c.e ≤ nsCap s n → readOffline s c n = true → rangeLocked s c.ord c.e.nsid (cmdSlba c.e) (cmdBlocks c.e) = false →
      exec (.read id) s = .next (finishSt id zoneOffSt s))) ∧
  (∀ id s c n p, wrCmd s id 1 = some c → nsCheck s c = .ok n → n.zoned = false → cmdBlocks c.e ≤ 512 →
    cmdSlba c.e + cmdBlocks c.e ≤ nsCap s n → writeHint s c = some 0 → rangeLocked s c.ord c.e.nsid (cmdSlba c.e) (cmdBlocks c.e) = false →
    hintEnabled s n 0 = some p → slotRefuses s (profOf s p) = none → Answers (.write id) s fun t =>
      (cmdOf t id).map (fun d => (d.phase, d.lba)) = some (Phase.fetching, cmdSlba c.e) ∧ t = { s with cmds := t.cmds }) ∧
  (∀ id s c n, IoRuns s id 8 c n → n.zoned = false →
    (nsCap s n < cmdSlba c.e + cmdBlocks c.e → exec (.writeZeroes id) s = .next (finishSt id lbaRange s)) ∧
    (cmdSlba c.e + cmdBlocks c.e ≤ nsCap s n → rangeLocked s c.ord c.e.nsid (cmdSlba c.e) (cmdBlocks c.e) = false →
      exec (.writeZeroes id) s = .next (finishSt id okSt (deallocate c.e.nsid (cmdSlba c.e) (cmdBlocks c.e) s)))) ∧
  (∀ id s c n, IoRuns s id 9 c n → n.zoned = false →
    (bitOf c.e.cdw11 2 = false → (∀ r ∈ dsmRanges c.e, rangeLocked s c.ord c.e.nsid r.1 r.2 = false) →
      exec (.datasetManagement id) s = .next (finishSt id okSt s)) ∧
    ((∀ r ∈ dsmRanges c.e, r.1 + r.2 ≤ nsCap s n) → (∃ r ∈ dsmRanges c.e, rangeLocked s c.ord c.e.nsid r.1 r.2 = true) →
      exec (.datasetManagement id) s = .next (finishSt id accessDenied s)) ∧
    (bitOf c.e.cdw11 2 = true → (∀ r ∈ dsmRanges c.e, r.1 + r.2 ≤ nsCap s n ∧ rangeLocked s c.ord c.e.nsid r.1 r.2 = false) →
      exec (.datasetManagement id) s =
        .next (finishSt id okSt ((dsmRanges c.e).foldl (fun s r => deallocate c.e.nsid r.1 r.2 s) s)))) ∧
  (∀ ns lba nb s l, lba ≤ l → l < lba + nb → l < 2 ^ 32 →
    let t := deallocate ns lba nb s
    convOf t ns l = {} ∧ cachedBlk t ns l = none ∧ t.nss = s.nss ∧
    ((∀ c ∈ s.cmds, c.phase ≠ .durable) → t.zones = s.zones ∧ t.vault = s.vault ∧ t.cmds = s.cmds ∧
      ∀ m k, m ≠ ns → k < 2 ^ 32 → convOf t m k = convOf s m k ∧ cachedBlk t m k = cachedBlk s m k))

/-- Zone Management Send on one zone (R131, R175, R176, R181, R193, R195): what each action does in each zone state; in every other state it is an
invalid transition and changes nothing else. -/
def Obligations.ZoneSends : Prop :=
  (∀ id s c n z, SendRuns s id 1 c n z → let zn := zoneOf s c.e.nsid z
    (openSt zn.st = true → zn.prof ≠ none → exec (.zoneClose id) s =
      .next (finishSt id okSt (modZone c.e.nsid z (fun zn => { zn with st := .closed }) s))) ∧
    (openSt zn.st = true → zn.prof = none → exec (.zoneClose id) s = .next (finishSt id okSt (modZone c.e.nsid z (fun _ => {}) s))) ∧
    (zn.st = .closed → exec (.zoneClose id) s = .next (finishSt id okSt s)) ∧
    (activeSt zn.st = false → exec (.zoneClose id) s = .next (finishSt id badTransition s))) ∧
  (∀ id s c n z, SendRuns s id 2 c n z → nsOf s c.e.nsid = some n → let zn := zoneOf s c.e.nsid z
    (activeSt zn.st = true → exec (.zoneFinish id) s = .next (finishSt id okSt
      (finishData c.e.nsid z (modZone c.e.nsid z (fun zn => { zn with st := .full, wp := zszeBlocks n }) s)))) ∧
    (zn.st = .empty → exec (.zoneFinish id) s = .next (finishSt id okSt
      (finishData c.e.nsid z (modZone c.e.nsid z (fun zn => capKept s c.e.nsid { zn with st := .full, wp := zszeBlocks n }) s)))) ∧
    (zn.st = .full → exec (.zoneFinish id) s = .next (finishSt id okSt s)) ∧
    ((zn.st = .readOnly ∨ zn.st = .offline) → exec (.zoneFinish id) s = .next (finishSt id badTransition s))) ∧
  (∀ id s c n z, SendRuns s id 3 c n z → let zn := zoneOf s c.e.nsid z
    (zn.st = .empty → canClaim s c.e.nsid = true → exec (.zoneOpen id) s =
      .next (finishSt id okSt (modZone c.e.nsid z (fun zn => capKept s c.e.nsid { zn with st := .explOpen, warned := false }) s))) ∧
    (zn.st = .empty → canClaim s c.e.nsid = false → exec (.zoneOpen id) s = .next (finishSt id tooMany s)) ∧
    (zn.st = .closed → exec (.zoneOpen id) s = .next (finishSt id okSt (warnCheck c.e.nsid z
      (modZone c.e.nsid z (fun zn => { zn with st := .explOpen, warned := false }) s)))) ∧
    (zn.st = .implOpen → exec (.zoneOpen id) s =
      .next (finishSt id okSt (modZone c.e.nsid z (fun zn => { zn with st := .explOpen }) s))) ∧
    (zn.st = .explOpen → exec (.zoneOpen id) s = .next (finishSt id okSt s)) ∧
    ((zn.st = .full ∨ zn.st = .readOnly ∨ zn.st = .offline) → exec (.zoneOpen id) s = .next (finishSt id badTransition s))) ∧
  (∀ id s c n z, SendRuns s id 4 c n z → let zn := zoneOf s c.e.nsid z
    ((activeSt zn.st = true ∨ zn.st = .full) → exec (.zoneReset id) s = .next (finishSt id okSt (zoneClear c.e.nsid z s)) ∧
      zoneOf (zoneClear c.e.nsid z s) c.e.nsid z = {}) ∧
    (zn.st = .empty → exec (.zoneReset id) s = .next (finishSt id okSt s)) ∧
    ((zn.st = .readOnly ∨ zn.st = .offline) → exec (.zoneReset id) s = .next (finishSt id badTransition s))) ∧
  (∀ id s c n z, SendRuns s id 5 c n z → let zn := zoneOf s c.e.nsid z
    (zn.st = .readOnly → exec (.zoneOffline id) s = .next (finishSt id okSt (Sys2Proof.Machine.zoneOffline c.e.nsid z s)) ∧
      (zoneOf (Sys2Proof.Machine.zoneOffline c.e.nsid z s) c.e.nsid z).st = .offline) ∧
    (zn.st = .offline → exec (.zoneOffline id) s = .next (finishSt id okSt s)) ∧
    (zn.st ≠ .readOnly → zn.st ≠ .offline → exec (.zoneOffline id) s = .next (finishSt id badTransition s)))

/-- Zone Management Receive (R129, R200): both reports send the report data of the zones from the one addressed on and succeed; a descriptor of the
report is 128 bytes, with the zone's state, capacity, start and write pointer. -/
def Obligations.ZoneReports : Prop :=
  (∀ id s c n, IoRuns s id 0x7A c n → n.zoned = true → fld c.e.cdw13 15 8 ≤ 7 → 4 * (c.e.cdw12.toNat + 1) ≤ 2097152 →
    cmdSlba c.e < nsCap s n →
    (fld c.e.cdw13 7 0 = 0 → exec (.reportZones id) s = .next (finishSt id okSt (sendData c 0 (reportData s c n) s))) ∧
    (fld c.e.cdw13 7 0 = 1 → exec (.extendedReportZones id) s = .next (finishSt id okSt (sendData c 0 (reportData s c n) s)))) ∧
  (∀ s ns n z, (zoneDesc s ns n z).length = 128 ∧ leAt (zoneDesc s ns n z) 1 1 = 16 * zstCode (zoneOf s ns z).st ∧
    leAt (zoneDesc s ns n z) 8 8 = zoneCap s n (zoneOf s ns z) % 2 ^ 64 ∧ leAt (zoneDesc s ns n z) 16 8 = zoneStart n z % 2 ^ 64 ∧
    leAt (zoneDesc s ns n z) 24 8 = (zoneStart n z + (zoneOf s ns z).wp) % 2 ^ 64)

/-- Offload jobs (R208, R209, R225 to R229): a Codec Encode or Codec Decode whose fields pass starts: each frame that needs a coder is handed out as an
operation of the command's class, and the command waits for them. An encode job's frames are its input cut at the frame size; a frame whose
output fits is written whole, and the job pauses before one that does not; at the end the dwords report what was consumed and written. -/
def Obligations.OffloadJobs : Prop :=
  (∀ id s c n p, IoRuns s id 0x83 c n → hintEnabled s n (fld c.e.cdw13 5 0) = some p → offloadBad c.e = false → c.e.cdw10 ≠ 0 →
    c.e.cdw12 = 0 → c.e.mptr % 4 = 0 → c.e.cdw14.toNat % frameBytes (profOf s p) = 0 → fld c.e.cdw13 15 6 = 0 → fld c.e.cdw13 31 18 = 0 →
    let d := (profOf s p).desc
    let fs := encFrames (frameBytes (profOf s p)) c.e.cdw10.toNat (bitOf c.e.cdw13 17)
    let o : Off := { id := id, gen := c.gen, dec := false, pno := p, desc := d, frames := fs, stop := okSt,
                     left := if leAt d 1 1 = 0 then [] else List.range fs.length }
    exec (.codecEncode id) s = .next (offStart o c s) ∧
    (leAt d 1 1 ≠ 0 → fs ≠ [] → let t := offStart o c s
      (cmdOf t id).map (·.phase) = some .reading ∧ tget none t.offs s.nextJob = some o ∧ t.ops.length = s.ops.length + fs.length ∧
      t = { s with cmds := t.cmds, offs := t.offs, ops := t.ops, nextJob := s.nextJob + 1 })) ∧
  (∀ id s c n, IoRuns s id 0x87 c n → offloadBad c.e = false → 16 ≤ c.e.cdw10.toNat → c.e.cdw10.toNat % 16 = 0 → c.e.mptr % 16 = 0 →
    c.e.cdw14.toNat % 16 = 0 → fld c.e.cdw13 15 0 = 0 → fld c.e.cdw13 31 17 = 0 →
    let inp := bytesAt c.e.data 0 c.e.cdw10.toNat
    let r := decFrames c.e.cdw12.toNat c.e.cdw15.toNat inp c.e.cdw11.toNat 32769 0 0
    let o : Off := { id := id, gen := c.gen, dec := true, frames := r.1, stop := r.2,
                     left := (List.range r.1.length).filter (fun i => leAt inp ((r.1.getD i (0, 0)).1 + 1) 1 % 2 = 0) }
    exec (.codecDecode id) s = .next (offStart o c s)) ∧
  (∀ fb len more, 0 < fb → let fs := encFrames fb len more
    (fs.map Prod.snd).foldl (· + ·) 0 = (if more then len / fb * fb else len) ∧ ∀ f ∈ fs, 0 < f.2 ∧ f.2 ≤ fb ∧ f.1 + f.2 ≤ len ∧ f.1 % fb = 0) ∧
  (∀ o c space k, o.dec = false → o.frames = [(0, k)] → let r := offRun o c space [0] {}
    ((offFrame o c 0).length ≤ space → r.st = o.stop ∧ r.used = k ∧ r.out = offFrame o c 0) ∧
    (space < (offFrame o c 0).length → r.st = jobPaused ∧ r.used = 0 ∧ r.out = [])) ∧
  (∀ n o c s, tget none s.offs n = some o → o.left = [] → cmdOf s o.id = some c → c.gen = o.gen → c.phase = .reading →
    offCheck n s = endJob c (offRun o c c.e.cdw11.toNat (List.range o.frames.length) {}) { s with offs := tset none s.offs n none }) ∧
  (∀ c r s, jobReports r.st = true → endJob c r s =
    finish c.id r.st (w32 (c.e.cdw14.toNat + r.used)) (w32 (c.e.cdw15.toNat + r.out.length)) (sendData c 0 r.out s))

/-- The code of one sample (R242, R244): the residue, reduced once by 2^s, lies in [−2^(s−1), 2^(s−1) − 1]; its zigzag is 2e or −2e − 1, below 2^s and invertible; a
code is a run of ones and k bits, or an escape with the sample itself, at most 24 + s bits; and decoding the code of a sample gives the sample, its residue and the bits that follow. -/
def Obligations.SampleCodes : Prop :=
  (∀ s x p : Nat, 0 < s → x < 2 ^ s → p < 2 ^ s →
    (residue s x p = (x : Int) - p ∨ residue s x p = (x : Int) - p + (2 ^ s : Nat) ∨ residue s x p = (x : Int) - p - (2 ^ s : Nat)) ∧
    -(2 ^ (s - 1) : Nat) ≤ residue s x p ∧ residue s x p < (2 ^ (s - 1) : Nat) ∧
    zigzag (residue s x p) < 2 ^ s ∧ unzigzag (zigzag (residue s x p)) = residue s x p ∧
    (((p : Int) + residue s x p) % (2 ^ s : Nat)).toNat = x) ∧
  (∀ e : Int, (0 ≤ e → (zigzag e : Int) = 2 * e) ∧ (e < 0 → (zigzag e : Int) = -2 * e - 1)) ∧
  (∀ s m x k : Nat, (m / 2 ^ k < 24 → codeBits s m x k = List.replicate (m / 2 ^ k) true ++ false :: bitsOf k (m % 2 ^ k)) ∧
    (24 ≤ m / 2 ^ k → codeBits s m x k = List.replicate 24 true ++ bitsOf s x) ∧ (k ≤ s → (codeBits s m x k).length ≤ 24 + s)) ∧
  (∀ s x p k : Nat, ∀ rest : List Bool, 0 < s → x < 2 ^ s → p < 2 ^ s →
    readCode s k p (codeBits s (zigzag (residue s x p)) x k ++ rest) = some (x, residue s x p, rest))

/-- A frame that Codec Encode stores raw, since its data does not fit its coding or its verification failed (R216, R217, R219, R227, R236): Codec
Decode takes it as one whole frame, with nothing that ends the job, and decoding it gives the original bytes. -/
def Obligations.RawFrameRoundTrip : Prop :=
  ∀ p d z force bs k, p < 65536 → leAt d 2 1 < 3 → 0 < bs.length → bs.length ≤ fsizeBytes (leAt d 2 1) →
    (force = true ∨
      storedCoded (leAt d 1 1) (geomOf d z bs.length) bs (if leAt d 1 1 = 0 then [] else codedPayload (geomOf d z bs.length) bs) = false) →
    let f := offloadFrame p d z force bs
    decFrames 0 0 f bs.length (k + 1) 0 0 = ([(0, f.length)], okSt) ∧
    decodePayload (f.take 48) ((f.take (f.length - 16)).drop 48) = .ok bs

/-! ### Firmware activation, queues and admission (chapters 04, 06, 08, 09) -/

/-- Firmware activation (R172 to R174, R86): the drain's end lets the switch begin; the switch makes the slot active and its image run, and
the device returns to RUN with admission on; after 500 ms without it the old image goes on; an activation with reset ends with the new image
running. -/
def Obligations.FirmwareActivation : Prop :=
  (∀ s a, s.fw.act = some a → a.switching = false → a.withReset = false → s.md.cur = .quiesce →
    (∀ c ∈ s.cmds, some c.id = a.cmd) → (∀ r, s.mbx.run = some r → r.opc = 0x0105 ∨ r.waitStart = true) → now s ≤ a.start + 500000000 →
    exec .activationDrainEnd s = .next { s with fw := { s.fw with act := some { a with switching := true } } }) ∧
  (∀ s a, s.fw.act = some a → a.switching = true → a.mbx = false → s.mbx.run = none → s.md.cur = .quiesce →
    (∀ u, s.pwr.trans = some u → u.target < 3) → Answers .imageSwitchComplete s fun t =>
      t.fw.active = a.slot ∧ t.fw.running = tget none s.fw.slots a.slot ∧ t.md.slot = a.slot ∧ t.fw.act = none ∧ t.md.cur = .run ∧
      t.md.rlKind = 10 ∧ t.fw.slots = s.fw.slots ∧ t.nss = s.nss ∧ t.vault = s.vault ∧ t.cache = s.cache) ∧
  (∀ s a, s.fw.act = some a → a.switching = false → a.withReset = false →
    (a.start + 500000000 < now s ∨ (a.start + 500000000 = now s ∧ ∃ c ∈ s.cmds, some c.id ≠ a.cmd)) → a.mbx = false →
    s.mbx.run = none → s.md.cur = .quiesce → (∀ u, s.pwr.trans = some u → u.target < 3) → Answers .activationDrainTimeout s fun t =>
      t.fw = { s.fw with act := none } ∧ t.md.cur = .run ∧ t.md.slot = s.md.slot ∧ t.nss = s.nss ∧ t.vault = s.vault ∧ t.cache = s.cache) ∧
  (∀ s a, s.fw.act = some a → a.withReset = true → s.mbx.run = none → (fnOf s 0).waitRst = none → (∀ e ∈ s.fns, e.2.enHeld = false) →
    Answers .activationWithResetComplete s fun t =>
      t.fw = { s.fw with act := none, running := tget none s.fw.slots a.slot } ∧ t.md.slot = a.slot ∧ t.md.cur = s.md.cur ∧
      t.regs = s.regs ∧ t.nss = s.nss ∧ t.vault = s.vault)

/-- Doorbells and unmasking (R49, R111, R150, R151, R351): a tail doorbell hands over exactly the entries up to the new tail; a head doorbell
moves the head, and a queue with nothing waiting posts nothing; each wakes the device from DOZE only; an unmasked vector sends the message it
owes. -/
def Obligations.DoorbellsAndVectors : Prop :=
  (∀ f q tail entries s sq, doorbellReaches s f = true → s.pwr.trans = none → s.md.cur ≠ .doze → sqOf s f q = some sq → tail < sq.size →
    (tail + sq.size - (sq.head + sq.subs.length) % sq.size) % sq.size = entries.length →
    Answers (.sqTailDoorbell f q tail entries) s fun t =>
      sqOf t f q = some { sq with tail := tail, subs := sq.subs ++ entries } ∧ t = { s with sqs := t.sqs }) ∧
  (∀ f q head s cq, doorbellReaches s f = true → s.pwr.trans = none → s.md.cur ≠ .doze → cqOf s f q = some cq → head < cq.size →
    (head + cq.size - cq.head) % cq.size ≤ (cq.tail + cq.size - cq.head) % cq.size → cq.waiting = [] → (∀ c ∈ s.cmds, c.phase ≠ .held) →
    Answers (.cqHeadDoorbell f q head) s fun t => cqOf t f q = some { cq with head := head } ∧ t = { s with cqs := t.cqs }) ∧
  (∀ f v s, fnPresent s f = true → v < fnVectors s f → s.md.cur ≠ .watch → exec (.vectorUnmask f v) s = .next (msiUnmask f v s) ∧
    v ∈ (fnOf (msiUnmask f v s) f).unmasked ∧
    (v ∉ (fnOf s f).pba → msiUnmask f v s = modFn f (fun fn => { fn with unmasked := insNat v fn.unmasked, msixOn := true }) s)) ∧
  (∀ f v s t0, (tget {} (fnOf s f).coal v).since = some t0 → t0 + 100000 * fld (featGet (fnOf s f) 8 0) 15 8 ≤ now s →
    exec (.coalescingTimerExpiry f v) s = .next (msiOwe f v false (modFn f (fun fn => { fn with coal := tset {} fn.coal v {} }) s)))

/-- Admission (R149, R151, R154 to R158, R171): while admission is stopped nothing is admitted; else a ready admin queue comes first, then
the next contender with minimum credit, then the next eligible one. Fetching takes the head entry into a slot and moves the head; a charge lowers
the direction's budget and the contender's cap credit. -/
def Obligations.AdmissionTurns : Prop :=
  (∀ s, admitting s = false → exec .admission s = .next s) ∧
  (∀ s q, admitting s = true → s.sqs.filter (adminReady s) = [q] → sqOf s q.func 0 = some q → exec .admission s = .next (fetch q s)) ∧
  (∀ s c, admitting s = true → s.sqs.filter (adminReady s) = [] → candidates s = [c] →
    (hasMin (contOf s c.1) (charges c.2.2.2).1 (charges c.2.2.2).2 = true → exec .admission s = .next (admitCand true c s)) ∧
    (hasMin (contOf s c.1) (charges c.2.2.2).1 (charges c.2.2.2).2 = false → exec .admission s = .next (admitCand false c s))) ∧
  (∀ s c, c ∈ candidates s → contends s c.1 = true ∧ eligible s c.1 (charges c.2.2.2).1 (charges c.2.2.2).2 = true) ∧
  (∀ q s e rest, q.subs = e :: rest → sqOf s q.func q.id = some q → let t := fetch q s
    sqOf t q.func q.id = some { q with subs := rest, head := (q.head + 1) % q.size } ∧
    (∃ c, t.cmds = s.cmds ++ [c] ∧ c.id = ⟨q.func, q.id, e.cid⟩ ∧ c.e = e ∧ c.gen = genOf s q.func ∧ c.time = now s ∧ c.phase = .admitted ∧
      c.ord = s.nextOrd) ∧ (fnOf t q.func).ats = true ∧ t = { s with sqs := t.sqs, cmds := t.cmds, nextOrd := s.nextOrd + 1, fns := t.fns }) ∧
  (∀ i r w p s, let t := chargeCont i r w p s
    t.qos.budgetR = s.qos.budgetR - r ∧ t.qos.budgetW = s.qos.budgetW - w ∧ (contOf t i).capcR = (contOf s i).capcR - r ∧
    (contOf t i).capcW = (contOf s i).capcW - w ∧ (contOf t i).charged = true ∧ ∀ k, k ≠ i → contOf t k = contOf s k)

/-- The epoch boundary (R109, R112, R117, R153, R154): stored shares come into force; the capacity factor is the pace, kerf and backlog figure, at
least 10; each contender's credits start again from its share; and the interrupt counts of every function return to 0 before held messages go. -/
def Obligations.EpochBoundary : Prop :=
  (∀ s, s.md.cur ≠ .watch → s.md.cur ≠ .start → s.qos.epoch < epochNow s → let u := settleShares (setFactors s)
    let is := (u.tenants.filter fun e => e.2.st ≠ .none).map Prod.fst ++ [1024]
    is.Nodup → Answers .shareEpochBoundary s fun t =>
      (∀ i ∈ is, contOf t i = contEpoch u i (fnOf s (contFn i)).heldEpoch) ∧ t.tenants = u.tenants ∧ t.qos.factorR = u.qos.factorR ∧
      t.qos.budgetR = (112000000 * u.qos.factorR / 1000 : Nat) - (debtOf s.qos.budgetR : Int) ∧ t.qos.overR = debtOf s.qos.budgetR ∧
      t.qos.epoch = epochNow s ∧ t.cqs = s.cqs ∧ t.sqs = s.sqs ∧ t.regs = s.regs) ∧
  (∀ s, kerfTime s = 0 → backlog s Cmd.chargeR ≤ 448000000 → (setFactors s).qos.factorR = max 10 (min 1000 (measuredPace s))) ∧
  (∀ s i held, i ≠ 1024 → let k := contEpoch s i held
    k.mincR = ((tnOf s i).inForce.min * 11200 * s.qos.factorR / 1000 : Nat) ∧
    k.capcR = ((tnOf s i).inForce.cap * 11200 : Nat) - (debtOf (contOf s i).capcR : Int) ∧ k.ops = (tnOf s i).inForce.iops)

/-! ### Dispatch, engines and flash (chapters 02, 09 to 13) -/

/-- Cipher engines (R249, R263, R265, R273 to R275): a frame encrypted with its check passed is complete; a failed result check is counted and the work goes to
another engine, the third within 24 hours fences the engine; a lease of at most 65,536 values below the ceiling is recorded before it is used. -/
def Obligations.CipherEngines : Prop :=
  (∀ k tag s x n j, runOn s (.cipher k) = some x → x.op.work = .encrypt n → tget none s.jobs n = some j →
    exec (.cipherOperationComplete k true tag) s =
      .next (encrypted n (modCip k (fun c => { c with enc := satInc 0xFFFFFFFF c.enc }) (endRun x s)))) ∧
  (∀ k tag s x n r, runOn s (.cipher k) = some x → x.op.work = .decrypt n → tget none s.rjobs n = some r →
    exec (.cipherOperationComplete k false tag) s = .next (failR n (vendorSt 6) (cipherFault k (endRun x s)))) ∧
  (∀ k s, let t := cipherFault k s
    (cipOf t k).faults = satInc 0xFFFFFFFF (cipOf s k).faults ∧
    ((recentFaults s (cipOf s k)).length < 2 → (cipOf t k).fenced = (cipOf s k).fenced ∧ t.runs = s.runs) ∧
    (2 ≤ (recentFaults s (cipOf s k)).length → 1 < (openSecs s).length → (cipOf s k).fenced = false →
      (cipOf t k).fenced = true ∧ (∀ r ∈ t.runs, r.res ≠ .cipher k) ∧ t.rep.causes.getLsbD 3 = true)) ∧
  (∀ k i s e, i ∈ (cipOf s k).wantLease → s.md.cur ≠ .watch → s.md.cur ≠ .doze → (slotOf s i).cur = some e →
    (slotOf s i).hwm < (slotOf s i).ceiling → Answers (.leaseGrant k i) s fun t =>
      let n := min 65536 ((slotOf s i).ceiling - (slotOf s i).hwm)
      (slotOf t i).hwm = (slotOf s i).hwm + n ∧ (slotOf t i).hwm ≤ (slotOf t i).ceiling ∧
      t.vault.recd = wrapKeys t.vault.live ∧ t.vault.nor = wrapKeys t.vault.live ∧
      (∃ key, tget {} (cipOf t k).leases key = ⟨(slotOf s i).hwm, (slotOf s i).hwm + n, e.epoch, (slotOf s i).hwm⟩) ∧ i ∉ (cipOf t k).wantLease ∧
      t = { s with vault := t.vault, cip := t.cip })

/-! ### DRAM (chapter 14) -/

/-- DRAM training and refresh (R318 to R321): at a check that is due a drift past the limit starts a retrain, which DRMC_TRAIN asks of every rank in service; its end records the
temperature; the MR4 readings, 1 ms apart, set the hot ranks and, with the option on, the doubled rate, and leave the outstanding refreshes; a refresh that falls due, an interval after the last, is postponed
only while accesses wait, for `busy` ns, and fewer than the limit are outstanding; outstanding ones have been issued once the accesses have not waited any more. -/
def Obligations.DramTrainingAndRefresh : Prop :=
  (∀ r drift s, dramOn s = true → rankLive (rankOf s r).st = true → regFld s 0x80064 15 8 < drift →
    ((rankOf s r).checkDue = true ∨ (rankOf s r).lastCheck + 1000000 * regFld s 0x80064 31 16 ≤ now s ∨
      80 ≤ (s.therm.last - (rankOf s r).lastTj).natAbs) →
    (∀ k ∈ chanRanks (rankChan r), (rankOf s k).retraining = false ∧ (rankOf s k).wantRetrain = false) →
    Answers (.dramDriftCheck r drift) s fun t => (rankOf t r).retraining = true ∧ (rankOf t r).lastCheck = now s ∧
      t = { s with dram := t.dram }) ∧
  (∀ s, dramOn s = true → Answers .dramRetrain s fun t =>
    (∀ r, r < 16 → rankLive (rankOf s r).st = true → (rankOf t r).retraining = true ∨ (rankOf t r).wantRetrain = true) ∧
    t = { s with dram := t.dram }) ∧
  (∀ r s, (rankOf s r).retraining = true → (∀ k ∈ chanRanks (rankChan r), (rankOf s k).wantRetrain = false) →
    Answers (.rankRetrainComplete r) s fun t =>
      (rankOf t r).retraining = false ∧ (rankOf t r).lastTj = s.therm.last ∧ (rankOf t r).lastCheck = now s ∧ t = { s with dram := t.dram }) ∧
  (∀ hot s, dramOn s = true → s.dram.mr4At + 1000000 ≤ now s → Answers (.mr4Poll hot) s fun t =>
    (∀ r, r < 16 → rankLive (rankOf s r).st = true → (rankOf t r).hot = hot.getLsbD r ∧
      (rankOf t r).doubled = (hot.getLsbD r && decide (regFld s 0x80060 9 9 = 1)) ∧ (rankOf t r).outstanding = (rankOf s r).outstanding) ∧
    t.dram.mr4At = now s ∧ t = { s with dram := t.dram }) ∧
  (∀ r busy s, dramOn s = true → rankLive (rankOf s r).st = true →
    (rankOf s r).refAt + (if (rankOf s r).doubled then 975 else 1950) ≤ now s → Answers (.refreshDue r busy) s fun t =>
    let n := if (rankOf s r).freeAt ≤ now s then 0 else (rankOf s r).outstanding
    ((busy = 0 ∨ regFld s 0x80060 8 8 = 0) → (rankOf t r).outstanding = 0) ∧
    (busy ≠ 0 → regFld s 0x80060 8 8 ≠ 0 → n < regFld s 0x80060 3 0 → (rankOf t r).outstanding = n + 1) ∧
    (busy ≠ 0 → regFld s 0x80060 8 8 ≠ 0 → regFld s 0x80060 3 0 ≤ n → (rankOf t r).outstanding = 1) ∧
    (rankOf t r).refAt = now s ∧ (rankOf t r).freeAt = now s + busy ∧ t = { s with dram := t.dram })

/-- R322: the (40,32) code, whose 40 check columns are distinct and of odd weight, and the address fold, the XOR of distinct non-zero constants of even
weight over the set address bits. What is written reads clean at its own address; one bad bit leaves its column, two leave a syndrome that is no
column; and an access that differs from the one intended in one or two address bits leaves an even-weight non-zero syndrome, which no column is. -/
def Obligations.DramCode : Prop :=
  checkCols.length = 40 ∧ checkCols.Nodup ∧ (∀ c ∈ checkCols, oddByte c = true) ∧
  foldConsts.length = 34 ∧ foldConsts.Nodup ∧ (∀ c ∈ foldConsts, c ≠ 0 ∧ oddByte c = false) ∧
  (∀ i, i < 34 → addrFold (BitVec.twoPow 34 i) = foldConsts.getD i 0) ∧ (∀ a b, addrFold (a ^^^ b) = addrFold a ^^^ addrFold b) ∧
  (∀ (d : W32) (a b : BitVec 34), checkByte d a ^^^ checkByte d b = addrFold a ^^^ addrFold b) ∧
  (∀ (d : W32) (a : BitVec 34), let w : BitVec 40 := checkByte d a ++ d
    syndrome w a = 0 ∧ (∀ i, i < 40 → syndrome (w ^^^ BitVec.twoPow 40 i) a = checkCols.getD i 0) ∧
    (∀ i j, i < 40 → j < 40 → i ≠ j → let y := syndrome (w ^^^ BitVec.twoPow 40 i ^^^ BitVec.twoPow 40 j) a
      y ≠ 0 ∧ y ∉ checkCols) ∧
    (∀ i, i < 34 → let y := syndrome w (a ^^^ BitVec.twoPow 34 i)
      y ≠ 0 ∧ oddByte y = false ∧ y ∉ checkCols) ∧
    ∀ i j, i < 34 → j < 34 → i ≠ j → let y := syndrome w (a ^^^ BitVec.twoPow 34 i ^^^ BitVec.twoPow 34 j)
      y ≠ 0 ∧ oddByte y = false ∧ y ∉ checkCols)

/-! ### Pace, time, entropy (chapters 02, 03, 19, 22) -/

/-- R36: with no acknowledge in time the last acknowledged setpoint stands and the fault is set; every later action that may act writes again; an acknowledge puts the written
setpoint in force and clears the fault. -/
def Obligations.AvsTimeout : Prop :=
  (∀ s v, s.pace.avsOut = some v → s.pace.avsAt + 1000000 ≤ now s → Answers .avsAckTimeout s fun t =>
    t.pace = { s.pace with avsOut := none, avsFault := true } ∧ t = { s with pace := t.pace }) ∧
  (∀ est s, paceActs s = true → s.pace.actAt + 1000000 ≤ now s → s.pace.avsOut = none → s.pace.avsFault = true → Answers (.paceLoopAction est) s fun t =>
    t.pace.avsOut.isSome = true ∧ t.pace.vset = s.pace.vset ∧ t.pace.avsFault = true ∧ t = { s with pace := t.pace, pwr := t.pwr }) ∧
  (∀ s v, s.pace.avsOut = some v → Answers .avsbusAcknowledge s fun t =>
    t.pace = { s.pace with vset := v, avsOut := none, avsFault := false } ∧ t = { s with pace := t.pace })

/-- R37: while ENABLE is 0 no action of the loop writes AVSBus or moves the setpoint, and START sets the setpoint to 750 mV when its image is loaded, before
the loop is enabled. -/
def Obligations.PaceLoopOff : Prop :=
  (∀ est s, regFld s 0x10200 16 16 = 0 → Answers (.paceLoopAction est) s fun t =>
    t.pace = s.pace ∧ t = { s with pwr := { s.pwr with est := t.pwr.est } }) ∧
  (∀ s n i, atStage s 3 = true → s.mbx.run = none → (startImages s).find? (fun e => imgOk s e.2) = some (n, i) →
    Answers .imageAuthentication s fun t => t.pace.vset = 750 ∧ t.pace.avsOut = s.pace.avsOut ∧ regFld t 0x10200 16 16 = regFld s 0x10200 16 16)

/-- The pace loop (R32 to R35): a window's end sets its meter's reading, 0 when gated; below the cap, within the ceiling and the floor, the loop moves one step towards
the effective target; its writes stay at or above 600 mV, never rise above the ceiling, and fall a step at the power cap. -/
def Obligations.PaceLoop : Prop :=
  (∀ m reading s, m ≤ 8 → (tget {} s.pace.meters m).endAt + 1000000 ≤ now s → Answers (.paceWindowEnd m reading) s fun t =>
    (meterGated s m = true → (tget {} t.pace.meters m).pace = 0 ∧ (tget {} t.pace.meters m).min = (tget {} s.pace.meters m).min) ∧
    (meterGated s m = false → (tget {} t.pace.meters m).pace = min reading 2000 ∧ (tget {} t.pace.meters m).fresh = false ∧
      (tget {} t.pace.meters m).min ≤ (tget {} t.pace.meters m).pace) ∧
    t = { s with pace := { s.pace with meters := t.pace.meters } }) ∧
  (∀ est s, paceActs s = true → s.pace.actAt + 1000000 ≤ now s → s.pace.avsOut = none → s.pace.avsFault = false →
    let p := (paceLatch s).pace
    let eff := min p.target s.therm.ttarget
    est < powerCap s.pwr.cur → s.pace.vset + p.step ≤ p.ceil → 600 + p.step ≤ s.pace.vset → 0 < p.step →
    Answers (.paceLoopAction est) s fun t =>
      t.pace.effTarget = eff ∧ t.pace.limit = (if s.therm.ttarget < p.target then 4 else 0) ∧
      (measuredPace s < eff → t.pace.avsOut = some (s.pace.vset + p.step)) ∧
      (eff + p.hyst < measuredPace s → t.pace.avsOut = some (s.pace.vset - p.step)) ∧
      (eff ≤ measuredPace s → measuredPace s ≤ eff + p.hyst → t.pace.avsOut = none) ∧ t.pace.vset = s.pace.vset) ∧
  (∀ p measured eff est cap tt, 600 ≤ p.ceil → let n := (paceNext p measured eff est cap tt).1
    600 ≤ n ∧ (p.vset ≤ p.ceil → n ≤ p.ceil) ∧ (p.ceil < p.vset → n ≤ max (p.vset - p.step) p.ceil) ∧
    (cap ≤ est → n ≤ max 600 (p.vset - p.step)))

/-- Noise source and DRBG (R407 to R409): a sample that fails neither test moves the tests on, and with the last one that the DRBG needs what waited for
it is answered; the 41st equal sample in a row, or the 800th in a window, discards the window and begins a
start-up test of 1,024 samples; the third failure within 1 s is the cryptographic error state; a due reseed restarts its counts. The samples of
an instantiation are counted row by row, which is the model's choice (log 103). -/
def Obligations.NoiseAndReseed : Prop :=
  (∀ bit s, s.sec.drbg = true → s.sec.st ≠ 2 → coreOn s = true →
    let rep := if s.sec.lastBit = some bit then s.sec.rep + 1 else 1
    let cnt := if s.sec.winPos = 0 then 1 else if bit = s.sec.winFirst then s.sec.winCount + 1 else s.sec.winCount
    let fill := if s.sec.startUp = 0 then s.sec.fill - 1 else s.sec.fill
    (rep < 41 → cnt < 800 → Answers (.noiseSample bit) s fun t =>
      t.sec.lastBit = some bit ∧ t.sec.rep = rep ∧ t.sec.winCount = cnt ∧ t.sec.winPos = (s.sec.winPos + 1) % 1024 ∧
      t.sec.startUp = s.sec.startUp - 1 ∧ t.sec.fill = fill ∧
      ((s.sec.waits = [] ∨ s.sec.startUp - 1 ≠ 0 ∨ fill ≠ 0) → t.sec.st = s.sec.st ∧ t.sec.waits = s.sec.waits ∧ t = { s with sec := t.sec }) ∧
      (s.sec.startUp - 1 = 0 → fill = 0 → t.sec.waits = [] ∧ (s.sec.waits = [.challenge] → t.sec.st = s.sec.st ∧
        t = { s with sec := t.sec, sent := t.sent, freeCtr := t.freeCtr } ∧ ∃ n g : List Byte, n.length = 32 ∧ g.length = 96 ∧
          t.sent = .spdm (spdmHead 0x03 0 1 ++ sha384 certChain ++ n ++ zeros 2 ++ g) :: s.sent))) ∧
    ((41 ≤ rep ∨ 800 ≤ cnt) → (s.sec.failTimes.filter fun x => now s ≤ x + 1000000000).length < 2 →
      Answers (.noiseSample bit) s fun t => t.sec.rep = 0 ∧ t.sec.winPos = 0 ∧ t.sec.startUp = 1024 ∧ t.sec.st = s.sec.st ∧
        t.sec.failTimes.head? = some (now s) ∧ t = { s with sec := t.sec }) ∧
    ((41 ≤ rep ∨ 800 ≤ cnt) → 2 ≤ (s.sec.failTimes.filter fun x => now s ≤ x + 1000000000).length → s.md.cur = .run → s.rjobs = [] →
      Answers (.noiseSample bit) s fun t => t.sec.st = 2 ∧ t.sec.fail = 0x0C ∧ t.sec.drbgFailed = true ∧ t.sec.sessions = [] ∧ t.sec.waits = [] ∧
        t.co.role = false ∧ t.md.cur = .halt ∧ t.md.haltWhy = 1 ∧ t.vault = s.vault ∧
        t.sent = s.sec.waits.map (fun _ => .spdmError) ++ s.sent)) ∧
  (∀ s, s.sec.drbg = true → s.sec.st ≠ 2 → s.sec.startUp = 0 → (2 ^ 20 ≤ s.sec.drbgReqs ∨ s.sec.drbgSince + 86400000000000 ≤ now s) →
    Answers .drbgReseed s fun t => t = { s with sec := { s.sec with drbgReqs := 0, drbgSince := now s } })

/-! ### Temperature, hold-up, the Vent, power states (chapters 16 to 18) -/

/-- Temperature readings (R378 to R383): each sets the last and the highest reading; the thresholds come into force at their level and leave it below level less hysteresis, the higher ones
bringing the lower with them; kerf and thermal target follow the degrees above the Throttle level. A slow round stores every channel, and puts the dirty
ceiling of its readings in force (R354, R367). -/
def Obligations.TemperatureAndHousekeeping : Prop :=
  (∀ x s, s.therm.fast = true → s.md.cur ≠ .watch → s.clk.edge = true → s.therm.fastAt + 32 ≤ s.clk.ticks → Answers (.fastThermalSample x) s fun t =>
    let sh := thrStep s.therm.shutOn s.therm.shut x.toInt
    let th := thrStep s.therm.throtOn s.therm.throt x.toInt || sh
    let d := (x.toInt - s.therm.throt.level) / 8
    t.therm.last = x.toInt ∧ t.therm.max = max s.therm.max x.toInt ∧ t.therm.shutOn = sh ∧ t.therm.throtOn = th ∧
    t.therm.warnOn = (thrStep s.therm.warnOn s.therm.warn x.toInt || th) ∧
    t.therm.kerf = (if th then min 1000 (25 * max 1 (d + 1).toNat) else 0) ∧
    t.therm.ttarget = (if th then max 100 (s.therm.thrPace - 25 * d.toNat) else 1250) ∧ tget 0 t.hk.ch 0 = x ∧ t.therm.fastAt = s.clk.ticks ∧
    t.nss = s.nss ∧ t.zones = s.zones ∧ t.vault = s.vault) ∧
  (∀ r s, s.md.cur ≠ .watch → s.clk.edge = true → s.hk.roundAt + 1638 ≤ s.clk.ticks → Answers (.housekeepingRound r) s fun t =>
    (∀ c, c < 12 → tget 0 t.hk.ch c = r.ch.getD c 0) ∧ t.hk.rounds = s.hk.rounds + 1 ∧
    t.hk.holdup = ((r.ch.getD 2 0).toNat :: s.hk.holdup).take 4 ∧ t.therm.last = (r.ch.getD 0 0).toInt ∧
    t.hk.roundAt = s.clk.ticks ∧ t.hold.ceil = ceilOf (holdupApply (putReadings r s)) ∧ t.nss = s.nss ∧ t.vault = s.vault) ∧
  (∀ on t x, (t.level ≤ x → thrStep on t x = true) ∧ (x < t.level - t.hyst → thrStep on t x = false) ∧
    (t.level - t.hyst ≤ x → x < t.level → thrStep on t x = on))

/-! ### The sideband and migration events (chapters 19 to 21) -/

/-- The management sideband (R353, R421, R448): Basic Management is answered in every mode with the Replace Request word and the witness byte; the other
requests are answered while the core domain is on, and in WATCH wake the device instead, which asks for the core supply. Nothing else changes. -/
def Obligations.SidebandAnswers : Prop :=
  (∀ s, Answers .nvmeMiBasicManagement s fun t => (∃ b : List Byte, b.length = 8 ∧
    t.sent = .sideband (b ++ leBytes 2 (replaceWord s).toNat ++ leBytes 1 (witnessByte s)) :: s.sent) ∧
    t = { s with sent := t.sent, freeCtr := t.freeCtr }) ∧
  (∀ s, coreOn s = true → Answers .fleetWitnessRead s fun t => t = { s with sent := .sideband (witnessData s) :: s.sent } ∧
    (witnessData s).length = 56) ∧
  (∀ s, coreOn s = true → Answers .sidebandHealthRequest s fun t => (∃ x y : List Byte, x.length = 1 ∧ y.length = 6 ∧
    t.sent = .sideband (x ++ (logSmart s 0).take 1 ++ y) :: s.sent) ∧ t = { s with sent := t.sent, freeCtr := t.freeCtr }) ∧
  (∀ c s, c ∈ [Instr.fleetWitnessRead, .sidebandHealthRequest, .getVersion, .getCapabilities] → coreOn s = false →
    (s.pwr.trans = none → perstLow s = false → Answers c s fun t => t.pwr.wakeSrc = 5 ∧ t.pwr.wakeFrom = 4 ∧
      t.pwr.trans = some ⟨s.pwr.lastOp, true, true, none⟩ ∧ t.pace.avsOut = some 750 ∧
      t = { s with pwr := t.pwr, pace := { s.pace with avsOut := some 750, avsAt := now s } }) ∧
    (s.pwr.trans ≠ none → exec c s = .next s) ∧ (perstLow s = true → exec c s = .next s))

/-- The SPDM responder (R408 to R412): version, capabilities and algorithms; the certificate chain; a signed answer takes its nonce and signature from the DRBG; a key
exchange opens a session with a fresh key, and one whose pair fails its test is the cryptographic error state; requests that draw on the
DRBG wait while it is being instantiated; a heartbeat and a key
update are counted, and an ended session is gone. In the error state each of the later requests is answered with ERROR. -/
def Obligations.SpdmRequests : Prop :=
  (∀ s, coreOn s = true →
    (Answers .getVersion s fun t => t = { s with sec := { s.sec with negotiated := false }, sent := t.sent } ∧ ∃ b, t.sent = .spdm b :: s.sent) ∧
    (Answers .getCapabilities s fun t => ∃ b, t = { s with sent := .spdm b :: s.sent } ∧ (b.drop 8).take 4 = leBytes 4 0x62D6) ∧
    (Answers .negotiateAlgorithms s fun t => t = { s with sec := { s.sec with negotiated := true }, sent := t.sent } ∧
      ∃ b, t.sent = .spdm b :: s.sent)) ∧
  (∀ s, coreOn s = true → s.sec.st ≠ 2 → s.sec.negotiated = true →
    (Answers .getCertificate s fun t =>
      t = { s with sent := .spdm (spdmHead 0x02 0 0 ++ leBytes 2 certChain.length ++ zeros 2 ++ certChain) :: s.sent }) ∧
    (∀ x y c w, (c, w) ∈ [(Instr.challenge x, SpdmWait.challenge), (.getMeasurements x, .measure)] ∨
        (s.sec.sessions.length < 4 ∧ (c, w) = (.keyExchange x y, .exchange y)) → s.sec.startUp ≠ 0 ∨ s.sec.fill ≠ 0 →
      exec c s = .next { s with sec := { s.sec with waits := s.sec.waits ++ [w] } })) ∧
  (∀ s, coreOn s = true → s.sec.st ≠ 2 → s.sec.negotiated = true → s.sec.startUp = 0 → s.sec.fill = 0 →
    (∀ x, Answers (.challenge x) s fun t => (∃ n g : List Byte, n.length = 32 ∧ g.length = 96 ∧
      t.sent = .spdm (spdmHead 0x03 0 1 ++ sha384 certChain ++ n ++ zeros 2 ++ g) :: s.sent) ∧
      t = { s with sec := { s.sec with drbgReqs := s.sec.drbgReqs + 2 }, sent := t.sent, freeCtr := t.freeCtr }) ∧
    (∀ x, Answers (.getMeasurements x) s fun t => (∃ n g : List Byte, n.length = 32 ∧ g.length = 96 ∧
      t.sent = .spdm (spdmHead 0x60 0 0 ++ leBytes 1 7 ++ leBytes 3 (measRecord s).length ++ measRecord s ++ n ++ zeros 2 ++ g) :: s.sent) ∧
      t = { s with sec := { s.sec with drbgReqs := s.sec.drbgReqs + 2 }, sent := t.sent, freeCtr := t.freeCtr }) ∧
    (∀ x, s.sec.sessions.length < 4 → Answers (.keyExchange x true) s fun t => (∃ k : List Byte, k.length = 48 ∧
      t.sec.sessions = s.sec.sessions ++ [{ id := s.sec.sessNext, key := k }]) ∧ t.sec.sessNext = (s.sec.sessNext + 1) % 65536 ∧
      t.sec.st = s.sec.st ∧ (∃ b, t.sent = .spdm b :: s.sent) ∧ t = { s with sec := t.sec, sent := t.sent, freeCtr := t.freeCtr }) ∧
    (∀ x, s.sec.sessions.length < 4 → s.md.cur = .run → s.rjobs = [] → s.sec.waits = [] → Answers (.keyExchange x false) s fun t =>
      t.sec.st = 2 ∧ t.sec.fail = 0x0D ∧ t.sec.sessions = [] ∧
      t.co.role = false ∧ t.md.cur = .halt ∧ t.md.haltWhy = 1 ∧ t.sent = .spdmError :: s.sent)) ∧
  (∀ n s, coreOn s = true → s.sec.st ≠ 2 → sessOpen n s = true →
    (Answers (.heartbeat n) s fun t =>
      t.sec = { s.sec with sessions := s.sec.sessions.map fun x => if x.id = n then { x with beats := x.beats + 1 } else x } ∧
      (∃ b, t.sent = .spdm b :: s.sent) ∧ t = { s with sec := t.sec, sent := t.sent }) ∧
    (Answers (.keyUpdate n) s fun t => (∃ k : List Byte, k.length = 48 ∧
      t.sec = { s.sec with sessions := s.sec.sessions.map fun x => if x.id = n then { x with key := k, updates := x.updates + 1 } else x }) ∧
      (∃ b, t.sent = .spdm b :: s.sent) ∧ t = { s with sec := t.sec, sent := t.sent, freeCtr := t.freeCtr }) ∧
    (Answers (.endSession n) s fun t => t.sec = { s.sec with sessions := s.sec.sessions.filter fun x => x.id ≠ n } ∧
      (∃ b, t.sent = .spdm b :: s.sent) ∧ t = { s with sec := t.sec, sent := t.sent })) ∧
  (∀ s x n p, coreOn s = true → s.sec.st = 2 →
    ∀ c, c ∈ [Instr.getCertificate, .challenge x, .getMeasurements x, .keyExchange x p, .heartbeat n, .keyUpdate n, .endSession n] →
      exec c s = .next { s with sent := .spdmError :: s.sent })

/-! ### Registers and gates (chapters 02, 03, 13, 17, 19) -/

/-- R64: an access to a gated block by anyone is counted; the first is recorded with its direction, source, block and offset; firmware gets a bus error and the sideband an error (R63); while VALID is 1 a later
one changes only the count; clearing VALID sets the count to 0 and lets the next access be recorded. -/
def Obligations.GatedAccesses : Prop :=
  (∀ who w off s, blockGated s off = true → Answers (.gatedBlockAccess who w off) s fun t =>
    t.gat = (if s.gat.valid then { s.gat with count := satInc 0xFFFFFFFF s.gat.count } else
      { valid := true, dir := w, source := reqCode who, block := off / 0x10000 % 512, offset := off % 0x10000 / 4,
        count := satInc 0xFFFFFFFF s.gat.count }) ∧
    t.sent = (match who with | .host => s.sent | .firmware => .busError :: s.sent | .sideband => .sidebandError :: s.sent) ∧
    t = { s with gat := t.gat, sent := t.sent }) ∧
  (∀ s, Answers .gatedAccessClear s fun t => t = { s with gat := { s.gat with valid := false, count := 0 } })

/-- R56: in a tenant's view a snapshot of selector 0001h or 0010h to 0013h returns its value with ERR 0; one of any other selector sets ERR and returns
zeros. -/
def Obligations.TenantSelectors : Prop :=
  ∀ v s, wvServed s (.vf v) = true → let sel := (wvOf s (.vf v)).sel.toNat
    ((sel = 1 ∨ (0x10 ≤ sel ∧ sel ≤ 0x13)) → Answers (.wvSnap (.vf v)) s fun t =>
      (wvOf t (.vf v)).valid = true ∧ (wvOf t (.vf v)).err = false ∧
      (wvOf t (.vf v)).data = BitVec.ofNat 128 (if sel = 1 then now s else ctrSel (ctrOf s (v - 1)) (sel - 0x10))) ∧
    (¬(sel = 1 ∨ (0x10 ≤ sel ∧ sel ≤ 0x13)) → Answers (.wvSnap (.vf v)) s fun t =>
      (wvOf t (.vf v)).valid = true ∧ (wvOf t (.vf v)).err = true ∧ (wvOf t (.vf v)).data = 0 ∧ t = { s with wvVf := t.wvVf })

/-- Registers of the core domain whose write does nothing but store a field: offset, the field's highest bit, and the limits it is held within. -/
def plainRegs : List (Nat × Nat × Nat) :=
  [(0x60010, 9, 0x3FF), (0x70110, 9, 0x3FF), (0x70130, 7, 0xFF), (0x90010, 10, 0x7FF), (0xA000C, 9, 600), (0xA0010, 0, 1),
   (0xA0014, 31, 0xFFFFFFFF), (0xB0000, 9, 0x3FF)]

/-- Register writes (R41 to R48, R52, R63, R67, R199, R207): a write of a plain register through an alias stores the field, at the nearer limit, and changes no other
register; an always-on write is posted, but at a reserved offset discarded; a gated block's write is discarded; a write in the Tenant window of a present VF acts on that VF
alone. The coder reserve and the frame length table cache's size are stored, the latter evicting what no longer fits. -/
def Obligations.RegisterWrites : Prop :=
  (∀ al off hi m v s, (off, hi, m) ∈ plainRegs → topServed s = true → s.md.loaded = true →
    Answers (.registerWrite .control al off v) s fun t =>
      regFld t off hi 0 = min m (fld (aliasWord al (regGet s off) v) hi 0) ∧ (∀ o, o ≠ off → regGet t o = regGet s o) ∧ RegFrame s t ∧
      (off = 0xA000C → 0xA000C ∈ t.pPend)) ∧
  (∀ al off v s, topServed s = true → s.md.loaded = true → 0x30000 ≤ off → off < 0x40000 →
    (aonHas (off - 0x30000) = true → s.aonHeld = [] → s.aonQ.length < 8 →
      exec (.registerWrite .control al off v) s = .next { s with aonQ := s.aonQ ++ [⟨off, al, v⟩] }) ∧
    (aonHas (off - 0x30000) = false → exec (.registerWrite .control al off v) s = .next s)) ∧
  (∀ al off v s, topServed s = true → 0x10000 ≤ off → blockGated s off = true →
    Answers (.registerWrite .control al off v) s fun t => t = { s with gat := t.gat } ∧ t.gat.valid = true ∧
      t.gat.count = satInc 0xFFFFFFFF s.gat.count) ∧
  (∀ al off v s, s.md.cur ≠ .watch → topServed s = false → exec (.registerWrite .control al off v) s = .next s) ∧
  (∀ al off v s, s.md.cur = .watch → blockGated s off = true → Answers (.registerWrite .control al off v) s fun t =>
    t = { s with gat := t.gat } ∧ t.gat.valid = true ∧ t.gat.count = satInc 0xFFFFFFFF s.gat.count) ∧
  (∀ f v s, wvServed s (.vf f) = true → Answers (.registerWrite (.tenant f) .normal 0x8100 v) s fun t =>
    (wvOf t (.vf f)).sel = v.setWidth 16 ∧ (wvOf t (.vf f)).valid = false ∧ (∀ g, g ≠ f → wvOf t (.vf g) = wvOf s (.vf g)) ∧
    t = { s with wvVf := t.wvVf }) ∧
  (∀ f n v s, fnPresent s f = true → n < fnVectors s f → n < 256 → coreOn s = true → bitOf v 0 = true →
    Answers (.registerWrite (.msix f) .normal (16 * n + 12) v) s fun t => n ∉ (fnOf t f).unmasked ∧ t = { s with fns := t.fns }) ∧
  (∀ k al v s, k < 8 → blockGated s (cdcBase k) = false → Answers (.cdcReserveWrite k al v) s fun t =>
    regFld t (cdcBase k) 3 0 = clampN 2 12 (fld (aliasWord al (regGet s (cdcBase k)) v) 3 0) ∧
    regFld t (cdcBase k) 8 8 = fld (aliasWord al (regGet s (cdcBase k)) v) 8 8 ∧
    (∀ o, o ≠ cdcBase k → regGet t o = regGet s o) ∧ RegFrame s t) ∧
  (∀ al v s, blockGated s 0x70000 = false → Answers (.fltcSizeWrite al v) s fun t =>
    regFld t 0x70120 6 0 = clampN 1 64 (fld (aliasWord al (regGet s 0x70120) v) 6 0) ∧
    t.fltc = s.fltc.take (262144 * regFld t 0x70120 6 0) ∧ (∀ o, o ≠ 0x70120 → regGet t o = regGet s o) ∧ RegFrame { s with fltc := t.fltc } t)

/-- Strobes, snapshots and stores (R32, R40, R52 to R57, R67, R90, R366): a pace meter's and the reject count's clear; selecting and taking a snapshot of a wide value; a
slow edge at which the posted writes take effect in their order; storing of the persistent writes; and the capacitance test that the host starts. -/
def Obligations.StrobesAndStores : Prop :=
  (∀ k s, k < 8 → blockGated s (secBase k) = false → Answers (.secPaceClr k) s fun t =>
    (tget {} t.pace.meters k).min = 0x7FF ∧ (tget {} t.pace.meters k).pace = (tget {} s.pace.meters k).pace ∧
    (∀ m, m ≠ k → tget {} t.pace.meters m = tget {} s.pace.meters m) ∧ t = { s with pace := { s.pace with meters := t.pace.meters } }) ∧
  (∀ s, topServed s = true → Answers .topPaceDevClr s fun t =>
    (tget {} t.pace.meters 8).min = 0x7FF ∧ (tget {} t.pace.meters 8).pace = (tget {} s.pace.meters 8).pace ∧
    (∀ m, m ≠ 8 → tget {} t.pace.meters m = tget {} s.pace.meters m) ∧ t = { s with pace := { s.pace with meters := t.pace.meters } }) ∧
  (∀ s, s.md.cur ≠ .watch → Answers .rejClr s fun t => t = { s with mbx := { s.mbx with rejects := 0 } }) ∧
  (∀ view sel s, wvServed s view = true → Answers (.wvSelWrite view sel) s fun t =>
    wvOf t view = { wvOf s view with sel := sel, valid := false, err := false } ∧ t = { s with wvTop := t.wvTop, wvVf := t.wvVf }) ∧
  (∀ s, topServed s = true → let sel := s.wvTop.sel.toNat
    (sel = 1 → Answers (.wvSnap .top) s fun t => t.wvTop.data = BitVec.ofNat 128 (now s) ∧ t.wvTop.valid = true ∧ t.wvTop.err = false ∧
      t.wvTop.seq = s.wvTop.seq + 1 ∧ t.clk.lastRead = now s ∧ t = { s with wvTop := t.wvTop, clk := t.clk }) ∧
    (sel = 2 → Answers (.wvSnap .top) s fun t => t.wvTop.data = s.flt.computed ∧ t.wvTop.valid = true ∧ t = { s with wvTop := t.wvTop }) ∧
    (0x4000 ≤ sel → sel < 0x4800 → (slotOf s (sel - 0x4000)).hwm < 2 ^ 128 → Answers (.wvSnap .top) s fun t =>
      t.wvTop.data.toNat = (slotOf s (sel - 0x4000)).hwm ∧ t.wvTop.valid = true ∧ t = { s with wvTop := t.wvTop }) ∧
    (sel = 4 → Answers (.wvSnap .top) s fun t => t.wvTop.valid = false ∧ t.wvTop.waitEdge = true ∧ t = { s with wvTop := t.wvTop }) ∧
    ((sel = 0 ∨ (4 < sel ∧ sel < 0x1000) ∨ (0x2000 ≤ sel ∧ sel < 0x4000) ∨ 0x4800 ≤ sel) → Answers (.wvSnap .top) s fun t =>
      t.wvTop.err = true ∧ t.wvTop.data = 0 ∧ t = { s with wvTop := t.wvTop })) ∧
  (∀ s a b, s.aonQ = [⟨0x30034, .normal, a⟩, ⟨0x30034, .normal, b⟩] → Answers .aonPostedWrite s fun t =>
    regFld t 0x30034 31 0 = b.toNat ∧ t.aonQ = s.aonHeld.take 8 ∧ t.aonHeld = s.aonHeld.drop 8 ∧
    (s.wvTop.waitEdge = true → t.wvTop.valid = true ∧ t.wvTop.data = BitVec.ofNat 128 s.pwr.wakeTime) ∧
    t = { s with regs := t.regs, aonQ := t.aonQ, aonHeld := t.aonHeld, wvTop := t.wvTop, wvVf := t.wvVf, pPend := t.pPend,
                  hk := { s.hk with copies := t.hk.copies } }) ∧
  (∀ s, pOwed s = true → coreOn s = true →
    (Answers (.pWriteStore true) s fun t => (∀ off ∈ s.pPend, norGet t off = regGet s off) ∧ (∀ off, off ∉ s.pPend → norGet t off = norGet s off) ∧
      t.norCfg = cfgOf s ∧ pOwed t = false ∧ t = { s with nor := t.nor, norCfg := t.norCfg, pPend := [] }) ∧
    (Answers (.pWriteStore false) s fun t => t = { s with psaveFail := true })) ∧
  (∀ s, blockGated s 0x30000 = false → s.aonQ = [] → s.aonHeld = [] → s.hold.testRun = false →
    (s.md.cur = .run → ventTesting s = false → Answers .holdupTestRun s fun t => t.hold.testRun = true ∧ t.pin.holdupTest = true ∧
      t = { s with
        hold := { s.hold with testRun := true, testDue := false }, pin := { s.pin with holdupTest := true }, wvTop := t.wvTop, wvVf := t.wvVf,
        hk := { s.hk with copies := t.hk.copies } }) ∧
    (s.md.cur ≠ .run → Answers .holdupTestRun s fun t => t = { s with
      hold := { s.hold with testDue := true }, wvTop := t.wvTop, wvVf := t.wvVf, hk := { s.hk with copies := t.hk.copies } }))

/-- Gate outcome in the block at `base`: accepted with no code, or the code, bit and register of the check that failed (R60). -/
def GateSays (s t : State) (base bit word code obj : Nat) : Prop :=
  tget {} t.refuse base = ⟨(tget {} s.refuse base).seq + 1, bit, word, code, obj⟩ ∧
  ∀ b, b ≠ base → tget {} t.refuse b = tget {} s.refuse b

/-- The enable gates of the pace loop, the thermal thresholds, the Vent and the DRAM map (R34, R58 to R61, R314, R316, R371, R381, R382, R447): with every check passed the bit is set, what the
gate latches is in force, and the refuse register reads no code; with a check failed the bit stays 0, nothing is latched, and the first
failing check is recorded; with a wrong tag the code is 16h. -/
def Obligations.EnableGates : Prop :=
  (∀ al v s, topServed s = true → bitOf (regGet s 0x10200) 16 = false → bitOf (aliasWord al (regGet s 0x10200) v) 16 = true →
    let w := aliasWord al (regGet s 0x10200) v
    (tagRefuses s = false → aliasWord al (tget 0 s.rsv 0x10200) (v &&& ~~~(rwMask 0x10200)) = 0 → tget 0 s.rsv 0x10204 = 0 → tget 0 s.rsv 0x10208 = 0 →
      100 ≤ regFld s 0x10204 10 0 → regFld s 0x10204 10 0 ≤ 1250 → 600 ≤ regFld s 0x10208 9 0 → regFld s 0x10208 9 0 ≤ 850 →
      1 ≤ fld w 11 8 → fld w 11 8 ≤ 10 → 5 ≤ fld w 7 0 → fld w 7 0 ≤ 200 → Answers (.paceEnable al v) s fun t =>
        regFld t 0x10200 16 16 = 1 ∧ t.pace.target = regFld s 0x10204 10 0 ∧ t.pace.ceil = regFld s 0x10208 9 0 ∧ t.pace.step = fld w 11 8 ∧
        t.pace.hyst = fld w 7 0 ∧ GateSays s t 0x10000 0 0 0 0 ∧
        t = { s with regs := t.regs, rsv := t.rsv, pPend := t.pPend, refuse := t.refuse, pace := t.pace }) ∧
    (tagRefuses s = true → Answers (.paceEnable al v) s fun t =>
      regFld t 0x10200 16 16 = 0 ∧ GateSays s t 0x10000 16 0x80 0x16 0)) ∧
  (∀ al v s, blockGated s 0x30000 = false → s.aonQ = [] → s.aonHeld = [] → bitOf (regGet s 0x3010C) 31 = false →
    bitOf (aliasWord al (regGet s 0x3010C) v) 31 = true → tagRefuses s = false → let u := regWrite s al 0x3010C v
    (thermChecks u = none → Answers (.thermalEnable al v) s fun t =>
      regFld t 0x3010C 31 31 = 1 ∧ t.therm = { s.therm with
        warn := ⟨thrLevel s 0x30100, thrHyst s 0x30100⟩, throt := ⟨thrLevel s 0x30104, thrHyst s 0x30104⟩,
        shut := ⟨thrLevel s 0x30108, thrHyst s 0x30108⟩, thrPace := fld (aliasWord al (regGet s 0x3010C) v) 10 0 } ∧
      GateSays s t 0x30000 0 0 0 0 ∧ t.hold = s.hold ∧ t.pace = s.pace) ∧
    (∀ o b c, thermChecks u = some (o, b, c) → Answers (.thermalEnable al v) s fun t =>
      regFld t 0x3010C 31 31 = 0 ∧ t.therm = s.therm ∧ GateSays s t 0x30000 b ((o - 0x30000) / 4) c 0)) ∧
  (∀ s, thermChecks s = none → let w := thrLevel s 0x30100
    let t := thrLevel s 0x30104
    let h := thrLevel s 0x30108
    400 ≤ w ∧ h ≤ 1000 ∧ w + thrHyst s 0x30104 ≤ t ∧ t + thrHyst s 0x30108 ≤ h ∧ w < t ∧ t < h) ∧
  (∀ al v s, blockGated s 0x30000 = false → s.aonQ = [] → s.aonHeld = [] → bitOf (regGet s 0x30200) 31 = false →
    bitOf (aliasWord al (regGet s 0x30200) v) 31 = true → tagRefuses s = false → let u := regWrite s al 0x30200 v
    (ventTesting s = false → ventChecks u = none → Answers (.ventEnable al v) s fun t =>
      regFld t 0x30200 31 31 = 1 ∧ t.hold = { s.hold with
        deb := fld (aliasWord al (regGet s 0x30200) v) 24 16, warn := regFld s 0x30204 15 0, recover := regFld s 0x30204 31 16 } ∧
      GateSays s t 0x30000 0 0 0 0 ∧ t.therm = s.therm) ∧
    (ventTesting s = true → Answers (.ventEnable al v) s fun t =>
      regFld t 0x30200 31 31 = 0 ∧ t.hold = s.hold ∧ GateSays s t 0x30000 31 0x80 0x10 0) ∧
    (∀ o b c, ventTesting s = false → ventChecks u = some (o, b, c) → Answers (.ventEnable al v) s fun t =>
      regFld t 0x30200 31 31 = 0 ∧ t.hold = s.hold ∧ GateSays s t 0x30000 b ((o - 0x30000) / 4) c 0)) ∧
  (∀ s, ventChecks s = none → 20 ≤ regFld s 0x30200 24 16 ∧ regFld s 0x30200 24 16 ≤ 500 ∧ 1000 ≤ regFld s 0x30204 15 0 ∧
    regFld s 0x30204 15 0 < regFld s 0x30204 31 16 ∧ regFld s 0x30204 31 16 ≤ 16000) ∧
  (∀ al v s, blockGated s 0x80000 = false → bitOf (regGet s 0x80004) 8 = false → bitOf (aliasWord al (regGet s 0x80004) v) 8 = true →
    tagRefuses s = false → let u := regWrite s al 0x80004 v
    (mapChecks u = none → Answers (.dramMapArm al v) s fun t => regFld t 0x80004 8 8 = 1 ∧
      regFld t 0x80004 2 0 = fld (aliasWord al (regGet s 0x80004) v) 2 0 ∧ GateSays s t 0x80000 0 0 0 0 ∧ t.dram = s.dram ∧ t.therm = s.therm) ∧
    (∀ o b c, mapChecks u = some (o, b, c) → Answers (.dramMapArm al v) s fun t => regFld t 0x80004 8 8 = 0 ∧
      GateSays s t 0x80000 b ((o - 0x80000) / 4) c 0 ∧ t.dram = s.dram))

/-- KEYV_SLOT_SEL names a data slot and its owner, all eight words are staged, and nothing bars key entry by the Crypto Officer (R258, R393). -/
def CommitReady (s : State) : Prop :=
  blockGated s 0x40000 = false ∧ tagRefuses s = false ∧ ownsSlot s (selSlot s) = false ∧ keyEntryBarred s = false ∧ s.co.role = true ∧
  selSlot s ≤ 2047 ∧ (selOwner s ≤ 1023 ∨ selOwner s = 0xFFFF) ∧ (slotOf s (selSlot s)).last ≠ 0xFFFFFFFF ∧
  (∀ i, i < 8 → (tget none s.vault.words i).isSome = true) ∧ tget 0 s.rsv 0x40000 = 0

/-- R260: an accepted commit to a Loaded slot, with FORCE or without, makes the new key the current epoch and the former current epoch the previous one; the
former previous epoch is in neither the vault nor its record; the counter starts at 0; ceiling and owner stay. -/
def Obligations.RecommitEpochs : Prop :=
  ∀ (force : Bool) s e, CommitReady s → (slotOf s (selSlot s)).cur = some e → (slotOf s (selSlot s)).owner = selOwner s →
    ((slotOf s (selSlot s)).prev = none ∨ prevReferenced s (selSlot s) = false ∨ force = true) →
    Answers (if force then .keyCommitForce else .keyCommit) s fun t => let sl := slotOf s (selSlot s)
      slotOf t (selSlot s) = { sl with cur := some ⟨sl.last + 1, stagedKey s⟩, prev := some e, last := sl.last + 1, hwm := 0 } ∧
      (∀ k, k ≠ selSlot s → slotOf t k = slotOf s k) ∧ t.vault.recd = wrapKeys t.vault.live ∧ t.vault.nor = wrapKeys t.vault.live ∧
      (slotOf t (selSlot s)).ceiling = sl.ceiling ∧ (slotOf t (selSlot s)).owner = sl.owner

/-- Key entry and the Crypto Officer (R253, R256 to R259, R394 to R396): a select discards the staged words, a word is staged for the slot selected first; a commit to an Empty slot loads it
with an epoch above the last and the zeroize mark; a commit not by the Crypto Officer is refused with code 07h; every commit erases the staged words. A right response takes the role and a wrong one is counted, the
fifth in a row locking for 60 s; SETKEY replaces K_co; LOGOUT ends the role. -/
def Obligations.KeyEntryAndOfficer : Prop :=
  (∀ al v s, blockGated s 0x40000 = false → Answers (.keySlotSelect al v) s fun t =>
    selSlot t = fld (aliasWord al (regGet s 0x40000) v) 11 0 ∧ selOwner t = fld (aliasWord al (regGet s 0x40000) v) 31 16 ∧
    t.vault = { s.vault with staged := none, words := [] } ∧ (∀ o, o ≠ 0x40000 → regGet t o = regGet s o) ∧
    RegFrame { s with vault := t.vault } t) ∧
  (∀ i v s, i < 8 → blockGated s 0x40000 = false → Answers (.keyWordWrite i v) s fun t =>
    tget none t.vault.words i = some v ∧ t.vault.staged = some (s.vault.staged.getD (selSlot s)) ∧
    (∀ k, k ≠ i → tget none t.vault.words k = tget none s.vault.words k) ∧
    t = { s with vault := { s.vault with staged := t.vault.staged, words := t.vault.words } }) ∧
  (∀ s, CommitReady s → (slotOf s (selSlot s)).cur = none → ownerClash s (selSlot s) (selOwner s) = false → Answers .keyCommit s fun t =>
    (slotOf t (selSlot s)).cur.map KeyEp.key = some (stagedKey s) ∧ (slotOf t (selSlot s)).owner = selOwner s ∧
    (slotOf s (selSlot s)).last < (slotOf t (selSlot s)).last ∧ (slotOf s (selSlot s)).zmark ≤ (slotOf t (selSlot s)).last ∧
    (slotOf t (selSlot s)).hwm = 0 ∧ t.vault.staged = none ∧ t.vault.words = [] ∧ t.vault.recd = wrapKeys t.vault.live ∧
    GateSays s t 0x40000 0 0 0 (selSlot s) ∧
    t = { s with vault := t.vault, refuse := t.refuse }) ∧
  (∀ c s, c = .keyCommit ∨ c = .keyCommitForce → blockGated s 0x40000 = false → tagRefuses s = false → ownsSlot s (selSlot s) = false →
    (keyEntryBarred s = true ∨ s.co.role = false) → Answers c s fun t => GateSays s t 0x40000 0 0x10 7 (selSlot s) ∧
      t = { s with vault := { s.vault with staged := none, words := [] }, refuse := t.refuse }) ∧
  (∀ s k, coIgnored s = false → s.vault.live.co = some k →
    (coResp s = coExpected k s.co.count → Answers .coSubmit s fun t =>
      t = { s with co := { s.co with role := true, fails := 0, count := s.co.count + 1, resp := [] } }) ∧
    (coResp s ≠ coExpected k s.co.count → Answers .coSubmit s fun t => t.co.role = s.co.role ∧ t.co.count = s.co.count + 1 ∧ t.co.resp = [] ∧
      t.co.fails = satInc 5 s.co.fails ∧ (4 ≤ s.co.fails → s.co.fails ≤ 5 → t.co.lockedUntil = some (now s + 60000000000)) ∧ t = { s with co := t.co })) ∧
  (∀ s, coIgnored s = true → exec .coSubmit s = .next s ∧ exec .coSetkey s = .next s) ∧
  (∀ s, coIgnored s = false → (s.vault.live.co = none ∨ s.co.role = true) → Answers .coSetkey s fun t =>
    t.vault.live.co = some (coResp s) ∧ t.vault.recd.co = some (wrapKey (coResp s)) ∧ t.vault.nor.co = some (wrapKey (coResp s)) ∧ t.co.role = true ∧ t.co.count = s.co.count + 1 ∧ t.co.resp = [] ∧
    t.vault.live.slots = s.vault.live.slots ∧ t = { s with vault := t.vault, co := t.co }) ∧
  (∀ s, (topServed s = true → exec .coLogout s = .next { s with co := { s.co with role := false } }) ∧
    (topServed s = false → exec .coLogout s = .next s))

/-! ### The mailbox (chapter 05) -/

/-- The doorbell (R89 to R93, R97, R447): an accepted command is BUSY with SEQ one higher and no result, latched from the registers that the issue wrote; while one runs every
write is counted and ignored; an opcode not in the catalogue, reserved bits, a wrong tag and the mode are refused in that order, with MBX_CMD or ARG_15
named; the end sets STATE, CODE and the results, and with NOTIFY sends PF vector 0, but for one that a reset left disabled (R99); a paused command
keeps its end for after the Vent. -/
def Obligations.MailboxProtocol : Prop :=
  (∀ opc r met test s, let a := mbxAccept opc r met test s
    a.mbx.st = .busy ∧ a.mbx.seq = s.mbx.seq + 1 ∧ a.mbx.code = 0 ∧ a.mbx.results = [] ∧ a.mbx.progress = 0 ∧ a.mbx.long = mbxLong opc ∧
    (∃ m, a.mbx.run = some m ∧ m.opc = opc ∧ m.notify = r.notify ∧ m.met = met ∧ m.test = test ∧ m.start = now s ∧
      (∀ i, i < 16 → m.args.getD i 0 = regGet a (0x20010 + 4 * i)) ∧ (∀ i v, i < 16 → r.args[i]? = some v → m.args.getD i 0 = v) ∧
      (∀ i, i < 16 → r.args.length ≤ i → m.args.getD i 0 = regGet s (0x20010 + 4 * i))) ∧
    a = { s with regs := a.regs, rsv := a.rsv, mbx := a.mbx } ∧ ∀ o, o < 0x20000 ∨ 0x20058 < o → regGet a o = regGet s o) ∧
  (∀ opc r met test body s, mbxReached s = true → s.md.cur ≠ .watch → s.mbx.st = .busy →
    ring opc r met test body s = { s with mbx := { s.mbx with rejects := satAdd 0xFFFFFFFF s.mbx.rejects ((reqWrites opc r).length + 1) } }) ∧
  (∀ (opc : BitVec 16) r s, mbxReached s = true → s.md.cur ≠ .watch → s.mbx.st ≠ .busy →
    let a := mbxAccept opc.toNat r [] none s
    (r.rsvd ≠ 0 → exec (.undefinedMailboxOpcode opc r) s = .next (mbxFail 2 0x11 0 a)) ∧
    (r.rsvd = 0 → mbxDefined opc.toNat = false → exec (.undefinedMailboxOpcode opc r) s = .next (mbxFail 1 0x11 0 a)) ∧
    (r.rsvd = 0 → mbxDefined opc.toNat = true → r.epoch = true → ∀ m, a.mbx.run = some m → m.args.getD 15 0 ≠ s.flt.epoch →
      ring opc.toNat r [] none mbxBody s = mbxFail 0x16 15 0 a) ∧
    (∀ code, r.rsvd = 0 → mbxDefined opc.toNat = true → r.epoch = false → modeRefuses s opc.toNat = some code →
      ring opc.toNat r [] none mbxBody s = mbxFail code 0x11 0 a)) ∧
  (∀ res u r, u.mbx.run = some r → u.mbx.long = false → r.paused = false →
    let d : State := { u with mbx := { u.mbx with
      st := .done, code := 0, run := none, progress := 1000, results := res.foldl (fun t x => tset 0 t x.1 x.2) [] } }
    mbxDone res u = if r.notify ∧ (0 ∈ (fnOf u 0).unmasked ∨ (fnOf u 0).msixOn) then msiOwe 0 0 false d else d) ∧
  (∀ res c x o u r, u.mbx.run = some r → r.paused = true →
    mbxDone res u = { u with mbx := { u.mbx with run := some { r with fin := some res } } } ∧
    mbxFail c x o u = { u with mbx := { u.mbx with run := some { r with finErr := some (c, x, o) } } }) ∧
  (∀ c x o u r, u.mbx.run = some r → u.mbx.long = false → r.paused = false →
    let d : State := { u with mbx := { u.mbx with st := .error, code := c, run := none, results := tset 0 (tset 0 [] 0 (w32 x)) 1 (w32 o) } }
    mbxFail c x o u = if r.notify ∧ (0 ∈ (fnOf u 0).unmasked ∨ (fnOf u 0).msixOn) then msiOwe 0 0 false d else d)

/-- The device and tenant commands of the mailbox.

Device commands (R136, R145, R172, R413): identify data, the state words, a piece of a slot, the slots' versions, and an activation at the next START, without reset, or with reset.

Tenant commands (R102 to R106, R117, R118, R440, R470): created, configured within the pools, given a share for the next epoch, enabled, reset, disabled and destroyed; each with the state it asks for. A destroy waits while a job carries the generation that it steps to (R122). -/
def Obligations.DeviceAndTenantMailbox : Prop :=
  ((∀ r s a m, Issued 0x0101 r [] none s a m → BufOk m 4096 0x4000000 →
     exec (.devIdentify r) s = .next (mbxDone [(0, topId)] (emit (.mbxBuf (identCtrl a 0)) a))) ∧
   (∀ r s a m, Issued 0x0102 r [] none s a m → exec (.devState r) s = .next (mbxDone [(0, topMode a), (1, topBoot a), (2, topResetLast a)] a)) ∧
   (∀ r s a m, Issued 0x0103 r [] none s a m → BufOk m 1 0x1000000 → argN m 0 ≤ 3 → argN m 0 ≠ s.fw.active → argN m 1 % 4096 = 0 →
     argN m 1 + bufLen m ≤ 0x1000000 → exec (.fwWriteSlot r) s = .next (mbxDone [(0, w32 (bufLen m))]
       (putSlot (argN m 0) (slotImg (slotBytes a (argN m 0) (argN m 1) (bufBytes m (bufLen m)))) a))) ∧
   (∀ r s a m, Issued 0x0104 r [] none s a m → exec (.fwSlotQuery r) s = .next (mbxDone
     [(0, w32 s.fw.active), (1, slotVer s 0), (2, slotVer s 1), (3, slotVer s 2), (4, slotVer s 3), (5, s.fw.recovery.version), (6, w32 s.fw.fused)] a)) ∧
   (∀ r s a m i, Issued 0x0105 r [] none s a m → argN m 0 ≤ 3 → tget none s.fw.slots (argN m 0) = some i → imgOk s i = true →
     (argN m 1 = 0 → exec (.fwActivate r) s = .next (mbxDone [(0, w32 (argN m 0))] (setActive (argN m 0) a))) ∧
     (argN m 1 = 1 → i.needsReset = false → exec (.fwActivate r) s = .next (actBegin (argN m 0) true none a)) ∧
     (argN m 1 = 2 → exec (.fwActivate r) s = .next (actReset (argN m 0) true (mbxDone [(0, w32 (argN m 0))] a))))) ∧
  ((∀ r s a m, Issued 0x0201 r [] none s a m → argN m 0 ≤ 1023 → fnPresent s (argN m 0 + 1) = true → (tnOf s (argN m 0)).st = .none →
     exec (.tenantCreate r) s = .next (mbxDone [(0, w32 (genOf s (argN m 0 + 1)).toNat)]
       (modCtr (argN m 0) (fun _ => {}) (modTn (argN m 0) (fun _ => { ({} : Tenant) with st := .created }) a)))) ∧
   (∀ r s a m, Issued 0x0202 r [] none s a m → argN m 0 ≤ 1023 → 1 ≤ argN m 1 → argN m 1 ≤ 64 → 2 ≤ argN m 2 → argN m 2 ≤ 65 →
     ((tnOf s (argN m 0)).st = .created ∨ (tnOf s (argN m 0)).st = .configured) →
     othersQp s (argN m 0) + ((fnOf s 0).numQ.getD 0) + argN m 1 ≤ 4096 → othersVec s (argN m 0) + argN m 2 ≤ 32768 →
     exec (.tenantConfigure r) s =
       .next (mbxDone [] (modTn (argN m 0) (fun n => { n with st := .configured, qp := argN m 1, vec := argN m 2 }) a))) ∧
   (∀ r s a m, Issued 0x0203 r [] none s a m → argN m 0 ≤ 1023 → argN m 1 ≤ 10000 → 1 ≤ argN m 2 → argN m 2 ≤ 255 → argN m 1 ≤ argN m 3 →
     argN m 3 ≤ 10000 → argN m 4 ≤ 65535 → argN m 5 ≤ 65535 → (tnOf s (argN m 0)).st ≠ .none → (tnOf s (argN m 0)).st ≠ .frozen →
     (argN m 1 + othersMin s (argN m 0) ≤ 10000 → exec (.tenantSetShare r) s = .next (mbxDone [] (modTn (argN m 0)
       (fun n => { n with stored := ⟨argN m 1, argN m 2, argN m 3, argN m 4, argN m 5⟩, pend := true }) a))) ∧
     (10000 < argN m 1 + othersMin s (argN m 0) → exec (.tenantSetShare r) s = .next (mbxFail 0x0B 1 (argN m 0) a))) ∧
   (∀ r s a m, Issued 0x0204 r [] none s a m → argN m 0 ≤ 1023 →
     (argN m 1 = 1 → (tnOf s (argN m 0)).st = .configured → (∀ e ∈ tenantNss s (argN m 0), nsKeyless s e.2 = false) →
       ctxNeed s (argN m 0) ≤ ctxFree s → exec (.tenantEnable r) s = .next (mbxDone [(0, w32 (genOf s (argN m 0 + 1)).toNat)]
         (lateReady (argN m 0 + 1) (modTn (argN m 0) (fun n => { n with st := .enabled }) a)))) ∧
     (argN m 1 = 0 → (tnOf s (argN m 0)).st = .enabled → exec (.tenantEnable r) s = .next (vfReset 8 (argN m 0 + 1) a))) ∧
   (∀ r s a m, Issued 0x0205 r [] none s a m → argN m 0 ≤ 1023 → (tnOf s (argN m 0)).st = .enabled →
     exec (.tenantReset r) s = .next (vfReset 8 (argN m 0 + 1) a)) ∧
   (∀ r s a m, Issued 0x0206 r [] none s a m → argN m 0 ≤ 1023 → ((tnOf s (argN m 0)).st = .created ∨ (tnOf s (argN m 0)).st = .configured) →
     tenantNss s (argN m 0) = [] → (∀ e ∈ s.vault.live.slots, e.2.cur.isSome = true → e.2.owner ≠ argN m 0) →
     (genInUse s (argN m 0 + 1) (genOf s (argN m 0 + 1) + 1) = false → Answers (.tenantDestroy r) s fun t =>
       let u := genStep (argN m 0 + 1) (modTn (argN m 0) (fun _ => {}) (modCont (argN m 0) (fun _ => {}) a))
       t = mbxStop .done 0 [] { u with mig := { u.mig with dlog := tset {} u.mig.dlog (argN m 0) {} } }) ∧
     (genInUse s (argN m 0 + 1) (genOf s (argN m 0 + 1) + 1) = true →
       exec (.tenantDestroy r) s = .next (modFn (argN m 0 + 1) (fun fn => { fn with waitRst := some destroyKind }) a))) ∧
   (∀ r s a m, Issued 0x0207 r [] none s a m → argN m 0 ≤ 1023 → let n := tnOf s (argN m 0)
     exec (.tenantQuery r) s = .next (mbxDone [(0, w32 (tstCode n.st)), (1, w32 (genOf s (argN m 0 + 1)).toNat),
       (2, word [(16, n.vec), (0, n.qp)]), (3, shareWord n.stored), (4, capsWord n.stored), (5, w32 n.stored.budget)] a)))

/-- Namespace and profile commands (R25, R104, R134, R143, R178 to R180, R202): a namespace is created within the raw capacity, deleted with its data, attached and detached with a notice to
its function; a profile is written, enabled after its checks, disabled while no zone is bound to it, and attached to a namespace at a free hint. -/
def Obligations.NamespaceMailbox : Prop :=
  (∀ r s a m, Issued 0x0301 r [] none s a m → 1 ≤ argN m 0 → argN m 0 ≤ 4096 → argN m 1 ≤ 1 → (argN m 1 = 1 → argN m 2 ≤ 4) → argN m 3 ≠ 0 →
    nsOf s (argN m 0) = none →
    let n : Ns := { zoned := argN m 1 = 1, zcode := if argN m 1 = 1 then argN m 2 else 0, size := argN m 3 }
    nssBytes s (fun _ => true) + nsBytes n ≤ rawBytes s →
    (n.zoned = false → 100 * (nssBytes s (fun x => !x.zoned) + nsBytes n) ≤ rawBytes s) →
    exec (.nsCreate r) s = .next (mbxDone [(0, w32 (nsBlocks n)), (1, w32 (nsBlocks n / 2 ^ 32))] (setNs (argN m 0) (some n) a))) ∧
  (∀ r s a m n, Issued 0x0302 r [] none s a m → 1 ≤ argN m 0 → argN m 0 ≤ 4096 → nsOf s (argN m 0) = some n → n.owner = none →
    (∀ e ∈ s.locks, e.2.defined = true → e.2.ns ≠ argN m 0) →
    exec (.nsDelete r) s = .next (mbxDone [] (witness (nsDrop (argN m 0) a)))) ∧
  (∀ r s a m n, Issued 0x0303 r [] none s a m → 1 ≤ argN m 0 → argN m 0 ≤ 4096 → (argN m 1 ≤ 1023 ∨ argN m 1 = 0xFFFF) →
    nsOf s (argN m 0) = some n → n.owner = none →
    (argN m 1 ≠ 0xFFFF → (tnOf s (argN m 1)).st ≠ .none ∧ (tnOf s (argN m 1)).st ≠ .frozen ∧
      ((tnOf s (argN m 1)).st = .enabled → 0 < ctxFree s)) → r25Fails s n (argN m 1) = false →
    exec (.nsAttach r) s = .next (mbxDone [] (nsNotice (argN m 0) (ownerFn (argN m 1))
      (setNs (argN m 0) (some { n with owner := some (argN m 1) }) a)))) ∧
  (∀ r s a m n o, Issued 0x0304 r [] none s a m → 1 ≤ argN m 0 → argN m 0 ≤ 4096 → nsOf s (argN m 0) = some n → n.owner = some o →
    ownerEnabled s o = false → (o = 0xFFFF ∨ (tnOf s o).st ≠ .frozen) →
    exec (.nsDetach r) s = .next (mbxDone [] (nsNotice (argN m 0) (ownerFn o) (setNs (argN m 0) (some { n with owner := none }) a)))) ∧
  (∀ r s a m, Issued 0x0305 r [] none s a m → BufOk m 256 0x4000000 → argN m 0 ≤ 1023 → (profOf s (argN m 0)).enabled = false →
    exec (.profileWrite r) s = .next (mbxDone [] (modProf (argN m 0) (fun x => { x with desc := bufBytes m 256 }) a))) ∧
  (∀ r s a m, Issued 0x0306 r [] none s a m → argN m 0 ≤ 1023 → let p := profOf s (argN m 0)
    (argN m 1 = 1 → p.enabled = false → firstM (enableChecks s (argN m 0) p) = none → exec (.profileEnable r) s =
      .next (mbxDone [] (lunCheck (spareCheck (witness (modProf (argN m 0) (fun x => { x with enabled := true }) a)))))) ∧
    (argN m 1 = 0 → p.enabled = true → boundOf s (argN m 0) = 0 → exec (.profileEnable r) s =
      .next (mbxDone [] (lunCheck (spareCheck (witness (modProf (argN m 0) (fun x => { x with enabled := false }) a)))))) ∧
    (argN m 1 = 0 → p.enabled = true → 0 < boundOf s (argN m 0) → exec (.profileEnable r) s = .next (mbxFail 4 0 (argN m 0) a))) ∧
  (∀ r s a m n, Issued 0x0307 r [] none s a m → argN m 0 ≤ 1023 → 1 ≤ argN m 1 → argN m 1 ≤ 4096 → argN m 2 ≤ 63 →
    (profOf s (argN m 0)).enabled = true → nsOf s (argN m 1) = some n → hintProf n (argN m 2) = none → n.hints.length < 64 →
    (∀ k o, profSlot (profOf s (argN m 0)) = some k → (slotOf s k).cur.isSome = true → n.owner = some o → o = (slotOf s k).owner) →
    exec (.profileAttach r) s =
      .next (mbxDone [] (witness (setNs (argN m 1) (some { n with hints := n.hints ++ [(argN m 2, argN m 0)] }) a))))

/-- Keys, locks and sanitize (R253, R258, R265, R267, R269, R305 to R308, R471): a wrapped key is unwrapped and loaded by the Crypto Officer; a slot, or every slot, is emptied with its record durable; a ceiling above
the counter is set; a lock range is defined, locked, unlocked with its password, and a wrong password costs one attempt; a sanitize begins. -/
def Obligations.KeyAndLockMailbox : Prop :=
  (∀ r s a m key, Issued 0x0401 r [] none s a m → BufOk m 40 0x4000000 → keyEntryBarred s = false → s.co.role = true → argN m 0 ≤ 2047 →
    slotCheck s (argN m 0) (argN m 1) m.force = 0 → s.vault.live.kek.isSome = true → unwrapKey s (bufBytes m 40) 32 = some key →
    exec (.keyLoadWrapped r) s = .next (let u := loadKey (argN m 0) (argN m 1) key a
      mbxDone [(0, w32 (((slotOf u (argN m 0)).cur.map KeyEp.epoch).getD 0))] u)) ∧
  (∀ r s a m, Issued 0x0402 r [] none s a m → argN m 0 ≤ 2047 → exec (.keyZeroizeSlot r) s = .next (
    let u := zeroizeSlots (fun i => i = argN m 0) a
    mbxDone [] (recordAs (fun k => { k with slots := tset {} k.slots (argN m 0) (wrapSlot (slotOf u (argN m 0))) }) u)) ∧
    (slotOf (zeroizeSlots (fun i => i = argN m 0) a) (argN m 0)).cur = none ∧ (slotOf (zeroizeSlots (fun i => i = argN m 0) a) (argN m 0)).prev = none) ∧
  (∀ r s a m, Issued 0x0403 r [] none s a m → exec (.keyZeroizeAll r) s = .next (let u := zeroizeAll a
    mbxDone [] (recordAs (fun k => { k with slots := (wrapKeys u.vault.live).slots, kek := none, mig := none }) u))) ∧
  (∀ r s a m, Issued 0x0404 r [] none s a m → argN m 0 ≤ 2047 → 1 ≤ arg64 m 1 → arg64 m 1 ≤ 2 ^ 48 → (slotOf s (argN m 0)).cur.isSome = true →
    (slotOf s (argN m 0)).hwm < arg64 m 1 → exec (.keySetCeiling r) s =
      .next (mbxDone [] (recordVault (modSlot (argN m 0) (fun x => { x with ceiling := arg64 m 1 }) a)))) ∧
  (∀ r s a m, Issued 0x0405 r [] none s a m → argN m 0 ≤ 255 → (lockOf s (argN m 0)).locked = false →
    (arg64 m 4 = 0 → exec (.lockDefine r) s = .next (mbxDone [] (witness (setLock (argN m 0) {} a)))) ∧
    (∀ n, BufOk m 64 0x4000000 → 1 ≤ argN m 1 → argN m 1 ≤ 4096 → nsOf s (argN m 1) = some n → 0 < arg64 m 4 → arg64 m 2 % 16 = 0 → arg64 m 4 % 16 = 0 →
      arg64 m 2 + arg64 m 4 ≤ nsBlocks n →
      (∀ e ∈ s.locks, e.1 ≠ argN m 0 → e.2.defined = true → e.2.ns = argN m 1 → meets e.2.start e.2.len (arg64 m 2) (arg64 m 4) = false) →
      exec (.lockDefine r) s = .next (mbxDone [] (witness (setLock (argN m 0)
        ⟨argN m 1, arg64 m 2, arg64 m 4, (bufBytes m 64).take 16, (bufBytes m 64).drop 16, true, false, 0, 5⟩ a))))) ∧
  (∀ r s a m, Issued 0x0406 r [] none s a m → argN m 0 ≤ 255 → let l := lockOf s (argN m 0)
    l.defined = true →
    (argN m 1 = 1 → (∀ c ∈ s.cmds, cmdTouches s l c = false) → exec (.lockSet r) s =
      .next (mbxDone [(2, w32 l.attempts)] (setLock (argN m 0) { l with locked := true, since := if l.locked then l.since else s.nextOrd } a))) ∧
    (argN m 1 = 0 → BufOk m 1 64 → 0 < l.attempts → sha384 (l.salt ++ bufBytes m (bufLen m)) = l.verifier →
      (∀ c ∈ s.cmds, cmdTouches s l c = false) → exec (.lockSet r) s =
      .next (mbxDone [(2, 5)] (setLock (argN m 0) { l with locked := false, attempts := 5 } a))) ∧
    (argN m 1 = 0 → BufOk m 1 64 → 0 < l.attempts → sha384 (l.salt ++ bufBytes m (bufLen m)) ≠ l.verifier → exec (.lockSet r) s =
      .next (mbxStop .error 7 [(0, 0x10), (1, w32 (argN m 0)), (2, w32 (l.attempts - 1))]
        (setLock (argN m 0) { l with attempts := l.attempts - 1 } a))) ∧
    (argN m 1 = 0 → BufOk m 1 64 → l.attempts = 0 → exec (.lockSet r) s =
      .next (mbxStop .error 7 [(0, 0), (1, w32 (argN m 0)), (2, 0)] a))) ∧
  (∀ r s a m, Issued 0x0407 r [] none s a m → (argN m 0 = 1 ∨ argN m 0 = 2) →
    (argN m 1 = 0xFFFFFFFF ∨ (1 ≤ argN m 1 ∧ argN m 1 ≤ 4096 ∧ (nsOf s (argN m 1)).isSome = true)) →
    (∀ e ∈ s.nss, sanHits (argN m 1) e.1 = true → ∀ n o, e.2 = some n → n.owner = some o → ownerEnabled s o = false) →
    exec (.sanitize r) s = .next (sanStart (argN m 0) (argN m 1) a))

/-- Power, memory and fleet (R325, R340, R343 to R345, R348, R356, R364, R367, R377, R442, R445): a power state is requested, and a transition to it
begins at once where none runs; the hold-up values are in force with the next slow round, which ends the command; a Vent test isolates the bank and
queues an operation on every LUN in use; WATCH's period, mask and limits are taken; a
scrub and a rank migration stay BUSY until they end; a repair is added after its rows are copied, the 64th raising cause 2; the fleet values and the
migration key are stored. -/
def Obligations.PowerMemoryAndFleet : Prop :=
  (∀ r s a m, Issued 0x0501 r [] none s a m → argN m 0 ≤ 4 → exec (.powerStateSet r) s = .next (psRequest (argN m 0) (some .mbx) a) ∧
    (s.pwr.trans = none → s.pwr.waiters = [] →
      (argN m 0 < 3 → s.pwr.cur < 3 → argN m 0 ≠ s.pwr.cur → exec (.powerStateSet r) s = .next { a with pwr := { s.pwr with
        pend := 7, trans := some ⟨argN m 0, true, false, some .mbx⟩ } }) ∧
      (argN m 0 = s.pwr.cur → exec (.powerStateSet r) s = .next (mbxDone [(0, w32 s.pwr.cur)] { a with pwr := { s.pwr with
        pend := 7, wakeReq := none } })))) ∧
  (∀ r s a m, Issued 0x0502 r [] none s a m → argN m 0 ≤ 65535 → argN m 1 ≤ 16000 →
    dDump s ≤ ceilOf { s with hold := { s.hold with cap := argN m 0, vmin := argN m 1 } } * 2 ^ 20 →
    exec (.holdupSet r) s = .next { a with hold := { a.hold with waitHoldup := true } }) ∧
  (∀ x s r, s.mbx.run = some r → r.opc = 0x0502 → r.paused = false → s.hold.waitHoldup = true → s.md.cur = .run → s.clk.edge = true →
    s.hk.roundAt + 1638 ≤ s.clk.ticks → Answers (.housekeepingRound x) s fun t =>
      t.hold.cap = argN r 0 ∧ t.hold.vmin = argN r 1 ∧ t.hold.waitHoldup = false ∧ t.mbx.run = none ∧ t.mbx.st = .done ∧
      tget 0 t.mbx.results 0 = w32 t.hold.ceil ∧ t.nss = s.nss ∧ t.vault = s.vault) ∧
  (∀ r s a m, Issued 0x0503 r [] none s a m → 1 ≤ argN m 0 → argN m 0 ≤ 4096 → s.pwr.cur = 0 → ventTestTooMuch s (argN m 0) = false →
    goodLuns s ≠ [] → Answers (.ventTest r) s fun t => t.pin.holdupIso = true ∧ t.mbx.st = .busy ∧
      t.hold.testMib = argN m 0 ∧ t.hold.testRun = false ∧ (s.hold.testRun = true → t.pin.holdupTest = false ∧ t.hold.testDue = true) ∧
      t.ops = s.ops ++ (goodLuns s).map (fun l => newOp .ventTest (.lun l) .urgent (now s) 0 (genOf s 0) s) ∧
      t = { s with
        regs := t.regs, rsv := t.rsv, mbx := t.mbx, pin := { s.pin with holdupIso := true, holdupTest := t.pin.holdupTest }, ops := t.ops,
        hold := { s.hold with testMib := argN m 0, testRun := false, testDue := t.hold.testDue } }) ∧
  (∀ r s a m, Issued 0x0504 r [] none s a m → 10 ≤ argN m 0 → argN m 0 ≤ 60000 → argN m 1 ≤ 4095 → (argN m 1).testBit 4 = false →
    (∀ c, c < 12 → chVal c (wakeRegs s c).1 ≤ chVal c (wakeRegs s c).2) → Answers (.watchConfig r) s fun t =>
      t = mbxDone [] { a with pwr := t.pwr } ∧ t.pwr.watchPeriod = argN m 0 ∧ t.pwr.watchMask = BitVec.ofNat 12 (argN m 1) ∧
      (∀ c, c < 12 → tget (thrDflt c) t.pwr.thr c = wakeRegs s c) ∧ t.pwr.cur = s.pwr.cur ∧ t.pwr.trans = s.pwr.trans) ∧
  (∀ r met s a m, Issued 0x0601 r met none s a m → argN m 0 ≤ argN m 1 → argN m 1 ≤ 1151 → argN m 2 ≤ 1 →
    exec (.scrub r met) s = .next (scrubStart m a) ∧
    (met = [] → exec (.scrub r met) s = .next { a with sram := { s.sram with scan := argN m 0, scanAt := now s, scanCe := 0, scanUe := 0 } })) ∧
  (∀ r s a m, Issued 0x0602 r [] none s a m → argN m 0 ≤ 3 → argN m 1 ≤ 3 → (rankOf s (4 * argN m 0 + argN m 1)).st = 1 →
    freeSpare s (argN m 0) = true → exec (.rankMigrate r) s = .next (retireRank (4 * argN m 0 + argN m 1) 4 a)) ∧
  (∀ r s a m, Issued 0x0603 r [] none s a m → argN m 0 ≤ 1151 → ((argN m 1 = 0 ∧ argN m 2 ≤ 4095) ∨ (argN m 1 = 1 ∧ argN m 2 ≤ 296)) →
    let e : Repair := ⟨argN m 0, argN m 1 = 1, argN m 2⟩
    e ∉ s.sram.repairs → s.sram.repairs.length < 64 →
    let u := repairCopy e a
    let v : State := { u with sram := { u.sram with repairs := s.sram.repairs ++ [e] } }
    exec (.repairAdd r) s = .next (mbxDone [(0, w32 (s.sram.repairs.length + 1))] (if s.sram.repairs.length = 63 then causeOn 2 v else v))) ∧
  (∀ e k s, (e.col = false → rowCheck (tget 0 (repairRow e k s).sram.cells k) = .clean) ∧
    (∀ i, i ≠ k → tget 0 (repairRow e k s).sram.cells i = tget 0 s.sram.cells i) ∧ repairRow e k s = { s with sram := (repairRow e k s).sram }) ∧
  (∀ r s a m, Issued 0x0701 r [] none s a m → argN m 2 ≤ 16383 → exec (.fleetSetId r) s =
    .next (mbxDone [] { a with flt := { a.flt with sysid := BitVec.ofNat 64 (arg64 m 0), member := argN m 2 } })) ∧
  (∀ r s a m, Issued 0x0702 r [] none s a m → Answers (.fleetSetExpected r) s fun t =>
    t.flt.expected = BitVec.ofNat 128 (arg64 m 0 + 2 ^ 64 * arg64 m 2) ∧ t.flt.epoch = w32 (argN m 4) ∧ t.flt.expValid = true ∧
    t.flt.computed = witnessMark { s with flt := { s.flt with epoch := w32 (argN m 4) } } ∧ t.flt.seq = s.flt.seq + 1 ∧
    t.mbx.st = .done ∧ tget 0 t.mbx.results 0 = w32 (b2n (t.flt.computed = t.flt.expected)) ∧ t.nss = s.nss) ∧
  (∀ r s a m key, Issued 0x0703 r [] none s a m → BufOk m 56 0x4000000 → keyEntryBarred s = false → s.co.role = true →
    s.vault.live.kek.isSome = true → unwrapKey s (bufBytes m 56) 48 = some key → exec (.fleetLoadMigrationKey r) s =
      .next (mbxDone [] (recordVault { a with vault := { a.vault with live := { a.vault.live with mig := some key } } })))

/-- The migration, log and self-test commands of the mailbox, and the events that end a freeze and a scrub.

Migration, logs and self-tests (R401, R427 to R440): a freeze begins and stays BUSY; a save writes the blob and changes nothing of the tenant; a restore takes the blob's tenant whole; a thaw enables again; a dirty log starts, stops, and
gives its count at a harvest; a log page is read; the self-tests run.

The end of a freeze and of a scrub (R341, R427, R428): with every command of the tenant decided it is Frozen and RESULT_0 counts them; 450 ms after the doorbell the
commands left are decided by abort and counted; a scrub ends with the summary of its range. -/
def Obligations.MigrationAndLogs : Prop :=
  ((∀ r s a m, Issued 0x0801 r [] none s a m → argN m 0 ≤ 1023 → (tnOf s (argN m 0)).st = .enabled →
     exec (.tenantFreeze r) s = .next { a with mig := { a.mig with
       freeze := some (argN m 0), frzStart := now s, drained := 0, aborted := tset 0 a.mig.aborted (argN m 0) 0 } }) ∧
   (∀ r s a m key, Issued 0x0802 r [] none s a m → BufOk m 65536 0x4000000 → argN m 0 ≤ 1023 → (tnOf s (argN m 0)).st = .frozen →
     (tenantNss s (argN m 0)).length ≤ 512 → s.vault.live.mig = some key → Answers (.tenantSave r) s fun t =>
       let u : State := { a with mig := { a.mig with saveSeq := a.mig.saveSeq + 1 } }
       t = mbxDone [(0, w32 (blobOf u (argN m 0) key).length)] (emit (.mbxBuf (blobOf u (argN m 0) key)) u)) ∧
   (∀ r s a m, Issued 0x0803 r [] none s a m → BufOk m 0 0x4000000 → argN m 0 ≤ 1023 →
     firstM (restoreChecks s (argN m 0) (bufBytes m (bufLen m)) (bufLen m)) = none →
     exec (.tenantRestore r) s = .next (restoreDo (argN m 0) (bufBytes m (bufLen m)) a)) ∧
   (∀ t b s, (tnOf (restoreDo t b s) t).st = .frozen ∧ (tnOf (restoreDo t b s) t).qp = blobNq b ∧
     ∀ k, k ≠ t → tnOf (restoreDo t b s) k = tnOf s k) ∧
   (∀ r s a m, Issued 0x0804 r [] none s a m → argN m 0 ≤ 1023 → (tnOf s (argN m 0)).st = .frozen →
     exec (.tenantThaw r) s = .next (mbxDone [] (thaw (argN m 0) a)) ∧ (tnOf (thaw (argN m 0) a) (argN m 0)).st = .enabled) ∧
   (∀ r s a m, Issued 0x0805 r [] none s a m → argN m 0 ≤ 1023 → let d := dlogOf s (argN m 0)
     ((argN m 1 = 1 ∨ argN m 1 = 2) → d.on = false → BufOk m 1 0x4000000 → bufLen m % 8192 = 0 → exec (.dirtyLogCtrl r) s =
       .next (mbxDone [] (setDlog (argN m 0)
         { on := true, big := argN m 1 = 2, half := false, ovf := d.ovf, pages := 0, cover := bufLen m / 2 * 8, set0 := [], set1 := [] } a))) ∧
     (argN m 1 = 0 → d.on = true → exec (.dirtyLogCtrl r) s = .next (mbxDone [] (setDlog (argN m 0) { dlogTurn d with on := false } a)))) ∧
   (∀ r s a m, Issued 0x0806 r [] none s a m → argN m 0 ≤ 1023 → (dlogOf s (argN m 0)).on = true → exec (.dirtyLogHarvest r) s =
     .next (mbxDone [(0, w32 (dlogOf s (argN m 0)).pages)] (setDlog (argN m 0) (dlogTurn (dlogOf s (argN m 0))) a))) ∧
   (∀ r s a m, Issued 0x0901 r [] none s a m → BufOk m 0 0x4000000 → logReadable 0 (argN m 0) = true → argN m 0 ≠ 0xBF →
     let b := ((logPage a 0 (argN m 0)).drop (arg64 m 1)).take (bufLen m)
     exec (.logRead r) s = .next (mbxDone [(0, w32 b.length)] (emit (.mbxBuf b) a))) ∧
   (∀ r x s a m, Issued 0x0902 r [] (some x) s a m → exec (.selftest r x) s = .next (mbxDone [(0, w32 (firstFailed x))] (keysEnd (runTests x a))))) ∧
  ((∀ s n, freezing s = some n → undecided s n = [] →
     exec .freezeComplete s = .next (mbxDone [(0, w32 s.mig.drained)]
       { modTn n (fun x => { x with st := .frozen }) s with mig := { s.mig with freeze := none } })) ∧
   (∀ s n, freezing s = some n → s.mig.frzStart + 450000000 ≤ now s → Answers .freezeAbortTimeout s fun t =>
     tget 0 t.mig.aborted n = satAdd 0xFFFF (tget 0 s.mig.aborted n) (undecided s n).length ∧
     (∀ c ∈ undecided s n, ∀ d ∈ t.cmds, d.id = c.id → d.phase = .decided) ∧ t.tenants = s.tenants) ∧
   (∀ s r, s.mbx.run = some r → r.opc = 0x0601 → r.paused = false → r.waitStart = false →
     exec .scrubComplete s = .next (scrubEnd r s)) ∧
   (∀ r s, s.sram.cells = [] → s.sram.bad = [] → r.met = [] → s.sram.scan = argN r 0 → s.sram.scanCe = 0 → s.sram.scanUe = 0 →
     let u := scrubMacros r (argN r 1 + 1 - argN r 0) s
     scrubEnd r s = mbxDone [(0, 0), (1, 0), (2, 0xFFFFFFFF)] u ∧
     u = { s with sram := { s.sram with errs := u.sram.errs, scan := u.sram.scan, scanAt := u.sram.scanAt } }))

/-! ### Statements of several parts -/

/-- What a power-on reset leaves, the invariants of a step among it.

The state that a power-on reset leaves: START before stage 1, LAST_SHUTDOWN and TOP_SEC_STATE as their tables give them,
the mailbox idle, no command, queue, tenant or namespace, and every rw field of every register at its default.

The three invariants hold at reset. -/
def Obligations.ResetState : Prop :=
  (let z := State.reset
   z.pending = [] ∧ z.md.cur = .start ∧ z.md.stage = 0 ∧ z.md.lastShutdown = 3 ∧ z.sec.st = 0 ∧ z.mbx.st = .idle ∧
   QueuesGone z ∧ z.tenants = [] ∧ z.nss = [] ∧ z.cache = [] ∧ z.pin.porst = true ∧ now z = 0 ∧
   (∀ off, regGet z off = regDefault off) ∧
   regFld z 0x10200 16 16 = 1 ∧ regFld z 0x10204 10 0 = 1000 ∧ regFld z 0x10208 9 0 = 850 ∧ regFld z 0x30034 31 0 = 0 ∧
   regFld z 0x30204 31 16 = 11400 ∧ regFld z 0x30204 15 0 = 10800 ∧ regFld z 0x3010C 31 31 = 1 ∧ regFld z 0x40000 31 16 = 0xFFFF ∧
   regFld z 0x70120 6 0 = 8 ∧ regFld z 0x80004 8 8 = 1 ∧ regFld z 0xA000C 9 0 = 5) ∧
  (RegsCanonical State.reset ∧ FusesBounded State.reset ∧ RepairsBounded State.reset)

/-- Deciding a command's status: what it posts, and what it leaves alone.

Deciding a command's status (R119, R150): with the generation current and room in its completion queue, the entry is written with the
queue's phase, its tail moves and the slot is free; with no room the entry waits, nothing is posted and the slot stays held; a
stale generation frees the slot and posts nothing.

What deciding a status leaves alone: everything but the command's slot, its queue, its counters and messages, admission's
tokens and counts, the migration's counts, and a LOCK_SET that was waiting. -/
def Obligations.StatusDecided : Prop :=
  (∀ id st a b s c sq cq, cmdOf s id = some c → sqOf s id.func id.sq = some sq → cqOf s id.func sq.cq = some cq →
     let t := finish id st a b s
     let e : Cqe := ⟨id.sq, id.cid, st, a, b⟩
     (c.gen = genOf s id.func → cq.waiting = [] → cqRoom cq = true →
       Xfer.cqe id.func sq.cq cq.phase e ∈ t.sent ∧ cmdOf t id = none ∧
       (cqOf t id.func sq.cq).map (fun q => (q.tail, q.head)) = some ((cq.tail + 1) % cq.size, cq.head)) ∧
     (c.gen = genOf s id.func → cqRoom cq = false →
       (∀ f q p x, Xfer.cqe f q p x ∈ t.sent → Xfer.cqe f q p x ∈ s.sent) ∧
       (cqOf t id.func sq.cq).map (·.waiting) = some (cq.waiting ++ [{ e := e, urgent := urgentSq s id.func id.sq }]) ∧
       (cmdOf t id).map (fun d => (d.phase, d.status)) = some (Phase.decided, some st)) ∧
     (c.gen ≠ genOf s id.func →
       (∀ f q p x, Xfer.cqe f q p x ∈ t.sent → Xfer.cqe f q p x ∈ s.sent) ∧ cmdOf t id = none ∧ t.cqs = s.cqs)) ∧
  (∀ id st a b s, let t := finish id st a b s
     t = { s with cmds := t.cmds, cqs := t.cqs, fns := t.fns, sent := t.sent, qos := t.qos, ctr := t.ctr, mig := t.mig, locks := t.locks,
                  mbx := t.mbx })

/-- Dispatch: its order, what a start and a kerf's end do, and promotion.

What dispatch picks (R159): nothing from an empty list; else one of the operations, and none of them has a higher class, or the same class and an
earlier age.

Dispatch (R22, R159, R297, R298, R384): what waits for a fenced section has moved on before; the operation picked leaves its queue and runs, first taking a
kerf while kerfs are in force; an erase records its intent when it starts, and internal reads of its block end; a
kerf's end lets the operation start, at a LUN not while an image switch is under way (R172).

Geyser promotion (R163, R164): an I/O command past the age limit of its class becomes over-age, and takes a token while its function holds fewer than 4. -/
def Obligations.Dispatching : Prop :=
  ((∀ s l, pickOp s l = none ↔ l = []) ∧
   (∀ s l o, pickOp s l = some o → o ∈ l ∧ ∀ p ∈ l, before s o p = true)) ∧
  ((∀ k lane c s o, let u := rehome s
     pickOp u (u.ops.filter (mayStart u (.coder k lane c))) = some o → decryptKeyless u o.work = none → (∀ l b, o.work ≠ .erase l b) →
     exec (.dispatch (.coder k lane c)) s = .next { u with
       ops := rmOp o u.ops,
       runs := u.runs ++ [{ res := .coder k lane c, op := { o with cls := effCls u o }, kerf := s.therm.kerf ≠ 0, kerfUs := s.therm.kerf,
                            since := now s }] }) ∧
   (∀ s, (∀ k, k < 8 → (cipOf s k).fenced = false) → rehome s = s) ∧
   (∀ l s o b, ioServes s = true → let u := lunResume l (endInternal l (rehome s))
     pickOp u (u.ops.filter (mayStart u (.lun l))) = some o → o.work = .erase l b →
     ∃ v, exec (.dispatch (.lun l)) s = .next (endInternal l v) ∧
       (s.therm.kerf = 0 → (blkOf (lunOf v l) b).st = .intent) ∧ (s.therm.kerf ≠ 0 → v.luns = u.luns) ∧ v.ops = rmOp o u.ops ∧
       v.runs = u.runs ++ [{ res := .lun l, op := { o with cls := effCls u o }, kerf := s.therm.kerf ≠ 0, kerfUs := s.therm.kerf, since := now s }] ∧
       v = { u with luns := v.luns, ops := v.ops, runs := v.runs }) ∧
   (∀ r s, (∀ l, r = .lun l → s.fw.act.any (·.switching) = false) → Answers (.kerfExpiry r) s fun t =>
     t.runs = s.runs.map (fun x => if x.res = r ∧ x.kerf = true ∧ x.since + 1000 * x.kerfUs ≤ now s then { x with kerf := false, since := now s } else x) ∧
     ((∀ x ∈ s.runs, kerfOver s r x = false) → t = s) ∧
     (∀ l b x, s.runs.filter (kerfOver s r) = [x] → r = .lun l → x.op.work = .erase l b →
       (blkOf (lunOf t l) b).st = .intent ∧ t = { s with runs := t.runs, luns := t.luns })) ∧
   (∀ l s, s.fw.act.any (·.switching) = true → exec (.kerfExpiry (.lun l)) s = .next s)) ∧
  (∀ id s c lim, cmdOf s id = some c → c.overAge = false → c.id.sq ≠ 0 → ageLimit s id.func c.cls = some lim → c.time + lim ≤ now s →
     let held := (s.cmds.filter fun d => d.id.func = id.func && d.token).length
     Answers (.geyserOverAge id) s fun t =>
       (cmdOf t id).map (fun d => (d.overAge, d.token)) = some (true, if held < 4 then true else c.token) ∧
       (contOf t (contNo id.func)).promoNow = (contOf s (contNo id.func)).promoNow + (if held < 4 then 1 else 0) ∧
       t = { s with cmds := t.cmds, qos := t.qos })

/-- What every step keeps of the recovery image, the fused counter and the field-repair bank.

Every step keeps the recovery image, and the fused counter at or below the recovery image's counter and 64 (R414).

Every step keeps the field-repair bank at 64 entries or fewer (R343, R345). -/
def Obligations.StepKeepsFusesAndRepairs : Prop :=
  (∀ s t : State, FusesBounded s → step s = .next t → t.fw.recovery = s.fw.recovery ∧ FusesBounded t) ∧
  (∀ s t : State, RepairsBounded s → step s = .next t → RepairsBounded t)

/-- POR and the reset pins.

POR and PORST_N: the core domain is lost. POR also returns the always-on domain to its defaults, device time with it;
PORST_N keeps device time, holds the DRAM in reset (R453) and is recorded in TOP_RESET_LAST, with the mailbox command it interrupts.

PERST_N of the serving port: outside START and WATCH, with no Vent running, it drops every function, queue, command and
tenant and enters VENT for the dump (R80, R84); released after the dump, START begins at stage 1. On the other port only the
pin and its link change (R455). -/
def Obligations.PinResets : Prop :=
  ((∀ s, Answers .por s fun t => CoreGone s t ∧ now t = 0 ∧ t.clk.refPin = s.clk.refPin ∧ t.aonQ = [] ∧ t.md.rlCount = 0 ∧ t.md.rlKind = 0 ∧ t.mbx.intOpc = 0) ∧
   (∀ s, s.pin.porst = false → Answers .porstNAssertion s fun t => CoreGone s t ∧ t.pin.porst = true ∧ t.pin.dramReset = true ∧ (s.clk.refOn = true ∨ s.clk.refPin = false → t.clk = s.clk) ∧
     t.aonQ = s.aonQ ∧ t.md.rlKind = 1 ∧ t.md.rlFunc = 0 ∧ t.md.rlCount = satInc 0xFFF s.md.rlCount ∧
     ∀ r, s.mbx.run = some r → t.mbx.intCause = 2 ∧ t.mbx.intOpc = r.opc ∧ t.mbx.intProgress = s.mbx.progress) ∧
   (∀ s, s.pin.porst = true → s.md.cur = .start → s.md.stage = 0 → Answers .porstNDeassertion s fun t =>
     t.pin.porst = false ∧ t.pin.dual = s.pin.inDual ∧ t.pin.lpo = s.pin.inLpo ∧ t.pin.smba = s.pin.inSmba ∧ t.md.cur = .start ∧
     t.md.stage = 1 ∧ t = { s with pin := t.pin, md := t.md, co := t.co })) ∧
  ((∀ p s, (if p = 0 then s.pin.perst else s.pin.perst1) = false → p = s.pin.serving → s.md.cur ≠ .start → s.md.cur ≠ .watch →
     s.hold.vent = none → Answers (.perstNAssertion p) s fun t =>
       t.md.cur = .vent ∧ t.fns = [] ∧ QueuesGone t ∧ t.tenants = [] ∧ t.gens = [] ∧ t.vfEnable = false ∧ t.md.rlKind = 2 ∧
       t.md.rlFunc = 0 ∧ CacheKept s t ∧ t.nss = s.nss ∧ t.mbx.st = .idle ∧ t.mbx.run = none ∧ t.co.role = false ∧
       (t.hold.vent.any fun v => v.perst && v.fromMode == s.md.cur) = true) ∧
   (∀ p s, p ≠ s.pin.serving → Answers (.perstNAssertion p) s fun t =>
       (if p = 0 then t.pin.perst else t.pin.perst1) = true ∧ t = { s with pin := t.pin }) ∧
   (∀ p s v, p = s.pin.serving → s.md.cur = .vent → s.hold.vent = some v → v.perst = true → v.dumped = true →
     Answers (.perstNDeassertion p) s fun t =>
       t.md.cur = .start ∧ t.md.stage = 1 ∧ t.cache = [] ∧ t.hold.vent = none ∧ t.nss = (cfgReload s).nss ∧ t.vault.recd = s.vault.recd ∧
       (if p = 0 then t.pin.perst else t.pin.perst1) = false))

/-- DRAM read errors, retirement and spares.

DRAM errors (R322 to R325, R328, R329): a patrol that meets a correctable codeword only counts it while no limit is set, and writes the line back unless a
write to it is queued; one that meets an uncorrectable
codeword in a data rank poisons the line and retires the rank, in place where its channel has no spare; with the patrol stopped, or the rank
retraining, nothing is read; a parity alert retires it with nothing poisoned.

Spares and migration (R325 to R327, R330): a filled spare is ready; when a migration's copy reaches the end, the spare takes the old rank's place in service. -/
def Obligations.DramErrorsAndSpares : Prop :=
  ((∀ r f s, rankServes s r = true → accessRanks s r f.line false = [r] → regFld s 0x80070 7 0 ≠ 0 → faultRes s r f = .read 1 false →
     regFld s 0x80070 31 16 = 0 → Answers (.patrolScrub r [f]) s fun t =>
       (rankOf t r).ce = satInc 0xFFFFFFFF (rankOf s r).ce ∧ (rankOf t r).st = (rankOf s r).st ∧
       (f.queued = true → t.dram.backs = s.dram.backs) ∧ (f.queued = false → (r, f.line) ∈ t.dram.backs) ∧ t = { s with dram := t.dram }) ∧
   (∀ r f s, r < 16 → rankServes s r = true → accessRanks s r f.line false = [r] → (rankOf s r).st = 1 → regFld s 0x80070 7 0 ≠ 0 →
     faultRes s r f = .read 0 true → freeSpare s (rankChan r) = false → Answers (.patrolScrub r [f]) s fun t =>
       (rankOf t r).st = 6 ∧ (rankOf t r).cause = 1 ∧
       ((∀ p, f.held ≠ .tableCache p) → (∀ b, f.held ≠ .working b) → (r, f.line) ∈ t.dram.poison) ∧ regFld t 0x8008C r r = 1 ∧
       t.rep.causes.getLsbD 0 = true ∧ t.nss = s.nss ∧ t.zones = s.zones ∧ t.vault = s.vault) ∧
   (∀ r fs s, rankServes s r = false ∨ regFld s 0x80070 7 0 = 0 → exec (.patrolScrub r fs) s = .next s) ∧
   (∀ r s, r < 16 → dramOn s = true → (rankOf s r).st = 1 → freeSpare s (rankChan r) = false →
     Answers (.dramCaParityAlert r) s fun t =>
       (rankOf t r).st = 6 ∧ (rankOf t r).cause = 2 ∧ (rankOf t r).replays = (rankOf s r).replays + 1 ∧ t.dram.poison = s.dram.poison ∧
       regFld t 0x8008C r r = 1 ∧ t.cmds = s.cmds ∧ t.cache = s.cache)) ∧
  ((∀ r s, (rankOf s r).st = 3 → Answers (.spareFillComplete r) s fun t =>
     (rankOf t r).st = 2 ∧ ((migOf s (rankChan r)).active = true → (migOf s (rankChan r)).dst = r % 4 →
       migOf t (rankChan r) = { migOf s (rankChan r) with waitFill := false }) ∧ t = { s with dram := t.dram }) ∧
   (∀ c s, let m := migOf s c
     m.active = true → m.waitFill = false → m.src < 4 → m.dst < 4 → m.src ≠ m.dst → rankServes s (4 * c + m.src) = true →
     rankServes s (4 * c + m.dst) = true → s.md.cur ≠ .vent →
     (∀ k ∈ chanRanks c, k ≠ 4 * c + m.src → (rankOf s k).st ≠ 4) → s.mbx.run = none →
     Answers (.rankMigrationComplete c []) s fun t =>
       (rankOf t (4 * c + m.dst)).st = 1 ∧ (rankOf t (4 * c + m.src)).st = 5 ∧ (migOf t c).active = false ∧
       (migOf t c).frontier = rankGib s.dram.density * 262144 ∧ (∀ p ∈ t.dram.poison, p.1 ≠ 4 * c + m.src) ∧
       (∀ l, (4 * c + m.src, l) ∈ s.dram.poison → (4 * c + m.dst, l) ∈ t.dram.poison) ∧ t.nss = s.nss ∧ t.cache = s.cache) ∧
   (∀ r cause s, r < 16 → (rankOf s r).st = 1 → freeSpare s (rankChan r) = true → (migOf s (rankChan r)).active = true →
     (rankOf (retireRank r cause s) r).st = 4 ∧ (rankOf (retireRank r cause s) r).cause = cause ∧
     migOf (retireRank r cause s) (rankChan r) = migOf s (rankChan r)))

/-- The capacitance test, dips and the Vent.

The hold-up bank (R366, R367, R419): a test due in RUN starts and drives HOLDUP_TEST; its end sets CMEAS from the voltage lost, and LOW with cause 5 of Replace Request exactly when CMEAS is below half of CAP.

Dips and the Vent (R371 to R374): below WARN the debounce starts; back at RECOVER within it is a dip; at its end the device enters VENT; the dump records every dirty block that can be written; with the
supply back the device returns to RUN, else it waits for recovery. Every block that the dump marks has a record of its own; a lone dirty block stored in clear is dumped
where the pool has room. -/
def Obligations.HoldUpAndVent : Prop :=
  ((∀ s, s.hold.lastTest + dayNs ≤ now s → s.hold.testRun = false → s.md.cur = .run → ventTesting s = false →
     Answers .capacitanceTestDue s fun t => t.hold.testRun = true ∧ t.pin.holdupTest = true ∧ t.hold.lastTest = s.hold.lastTest + dayNs ∧
       t = { s with hold := t.hold, pin := t.pin }) ∧
   (∀ v0 v1 s, s.hold.testRun = true → Answers (.capacitanceTestEnd v0 v1) s fun t =>
     t.hold.testRun = false ∧ t.hold.tested = true ∧ t.pin.holdupTest = false ∧ t.hold.cmeas = cmeasOf v0 v1 ∧
     t.hold.low = decide (2 * cmeasOf v0 v1 < s.hold.cap) ∧ t.rep.causes.getLsbD 4 = t.hold.low ∧ t.md = s.md ∧ t.cache = s.cache) ∧
   (∀ v0 v1, (v0 ≤ v1 → cmeasOf v0 v1 = 0xFFFF) ∧ (v1 < v0 → cmeasOf v0 v1 = min 0xFFFF (100000 / (v0 - v1))))) ∧
  ((∀ mv s, ventEnabled s = true → mv < ventWarn s → s.hold.debounce = none → s.md.cur ≠ .vent → s.md.cur ≠ .doze →
     Answers (.vinWarning mv) s fun t => t.hold = { s.hold with lowVin := mv, debounce := some (now s) } ∧ t = { s with hold := t.hold }) ∧
   (∀ mv s t0, s.hold.debounce = some t0 → ventRecover s ≤ mv → Answers (.dipEnd mv) s fun t =>
     t.hold = { s.hold with debounce := none, dips := satInc 0xFFFF s.hold.dips, last := 1 } ∧
     t.rep.vent.head? = some { time := now s, kind := 1, lowVin := s.hold.lowVin, dur := (now s - t0) / 1000 } ∧
     t = { s with hold := t.hold, rep := t.rep }) ∧
   (∀ s t0, s.hold.debounce = some t0 → t0 + 900 * s.hold.deb ≤ now s → ventEnabled s = true → (s.md.cur = .run ∨ s.md.cur = .quiesce ∨ s.md.cur = .halt) →
     anyLun s = true → s.hold.vent = none → Answers .debounceExpiry s fun t =>
       t.md.cur = .vent ∧ t.md.prev = s.md.cur ∧ t.hold.vents = satInc 0xFF s.hold.vents ∧ t.hold.debounce = none ∧
       t.hold.vent = some ⟨0, s.md.cur, s.md.haltWhy, false, false, false, now s, 0, 0⟩ ∧ t.cache = s.cache ∧ t.zones = s.zones) ∧
   (∀ mv s v, s.hold.vent = some v → v.dumped = false → v.perst = false → v.shut = false → mv < ventRecover s → ventFetching s v = false →
     (∀ c ∈ s.cmds, c.phase ≠ .durable) → Answers (.ventEnd mv) s fun t =>
       t.hold.vent.map (·.dumped) = some true ∧ t.md = s.md ∧ t.ctrStored = s.ctr ∧ t.zones = s.zones ∧ (∀ r ∈ s.hold.pool, r ∈ t.hold.pool) ∧
       t.cache.map (fun b => { b with vented := false }) = s.cache.map (fun b => { b with vented := false }) ∧
       (∀ b ∈ t.cache, b.vented = true → b ∈ s.cache ∨ ∃ r ∈ t.hold.pool, r.ns = b.ns ∧ r.lba ≤ b.lba ∧ b.lba < r.lba + r.n) ∧
       (∀ b, s.cache = [b] → b.vented = false → dataSlot s b.ns b.lba = none → v.blocks < 2 ^ 64 → poolUsed s < s.hold.poolCap →
         t.cache = [{ b with vented := true }] ∧ ∃ r, t.hold.pool = s.hold.pool ++ [r] ∧ r.ns = b.ns ∧ r.lba = b.lba ∧ r.n = 1 ∧ r.slot = none)) ∧
   (∀ mv s v, s.hold.vent = some v → v.dumped = true → v.perst = false → v.shut = false → ventRecover s ≤ mv → v.fromMode ≠ .halt →
     s.pwr.pend = 7 → s.mbx.run = none → s.fw.act = none → Answers (.ventRecovery mv) s fun t =>
       t.md.cur = .run ∧ t.hold.vent = none ∧ t.hold.last = 2 ∧ t.hold.pool = s.hold.pool ∧ t.cache = s.cache ∧ t.rep.vent.head?.map VEnt.kind = some 2))

/-- Write data into the cache, and the coders that take it from there.

The last data byte of a write reaches the cache (R19, R166): every block of the write is then cached with its own 4,096 bytes, and no other block changes.

Coders (R188, R191, R217, R219, R221, R222): an encode ends stored coded or raw, counted; with EVERIFY a coded frame is decoded again first, and one that
fails is stored raw. A decode that passes its check delivers its data, a faulty one is repeated elsewhere, and only a second failure fails the frame. -/
def Obligations.CachingAndCoding : Prop :=
  ((∀ id s c n, cmdOf s id = some c → c.phase = .fetching → isWrite c.e = true → nsOf s c.e.nsid = some n →
     exec (.writeDataCached id) s = .next (writeCached c n s)) ∧
   (∀ ns f t ver gen nb lba d s l, lba ≤ l → l < lba + nb →
     (cachedBlk (cacheData ns f t ver gen nb lba d s) ns l).map (fun b => (b.data, b.func, b.time, b.ver, b.gen)) =
       some (bytesAt (d.drop (4096 * (l - lba))) 0 4096, f, t, ver, gen)) ∧
   (∀ ns f t ver gen nb lba d s m l, m ≠ ns ∨ l < lba ∨ lba + nb ≤ l →
     cachedBlk (cacheData ns f t ver gen nb lba d s) m l = cachedBlk s m l)) ∧
  ((∀ k lane c v s x n j, runOn s (.coder k lane c) = some x → x.op.work = .encode n → tget none s.jobs n = some j →
     let u := endRun x s
     (coderResult u j = none → exec (.encodeComplete k lane c v) s =
       .next (encoded n none (modCdc k (fun d => { d with raw := satInc 0xFFFFFFFF d.raw }) u))) ∧
     (∀ p, coderResult u j = some p → regFld s (cdcBase k) 8 8 = 0 → exec (.encodeComplete k lane c v) s =
       .next (encoded n (some p) (modCdc k (fun d => { d with enc := satInc 0xFFFFFFFF d.enc }) u))) ∧
     (∀ p, coderResult u j = some p → regFld s (cdcBase k) 8 8 = 1 → exec (.encodeComplete k lane c v) s =
       .next (rehome (queueJob (.verify n lane c) (.codec k) j u)))) ∧
   (∀ k lane c s x n a b j, runOn s (.coder k lane c) = some x → x.op.work = .verify n a b → tget none s.jobs n = some j →
     exec (.encodeComplete k lane c false) s = .next (encoded n none (cdcVerify k (endRun x s))) ∧
     exec (.encodeComplete k lane c true) s = .next (encoded n (coderResult s j) (modCdc k (fun d => { d with enc := satInc 0xFFFFFFFF d.enc })
       (endRun x s)))) ∧
   (∀ k s, cdcOf (cdcVerify k s) k = { cdcOf s k with raw := satInc 0xFFFFFFFF (cdcOf s k).raw, verifyFail := satInc 0xFFFFFFFF (cdcOf s k).verifyFail } ∧
     cdcVerify k s = { s with cdc := (cdcVerify k s).cdc }) ∧
   (∀ k lane c s x n r b, runOn s (.coder k lane c) = some x → x.op.work = .decode n → tget none s.rjobs n = some r →
     r.gen = genOf s r.func → decodePayload (r.bytes.take 48) r.payload = .ok b →
     exec (.decodeComplete k lane c false false) s =
       .next (deliverR n b (modCdc k (fun d => { d with dec := satInc 0xFFFFFFFF d.dec }) (endRun x s))) ∧
     ∃ u, exec (.decodeComplete k lane c true true) s = .next (failR n (vendorSt 2) u) ∧ u = { s with runs := u.runs, cdc := u.cdc } ∧
       (cdcOf u k).confirmed = satInc 0xFFFF (cdcOf s k).confirmed) ∧
   (∀ j zn, j.redo = false → let fr := frOf zn j.idx
     let a := 64 + j.payload.length
     let t := accountJob j zn
     (j.short = false → t.stored = zn.stored + a ∧ t.reserved = zn.reserved - (fr.admitted + 64) ∧ t.seals = zn.seals) ∧
     (j.short = true → j.final = false → fr.shorts = false → t.stored = zn.stored + a + 8 ∧ t.reserved = zn.reserved ∧
       t.seals = satInc 0xFFFFFFFF zn.seals) ∧
     (fr.live = none → t.dead = zn.dead) ∧ ∀ l, fr.live = some l → l.len16 ≠ 0 → fr.dead16 ≠ 0 → t.dead = zn.dead + 16 * l.len16))

/-- Features and the placement directive.

Set Features and Get Features (R137 to R139): a value set for interrupt coalescing is what a read of it then returns; a request of the PF for a
power state is passed to the power manager, and ages that are not in order are refused.

The placement directive (R133): enabled and disabled for a namespace by Directive Send, and reported by Directive Receive. -/
def Obligations.FeaturesAndDirectives : Prop :=
  ((∀ id s c, AdminRuns s id 0x09 c → fld c.e.cdw10 7 0 = 0x08 → bitOf c.e.cdw10 31 = false →
     exec (.setFeatures id) s = .next (finishSt id okSt (modFn id.func (featSet 8 0 (c.e.cdw11 &&& 0xFFFF)) s))) ∧
   (∀ f v s, featGet (fnOf (modFn f (featSet 8 0 v) s) f) 8 0 = v ∧
     ∀ fid sub, featKey fid sub ≠ featKey 8 0 → featGet (fnOf (modFn f (featSet 8 0 v) s) f) fid sub = featGet (fnOf s f) fid sub) ∧
   (∀ id s c, AdminRuns s id 0x0A c → fld c.e.cdw10 7 0 = 0x08 → fld c.e.cdw10 10 8 = 0 →
     exec (.getFeatures id) s = .next (finish id okSt (featGet (fnOf s c.id.func) 8 0) 0 s)) ∧
   (∀ id s c, AdminRuns s id 0x09 c → c.id = id → id.func = 0 → fld c.e.cdw10 7 0 = 0x02 → bitOf c.e.cdw10 31 = false → fld c.e.cdw11 4 0 ≤ 4 →
     exec (.setFeatures id) s =
       .next (psRequest (fld c.e.cdw11 4 0) (some (.cmd id)) (modCmd id (fun c => { c with phase := .held }) s))) ∧
   (∀ id s c, AdminRuns s id 0x09 c → id.func = 0 → c.id = id → fld c.e.cdw10 7 0 = 0xC1 → bitOf c.e.cdw10 31 = false →
     (fld c.e.cdw11 7 0 = 0 ∨ fld c.e.cdw11 15 8 < fld c.e.cdw11 7 0 ∨ fld c.e.cdw11 31 16 < fld c.e.cdw11 15 8) →
     exec (.setFeatures id) s = .next (finishSt id ⟨0, 2, true⟩ s))) ∧
  ((∀ id s c n, AdminRuns s id 0x19 c → fld c.e.cdw11 7 0 = 1 → fld c.e.cdw11 15 8 = 0 → fld c.e.cdw12 15 8 = 0x0F →
     c.e.nsid ≠ 0xFFFFFFFF → nsCheck s c = .ok n →
     exec (.directiveSend id) s = .next (finishSt id okSt (modFn id.func (fun fn => { fn with
       dirEn := if bitOf c.e.cdw12 0 then insNat c.e.nsid fn.dirEn else rmNat c.e.nsid fn.dirEn }) s))) ∧
   (∀ id s c n, AdminRuns s id 0x1A c → fld c.e.cdw11 7 0 = 1 → fld c.e.cdw11 15 8 = 0 → nsCheck s c = .ok n →
     exec (.directiveReceive id) s =
       .next (finishSt id okSt (sendData c 0 ((dirParams s id.func c.e.nsid).take (4 * (c.e.cdw10.toNat + 1))) s))))

/-- The reference clock, and the rows that a timer brings.

Device time without the reference clock (R40): it goes on from the value at the loss with the slow ticks, and when the clock returns it resumes from there, never below the last
value read.

Timed rows (R394, R412, R444, R446, R466, R470): the witness mark is recomputed and counted; a mismatch that outlasts SETTLE is set; a lockout ends with its count kept; a session whose heartbeat
stopped ends; the SMBus is released; the tenants' counters are journaled. -/
def Obligations.ClockAndTimers : Prop :=
  ((∀ s, s.clk.refOn = true → Answers .referenceClockLoss s fun t =>
     now t = now s ∧ t.clk.refOn = false ∧ t.clk.refPin = false ∧ t.clk.lossTime = s.clk.time ∧ t.clk.lossTicks = 0 ∧ t = { s with clk := t.clk }) ∧
   (∀ s, s.clk.refOn = false → s.pwr.coreOff = false → Answers .referenceClockReturn s fun t =>
     t.clk.refOn = true ∧ t.clk.refPin = true ∧ now t = max (s.clk.lossTime + ticksNs s.clk.lossTicks) s.clk.lastRead ∧ t = { s with clk := t.clk }) ∧
   (∀ s, s.pwr.coreOff = true → Answers .referenceClockReturn s fun t => now t = now s ∧ t = { s with clk := { s.clk with refPin := true } }) ∧
   (∀ n, ticksNs n % 10 = 0 ∧ ticksNs n * 1000 ≤ n * 30517578 ∧ n * 30517578 < ticksNs n * 1000 + 10000)) ∧
  ((∀ s, coreRuns s = true → Answers .witnessRecompute s fun t =>
     t.flt.computed = witnessMark s ∧ t.flt.seq = s.flt.seq + 1 ∧ t.flt.expected = s.flt.expected ∧ t.md = s.md ∧ t.nss = s.nss) ∧
   (∀ s t0, s.flt.settle = some t0 → coreRuns s = true → t0 + regFld s 0xA000C 9 0 * 1000000000 ≤ now s →
     Answers .witnessSettleExpiry s fun t => t.flt = { s.flt with mismatch := true, posted := true, settle := none } ∧
       t = { s with flt := t.flt, fns := t.fns, cqs := t.cqs, sent := t.sent, mig := t.mig }) ∧
   (∀ s t0, s.co.lockedUntil = some t0 → t0 ≤ now s → Answers .coLockoutExpiry s fun t =>
     t = { s with co := { s.co with lockedUntil := none } }) ∧
   (∀ n s, Answers (.spdmHeartbeatTimeout n) s fun t =>
     (∀ x ∈ t.sec.sessions, x.id ≠ n) ∧ (∀ x ∈ s.sec.sessions, x.id ≠ n → x ∈ t.sec.sessions) ∧
     t = { s with sec := { s.sec with sessions := t.sec.sessions } }) ∧
   (∀ s, Answers .smbusClockLowTimeout s fun t => t.pin.smbHeld = false ∧ t = { s with pin := { s.pin with smbHeld := false } }) ∧
   (∀ s, coreRuns s = true → Answers .tenantCounterJournal s fun t => t = { s with ctrStored := s.ctr }))

/-- The eight stages of START.

START stages 0 to 3 (R70, R73, R456): the straps are sampled and stage 1 begins; the link trains; the self-tests pass into an approved
state with the DRBG instantiated, or fail into the cryptographic error state; the first image that verifies is loaded with the
setpoint at 750 mV, and with none the device enters HALT.

START stages 4 to 8: DRAM training with the channels of R311 and DMc_RESET_N released (R453), or HALT with none; discovery of a first LUN (R280 to R282), and reason 06h
with no LUN; the vault from its record at replay, or HALT when the metadata cannot be read (R74, R75); the vent pool empty once restored (R376);
and at the end opened zones Closed, the last operational power state, and RUN, or HALT in the cryptographic error state. -/
def Obligations.StartUp : Prop :=
  ((∀ s, atStage s 0 = true → s.pin.porst = false → s.pin.zeroize = false → Answers .startBegin s fun t =>
     t.md.cur = .start ∧ t.md.stage = 1 ∧ t.pin.dual = s.pin.inDual ∧ t.pin.lpo = s.pin.inLpo ∧ t.pin.smba = s.pin.inSmba ∧
     t = { s with pin := t.pin, md := t.md, co := t.co }) ∧
   (∀ s, atStage s 1 = true → s.pin.perst = false → s.pin.serving = 0 → Answers (.linkTrained 0) s fun t =>
     t.md.stage = 2 ∧ t.pin.p0Up = true ∧ t.md.cur = .start ∧ t = { s with pin := t.pin, md := t.md }) ∧
   (∀ p s, (atStage s 1 || atStage s 2) = true → firstFailed p = 0 → (∀ k, k < 8 → p.gcmOk.getD k false = true) →
     Answers (.powerOnSelfTests p) s fun t =>
       t.md.stage = 3 ∧ t.sec.st = 1 ∧ t.sec.drbg = true ∧ t.md.fail = s.md.fail ∧
       t = { s with md := t.md, sec := t.sec, sram := { s.sram with fused := true } }) ∧
   (∀ p s, (atStage s 1 || atStage s 2) = true → p.romOk = false → Answers (.powerOnSelfTests p) s fun t =>
       t.md.stage = 3 ∧ t.sec.st = 2 ∧ t.sec.fail = 1 ∧ t.md.fail = true ∧ t.md.reason = 1 ∧ t.co.role = false) ∧
   (∀ s n i, atStage s 3 = true → s.mbx.run = none → (startImages s).find? (fun e => imgOk s e.2) = some (n, i) →
     Answers .imageAuthentication s fun t =>
       t.md.stage = 4 ∧ t.md.slot = n ∧ t.md.loaded = true ∧ t.fw.running = some i ∧ t.pace.vset = 750 ∧ t.md.cur = .start ∧
       t = { s with md := t.md, fw := t.fw, pace := t.pace }) ∧
   (∀ s, atStage s 3 = true → s.mbx.run = none → (startImages s).find? (fun e => imgOk s e.2) = none →
     Answers .imageAuthentication s fun t => t.md.cur = .halt ∧ t.md.haltWhy = 3 ∧ t.md.fail = true ∧ t = { s with md := t.md })) ∧
  ((∀ p s, atStage s 4 = true → usedChans s p ≠ [] → Answers (.dramTraining p) s fun t =>
     t.md.stage = 5 ∧ t.md.cur = .start ∧ t.dram.chans = usedChans s p ∧ t.dram.density = p.density ∧
     t.dram.capGib = t.dram.chans.length * t.dram.dranks * rankGib p.density ∧ t.hold.testRun = true ∧ t.pin.holdupTest = true ∧
     t.pin.dramReset = false ∧ t.nss = s.nss ∧ t.vault = s.vault) ∧
   (∀ p s, atStage s 4 = true → usedChans s p = [] → Answers (.dramTraining p) s fun t =>
     t.md.cur = .halt ∧ t.md.haltWhy = 4 ∧ t.md.reason = 5 ∧ t.md.fail = true ∧ t.pin.dramReset = false) ∧
   (∀ p s, atStage s 5 = true → p.luns = [] → Answers (.flashDiscovery p) s fun t =>
     t.md.stage = 6 ∧ t.md.reason = 6 ∧ t.md.fail = true ∧ ∀ l, (lunOf t l).reason = 1 ∨ (lunOf t l).reason = 12) ∧
   (∀ x c s, atStage s 5 = true → s.luns = [] → x.lun < 8192 → lunReason x = 0 → c.chan = lunChan x.lun →
     x.dqTraining = true → regFld s (chuBase c.chan) 1 0 = 1 → eyePass c.eye4800 c.height4800 = true →
     Answers (.flashDiscovery ⟨[x], [c]⟩) s fun t =>
       t.md.stage = 6 ∧ t.md.fail = s.md.fail ∧ (lunOf t x.lun).reason = 0 ∧ (lunOf t x.lun).pageBytes = x.pageBytes ∧
       (lunOf t x.lun).bulk = ((List.range x.blocks).filter (· ∉ x.bad)).length - ceilDiv x.blocks 200 ∧ (lunOf t x.lun).spare = ceilDiv (3 * (lunOf t x.lun).bulk) 100 ∧
       (chanOf t c.chan).gated = false ∧ (chanOf t c.chan).trained = true ∧ (chanOf t c.chan).rateCur = 1 ∧
       (lunOf t x.lun).zqDone = x.zqCal ∧ t.hold.poolCap = (if s.hold.poolCap = 0 then 72 * 2 ^ 18 else s.hold.poolCap) ∧
       t = { s with md := t.md, luns := t.luns, chans := t.chans, journal := t.journal, hold := { s.hold with poolCap := t.hold.poolCap } }) ∧
   (∀ s, atStage s 6 = true → s.zer.pend = false → Answers (.metadataReplay true) s fun t =>
     t.md.stage = 7 ∧ t.vault.live = unwrapKeys s.vault.recd ∧ t.vault.recd = s.vault.recd ∧ t.vault.nor = s.vault.recd ∧ t.vault.staged = none ∧ t.nss = s.nss) ∧
   (∀ s, atStage s 6 = true → Answers (.metadataReplay false) s fun t =>
     t.md.cur = .halt ∧ t.md.haltWhy = 4 ∧ t.md.reason = 7 ∧ t.md.fail = true ∧ t = { s with md := t.md }) ∧
   (∀ u s, atStage s 7 = true → s.replayed = false → s.sec.st ≠ 2 → Answers (.ventPoolRestore u) s fun t =>
     t.replayed = true ∧ t.hold.pool = [] ∧ t.md = s.md ∧ t.nss = s.nss) ∧
   (∀ s, atStage s 7 = true → s.replayed = true → s.san.running = false → s.pwr.owed = [] → Answers .startComplete s fun t =>
     t.md.stage = 8 ∧ t.pwr.cur = s.pwr.lastOp ∧ (∀ ns z, openSt (zoneOf t ns z).st = false) ∧
     (s.sec.st ≠ 2 → t.md.cur = .run) ∧ (s.sec.st = 2 → t.md.cur = .halt ∧ t.md.haltWhy = 1)))

/-- Power state transitions, WATCH and waking.

Power states (R331, R347 to R352, R358, R360, R379): the drain's end lets an entry go on; a transition's end puts the target in force: DOZE with the
ranks in self-refresh, WATCH with the core supply off, L1.2 asked for and no session or role left, or on an exit, not before the checks of ranks and
channels, RUN; into WATCH everything is written back first. A clean shutdown stores the tenants' counters.

WATCH (R355 to R359, R401): a cycle stores its readings, VCORE as 0, and counts itself; a breach, the timer, the host and the sideband each wake it with their own source,
but not while it waits for START after PERST_N or wakes already; when VCORE is good the retained state goes on with the self-tests
passed, or START begins again when the retention image is bad. -/
def Obligations.PowerStates : Prop :=
  ((∀ s u, s.pwr.trans = some u → u.drained = false → s.md.cur ≠ .vent → psDrained s = true → u.target ≠ 4 →
     exec .powerEntryDrainEnd s = .next { s with pwr := { s.pwr with trans := some { u with drained := true } } }) ∧
   (∀ s u, s.pwr.trans = some u → u.drained = false → s.md.cur ≠ .vent → psDrained s = true → u.target = 4 →
     let v := storeP (flushAll { s with pwr := { s.pwr with trans := some { u with drained := true } } })
     exec .powerEntryDrainEnd s = .next { v with ctrStored := v.ctr, pwr := { v.pwr with copied := true } }) ∧
   (∀ s u, s.pwr.trans = some u → u.drained = true → s.pwr.coreOff = false → u.exiting = true → exitChecked s = false →
     exec .powerTransitionEnd s = .next s) ∧
   (∀ s u, s.pwr.trans = some u → u.drained = true → s.pwr.coreOff = false → u.owner = none → s.pwr.pend = 7 → s.pwr.waiters = [] →
     (u.exiting = true → exitChecked s = true) →
     (u.target = 3 → Answers .powerTransitionEnd s fun t => t.md.cur = .doze ∧ t.pwr.cur = 3 ∧ t.pwr.trans = none ∧
       t.pwr.lastOp = s.pwr.lastOp ∧ (∀ r, (rankOf s r).st ≠ 0 → (rankOf t r).selfRef = true) ∧ t = { s with md := t.md, pwr := t.pwr, dram := t.dram }) ∧
     (u.target = 4 → Answers .powerTransitionEnd s fun t => t.md.cur = .watch ∧ t.pwr.cur = 4 ∧ t.pwr.coreOff = true ∧ t.pwr.retained = true ∧
       t.sec.sessions = [] ∧ t.sec.drbg = false ∧ t.co.role = false ∧ t.pwr.since = now s ∧ now t = now s ∧ t.clk.refOn = false ∧ t.pPend = [] ∧
       t.pin.l12 = true ∧ t.pace.vset = 0 ∧ t.therm.fast = false ∧
       (s.aonQ = [] → t.nor = (storeP s).nor ∧ t.norCfg = cfgOf s ∧ t = { s with
         md := t.md, pwr := t.pwr, sec := t.sec, co := t.co, clk := t.clk, nor := t.nor, norCfg := t.norCfg, pPend := [], aonQ := t.aonQ,
         aonHeld := t.aonHeld, wvTop := t.wvTop, wvVf := t.wvVf, hk := { s.hk with copies := t.hk.copies }, dram := t.dram,
         pin := { s.pin with l12 := true }, pace := { s.pace with vset := 0, avsOut := none }, therm := { s.therm with fast := false } })) ∧
     (u.target < 3 → u.exiting = false → Answers .powerTransitionEnd s fun t => t.pwr.cur = u.target ∧ t.pwr.lastOp = u.target ∧ t.md = s.md ∧
       t = { s with pwr := t.pwr }) ∧
     (u.target < 3 → u.exiting = true → s.pwr.ventAfter = false → s.pwr.shutAfter = false → s.pwr.haltRec = false → s.sec.st ≠ 2 →
       s.md.cur ≠ .halt → s.pwr.owed = [] → s.therm.evOwed = [] →
       Answers .powerTransitionEnd s fun t => t.md.cur = .run ∧ t.pwr.cur = u.target ∧ (s.clk.refPin = true → t.clk.refOn = true) ∧
         (t.therm.fast = fastOf s.therm s.therm.last) ∧ t.therm.held = [] ∧ (s.therm.held = [] → t.rep = s.rep) ∧
         t = { s with
           md := t.md, pwr := t.pwr, hold := t.hold, pin := t.pin, clk := t.clk, qos := { s.qos with epoch := t.qos.epoch }, rep := t.rep,
           therm := { s.therm with fast := t.therm.fast, held := [] } })) ∧
   (∀ s, ioServes s = true → exec .cleanShutdown s = .next { flushAll s with ctrStored := (flushAll s).ctr })) ∧
  ((∀ r s, s.md.cur = .watch → s.pwr.trans = none → ticksPast s s.pwr.cycleAt (s.pwr.watchPeriod * 32768 / 1000) = true →
     Answers (.watchCycle r) s fun t =>
     t.pwr.cyclesNow = s.pwr.cyclesNow + 1 ∧ tget 0 t.hk.ch 4 = 0 ∧ (∀ c, c < 12 → c ≠ 4 → tget 0 t.hk.ch c = r.ch.getD c 0) ∧ t.md.cur = .watch ∧
     t.therm.last = (r.ch.getD 0 0).toInt ∧ (breach t = none → t.pwr.trans = none) ∧
     (perstLow s = true → t.pwr.trans = none) ∧
     (∀ c, breach t = some c → perstLow s = false →
       t.pwr.trans = some ⟨s.pwr.lastOp, true, true, none⟩ ∧ t.pwr.wakeSrc = 3 ∧ t.pwr.wakeCh = c ∧ t.pace.avsOut = some 750)) ∧
   (∀ s, s.md.cur = .watch → s.pwr.trans = none → perstLow s = false → let n := regFld s 0x30034 31 0
     n ≠ 0 → s.pwr.since + n * 1000000000 ≤ now s → Answers .wakeTimerExpiry s fun t =>
       t.pwr.wakeSrc = 4 ∧ t.pwr.wakeFrom = 4 ∧ t.pwr.trans = some ⟨s.pwr.lastOp, true, true, none⟩ ∧
       t = { s with pwr := t.pwr, pace := { s.pace with avsOut := some 750, avsAt := now s } }) ∧
   (∀ s, s.md.cur = .watch → s.pwr.trans = none → perstLow s = false → Answers .hostL12Exit s fun t =>
     t.pwr.wakeSrc = 1 ∧ t.pwr.trans = some ⟨s.pwr.lastOp, true, true, none⟩ ∧
     t = { s with pwr := t.pwr, pace := { s.pace with avsOut := some 750, avsAt := now s } }) ∧
   (∀ s, s.md.cur = .watch → s.pwr.trans = none → perstLow s = false → Answers .sidebandWakePacket s fun t =>
     t.pwr.wakeSrc = 5 ∧ t.pwr.trans = some ⟨s.pwr.lastOp, true, true, none⟩ ∧
     t = { s with pwr := t.pwr, pace := { s.pace with avsOut := some 750, avsAt := now s } }) ∧
   (∀ s c, c ∈ [Instr.hostL12Exit, .sidebandWakePacket, .wakeTimerExpiry] → perstLow s = true ∨ s.pwr.trans ≠ none → exec c s = .next s) ∧
   (∀ p s u, s.pwr.trans = some u → s.pwr.coreOff = true → s.md.cur = .watch → p.retentionOk = true → p.dramCopyOk = true → p.ranksOk = true →
     firstFailed p.tests = 0 → (∀ k, k < 8 → p.tests.gcmOk.getD k false = true) → s.pwr.zerDone = false → Answers (.vcoreGood p) s fun t =>
       t.pwr.coreOff = false ∧ t.pwr.trans = some { u with drained := true } ∧ t.pace.vset = 750 ∧ t.sram.cells = [] ∧ t.sec.st = 1 ∧
       t.md.cur = .watch ∧ t.cache = s.cache ∧ t.vault = s.vault ∧ t.nss = s.nss) ∧
   (∀ p s u, s.pwr.trans = some u → s.pwr.coreOff = true → s.md.cur = .watch → p.retentionOk = false → Answers (.vcoreGood p) s fun t =>
     t.md.cur = .start ∧ t.md.stage = 1 ∧ t.md.reason = 8 ∧ t.md.fail = true ∧ t.pwr.coreOff = false ∧ t.pwr.trans = none ∧
     t.fns = [] ∧ QueuesGone t ∧ t.cache = [] ∧ t.vault.live = {} ∧ t.nss = (cfgReload s).nss))

/-- Operations of the LUNs, and training of their channels.

Operations of a LUN (R285, R287, R288, R291, R292, R298 to R304): a page read whose codewords are recovered waits for its remaining pages; a suspend is counted
and then takes effect; a program's end confirms its page, or retires the block; an erase's end makes the block erased, or retires it, or has a suspect
one probed, whose 0 bits then decide; a third timeout in a row fails the LUN. A read with codewords not decoded climbs the next rung of the ladder.

Flash channel training (R277 to R279): a drift check that is due records the margin, and an eye below the floor starts a retrain, which CHU_TRAIN also starts; at its end
the channel runs at the rate whose eye passed, 4,800 MT/s only where every die of it reports DQ training (R276), and at neither it is gated. -/
def Obligations.FlashUnits : Prop :=
  ((∀ l oks s x n page blk r, s.runs.find? (fun x => x.res = .lun l && !x.kerf && isRead x.op.work && !isProbe x.op.work) = some x → x.op.work = .lunRead n page blk →
     tget none s.rjobs n = some r → r.gen = genOf s r.func → x.op.rung = .hard → oks.length = x.op.cws.length → (∀ y ∈ s.runs, y.res = .lun l → y = x) →
     ((∀ b ∈ oks, b = true) → r.pages.filter (· ≠ page) ≠ [] → Answers (.lunReadComplete l oks) s fun t =>
       tget none t.rjobs n = some { r with pages := r.pages.filter (· ≠ page) } ∧ (lunOf t l).timeouts = 0 ∧ x ∉ t.runs ∧
       t = { s with rjobs := t.rjobs, luns := t.luns, runs := t.runs }) ∧
     (let left := ((x.op.cws.zip oks).filter fun e => !e.2).map Prod.fst
      left ≠ [] → r.limit = none → fld (eccCtrl s l) 1 0 ≠ 0 → Answers (.lunReadComplete l oks) s fun t =>
       t.ops = s.ops ++ [{ x.op with rung := .soft 3, cws := left }] ∧ (lunOf t l).timeouts = 0 ∧ x ∉ t.runs ∧
       t = { s with ops := t.ops, luns := t.luns, runs := t.runs })) ∧
   (∀ s l, (fld (eccCtrl s l) 1 0 = 0 → fld (eccCtrl s l) 11 8 = 0 → nextRung s l .hard = none) ∧
     (fld (eccCtrl s l) 11 8 ≠ 0 → nextRung s l (.soft (2 * fld (eccCtrl s l) 1 0 + 1)) = some (.retry 0)) ∧
     ∀ k, fld (eccCtrl s l) 11 8 ≤ k + 1 → nextRung s l (.retry k) = none) ∧
   (∀ l s x, lunMain s l = some x → x.kerf = false → x.suspended = false → x.suspending = false → x.suspends < 16 →
     suspendable s l x.op.work = true → ioServes s = true → x.since + minRun s l x.op.work ≤ now s →
     (∃ o ∈ waitingReads s l, internalSt s o = none ∧ clsRank (effCls s o) ≤ clsRank .low ∧ clsRank (effCls s o) < clsRank x.op.cls) →
     Answers (.suspendMinRun l) s fun t =>
       t.runs = s.runs.map (fun y => if y = x then { y with suspending := true } else y) ∧
       tget 0 t.suspCount (lunSec l) = satInc 0xFFFFFFFF (tget 0 s.suspCount (lunSec l)) ∧
       t = { s with runs := t.runs, suspCount := t.suspCount }) ∧
   (∀ l s x, x ∈ s.runs → x.res = .lun l → x.suspending = true → Answers (.lunSuspended l) s fun t =>
     { x with suspending := false, suspended := true, suspends := x.suspends + 1, served := 0 } ∈ t.runs ∧ t = { s with runs := t.runs }) ∧
   (∀ l s x ns z k e, runOn s (.lun l) = some x → x.op.work = .program ns z k e → x.suspends < 16 →
     exec (.programComplete l false) s = .next (pageDone ns z k e (modLun l (fun u => { u with timeouts := 0 }) (endRun x s)))) ∧
   (∀ l s x b, runOn s (.lun l) = some x → x.op.work = .orphan b → x.suspends < 16 →
     exec (.programComplete l true) s = .next (retireBlk l b (modLun l (fun u => { u with timeouts := 0 }) (endRun x s)))) ∧
   (∀ l b s, (blkOf (lunOf (retireBlk l b s) l) b).st = .bad ∧ (lunOf (retireBlk l b s) l).grown = (lunOf s l).grown + 1 ∧
     (lunOf (retireBlk l b s) l).spare = (lunOf s l).spare - 1) ∧
   (∀ l b z s x m, runOn s (.lun l) = some x → x.op.work = .erase m b → s.san.running = false → x.suspends < 16 →
     let u := modLun l (fun u => { u with timeouts := 0 }) (endRun x s)
     let v := modBlk l b (fun k => { k with erases := k.erases + 1 }) u
     ((blkOf (lunOf s l) b).probes = 0 → exec (.eraseComplete l false z) s = .next (erasedBlk l b v)) ∧
     ((blkOf (lunOf s l) b).probes ≠ 0 →
       exec (.eraseComplete l false z) s = .next (wearPass l (queueOp (newOp (.probe b) (.lun l) .maintenance (now s) 0 (genOf s 0) v) v))) ∧
     exec (.eraseComplete l true z) s = .next (eraseNext l b (retireBlk l b u)) ∧
     ((blkOf (lunOf s l) b).probes = 0 → (∀ e ∈ s.jobs, ∀ j, e.2 = some j → j.stage ≠ .order) → lunPositions s l = [] → s.rels = [] →
       Answers (.eraseComplete l false z) s fun t =>
       (blkOf (lunOf t l) b).st = .erased ∧ (blkOf (lunOf t l) b).erases = (blkOf (lunOf s l) b).erases + 1 ∧ t.nss = s.nss ∧ t.zones = s.zones) ∧
     (lunPositions s l = [] → s.rels = [] →
       Answers (.eraseComplete l true z) s fun t => (blkOf (lunOf t l) b).st = .bad ∧ (lunOf t l).grown = (lunOf s l).grown + 1)) ∧
   (∀ l b z f s x, runOn s (.lun l) = some x → x.op.work = .probe b →
     exec (.eraseComplete l f z) s = .next (lunResume l (probeEnd l b z (readOver l x s)))) ∧
   (∀ l b z s, (z ≤ regFld s (secBase (lunSec l) + 0x114) 15 0 → probeEnd l b z s = erasedBlk l b s) ∧
     (regFld s (secBase (lunSec l) + 0x114) 15 0 < z → (blkOf (lunOf s l) b).probes < 3 →
       probeEnd l b z s = queueErase l b (modBlk l b (fun k => { k with st := .suspect }) s)) ∧
     (regFld s (secBase (lunSec l) + 0x114) 15 0 < z → 3 ≤ (blkOf (lunOf s l) b).probes →
       probeEnd l b z s = eraseNext l b (sanErased (l, b) (retireBlk l b s)))) ∧
   (∀ l s x, s.runs.find? (fun x => x.res = .lun l && !x.kerf && !x.suspended) = some x → (lunOf s l).timeouts < 2 →
     Answers (.flashOperationTimeout l) s fun t => (lunOf t l).timeouts = (lunOf s l).timeouts + 1 ∧ t.ops = s.ops ++ [x.op] ∧
       x ∉ t.runs ∧ t = { s with luns := t.luns, ops := t.ops, runs := t.runs })) ∧
  ((∀ c eye s, flashOn s = true → (chanOf s c).gated = false → (chanOf s c).retraining = false →
     ((chanOf s c).checkDue = true ∨ (chanOf s c).lastCheck + 1000000 * regFld s (chuBase c + 8) 15 0 ≤ now s ∨
       80 ≤ (s.therm.last - (chanOf s c).lastTj).natAbs) →
     (regFld s (chuBase c + 8) 23 16 ≤ eye → Answers (.flashDriftCheck c eye) s fun t =>
       (chanOf t c).margin = eye ∧ (chanOf t c).retraining = false ∧ (chanOf t c).lastCheck = now s ∧ t = { s with chans := t.chans }) ∧
     (eye < regFld s (chuBase c + 8) 23 16 → c < 64 → (∀ d, d / 8 = c / 8 → (chanOf s d).retraining = false ∧ (chanOf s d).wantRetrain = false) →
       Answers (.flashDriftCheck c eye) s fun t => (chanOf t c).margin = eye ∧ (chanOf t c).retraining = true ∧ t = { s with chans := t.chans })) ∧
   (∀ c s, c < 64 → flashOn s = true → (chanOf s c).gated = false → (∀ d, d / 8 = c / 8 → (chanOf s d).retraining = false ∧
     (chanOf s d).wantRetrain = false) → Answers (.channelRetrain c) s fun t => (chanOf t c).retraining = true ∧ t = { s with chans := t.chans }) ∧
   (∀ p s, (chanOf s p.chan).retraining = true → 
     ((regFld s (chuBase p.chan) 1 0 = 1 ∧ chanDq s p.chan = true ∧ eyePass p.eye4800 p.height4800 = true) ∨ eyePass p.eye3600 p.height3600 = true) →
     (∀ d, (chanOf s d).wantRetrain = false) → Answers (.channelRetrainComplete p) s fun t =>
       (chanOf t p.chan).gated = false ∧ (chanOf t p.chan).retraining = false ∧ (chanOf t p.chan).lastTj = s.therm.last ∧
       (regFld s (chuBase p.chan) 1 0 = 1 → chanDq s p.chan = true → eyePass p.eye4800 p.height4800 = true →
         (chanOf t p.chan).rateCur = 1 ∧ (chanOf t p.chan).margin = p.eye4800 ∧ (chanOf t p.chan).fallback = false) ∧
       ((regFld s (chuBase p.chan) 1 0 ≠ 1 ∨ chanDq s p.chan = false) → eyePass p.eye3600 p.height3600 = true →
         (chanOf t p.chan).rateCur = 0 ∧ (chanOf t p.chan).margin = p.eye3600) ∧ t = { s with chans := t.chans, luns := t.luns }) ∧
   (∀ rate dq tj n p c, ¬ (rate = 1 ∧ dq = true ∧ eyePass p.eye4800 p.height4800 = true) → eyePass p.eye3600 p.height3600 = false →
     (trainChan rate dq tj n p c).gated = true ∧ (trainChan rate dq tj n p c).trained = false))

/-- Queues, aborts and event requests.

The queue commands (R105 to R107, R127, R157): a created queue has the size, base, priority, vector and interrupt enable of its
command; deleting a submission queue ends its admitted commands first with Command Aborted due to SQ Deletion; a completion queue that a
submission queue uses is not deleted, and one that is frees the slots of the entries that wait for it.

Abort and Asynchronous Event Request (R125, R143, R166 to R168): an undecided target ends with Abort Requested, and the Abort succeeds once the
target's entry is written; a target that is not there gives dword 0 the value 1; an event request is held outstanding when no event waits, a ninth is refused. -/
def Obligations.QueuesAbortsAndEvents : Prop :=
  ((∀ id s c, AdminRuns s id 0x05 c → bitOf c.e.cdw11 0 = true →
     let q := fld c.e.cdw10 15 0
     let n := fld c.e.cdw10 31 16
     let v := fld c.e.cdw11 31 16
     q ≠ 0 → q ≤ queueLimit s id.func → cqOf s id.func q = none → n ≠ 0 → n ≤ 0xFFF → v < fnVectors s id.func →
     exec (.createIoCompletionQueue id) s = .next (finishSt id okSt { s with cqs := s.cqs ++
       [{ func := id.func, id := q, size := n + 1, vec := v, ien := bitOf c.e.cdw11 1, base := queueBase c.e }] })) ∧
   (∀ id s c, AdminRuns s id 0x01 c → bitOf c.e.cdw11 0 = true →
     let q := fld c.e.cdw10 15 0
     let n := fld c.e.cdw10 31 16
     let cq := fld c.e.cdw11 31 16
     q ≠ 0 → q ≤ queueLimit s id.func → sqOf s id.func q = none → n ≠ 0 → n ≤ 0xFFF → cq ≠ 0 → (cqOf s id.func cq).isSome = true →
     exec (.createIoSubmissionQueue id) s = .next (finishSt id okSt { s with sqs := s.sqs ++
       [{ func := id.func, id := q, cq := cq, size := n + 1, prio := fld c.e.cdw11 2 1, base := queueBase c.e }] })) ∧
   (∀ id s c, AdminRuns s id 0x00 c →
     let q := fld c.e.cdw10 15 0
     q ≠ 0 → (sqOf s id.func q).isSome = true →
     let u := (s.cmds.filter fun d => d.id.func = id.func && d.id.sq = q && d.phase ≠ .decided).foldl (fun s d => stopCmd ⟨0, 8, false⟩ d s) s
     exec (.deleteIoSubmissionQueue id) s =
       .next (finishSt id okSt { u with sqs := u.sqs.filter fun x => !(x.func = id.func && x.id = q) }) ∧
     ((∀ d ∈ s.cmds, d.id.func = id.func → d.id.sq = q → d.phase = .decided) → u = s)) ∧
   (∀ id s c x, AdminRuns s id 0x04 c →
     let q := fld c.e.cdw10 15 0
     q ≠ 0 → cqOf s id.func q = some x →
     let u := x.waiting.foldl (fun s e => if e.aer then s else freeSlot ⟨id.func, e.e.sq, e.e.cid⟩ s) s
     ((∀ y ∈ s.sqs, y.func = id.func → y.cq ≠ q) → exec (.deleteIoCompletionQueue id) s =
       .next (finishSt id okSt { u with cqs := u.cqs.filter fun y => !(y.func = id.func && y.id = q) })) ∧
     ((∃ y ∈ s.sqs, y.func = id.func ∧ y.cq = q) → exec (.deleteIoCompletionQueue id) s = .next (finishSt id ⟨1, 0x0C, true⟩ s)))) ∧
  ((∀ id s c d, AdminRuns s id 0x08 c →
     let t : CmdId := ⟨id.func, fld c.e.cdw10 15 0, fld c.e.cdw10 31 16⟩
     (∀ x ∈ s.cmds, x.id.func = id.func → x.id.sq = 0 → x.e.opc = 0x08 → c.ord ≤ x.ord) → t.sq ≠ 0 → cmdOf s t = some d → d.phase ≠ .decided →
     exec (.abort id) s = .next (abortsGo (stopCmd ⟨0, 7, false⟩ d (modCmd id (fun c => { c with phase := .held, aux := 1 }) s)))) ∧
   (∀ id s c, AdminRuns s id 0x08 c →
     let t : CmdId := ⟨id.func, fld c.e.cdw10 15 0, fld c.e.cdw10 31 16⟩
     (∀ x ∈ s.cmds, x.id.func = id.func → x.id.sq = 0 → x.e.opc = 0x08 → c.ord ≤ x.ord) → t.sq ≠ 0 → cmdOf s t = none →
     exec (.abort id) s = .next (finish id okSt 1 0 s)) ∧
   (∀ id s c, adminCmd s id 0x0C = some c → (fnOf s id.func).aers.length < 8 → (fnOf s id.func).events = [] →
     Answers (.asynchronousEventRequest id) s fun t =>
       (fnOf t id.func).aers = (fnOf s id.func).aers ++ [id.cid] ∧ t.cmds = s.cmds.filter (fun x => x.id ≠ id) ∧ t.sent = s.sent ∧
       t = { s with fns := t.fns, cmds := t.cmds }) ∧
   (∀ id s c, adminCmd s id 0x0C = some c → 8 ≤ (fnOf s id.func).aers.length →
     exec (.asynchronousEventRequest id) s = .next (finishSt id ⟨1, 5, true⟩ s)))

/-- The end of a reset's drain, and what lets a controller become ready.

The end of a reset's drain (R121): CSTS.RDY of the function reads 0 and no translation of it is cached, of every function after a reset of all; a TENANT_RESET that
waits for it ends DONE with the new generation in RESULT_0.

CC.EN written 0 to 1 (R71, R101, R157): the controller becomes ready with its admin queue pair, as sized by AQA; CC.AMS above 1 sets CSTS.CFS
and enables nothing; during START the write is held. A link that comes up is recorded, and port 0 serves; none comes up while the PHYs are
stopped (R386). -/
def Obligations.DrainsAndEnabling : Prop :=
  ((∀ f k s, (fnOf s f).drain = some k → k < 16 → s.mbx.run = none → Answers (.resetDrainDone f) s fun t =>
     t = { s with fns := tset {} s.fns f { fnOf s f with
       drain := none, rdy := false, cfs := false, pp := false, ats := false, flr := false, cfgReset := (fnOf s f).cfgReset || (fnOf s f).flr } }) ∧
   (∀ f k s, (fnOf s f).drain = some k → 16 ≤ k → s.mbx.run = none → Answers (.resetDrainDone f) s fun t =>
     (∀ g, (fnOf t g).rdy = false ∧ (fnOf t g).drain = none ∧ (fnOf t g).ats = false) ∧ t = { s with fns := t.fns }) ∧
   (∀ f k s r, (fnOf s f).drain = some k → s.mbx.run = some r → r.opc = 0x0205 → r.paused = false → r.waitStart = false →
     (r.args.getD 0 0).toNat + 1 = f → exec (.resetDrainDone f) s = .next (mbxDone [(0, w32 (genOf s f).toNat)] (drainDone f s)))) ∧
  ((∀ f ams s, (fnOf s f).en = false → fnPresent s f = true → (fnOf s f).drain = none → served s = true →
     s.fw.act = none →
     (BitVec.toNat ams ≤ 1 → (f = 0 ∨ (tnOf s (f - 1)).st = .enabled) → Answers (.controllerEnable f ams) s fun t =>
       (fnOf t f).en = true ∧ (fnOf t f).rdy = true ∧ (fnOf t f).ams = ams.toNat ∧
       sqOf t f 0 = some { func := f, id := 0, cq := 0, size := fld (fnOf s f).aqa 11 0 + 1, prio := 0, base := (fnOf s f).asq.toNat } ∧
       cqOf t f 0 = some { func := f, id := 0, size := fld (fnOf s f).aqa 27 16 + 1, vec := 0, ien := true, base := (fnOf s f).acq.toNat } ∧
       t = { s with fns := t.fns, sqs := t.sqs, cqs := t.cqs, fw := t.fw }) ∧
     (1 < ams.toNat → Answers (.controllerEnable f ams) s fun t => (fnOf t f).cfs = true ∧ (fnOf t f).en = false ∧
       t = { s with fns := t.fns })) ∧
   (∀ f ams s, (fnOf s f).en = false → fnPresent s f = true → (fnOf s f).drain = none → s.md.stage ≠ 8 →
     Answers (.controllerEnable f ams) s fun t => (fnOf t f).enHeld = true ∧ (fnOf t f).rdy = (fnOf s f).rdy ∧ t = { s with fns := t.fns }) ∧
   (∀ s, s.pin.perst = false → s.pin.serving = 0 → physOff s = false → exec (.linkUp 0) s = .next { s with pin := { s.pin with p0Up := true } }) ∧
   (∀ s, s.pin.perst1 = false → s.pin.dual = true → s.pin.p0Up = true → s.pin.serving = 0 → physOff s = false →
     exec (.linkUp 1) s = .next { s with pin := { s.pin with p1Up := true } }) ∧
   (∀ p s, physOff s = true → exec (.linkUp p) s = .next s))
end

