-- ==== Sys2Proof/Laws/Bytes.lean ====
section
/-!
SUPPORT. Byte strings: lengths, and numbers to bytes and back.
-/
namespace Sys2Proof.Machine

open Sys2Proof

@[simp] theorem leBytes_length (n x : Nat) : (leBytes n x).length = n := by
  induction n generalizing x with
  | zero => rfl
  | succ n ih => simp [leBytes, ih]

@[simp] theorem beBytes_length (n x : Nat) : (beBytes n x).length = n := by simp [beBytes]

@[simp] theorem bytesAt_length (b : List Byte) (o n : Nat) : (bytesAt b o n).length = n := by
  simp only [bytesAt, List.length_append, List.length_replicate, List.length_take, List.length_drop]; omega

theorem leNat_lt (b : List Byte) : leNat b < 256 ^ b.length := by
  induction b with
  | nil => exact Nat.one_pos
  | cons x b ih =>
    have := x.isLt
    rw [List.length_cons, Nat.pow_succ, leNat]; omega

/-- The little-endian bytes of the number that bytes stand for are those bytes. -/
theorem leBytes_leNat (b : List Byte) : leBytes b.length (leNat b) = b := by
  induction b with
  | nil => rfl
  | cons x b ih =>
    have hx := x.isLt
    have h1 : BitVec.ofNat 8 (x.toNat + 256 * leNat b) = x := by
      apply BitVec.eq_of_toNat_eq; simp only [BitVec.toNat_ofNat]; omega
    have h2 : (x.toNat + 256 * leNat b) / 256 = leNat b := by omega
    rw [List.length_cons, leBytes, leNat, h1, h2, ih]

/-- Reading back the number that was written in `n` bytes. -/
theorem leNat_leBytes (n x : Nat) : leNat (leBytes n x) = x % 256 ^ n := by
  induction n generalizing x with
  | zero => simp [leBytes, leNat, Nat.mod_one]
  | succ n ih =>
    rw [leBytes, leNat, ih, BitVec.toNat_ofNat, show 256 ^ (n + 1) = 256 * 256 ^ n by rw [Nat.pow_succ, Nat.mul_comm], Nat.mod_mul]

theorem bytesAt_eq (b : List Byte) (o n : Nat) (h : o + n ≤ b.length) : bytesAt b o n = (b.drop o).take n := by
  have : ((b.drop o).take n).length = n := by rw [List.length_take, List.length_drop]; omega
  simp [bytesAt, this]

theorem shaRound_length (kw : BitVec 64) (v : List (BitVec 64)) (h : v.length = 8) : (shaRound kw v).length = 8 := by
  unfold shaRound; split
  · rfl
  · exact h

theorem shaTurns_length (ks : List (BitVec 64)) (p : List (BitVec 64) × List (BitVec 64)) (h : p.2.length = 8) :
    (ks.foldl shaTurn p).2.length = 8 := by
  induction ks generalizing p with
  | nil => exact h
  | cons k ks ih => exact ih _ (shaRound_length _ _ h)

theorem shaBlock_length (h : List (BitVec 64)) (b : List Byte) (hl : h.length = 8) : (shaBlock h b).length = 8 := by
  simp [shaBlock, hl, shaTurns_length]

theorem shaBlocks_length (n : Nat) (h : List (BitVec 64)) (bs : List Byte) (hl : h.length = 8) : (shaBlocks n h bs).length = 8 := by
  induction n generalizing h bs with
  | zero => exact hl
  | succ n ih => exact ih _ _ (shaBlock_length h _ hl)

/-- A SHA-384 digest has 48 bytes. -/
@[simp] theorem sha384_length (m : List Byte) : (sha384 m).length = 48 := by
  have h := shaBlocks_length ((shaPad m).length / 128) shaH0 (shaPad m) (by decide)
  simp only [sha384, List.length_take, List.length_flatten, List.map_map]
  rw [show (shaBlocks ((shaPad m).length / 128) shaH0 (shaPad m)).map (List.length ∘ fun x => beBytes 8 x.toNat) =
    (shaBlocks ((shaPad m).length / 128) shaH0 (shaPad m)).map fun _ => 8 from List.map_congr_left fun x _ => beBytes_length 8 x.toNat,
    List.map_const', List.sum_replicate_nat, h]
  rfl

/-- An HMAC-SHA-384 has 48 bytes. -/
@[simp] theorem hmac384_length (k m : List Byte) : (hmac384 k m).length = 48 := by simp [hmac384]

end Sys2Proof.Machine
end

