-- ==== Sys2Proof/Laws/Table.lean ====
section
/-!
SUPPORT. The laws of the sparse table: reading after a write, the canonical form, and what mapping does to both.
-/
namespace Sys2Proof.Machine

open Sys2Proof

variable {α : Type} {d : α}

@[simp] theorem tget_nil (i : Nat) : tget d ([] : Table α) i = d := rfl

theorem tget_cons (k : Nat) (v : α) (t : Table α) (i : Nat) :
    tget d ((k, v) :: t) i = if k = i then v else tget d t i := rfl

/-- A key below every listed one reads as the default. -/
theorem tget_below {t : Table α} {i : Nat} (h : ∀ e ∈ t, i < e.1) : tget d t i = d := by
  induction t with
  | nil => rfl
  | cons p t ih =>
    obtain ⟨k, v⟩ := p
    have hk : i < k := h (k, v) List.mem_cons_self
    rw [tget_cons, if_neg (by omega)]
    exact ih fun e he => h e (List.mem_cons_of_mem _ he)

/-- A key that is filtered away reads as the default. -/
theorem tget_drop (t : Table α) (i : Nat) : tget d (t.filter fun e => e.1 ≠ i) i = d := by
  induction t with
  | nil => rfl
  | cons p t ih =>
    obtain ⟨k, w⟩ := p
    by_cases h : k = i <;> simp_all [tget_cons]

/-- Filtering one key away leaves the others. -/
theorem tget_drop_ne (t : Table α) {i j : Nat} (h : i ≠ j) : tget d (t.filter fun e => e.1 ≠ i) j = tget d t j := by
  induction t with
  | nil => rfl
  | cons p t ih =>
    obtain ⟨k, w⟩ := p
    by_cases hk : k = i
    · subst hk; simp_all [tget_cons]
    · simp_all [tget_cons]

/-- Reading after an insertion. -/
theorem tget_tins (t : Table α) (i j : Nat) (v : α) : tget d (tins t i v) j = if i = j then v else tget d t j := by
  induction t with
  | nil => rfl
  | cons p t ih =>
    obtain ⟨k, w⟩ := p
    unfold tins
    split
    · simp [tget_cons]
    · split
      · next h => subst h; simp only [tget_cons]; split <;> rfl
      · simp only [tget_cons, ih]
        split
        · next h => subst h; split
                    · next h2 => exact absurd h2 ‹_›
                    · rfl
        · rfl

/-- Keys listed after an insertion are the key or were listed before. -/
theorem tins_mem {t : Table α} {i : Nat} {v : α} {e : Nat × α} (h : e ∈ tins t i v) : e = (i, v) ∨ e ∈ t := by
  induction t with
  | nil => simpa [tins] using h
  | cons p t ih =>
    obtain ⟨k, w⟩ := p
    simp only [tins] at h
    split at h
    · rcases List.mem_cons.1 h with h | h
      · exact .inl h
      · exact .inr h
    · split at h
      · rcases List.mem_cons.1 h with h | h
        · exact .inl h
        · exact .inr (List.mem_cons_of_mem _ h)
      · rcases List.mem_cons.1 h with h | h
        · exact .inr (h ▸ List.mem_cons_self)
        · rcases ih h with h | h
          · exact .inl h
          · exact .inr (List.mem_cons_of_mem _ h)

variable [DecidableEq α]

/-- A canonical table's head entry is no default, and its tail is canonical. -/
theorem twf_cons {k : Nat} {v : α} {t : Table α} (h : twf d ((k, v) :: t) = true) : v ≠ d ∧ twf d t = true := by
  cases t with
  | nil => simp_all [twf]
  | cons p t => obtain ⟨k', v'⟩ := p; simp [twf] at h; exact ⟨h.1.1, h.2⟩

/-- Every key of a canonical table's tail lies above its head's key. -/
theorem twf_lt {k : Nat} {v : α} {t : Table α} (h : twf d ((k, v) :: t) = true) : ∀ e ∈ t, k < e.1 := by
  induction t generalizing k v with
  | nil => simp
  | cons p t ih =>
    obtain ⟨k', v'⟩ := p
    simp [twf] at h
    intro e he
    rcases List.mem_cons.1 he with rfl | he
    · exact h.1.2
    · exact Nat.lt_trans h.1.2 (ih h.2 e he)

/-- How a canonical table is made: a non-default entry below every key of a canonical table. -/
theorem twf_mk {k : Nat} {v : α} {t : Table α} (hv : v ≠ d) (hl : ∀ e ∈ t, k < e.1) (ht : twf d t = true) :
    twf d ((k, v) :: t) = true := by
  cases t with
  | nil => simp [twf, hv]
  | cons p t => obtain ⟨k', v'⟩ := p; simp [twf, hv, ht, hl (k', v') List.mem_cons_self]

/-- Reading another key after a write gives what it held. -/
theorem tget_tset_ne (t : Table α) {i j : Nat} (v : α) (h : i ≠ j) : tget d (tset d t i v) j = tget d t j := by
  unfold tset
  split
  · exact tget_drop_ne t h
  · rw [tget_tins, if_neg h]

/-- Reading the key just written gives the value written. -/
theorem tget_tset_same (t : Table α) (i : Nat) (v : α) : tget d (tset d t i v) i = v := by
  unfold tset
  split
  · next h => rw [tget_drop, h]
  · rw [tget_tins, if_pos rfl]

/-- Keys listed after a write are the written key or were listed before. -/
theorem tset_mem {t : Table α} {i : Nat} {v : α} {e : Nat × α} (h : e ∈ tset d t i v) : e = (i, v) ∨ e ∈ t := by
  unfold tset at h
  split at h
  · exact .inr (List.mem_filter.1 h).1
  · exact tins_mem h

/-- An insertion of a value that is no default keeps the canonical form. -/
theorem twf_tins {t : Table α} (ht : twf d t = true) (i : Nat) {v : α} (hv : v ≠ d) : twf d (tins t i v) = true := by
  induction t with
  | nil => simp [tins, hv, twf]
  | cons p t ih =>
    obtain ⟨k, w⟩ := p
    have hc := twf_cons ht
    have hl := twf_lt ht
    simp only [tins]
    split
    · next h1 =>
      refine twf_mk hv ?_ ht
      intro e he
      rcases List.mem_cons.1 he with rfl | he
      · exact h1
      · exact Nat.lt_trans h1 (hl e he)
    · next h1 =>
      split
      · next h2 => exact twf_mk hv (fun e he => h2 ▸ hl e he) hc.2
      · next h2 =>
        refine twf_mk hc.1 ?_ (ih hc.2)
        intro e he
        rcases tins_mem he with rfl | he
        · show k < i; omega
        · exact hl e he

/-- Dropping entries keeps the canonical form. -/
theorem twf_filter {t : Table α} (p : Nat × α → Bool) (ht : twf d t = true) : twf d (t.filter p) = true := by
  induction t with
  | nil => rfl
  | cons q t ih =>
    obtain ⟨k, w⟩ := q
    have hc := twf_cons ht
    have hl := twf_lt ht
    rw [List.filter_cons]
    split
    · exact twf_mk hc.1 (fun e he => hl e (List.mem_filter.1 he).1) (ih hc.2)
    · exact ih hc.2

/-- A write keeps the canonical form. -/
theorem twf_tset {t : Table α} (ht : twf d t = true) (i : Nat) (v : α) : twf d (tset d t i v) = true := by
  unfold tset
  split
  · exact twf_filter _ ht
  · next hv => exact twf_tins ht i hv

/-- Mapping the listed values keeps the canonical form. -/
theorem twf_tmap {t : Table α} (f : Nat → α → α) (ht : twf d t = true) : twf d (tmap d f t) = true := by
  induction t with
  | nil => rfl
  | cons q t ih =>
    obtain ⟨k, w⟩ := q
    have hc := twf_cons ht
    have hl := twf_lt ht
    have hih := ih hc.2
    unfold tmap at hih ⊢
    rw [List.map_cons, List.filter_cons]
    split
    · next h =>
      refine twf_mk (by simpa using h) ?_ hih
      intro e he
      obtain ⟨x, hx, rfl⟩ := List.mem_map.1 (List.mem_filter.1 he).1
      exact hl x hx
    · exact hih

/-- What a mapped table reads, where the map keeps the default at the default. -/
theorem tget_tmap {t : Table α} (f : Nat → α → α) (hf : ∀ i, f i d = d) (ht : twf d t = true) (i : Nat) :
    tget d (tmap d f t) i = f i (tget d t i) := by
  induction t with
  | nil => simp [tmap, hf]
  | cons q t ih =>
    obtain ⟨k, w⟩ := q
    have hc := twf_cons ht
    have hl := twf_lt ht
    have hih := ih hc.2
    unfold tmap at hih ⊢
    rw [List.map_cons, List.filter_cons]
    by_cases hk : k = i
    · subst hk
      split
      · simp [tget_cons]
      · next h =>
        simp at h
        rw [hih, tget_below hl, hf, tget_cons, if_pos rfl, h]
    · split
      · rw [tget_cons, if_neg hk, hih, tget_cons, if_neg hk]
      · rw [hih, tget_cons, if_neg hk]

/-- The state of an untouched table is canonical. -/
@[simp] theorem twf_nil : twf d ([] : Table α) = true := rfl

end Sys2Proof.Machine
end

