-- ==== Sys2Proof/Laws/State.lean ====
section
/-!
SUPPORT. What each record update leaves alone, one field at a time, and what it writes; the tables built in one pass; the
register file.
-/
namespace Sys2Proof.Machine

open Sys2Proof

/-! ### modFn -/

@[simp] theorem modFn_clk (f : Nat) (g : Fn → Fn) (s : State) : (modFn f g s).clk = s.clk := rfl
@[simp] theorem modFn_norCfg (f : Nat) (g : Fn → Fn) (s : State) : (modFn f g s).norCfg = s.norCfg := rfl
@[simp] theorem modFn_journal (f : Nat) (g : Fn → Fn) (s : State) : (modFn f g s).journal = s.journal := rfl
@[simp] theorem modFn_rebs (f : Nat) (g : Fn → Fn) (s : State) : (modFn f g s).rebs = s.rebs := rfl
@[simp] theorem modFn_md (f : Nat) (g : Fn → Fn) (s : State) : (modFn f g s).md = s.md := rfl
@[simp] theorem modFn_pin (f : Nat) (g : Fn → Fn) (s : State) : (modFn f g s).pin = s.pin := rfl
@[simp] theorem modFn_regs (f : Nat) (g : Fn → Fn) (s : State) : (modFn f g s).regs = s.regs := rfl
@[simp] theorem modFn_rsv (f : Nat) (g : Fn → Fn) (s : State) : (modFn f g s).rsv = s.rsv := rfl
@[simp] theorem modFn_nor (f : Nat) (g : Fn → Fn) (s : State) : (modFn f g s).nor = s.nor := rfl
@[simp] theorem modFn_pPend (f : Nat) (g : Fn → Fn) (s : State) : (modFn f g s).pPend = s.pPend := rfl
@[simp] theorem modFn_psaveFail (f : Nat) (g : Fn → Fn) (s : State) : (modFn f g s).psaveFail = s.psaveFail := rfl
@[simp] theorem modFn_aonQ (f : Nat) (g : Fn → Fn) (s : State) : (modFn f g s).aonQ = s.aonQ := rfl
@[simp] theorem modFn_aonHeld (f : Nat) (g : Fn → Fn) (s : State) : (modFn f g s).aonHeld = s.aonHeld := rfl
@[simp] theorem modFn_refuse (f : Nat) (g : Fn → Fn) (s : State) : (modFn f g s).refuse = s.refuse := rfl
@[simp] theorem modFn_wvTop (f : Nat) (g : Fn → Fn) (s : State) : (modFn f g s).wvTop = s.wvTop := rfl
@[simp] theorem modFn_wvVf (f : Nat) (g : Fn → Fn) (s : State) : (modFn f g s).wvVf = s.wvVf := rfl
@[simp] theorem modFn_gat (f : Nat) (g : Fn → Fn) (s : State) : (modFn f g s).gat = s.gat := rfl
@[simp] theorem modFn_pace (f : Nat) (g : Fn → Fn) (s : State) : (modFn f g s).pace = s.pace := rfl
@[simp] theorem modFn_mbx (f : Nat) (g : Fn → Fn) (s : State) : (modFn f g s).mbx = s.mbx := rfl
@[simp] theorem modFn_numVfs (f : Nat) (g : Fn → Fn) (s : State) : (modFn f g s).numVfs = s.numVfs := rfl
@[simp] theorem modFn_vfEnable (f : Nat) (g : Fn → Fn) (s : State) : (modFn f g s).vfEnable = s.vfEnable := rfl
@[simp] theorem modFn_tenants (f : Nat) (g : Fn → Fn) (s : State) : (modFn f g s).tenants = s.tenants := rfl
@[simp] theorem modFn_gens (f : Nat) (g : Fn → Fn) (s : State) : (modFn f g s).gens = s.gens := rfl
@[simp] theorem modFn_sqs (f : Nat) (g : Fn → Fn) (s : State) : (modFn f g s).sqs = s.sqs := rfl
@[simp] theorem modFn_cqs (f : Nat) (g : Fn → Fn) (s : State) : (modFn f g s).cqs = s.cqs := rfl
@[simp] theorem modFn_cmds (f : Nat) (g : Fn → Fn) (s : State) : (modFn f g s).cmds = s.cmds := rfl
@[simp] theorem modFn_nextOrd (f : Nat) (g : Fn → Fn) (s : State) : (modFn f g s).nextOrd = s.nextOrd := rfl
@[simp] theorem modFn_sent (f : Nat) (g : Fn → Fn) (s : State) : (modFn f g s).sent = s.sent := rfl
@[simp] theorem modFn_qos (f : Nat) (g : Fn → Fn) (s : State) : (modFn f g s).qos = s.qos := rfl
@[simp] theorem modFn_nss (f : Nat) (g : Fn → Fn) (s : State) : (modFn f g s).nss = s.nss := rfl
@[simp] theorem modFn_zones (f : Nat) (g : Fn → Fn) (s : State) : (modFn f g s).zones = s.zones := rfl
@[simp] theorem modFn_profiles (f : Nat) (g : Fn → Fn) (s : State) : (modFn f g s).profiles = s.profiles := rfl
@[simp] theorem modFn_conv (f : Nat) (g : Fn → Fn) (s : State) : (modFn f g s).conv = s.conv := rfl
@[simp] theorem modFn_cache (f : Nat) (g : Fn → Fn) (s : State) : (modFn f g s).cache = s.cache := rfl
@[simp] theorem modFn_jobs (f : Nat) (g : Fn → Fn) (s : State) : (modFn f g s).jobs = s.jobs := rfl
@[simp] theorem modFn_rjobs (f : Nat) (g : Fn → Fn) (s : State) : (modFn f g s).rjobs = s.rjobs := rfl
@[simp] theorem modFn_rels (f : Nat) (g : Fn → Fn) (s : State) : (modFn f g s).rels = s.rels := rfl
@[simp] theorem modFn_offs (f : Nat) (g : Fn → Fn) (s : State) : (modFn f g s).offs = s.offs := rfl
@[simp] theorem modFn_nextJob (f : Nat) (g : Fn → Fn) (s : State) : (modFn f g s).nextJob = s.nextJob := rfl
@[simp] theorem modFn_ops (f : Nat) (g : Fn → Fn) (s : State) : (modFn f g s).ops = s.ops := rfl
@[simp] theorem modFn_runs (f : Nat) (g : Fn → Fn) (s : State) : (modFn f g s).runs = s.runs := rfl
@[simp] theorem modFn_fltc (f : Nat) (g : Fn → Fn) (s : State) : (modFn f g s).fltc = s.fltc := rfl
@[simp] theorem modFn_fltcMiss (f : Nat) (g : Fn → Fn) (s : State) : (modFn f g s).fltcMiss = s.fltcMiss := rfl
@[simp] theorem modFn_cdc (f : Nat) (g : Fn → Fn) (s : State) : (modFn f g s).cdc = s.cdc := rfl
@[simp] theorem modFn_cip (f : Nat) (g : Fn → Fn) (s : State) : (modFn f g s).cip = s.cip := rfl
@[simp] theorem modFn_vault (f : Nat) (g : Fn → Fn) (s : State) : (modFn f g s).vault = s.vault := rfl
@[simp] theorem modFn_co (f : Nat) (g : Fn → Fn) (s : State) : (modFn f g s).co = s.co := rfl
@[simp] theorem modFn_sec (f : Nat) (g : Fn → Fn) (s : State) : (modFn f g s).sec = s.sec := rfl
@[simp] theorem modFn_fw (f : Nat) (g : Fn → Fn) (s : State) : (modFn f g s).fw = s.fw := rfl
@[simp] theorem modFn_chans (f : Nat) (g : Fn → Fn) (s : State) : (modFn f g s).chans = s.chans := rfl
@[simp] theorem modFn_luns (f : Nat) (g : Fn → Fn) (s : State) : (modFn f g s).luns = s.luns := rfl
@[simp] theorem modFn_suspCount (f : Nat) (g : Fn → Fn) (s : State) : (modFn f g s).suspCount = s.suspCount := rfl
@[simp] theorem modFn_suspExh (f : Nat) (g : Fn → Fn) (s : State) : (modFn f g s).suspExh = s.suspExh := rfl
@[simp] theorem modFn_locks (f : Nat) (g : Fn → Fn) (s : State) : (modFn f g s).locks = s.locks := rfl
@[simp] theorem modFn_dram (f : Nat) (g : Fn → Fn) (s : State) : (modFn f g s).dram = s.dram := rfl
@[simp] theorem modFn_sram (f : Nat) (g : Fn → Fn) (s : State) : (modFn f g s).sram = s.sram := rfl
@[simp] theorem modFn_pwr (f : Nat) (g : Fn → Fn) (s : State) : (modFn f g s).pwr = s.pwr := rfl
@[simp] theorem modFn_hk (f : Nat) (g : Fn → Fn) (s : State) : (modFn f g s).hk = s.hk := rfl
@[simp] theorem modFn_hold (f : Nat) (g : Fn → Fn) (s : State) : (modFn f g s).hold = s.hold := rfl
@[simp] theorem modFn_therm (f : Nat) (g : Fn → Fn) (s : State) : (modFn f g s).therm = s.therm := rfl
@[simp] theorem modFn_zer (f : Nat) (g : Fn → Fn) (s : State) : (modFn f g s).zer = s.zer := rfl
@[simp] theorem modFn_rep (f : Nat) (g : Fn → Fn) (s : State) : (modFn f g s).rep = s.rep := rfl
@[simp] theorem modFn_mig (f : Nat) (g : Fn → Fn) (s : State) : (modFn f g s).mig = s.mig := rfl
@[simp] theorem modFn_flt (f : Nat) (g : Fn → Fn) (s : State) : (modFn f g s).flt = s.flt := rfl
@[simp] theorem modFn_ctr (f : Nat) (g : Fn → Fn) (s : State) : (modFn f g s).ctr = s.ctr := rfl
@[simp] theorem modFn_ctrStored (f : Nat) (g : Fn → Fn) (s : State) : (modFn f g s).ctrStored = s.ctrStored := rfl
@[simp] theorem modFn_san (f : Nat) (g : Fn → Fn) (s : State) : (modFn f g s).san = s.san := rfl
@[simp] theorem modFn_replayed (f : Nat) (g : Fn → Fn) (s : State) : (modFn f g s).replayed = s.replayed := rfl
@[simp] theorem modFn_freeCtr (f : Nat) (g : Fn → Fn) (s : State) : (modFn f g s).freeCtr = s.freeCtr := rfl
@[simp] theorem modFn_pending (f : Nat) (g : Fn → Fn) (s : State) : (modFn f g s).pending = s.pending := rfl

/-! ### modTn -/

@[simp] theorem modTn_clk (t : Nat) (g : Tenant → Tenant) (s : State) : (modTn t g s).clk = s.clk := rfl
@[simp] theorem modTn_norCfg (t : Nat) (g : Tenant → Tenant) (s : State) : (modTn t g s).norCfg = s.norCfg := rfl
@[simp] theorem modTn_journal (t : Nat) (g : Tenant → Tenant) (s : State) : (modTn t g s).journal = s.journal := rfl
@[simp] theorem modTn_rebs (t : Nat) (g : Tenant → Tenant) (s : State) : (modTn t g s).rebs = s.rebs := rfl
@[simp] theorem modTn_md (t : Nat) (g : Tenant → Tenant) (s : State) : (modTn t g s).md = s.md := rfl
@[simp] theorem modTn_pin (t : Nat) (g : Tenant → Tenant) (s : State) : (modTn t g s).pin = s.pin := rfl
@[simp] theorem modTn_regs (t : Nat) (g : Tenant → Tenant) (s : State) : (modTn t g s).regs = s.regs := rfl
@[simp] theorem modTn_rsv (t : Nat) (g : Tenant → Tenant) (s : State) : (modTn t g s).rsv = s.rsv := rfl
@[simp] theorem modTn_nor (t : Nat) (g : Tenant → Tenant) (s : State) : (modTn t g s).nor = s.nor := rfl
@[simp] theorem modTn_pPend (t : Nat) (g : Tenant → Tenant) (s : State) : (modTn t g s).pPend = s.pPend := rfl
@[simp] theorem modTn_psaveFail (t : Nat) (g : Tenant → Tenant) (s : State) : (modTn t g s).psaveFail = s.psaveFail := rfl
@[simp] theorem modTn_aonQ (t : Nat) (g : Tenant → Tenant) (s : State) : (modTn t g s).aonQ = s.aonQ := rfl
@[simp] theorem modTn_aonHeld (t : Nat) (g : Tenant → Tenant) (s : State) : (modTn t g s).aonHeld = s.aonHeld := rfl
@[simp] theorem modTn_refuse (t : Nat) (g : Tenant → Tenant) (s : State) : (modTn t g s).refuse = s.refuse := rfl
@[simp] theorem modTn_wvTop (t : Nat) (g : Tenant → Tenant) (s : State) : (modTn t g s).wvTop = s.wvTop := rfl
@[simp] theorem modTn_wvVf (t : Nat) (g : Tenant → Tenant) (s : State) : (modTn t g s).wvVf = s.wvVf := rfl
@[simp] theorem modTn_gat (t : Nat) (g : Tenant → Tenant) (s : State) : (modTn t g s).gat = s.gat := rfl
@[simp] theorem modTn_pace (t : Nat) (g : Tenant → Tenant) (s : State) : (modTn t g s).pace = s.pace := rfl
@[simp] theorem modTn_mbx (t : Nat) (g : Tenant → Tenant) (s : State) : (modTn t g s).mbx = s.mbx := rfl
@[simp] theorem modTn_numVfs (t : Nat) (g : Tenant → Tenant) (s : State) : (modTn t g s).numVfs = s.numVfs := rfl
@[simp] theorem modTn_vfEnable (t : Nat) (g : Tenant → Tenant) (s : State) : (modTn t g s).vfEnable = s.vfEnable := rfl
@[simp] theorem modTn_gens (t : Nat) (g : Tenant → Tenant) (s : State) : (modTn t g s).gens = s.gens := rfl
@[simp] theorem modTn_fns (t : Nat) (g : Tenant → Tenant) (s : State) : (modTn t g s).fns = s.fns := rfl
@[simp] theorem modTn_sqs (t : Nat) (g : Tenant → Tenant) (s : State) : (modTn t g s).sqs = s.sqs := rfl
@[simp] theorem modTn_cqs (t : Nat) (g : Tenant → Tenant) (s : State) : (modTn t g s).cqs = s.cqs := rfl
@[simp] theorem modTn_cmds (t : Nat) (g : Tenant → Tenant) (s : State) : (modTn t g s).cmds = s.cmds := rfl
@[simp] theorem modTn_nextOrd (t : Nat) (g : Tenant → Tenant) (s : State) : (modTn t g s).nextOrd = s.nextOrd := rfl
@[simp] theorem modTn_sent (t : Nat) (g : Tenant → Tenant) (s : State) : (modTn t g s).sent = s.sent := rfl
@[simp] theorem modTn_qos (t : Nat) (g : Tenant → Tenant) (s : State) : (modTn t g s).qos = s.qos := rfl
@[simp] theorem modTn_nss (t : Nat) (g : Tenant → Tenant) (s : State) : (modTn t g s).nss = s.nss := rfl
@[simp] theorem modTn_zones (t : Nat) (g : Tenant → Tenant) (s : State) : (modTn t g s).zones = s.zones := rfl
@[simp] theorem modTn_profiles (t : Nat) (g : Tenant → Tenant) (s : State) : (modTn t g s).profiles = s.profiles := rfl
@[simp] theorem modTn_conv (t : Nat) (g : Tenant → Tenant) (s : State) : (modTn t g s).conv = s.conv := rfl
@[simp] theorem modTn_cache (t : Nat) (g : Tenant → Tenant) (s : State) : (modTn t g s).cache = s.cache := rfl
@[simp] theorem modTn_jobs (t : Nat) (g : Tenant → Tenant) (s : State) : (modTn t g s).jobs = s.jobs := rfl
@[simp] theorem modTn_rjobs (t : Nat) (g : Tenant → Tenant) (s : State) : (modTn t g s).rjobs = s.rjobs := rfl
@[simp] theorem modTn_rels (t : Nat) (g : Tenant → Tenant) (s : State) : (modTn t g s).rels = s.rels := rfl
@[simp] theorem modTn_offs (t : Nat) (g : Tenant → Tenant) (s : State) : (modTn t g s).offs = s.offs := rfl
@[simp] theorem modTn_nextJob (t : Nat) (g : Tenant → Tenant) (s : State) : (modTn t g s).nextJob = s.nextJob := rfl
@[simp] theorem modTn_ops (t : Nat) (g : Tenant → Tenant) (s : State) : (modTn t g s).ops = s.ops := rfl
@[simp] theorem modTn_runs (t : Nat) (g : Tenant → Tenant) (s : State) : (modTn t g s).runs = s.runs := rfl
@[simp] theorem modTn_fltc (t : Nat) (g : Tenant → Tenant) (s : State) : (modTn t g s).fltc = s.fltc := rfl
@[simp] theorem modTn_fltcMiss (t : Nat) (g : Tenant → Tenant) (s : State) : (modTn t g s).fltcMiss = s.fltcMiss := rfl
@[simp] theorem modTn_cdc (t : Nat) (g : Tenant → Tenant) (s : State) : (modTn t g s).cdc = s.cdc := rfl
@[simp] theorem modTn_cip (t : Nat) (g : Tenant → Tenant) (s : State) : (modTn t g s).cip = s.cip := rfl
@[simp] theorem modTn_vault (t : Nat) (g : Tenant → Tenant) (s : State) : (modTn t g s).vault = s.vault := rfl
@[simp] theorem modTn_co (t : Nat) (g : Tenant → Tenant) (s : State) : (modTn t g s).co = s.co := rfl
@[simp] theorem modTn_sec (t : Nat) (g : Tenant → Tenant) (s : State) : (modTn t g s).sec = s.sec := rfl
@[simp] theorem modTn_fw (t : Nat) (g : Tenant → Tenant) (s : State) : (modTn t g s).fw = s.fw := rfl
@[simp] theorem modTn_chans (t : Nat) (g : Tenant → Tenant) (s : State) : (modTn t g s).chans = s.chans := rfl
@[simp] theorem modTn_luns (t : Nat) (g : Tenant → Tenant) (s : State) : (modTn t g s).luns = s.luns := rfl
@[simp] theorem modTn_suspCount (t : Nat) (g : Tenant → Tenant) (s : State) : (modTn t g s).suspCount = s.suspCount := rfl
@[simp] theorem modTn_suspExh (t : Nat) (g : Tenant → Tenant) (s : State) : (modTn t g s).suspExh = s.suspExh := rfl
@[simp] theorem modTn_locks (t : Nat) (g : Tenant → Tenant) (s : State) : (modTn t g s).locks = s.locks := rfl
@[simp] theorem modTn_dram (t : Nat) (g : Tenant → Tenant) (s : State) : (modTn t g s).dram = s.dram := rfl
@[simp] theorem modTn_sram (t : Nat) (g : Tenant → Tenant) (s : State) : (modTn t g s).sram = s.sram := rfl
@[simp] theorem modTn_pwr (t : Nat) (g : Tenant → Tenant) (s : State) : (modTn t g s).pwr = s.pwr := rfl
@[simp] theorem modTn_hk (t : Nat) (g : Tenant → Tenant) (s : State) : (modTn t g s).hk = s.hk := rfl
@[simp] theorem modTn_hold (t : Nat) (g : Tenant → Tenant) (s : State) : (modTn t g s).hold = s.hold := rfl
@[simp] theorem modTn_therm (t : Nat) (g : Tenant → Tenant) (s : State) : (modTn t g s).therm = s.therm := rfl
@[simp] theorem modTn_zer (t : Nat) (g : Tenant → Tenant) (s : State) : (modTn t g s).zer = s.zer := rfl
@[simp] theorem modTn_rep (t : Nat) (g : Tenant → Tenant) (s : State) : (modTn t g s).rep = s.rep := rfl
@[simp] theorem modTn_mig (t : Nat) (g : Tenant → Tenant) (s : State) : (modTn t g s).mig = s.mig := rfl
@[simp] theorem modTn_flt (t : Nat) (g : Tenant → Tenant) (s : State) : (modTn t g s).flt = s.flt := rfl
@[simp] theorem modTn_ctr (t : Nat) (g : Tenant → Tenant) (s : State) : (modTn t g s).ctr = s.ctr := rfl
@[simp] theorem modTn_ctrStored (t : Nat) (g : Tenant → Tenant) (s : State) : (modTn t g s).ctrStored = s.ctrStored := rfl
@[simp] theorem modTn_san (t : Nat) (g : Tenant → Tenant) (s : State) : (modTn t g s).san = s.san := rfl
@[simp] theorem modTn_replayed (t : Nat) (g : Tenant → Tenant) (s : State) : (modTn t g s).replayed = s.replayed := rfl
@[simp] theorem modTn_freeCtr (t : Nat) (g : Tenant → Tenant) (s : State) : (modTn t g s).freeCtr = s.freeCtr := rfl
@[simp] theorem modTn_pending (t : Nat) (g : Tenant → Tenant) (s : State) : (modTn t g s).pending = s.pending := rfl

/-! ### modLun -/

@[simp] theorem modLun_clk (l : Nat) (g : Lun → Lun) (s : State) : (modLun l g s).clk = s.clk := rfl
@[simp] theorem modLun_norCfg (l : Nat) (g : Lun → Lun) (s : State) : (modLun l g s).norCfg = s.norCfg := rfl
@[simp] theorem modLun_journal (l : Nat) (g : Lun → Lun) (s : State) : (modLun l g s).journal = s.journal := rfl
@[simp] theorem modLun_rebs (l : Nat) (g : Lun → Lun) (s : State) : (modLun l g s).rebs = s.rebs := rfl
@[simp] theorem modLun_md (l : Nat) (g : Lun → Lun) (s : State) : (modLun l g s).md = s.md := rfl
@[simp] theorem modLun_pin (l : Nat) (g : Lun → Lun) (s : State) : (modLun l g s).pin = s.pin := rfl
@[simp] theorem modLun_regs (l : Nat) (g : Lun → Lun) (s : State) : (modLun l g s).regs = s.regs := rfl
@[simp] theorem modLun_rsv (l : Nat) (g : Lun → Lun) (s : State) : (modLun l g s).rsv = s.rsv := rfl
@[simp] theorem modLun_nor (l : Nat) (g : Lun → Lun) (s : State) : (modLun l g s).nor = s.nor := rfl
@[simp] theorem modLun_pPend (l : Nat) (g : Lun → Lun) (s : State) : (modLun l g s).pPend = s.pPend := rfl
@[simp] theorem modLun_psaveFail (l : Nat) (g : Lun → Lun) (s : State) : (modLun l g s).psaveFail = s.psaveFail := rfl
@[simp] theorem modLun_aonQ (l : Nat) (g : Lun → Lun) (s : State) : (modLun l g s).aonQ = s.aonQ := rfl
@[simp] theorem modLun_aonHeld (l : Nat) (g : Lun → Lun) (s : State) : (modLun l g s).aonHeld = s.aonHeld := rfl
@[simp] theorem modLun_refuse (l : Nat) (g : Lun → Lun) (s : State) : (modLun l g s).refuse = s.refuse := rfl
@[simp] theorem modLun_wvTop (l : Nat) (g : Lun → Lun) (s : State) : (modLun l g s).wvTop = s.wvTop := rfl
@[simp] theorem modLun_wvVf (l : Nat) (g : Lun → Lun) (s : State) : (modLun l g s).wvVf = s.wvVf := rfl
@[simp] theorem modLun_gat (l : Nat) (g : Lun → Lun) (s : State) : (modLun l g s).gat = s.gat := rfl
@[simp] theorem modLun_pace (l : Nat) (g : Lun → Lun) (s : State) : (modLun l g s).pace = s.pace := rfl
@[simp] theorem modLun_mbx (l : Nat) (g : Lun → Lun) (s : State) : (modLun l g s).mbx = s.mbx := rfl
@[simp] theorem modLun_numVfs (l : Nat) (g : Lun → Lun) (s : State) : (modLun l g s).numVfs = s.numVfs := rfl
@[simp] theorem modLun_vfEnable (l : Nat) (g : Lun → Lun) (s : State) : (modLun l g s).vfEnable = s.vfEnable := rfl
@[simp] theorem modLun_tenants (l : Nat) (g : Lun → Lun) (s : State) : (modLun l g s).tenants = s.tenants := rfl
@[simp] theorem modLun_gens (l : Nat) (g : Lun → Lun) (s : State) : (modLun l g s).gens = s.gens := rfl
@[simp] theorem modLun_fns (l : Nat) (g : Lun → Lun) (s : State) : (modLun l g s).fns = s.fns := rfl
@[simp] theorem modLun_sqs (l : Nat) (g : Lun → Lun) (s : State) : (modLun l g s).sqs = s.sqs := rfl
@[simp] theorem modLun_cqs (l : Nat) (g : Lun → Lun) (s : State) : (modLun l g s).cqs = s.cqs := rfl
@[simp] theorem modLun_cmds (l : Nat) (g : Lun → Lun) (s : State) : (modLun l g s).cmds = s.cmds := rfl
@[simp] theorem modLun_nextOrd (l : Nat) (g : Lun → Lun) (s : State) : (modLun l g s).nextOrd = s.nextOrd := rfl
@[simp] theorem modLun_sent (l : Nat) (g : Lun → Lun) (s : State) : (modLun l g s).sent = s.sent := rfl
@[simp] theorem modLun_qos (l : Nat) (g : Lun → Lun) (s : State) : (modLun l g s).qos = s.qos := rfl
@[simp] theorem modLun_nss (l : Nat) (g : Lun → Lun) (s : State) : (modLun l g s).nss = s.nss := rfl
@[simp] theorem modLun_zones (l : Nat) (g : Lun → Lun) (s : State) : (modLun l g s).zones = s.zones := rfl
@[simp] theorem modLun_profiles (l : Nat) (g : Lun → Lun) (s : State) : (modLun l g s).profiles = s.profiles := rfl
@[simp] theorem modLun_conv (l : Nat) (g : Lun → Lun) (s : State) : (modLun l g s).conv = s.conv := rfl
@[simp] theorem modLun_cache (l : Nat) (g : Lun → Lun) (s : State) : (modLun l g s).cache = s.cache := rfl
@[simp] theorem modLun_jobs (l : Nat) (g : Lun → Lun) (s : State) : (modLun l g s).jobs = s.jobs := rfl
@[simp] theorem modLun_rjobs (l : Nat) (g : Lun → Lun) (s : State) : (modLun l g s).rjobs = s.rjobs := rfl
@[simp] theorem modLun_rels (l : Nat) (g : Lun → Lun) (s : State) : (modLun l g s).rels = s.rels := rfl
@[simp] theorem modLun_offs (l : Nat) (g : Lun → Lun) (s : State) : (modLun l g s).offs = s.offs := rfl
@[simp] theorem modLun_nextJob (l : Nat) (g : Lun → Lun) (s : State) : (modLun l g s).nextJob = s.nextJob := rfl
@[simp] theorem modLun_ops (l : Nat) (g : Lun → Lun) (s : State) : (modLun l g s).ops = s.ops := rfl
@[simp] theorem modLun_runs (l : Nat) (g : Lun → Lun) (s : State) : (modLun l g s).runs = s.runs := rfl
@[simp] theorem modLun_fltc (l : Nat) (g : Lun → Lun) (s : State) : (modLun l g s).fltc = s.fltc := rfl
@[simp] theorem modLun_fltcMiss (l : Nat) (g : Lun → Lun) (s : State) : (modLun l g s).fltcMiss = s.fltcMiss := rfl
@[simp] theorem modLun_cdc (l : Nat) (g : Lun → Lun) (s : State) : (modLun l g s).cdc = s.cdc := rfl
@[simp] theorem modLun_cip (l : Nat) (g : Lun → Lun) (s : State) : (modLun l g s).cip = s.cip := rfl
@[simp] theorem modLun_vault (l : Nat) (g : Lun → Lun) (s : State) : (modLun l g s).vault = s.vault := rfl
@[simp] theorem modLun_co (l : Nat) (g : Lun → Lun) (s : State) : (modLun l g s).co = s.co := rfl
@[simp] theorem modLun_sec (l : Nat) (g : Lun → Lun) (s : State) : (modLun l g s).sec = s.sec := rfl
@[simp] theorem modLun_fw (l : Nat) (g : Lun → Lun) (s : State) : (modLun l g s).fw = s.fw := rfl
@[simp] theorem modLun_chans (l : Nat) (g : Lun → Lun) (s : State) : (modLun l g s).chans = s.chans := rfl
@[simp] theorem modLun_suspCount (l : Nat) (g : Lun → Lun) (s : State) : (modLun l g s).suspCount = s.suspCount := rfl
@[simp] theorem modLun_suspExh (l : Nat) (g : Lun → Lun) (s : State) : (modLun l g s).suspExh = s.suspExh := rfl
@[simp] theorem modLun_locks (l : Nat) (g : Lun → Lun) (s : State) : (modLun l g s).locks = s.locks := rfl
@[simp] theorem modLun_dram (l : Nat) (g : Lun → Lun) (s : State) : (modLun l g s).dram = s.dram := rfl
@[simp] theorem modLun_sram (l : Nat) (g : Lun → Lun) (s : State) : (modLun l g s).sram = s.sram := rfl
@[simp] theorem modLun_pwr (l : Nat) (g : Lun → Lun) (s : State) : (modLun l g s).pwr = s.pwr := rfl
@[simp] theorem modLun_hk (l : Nat) (g : Lun → Lun) (s : State) : (modLun l g s).hk = s.hk := rfl
@[simp] theorem modLun_hold (l : Nat) (g : Lun → Lun) (s : State) : (modLun l g s).hold = s.hold := rfl
@[simp] theorem modLun_therm (l : Nat) (g : Lun → Lun) (s : State) : (modLun l g s).therm = s.therm := rfl
@[simp] theorem modLun_zer (l : Nat) (g : Lun → Lun) (s : State) : (modLun l g s).zer = s.zer := rfl
@[simp] theorem modLun_rep (l : Nat) (g : Lun → Lun) (s : State) : (modLun l g s).rep = s.rep := rfl
@[simp] theorem modLun_mig (l : Nat) (g : Lun → Lun) (s : State) : (modLun l g s).mig = s.mig := rfl
@[simp] theorem modLun_flt (l : Nat) (g : Lun → Lun) (s : State) : (modLun l g s).flt = s.flt := rfl
@[simp] theorem modLun_ctr (l : Nat) (g : Lun → Lun) (s : State) : (modLun l g s).ctr = s.ctr := rfl
@[simp] theorem modLun_ctrStored (l : Nat) (g : Lun → Lun) (s : State) : (modLun l g s).ctrStored = s.ctrStored := rfl
@[simp] theorem modLun_san (l : Nat) (g : Lun → Lun) (s : State) : (modLun l g s).san = s.san := rfl
@[simp] theorem modLun_replayed (l : Nat) (g : Lun → Lun) (s : State) : (modLun l g s).replayed = s.replayed := rfl
@[simp] theorem modLun_freeCtr (l : Nat) (g : Lun → Lun) (s : State) : (modLun l g s).freeCtr = s.freeCtr := rfl
@[simp] theorem modLun_pending (l : Nat) (g : Lun → Lun) (s : State) : (modLun l g s).pending = s.pending := rfl

/-! ### modChan -/

@[simp] theorem modChan_clk (c : Nat) (g : Chan → Chan) (s : State) : (modChan c g s).clk = s.clk := rfl
@[simp] theorem modChan_norCfg (c : Nat) (g : Chan → Chan) (s : State) : (modChan c g s).norCfg = s.norCfg := rfl
@[simp] theorem modChan_journal (c : Nat) (g : Chan → Chan) (s : State) : (modChan c g s).journal = s.journal := rfl
@[simp] theorem modChan_rebs (c : Nat) (g : Chan → Chan) (s : State) : (modChan c g s).rebs = s.rebs := rfl
@[simp] theorem modChan_md (c : Nat) (g : Chan → Chan) (s : State) : (modChan c g s).md = s.md := rfl
@[simp] theorem modChan_pin (c : Nat) (g : Chan → Chan) (s : State) : (modChan c g s).pin = s.pin := rfl
@[simp] theorem modChan_regs (c : Nat) (g : Chan → Chan) (s : State) : (modChan c g s).regs = s.regs := rfl
@[simp] theorem modChan_rsv (c : Nat) (g : Chan → Chan) (s : State) : (modChan c g s).rsv = s.rsv := rfl
@[simp] theorem modChan_nor (c : Nat) (g : Chan → Chan) (s : State) : (modChan c g s).nor = s.nor := rfl
@[simp] theorem modChan_pPend (c : Nat) (g : Chan → Chan) (s : State) : (modChan c g s).pPend = s.pPend := rfl
@[simp] theorem modChan_psaveFail (c : Nat) (g : Chan → Chan) (s : State) : (modChan c g s).psaveFail = s.psaveFail := rfl
@[simp] theorem modChan_aonQ (c : Nat) (g : Chan → Chan) (s : State) : (modChan c g s).aonQ = s.aonQ := rfl
@[simp] theorem modChan_aonHeld (c : Nat) (g : Chan → Chan) (s : State) : (modChan c g s).aonHeld = s.aonHeld := rfl
@[simp] theorem modChan_refuse (c : Nat) (g : Chan → Chan) (s : State) : (modChan c g s).refuse = s.refuse := rfl
@[simp] theorem modChan_wvTop (c : Nat) (g : Chan → Chan) (s : State) : (modChan c g s).wvTop = s.wvTop := rfl
@[simp] theorem modChan_wvVf (c : Nat) (g : Chan → Chan) (s : State) : (modChan c g s).wvVf = s.wvVf := rfl
@[simp] theorem modChan_gat (c : Nat) (g : Chan → Chan) (s : State) : (modChan c g s).gat = s.gat := rfl
@[simp] theorem modChan_pace (c : Nat) (g : Chan → Chan) (s : State) : (modChan c g s).pace = s.pace := rfl
@[simp] theorem modChan_mbx (c : Nat) (g : Chan → Chan) (s : State) : (modChan c g s).mbx = s.mbx := rfl
@[simp] theorem modChan_numVfs (c : Nat) (g : Chan → Chan) (s : State) : (modChan c g s).numVfs = s.numVfs := rfl
@[simp] theorem modChan_vfEnable (c : Nat) (g : Chan → Chan) (s : State) : (modChan c g s).vfEnable = s.vfEnable := rfl
@[simp] theorem modChan_tenants (c : Nat) (g : Chan → Chan) (s : State) : (modChan c g s).tenants = s.tenants := rfl
@[simp] theorem modChan_gens (c : Nat) (g : Chan → Chan) (s : State) : (modChan c g s).gens = s.gens := rfl
@[simp] theorem modChan_fns (c : Nat) (g : Chan → Chan) (s : State) : (modChan c g s).fns = s.fns := rfl
@[simp] theorem modChan_sqs (c : Nat) (g : Chan → Chan) (s : State) : (modChan c g s).sqs = s.sqs := rfl
@[simp] theorem modChan_cqs (c : Nat) (g : Chan → Chan) (s : State) : (modChan c g s).cqs = s.cqs := rfl
@[simp] theorem modChan_cmds (c : Nat) (g : Chan → Chan) (s : State) : (modChan c g s).cmds = s.cmds := rfl
@[simp] theorem modChan_nextOrd (c : Nat) (g : Chan → Chan) (s : State) : (modChan c g s).nextOrd = s.nextOrd := rfl
@[simp] theorem modChan_sent (c : Nat) (g : Chan → Chan) (s : State) : (modChan c g s).sent = s.sent := rfl
@[simp] theorem modChan_qos (c : Nat) (g : Chan → Chan) (s : State) : (modChan c g s).qos = s.qos := rfl
@[simp] theorem modChan_nss (c : Nat) (g : Chan → Chan) (s : State) : (modChan c g s).nss = s.nss := rfl
@[simp] theorem modChan_zones (c : Nat) (g : Chan → Chan) (s : State) : (modChan c g s).zones = s.zones := rfl
@[simp] theorem modChan_profiles (c : Nat) (g : Chan → Chan) (s : State) : (modChan c g s).profiles = s.profiles := rfl
@[simp] theorem modChan_conv (c : Nat) (g : Chan → Chan) (s : State) : (modChan c g s).conv = s.conv := rfl
@[simp] theorem modChan_cache (c : Nat) (g : Chan → Chan) (s : State) : (modChan c g s).cache = s.cache := rfl
@[simp] theorem modChan_jobs (c : Nat) (g : Chan → Chan) (s : State) : (modChan c g s).jobs = s.jobs := rfl
@[simp] theorem modChan_rjobs (c : Nat) (g : Chan → Chan) (s : State) : (modChan c g s).rjobs = s.rjobs := rfl
@[simp] theorem modChan_rels (c : Nat) (g : Chan → Chan) (s : State) : (modChan c g s).rels = s.rels := rfl
@[simp] theorem modChan_offs (c : Nat) (g : Chan → Chan) (s : State) : (modChan c g s).offs = s.offs := rfl
@[simp] theorem modChan_nextJob (c : Nat) (g : Chan → Chan) (s : State) : (modChan c g s).nextJob = s.nextJob := rfl
@[simp] theorem modChan_ops (c : Nat) (g : Chan → Chan) (s : State) : (modChan c g s).ops = s.ops := rfl
@[simp] theorem modChan_runs (c : Nat) (g : Chan → Chan) (s : State) : (modChan c g s).runs = s.runs := rfl
@[simp] theorem modChan_fltc (c : Nat) (g : Chan → Chan) (s : State) : (modChan c g s).fltc = s.fltc := rfl
@[simp] theorem modChan_fltcMiss (c : Nat) (g : Chan → Chan) (s : State) : (modChan c g s).fltcMiss = s.fltcMiss := rfl
@[simp] theorem modChan_cdc (c : Nat) (g : Chan → Chan) (s : State) : (modChan c g s).cdc = s.cdc := rfl
@[simp] theorem modChan_cip (c : Nat) (g : Chan → Chan) (s : State) : (modChan c g s).cip = s.cip := rfl
@[simp] theorem modChan_vault (c : Nat) (g : Chan → Chan) (s : State) : (modChan c g s).vault = s.vault := rfl
@[simp] theorem modChan_co (c : Nat) (g : Chan → Chan) (s : State) : (modChan c g s).co = s.co := rfl
@[simp] theorem modChan_sec (c : Nat) (g : Chan → Chan) (s : State) : (modChan c g s).sec = s.sec := rfl
@[simp] theorem modChan_fw (c : Nat) (g : Chan → Chan) (s : State) : (modChan c g s).fw = s.fw := rfl
@[simp] theorem modChan_luns (c : Nat) (g : Chan → Chan) (s : State) : (modChan c g s).luns = s.luns := rfl
@[simp] theorem modChan_suspCount (c : Nat) (g : Chan → Chan) (s : State) : (modChan c g s).suspCount = s.suspCount := rfl
@[simp] theorem modChan_suspExh (c : Nat) (g : Chan → Chan) (s : State) : (modChan c g s).suspExh = s.suspExh := rfl
@[simp] theorem modChan_locks (c : Nat) (g : Chan → Chan) (s : State) : (modChan c g s).locks = s.locks := rfl
@[simp] theorem modChan_dram (c : Nat) (g : Chan → Chan) (s : State) : (modChan c g s).dram = s.dram := rfl
@[simp] theorem modChan_sram (c : Nat) (g : Chan → Chan) (s : State) : (modChan c g s).sram = s.sram := rfl
@[simp] theorem modChan_pwr (c : Nat) (g : Chan → Chan) (s : State) : (modChan c g s).pwr = s.pwr := rfl
@[simp] theorem modChan_hk (c : Nat) (g : Chan → Chan) (s : State) : (modChan c g s).hk = s.hk := rfl
@[simp] theorem modChan_hold (c : Nat) (g : Chan → Chan) (s : State) : (modChan c g s).hold = s.hold := rfl
@[simp] theorem modChan_therm (c : Nat) (g : Chan → Chan) (s : State) : (modChan c g s).therm = s.therm := rfl
@[simp] theorem modChan_zer (c : Nat) (g : Chan → Chan) (s : State) : (modChan c g s).zer = s.zer := rfl
@[simp] theorem modChan_rep (c : Nat) (g : Chan → Chan) (s : State) : (modChan c g s).rep = s.rep := rfl
@[simp] theorem modChan_mig (c : Nat) (g : Chan → Chan) (s : State) : (modChan c g s).mig = s.mig := rfl
@[simp] theorem modChan_flt (c : Nat) (g : Chan → Chan) (s : State) : (modChan c g s).flt = s.flt := rfl
@[simp] theorem modChan_ctr (c : Nat) (g : Chan → Chan) (s : State) : (modChan c g s).ctr = s.ctr := rfl
@[simp] theorem modChan_ctrStored (c : Nat) (g : Chan → Chan) (s : State) : (modChan c g s).ctrStored = s.ctrStored := rfl
@[simp] theorem modChan_san (c : Nat) (g : Chan → Chan) (s : State) : (modChan c g s).san = s.san := rfl
@[simp] theorem modChan_replayed (c : Nat) (g : Chan → Chan) (s : State) : (modChan c g s).replayed = s.replayed := rfl
@[simp] theorem modChan_freeCtr (c : Nat) (g : Chan → Chan) (s : State) : (modChan c g s).freeCtr = s.freeCtr := rfl
@[simp] theorem modChan_pending (c : Nat) (g : Chan → Chan) (s : State) : (modChan c g s).pending = s.pending := rfl

/-! ### modZone -/

@[simp] theorem modZone_clk (n z : Nat) (g : Zone → Zone) (s : State) : (modZone n z g s).clk = s.clk := rfl
@[simp] theorem modZone_norCfg (n z : Nat) (g : Zone → Zone) (s : State) : (modZone n z g s).norCfg = s.norCfg := rfl
@[simp] theorem modZone_journal (n z : Nat) (g : Zone → Zone) (s : State) : (modZone n z g s).journal = s.journal := rfl
@[simp] theorem modZone_rebs (n z : Nat) (g : Zone → Zone) (s : State) : (modZone n z g s).rebs = s.rebs := rfl
@[simp] theorem modZone_md (n z : Nat) (g : Zone → Zone) (s : State) : (modZone n z g s).md = s.md := rfl
@[simp] theorem modZone_pin (n z : Nat) (g : Zone → Zone) (s : State) : (modZone n z g s).pin = s.pin := rfl
@[simp] theorem modZone_regs (n z : Nat) (g : Zone → Zone) (s : State) : (modZone n z g s).regs = s.regs := rfl
@[simp] theorem modZone_rsv (n z : Nat) (g : Zone → Zone) (s : State) : (modZone n z g s).rsv = s.rsv := rfl
@[simp] theorem modZone_nor (n z : Nat) (g : Zone → Zone) (s : State) : (modZone n z g s).nor = s.nor := rfl
@[simp] theorem modZone_pPend (n z : Nat) (g : Zone → Zone) (s : State) : (modZone n z g s).pPend = s.pPend := rfl
@[simp] theorem modZone_psaveFail (n z : Nat) (g : Zone → Zone) (s : State) : (modZone n z g s).psaveFail = s.psaveFail := rfl
@[simp] theorem modZone_aonQ (n z : Nat) (g : Zone → Zone) (s : State) : (modZone n z g s).aonQ = s.aonQ := rfl
@[simp] theorem modZone_aonHeld (n z : Nat) (g : Zone → Zone) (s : State) : (modZone n z g s).aonHeld = s.aonHeld := rfl
@[simp] theorem modZone_refuse (n z : Nat) (g : Zone → Zone) (s : State) : (modZone n z g s).refuse = s.refuse := rfl
@[simp] theorem modZone_wvTop (n z : Nat) (g : Zone → Zone) (s : State) : (modZone n z g s).wvTop = s.wvTop := rfl
@[simp] theorem modZone_wvVf (n z : Nat) (g : Zone → Zone) (s : State) : (modZone n z g s).wvVf = s.wvVf := rfl
@[simp] theorem modZone_gat (n z : Nat) (g : Zone → Zone) (s : State) : (modZone n z g s).gat = s.gat := rfl
@[simp] theorem modZone_pace (n z : Nat) (g : Zone → Zone) (s : State) : (modZone n z g s).pace = s.pace := rfl
@[simp] theorem modZone_mbx (n z : Nat) (g : Zone → Zone) (s : State) : (modZone n z g s).mbx = s.mbx := rfl
@[simp] theorem modZone_numVfs (n z : Nat) (g : Zone → Zone) (s : State) : (modZone n z g s).numVfs = s.numVfs := rfl
@[simp] theorem modZone_vfEnable (n z : Nat) (g : Zone → Zone) (s : State) : (modZone n z g s).vfEnable = s.vfEnable := rfl
@[simp] theorem modZone_tenants (n z : Nat) (g : Zone → Zone) (s : State) : (modZone n z g s).tenants = s.tenants := rfl
@[simp] theorem modZone_gens (n z : Nat) (g : Zone → Zone) (s : State) : (modZone n z g s).gens = s.gens := rfl
@[simp] theorem modZone_fns (n z : Nat) (g : Zone → Zone) (s : State) : (modZone n z g s).fns = s.fns := rfl
@[simp] theorem modZone_sqs (n z : Nat) (g : Zone → Zone) (s : State) : (modZone n z g s).sqs = s.sqs := rfl
@[simp] theorem modZone_cqs (n z : Nat) (g : Zone → Zone) (s : State) : (modZone n z g s).cqs = s.cqs := rfl
@[simp] theorem modZone_cmds (n z : Nat) (g : Zone → Zone) (s : State) : (modZone n z g s).cmds = s.cmds := rfl
@[simp] theorem modZone_nextOrd (n z : Nat) (g : Zone → Zone) (s : State) : (modZone n z g s).nextOrd = s.nextOrd := rfl
@[simp] theorem modZone_sent (n z : Nat) (g : Zone → Zone) (s : State) : (modZone n z g s).sent = s.sent := rfl
@[simp] theorem modZone_qos (n z : Nat) (g : Zone → Zone) (s : State) : (modZone n z g s).qos = s.qos := rfl
@[simp] theorem modZone_nss (n z : Nat) (g : Zone → Zone) (s : State) : (modZone n z g s).nss = s.nss := rfl
@[simp] theorem modZone_profiles (n z : Nat) (g : Zone → Zone) (s : State) : (modZone n z g s).profiles = s.profiles := rfl
@[simp] theorem modZone_conv (n z : Nat) (g : Zone → Zone) (s : State) : (modZone n z g s).conv = s.conv := rfl
@[simp] theorem modZone_cache (n z : Nat) (g : Zone → Zone) (s : State) : (modZone n z g s).cache = s.cache := rfl
@[simp] theorem modZone_jobs (n z : Nat) (g : Zone → Zone) (s : State) : (modZone n z g s).jobs = s.jobs := rfl
@[simp] theorem modZone_rjobs (n z : Nat) (g : Zone → Zone) (s : State) : (modZone n z g s).rjobs = s.rjobs := rfl
@[simp] theorem modZone_rels (n z : Nat) (g : Zone → Zone) (s : State) : (modZone n z g s).rels = s.rels := rfl
@[simp] theorem modZone_offs (n z : Nat) (g : Zone → Zone) (s : State) : (modZone n z g s).offs = s.offs := rfl
@[simp] theorem modZone_nextJob (n z : Nat) (g : Zone → Zone) (s : State) : (modZone n z g s).nextJob = s.nextJob := rfl
@[simp] theorem modZone_ops (n z : Nat) (g : Zone → Zone) (s : State) : (modZone n z g s).ops = s.ops := rfl
@[simp] theorem modZone_runs (n z : Nat) (g : Zone → Zone) (s : State) : (modZone n z g s).runs = s.runs := rfl
@[simp] theorem modZone_fltc (n z : Nat) (g : Zone → Zone) (s : State) : (modZone n z g s).fltc = s.fltc := rfl
@[simp] theorem modZone_fltcMiss (n z : Nat) (g : Zone → Zone) (s : State) : (modZone n z g s).fltcMiss = s.fltcMiss := rfl
@[simp] theorem modZone_cdc (n z : Nat) (g : Zone → Zone) (s : State) : (modZone n z g s).cdc = s.cdc := rfl
@[simp] theorem modZone_cip (n z : Nat) (g : Zone → Zone) (s : State) : (modZone n z g s).cip = s.cip := rfl
@[simp] theorem modZone_vault (n z : Nat) (g : Zone → Zone) (s : State) : (modZone n z g s).vault = s.vault := rfl
@[simp] theorem modZone_co (n z : Nat) (g : Zone → Zone) (s : State) : (modZone n z g s).co = s.co := rfl
@[simp] theorem modZone_sec (n z : Nat) (g : Zone → Zone) (s : State) : (modZone n z g s).sec = s.sec := rfl
@[simp] theorem modZone_fw (n z : Nat) (g : Zone → Zone) (s : State) : (modZone n z g s).fw = s.fw := rfl
@[simp] theorem modZone_chans (n z : Nat) (g : Zone → Zone) (s : State) : (modZone n z g s).chans = s.chans := rfl
@[simp] theorem modZone_luns (n z : Nat) (g : Zone → Zone) (s : State) : (modZone n z g s).luns = s.luns := rfl
@[simp] theorem modZone_suspCount (n z : Nat) (g : Zone → Zone) (s : State) : (modZone n z g s).suspCount = s.suspCount := rfl
@[simp] theorem modZone_suspExh (n z : Nat) (g : Zone → Zone) (s : State) : (modZone n z g s).suspExh = s.suspExh := rfl
@[simp] theorem modZone_locks (n z : Nat) (g : Zone → Zone) (s : State) : (modZone n z g s).locks = s.locks := rfl
@[simp] theorem modZone_dram (n z : Nat) (g : Zone → Zone) (s : State) : (modZone n z g s).dram = s.dram := rfl
@[simp] theorem modZone_sram (n z : Nat) (g : Zone → Zone) (s : State) : (modZone n z g s).sram = s.sram := rfl
@[simp] theorem modZone_pwr (n z : Nat) (g : Zone → Zone) (s : State) : (modZone n z g s).pwr = s.pwr := rfl
@[simp] theorem modZone_hk (n z : Nat) (g : Zone → Zone) (s : State) : (modZone n z g s).hk = s.hk := rfl
@[simp] theorem modZone_hold (n z : Nat) (g : Zone → Zone) (s : State) : (modZone n z g s).hold = s.hold := rfl
@[simp] theorem modZone_therm (n z : Nat) (g : Zone → Zone) (s : State) : (modZone n z g s).therm = s.therm := rfl
@[simp] theorem modZone_zer (n z : Nat) (g : Zone → Zone) (s : State) : (modZone n z g s).zer = s.zer := rfl
@[simp] theorem modZone_rep (n z : Nat) (g : Zone → Zone) (s : State) : (modZone n z g s).rep = s.rep := rfl
@[simp] theorem modZone_mig (n z : Nat) (g : Zone → Zone) (s : State) : (modZone n z g s).mig = s.mig := rfl
@[simp] theorem modZone_flt (n z : Nat) (g : Zone → Zone) (s : State) : (modZone n z g s).flt = s.flt := rfl
@[simp] theorem modZone_ctr (n z : Nat) (g : Zone → Zone) (s : State) : (modZone n z g s).ctr = s.ctr := rfl
@[simp] theorem modZone_ctrStored (n z : Nat) (g : Zone → Zone) (s : State) : (modZone n z g s).ctrStored = s.ctrStored := rfl
@[simp] theorem modZone_san (n z : Nat) (g : Zone → Zone) (s : State) : (modZone n z g s).san = s.san := rfl
@[simp] theorem modZone_replayed (n z : Nat) (g : Zone → Zone) (s : State) : (modZone n z g s).replayed = s.replayed := rfl
@[simp] theorem modZone_freeCtr (n z : Nat) (g : Zone → Zone) (s : State) : (modZone n z g s).freeCtr = s.freeCtr := rfl
@[simp] theorem modZone_pending (n z : Nat) (g : Zone → Zone) (s : State) : (modZone n z g s).pending = s.pending := rfl

/-! ### setNs -/

@[simp] theorem setNs_clk (n : Nat) (x : Option Ns) (s : State) : (setNs n x s).clk = s.clk := rfl
@[simp] theorem setNs_norCfg (n : Nat) (x : Option Ns) (s : State) : (setNs n x s).norCfg = s.norCfg := rfl
@[simp] theorem setNs_journal (n : Nat) (x : Option Ns) (s : State) : (setNs n x s).journal = s.journal := rfl
@[simp] theorem setNs_rebs (n : Nat) (x : Option Ns) (s : State) : (setNs n x s).rebs = s.rebs := rfl
@[simp] theorem setNs_md (n : Nat) (x : Option Ns) (s : State) : (setNs n x s).md = s.md := rfl
@[simp] theorem setNs_pin (n : Nat) (x : Option Ns) (s : State) : (setNs n x s).pin = s.pin := rfl
@[simp] theorem setNs_regs (n : Nat) (x : Option Ns) (s : State) : (setNs n x s).regs = s.regs := rfl
@[simp] theorem setNs_rsv (n : Nat) (x : Option Ns) (s : State) : (setNs n x s).rsv = s.rsv := rfl
@[simp] theorem setNs_nor (n : Nat) (x : Option Ns) (s : State) : (setNs n x s).nor = s.nor := rfl
@[simp] theorem setNs_pPend (n : Nat) (x : Option Ns) (s : State) : (setNs n x s).pPend = s.pPend := rfl
@[simp] theorem setNs_psaveFail (n : Nat) (x : Option Ns) (s : State) : (setNs n x s).psaveFail = s.psaveFail := rfl
@[simp] theorem setNs_aonQ (n : Nat) (x : Option Ns) (s : State) : (setNs n x s).aonQ = s.aonQ := rfl
@[simp] theorem setNs_aonHeld (n : Nat) (x : Option Ns) (s : State) : (setNs n x s).aonHeld = s.aonHeld := rfl
@[simp] theorem setNs_refuse (n : Nat) (x : Option Ns) (s : State) : (setNs n x s).refuse = s.refuse := rfl
@[simp] theorem setNs_wvTop (n : Nat) (x : Option Ns) (s : State) : (setNs n x s).wvTop = s.wvTop := rfl
@[simp] theorem setNs_wvVf (n : Nat) (x : Option Ns) (s : State) : (setNs n x s).wvVf = s.wvVf := rfl
@[simp] theorem setNs_gat (n : Nat) (x : Option Ns) (s : State) : (setNs n x s).gat = s.gat := rfl
@[simp] theorem setNs_pace (n : Nat) (x : Option Ns) (s : State) : (setNs n x s).pace = s.pace := rfl
@[simp] theorem setNs_mbx (n : Nat) (x : Option Ns) (s : State) : (setNs n x s).mbx = s.mbx := rfl
@[simp] theorem setNs_numVfs (n : Nat) (x : Option Ns) (s : State) : (setNs n x s).numVfs = s.numVfs := rfl
@[simp] theorem setNs_vfEnable (n : Nat) (x : Option Ns) (s : State) : (setNs n x s).vfEnable = s.vfEnable := rfl
@[simp] theorem setNs_tenants (n : Nat) (x : Option Ns) (s : State) : (setNs n x s).tenants = s.tenants := rfl
@[simp] theorem setNs_gens (n : Nat) (x : Option Ns) (s : State) : (setNs n x s).gens = s.gens := rfl
@[simp] theorem setNs_fns (n : Nat) (x : Option Ns) (s : State) : (setNs n x s).fns = s.fns := rfl
@[simp] theorem setNs_sqs (n : Nat) (x : Option Ns) (s : State) : (setNs n x s).sqs = s.sqs := rfl
@[simp] theorem setNs_cqs (n : Nat) (x : Option Ns) (s : State) : (setNs n x s).cqs = s.cqs := rfl
@[simp] theorem setNs_cmds (n : Nat) (x : Option Ns) (s : State) : (setNs n x s).cmds = s.cmds := rfl
@[simp] theorem setNs_nextOrd (n : Nat) (x : Option Ns) (s : State) : (setNs n x s).nextOrd = s.nextOrd := rfl
@[simp] theorem setNs_sent (n : Nat) (x : Option Ns) (s : State) : (setNs n x s).sent = s.sent := rfl
@[simp] theorem setNs_qos (n : Nat) (x : Option Ns) (s : State) : (setNs n x s).qos = s.qos := rfl
@[simp] theorem setNs_zones (n : Nat) (x : Option Ns) (s : State) : (setNs n x s).zones = s.zones := rfl
@[simp] theorem setNs_profiles (n : Nat) (x : Option Ns) (s : State) : (setNs n x s).profiles = s.profiles := rfl
@[simp] theorem setNs_conv (n : Nat) (x : Option Ns) (s : State) : (setNs n x s).conv = s.conv := rfl
@[simp] theorem setNs_cache (n : Nat) (x : Option Ns) (s : State) : (setNs n x s).cache = s.cache := rfl
@[simp] theorem setNs_jobs (n : Nat) (x : Option Ns) (s : State) : (setNs n x s).jobs = s.jobs := rfl
@[simp] theorem setNs_rjobs (n : Nat) (x : Option Ns) (s : State) : (setNs n x s).rjobs = s.rjobs := rfl
@[simp] theorem setNs_rels (n : Nat) (x : Option Ns) (s : State) : (setNs n x s).rels = s.rels := rfl
@[simp] theorem setNs_offs (n : Nat) (x : Option Ns) (s : State) : (setNs n x s).offs = s.offs := rfl
@[simp] theorem setNs_nextJob (n : Nat) (x : Option Ns) (s : State) : (setNs n x s).nextJob = s.nextJob := rfl
@[simp] theorem setNs_ops (n : Nat) (x : Option Ns) (s : State) : (setNs n x s).ops = s.ops := rfl
@[simp] theorem setNs_runs (n : Nat) (x : Option Ns) (s : State) : (setNs n x s).runs = s.runs := rfl
@[simp] theorem setNs_fltc (n : Nat) (x : Option Ns) (s : State) : (setNs n x s).fltc = s.fltc := rfl
@[simp] theorem setNs_fltcMiss (n : Nat) (x : Option Ns) (s : State) : (setNs n x s).fltcMiss = s.fltcMiss := rfl
@[simp] theorem setNs_cdc (n : Nat) (x : Option Ns) (s : State) : (setNs n x s).cdc = s.cdc := rfl
@[simp] theorem setNs_cip (n : Nat) (x : Option Ns) (s : State) : (setNs n x s).cip = s.cip := rfl
@[simp] theorem setNs_vault (n : Nat) (x : Option Ns) (s : State) : (setNs n x s).vault = s.vault := rfl
@[simp] theorem setNs_co (n : Nat) (x : Option Ns) (s : State) : (setNs n x s).co = s.co := rfl
@[simp] theorem setNs_sec (n : Nat) (x : Option Ns) (s : State) : (setNs n x s).sec = s.sec := rfl
@[simp] theorem setNs_fw (n : Nat) (x : Option Ns) (s : State) : (setNs n x s).fw = s.fw := rfl
@[simp] theorem setNs_chans (n : Nat) (x : Option Ns) (s : State) : (setNs n x s).chans = s.chans := rfl
@[simp] theorem setNs_luns (n : Nat) (x : Option Ns) (s : State) : (setNs n x s).luns = s.luns := rfl
@[simp] theorem setNs_suspCount (n : Nat) (x : Option Ns) (s : State) : (setNs n x s).suspCount = s.suspCount := rfl
@[simp] theorem setNs_suspExh (n : Nat) (x : Option Ns) (s : State) : (setNs n x s).suspExh = s.suspExh := rfl
@[simp] theorem setNs_locks (n : Nat) (x : Option Ns) (s : State) : (setNs n x s).locks = s.locks := rfl
@[simp] theorem setNs_dram (n : Nat) (x : Option Ns) (s : State) : (setNs n x s).dram = s.dram := rfl
@[simp] theorem setNs_sram (n : Nat) (x : Option Ns) (s : State) : (setNs n x s).sram = s.sram := rfl
@[simp] theorem setNs_pwr (n : Nat) (x : Option Ns) (s : State) : (setNs n x s).pwr = s.pwr := rfl
@[simp] theorem setNs_hk (n : Nat) (x : Option Ns) (s : State) : (setNs n x s).hk = s.hk := rfl
@[simp] theorem setNs_hold (n : Nat) (x : Option Ns) (s : State) : (setNs n x s).hold = s.hold := rfl
@[simp] theorem setNs_therm (n : Nat) (x : Option Ns) (s : State) : (setNs n x s).therm = s.therm := rfl
@[simp] theorem setNs_zer (n : Nat) (x : Option Ns) (s : State) : (setNs n x s).zer = s.zer := rfl
@[simp] theorem setNs_rep (n : Nat) (x : Option Ns) (s : State) : (setNs n x s).rep = s.rep := rfl
@[simp] theorem setNs_mig (n : Nat) (x : Option Ns) (s : State) : (setNs n x s).mig = s.mig := rfl
@[simp] theorem setNs_flt (n : Nat) (x : Option Ns) (s : State) : (setNs n x s).flt = s.flt := rfl
@[simp] theorem setNs_ctr (n : Nat) (x : Option Ns) (s : State) : (setNs n x s).ctr = s.ctr := rfl
@[simp] theorem setNs_ctrStored (n : Nat) (x : Option Ns) (s : State) : (setNs n x s).ctrStored = s.ctrStored := rfl
@[simp] theorem setNs_san (n : Nat) (x : Option Ns) (s : State) : (setNs n x s).san = s.san := rfl
@[simp] theorem setNs_replayed (n : Nat) (x : Option Ns) (s : State) : (setNs n x s).replayed = s.replayed := rfl
@[simp] theorem setNs_freeCtr (n : Nat) (x : Option Ns) (s : State) : (setNs n x s).freeCtr = s.freeCtr := rfl
@[simp] theorem setNs_pending (n : Nat) (x : Option Ns) (s : State) : (setNs n x s).pending = s.pending := rfl

/-! ### modProf -/

@[simp] theorem modProf_clk (p : Nat) (g : Profile → Profile) (s : State) : (modProf p g s).clk = s.clk := rfl
@[simp] theorem modProf_norCfg (p : Nat) (g : Profile → Profile) (s : State) : (modProf p g s).norCfg = s.norCfg := rfl
@[simp] theorem modProf_journal (p : Nat) (g : Profile → Profile) (s : State) : (modProf p g s).journal = s.journal := rfl
@[simp] theorem modProf_rebs (p : Nat) (g : Profile → Profile) (s : State) : (modProf p g s).rebs = s.rebs := rfl
@[simp] theorem modProf_md (p : Nat) (g : Profile → Profile) (s : State) : (modProf p g s).md = s.md := rfl
@[simp] theorem modProf_pin (p : Nat) (g : Profile → Profile) (s : State) : (modProf p g s).pin = s.pin := rfl
@[simp] theorem modProf_regs (p : Nat) (g : Profile → Profile) (s : State) : (modProf p g s).regs = s.regs := rfl
@[simp] theorem modProf_rsv (p : Nat) (g : Profile → Profile) (s : State) : (modProf p g s).rsv = s.rsv := rfl
@[simp] theorem modProf_nor (p : Nat) (g : Profile → Profile) (s : State) : (modProf p g s).nor = s.nor := rfl
@[simp] theorem modProf_pPend (p : Nat) (g : Profile → Profile) (s : State) : (modProf p g s).pPend = s.pPend := rfl
@[simp] theorem modProf_psaveFail (p : Nat) (g : Profile → Profile) (s : State) : (modProf p g s).psaveFail = s.psaveFail := rfl
@[simp] theorem modProf_aonQ (p : Nat) (g : Profile → Profile) (s : State) : (modProf p g s).aonQ = s.aonQ := rfl
@[simp] theorem modProf_aonHeld (p : Nat) (g : Profile → Profile) (s : State) : (modProf p g s).aonHeld = s.aonHeld := rfl
@[simp] theorem modProf_refuse (p : Nat) (g : Profile → Profile) (s : State) : (modProf p g s).refuse = s.refuse := rfl
@[simp] theorem modProf_wvTop (p : Nat) (g : Profile → Profile) (s : State) : (modProf p g s).wvTop = s.wvTop := rfl
@[simp] theorem modProf_wvVf (p : Nat) (g : Profile → Profile) (s : State) : (modProf p g s).wvVf = s.wvVf := rfl
@[simp] theorem modProf_gat (p : Nat) (g : Profile → Profile) (s : State) : (modProf p g s).gat = s.gat := rfl
@[simp] theorem modProf_pace (p : Nat) (g : Profile → Profile) (s : State) : (modProf p g s).pace = s.pace := rfl
@[simp] theorem modProf_mbx (p : Nat) (g : Profile → Profile) (s : State) : (modProf p g s).mbx = s.mbx := rfl
@[simp] theorem modProf_numVfs (p : Nat) (g : Profile → Profile) (s : State) : (modProf p g s).numVfs = s.numVfs := rfl
@[simp] theorem modProf_vfEnable (p : Nat) (g : Profile → Profile) (s : State) : (modProf p g s).vfEnable = s.vfEnable := rfl
@[simp] theorem modProf_tenants (p : Nat) (g : Profile → Profile) (s : State) : (modProf p g s).tenants = s.tenants := rfl
@[simp] theorem modProf_gens (p : Nat) (g : Profile → Profile) (s : State) : (modProf p g s).gens = s.gens := rfl
@[simp] theorem modProf_fns (p : Nat) (g : Profile → Profile) (s : State) : (modProf p g s).fns = s.fns := rfl
@[simp] theorem modProf_sqs (p : Nat) (g : Profile → Profile) (s : State) : (modProf p g s).sqs = s.sqs := rfl
@[simp] theorem modProf_cqs (p : Nat) (g : Profile → Profile) (s : State) : (modProf p g s).cqs = s.cqs := rfl
@[simp] theorem modProf_cmds (p : Nat) (g : Profile → Profile) (s : State) : (modProf p g s).cmds = s.cmds := rfl
@[simp] theorem modProf_nextOrd (p : Nat) (g : Profile → Profile) (s : State) : (modProf p g s).nextOrd = s.nextOrd := rfl
@[simp] theorem modProf_sent (p : Nat) (g : Profile → Profile) (s : State) : (modProf p g s).sent = s.sent := rfl
@[simp] theorem modProf_qos (p : Nat) (g : Profile → Profile) (s : State) : (modProf p g s).qos = s.qos := rfl
@[simp] theorem modProf_nss (p : Nat) (g : Profile → Profile) (s : State) : (modProf p g s).nss = s.nss := rfl
@[simp] theorem modProf_zones (p : Nat) (g : Profile → Profile) (s : State) : (modProf p g s).zones = s.zones := rfl
@[simp] theorem modProf_conv (p : Nat) (g : Profile → Profile) (s : State) : (modProf p g s).conv = s.conv := rfl
@[simp] theorem modProf_cache (p : Nat) (g : Profile → Profile) (s : State) : (modProf p g s).cache = s.cache := rfl
@[simp] theorem modProf_jobs (p : Nat) (g : Profile → Profile) (s : State) : (modProf p g s).jobs = s.jobs := rfl
@[simp] theorem modProf_rjobs (p : Nat) (g : Profile → Profile) (s : State) : (modProf p g s).rjobs = s.rjobs := rfl
@[simp] theorem modProf_rels (p : Nat) (g : Profile → Profile) (s : State) : (modProf p g s).rels = s.rels := rfl
@[simp] theorem modProf_offs (p : Nat) (g : Profile → Profile) (s : State) : (modProf p g s).offs = s.offs := rfl
@[simp] theorem modProf_nextJob (p : Nat) (g : Profile → Profile) (s : State) : (modProf p g s).nextJob = s.nextJob := rfl
@[simp] theorem modProf_ops (p : Nat) (g : Profile → Profile) (s : State) : (modProf p g s).ops = s.ops := rfl
@[simp] theorem modProf_runs (p : Nat) (g : Profile → Profile) (s : State) : (modProf p g s).runs = s.runs := rfl
@[simp] theorem modProf_fltc (p : Nat) (g : Profile → Profile) (s : State) : (modProf p g s).fltc = s.fltc := rfl
@[simp] theorem modProf_fltcMiss (p : Nat) (g : Profile → Profile) (s : State) : (modProf p g s).fltcMiss = s.fltcMiss := rfl
@[simp] theorem modProf_cdc (p : Nat) (g : Profile → Profile) (s : State) : (modProf p g s).cdc = s.cdc := rfl
@[simp] theorem modProf_cip (p : Nat) (g : Profile → Profile) (s : State) : (modProf p g s).cip = s.cip := rfl
@[simp] theorem modProf_vault (p : Nat) (g : Profile → Profile) (s : State) : (modProf p g s).vault = s.vault := rfl
@[simp] theorem modProf_co (p : Nat) (g : Profile → Profile) (s : State) : (modProf p g s).co = s.co := rfl
@[simp] theorem modProf_sec (p : Nat) (g : Profile → Profile) (s : State) : (modProf p g s).sec = s.sec := rfl
@[simp] theorem modProf_fw (p : Nat) (g : Profile → Profile) (s : State) : (modProf p g s).fw = s.fw := rfl
@[simp] theorem modProf_chans (p : Nat) (g : Profile → Profile) (s : State) : (modProf p g s).chans = s.chans := rfl
@[simp] theorem modProf_luns (p : Nat) (g : Profile → Profile) (s : State) : (modProf p g s).luns = s.luns := rfl
@[simp] theorem modProf_suspCount (p : Nat) (g : Profile → Profile) (s : State) : (modProf p g s).suspCount = s.suspCount := rfl
@[simp] theorem modProf_suspExh (p : Nat) (g : Profile → Profile) (s : State) : (modProf p g s).suspExh = s.suspExh := rfl
@[simp] theorem modProf_locks (p : Nat) (g : Profile → Profile) (s : State) : (modProf p g s).locks = s.locks := rfl
@[simp] theorem modProf_dram (p : Nat) (g : Profile → Profile) (s : State) : (modProf p g s).dram = s.dram := rfl
@[simp] theorem modProf_sram (p : Nat) (g : Profile → Profile) (s : State) : (modProf p g s).sram = s.sram := rfl
@[simp] theorem modProf_pwr (p : Nat) (g : Profile → Profile) (s : State) : (modProf p g s).pwr = s.pwr := rfl
@[simp] theorem modProf_hk (p : Nat) (g : Profile → Profile) (s : State) : (modProf p g s).hk = s.hk := rfl
@[simp] theorem modProf_hold (p : Nat) (g : Profile → Profile) (s : State) : (modProf p g s).hold = s.hold := rfl
@[simp] theorem modProf_therm (p : Nat) (g : Profile → Profile) (s : State) : (modProf p g s).therm = s.therm := rfl
@[simp] theorem modProf_zer (p : Nat) (g : Profile → Profile) (s : State) : (modProf p g s).zer = s.zer := rfl
@[simp] theorem modProf_rep (p : Nat) (g : Profile → Profile) (s : State) : (modProf p g s).rep = s.rep := rfl
@[simp] theorem modProf_mig (p : Nat) (g : Profile → Profile) (s : State) : (modProf p g s).mig = s.mig := rfl
@[simp] theorem modProf_flt (p : Nat) (g : Profile → Profile) (s : State) : (modProf p g s).flt = s.flt := rfl
@[simp] theorem modProf_ctr (p : Nat) (g : Profile → Profile) (s : State) : (modProf p g s).ctr = s.ctr := rfl
@[simp] theorem modProf_ctrStored (p : Nat) (g : Profile → Profile) (s : State) : (modProf p g s).ctrStored = s.ctrStored := rfl
@[simp] theorem modProf_san (p : Nat) (g : Profile → Profile) (s : State) : (modProf p g s).san = s.san := rfl
@[simp] theorem modProf_replayed (p : Nat) (g : Profile → Profile) (s : State) : (modProf p g s).replayed = s.replayed := rfl
@[simp] theorem modProf_freeCtr (p : Nat) (g : Profile → Profile) (s : State) : (modProf p g s).freeCtr = s.freeCtr := rfl
@[simp] theorem modProf_pending (p : Nat) (g : Profile → Profile) (s : State) : (modProf p g s).pending = s.pending := rfl

/-! ### modCmd -/

@[simp] theorem modCmd_clk (c : CmdId) (g : Cmd → Cmd) (s : State) : (modCmd c g s).clk = s.clk := rfl
@[simp] theorem modCmd_norCfg (c : CmdId) (g : Cmd → Cmd) (s : State) : (modCmd c g s).norCfg = s.norCfg := rfl
@[simp] theorem modCmd_journal (c : CmdId) (g : Cmd → Cmd) (s : State) : (modCmd c g s).journal = s.journal := rfl
@[simp] theorem modCmd_rebs (c : CmdId) (g : Cmd → Cmd) (s : State) : (modCmd c g s).rebs = s.rebs := rfl
@[simp] theorem modCmd_md (c : CmdId) (g : Cmd → Cmd) (s : State) : (modCmd c g s).md = s.md := rfl
@[simp] theorem modCmd_pin (c : CmdId) (g : Cmd → Cmd) (s : State) : (modCmd c g s).pin = s.pin := rfl
@[simp] theorem modCmd_regs (c : CmdId) (g : Cmd → Cmd) (s : State) : (modCmd c g s).regs = s.regs := rfl
@[simp] theorem modCmd_rsv (c : CmdId) (g : Cmd → Cmd) (s : State) : (modCmd c g s).rsv = s.rsv := rfl
@[simp] theorem modCmd_nor (c : CmdId) (g : Cmd → Cmd) (s : State) : (modCmd c g s).nor = s.nor := rfl
@[simp] theorem modCmd_pPend (c : CmdId) (g : Cmd → Cmd) (s : State) : (modCmd c g s).pPend = s.pPend := rfl
@[simp] theorem modCmd_psaveFail (c : CmdId) (g : Cmd → Cmd) (s : State) : (modCmd c g s).psaveFail = s.psaveFail := rfl
@[simp] theorem modCmd_aonQ (c : CmdId) (g : Cmd → Cmd) (s : State) : (modCmd c g s).aonQ = s.aonQ := rfl
@[simp] theorem modCmd_aonHeld (c : CmdId) (g : Cmd → Cmd) (s : State) : (modCmd c g s).aonHeld = s.aonHeld := rfl
@[simp] theorem modCmd_refuse (c : CmdId) (g : Cmd → Cmd) (s : State) : (modCmd c g s).refuse = s.refuse := rfl
@[simp] theorem modCmd_wvTop (c : CmdId) (g : Cmd → Cmd) (s : State) : (modCmd c g s).wvTop = s.wvTop := rfl
@[simp] theorem modCmd_wvVf (c : CmdId) (g : Cmd → Cmd) (s : State) : (modCmd c g s).wvVf = s.wvVf := rfl
@[simp] theorem modCmd_gat (c : CmdId) (g : Cmd → Cmd) (s : State) : (modCmd c g s).gat = s.gat := rfl
@[simp] theorem modCmd_pace (c : CmdId) (g : Cmd → Cmd) (s : State) : (modCmd c g s).pace = s.pace := rfl
@[simp] theorem modCmd_mbx (c : CmdId) (g : Cmd → Cmd) (s : State) : (modCmd c g s).mbx = s.mbx := rfl
@[simp] theorem modCmd_numVfs (c : CmdId) (g : Cmd → Cmd) (s : State) : (modCmd c g s).numVfs = s.numVfs := rfl
@[simp] theorem modCmd_vfEnable (c : CmdId) (g : Cmd → Cmd) (s : State) : (modCmd c g s).vfEnable = s.vfEnable := rfl
@[simp] theorem modCmd_tenants (c : CmdId) (g : Cmd → Cmd) (s : State) : (modCmd c g s).tenants = s.tenants := rfl
@[simp] theorem modCmd_gens (c : CmdId) (g : Cmd → Cmd) (s : State) : (modCmd c g s).gens = s.gens := rfl
@[simp] theorem modCmd_fns (c : CmdId) (g : Cmd → Cmd) (s : State) : (modCmd c g s).fns = s.fns := rfl
@[simp] theorem modCmd_sqs (c : CmdId) (g : Cmd → Cmd) (s : State) : (modCmd c g s).sqs = s.sqs := rfl
@[simp] theorem modCmd_cqs (c : CmdId) (g : Cmd → Cmd) (s : State) : (modCmd c g s).cqs = s.cqs := rfl
@[simp] theorem modCmd_nextOrd (c : CmdId) (g : Cmd → Cmd) (s : State) : (modCmd c g s).nextOrd = s.nextOrd := rfl
@[simp] theorem modCmd_sent (c : CmdId) (g : Cmd → Cmd) (s : State) : (modCmd c g s).sent = s.sent := rfl
@[simp] theorem modCmd_qos (c : CmdId) (g : Cmd → Cmd) (s : State) : (modCmd c g s).qos = s.qos := rfl
@[simp] theorem modCmd_nss (c : CmdId) (g : Cmd → Cmd) (s : State) : (modCmd c g s).nss = s.nss := rfl
@[simp] theorem modCmd_zones (c : CmdId) (g : Cmd → Cmd) (s : State) : (modCmd c g s).zones = s.zones := rfl
@[simp] theorem modCmd_profiles (c : CmdId) (g : Cmd → Cmd) (s : State) : (modCmd c g s).profiles = s.profiles := rfl
@[simp] theorem modCmd_conv (c : CmdId) (g : Cmd → Cmd) (s : State) : (modCmd c g s).conv = s.conv := rfl
@[simp] theorem modCmd_cache (c : CmdId) (g : Cmd → Cmd) (s : State) : (modCmd c g s).cache = s.cache := rfl
@[simp] theorem modCmd_jobs (c : CmdId) (g : Cmd → Cmd) (s : State) : (modCmd c g s).jobs = s.jobs := rfl
@[simp] theorem modCmd_rjobs (c : CmdId) (g : Cmd → Cmd) (s : State) : (modCmd c g s).rjobs = s.rjobs := rfl
@[simp] theorem modCmd_rels (c : CmdId) (g : Cmd → Cmd) (s : State) : (modCmd c g s).rels = s.rels := rfl
@[simp] theorem modCmd_offs (c : CmdId) (g : Cmd → Cmd) (s : State) : (modCmd c g s).offs = s.offs := rfl
@[simp] theorem modCmd_nextJob (c : CmdId) (g : Cmd → Cmd) (s : State) : (modCmd c g s).nextJob = s.nextJob := rfl
@[simp] theorem modCmd_ops (c : CmdId) (g : Cmd → Cmd) (s : State) : (modCmd c g s).ops = s.ops := rfl
@[simp] theorem modCmd_runs (c : CmdId) (g : Cmd → Cmd) (s : State) : (modCmd c g s).runs = s.runs := rfl
@[simp] theorem modCmd_fltc (c : CmdId) (g : Cmd → Cmd) (s : State) : (modCmd c g s).fltc = s.fltc := rfl
@[simp] theorem modCmd_fltcMiss (c : CmdId) (g : Cmd → Cmd) (s : State) : (modCmd c g s).fltcMiss = s.fltcMiss := rfl
@[simp] theorem modCmd_cdc (c : CmdId) (g : Cmd → Cmd) (s : State) : (modCmd c g s).cdc = s.cdc := rfl
@[simp] theorem modCmd_cip (c : CmdId) (g : Cmd → Cmd) (s : State) : (modCmd c g s).cip = s.cip := rfl
@[simp] theorem modCmd_vault (c : CmdId) (g : Cmd → Cmd) (s : State) : (modCmd c g s).vault = s.vault := rfl
@[simp] theorem modCmd_co (c : CmdId) (g : Cmd → Cmd) (s : State) : (modCmd c g s).co = s.co := rfl
@[simp] theorem modCmd_sec (c : CmdId) (g : Cmd → Cmd) (s : State) : (modCmd c g s).sec = s.sec := rfl
@[simp] theorem modCmd_fw (c : CmdId) (g : Cmd → Cmd) (s : State) : (modCmd c g s).fw = s.fw := rfl
@[simp] theorem modCmd_chans (c : CmdId) (g : Cmd → Cmd) (s : State) : (modCmd c g s).chans = s.chans := rfl
@[simp] theorem modCmd_luns (c : CmdId) (g : Cmd → Cmd) (s : State) : (modCmd c g s).luns = s.luns := rfl
@[simp] theorem modCmd_suspCount (c : CmdId) (g : Cmd → Cmd) (s : State) : (modCmd c g s).suspCount = s.suspCount := rfl
@[simp] theorem modCmd_suspExh (c : CmdId) (g : Cmd → Cmd) (s : State) : (modCmd c g s).suspExh = s.suspExh := rfl
@[simp] theorem modCmd_locks (c : CmdId) (g : Cmd → Cmd) (s : State) : (modCmd c g s).locks = s.locks := rfl
@[simp] theorem modCmd_dram (c : CmdId) (g : Cmd → Cmd) (s : State) : (modCmd c g s).dram = s.dram := rfl
@[simp] theorem modCmd_sram (c : CmdId) (g : Cmd → Cmd) (s : State) : (modCmd c g s).sram = s.sram := rfl
@[simp] theorem modCmd_pwr (c : CmdId) (g : Cmd → Cmd) (s : State) : (modCmd c g s).pwr = s.pwr := rfl
@[simp] theorem modCmd_hk (c : CmdId) (g : Cmd → Cmd) (s : State) : (modCmd c g s).hk = s.hk := rfl
@[simp] theorem modCmd_hold (c : CmdId) (g : Cmd → Cmd) (s : State) : (modCmd c g s).hold = s.hold := rfl
@[simp] theorem modCmd_therm (c : CmdId) (g : Cmd → Cmd) (s : State) : (modCmd c g s).therm = s.therm := rfl
@[simp] theorem modCmd_zer (c : CmdId) (g : Cmd → Cmd) (s : State) : (modCmd c g s).zer = s.zer := rfl
@[simp] theorem modCmd_rep (c : CmdId) (g : Cmd → Cmd) (s : State) : (modCmd c g s).rep = s.rep := rfl
@[simp] theorem modCmd_mig (c : CmdId) (g : Cmd → Cmd) (s : State) : (modCmd c g s).mig = s.mig := rfl
@[simp] theorem modCmd_flt (c : CmdId) (g : Cmd → Cmd) (s : State) : (modCmd c g s).flt = s.flt := rfl
@[simp] theorem modCmd_ctr (c : CmdId) (g : Cmd → Cmd) (s : State) : (modCmd c g s).ctr = s.ctr := rfl
@[simp] theorem modCmd_ctrStored (c : CmdId) (g : Cmd → Cmd) (s : State) : (modCmd c g s).ctrStored = s.ctrStored := rfl
@[simp] theorem modCmd_san (c : CmdId) (g : Cmd → Cmd) (s : State) : (modCmd c g s).san = s.san := rfl
@[simp] theorem modCmd_replayed (c : CmdId) (g : Cmd → Cmd) (s : State) : (modCmd c g s).replayed = s.replayed := rfl
@[simp] theorem modCmd_freeCtr (c : CmdId) (g : Cmd → Cmd) (s : State) : (modCmd c g s).freeCtr = s.freeCtr := rfl
@[simp] theorem modCmd_pending (c : CmdId) (g : Cmd → Cmd) (s : State) : (modCmd c g s).pending = s.pending := rfl

/-! ### modCq -/

@[simp] theorem modCq_clk (f q : Nat) (g : Cq → Cq) (s : State) : (modCq f q g s).clk = s.clk := rfl
@[simp] theorem modCq_norCfg (f q : Nat) (g : Cq → Cq) (s : State) : (modCq f q g s).norCfg = s.norCfg := rfl
@[simp] theorem modCq_journal (f q : Nat) (g : Cq → Cq) (s : State) : (modCq f q g s).journal = s.journal := rfl
@[simp] theorem modCq_rebs (f q : Nat) (g : Cq → Cq) (s : State) : (modCq f q g s).rebs = s.rebs := rfl
@[simp] theorem modCq_md (f q : Nat) (g : Cq → Cq) (s : State) : (modCq f q g s).md = s.md := rfl
@[simp] theorem modCq_pin (f q : Nat) (g : Cq → Cq) (s : State) : (modCq f q g s).pin = s.pin := rfl
@[simp] theorem modCq_regs (f q : Nat) (g : Cq → Cq) (s : State) : (modCq f q g s).regs = s.regs := rfl
@[simp] theorem modCq_rsv (f q : Nat) (g : Cq → Cq) (s : State) : (modCq f q g s).rsv = s.rsv := rfl
@[simp] theorem modCq_nor (f q : Nat) (g : Cq → Cq) (s : State) : (modCq f q g s).nor = s.nor := rfl
@[simp] theorem modCq_pPend (f q : Nat) (g : Cq → Cq) (s : State) : (modCq f q g s).pPend = s.pPend := rfl
@[simp] theorem modCq_psaveFail (f q : Nat) (g : Cq → Cq) (s : State) : (modCq f q g s).psaveFail = s.psaveFail := rfl
@[simp] theorem modCq_aonQ (f q : Nat) (g : Cq → Cq) (s : State) : (modCq f q g s).aonQ = s.aonQ := rfl
@[simp] theorem modCq_aonHeld (f q : Nat) (g : Cq → Cq) (s : State) : (modCq f q g s).aonHeld = s.aonHeld := rfl
@[simp] theorem modCq_refuse (f q : Nat) (g : Cq → Cq) (s : State) : (modCq f q g s).refuse = s.refuse := rfl
@[simp] theorem modCq_wvTop (f q : Nat) (g : Cq → Cq) (s : State) : (modCq f q g s).wvTop = s.wvTop := rfl
@[simp] theorem modCq_wvVf (f q : Nat) (g : Cq → Cq) (s : State) : (modCq f q g s).wvVf = s.wvVf := rfl
@[simp] theorem modCq_gat (f q : Nat) (g : Cq → Cq) (s : State) : (modCq f q g s).gat = s.gat := rfl
@[simp] theorem modCq_pace (f q : Nat) (g : Cq → Cq) (s : State) : (modCq f q g s).pace = s.pace := rfl
@[simp] theorem modCq_mbx (f q : Nat) (g : Cq → Cq) (s : State) : (modCq f q g s).mbx = s.mbx := rfl
@[simp] theorem modCq_numVfs (f q : Nat) (g : Cq → Cq) (s : State) : (modCq f q g s).numVfs = s.numVfs := rfl
@[simp] theorem modCq_vfEnable (f q : Nat) (g : Cq → Cq) (s : State) : (modCq f q g s).vfEnable = s.vfEnable := rfl
@[simp] theorem modCq_tenants (f q : Nat) (g : Cq → Cq) (s : State) : (modCq f q g s).tenants = s.tenants := rfl
@[simp] theorem modCq_gens (f q : Nat) (g : Cq → Cq) (s : State) : (modCq f q g s).gens = s.gens := rfl
@[simp] theorem modCq_fns (f q : Nat) (g : Cq → Cq) (s : State) : (modCq f q g s).fns = s.fns := rfl
@[simp] theorem modCq_sqs (f q : Nat) (g : Cq → Cq) (s : State) : (modCq f q g s).sqs = s.sqs := rfl
@[simp] theorem modCq_cmds (f q : Nat) (g : Cq → Cq) (s : State) : (modCq f q g s).cmds = s.cmds := rfl
@[simp] theorem modCq_nextOrd (f q : Nat) (g : Cq → Cq) (s : State) : (modCq f q g s).nextOrd = s.nextOrd := rfl
@[simp] theorem modCq_sent (f q : Nat) (g : Cq → Cq) (s : State) : (modCq f q g s).sent = s.sent := rfl
@[simp] theorem modCq_qos (f q : Nat) (g : Cq → Cq) (s : State) : (modCq f q g s).qos = s.qos := rfl
@[simp] theorem modCq_nss (f q : Nat) (g : Cq → Cq) (s : State) : (modCq f q g s).nss = s.nss := rfl
@[simp] theorem modCq_zones (f q : Nat) (g : Cq → Cq) (s : State) : (modCq f q g s).zones = s.zones := rfl
@[simp] theorem modCq_profiles (f q : Nat) (g : Cq → Cq) (s : State) : (modCq f q g s).profiles = s.profiles := rfl
@[simp] theorem modCq_conv (f q : Nat) (g : Cq → Cq) (s : State) : (modCq f q g s).conv = s.conv := rfl
@[simp] theorem modCq_cache (f q : Nat) (g : Cq → Cq) (s : State) : (modCq f q g s).cache = s.cache := rfl
@[simp] theorem modCq_jobs (f q : Nat) (g : Cq → Cq) (s : State) : (modCq f q g s).jobs = s.jobs := rfl
@[simp] theorem modCq_rjobs (f q : Nat) (g : Cq → Cq) (s : State) : (modCq f q g s).rjobs = s.rjobs := rfl
@[simp] theorem modCq_rels (f q : Nat) (g : Cq → Cq) (s : State) : (modCq f q g s).rels = s.rels := rfl
@[simp] theorem modCq_offs (f q : Nat) (g : Cq → Cq) (s : State) : (modCq f q g s).offs = s.offs := rfl
@[simp] theorem modCq_nextJob (f q : Nat) (g : Cq → Cq) (s : State) : (modCq f q g s).nextJob = s.nextJob := rfl
@[simp] theorem modCq_ops (f q : Nat) (g : Cq → Cq) (s : State) : (modCq f q g s).ops = s.ops := rfl
@[simp] theorem modCq_runs (f q : Nat) (g : Cq → Cq) (s : State) : (modCq f q g s).runs = s.runs := rfl
@[simp] theorem modCq_fltc (f q : Nat) (g : Cq → Cq) (s : State) : (modCq f q g s).fltc = s.fltc := rfl
@[simp] theorem modCq_fltcMiss (f q : Nat) (g : Cq → Cq) (s : State) : (modCq f q g s).fltcMiss = s.fltcMiss := rfl
@[simp] theorem modCq_cdc (f q : Nat) (g : Cq → Cq) (s : State) : (modCq f q g s).cdc = s.cdc := rfl
@[simp] theorem modCq_cip (f q : Nat) (g : Cq → Cq) (s : State) : (modCq f q g s).cip = s.cip := rfl
@[simp] theorem modCq_vault (f q : Nat) (g : Cq → Cq) (s : State) : (modCq f q g s).vault = s.vault := rfl
@[simp] theorem modCq_co (f q : Nat) (g : Cq → Cq) (s : State) : (modCq f q g s).co = s.co := rfl
@[simp] theorem modCq_sec (f q : Nat) (g : Cq → Cq) (s : State) : (modCq f q g s).sec = s.sec := rfl
@[simp] theorem modCq_fw (f q : Nat) (g : Cq → Cq) (s : State) : (modCq f q g s).fw = s.fw := rfl
@[simp] theorem modCq_chans (f q : Nat) (g : Cq → Cq) (s : State) : (modCq f q g s).chans = s.chans := rfl
@[simp] theorem modCq_luns (f q : Nat) (g : Cq → Cq) (s : State) : (modCq f q g s).luns = s.luns := rfl
@[simp] theorem modCq_suspCount (f q : Nat) (g : Cq → Cq) (s : State) : (modCq f q g s).suspCount = s.suspCount := rfl
@[simp] theorem modCq_suspExh (f q : Nat) (g : Cq → Cq) (s : State) : (modCq f q g s).suspExh = s.suspExh := rfl
@[simp] theorem modCq_locks (f q : Nat) (g : Cq → Cq) (s : State) : (modCq f q g s).locks = s.locks := rfl
@[simp] theorem modCq_dram (f q : Nat) (g : Cq → Cq) (s : State) : (modCq f q g s).dram = s.dram := rfl
@[simp] theorem modCq_sram (f q : Nat) (g : Cq → Cq) (s : State) : (modCq f q g s).sram = s.sram := rfl
@[simp] theorem modCq_pwr (f q : Nat) (g : Cq → Cq) (s : State) : (modCq f q g s).pwr = s.pwr := rfl
@[simp] theorem modCq_hk (f q : Nat) (g : Cq → Cq) (s : State) : (modCq f q g s).hk = s.hk := rfl
@[simp] theorem modCq_hold (f q : Nat) (g : Cq → Cq) (s : State) : (modCq f q g s).hold = s.hold := rfl
@[simp] theorem modCq_therm (f q : Nat) (g : Cq → Cq) (s : State) : (modCq f q g s).therm = s.therm := rfl
@[simp] theorem modCq_zer (f q : Nat) (g : Cq → Cq) (s : State) : (modCq f q g s).zer = s.zer := rfl
@[simp] theorem modCq_rep (f q : Nat) (g : Cq → Cq) (s : State) : (modCq f q g s).rep = s.rep := rfl
@[simp] theorem modCq_mig (f q : Nat) (g : Cq → Cq) (s : State) : (modCq f q g s).mig = s.mig := rfl
@[simp] theorem modCq_flt (f q : Nat) (g : Cq → Cq) (s : State) : (modCq f q g s).flt = s.flt := rfl
@[simp] theorem modCq_ctr (f q : Nat) (g : Cq → Cq) (s : State) : (modCq f q g s).ctr = s.ctr := rfl
@[simp] theorem modCq_ctrStored (f q : Nat) (g : Cq → Cq) (s : State) : (modCq f q g s).ctrStored = s.ctrStored := rfl
@[simp] theorem modCq_san (f q : Nat) (g : Cq → Cq) (s : State) : (modCq f q g s).san = s.san := rfl
@[simp] theorem modCq_replayed (f q : Nat) (g : Cq → Cq) (s : State) : (modCq f q g s).replayed = s.replayed := rfl
@[simp] theorem modCq_freeCtr (f q : Nat) (g : Cq → Cq) (s : State) : (modCq f q g s).freeCtr = s.freeCtr := rfl
@[simp] theorem modCq_pending (f q : Nat) (g : Cq → Cq) (s : State) : (modCq f q g s).pending = s.pending := rfl

/-! ### modCtr -/

@[simp] theorem modCtr_clk (i : Nat) (g : Ctrs → Ctrs) (s : State) : (modCtr i g s).clk = s.clk := rfl
@[simp] theorem modCtr_norCfg (i : Nat) (g : Ctrs → Ctrs) (s : State) : (modCtr i g s).norCfg = s.norCfg := rfl
@[simp] theorem modCtr_journal (i : Nat) (g : Ctrs → Ctrs) (s : State) : (modCtr i g s).journal = s.journal := rfl
@[simp] theorem modCtr_rebs (i : Nat) (g : Ctrs → Ctrs) (s : State) : (modCtr i g s).rebs = s.rebs := rfl
@[simp] theorem modCtr_md (i : Nat) (g : Ctrs → Ctrs) (s : State) : (modCtr i g s).md = s.md := rfl
@[simp] theorem modCtr_pin (i : Nat) (g : Ctrs → Ctrs) (s : State) : (modCtr i g s).pin = s.pin := rfl
@[simp] theorem modCtr_regs (i : Nat) (g : Ctrs → Ctrs) (s : State) : (modCtr i g s).regs = s.regs := rfl
@[simp] theorem modCtr_rsv (i : Nat) (g : Ctrs → Ctrs) (s : State) : (modCtr i g s).rsv = s.rsv := rfl
@[simp] theorem modCtr_nor (i : Nat) (g : Ctrs → Ctrs) (s : State) : (modCtr i g s).nor = s.nor := rfl
@[simp] theorem modCtr_pPend (i : Nat) (g : Ctrs → Ctrs) (s : State) : (modCtr i g s).pPend = s.pPend := rfl
@[simp] theorem modCtr_psaveFail (i : Nat) (g : Ctrs → Ctrs) (s : State) : (modCtr i g s).psaveFail = s.psaveFail := rfl
@[simp] theorem modCtr_aonQ (i : Nat) (g : Ctrs → Ctrs) (s : State) : (modCtr i g s).aonQ = s.aonQ := rfl
@[simp] theorem modCtr_aonHeld (i : Nat) (g : Ctrs → Ctrs) (s : State) : (modCtr i g s).aonHeld = s.aonHeld := rfl
@[simp] theorem modCtr_refuse (i : Nat) (g : Ctrs → Ctrs) (s : State) : (modCtr i g s).refuse = s.refuse := rfl
@[simp] theorem modCtr_wvTop (i : Nat) (g : Ctrs → Ctrs) (s : State) : (modCtr i g s).wvTop = s.wvTop := rfl
@[simp] theorem modCtr_wvVf (i : Nat) (g : Ctrs → Ctrs) (s : State) : (modCtr i g s).wvVf = s.wvVf := rfl
@[simp] theorem modCtr_gat (i : Nat) (g : Ctrs → Ctrs) (s : State) : (modCtr i g s).gat = s.gat := rfl
@[simp] theorem modCtr_pace (i : Nat) (g : Ctrs → Ctrs) (s : State) : (modCtr i g s).pace = s.pace := rfl
@[simp] theorem modCtr_mbx (i : Nat) (g : Ctrs → Ctrs) (s : State) : (modCtr i g s).mbx = s.mbx := rfl
@[simp] theorem modCtr_numVfs (i : Nat) (g : Ctrs → Ctrs) (s : State) : (modCtr i g s).numVfs = s.numVfs := rfl
@[simp] theorem modCtr_vfEnable (i : Nat) (g : Ctrs → Ctrs) (s : State) : (modCtr i g s).vfEnable = s.vfEnable := rfl
@[simp] theorem modCtr_tenants (i : Nat) (g : Ctrs → Ctrs) (s : State) : (modCtr i g s).tenants = s.tenants := rfl
@[simp] theorem modCtr_gens (i : Nat) (g : Ctrs → Ctrs) (s : State) : (modCtr i g s).gens = s.gens := rfl
@[simp] theorem modCtr_fns (i : Nat) (g : Ctrs → Ctrs) (s : State) : (modCtr i g s).fns = s.fns := rfl
@[simp] theorem modCtr_sqs (i : Nat) (g : Ctrs → Ctrs) (s : State) : (modCtr i g s).sqs = s.sqs := rfl
@[simp] theorem modCtr_cqs (i : Nat) (g : Ctrs → Ctrs) (s : State) : (modCtr i g s).cqs = s.cqs := rfl
@[simp] theorem modCtr_cmds (i : Nat) (g : Ctrs → Ctrs) (s : State) : (modCtr i g s).cmds = s.cmds := rfl
@[simp] theorem modCtr_nextOrd (i : Nat) (g : Ctrs → Ctrs) (s : State) : (modCtr i g s).nextOrd = s.nextOrd := rfl
@[simp] theorem modCtr_sent (i : Nat) (g : Ctrs → Ctrs) (s : State) : (modCtr i g s).sent = s.sent := rfl
@[simp] theorem modCtr_qos (i : Nat) (g : Ctrs → Ctrs) (s : State) : (modCtr i g s).qos = s.qos := rfl
@[simp] theorem modCtr_nss (i : Nat) (g : Ctrs → Ctrs) (s : State) : (modCtr i g s).nss = s.nss := rfl
@[simp] theorem modCtr_zones (i : Nat) (g : Ctrs → Ctrs) (s : State) : (modCtr i g s).zones = s.zones := rfl
@[simp] theorem modCtr_profiles (i : Nat) (g : Ctrs → Ctrs) (s : State) : (modCtr i g s).profiles = s.profiles := rfl
@[simp] theorem modCtr_conv (i : Nat) (g : Ctrs → Ctrs) (s : State) : (modCtr i g s).conv = s.conv := rfl
@[simp] theorem modCtr_cache (i : Nat) (g : Ctrs → Ctrs) (s : State) : (modCtr i g s).cache = s.cache := rfl
@[simp] theorem modCtr_jobs (i : Nat) (g : Ctrs → Ctrs) (s : State) : (modCtr i g s).jobs = s.jobs := rfl
@[simp] theorem modCtr_rjobs (i : Nat) (g : Ctrs → Ctrs) (s : State) : (modCtr i g s).rjobs = s.rjobs := rfl
@[simp] theorem modCtr_rels (i : Nat) (g : Ctrs → Ctrs) (s : State) : (modCtr i g s).rels = s.rels := rfl
@[simp] theorem modCtr_offs (i : Nat) (g : Ctrs → Ctrs) (s : State) : (modCtr i g s).offs = s.offs := rfl
@[simp] theorem modCtr_nextJob (i : Nat) (g : Ctrs → Ctrs) (s : State) : (modCtr i g s).nextJob = s.nextJob := rfl
@[simp] theorem modCtr_ops (i : Nat) (g : Ctrs → Ctrs) (s : State) : (modCtr i g s).ops = s.ops := rfl
@[simp] theorem modCtr_runs (i : Nat) (g : Ctrs → Ctrs) (s : State) : (modCtr i g s).runs = s.runs := rfl
@[simp] theorem modCtr_fltc (i : Nat) (g : Ctrs → Ctrs) (s : State) : (modCtr i g s).fltc = s.fltc := rfl
@[simp] theorem modCtr_fltcMiss (i : Nat) (g : Ctrs → Ctrs) (s : State) : (modCtr i g s).fltcMiss = s.fltcMiss := rfl
@[simp] theorem modCtr_cdc (i : Nat) (g : Ctrs → Ctrs) (s : State) : (modCtr i g s).cdc = s.cdc := rfl
@[simp] theorem modCtr_cip (i : Nat) (g : Ctrs → Ctrs) (s : State) : (modCtr i g s).cip = s.cip := rfl
@[simp] theorem modCtr_vault (i : Nat) (g : Ctrs → Ctrs) (s : State) : (modCtr i g s).vault = s.vault := rfl
@[simp] theorem modCtr_co (i : Nat) (g : Ctrs → Ctrs) (s : State) : (modCtr i g s).co = s.co := rfl
@[simp] theorem modCtr_sec (i : Nat) (g : Ctrs → Ctrs) (s : State) : (modCtr i g s).sec = s.sec := rfl
@[simp] theorem modCtr_fw (i : Nat) (g : Ctrs → Ctrs) (s : State) : (modCtr i g s).fw = s.fw := rfl
@[simp] theorem modCtr_chans (i : Nat) (g : Ctrs → Ctrs) (s : State) : (modCtr i g s).chans = s.chans := rfl
@[simp] theorem modCtr_luns (i : Nat) (g : Ctrs → Ctrs) (s : State) : (modCtr i g s).luns = s.luns := rfl
@[simp] theorem modCtr_suspCount (i : Nat) (g : Ctrs → Ctrs) (s : State) : (modCtr i g s).suspCount = s.suspCount := rfl
@[simp] theorem modCtr_suspExh (i : Nat) (g : Ctrs → Ctrs) (s : State) : (modCtr i g s).suspExh = s.suspExh := rfl
@[simp] theorem modCtr_locks (i : Nat) (g : Ctrs → Ctrs) (s : State) : (modCtr i g s).locks = s.locks := rfl
@[simp] theorem modCtr_dram (i : Nat) (g : Ctrs → Ctrs) (s : State) : (modCtr i g s).dram = s.dram := rfl
@[simp] theorem modCtr_sram (i : Nat) (g : Ctrs → Ctrs) (s : State) : (modCtr i g s).sram = s.sram := rfl
@[simp] theorem modCtr_pwr (i : Nat) (g : Ctrs → Ctrs) (s : State) : (modCtr i g s).pwr = s.pwr := rfl
@[simp] theorem modCtr_hk (i : Nat) (g : Ctrs → Ctrs) (s : State) : (modCtr i g s).hk = s.hk := rfl
@[simp] theorem modCtr_hold (i : Nat) (g : Ctrs → Ctrs) (s : State) : (modCtr i g s).hold = s.hold := rfl
@[simp] theorem modCtr_therm (i : Nat) (g : Ctrs → Ctrs) (s : State) : (modCtr i g s).therm = s.therm := rfl
@[simp] theorem modCtr_zer (i : Nat) (g : Ctrs → Ctrs) (s : State) : (modCtr i g s).zer = s.zer := rfl
@[simp] theorem modCtr_rep (i : Nat) (g : Ctrs → Ctrs) (s : State) : (modCtr i g s).rep = s.rep := rfl
@[simp] theorem modCtr_mig (i : Nat) (g : Ctrs → Ctrs) (s : State) : (modCtr i g s).mig = s.mig := rfl
@[simp] theorem modCtr_flt (i : Nat) (g : Ctrs → Ctrs) (s : State) : (modCtr i g s).flt = s.flt := rfl
@[simp] theorem modCtr_ctrStored (i : Nat) (g : Ctrs → Ctrs) (s : State) : (modCtr i g s).ctrStored = s.ctrStored := rfl
@[simp] theorem modCtr_san (i : Nat) (g : Ctrs → Ctrs) (s : State) : (modCtr i g s).san = s.san := rfl
@[simp] theorem modCtr_replayed (i : Nat) (g : Ctrs → Ctrs) (s : State) : (modCtr i g s).replayed = s.replayed := rfl
@[simp] theorem modCtr_freeCtr (i : Nat) (g : Ctrs → Ctrs) (s : State) : (modCtr i g s).freeCtr = s.freeCtr := rfl
@[simp] theorem modCtr_pending (i : Nat) (g : Ctrs → Ctrs) (s : State) : (modCtr i g s).pending = s.pending := rfl

/-! ### modRank -/

@[simp] theorem modRank_clk (r : Nat) (g : Rank → Rank) (s : State) : (modRank r g s).clk = s.clk := rfl
@[simp] theorem modRank_norCfg (r : Nat) (g : Rank → Rank) (s : State) : (modRank r g s).norCfg = s.norCfg := rfl
@[simp] theorem modRank_journal (r : Nat) (g : Rank → Rank) (s : State) : (modRank r g s).journal = s.journal := rfl
@[simp] theorem modRank_rebs (r : Nat) (g : Rank → Rank) (s : State) : (modRank r g s).rebs = s.rebs := rfl
@[simp] theorem modRank_md (r : Nat) (g : Rank → Rank) (s : State) : (modRank r g s).md = s.md := rfl
@[simp] theorem modRank_pin (r : Nat) (g : Rank → Rank) (s : State) : (modRank r g s).pin = s.pin := rfl
@[simp] theorem modRank_regs (r : Nat) (g : Rank → Rank) (s : State) : (modRank r g s).regs = s.regs := rfl
@[simp] theorem modRank_rsv (r : Nat) (g : Rank → Rank) (s : State) : (modRank r g s).rsv = s.rsv := rfl
@[simp] theorem modRank_nor (r : Nat) (g : Rank → Rank) (s : State) : (modRank r g s).nor = s.nor := rfl
@[simp] theorem modRank_pPend (r : Nat) (g : Rank → Rank) (s : State) : (modRank r g s).pPend = s.pPend := rfl
@[simp] theorem modRank_psaveFail (r : Nat) (g : Rank → Rank) (s : State) : (modRank r g s).psaveFail = s.psaveFail := rfl
@[simp] theorem modRank_aonQ (r : Nat) (g : Rank → Rank) (s : State) : (modRank r g s).aonQ = s.aonQ := rfl
@[simp] theorem modRank_aonHeld (r : Nat) (g : Rank → Rank) (s : State) : (modRank r g s).aonHeld = s.aonHeld := rfl
@[simp] theorem modRank_refuse (r : Nat) (g : Rank → Rank) (s : State) : (modRank r g s).refuse = s.refuse := rfl
@[simp] theorem modRank_wvTop (r : Nat) (g : Rank → Rank) (s : State) : (modRank r g s).wvTop = s.wvTop := rfl
@[simp] theorem modRank_wvVf (r : Nat) (g : Rank → Rank) (s : State) : (modRank r g s).wvVf = s.wvVf := rfl
@[simp] theorem modRank_gat (r : Nat) (g : Rank → Rank) (s : State) : (modRank r g s).gat = s.gat := rfl
@[simp] theorem modRank_pace (r : Nat) (g : Rank → Rank) (s : State) : (modRank r g s).pace = s.pace := rfl
@[simp] theorem modRank_mbx (r : Nat) (g : Rank → Rank) (s : State) : (modRank r g s).mbx = s.mbx := rfl
@[simp] theorem modRank_numVfs (r : Nat) (g : Rank → Rank) (s : State) : (modRank r g s).numVfs = s.numVfs := rfl
@[simp] theorem modRank_vfEnable (r : Nat) (g : Rank → Rank) (s : State) : (modRank r g s).vfEnable = s.vfEnable := rfl
@[simp] theorem modRank_tenants (r : Nat) (g : Rank → Rank) (s : State) : (modRank r g s).tenants = s.tenants := rfl
@[simp] theorem modRank_gens (r : Nat) (g : Rank → Rank) (s : State) : (modRank r g s).gens = s.gens := rfl
@[simp] theorem modRank_fns (r : Nat) (g : Rank → Rank) (s : State) : (modRank r g s).fns = s.fns := rfl
@[simp] theorem modRank_sqs (r : Nat) (g : Rank → Rank) (s : State) : (modRank r g s).sqs = s.sqs := rfl
@[simp] theorem modRank_cqs (r : Nat) (g : Rank → Rank) (s : State) : (modRank r g s).cqs = s.cqs := rfl
@[simp] theorem modRank_cmds (r : Nat) (g : Rank → Rank) (s : State) : (modRank r g s).cmds = s.cmds := rfl
@[simp] theorem modRank_nextOrd (r : Nat) (g : Rank → Rank) (s : State) : (modRank r g s).nextOrd = s.nextOrd := rfl
@[simp] theorem modRank_sent (r : Nat) (g : Rank → Rank) (s : State) : (modRank r g s).sent = s.sent := rfl
@[simp] theorem modRank_qos (r : Nat) (g : Rank → Rank) (s : State) : (modRank r g s).qos = s.qos := rfl
@[simp] theorem modRank_nss (r : Nat) (g : Rank → Rank) (s : State) : (modRank r g s).nss = s.nss := rfl
@[simp] theorem modRank_zones (r : Nat) (g : Rank → Rank) (s : State) : (modRank r g s).zones = s.zones := rfl
@[simp] theorem modRank_profiles (r : Nat) (g : Rank → Rank) (s : State) : (modRank r g s).profiles = s.profiles := rfl
@[simp] theorem modRank_conv (r : Nat) (g : Rank → Rank) (s : State) : (modRank r g s).conv = s.conv := rfl
@[simp] theorem modRank_cache (r : Nat) (g : Rank → Rank) (s : State) : (modRank r g s).cache = s.cache := rfl
@[simp] theorem modRank_jobs (r : Nat) (g : Rank → Rank) (s : State) : (modRank r g s).jobs = s.jobs := rfl
@[simp] theorem modRank_rjobs (r : Nat) (g : Rank → Rank) (s : State) : (modRank r g s).rjobs = s.rjobs := rfl
@[simp] theorem modRank_rels (r : Nat) (g : Rank → Rank) (s : State) : (modRank r g s).rels = s.rels := rfl
@[simp] theorem modRank_offs (r : Nat) (g : Rank → Rank) (s : State) : (modRank r g s).offs = s.offs := rfl
@[simp] theorem modRank_nextJob (r : Nat) (g : Rank → Rank) (s : State) : (modRank r g s).nextJob = s.nextJob := rfl
@[simp] theorem modRank_ops (r : Nat) (g : Rank → Rank) (s : State) : (modRank r g s).ops = s.ops := rfl
@[simp] theorem modRank_runs (r : Nat) (g : Rank → Rank) (s : State) : (modRank r g s).runs = s.runs := rfl
@[simp] theorem modRank_fltc (r : Nat) (g : Rank → Rank) (s : State) : (modRank r g s).fltc = s.fltc := rfl
@[simp] theorem modRank_fltcMiss (r : Nat) (g : Rank → Rank) (s : State) : (modRank r g s).fltcMiss = s.fltcMiss := rfl
@[simp] theorem modRank_cdc (r : Nat) (g : Rank → Rank) (s : State) : (modRank r g s).cdc = s.cdc := rfl
@[simp] theorem modRank_cip (r : Nat) (g : Rank → Rank) (s : State) : (modRank r g s).cip = s.cip := rfl
@[simp] theorem modRank_vault (r : Nat) (g : Rank → Rank) (s : State) : (modRank r g s).vault = s.vault := rfl
@[simp] theorem modRank_co (r : Nat) (g : Rank → Rank) (s : State) : (modRank r g s).co = s.co := rfl
@[simp] theorem modRank_sec (r : Nat) (g : Rank → Rank) (s : State) : (modRank r g s).sec = s.sec := rfl
@[simp] theorem modRank_fw (r : Nat) (g : Rank → Rank) (s : State) : (modRank r g s).fw = s.fw := rfl
@[simp] theorem modRank_chans (r : Nat) (g : Rank → Rank) (s : State) : (modRank r g s).chans = s.chans := rfl
@[simp] theorem modRank_luns (r : Nat) (g : Rank → Rank) (s : State) : (modRank r g s).luns = s.luns := rfl
@[simp] theorem modRank_suspCount (r : Nat) (g : Rank → Rank) (s : State) : (modRank r g s).suspCount = s.suspCount := rfl
@[simp] theorem modRank_suspExh (r : Nat) (g : Rank → Rank) (s : State) : (modRank r g s).suspExh = s.suspExh := rfl
@[simp] theorem modRank_locks (r : Nat) (g : Rank → Rank) (s : State) : (modRank r g s).locks = s.locks := rfl
@[simp] theorem modRank_sram (r : Nat) (g : Rank → Rank) (s : State) : (modRank r g s).sram = s.sram := rfl
@[simp] theorem modRank_pwr (r : Nat) (g : Rank → Rank) (s : State) : (modRank r g s).pwr = s.pwr := rfl
@[simp] theorem modRank_hk (r : Nat) (g : Rank → Rank) (s : State) : (modRank r g s).hk = s.hk := rfl
@[simp] theorem modRank_hold (r : Nat) (g : Rank → Rank) (s : State) : (modRank r g s).hold = s.hold := rfl
@[simp] theorem modRank_therm (r : Nat) (g : Rank → Rank) (s : State) : (modRank r g s).therm = s.therm := rfl
@[simp] theorem modRank_zer (r : Nat) (g : Rank → Rank) (s : State) : (modRank r g s).zer = s.zer := rfl
@[simp] theorem modRank_rep (r : Nat) (g : Rank → Rank) (s : State) : (modRank r g s).rep = s.rep := rfl
@[simp] theorem modRank_mig (r : Nat) (g : Rank → Rank) (s : State) : (modRank r g s).mig = s.mig := rfl
@[simp] theorem modRank_flt (r : Nat) (g : Rank → Rank) (s : State) : (modRank r g s).flt = s.flt := rfl
@[simp] theorem modRank_ctr (r : Nat) (g : Rank → Rank) (s : State) : (modRank r g s).ctr = s.ctr := rfl
@[simp] theorem modRank_ctrStored (r : Nat) (g : Rank → Rank) (s : State) : (modRank r g s).ctrStored = s.ctrStored := rfl
@[simp] theorem modRank_san (r : Nat) (g : Rank → Rank) (s : State) : (modRank r g s).san = s.san := rfl
@[simp] theorem modRank_replayed (r : Nat) (g : Rank → Rank) (s : State) : (modRank r g s).replayed = s.replayed := rfl
@[simp] theorem modRank_freeCtr (r : Nat) (g : Rank → Rank) (s : State) : (modRank r g s).freeCtr = s.freeCtr := rfl
@[simp] theorem modRank_pending (r : Nat) (g : Rank → Rank) (s : State) : (modRank r g s).pending = s.pending := rfl

/-! ### modSlot -/

@[simp] theorem modSlot_clk (k : Nat) (g : Slot → Slot) (s : State) : (modSlot k g s).clk = s.clk := rfl
@[simp] theorem modSlot_norCfg (k : Nat) (g : Slot → Slot) (s : State) : (modSlot k g s).norCfg = s.norCfg := rfl
@[simp] theorem modSlot_journal (k : Nat) (g : Slot → Slot) (s : State) : (modSlot k g s).journal = s.journal := rfl
@[simp] theorem modSlot_rebs (k : Nat) (g : Slot → Slot) (s : State) : (modSlot k g s).rebs = s.rebs := rfl
@[simp] theorem modSlot_md (k : Nat) (g : Slot → Slot) (s : State) : (modSlot k g s).md = s.md := rfl
@[simp] theorem modSlot_pin (k : Nat) (g : Slot → Slot) (s : State) : (modSlot k g s).pin = s.pin := rfl
@[simp] theorem modSlot_regs (k : Nat) (g : Slot → Slot) (s : State) : (modSlot k g s).regs = s.regs := rfl
@[simp] theorem modSlot_rsv (k : Nat) (g : Slot → Slot) (s : State) : (modSlot k g s).rsv = s.rsv := rfl
@[simp] theorem modSlot_nor (k : Nat) (g : Slot → Slot) (s : State) : (modSlot k g s).nor = s.nor := rfl
@[simp] theorem modSlot_pPend (k : Nat) (g : Slot → Slot) (s : State) : (modSlot k g s).pPend = s.pPend := rfl
@[simp] theorem modSlot_psaveFail (k : Nat) (g : Slot → Slot) (s : State) : (modSlot k g s).psaveFail = s.psaveFail := rfl
@[simp] theorem modSlot_aonQ (k : Nat) (g : Slot → Slot) (s : State) : (modSlot k g s).aonQ = s.aonQ := rfl
@[simp] theorem modSlot_aonHeld (k : Nat) (g : Slot → Slot) (s : State) : (modSlot k g s).aonHeld = s.aonHeld := rfl
@[simp] theorem modSlot_refuse (k : Nat) (g : Slot → Slot) (s : State) : (modSlot k g s).refuse = s.refuse := rfl
@[simp] theorem modSlot_wvTop (k : Nat) (g : Slot → Slot) (s : State) : (modSlot k g s).wvTop = s.wvTop := rfl
@[simp] theorem modSlot_wvVf (k : Nat) (g : Slot → Slot) (s : State) : (modSlot k g s).wvVf = s.wvVf := rfl
@[simp] theorem modSlot_gat (k : Nat) (g : Slot → Slot) (s : State) : (modSlot k g s).gat = s.gat := rfl
@[simp] theorem modSlot_pace (k : Nat) (g : Slot → Slot) (s : State) : (modSlot k g s).pace = s.pace := rfl
@[simp] theorem modSlot_mbx (k : Nat) (g : Slot → Slot) (s : State) : (modSlot k g s).mbx = s.mbx := rfl
@[simp] theorem modSlot_numVfs (k : Nat) (g : Slot → Slot) (s : State) : (modSlot k g s).numVfs = s.numVfs := rfl
@[simp] theorem modSlot_vfEnable (k : Nat) (g : Slot → Slot) (s : State) : (modSlot k g s).vfEnable = s.vfEnable := rfl
@[simp] theorem modSlot_tenants (k : Nat) (g : Slot → Slot) (s : State) : (modSlot k g s).tenants = s.tenants := rfl
@[simp] theorem modSlot_gens (k : Nat) (g : Slot → Slot) (s : State) : (modSlot k g s).gens = s.gens := rfl
@[simp] theorem modSlot_fns (k : Nat) (g : Slot → Slot) (s : State) : (modSlot k g s).fns = s.fns := rfl
@[simp] theorem modSlot_sqs (k : Nat) (g : Slot → Slot) (s : State) : (modSlot k g s).sqs = s.sqs := rfl
@[simp] theorem modSlot_cqs (k : Nat) (g : Slot → Slot) (s : State) : (modSlot k g s).cqs = s.cqs := rfl
@[simp] theorem modSlot_cmds (k : Nat) (g : Slot → Slot) (s : State) : (modSlot k g s).cmds = s.cmds := rfl
@[simp] theorem modSlot_nextOrd (k : Nat) (g : Slot → Slot) (s : State) : (modSlot k g s).nextOrd = s.nextOrd := rfl
@[simp] theorem modSlot_sent (k : Nat) (g : Slot → Slot) (s : State) : (modSlot k g s).sent = s.sent := rfl
@[simp] theorem modSlot_qos (k : Nat) (g : Slot → Slot) (s : State) : (modSlot k g s).qos = s.qos := rfl
@[simp] theorem modSlot_nss (k : Nat) (g : Slot → Slot) (s : State) : (modSlot k g s).nss = s.nss := rfl
@[simp] theorem modSlot_zones (k : Nat) (g : Slot → Slot) (s : State) : (modSlot k g s).zones = s.zones := rfl
@[simp] theorem modSlot_profiles (k : Nat) (g : Slot → Slot) (s : State) : (modSlot k g s).profiles = s.profiles := rfl
@[simp] theorem modSlot_conv (k : Nat) (g : Slot → Slot) (s : State) : (modSlot k g s).conv = s.conv := rfl
@[simp] theorem modSlot_cache (k : Nat) (g : Slot → Slot) (s : State) : (modSlot k g s).cache = s.cache := rfl
@[simp] theorem modSlot_jobs (k : Nat) (g : Slot → Slot) (s : State) : (modSlot k g s).jobs = s.jobs := rfl
@[simp] theorem modSlot_rjobs (k : Nat) (g : Slot → Slot) (s : State) : (modSlot k g s).rjobs = s.rjobs := rfl
@[simp] theorem modSlot_rels (k : Nat) (g : Slot → Slot) (s : State) : (modSlot k g s).rels = s.rels := rfl
@[simp] theorem modSlot_offs (k : Nat) (g : Slot → Slot) (s : State) : (modSlot k g s).offs = s.offs := rfl
@[simp] theorem modSlot_nextJob (k : Nat) (g : Slot → Slot) (s : State) : (modSlot k g s).nextJob = s.nextJob := rfl
@[simp] theorem modSlot_ops (k : Nat) (g : Slot → Slot) (s : State) : (modSlot k g s).ops = s.ops := rfl
@[simp] theorem modSlot_runs (k : Nat) (g : Slot → Slot) (s : State) : (modSlot k g s).runs = s.runs := rfl
@[simp] theorem modSlot_fltc (k : Nat) (g : Slot → Slot) (s : State) : (modSlot k g s).fltc = s.fltc := rfl
@[simp] theorem modSlot_fltcMiss (k : Nat) (g : Slot → Slot) (s : State) : (modSlot k g s).fltcMiss = s.fltcMiss := rfl
@[simp] theorem modSlot_cdc (k : Nat) (g : Slot → Slot) (s : State) : (modSlot k g s).cdc = s.cdc := rfl
@[simp] theorem modSlot_cip (k : Nat) (g : Slot → Slot) (s : State) : (modSlot k g s).cip = s.cip := rfl
@[simp] theorem modSlot_co (k : Nat) (g : Slot → Slot) (s : State) : (modSlot k g s).co = s.co := rfl
@[simp] theorem modSlot_sec (k : Nat) (g : Slot → Slot) (s : State) : (modSlot k g s).sec = s.sec := rfl
@[simp] theorem modSlot_fw (k : Nat) (g : Slot → Slot) (s : State) : (modSlot k g s).fw = s.fw := rfl
@[simp] theorem modSlot_chans (k : Nat) (g : Slot → Slot) (s : State) : (modSlot k g s).chans = s.chans := rfl
@[simp] theorem modSlot_luns (k : Nat) (g : Slot → Slot) (s : State) : (modSlot k g s).luns = s.luns := rfl
@[simp] theorem modSlot_suspCount (k : Nat) (g : Slot → Slot) (s : State) : (modSlot k g s).suspCount = s.suspCount := rfl
@[simp] theorem modSlot_suspExh (k : Nat) (g : Slot → Slot) (s : State) : (modSlot k g s).suspExh = s.suspExh := rfl
@[simp] theorem modSlot_locks (k : Nat) (g : Slot → Slot) (s : State) : (modSlot k g s).locks = s.locks := rfl
@[simp] theorem modSlot_dram (k : Nat) (g : Slot → Slot) (s : State) : (modSlot k g s).dram = s.dram := rfl
@[simp] theorem modSlot_sram (k : Nat) (g : Slot → Slot) (s : State) : (modSlot k g s).sram = s.sram := rfl
@[simp] theorem modSlot_pwr (k : Nat) (g : Slot → Slot) (s : State) : (modSlot k g s).pwr = s.pwr := rfl
@[simp] theorem modSlot_hk (k : Nat) (g : Slot → Slot) (s : State) : (modSlot k g s).hk = s.hk := rfl
@[simp] theorem modSlot_hold (k : Nat) (g : Slot → Slot) (s : State) : (modSlot k g s).hold = s.hold := rfl
@[simp] theorem modSlot_therm (k : Nat) (g : Slot → Slot) (s : State) : (modSlot k g s).therm = s.therm := rfl
@[simp] theorem modSlot_zer (k : Nat) (g : Slot → Slot) (s : State) : (modSlot k g s).zer = s.zer := rfl
@[simp] theorem modSlot_rep (k : Nat) (g : Slot → Slot) (s : State) : (modSlot k g s).rep = s.rep := rfl
@[simp] theorem modSlot_mig (k : Nat) (g : Slot → Slot) (s : State) : (modSlot k g s).mig = s.mig := rfl
@[simp] theorem modSlot_flt (k : Nat) (g : Slot → Slot) (s : State) : (modSlot k g s).flt = s.flt := rfl
@[simp] theorem modSlot_ctr (k : Nat) (g : Slot → Slot) (s : State) : (modSlot k g s).ctr = s.ctr := rfl
@[simp] theorem modSlot_ctrStored (k : Nat) (g : Slot → Slot) (s : State) : (modSlot k g s).ctrStored = s.ctrStored := rfl
@[simp] theorem modSlot_san (k : Nat) (g : Slot → Slot) (s : State) : (modSlot k g s).san = s.san := rfl
@[simp] theorem modSlot_replayed (k : Nat) (g : Slot → Slot) (s : State) : (modSlot k g s).replayed = s.replayed := rfl
@[simp] theorem modSlot_freeCtr (k : Nat) (g : Slot → Slot) (s : State) : (modSlot k g s).freeCtr = s.freeCtr := rfl
@[simp] theorem modSlot_pending (k : Nat) (g : Slot → Slot) (s : State) : (modSlot k g s).pending = s.pending := rfl

/-! ### modCont -/

@[simp] theorem modCont_clk (i : Nat) (g : Cont → Cont) (s : State) : (modCont i g s).clk = s.clk := rfl
@[simp] theorem modCont_norCfg (i : Nat) (g : Cont → Cont) (s : State) : (modCont i g s).norCfg = s.norCfg := rfl
@[simp] theorem modCont_journal (i : Nat) (g : Cont → Cont) (s : State) : (modCont i g s).journal = s.journal := rfl
@[simp] theorem modCont_rebs (i : Nat) (g : Cont → Cont) (s : State) : (modCont i g s).rebs = s.rebs := rfl
@[simp] theorem modCont_md (i : Nat) (g : Cont → Cont) (s : State) : (modCont i g s).md = s.md := rfl
@[simp] theorem modCont_pin (i : Nat) (g : Cont → Cont) (s : State) : (modCont i g s).pin = s.pin := rfl
@[simp] theorem modCont_regs (i : Nat) (g : Cont → Cont) (s : State) : (modCont i g s).regs = s.regs := rfl
@[simp] theorem modCont_rsv (i : Nat) (g : Cont → Cont) (s : State) : (modCont i g s).rsv = s.rsv := rfl
@[simp] theorem modCont_nor (i : Nat) (g : Cont → Cont) (s : State) : (modCont i g s).nor = s.nor := rfl
@[simp] theorem modCont_pPend (i : Nat) (g : Cont → Cont) (s : State) : (modCont i g s).pPend = s.pPend := rfl
@[simp] theorem modCont_psaveFail (i : Nat) (g : Cont → Cont) (s : State) : (modCont i g s).psaveFail = s.psaveFail := rfl
@[simp] theorem modCont_aonQ (i : Nat) (g : Cont → Cont) (s : State) : (modCont i g s).aonQ = s.aonQ := rfl
@[simp] theorem modCont_aonHeld (i : Nat) (g : Cont → Cont) (s : State) : (modCont i g s).aonHeld = s.aonHeld := rfl
@[simp] theorem modCont_refuse (i : Nat) (g : Cont → Cont) (s : State) : (modCont i g s).refuse = s.refuse := rfl
@[simp] theorem modCont_wvTop (i : Nat) (g : Cont → Cont) (s : State) : (modCont i g s).wvTop = s.wvTop := rfl
@[simp] theorem modCont_wvVf (i : Nat) (g : Cont → Cont) (s : State) : (modCont i g s).wvVf = s.wvVf := rfl
@[simp] theorem modCont_gat (i : Nat) (g : Cont → Cont) (s : State) : (modCont i g s).gat = s.gat := rfl
@[simp] theorem modCont_pace (i : Nat) (g : Cont → Cont) (s : State) : (modCont i g s).pace = s.pace := rfl
@[simp] theorem modCont_mbx (i : Nat) (g : Cont → Cont) (s : State) : (modCont i g s).mbx = s.mbx := rfl
@[simp] theorem modCont_numVfs (i : Nat) (g : Cont → Cont) (s : State) : (modCont i g s).numVfs = s.numVfs := rfl
@[simp] theorem modCont_vfEnable (i : Nat) (g : Cont → Cont) (s : State) : (modCont i g s).vfEnable = s.vfEnable := rfl
@[simp] theorem modCont_tenants (i : Nat) (g : Cont → Cont) (s : State) : (modCont i g s).tenants = s.tenants := rfl
@[simp] theorem modCont_gens (i : Nat) (g : Cont → Cont) (s : State) : (modCont i g s).gens = s.gens := rfl
@[simp] theorem modCont_fns (i : Nat) (g : Cont → Cont) (s : State) : (modCont i g s).fns = s.fns := rfl
@[simp] theorem modCont_sqs (i : Nat) (g : Cont → Cont) (s : State) : (modCont i g s).sqs = s.sqs := rfl
@[simp] theorem modCont_cqs (i : Nat) (g : Cont → Cont) (s : State) : (modCont i g s).cqs = s.cqs := rfl
@[simp] theorem modCont_cmds (i : Nat) (g : Cont → Cont) (s : State) : (modCont i g s).cmds = s.cmds := rfl
@[simp] theorem modCont_nextOrd (i : Nat) (g : Cont → Cont) (s : State) : (modCont i g s).nextOrd = s.nextOrd := rfl
@[simp] theorem modCont_sent (i : Nat) (g : Cont → Cont) (s : State) : (modCont i g s).sent = s.sent := rfl
@[simp] theorem modCont_nss (i : Nat) (g : Cont → Cont) (s : State) : (modCont i g s).nss = s.nss := rfl
@[simp] theorem modCont_zones (i : Nat) (g : Cont → Cont) (s : State) : (modCont i g s).zones = s.zones := rfl
@[simp] theorem modCont_profiles (i : Nat) (g : Cont → Cont) (s : State) : (modCont i g s).profiles = s.profiles := rfl
@[simp] theorem modCont_conv (i : Nat) (g : Cont → Cont) (s : State) : (modCont i g s).conv = s.conv := rfl
@[simp] theorem modCont_cache (i : Nat) (g : Cont → Cont) (s : State) : (modCont i g s).cache = s.cache := rfl
@[simp] theorem modCont_jobs (i : Nat) (g : Cont → Cont) (s : State) : (modCont i g s).jobs = s.jobs := rfl
@[simp] theorem modCont_rjobs (i : Nat) (g : Cont → Cont) (s : State) : (modCont i g s).rjobs = s.rjobs := rfl
@[simp] theorem modCont_rels (i : Nat) (g : Cont → Cont) (s : State) : (modCont i g s).rels = s.rels := rfl
@[simp] theorem modCont_offs (i : Nat) (g : Cont → Cont) (s : State) : (modCont i g s).offs = s.offs := rfl
@[simp] theorem modCont_nextJob (i : Nat) (g : Cont → Cont) (s : State) : (modCont i g s).nextJob = s.nextJob := rfl
@[simp] theorem modCont_ops (i : Nat) (g : Cont → Cont) (s : State) : (modCont i g s).ops = s.ops := rfl
@[simp] theorem modCont_runs (i : Nat) (g : Cont → Cont) (s : State) : (modCont i g s).runs = s.runs := rfl
@[simp] theorem modCont_fltc (i : Nat) (g : Cont → Cont) (s : State) : (modCont i g s).fltc = s.fltc := rfl
@[simp] theorem modCont_fltcMiss (i : Nat) (g : Cont → Cont) (s : State) : (modCont i g s).fltcMiss = s.fltcMiss := rfl
@[simp] theorem modCont_cdc (i : Nat) (g : Cont → Cont) (s : State) : (modCont i g s).cdc = s.cdc := rfl
@[simp] theorem modCont_cip (i : Nat) (g : Cont → Cont) (s : State) : (modCont i g s).cip = s.cip := rfl
@[simp] theorem modCont_vault (i : Nat) (g : Cont → Cont) (s : State) : (modCont i g s).vault = s.vault := rfl
@[simp] theorem modCont_co (i : Nat) (g : Cont → Cont) (s : State) : (modCont i g s).co = s.co := rfl
@[simp] theorem modCont_sec (i : Nat) (g : Cont → Cont) (s : State) : (modCont i g s).sec = s.sec := rfl
@[simp] theorem modCont_fw (i : Nat) (g : Cont → Cont) (s : State) : (modCont i g s).fw = s.fw := rfl
@[simp] theorem modCont_chans (i : Nat) (g : Cont → Cont) (s : State) : (modCont i g s).chans = s.chans := rfl
@[simp] theorem modCont_luns (i : Nat) (g : Cont → Cont) (s : State) : (modCont i g s).luns = s.luns := rfl
@[simp] theorem modCont_suspCount (i : Nat) (g : Cont → Cont) (s : State) : (modCont i g s).suspCount = s.suspCount := rfl
@[simp] theorem modCont_suspExh (i : Nat) (g : Cont → Cont) (s : State) : (modCont i g s).suspExh = s.suspExh := rfl
@[simp] theorem modCont_locks (i : Nat) (g : Cont → Cont) (s : State) : (modCont i g s).locks = s.locks := rfl
@[simp] theorem modCont_dram (i : Nat) (g : Cont → Cont) (s : State) : (modCont i g s).dram = s.dram := rfl
@[simp] theorem modCont_sram (i : Nat) (g : Cont → Cont) (s : State) : (modCont i g s).sram = s.sram := rfl
@[simp] theorem modCont_pwr (i : Nat) (g : Cont → Cont) (s : State) : (modCont i g s).pwr = s.pwr := rfl
@[simp] theorem modCont_hk (i : Nat) (g : Cont → Cont) (s : State) : (modCont i g s).hk = s.hk := rfl
@[simp] theorem modCont_hold (i : Nat) (g : Cont → Cont) (s : State) : (modCont i g s).hold = s.hold := rfl
@[simp] theorem modCont_therm (i : Nat) (g : Cont → Cont) (s : State) : (modCont i g s).therm = s.therm := rfl
@[simp] theorem modCont_zer (i : Nat) (g : Cont → Cont) (s : State) : (modCont i g s).zer = s.zer := rfl
@[simp] theorem modCont_rep (i : Nat) (g : Cont → Cont) (s : State) : (modCont i g s).rep = s.rep := rfl
@[simp] theorem modCont_mig (i : Nat) (g : Cont → Cont) (s : State) : (modCont i g s).mig = s.mig := rfl
@[simp] theorem modCont_flt (i : Nat) (g : Cont → Cont) (s : State) : (modCont i g s).flt = s.flt := rfl
@[simp] theorem modCont_ctr (i : Nat) (g : Cont → Cont) (s : State) : (modCont i g s).ctr = s.ctr := rfl
@[simp] theorem modCont_ctrStored (i : Nat) (g : Cont → Cont) (s : State) : (modCont i g s).ctrStored = s.ctrStored := rfl
@[simp] theorem modCont_san (i : Nat) (g : Cont → Cont) (s : State) : (modCont i g s).san = s.san := rfl
@[simp] theorem modCont_replayed (i : Nat) (g : Cont → Cont) (s : State) : (modCont i g s).replayed = s.replayed := rfl
@[simp] theorem modCont_freeCtr (i : Nat) (g : Cont → Cont) (s : State) : (modCont i g s).freeCtr = s.freeCtr := rfl
@[simp] theorem modCont_pending (i : Nat) (g : Cont → Cont) (s : State) : (modCont i g s).pending = s.pending := rfl

/-! ### emit -/

@[simp] theorem emit_clk (x : Xfer) (s : State) : (emit x s).clk = s.clk := rfl
@[simp] theorem emit_norCfg (x : Xfer) (s : State) : (emit x s).norCfg = s.norCfg := rfl
@[simp] theorem emit_journal (x : Xfer) (s : State) : (emit x s).journal = s.journal := rfl
@[simp] theorem emit_rebs (x : Xfer) (s : State) : (emit x s).rebs = s.rebs := rfl
@[simp] theorem emit_md (x : Xfer) (s : State) : (emit x s).md = s.md := rfl
@[simp] theorem emit_pin (x : Xfer) (s : State) : (emit x s).pin = s.pin := rfl
@[simp] theorem emit_regs (x : Xfer) (s : State) : (emit x s).regs = s.regs := rfl
@[simp] theorem emit_rsv (x : Xfer) (s : State) : (emit x s).rsv = s.rsv := rfl
@[simp] theorem emit_nor (x : Xfer) (s : State) : (emit x s).nor = s.nor := rfl
@[simp] theorem emit_pPend (x : Xfer) (s : State) : (emit x s).pPend = s.pPend := rfl
@[simp] theorem emit_psaveFail (x : Xfer) (s : State) : (emit x s).psaveFail = s.psaveFail := rfl
@[simp] theorem emit_aonQ (x : Xfer) (s : State) : (emit x s).aonQ = s.aonQ := rfl
@[simp] theorem emit_aonHeld (x : Xfer) (s : State) : (emit x s).aonHeld = s.aonHeld := rfl
@[simp] theorem emit_refuse (x : Xfer) (s : State) : (emit x s).refuse = s.refuse := rfl
@[simp] theorem emit_wvTop (x : Xfer) (s : State) : (emit x s).wvTop = s.wvTop := rfl
@[simp] theorem emit_wvVf (x : Xfer) (s : State) : (emit x s).wvVf = s.wvVf := rfl
@[simp] theorem emit_gat (x : Xfer) (s : State) : (emit x s).gat = s.gat := rfl
@[simp] theorem emit_pace (x : Xfer) (s : State) : (emit x s).pace = s.pace := rfl
@[simp] theorem emit_mbx (x : Xfer) (s : State) : (emit x s).mbx = s.mbx := rfl
@[simp] theorem emit_numVfs (x : Xfer) (s : State) : (emit x s).numVfs = s.numVfs := rfl
@[simp] theorem emit_vfEnable (x : Xfer) (s : State) : (emit x s).vfEnable = s.vfEnable := rfl
@[simp] theorem emit_tenants (x : Xfer) (s : State) : (emit x s).tenants = s.tenants := rfl
@[simp] theorem emit_gens (x : Xfer) (s : State) : (emit x s).gens = s.gens := rfl
@[simp] theorem emit_fns (x : Xfer) (s : State) : (emit x s).fns = s.fns := rfl
@[simp] theorem emit_sqs (x : Xfer) (s : State) : (emit x s).sqs = s.sqs := rfl
@[simp] theorem emit_cqs (x : Xfer) (s : State) : (emit x s).cqs = s.cqs := rfl
@[simp] theorem emit_cmds (x : Xfer) (s : State) : (emit x s).cmds = s.cmds := rfl
@[simp] theorem emit_nextOrd (x : Xfer) (s : State) : (emit x s).nextOrd = s.nextOrd := rfl
@[simp] theorem emit_qos (x : Xfer) (s : State) : (emit x s).qos = s.qos := rfl
@[simp] theorem emit_nss (x : Xfer) (s : State) : (emit x s).nss = s.nss := rfl
@[simp] theorem emit_zones (x : Xfer) (s : State) : (emit x s).zones = s.zones := rfl
@[simp] theorem emit_profiles (x : Xfer) (s : State) : (emit x s).profiles = s.profiles := rfl
@[simp] theorem emit_conv (x : Xfer) (s : State) : (emit x s).conv = s.conv := rfl
@[simp] theorem emit_cache (x : Xfer) (s : State) : (emit x s).cache = s.cache := rfl
@[simp] theorem emit_jobs (x : Xfer) (s : State) : (emit x s).jobs = s.jobs := rfl
@[simp] theorem emit_rjobs (x : Xfer) (s : State) : (emit x s).rjobs = s.rjobs := rfl
@[simp] theorem emit_rels (x : Xfer) (s : State) : (emit x s).rels = s.rels := rfl
@[simp] theorem emit_offs (x : Xfer) (s : State) : (emit x s).offs = s.offs := rfl
@[simp] theorem emit_nextJob (x : Xfer) (s : State) : (emit x s).nextJob = s.nextJob := rfl
@[simp] theorem emit_ops (x : Xfer) (s : State) : (emit x s).ops = s.ops := rfl
@[simp] theorem emit_runs (x : Xfer) (s : State) : (emit x s).runs = s.runs := rfl
@[simp] theorem emit_fltc (x : Xfer) (s : State) : (emit x s).fltc = s.fltc := rfl
@[simp] theorem emit_fltcMiss (x : Xfer) (s : State) : (emit x s).fltcMiss = s.fltcMiss := rfl
@[simp] theorem emit_cdc (x : Xfer) (s : State) : (emit x s).cdc = s.cdc := rfl
@[simp] theorem emit_cip (x : Xfer) (s : State) : (emit x s).cip = s.cip := rfl
@[simp] theorem emit_vault (x : Xfer) (s : State) : (emit x s).vault = s.vault := rfl
@[simp] theorem emit_co (x : Xfer) (s : State) : (emit x s).co = s.co := rfl
@[simp] theorem emit_sec (x : Xfer) (s : State) : (emit x s).sec = s.sec := rfl
@[simp] theorem emit_fw (x : Xfer) (s : State) : (emit x s).fw = s.fw := rfl
@[simp] theorem emit_chans (x : Xfer) (s : State) : (emit x s).chans = s.chans := rfl
@[simp] theorem emit_luns (x : Xfer) (s : State) : (emit x s).luns = s.luns := rfl
@[simp] theorem emit_suspCount (x : Xfer) (s : State) : (emit x s).suspCount = s.suspCount := rfl
@[simp] theorem emit_suspExh (x : Xfer) (s : State) : (emit x s).suspExh = s.suspExh := rfl
@[simp] theorem emit_locks (x : Xfer) (s : State) : (emit x s).locks = s.locks := rfl
@[simp] theorem emit_dram (x : Xfer) (s : State) : (emit x s).dram = s.dram := rfl
@[simp] theorem emit_sram (x : Xfer) (s : State) : (emit x s).sram = s.sram := rfl
@[simp] theorem emit_pwr (x : Xfer) (s : State) : (emit x s).pwr = s.pwr := rfl
@[simp] theorem emit_hk (x : Xfer) (s : State) : (emit x s).hk = s.hk := rfl
@[simp] theorem emit_hold (x : Xfer) (s : State) : (emit x s).hold = s.hold := rfl
@[simp] theorem emit_therm (x : Xfer) (s : State) : (emit x s).therm = s.therm := rfl
@[simp] theorem emit_zer (x : Xfer) (s : State) : (emit x s).zer = s.zer := rfl
@[simp] theorem emit_rep (x : Xfer) (s : State) : (emit x s).rep = s.rep := rfl
@[simp] theorem emit_mig (x : Xfer) (s : State) : (emit x s).mig = s.mig := rfl
@[simp] theorem emit_flt (x : Xfer) (s : State) : (emit x s).flt = s.flt := rfl
@[simp] theorem emit_ctr (x : Xfer) (s : State) : (emit x s).ctr = s.ctr := rfl
@[simp] theorem emit_ctrStored (x : Xfer) (s : State) : (emit x s).ctrStored = s.ctrStored := rfl
@[simp] theorem emit_san (x : Xfer) (s : State) : (emit x s).san = s.san := rfl
@[simp] theorem emit_replayed (x : Xfer) (s : State) : (emit x s).replayed = s.replayed := rfl
@[simp] theorem emit_freeCtr (x : Xfer) (s : State) : (emit x s).freeCtr = s.freeCtr := rfl
@[simp] theorem emit_pending (x : Xfer) (s : State) : (emit x s).pending = s.pending := rfl

/-! ### regPut -/

@[simp] theorem regPut_clk (s : State) (o : Nat) (v : W32) : (regPut s o v).clk = s.clk := rfl
@[simp] theorem regPut_norCfg (s : State) (o : Nat) (v : W32) : (regPut s o v).norCfg = s.norCfg := rfl
@[simp] theorem regPut_journal (s : State) (o : Nat) (v : W32) : (regPut s o v).journal = s.journal := rfl
@[simp] theorem regPut_rebs (s : State) (o : Nat) (v : W32) : (regPut s o v).rebs = s.rebs := rfl
@[simp] theorem regPut_md (s : State) (o : Nat) (v : W32) : (regPut s o v).md = s.md := rfl
@[simp] theorem regPut_pin (s : State) (o : Nat) (v : W32) : (regPut s o v).pin = s.pin := rfl
@[simp] theorem regPut_rsv (s : State) (o : Nat) (v : W32) : (regPut s o v).rsv = s.rsv := rfl
@[simp] theorem regPut_nor (s : State) (o : Nat) (v : W32) : (regPut s o v).nor = s.nor := rfl
@[simp] theorem regPut_pPend (s : State) (o : Nat) (v : W32) : (regPut s o v).pPend = s.pPend := rfl
@[simp] theorem regPut_psaveFail (s : State) (o : Nat) (v : W32) : (regPut s o v).psaveFail = s.psaveFail := rfl
@[simp] theorem regPut_aonQ (s : State) (o : Nat) (v : W32) : (regPut s o v).aonQ = s.aonQ := rfl
@[simp] theorem regPut_aonHeld (s : State) (o : Nat) (v : W32) : (regPut s o v).aonHeld = s.aonHeld := rfl
@[simp] theorem regPut_refuse (s : State) (o : Nat) (v : W32) : (regPut s o v).refuse = s.refuse := rfl
@[simp] theorem regPut_wvTop (s : State) (o : Nat) (v : W32) : (regPut s o v).wvTop = s.wvTop := rfl
@[simp] theorem regPut_wvVf (s : State) (o : Nat) (v : W32) : (regPut s o v).wvVf = s.wvVf := rfl
@[simp] theorem regPut_gat (s : State) (o : Nat) (v : W32) : (regPut s o v).gat = s.gat := rfl
@[simp] theorem regPut_pace (s : State) (o : Nat) (v : W32) : (regPut s o v).pace = s.pace := rfl
@[simp] theorem regPut_mbx (s : State) (o : Nat) (v : W32) : (regPut s o v).mbx = s.mbx := rfl
@[simp] theorem regPut_numVfs (s : State) (o : Nat) (v : W32) : (regPut s o v).numVfs = s.numVfs := rfl
@[simp] theorem regPut_vfEnable (s : State) (o : Nat) (v : W32) : (regPut s o v).vfEnable = s.vfEnable := rfl
@[simp] theorem regPut_tenants (s : State) (o : Nat) (v : W32) : (regPut s o v).tenants = s.tenants := rfl
@[simp] theorem regPut_gens (s : State) (o : Nat) (v : W32) : (regPut s o v).gens = s.gens := rfl
@[simp] theorem regPut_fns (s : State) (o : Nat) (v : W32) : (regPut s o v).fns = s.fns := rfl
@[simp] theorem regPut_sqs (s : State) (o : Nat) (v : W32) : (regPut s o v).sqs = s.sqs := rfl
@[simp] theorem regPut_cqs (s : State) (o : Nat) (v : W32) : (regPut s o v).cqs = s.cqs := rfl
@[simp] theorem regPut_cmds (s : State) (o : Nat) (v : W32) : (regPut s o v).cmds = s.cmds := rfl
@[simp] theorem regPut_nextOrd (s : State) (o : Nat) (v : W32) : (regPut s o v).nextOrd = s.nextOrd := rfl
@[simp] theorem regPut_sent (s : State) (o : Nat) (v : W32) : (regPut s o v).sent = s.sent := rfl
@[simp] theorem regPut_qos (s : State) (o : Nat) (v : W32) : (regPut s o v).qos = s.qos := rfl
@[simp] theorem regPut_nss (s : State) (o : Nat) (v : W32) : (regPut s o v).nss = s.nss := rfl
@[simp] theorem regPut_zones (s : State) (o : Nat) (v : W32) : (regPut s o v).zones = s.zones := rfl
@[simp] theorem regPut_profiles (s : State) (o : Nat) (v : W32) : (regPut s o v).profiles = s.profiles := rfl
@[simp] theorem regPut_conv (s : State) (o : Nat) (v : W32) : (regPut s o v).conv = s.conv := rfl
@[simp] theorem regPut_cache (s : State) (o : Nat) (v : W32) : (regPut s o v).cache = s.cache := rfl
@[simp] theorem regPut_jobs (s : State) (o : Nat) (v : W32) : (regPut s o v).jobs = s.jobs := rfl
@[simp] theorem regPut_rjobs (s : State) (o : Nat) (v : W32) : (regPut s o v).rjobs = s.rjobs := rfl
@[simp] theorem regPut_rels (s : State) (o : Nat) (v : W32) : (regPut s o v).rels = s.rels := rfl
@[simp] theorem regPut_offs (s : State) (o : Nat) (v : W32) : (regPut s o v).offs = s.offs := rfl
@[simp] theorem regPut_nextJob (s : State) (o : Nat) (v : W32) : (regPut s o v).nextJob = s.nextJob := rfl
@[simp] theorem regPut_ops (s : State) (o : Nat) (v : W32) : (regPut s o v).ops = s.ops := rfl
@[simp] theorem regPut_runs (s : State) (o : Nat) (v : W32) : (regPut s o v).runs = s.runs := rfl
@[simp] theorem regPut_fltc (s : State) (o : Nat) (v : W32) : (regPut s o v).fltc = s.fltc := rfl
@[simp] theorem regPut_fltcMiss (s : State) (o : Nat) (v : W32) : (regPut s o v).fltcMiss = s.fltcMiss := rfl
@[simp] theorem regPut_cdc (s : State) (o : Nat) (v : W32) : (regPut s o v).cdc = s.cdc := rfl
@[simp] theorem regPut_cip (s : State) (o : Nat) (v : W32) : (regPut s o v).cip = s.cip := rfl
@[simp] theorem regPut_vault (s : State) (o : Nat) (v : W32) : (regPut s o v).vault = s.vault := rfl
@[simp] theorem regPut_co (s : State) (o : Nat) (v : W32) : (regPut s o v).co = s.co := rfl
@[simp] theorem regPut_sec (s : State) (o : Nat) (v : W32) : (regPut s o v).sec = s.sec := rfl
@[simp] theorem regPut_fw (s : State) (o : Nat) (v : W32) : (regPut s o v).fw = s.fw := rfl
@[simp] theorem regPut_chans (s : State) (o : Nat) (v : W32) : (regPut s o v).chans = s.chans := rfl
@[simp] theorem regPut_luns (s : State) (o : Nat) (v : W32) : (regPut s o v).luns = s.luns := rfl
@[simp] theorem regPut_suspCount (s : State) (o : Nat) (v : W32) : (regPut s o v).suspCount = s.suspCount := rfl
@[simp] theorem regPut_suspExh (s : State) (o : Nat) (v : W32) : (regPut s o v).suspExh = s.suspExh := rfl
@[simp] theorem regPut_locks (s : State) (o : Nat) (v : W32) : (regPut s o v).locks = s.locks := rfl
@[simp] theorem regPut_dram (s : State) (o : Nat) (v : W32) : (regPut s o v).dram = s.dram := rfl
@[simp] theorem regPut_sram (s : State) (o : Nat) (v : W32) : (regPut s o v).sram = s.sram := rfl
@[simp] theorem regPut_pwr (s : State) (o : Nat) (v : W32) : (regPut s o v).pwr = s.pwr := rfl
@[simp] theorem regPut_hk (s : State) (o : Nat) (v : W32) : (regPut s o v).hk = s.hk := rfl
@[simp] theorem regPut_hold (s : State) (o : Nat) (v : W32) : (regPut s o v).hold = s.hold := rfl
@[simp] theorem regPut_therm (s : State) (o : Nat) (v : W32) : (regPut s o v).therm = s.therm := rfl
@[simp] theorem regPut_zer (s : State) (o : Nat) (v : W32) : (regPut s o v).zer = s.zer := rfl
@[simp] theorem regPut_rep (s : State) (o : Nat) (v : W32) : (regPut s o v).rep = s.rep := rfl
@[simp] theorem regPut_mig (s : State) (o : Nat) (v : W32) : (regPut s o v).mig = s.mig := rfl
@[simp] theorem regPut_flt (s : State) (o : Nat) (v : W32) : (regPut s o v).flt = s.flt := rfl
@[simp] theorem regPut_ctr (s : State) (o : Nat) (v : W32) : (regPut s o v).ctr = s.ctr := rfl
@[simp] theorem regPut_ctrStored (s : State) (o : Nat) (v : W32) : (regPut s o v).ctrStored = s.ctrStored := rfl
@[simp] theorem regPut_san (s : State) (o : Nat) (v : W32) : (regPut s o v).san = s.san := rfl
@[simp] theorem regPut_replayed (s : State) (o : Nat) (v : W32) : (regPut s o v).replayed = s.replayed := rfl
@[simp] theorem regPut_freeCtr (s : State) (o : Nat) (v : W32) : (regPut s o v).freeCtr = s.freeCtr := rfl
@[simp] theorem regPut_pending (s : State) (o : Nat) (v : W32) : (regPut s o v).pending = s.pending := rfl

/-! ### modConv -/

@[simp] theorem modConv_clk (ns lba : Nat) (g : Conv → Conv) (s : State) : (modConv ns lba g s).clk = s.clk := rfl
@[simp] theorem modConv_norCfg (ns lba : Nat) (g : Conv → Conv) (s : State) : (modConv ns lba g s).norCfg = s.norCfg := rfl
@[simp] theorem modConv_journal (ns lba : Nat) (g : Conv → Conv) (s : State) : (modConv ns lba g s).journal = s.journal := rfl
@[simp] theorem modConv_rebs (ns lba : Nat) (g : Conv → Conv) (s : State) : (modConv ns lba g s).rebs = s.rebs := rfl
@[simp] theorem modConv_md (ns lba : Nat) (g : Conv → Conv) (s : State) : (modConv ns lba g s).md = s.md := rfl
@[simp] theorem modConv_pin (ns lba : Nat) (g : Conv → Conv) (s : State) : (modConv ns lba g s).pin = s.pin := rfl
@[simp] theorem modConv_regs (ns lba : Nat) (g : Conv → Conv) (s : State) : (modConv ns lba g s).regs = s.regs := rfl
@[simp] theorem modConv_rsv (ns lba : Nat) (g : Conv → Conv) (s : State) : (modConv ns lba g s).rsv = s.rsv := rfl
@[simp] theorem modConv_nor (ns lba : Nat) (g : Conv → Conv) (s : State) : (modConv ns lba g s).nor = s.nor := rfl
@[simp] theorem modConv_pPend (ns lba : Nat) (g : Conv → Conv) (s : State) : (modConv ns lba g s).pPend = s.pPend := rfl
@[simp] theorem modConv_psaveFail (ns lba : Nat) (g : Conv → Conv) (s : State) : (modConv ns lba g s).psaveFail = s.psaveFail := rfl
@[simp] theorem modConv_aonQ (ns lba : Nat) (g : Conv → Conv) (s : State) : (modConv ns lba g s).aonQ = s.aonQ := rfl
@[simp] theorem modConv_aonHeld (ns lba : Nat) (g : Conv → Conv) (s : State) : (modConv ns lba g s).aonHeld = s.aonHeld := rfl
@[simp] theorem modConv_refuse (ns lba : Nat) (g : Conv → Conv) (s : State) : (modConv ns lba g s).refuse = s.refuse := rfl
@[simp] theorem modConv_wvTop (ns lba : Nat) (g : Conv → Conv) (s : State) : (modConv ns lba g s).wvTop = s.wvTop := rfl
@[simp] theorem modConv_wvVf (ns lba : Nat) (g : Conv → Conv) (s : State) : (modConv ns lba g s).wvVf = s.wvVf := rfl
@[simp] theorem modConv_gat (ns lba : Nat) (g : Conv → Conv) (s : State) : (modConv ns lba g s).gat = s.gat := rfl
@[simp] theorem modConv_pace (ns lba : Nat) (g : Conv → Conv) (s : State) : (modConv ns lba g s).pace = s.pace := rfl
@[simp] theorem modConv_mbx (ns lba : Nat) (g : Conv → Conv) (s : State) : (modConv ns lba g s).mbx = s.mbx := rfl
@[simp] theorem modConv_numVfs (ns lba : Nat) (g : Conv → Conv) (s : State) : (modConv ns lba g s).numVfs = s.numVfs := rfl
@[simp] theorem modConv_vfEnable (ns lba : Nat) (g : Conv → Conv) (s : State) : (modConv ns lba g s).vfEnable = s.vfEnable := rfl
@[simp] theorem modConv_tenants (ns lba : Nat) (g : Conv → Conv) (s : State) : (modConv ns lba g s).tenants = s.tenants := rfl
@[simp] theorem modConv_gens (ns lba : Nat) (g : Conv → Conv) (s : State) : (modConv ns lba g s).gens = s.gens := rfl
@[simp] theorem modConv_fns (ns lba : Nat) (g : Conv → Conv) (s : State) : (modConv ns lba g s).fns = s.fns := rfl
@[simp] theorem modConv_sqs (ns lba : Nat) (g : Conv → Conv) (s : State) : (modConv ns lba g s).sqs = s.sqs := rfl
@[simp] theorem modConv_cqs (ns lba : Nat) (g : Conv → Conv) (s : State) : (modConv ns lba g s).cqs = s.cqs := rfl
@[simp] theorem modConv_cmds (ns lba : Nat) (g : Conv → Conv) (s : State) : (modConv ns lba g s).cmds = s.cmds := rfl
@[simp] theorem modConv_nextOrd (ns lba : Nat) (g : Conv → Conv) (s : State) : (modConv ns lba g s).nextOrd = s.nextOrd := rfl
@[simp] theorem modConv_sent (ns lba : Nat) (g : Conv → Conv) (s : State) : (modConv ns lba g s).sent = s.sent := rfl
@[simp] theorem modConv_qos (ns lba : Nat) (g : Conv → Conv) (s : State) : (modConv ns lba g s).qos = s.qos := rfl
@[simp] theorem modConv_nss (ns lba : Nat) (g : Conv → Conv) (s : State) : (modConv ns lba g s).nss = s.nss := rfl
@[simp] theorem modConv_zones (ns lba : Nat) (g : Conv → Conv) (s : State) : (modConv ns lba g s).zones = s.zones := rfl
@[simp] theorem modConv_profiles (ns lba : Nat) (g : Conv → Conv) (s : State) : (modConv ns lba g s).profiles = s.profiles := rfl
@[simp] theorem modConv_cache (ns lba : Nat) (g : Conv → Conv) (s : State) : (modConv ns lba g s).cache = s.cache := rfl
@[simp] theorem modConv_jobs (ns lba : Nat) (g : Conv → Conv) (s : State) : (modConv ns lba g s).jobs = s.jobs := rfl
@[simp] theorem modConv_rjobs (ns lba : Nat) (g : Conv → Conv) (s : State) : (modConv ns lba g s).rjobs = s.rjobs := rfl
@[simp] theorem modConv_rels (ns lba : Nat) (g : Conv → Conv) (s : State) : (modConv ns lba g s).rels = s.rels := rfl
@[simp] theorem modConv_offs (ns lba : Nat) (g : Conv → Conv) (s : State) : (modConv ns lba g s).offs = s.offs := rfl
@[simp] theorem modConv_nextJob (ns lba : Nat) (g : Conv → Conv) (s : State) : (modConv ns lba g s).nextJob = s.nextJob := rfl
@[simp] theorem modConv_ops (ns lba : Nat) (g : Conv → Conv) (s : State) : (modConv ns lba g s).ops = s.ops := rfl
@[simp] theorem modConv_runs (ns lba : Nat) (g : Conv → Conv) (s : State) : (modConv ns lba g s).runs = s.runs := rfl
@[simp] theorem modConv_fltc (ns lba : Nat) (g : Conv → Conv) (s : State) : (modConv ns lba g s).fltc = s.fltc := rfl
@[simp] theorem modConv_fltcMiss (ns lba : Nat) (g : Conv → Conv) (s : State) : (modConv ns lba g s).fltcMiss = s.fltcMiss := rfl
@[simp] theorem modConv_cdc (ns lba : Nat) (g : Conv → Conv) (s : State) : (modConv ns lba g s).cdc = s.cdc := rfl
@[simp] theorem modConv_cip (ns lba : Nat) (g : Conv → Conv) (s : State) : (modConv ns lba g s).cip = s.cip := rfl
@[simp] theorem modConv_vault (ns lba : Nat) (g : Conv → Conv) (s : State) : (modConv ns lba g s).vault = s.vault := rfl
@[simp] theorem modConv_co (ns lba : Nat) (g : Conv → Conv) (s : State) : (modConv ns lba g s).co = s.co := rfl
@[simp] theorem modConv_sec (ns lba : Nat) (g : Conv → Conv) (s : State) : (modConv ns lba g s).sec = s.sec := rfl
@[simp] theorem modConv_fw (ns lba : Nat) (g : Conv → Conv) (s : State) : (modConv ns lba g s).fw = s.fw := rfl
@[simp] theorem modConv_chans (ns lba : Nat) (g : Conv → Conv) (s : State) : (modConv ns lba g s).chans = s.chans := rfl
@[simp] theorem modConv_luns (ns lba : Nat) (g : Conv → Conv) (s : State) : (modConv ns lba g s).luns = s.luns := rfl
@[simp] theorem modConv_suspCount (ns lba : Nat) (g : Conv → Conv) (s : State) : (modConv ns lba g s).suspCount = s.suspCount := rfl
@[simp] theorem modConv_suspExh (ns lba : Nat) (g : Conv → Conv) (s : State) : (modConv ns lba g s).suspExh = s.suspExh := rfl
@[simp] theorem modConv_locks (ns lba : Nat) (g : Conv → Conv) (s : State) : (modConv ns lba g s).locks = s.locks := rfl
@[simp] theorem modConv_dram (ns lba : Nat) (g : Conv → Conv) (s : State) : (modConv ns lba g s).dram = s.dram := rfl
@[simp] theorem modConv_sram (ns lba : Nat) (g : Conv → Conv) (s : State) : (modConv ns lba g s).sram = s.sram := rfl
@[simp] theorem modConv_pwr (ns lba : Nat) (g : Conv → Conv) (s : State) : (modConv ns lba g s).pwr = s.pwr := rfl
@[simp] theorem modConv_hk (ns lba : Nat) (g : Conv → Conv) (s : State) : (modConv ns lba g s).hk = s.hk := rfl
@[simp] theorem modConv_hold (ns lba : Nat) (g : Conv → Conv) (s : State) : (modConv ns lba g s).hold = s.hold := rfl
@[simp] theorem modConv_therm (ns lba : Nat) (g : Conv → Conv) (s : State) : (modConv ns lba g s).therm = s.therm := rfl
@[simp] theorem modConv_zer (ns lba : Nat) (g : Conv → Conv) (s : State) : (modConv ns lba g s).zer = s.zer := rfl
@[simp] theorem modConv_rep (ns lba : Nat) (g : Conv → Conv) (s : State) : (modConv ns lba g s).rep = s.rep := rfl
@[simp] theorem modConv_mig (ns lba : Nat) (g : Conv → Conv) (s : State) : (modConv ns lba g s).mig = s.mig := rfl
@[simp] theorem modConv_flt (ns lba : Nat) (g : Conv → Conv) (s : State) : (modConv ns lba g s).flt = s.flt := rfl
@[simp] theorem modConv_ctr (ns lba : Nat) (g : Conv → Conv) (s : State) : (modConv ns lba g s).ctr = s.ctr := rfl
@[simp] theorem modConv_ctrStored (ns lba : Nat) (g : Conv → Conv) (s : State) : (modConv ns lba g s).ctrStored = s.ctrStored := rfl
@[simp] theorem modConv_san (ns lba : Nat) (g : Conv → Conv) (s : State) : (modConv ns lba g s).san = s.san := rfl
@[simp] theorem modConv_replayed (ns lba : Nat) (g : Conv → Conv) (s : State) : (modConv ns lba g s).replayed = s.replayed := rfl
@[simp] theorem modConv_freeCtr (ns lba : Nat) (g : Conv → Conv) (s : State) : (modConv ns lba g s).freeCtr = s.freeCtr := rfl
@[simp] theorem modConv_pending (ns lba : Nat) (g : Conv → Conv) (s : State) : (modConv ns lba g s).pending = s.pending := rfl

/-! ### modCip -/

@[simp] theorem modCip_clk (k : Nat) (g : Cip → Cip) (s : State) : (modCip k g s).clk = s.clk := rfl
@[simp] theorem modCip_norCfg (k : Nat) (g : Cip → Cip) (s : State) : (modCip k g s).norCfg = s.norCfg := rfl
@[simp] theorem modCip_journal (k : Nat) (g : Cip → Cip) (s : State) : (modCip k g s).journal = s.journal := rfl
@[simp] theorem modCip_rebs (k : Nat) (g : Cip → Cip) (s : State) : (modCip k g s).rebs = s.rebs := rfl
@[simp] theorem modCip_md (k : Nat) (g : Cip → Cip) (s : State) : (modCip k g s).md = s.md := rfl
@[simp] theorem modCip_pin (k : Nat) (g : Cip → Cip) (s : State) : (modCip k g s).pin = s.pin := rfl
@[simp] theorem modCip_regs (k : Nat) (g : Cip → Cip) (s : State) : (modCip k g s).regs = s.regs := rfl
@[simp] theorem modCip_rsv (k : Nat) (g : Cip → Cip) (s : State) : (modCip k g s).rsv = s.rsv := rfl
@[simp] theorem modCip_nor (k : Nat) (g : Cip → Cip) (s : State) : (modCip k g s).nor = s.nor := rfl
@[simp] theorem modCip_pPend (k : Nat) (g : Cip → Cip) (s : State) : (modCip k g s).pPend = s.pPend := rfl
@[simp] theorem modCip_psaveFail (k : Nat) (g : Cip → Cip) (s : State) : (modCip k g s).psaveFail = s.psaveFail := rfl
@[simp] theorem modCip_aonQ (k : Nat) (g : Cip → Cip) (s : State) : (modCip k g s).aonQ = s.aonQ := rfl
@[simp] theorem modCip_aonHeld (k : Nat) (g : Cip → Cip) (s : State) : (modCip k g s).aonHeld = s.aonHeld := rfl
@[simp] theorem modCip_refuse (k : Nat) (g : Cip → Cip) (s : State) : (modCip k g s).refuse = s.refuse := rfl
@[simp] theorem modCip_wvTop (k : Nat) (g : Cip → Cip) (s : State) : (modCip k g s).wvTop = s.wvTop := rfl
@[simp] theorem modCip_wvVf (k : Nat) (g : Cip → Cip) (s : State) : (modCip k g s).wvVf = s.wvVf := rfl
@[simp] theorem modCip_gat (k : Nat) (g : Cip → Cip) (s : State) : (modCip k g s).gat = s.gat := rfl
@[simp] theorem modCip_pace (k : Nat) (g : Cip → Cip) (s : State) : (modCip k g s).pace = s.pace := rfl
@[simp] theorem modCip_mbx (k : Nat) (g : Cip → Cip) (s : State) : (modCip k g s).mbx = s.mbx := rfl
@[simp] theorem modCip_numVfs (k : Nat) (g : Cip → Cip) (s : State) : (modCip k g s).numVfs = s.numVfs := rfl
@[simp] theorem modCip_vfEnable (k : Nat) (g : Cip → Cip) (s : State) : (modCip k g s).vfEnable = s.vfEnable := rfl
@[simp] theorem modCip_tenants (k : Nat) (g : Cip → Cip) (s : State) : (modCip k g s).tenants = s.tenants := rfl
@[simp] theorem modCip_gens (k : Nat) (g : Cip → Cip) (s : State) : (modCip k g s).gens = s.gens := rfl
@[simp] theorem modCip_fns (k : Nat) (g : Cip → Cip) (s : State) : (modCip k g s).fns = s.fns := rfl
@[simp] theorem modCip_sqs (k : Nat) (g : Cip → Cip) (s : State) : (modCip k g s).sqs = s.sqs := rfl
@[simp] theorem modCip_cqs (k : Nat) (g : Cip → Cip) (s : State) : (modCip k g s).cqs = s.cqs := rfl
@[simp] theorem modCip_cmds (k : Nat) (g : Cip → Cip) (s : State) : (modCip k g s).cmds = s.cmds := rfl
@[simp] theorem modCip_nextOrd (k : Nat) (g : Cip → Cip) (s : State) : (modCip k g s).nextOrd = s.nextOrd := rfl
@[simp] theorem modCip_sent (k : Nat) (g : Cip → Cip) (s : State) : (modCip k g s).sent = s.sent := rfl
@[simp] theorem modCip_qos (k : Nat) (g : Cip → Cip) (s : State) : (modCip k g s).qos = s.qos := rfl
@[simp] theorem modCip_nss (k : Nat) (g : Cip → Cip) (s : State) : (modCip k g s).nss = s.nss := rfl
@[simp] theorem modCip_zones (k : Nat) (g : Cip → Cip) (s : State) : (modCip k g s).zones = s.zones := rfl
@[simp] theorem modCip_profiles (k : Nat) (g : Cip → Cip) (s : State) : (modCip k g s).profiles = s.profiles := rfl
@[simp] theorem modCip_conv (k : Nat) (g : Cip → Cip) (s : State) : (modCip k g s).conv = s.conv := rfl
@[simp] theorem modCip_cache (k : Nat) (g : Cip → Cip) (s : State) : (modCip k g s).cache = s.cache := rfl
@[simp] theorem modCip_jobs (k : Nat) (g : Cip → Cip) (s : State) : (modCip k g s).jobs = s.jobs := rfl
@[simp] theorem modCip_rjobs (k : Nat) (g : Cip → Cip) (s : State) : (modCip k g s).rjobs = s.rjobs := rfl
@[simp] theorem modCip_rels (k : Nat) (g : Cip → Cip) (s : State) : (modCip k g s).rels = s.rels := rfl
@[simp] theorem modCip_offs (k : Nat) (g : Cip → Cip) (s : State) : (modCip k g s).offs = s.offs := rfl
@[simp] theorem modCip_nextJob (k : Nat) (g : Cip → Cip) (s : State) : (modCip k g s).nextJob = s.nextJob := rfl
@[simp] theorem modCip_ops (k : Nat) (g : Cip → Cip) (s : State) : (modCip k g s).ops = s.ops := rfl
@[simp] theorem modCip_runs (k : Nat) (g : Cip → Cip) (s : State) : (modCip k g s).runs = s.runs := rfl
@[simp] theorem modCip_fltc (k : Nat) (g : Cip → Cip) (s : State) : (modCip k g s).fltc = s.fltc := rfl
@[simp] theorem modCip_fltcMiss (k : Nat) (g : Cip → Cip) (s : State) : (modCip k g s).fltcMiss = s.fltcMiss := rfl
@[simp] theorem modCip_cdc (k : Nat) (g : Cip → Cip) (s : State) : (modCip k g s).cdc = s.cdc := rfl
@[simp] theorem modCip_vault (k : Nat) (g : Cip → Cip) (s : State) : (modCip k g s).vault = s.vault := rfl
@[simp] theorem modCip_co (k : Nat) (g : Cip → Cip) (s : State) : (modCip k g s).co = s.co := rfl
@[simp] theorem modCip_sec (k : Nat) (g : Cip → Cip) (s : State) : (modCip k g s).sec = s.sec := rfl
@[simp] theorem modCip_fw (k : Nat) (g : Cip → Cip) (s : State) : (modCip k g s).fw = s.fw := rfl
@[simp] theorem modCip_chans (k : Nat) (g : Cip → Cip) (s : State) : (modCip k g s).chans = s.chans := rfl
@[simp] theorem modCip_luns (k : Nat) (g : Cip → Cip) (s : State) : (modCip k g s).luns = s.luns := rfl
@[simp] theorem modCip_suspCount (k : Nat) (g : Cip → Cip) (s : State) : (modCip k g s).suspCount = s.suspCount := rfl
@[simp] theorem modCip_suspExh (k : Nat) (g : Cip → Cip) (s : State) : (modCip k g s).suspExh = s.suspExh := rfl
@[simp] theorem modCip_locks (k : Nat) (g : Cip → Cip) (s : State) : (modCip k g s).locks = s.locks := rfl
@[simp] theorem modCip_dram (k : Nat) (g : Cip → Cip) (s : State) : (modCip k g s).dram = s.dram := rfl
@[simp] theorem modCip_sram (k : Nat) (g : Cip → Cip) (s : State) : (modCip k g s).sram = s.sram := rfl
@[simp] theorem modCip_pwr (k : Nat) (g : Cip → Cip) (s : State) : (modCip k g s).pwr = s.pwr := rfl
@[simp] theorem modCip_hk (k : Nat) (g : Cip → Cip) (s : State) : (modCip k g s).hk = s.hk := rfl
@[simp] theorem modCip_hold (k : Nat) (g : Cip → Cip) (s : State) : (modCip k g s).hold = s.hold := rfl
@[simp] theorem modCip_therm (k : Nat) (g : Cip → Cip) (s : State) : (modCip k g s).therm = s.therm := rfl
@[simp] theorem modCip_zer (k : Nat) (g : Cip → Cip) (s : State) : (modCip k g s).zer = s.zer := rfl
@[simp] theorem modCip_rep (k : Nat) (g : Cip → Cip) (s : State) : (modCip k g s).rep = s.rep := rfl
@[simp] theorem modCip_mig (k : Nat) (g : Cip → Cip) (s : State) : (modCip k g s).mig = s.mig := rfl
@[simp] theorem modCip_flt (k : Nat) (g : Cip → Cip) (s : State) : (modCip k g s).flt = s.flt := rfl
@[simp] theorem modCip_ctr (k : Nat) (g : Cip → Cip) (s : State) : (modCip k g s).ctr = s.ctr := rfl
@[simp] theorem modCip_ctrStored (k : Nat) (g : Cip → Cip) (s : State) : (modCip k g s).ctrStored = s.ctrStored := rfl
@[simp] theorem modCip_san (k : Nat) (g : Cip → Cip) (s : State) : (modCip k g s).san = s.san := rfl
@[simp] theorem modCip_replayed (k : Nat) (g : Cip → Cip) (s : State) : (modCip k g s).replayed = s.replayed := rfl
@[simp] theorem modCip_freeCtr (k : Nat) (g : Cip → Cip) (s : State) : (modCip k g s).freeCtr = s.freeCtr := rfl
@[simp] theorem modCip_pending (k : Nat) (g : Cip → Cip) (s : State) : (modCip k g s).pending = s.pending := rfl

/-! ### modCdc -/

@[simp] theorem modCdc_clk (k : Nat) (g : Cdc → Cdc) (s : State) : (modCdc k g s).clk = s.clk := rfl
@[simp] theorem modCdc_norCfg (k : Nat) (g : Cdc → Cdc) (s : State) : (modCdc k g s).norCfg = s.norCfg := rfl
@[simp] theorem modCdc_journal (k : Nat) (g : Cdc → Cdc) (s : State) : (modCdc k g s).journal = s.journal := rfl
@[simp] theorem modCdc_rebs (k : Nat) (g : Cdc → Cdc) (s : State) : (modCdc k g s).rebs = s.rebs := rfl
@[simp] theorem modCdc_md (k : Nat) (g : Cdc → Cdc) (s : State) : (modCdc k g s).md = s.md := rfl
@[simp] theorem modCdc_pin (k : Nat) (g : Cdc → Cdc) (s : State) : (modCdc k g s).pin = s.pin := rfl
@[simp] theorem modCdc_regs (k : Nat) (g : Cdc → Cdc) (s : State) : (modCdc k g s).regs = s.regs := rfl
@[simp] theorem modCdc_rsv (k : Nat) (g : Cdc → Cdc) (s : State) : (modCdc k g s).rsv = s.rsv := rfl
@[simp] theorem modCdc_nor (k : Nat) (g : Cdc → Cdc) (s : State) : (modCdc k g s).nor = s.nor := rfl
@[simp] theorem modCdc_pPend (k : Nat) (g : Cdc → Cdc) (s : State) : (modCdc k g s).pPend = s.pPend := rfl
@[simp] theorem modCdc_psaveFail (k : Nat) (g : Cdc → Cdc) (s : State) : (modCdc k g s).psaveFail = s.psaveFail := rfl
@[simp] theorem modCdc_aonQ (k : Nat) (g : Cdc → Cdc) (s : State) : (modCdc k g s).aonQ = s.aonQ := rfl
@[simp] theorem modCdc_aonHeld (k : Nat) (g : Cdc → Cdc) (s : State) : (modCdc k g s).aonHeld = s.aonHeld := rfl
@[simp] theorem modCdc_refuse (k : Nat) (g : Cdc → Cdc) (s : State) : (modCdc k g s).refuse = s.refuse := rfl
@[simp] theorem modCdc_wvTop (k : Nat) (g : Cdc → Cdc) (s : State) : (modCdc k g s).wvTop = s.wvTop := rfl
@[simp] theorem modCdc_wvVf (k : Nat) (g : Cdc → Cdc) (s : State) : (modCdc k g s).wvVf = s.wvVf := rfl
@[simp] theorem modCdc_gat (k : Nat) (g : Cdc → Cdc) (s : State) : (modCdc k g s).gat = s.gat := rfl
@[simp] theorem modCdc_pace (k : Nat) (g : Cdc → Cdc) (s : State) : (modCdc k g s).pace = s.pace := rfl
@[simp] theorem modCdc_mbx (k : Nat) (g : Cdc → Cdc) (s : State) : (modCdc k g s).mbx = s.mbx := rfl
@[simp] theorem modCdc_numVfs (k : Nat) (g : Cdc → Cdc) (s : State) : (modCdc k g s).numVfs = s.numVfs := rfl
@[simp] theorem modCdc_vfEnable (k : Nat) (g : Cdc → Cdc) (s : State) : (modCdc k g s).vfEnable = s.vfEnable := rfl
@[simp] theorem modCdc_tenants (k : Nat) (g : Cdc → Cdc) (s : State) : (modCdc k g s).tenants = s.tenants := rfl
@[simp] theorem modCdc_gens (k : Nat) (g : Cdc → Cdc) (s : State) : (modCdc k g s).gens = s.gens := rfl
@[simp] theorem modCdc_fns (k : Nat) (g : Cdc → Cdc) (s : State) : (modCdc k g s).fns = s.fns := rfl
@[simp] theorem modCdc_sqs (k : Nat) (g : Cdc → Cdc) (s : State) : (modCdc k g s).sqs = s.sqs := rfl
@[simp] theorem modCdc_cqs (k : Nat) (g : Cdc → Cdc) (s : State) : (modCdc k g s).cqs = s.cqs := rfl
@[simp] theorem modCdc_cmds (k : Nat) (g : Cdc → Cdc) (s : State) : (modCdc k g s).cmds = s.cmds := rfl
@[simp] theorem modCdc_nextOrd (k : Nat) (g : Cdc → Cdc) (s : State) : (modCdc k g s).nextOrd = s.nextOrd := rfl
@[simp] theorem modCdc_sent (k : Nat) (g : Cdc → Cdc) (s : State) : (modCdc k g s).sent = s.sent := rfl
@[simp] theorem modCdc_qos (k : Nat) (g : Cdc → Cdc) (s : State) : (modCdc k g s).qos = s.qos := rfl
@[simp] theorem modCdc_nss (k : Nat) (g : Cdc → Cdc) (s : State) : (modCdc k g s).nss = s.nss := rfl
@[simp] theorem modCdc_zones (k : Nat) (g : Cdc → Cdc) (s : State) : (modCdc k g s).zones = s.zones := rfl
@[simp] theorem modCdc_profiles (k : Nat) (g : Cdc → Cdc) (s : State) : (modCdc k g s).profiles = s.profiles := rfl
@[simp] theorem modCdc_conv (k : Nat) (g : Cdc → Cdc) (s : State) : (modCdc k g s).conv = s.conv := rfl
@[simp] theorem modCdc_cache (k : Nat) (g : Cdc → Cdc) (s : State) : (modCdc k g s).cache = s.cache := rfl
@[simp] theorem modCdc_jobs (k : Nat) (g : Cdc → Cdc) (s : State) : (modCdc k g s).jobs = s.jobs := rfl
@[simp] theorem modCdc_rjobs (k : Nat) (g : Cdc → Cdc) (s : State) : (modCdc k g s).rjobs = s.rjobs := rfl
@[simp] theorem modCdc_rels (k : Nat) (g : Cdc → Cdc) (s : State) : (modCdc k g s).rels = s.rels := rfl
@[simp] theorem modCdc_offs (k : Nat) (g : Cdc → Cdc) (s : State) : (modCdc k g s).offs = s.offs := rfl
@[simp] theorem modCdc_nextJob (k : Nat) (g : Cdc → Cdc) (s : State) : (modCdc k g s).nextJob = s.nextJob := rfl
@[simp] theorem modCdc_ops (k : Nat) (g : Cdc → Cdc) (s : State) : (modCdc k g s).ops = s.ops := rfl
@[simp] theorem modCdc_runs (k : Nat) (g : Cdc → Cdc) (s : State) : (modCdc k g s).runs = s.runs := rfl
@[simp] theorem modCdc_fltc (k : Nat) (g : Cdc → Cdc) (s : State) : (modCdc k g s).fltc = s.fltc := rfl
@[simp] theorem modCdc_fltcMiss (k : Nat) (g : Cdc → Cdc) (s : State) : (modCdc k g s).fltcMiss = s.fltcMiss := rfl
@[simp] theorem modCdc_cip (k : Nat) (g : Cdc → Cdc) (s : State) : (modCdc k g s).cip = s.cip := rfl
@[simp] theorem modCdc_vault (k : Nat) (g : Cdc → Cdc) (s : State) : (modCdc k g s).vault = s.vault := rfl
@[simp] theorem modCdc_co (k : Nat) (g : Cdc → Cdc) (s : State) : (modCdc k g s).co = s.co := rfl
@[simp] theorem modCdc_sec (k : Nat) (g : Cdc → Cdc) (s : State) : (modCdc k g s).sec = s.sec := rfl
@[simp] theorem modCdc_fw (k : Nat) (g : Cdc → Cdc) (s : State) : (modCdc k g s).fw = s.fw := rfl
@[simp] theorem modCdc_chans (k : Nat) (g : Cdc → Cdc) (s : State) : (modCdc k g s).chans = s.chans := rfl
@[simp] theorem modCdc_luns (k : Nat) (g : Cdc → Cdc) (s : State) : (modCdc k g s).luns = s.luns := rfl
@[simp] theorem modCdc_suspCount (k : Nat) (g : Cdc → Cdc) (s : State) : (modCdc k g s).suspCount = s.suspCount := rfl
@[simp] theorem modCdc_suspExh (k : Nat) (g : Cdc → Cdc) (s : State) : (modCdc k g s).suspExh = s.suspExh := rfl
@[simp] theorem modCdc_locks (k : Nat) (g : Cdc → Cdc) (s : State) : (modCdc k g s).locks = s.locks := rfl
@[simp] theorem modCdc_dram (k : Nat) (g : Cdc → Cdc) (s : State) : (modCdc k g s).dram = s.dram := rfl
@[simp] theorem modCdc_sram (k : Nat) (g : Cdc → Cdc) (s : State) : (modCdc k g s).sram = s.sram := rfl
@[simp] theorem modCdc_pwr (k : Nat) (g : Cdc → Cdc) (s : State) : (modCdc k g s).pwr = s.pwr := rfl
@[simp] theorem modCdc_hk (k : Nat) (g : Cdc → Cdc) (s : State) : (modCdc k g s).hk = s.hk := rfl
@[simp] theorem modCdc_hold (k : Nat) (g : Cdc → Cdc) (s : State) : (modCdc k g s).hold = s.hold := rfl
@[simp] theorem modCdc_therm (k : Nat) (g : Cdc → Cdc) (s : State) : (modCdc k g s).therm = s.therm := rfl
@[simp] theorem modCdc_zer (k : Nat) (g : Cdc → Cdc) (s : State) : (modCdc k g s).zer = s.zer := rfl
@[simp] theorem modCdc_rep (k : Nat) (g : Cdc → Cdc) (s : State) : (modCdc k g s).rep = s.rep := rfl
@[simp] theorem modCdc_mig (k : Nat) (g : Cdc → Cdc) (s : State) : (modCdc k g s).mig = s.mig := rfl
@[simp] theorem modCdc_flt (k : Nat) (g : Cdc → Cdc) (s : State) : (modCdc k g s).flt = s.flt := rfl
@[simp] theorem modCdc_ctr (k : Nat) (g : Cdc → Cdc) (s : State) : (modCdc k g s).ctr = s.ctr := rfl
@[simp] theorem modCdc_ctrStored (k : Nat) (g : Cdc → Cdc) (s : State) : (modCdc k g s).ctrStored = s.ctrStored := rfl
@[simp] theorem modCdc_san (k : Nat) (g : Cdc → Cdc) (s : State) : (modCdc k g s).san = s.san := rfl
@[simp] theorem modCdc_replayed (k : Nat) (g : Cdc → Cdc) (s : State) : (modCdc k g s).replayed = s.replayed := rfl
@[simp] theorem modCdc_freeCtr (k : Nat) (g : Cdc → Cdc) (s : State) : (modCdc k g s).freeCtr = s.freeCtr := rfl
@[simp] theorem modCdc_pending (k : Nat) (g : Cdc → Cdc) (s : State) : (modCdc k g s).pending = s.pending := rfl

/-! ### modSq -/

@[simp] theorem modSq_clk (f q : Nat) (g : Sq → Sq) (s : State) : (modSq f q g s).clk = s.clk := rfl
@[simp] theorem modSq_norCfg (f q : Nat) (g : Sq → Sq) (s : State) : (modSq f q g s).norCfg = s.norCfg := rfl
@[simp] theorem modSq_journal (f q : Nat) (g : Sq → Sq) (s : State) : (modSq f q g s).journal = s.journal := rfl
@[simp] theorem modSq_rebs (f q : Nat) (g : Sq → Sq) (s : State) : (modSq f q g s).rebs = s.rebs := rfl
@[simp] theorem modSq_md (f q : Nat) (g : Sq → Sq) (s : State) : (modSq f q g s).md = s.md := rfl
@[simp] theorem modSq_pin (f q : Nat) (g : Sq → Sq) (s : State) : (modSq f q g s).pin = s.pin := rfl
@[simp] theorem modSq_regs (f q : Nat) (g : Sq → Sq) (s : State) : (modSq f q g s).regs = s.regs := rfl
@[simp] theorem modSq_rsv (f q : Nat) (g : Sq → Sq) (s : State) : (modSq f q g s).rsv = s.rsv := rfl
@[simp] theorem modSq_nor (f q : Nat) (g : Sq → Sq) (s : State) : (modSq f q g s).nor = s.nor := rfl
@[simp] theorem modSq_pPend (f q : Nat) (g : Sq → Sq) (s : State) : (modSq f q g s).pPend = s.pPend := rfl
@[simp] theorem modSq_psaveFail (f q : Nat) (g : Sq → Sq) (s : State) : (modSq f q g s).psaveFail = s.psaveFail := rfl
@[simp] theorem modSq_aonQ (f q : Nat) (g : Sq → Sq) (s : State) : (modSq f q g s).aonQ = s.aonQ := rfl
@[simp] theorem modSq_aonHeld (f q : Nat) (g : Sq → Sq) (s : State) : (modSq f q g s).aonHeld = s.aonHeld := rfl
@[simp] theorem modSq_refuse (f q : Nat) (g : Sq → Sq) (s : State) : (modSq f q g s).refuse = s.refuse := rfl
@[simp] theorem modSq_wvTop (f q : Nat) (g : Sq → Sq) (s : State) : (modSq f q g s).wvTop = s.wvTop := rfl
@[simp] theorem modSq_wvVf (f q : Nat) (g : Sq → Sq) (s : State) : (modSq f q g s).wvVf = s.wvVf := rfl
@[simp] theorem modSq_gat (f q : Nat) (g : Sq → Sq) (s : State) : (modSq f q g s).gat = s.gat := rfl
@[simp] theorem modSq_pace (f q : Nat) (g : Sq → Sq) (s : State) : (modSq f q g s).pace = s.pace := rfl
@[simp] theorem modSq_mbx (f q : Nat) (g : Sq → Sq) (s : State) : (modSq f q g s).mbx = s.mbx := rfl
@[simp] theorem modSq_numVfs (f q : Nat) (g : Sq → Sq) (s : State) : (modSq f q g s).numVfs = s.numVfs := rfl
@[simp] theorem modSq_vfEnable (f q : Nat) (g : Sq → Sq) (s : State) : (modSq f q g s).vfEnable = s.vfEnable := rfl
@[simp] theorem modSq_tenants (f q : Nat) (g : Sq → Sq) (s : State) : (modSq f q g s).tenants = s.tenants := rfl
@[simp] theorem modSq_gens (f q : Nat) (g : Sq → Sq) (s : State) : (modSq f q g s).gens = s.gens := rfl
@[simp] theorem modSq_fns (f q : Nat) (g : Sq → Sq) (s : State) : (modSq f q g s).fns = s.fns := rfl
@[simp] theorem modSq_cqs (f q : Nat) (g : Sq → Sq) (s : State) : (modSq f q g s).cqs = s.cqs := rfl
@[simp] theorem modSq_cmds (f q : Nat) (g : Sq → Sq) (s : State) : (modSq f q g s).cmds = s.cmds := rfl
@[simp] theorem modSq_nextOrd (f q : Nat) (g : Sq → Sq) (s : State) : (modSq f q g s).nextOrd = s.nextOrd := rfl
@[simp] theorem modSq_sent (f q : Nat) (g : Sq → Sq) (s : State) : (modSq f q g s).sent = s.sent := rfl
@[simp] theorem modSq_qos (f q : Nat) (g : Sq → Sq) (s : State) : (modSq f q g s).qos = s.qos := rfl
@[simp] theorem modSq_nss (f q : Nat) (g : Sq → Sq) (s : State) : (modSq f q g s).nss = s.nss := rfl
@[simp] theorem modSq_zones (f q : Nat) (g : Sq → Sq) (s : State) : (modSq f q g s).zones = s.zones := rfl
@[simp] theorem modSq_profiles (f q : Nat) (g : Sq → Sq) (s : State) : (modSq f q g s).profiles = s.profiles := rfl
@[simp] theorem modSq_conv (f q : Nat) (g : Sq → Sq) (s : State) : (modSq f q g s).conv = s.conv := rfl
@[simp] theorem modSq_cache (f q : Nat) (g : Sq → Sq) (s : State) : (modSq f q g s).cache = s.cache := rfl
@[simp] theorem modSq_jobs (f q : Nat) (g : Sq → Sq) (s : State) : (modSq f q g s).jobs = s.jobs := rfl
@[simp] theorem modSq_rjobs (f q : Nat) (g : Sq → Sq) (s : State) : (modSq f q g s).rjobs = s.rjobs := rfl
@[simp] theorem modSq_rels (f q : Nat) (g : Sq → Sq) (s : State) : (modSq f q g s).rels = s.rels := rfl
@[simp] theorem modSq_offs (f q : Nat) (g : Sq → Sq) (s : State) : (modSq f q g s).offs = s.offs := rfl
@[simp] theorem modSq_nextJob (f q : Nat) (g : Sq → Sq) (s : State) : (modSq f q g s).nextJob = s.nextJob := rfl
@[simp] theorem modSq_ops (f q : Nat) (g : Sq → Sq) (s : State) : (modSq f q g s).ops = s.ops := rfl
@[simp] theorem modSq_runs (f q : Nat) (g : Sq → Sq) (s : State) : (modSq f q g s).runs = s.runs := rfl
@[simp] theorem modSq_fltc (f q : Nat) (g : Sq → Sq) (s : State) : (modSq f q g s).fltc = s.fltc := rfl
@[simp] theorem modSq_fltcMiss (f q : Nat) (g : Sq → Sq) (s : State) : (modSq f q g s).fltcMiss = s.fltcMiss := rfl
@[simp] theorem modSq_cdc (f q : Nat) (g : Sq → Sq) (s : State) : (modSq f q g s).cdc = s.cdc := rfl
@[simp] theorem modSq_cip (f q : Nat) (g : Sq → Sq) (s : State) : (modSq f q g s).cip = s.cip := rfl
@[simp] theorem modSq_vault (f q : Nat) (g : Sq → Sq) (s : State) : (modSq f q g s).vault = s.vault := rfl
@[simp] theorem modSq_co (f q : Nat) (g : Sq → Sq) (s : State) : (modSq f q g s).co = s.co := rfl
@[simp] theorem modSq_sec (f q : Nat) (g : Sq → Sq) (s : State) : (modSq f q g s).sec = s.sec := rfl
@[simp] theorem modSq_fw (f q : Nat) (g : Sq → Sq) (s : State) : (modSq f q g s).fw = s.fw := rfl
@[simp] theorem modSq_chans (f q : Nat) (g : Sq → Sq) (s : State) : (modSq f q g s).chans = s.chans := rfl
@[simp] theorem modSq_luns (f q : Nat) (g : Sq → Sq) (s : State) : (modSq f q g s).luns = s.luns := rfl
@[simp] theorem modSq_suspCount (f q : Nat) (g : Sq → Sq) (s : State) : (modSq f q g s).suspCount = s.suspCount := rfl
@[simp] theorem modSq_suspExh (f q : Nat) (g : Sq → Sq) (s : State) : (modSq f q g s).suspExh = s.suspExh := rfl
@[simp] theorem modSq_locks (f q : Nat) (g : Sq → Sq) (s : State) : (modSq f q g s).locks = s.locks := rfl
@[simp] theorem modSq_dram (f q : Nat) (g : Sq → Sq) (s : State) : (modSq f q g s).dram = s.dram := rfl
@[simp] theorem modSq_sram (f q : Nat) (g : Sq → Sq) (s : State) : (modSq f q g s).sram = s.sram := rfl
@[simp] theorem modSq_pwr (f q : Nat) (g : Sq → Sq) (s : State) : (modSq f q g s).pwr = s.pwr := rfl
@[simp] theorem modSq_hk (f q : Nat) (g : Sq → Sq) (s : State) : (modSq f q g s).hk = s.hk := rfl
@[simp] theorem modSq_hold (f q : Nat) (g : Sq → Sq) (s : State) : (modSq f q g s).hold = s.hold := rfl
@[simp] theorem modSq_therm (f q : Nat) (g : Sq → Sq) (s : State) : (modSq f q g s).therm = s.therm := rfl
@[simp] theorem modSq_zer (f q : Nat) (g : Sq → Sq) (s : State) : (modSq f q g s).zer = s.zer := rfl
@[simp] theorem modSq_rep (f q : Nat) (g : Sq → Sq) (s : State) : (modSq f q g s).rep = s.rep := rfl
@[simp] theorem modSq_mig (f q : Nat) (g : Sq → Sq) (s : State) : (modSq f q g s).mig = s.mig := rfl
@[simp] theorem modSq_flt (f q : Nat) (g : Sq → Sq) (s : State) : (modSq f q g s).flt = s.flt := rfl
@[simp] theorem modSq_ctr (f q : Nat) (g : Sq → Sq) (s : State) : (modSq f q g s).ctr = s.ctr := rfl
@[simp] theorem modSq_ctrStored (f q : Nat) (g : Sq → Sq) (s : State) : (modSq f q g s).ctrStored = s.ctrStored := rfl
@[simp] theorem modSq_san (f q : Nat) (g : Sq → Sq) (s : State) : (modSq f q g s).san = s.san := rfl
@[simp] theorem modSq_replayed (f q : Nat) (g : Sq → Sq) (s : State) : (modSq f q g s).replayed = s.replayed := rfl
@[simp] theorem modSq_freeCtr (f q : Nat) (g : Sq → Sq) (s : State) : (modSq f q g s).freeCtr = s.freeCtr := rfl
@[simp] theorem modSq_pending (f q : Nat) (g : Sq → Sq) (s : State) : (modSq f q g s).pending = s.pending := rfl

/-! ### What the updates write -/

@[simp] theorem emit_sent (x : Xfer) (s : State) : (emit x s).sent = x :: s.sent := rfl
@[simp] theorem regPut_regs (s : State) (o : Nat) (v : W32) : (regPut s o v).regs = tset 0 s.regs o (v ^^^ regDefault o) := rfl

/-- A function's record after its change. -/
theorem fnOf_modFn_same (s : State) (f : Nat) (g : Fn → Fn) : fnOf (modFn f g s) f = g (fnOf s f) :=
  tget_tset_same _ f _
/-- Another function's record is untouched. -/
theorem fnOf_modFn_ne (s : State) {f k : Nat} (g : Fn → Fn) (h : f ≠ k) : fnOf (modFn f g s) k = fnOf s k := tget_tset_ne _ _ h
/-- A tenant's record after its change. -/
theorem tnOf_modTn_same (s : State) (t : Nat) (g : Tenant → Tenant) :
    tnOf (modTn t g s) t = g (tnOf s t) := tget_tset_same _ t _
/-- Another tenant's record is untouched. -/
theorem tnOf_modTn_ne (s : State) {t k : Nat} (g : Tenant → Tenant) (h : t ≠ k) : tnOf (modTn t g s) k = tnOf s k :=
  tget_tset_ne _ _ h
/-- A namespace just stored. -/
theorem nsOf_setNs_same (s : State) (n : Nat) (x : Option Ns) : nsOf (setNs n x s) n = x :=
  tget_tset_same _ n _
/-- Another namespace is untouched. -/
theorem nsOf_setNs_ne (s : State) {n k : Nat} (x : Option Ns) (h : n ≠ k) : nsOf (setNs n x s) k = nsOf s k := tget_tset_ne _ _ h

/-! ### The register file -/

/-- A register reads what was just stored. -/
theorem regGet_regPut_same (s : State) (o : Nat) (v : W32) : regGet (regPut s o v) o = v := by
  unfold regGet
  rw [regPut_regs, tget_tset_same, BitVec.xor_assoc, BitVec.xor_self, BitVec.xor_zero]
/-- Another register is untouched. -/
theorem regGet_regPut_ne (s : State) {o k : Nat} (v : W32) (h : o ≠ k) : regGet (regPut s o v) k = regGet s k := by
  unfold regGet
  rw [regPut_regs, tget_tset_ne _ _ h]
/-- Storing a register keeps the register table canonical. -/
theorem twf_regPut {s : State} (h : twf 0 s.regs = true) (o : Nat) (v : W32) : twf 0 (regPut s o v).regs = true :=
  twf_tset h _ _

/-! ### Tables built in one pass -/

variable {α : Type} {d : α} [DecidableEq α]

/-- The entries of a table built in one pass over the keys from `m` on. -/
theorem tgen_aux (g : Nat → α) (n m : Nat) :
    let t := ((List.range' m n).map fun i => (i, g i)).filter fun p => decide (p.2 ≠ d)
    twf d t = true ∧ (∀ e ∈ t, m ≤ e.1) ∧ ∀ i, tget d t i = if m ≤ i ∧ i < m + n then g i else d := by
  induction n generalizing m with
  | zero => exact ⟨rfl, fun e he => (List.not_mem_nil he).elim, fun i => by rw [if_neg (by omega)]; rfl⟩
  | succ n ih =>
    obtain ⟨h1, h2, h3⟩ := ih (m + 1)
    simp only [List.range'_succ, List.map_cons, List.filter_cons]
    split
    · next hg =>
      refine ⟨twf_mk (by simpa using hg) (fun e he => h2 e he) h1, ?_, ?_⟩
      · intro e he
        rcases List.mem_cons.1 he with rfl | he
        · exact Nat.le_refl _
        · have := h2 e he; omega
      · intro i
        rw [tget_cons]
        by_cases hi : m = i
        · subst hi; simp
        · rw [if_neg hi, h3]
          by_cases hr : m + 1 ≤ i ∧ i < m + 1 + n
          · rw [if_pos hr, if_pos (by omega)]
          · rw [if_neg hr, if_neg (by omega)]
    · next hg =>
      refine ⟨h1, fun e he => by have := h2 e he; omega, ?_⟩
      intro i
      rw [h3]
      by_cases hi : m = i
      · subst hi
        have : g m = d := by simpa using hg
        simp [this]
      · by_cases hr : m + 1 ≤ i ∧ i < m + 1 + n
        · rw [if_pos hr, if_pos (by omega)]
        · rw [if_neg hr, if_neg (by omega)]

/-- A table built in one pass is canonical. -/
theorem twf_tgen (n : Nat) (g : Nat → α) : twf d (tgen d n g) = true := by
  have h := (tgen_aux (d := d) g n 0).1
  rwa [← List.range_eq_range'] at h

/-- What a table built in one pass reads. -/
theorem tget_tgen (n : Nat) (g : Nat → α) (i : Nat) : tget d (tgen d n g) i = if i < n then g i else d := by
  have h := (tgen_aux (d := d) g n 0).2.2 i
  rw [← List.range_eq_range'] at h
  simpa [tgen] using h

end Sys2Proof.Machine
end

