-- ==== Sys2Proof/Laws/Frames.lean ====
section
/-!
SUPPORT. What each shared operation can change: after it every field of the state is as before, but those named. A claim about
a command cites these instead of unfolding the operation.
-/
namespace Sys2Proof.Machine

open Sys2Proof

theorem discardWrite_frame (c : Cmd) (s : State) : discardWrite c s = { s with zones := (discardWrite c s).zones } := by
  unfold discardWrite; repeat' (first | rfl | split | extract_lets)

theorem ventCutLog_frame  (s : State) : ventCutLog s = { s with rep := (ventCutLog s).rep } := by
  unfold ventCutLog; repeat' (first | rfl | split | extract_lets)

theorem keyLossLog_frame  (s : State) : keyLossLog s = { s with rep := (keyLossLog s).rep } := by
  unfold keyLossLog; repeat' (first | rfl | split | extract_lets)

theorem healthLog_frame (e : HEnt) (s : State) : healthLog e s = { s with rep := (healthLog e s).rep } := by
  rfl

theorem foldl_regPut_frame (l : List Nat) (g : Nat → W32) (s : State) :
    l.foldl (fun s off => regPut s off (g off)) s = { s with regs := (l.foldl (fun s off => regPut s off (g off)) s).regs } := by
  induction l generalizing s with
  | nil => rfl
  | cons c l ih => simp only [List.foldl_cons]; rw [ih]; rfl

theorem foldl_discard_frame (l : List Cmd) (s : State) :
    l.foldl (fun s c => if c.id.sq ≠ 0 ∧ isWrite c.e then discardWrite c s else s) s =
      { s with zones := (l.foldl (fun s c => if c.id.sq ≠ 0 ∧ isWrite c.e then discardWrite c s else s) s).zones } := by
  induction l generalizing s with
  | nil => rfl
  | cons c l ih =>
    simp only [List.foldl_cons]
    split
    · rw [ih, discardWrite_frame]
    · rw [ih]

theorem regsReloadP_frame  (s : State) : regsReloadP s = { s with regs := (regsReloadP s).regs, rsv := (regsReloadP s).rsv, pPend := (regsReloadP s).pPend } := by
  exact congrArg (fun x : State => { x with pPend := [], rsv := [] }) (foldl_regPut_frame _ _ s)

theorem emit_frame (x : Xfer) (s : State) : emit x s = { s with sent := (emit x s).sent } := by
  rfl

theorem modFn_frame (f : Nat) (g : Fn → Fn) (s : State) : modFn f g s = { s with fns := (modFn f g s).fns } := by
  rfl

theorem msiSend_frame (f v : Nat) (c : Bool) (s : State) : msiSend f v c s = { s with fns := (msiSend f v c s).fns, sent := (msiSend f v c s).sent } := by
  rfl

theorem msiPend_frame (f v : Nat) (u : Bool) (s : State) : msiPend f v u s = { s with fns := (msiPend f v u s).fns } := by
  rfl

theorem msiBudget_frame (f v : Nat) (s : State) : msiBudget f v s = { s with fns := (msiBudget f v s).fns, sent := (msiBudget f v s).sent } := by
  unfold msiBudget; repeat' (first | rfl | split | extract_lets)

theorem msiOwe_frame (f v : Nat) (u : Bool) (s : State) : msiOwe f v u s = { s with fns := (msiOwe f v u s).fns, sent := (msiOwe f v u s).sent } := by
  unfold msiOwe; extract_lets; split
  · rfl
  · split
    · rfl
    · exact msiBudget_frame f v s

theorem msiEntry_frame (f v : Nat) (u : Bool) (s : State) : msiEntry f v u s = { s with fns := (msiEntry f v u s).fns, sent := (msiEntry f v u s).sent } := by
  unfold msiEntry; extract_lets; split
  · exact msiOwe_frame f v u s
  · split
    · exact (msiOwe_frame f v false _).trans rfl
    · rfl

theorem mbxStop_frame (st : MbxSt) (c : Nat) (r : List (Nat × W32)) (s : State) : mbxStop st c r s = { s with mbx := (mbxStop st c r s).mbx, fns := (mbxStop st c r s).fns, sent := (mbxStop st c r s).sent } := by
  unfold mbxStop; try dsimp only
  (repeat' split) <;> first | rfl | (rw [msiOwe_frame]; first | done | rfl)

theorem lockSetEnd_frame  (s : State) : lockSetEnd s = { s with locks := (lockSetEnd s).locks, mbx := (lockSetEnd s).mbx, fns := (lockSetEnd s).fns, sent := (lockSetEnd s).sent } := by
  unfold lockSetEnd; try dsimp only
  (repeat' split) <;> first | rfl | (rw [mbxStop_frame]; first | done | rfl)

@[simp] theorem lockSetEnd_none (s : State) (h : s.mbx.run = none) : lockSetEnd s = s := by simp [lockSetEnd, h]

theorem markKept_frame (l : List Cmd) (s : State) : markKept l s = { s with cache := (markKept l s).cache, jobs := (markKept l s).jobs } := rfl

/-- What an abandon leaves before the lock request that waits for the commands is looked at. -/
theorem abandon_shape (fs : Nat → Bool) (s : State) : ∃ v : State, abandon fs s = lockSetEnd v ∧
    v = { s with zones := v.zones, cache := v.cache, jobs := v.jobs, cmds := s.cmds.filter fun c => !fs c.id.func, rjobs := v.rjobs } := by
  unfold abandon; extract_lets m s1 s2
  refine ⟨_, rfl, ?_⟩
  have e : s1 = { s with zones := s1.zones } := foldl_discard_frame _ s
  have e2 : s2 = { s1 with cache := s2.cache, jobs := s2.jobs } := rfl
  clear_value s2 s1
  generalize s2.cache = c at e2
  generalize s2.jobs = j at e2
  generalize s1.zones = z at e
  subst e2; subst e; rfl

theorem abandon_frame (fs : Nat → Bool) (s : State) : abandon fs s = { s with zones := (abandon fs s).zones, cache := (abandon fs s).cache, jobs := (abandon fs s).jobs, cmds := (abandon fs s).cmds, rjobs := (abandon fs s).rjobs, locks := (abandon fs s).locks, mbx := (abandon fs s).mbx, fns := (abandon fs s).fns, sent := (abandon fs s).sent } := by
  obtain ⟨v, hv, e⟩ := abandon_shape fs s
  have h := lockSetEnd_frame v
  rw [hv]
  generalize lockSetEnd v = w at h ⊢
  rw [e] at h; rw [h]

@[simp] theorem abandon_norun (fs : Nat → Bool) (s : State) (h : s.mbx.run = none) : (abandon fs s).mbx = s.mbx ∧ (abandon fs s).locks = s.locks ∧ (abandon fs s).fns = s.fns ∧ (abandon fs s).sent = s.sent := by
  obtain ⟨v, hv, e⟩ := abandon_shape fs s
  rw [hv, lockSetEnd_none v (by rw [e]; exact h), e]; exact ⟨rfl, rfl, rfl, rfl⟩

@[simp] theorem abandon_cmds (fs : Nat → Bool) (s : State) : (abandon fs s).cmds = s.cmds.filter fun c => !fs c.id.func := by
  obtain ⟨v, hv, e⟩ := abandon_shape fs s
  rw [hv, lockSetEnd_frame, e]

theorem setLink_frame (p : Nat) (up : Bool) (s : State) : setLink p up s = { s with pin := (setLink p up s).pin } := by
  unfold setLink; repeat' (first | rfl | split | extract_lets)

theorem mbxCut_frame (k : Nat) (s : State) : mbxCut k s = { s with mbx := (mbxCut k s).mbx, regs := (mbxCut k s).regs, rsv := (mbxCut k s).rsv, fw := (mbxCut k s).fw, mig := (mbxCut k s).mig, hold := (mbxCut k s).hold } := by
  unfold mbxCut mbxLeave; dsimp only; split <;> rfl

theorem setMode_frame (m : Mode) (s : State) : setMode m s = { s with md := (setMode m s).md } := by
  unfold setMode; repeat' (first | rfl | split | extract_lets)

theorem enterHalt_frame (w : Nat) (s : State) : enterHalt w s = { s with md := (enterHalt w s).md } := by
  unfold enterHalt setMode; split <;> rfl

theorem startLockout_frame  (s : State) : startLockout s = { s with co := (startLockout s).co } := by
  unfold startLockout; repeat' (first | rfl | split | extract_lets)

theorem enterStage1_frame  (s : State) : enterStage1 s = { s with co := (enterStage1 s).co, md := (enterStage1 s).md } := by
  unfold enterStage1; rw [startLockout_frame]

theorem ventCut_frame (s : State) (r : Run) : ventCut s r = { s with luns := (ventCut s r).luns, jobs := (ventCut s r).jobs } := by
  unfold ventCut; repeat' (first | rfl | split)

theorem foldl_ventCut_frame (l : List Run) (s : State) : l.foldl ventCut s = { s with luns := (l.foldl ventCut s).luns, jobs := (l.foldl ventCut s).jobs } := by
  induction l generalizing s with
  | nil => rfl
  | cons c l ih => simp only [List.foldl_cons]; rw [ih, ventCut_frame]

theorem ventOps_frame (s : State) : ventOps s = { s with luns := (ventOps s).luns, jobs := (ventOps s).jobs, ops := (ventOps s).ops, runs := (ventOps s).runs } := by
  unfold ventOps; extract_lets gone back s1
  have e : s1 = { s with luns := s1.luns, jobs := s1.jobs } := foldl_ventCut_frame _ s
  clear_value s1; rw [e]

theorem modCq_frame (f q : Nat) (g : Cq → Cq) (s : State) : modCq f q g s = { s with cqs := (modCq f q g s).cqs } := by
  rfl

theorem modCmd_frame (id : CmdId) (g : Cmd → Cmd) (s : State) : modCmd id g s = { s with cmds := (modCmd id g s).cmds } := by
  rfl

theorem promote_frame (id : CmdId) (s : State) : promote id s = { s with cmds := (promote id s).cmds, qos := (promote id s).qos } := by
  rfl

theorem passToken_frame (f : Nat) (s : State) : passToken f s = { s with cmds := (passToken f s).cmds, qos := (passToken f s).qos } := by
  unfold passToken; repeat' (first | rfl | split | extract_lets)

theorem freeSlot_frame (id : CmdId) (s : State) : freeSlot id s = { s with cmds := (freeSlot id s).cmds, qos := (freeSlot id s).qos } := by
  unfold freeSlot; try dsimp only
  (repeat' split) <;> first | rfl | (rw [passToken_frame]; first | done | rfl)

theorem countDone_frame (c : Cmd) (s : State) : countDone c s = { s with ctr := (countDone c s).ctr } := by
  unfold countDone; repeat' (first | rfl | split | extract_lets)

theorem countBytes_frame (c : Cmd) (s : State) : countBytes c s = { s with qos := (countBytes c s).qos } := by
  rfl

theorem dirtyMark_frame (t n g : Nat) (s : State) : dirtyMark t n g s = { s with mig := (dirtyMark t n g s).mig, sent := (dirtyMark t n g s).sent } := by
  induction n generalizing g s with
  | zero => rfl
  | succ n ih => 
    unfold dirtyMark; dsimp only; rw [ih]; repeat' (first | rfl | split)
theorem dirtyLog_frame (f a l : Nat) (s : State) : dirtyLog f a l s = { s with mig := (dirtyLog f a l s).mig, sent := (dirtyLog f a l s).sent } := by
  unfold dirtyLog; split
  · rfl
  · extract_lets; split
    · rfl
    · rw [dirtyMark_frame]
theorem dirtyLogSegs_frame (f o l : Nat) (x : List (Nat × Nat)) (s : State) : dirtyLogSegs f o l x s = { s with mig := (dirtyLogSegs f o l x s).mig, sent := (dirtyLogSegs f o l x s).sent } := by
  induction x generalizing o l s with
  | nil => rfl
  | cons x r ih =>
    unfold dirtyLogSegs; split
    · rfl
    · split
      · rw [ih]
      · rw [ih]; rw [dirtyLog_frame]
theorem sendData_frame (c : Cmd) (o : Nat) (b : List Byte) (s : State) : sendData c o b s = { s with mig := (sendData c o b s).mig, sent := (sendData c o b s).sent } := by
  unfold sendData; split
  · rfl
  · rw [dirtyLogSegs_frame]; rfl

theorem cqWrite_frame (f q : Nat) (c : Cq) (e : Cqe) (u : Bool) (s : State) : cqWrite f q c e u s = { s with cqs := (cqWrite f q c e u s).cqs, fns := (cqWrite f q c e u s).fns, sent := (cqWrite f q c e u s).sent, mig := (cqWrite f q c e u s).mig } := by
  unfold cqWrite; try dsimp only
  (repeat' split) <;> first | rfl | (rw [msiEntry_frame, modCq_frame, dirtyLog_frame]; first | done | rfl) | (rw [modCq_frame, dirtyLog_frame]; first | done | rfl) | (rw [dirtyLog_frame]; first | done | rfl)

theorem post_frame (id : CmdId) (s : State) : post id s = { s with cmds := (post id s).cmds, cqs := (post id s).cqs, fns := (post id s).fns, sent := (post id s).sent, mig := (post id s).mig, qos := (post id s).qos, ctr := (post id s).ctr } := by
  unfold post; try dsimp only
  (repeat' split) <;> first | rfl | (rw [countDone_frame, freeSlot_frame, cqWrite_frame]; first | done | rfl) | (rw [modCq_frame]; first | done | rfl) | (rw [freeSlot_frame]; first | done | rfl)

theorem frzCount_frame (f : Nat) (s : State) : frzCount f s = { s with mig := (frzCount f s).mig } := by
  unfold frzCount; repeat' (first | rfl | split | extract_lets)

theorem finish_frame (id : CmdId) (st : Status) (a b : W32) (s : State) : finish id st a b s = { s with fns := (finish id st a b s).fns, sent := (finish id st a b s).sent, cmds := (finish id st a b s).cmds, cqs := (finish id st a b s).cqs, qos := (finish id st a b s).qos, ctr := (finish id st a b s).ctr, mig := (finish id st a b s).mig, locks := (finish id st a b s).locks, mbx := (finish id st a b s).mbx } := by
  unfold finish
  have h1 := modCmd_frame id (fun c => { c with phase := .decided, status := some st, dw0 := a, dw1 := b }) s
  generalize modCmd id (fun c => { c with phase := .decided, status := some st, dw0 := a, dw1 := b }) s = u at h1 ⊢
  have h2 := post_frame id u
  generalize post id u = v at h2 ⊢
  have h3 := lockSetEnd_frame v
  generalize lockSetEnd v = w at h3 ⊢
  have h4 := frzCount_frame id.func w
  generalize frzCount id.func w = x at h4 ⊢
  rw [h4, h3, h2, h1]

theorem finishSt_frame (id : CmdId) (st : Status) (s : State) : finishSt id st s = { s with fns := (finishSt id st s).fns, sent := (finishSt id st s).sent, cmds := (finishSt id st s).cmds, cqs := (finishSt id st s).cqs, qos := (finishSt id st s).qos, ctr := (finishSt id st s).ctr, mig := (finishSt id st s).mig, locks := (finishSt id st s).locks, mbx := (finishSt id st s).mbx } := by
  exact finish_frame id st 0 0 s

theorem errEntry_frame (id : CmdId) (st : Status) (l n : Nat) (s : State) : errEntry id st l n s = { s with fns := (errEntry id st l n s).fns } := by
  rfl

theorem aerPost_frame (f : Nat) (e : Cqe) (s : State) : aerPost f e s = { s with cqs := (aerPost f e s).cqs, fns := (aerPost f e s).fns, sent := (aerPost f e s).sent, mig := (aerPost f e s).mig } := by
  unfold aerPost
  (repeat' split) <;> first | rfl | (rw [cqWrite_frame]; first | done | rfl)

theorem aerComplete_frame (f cid : Nat) (e : Ev) (s : State) : aerComplete f cid e s = { s with cqs := (aerComplete f cid e s).cqs, fns := (aerComplete f cid e s).fns, sent := (aerComplete f cid e s).sent, mig := (aerComplete f cid e s).mig } := by
  unfold aerComplete; dsimp only; rw [aerPost_frame]; rfl

theorem postEvent_frame (ty i l f : Nat) (s : State) : postEvent ty i l f s = { s with cqs := (postEvent ty i l f s).cqs, fns := (postEvent ty i l f s).fns, sent := (postEvent ty i l f s).sent, mig := (postEvent ty i l f s).mig } := by
  unfold postEvent; extract_lets; split
  · rfl
  · split
    · rw [aerComplete_frame]
    · split <;> rfl

theorem postEventAll_frame (ty i l : Nat) (s : State) : postEventAll ty i l s = { s with cqs := (postEventAll ty i l s).cqs, fns := (postEventAll ty i l s).fns, sent := (postEventAll ty i l s).sent, mig := (postEventAll ty i l s).mig } := by
  unfold postEventAll
  generalize tkeys s.fns = ks
  induction ks generalizing s with
  | nil => rfl
  | cons k ks ih => simp only [List.foldl_cons]; rw [ih]; rw [postEvent_frame]

theorem foldl_errEntry_frame (l : List Nat) (id : CmdId) (g : State → Nat → Status) (k : State → Nat → Nat) (n : Nat) (s : State) :
    l.foldl (fun s f => errEntry id (g s f) (k s f) n s) s = { s with fns := (l.foldl (fun s f => errEntry id (g s f) (k s f) n s) s).fns } := by
  induction l generalizing s with
  | nil => rfl
  | cons a l ih => simp only [List.foldl_cons]; rw [ih, errEntry_frame]

theorem readEntries_frame (c : Cmd) (s : State) : readEntries c s = { s with fns := (readEntries c s).fns } := by
  unfold readEntries
  exact foldl_errEntry_frame _ c.id (fun s f => frameSt (c.fails.filter fun e => frameLba s c.e.nsid e.1 = f))
    (fun s f => let mine : List (Nat × Status) := c.fails.filter fun e => frameLba s c.e.nsid e.1 = f
      (mine.map Prod.fst).foldl min ((mine.map Prod.fst).headD 0)) c.e.nsid s

theorem readCheck_frame (id : CmdId) (s : State) : readCheck id s = { s with fns := (readCheck id s).fns, sent := (readCheck id s).sent, cmds := (readCheck id s).cmds, cqs := (readCheck id s).cqs, qos := (readCheck id s).qos, ctr := (readCheck id s).ctr, mig := (readCheck id s).mig, locks := (readCheck id s).locks, mbx := (readCheck id s).mbx } := by
  unfold readCheck
  split
  · rfl
  · split
    · rfl
    · rw [finishSt_frame, readEntries_frame]

theorem foldl_readCheck_frame (l : List CmdId) (s : State) : l.foldl (fun s id => readCheck id s) s = { s with fns := (l.foldl (fun s id => readCheck id s) s).fns, sent := (l.foldl (fun s id => readCheck id s) s).sent, cmds := (l.foldl (fun s id => readCheck id s) s).cmds, cqs := (l.foldl (fun s id => readCheck id s) s).cqs, qos := (l.foldl (fun s id => readCheck id s) s).qos, ctr := (l.foldl (fun s id => readCheck id s) s).ctr, mig := (l.foldl (fun s id => readCheck id s) s).mig, locks := (l.foldl (fun s id => readCheck id s) s).locks, mbx := (l.foldl (fun s id => readCheck id s) s).mbx } := by
  induction l generalizing s with
  | nil => rfl
  | cons a l ih => simp only [List.foldl_cons]; rw [ih, readCheck_frame]

theorem endR_frame (n : Nat) (ids : List CmdId) (s : State) : endR n ids s = { s with fns := (endR n ids s).fns, sent := (endR n ids s).sent, cmds := (endR n ids s).cmds, cqs := (endR n ids s).cqs, qos := (endR n ids s).qos, ctr := (endR n ids s).ctr, mig := (endR n ids s).mig, locks := (endR n ids s).locks, mbx := (endR n ids s).mbx, rjobs := (endR n ids s).rjobs } := by
  unfold endR; rw [foldl_readCheck_frame]

theorem foldl_sendData_frame (l : List Nat) (c : Cmd) (o : Nat → Nat) (b : List Byte) (s : State) :
    l.foldl (fun s x => sendData c (o x) b s) s = { s with mig := (l.foldl (fun s x => sendData c (o x) b s) s).mig, sent := (l.foldl (fun s x => sendData c (o x) b s) s).sent } := by
  induction l generalizing s with
  | nil => rfl
  | cons a l ih => simp only [List.foldl_cons]; rw [ih, sendData_frame]

theorem failLbas_frame (id : CmdId) (st : Status) (l : List Nat) (s : State) : failLbas id st l s = { s with cmds := (failLbas id st l s).cmds, mig := (failLbas id st l s).mig, sent := (failLbas id st l s).sent } := by
  unfold failLbas
  split
  · unfold waitDone; rw [modCmd_frame, modCmd_frame, foldl_sendData_frame]
  · rfl

theorem foldl_sends_frame (l : List CmdId) (g : State → CmdId → State)
    (hg : ∀ s id, g s id = { s with cmds := (g s id).cmds, mig := (g s id).mig, sent := (g s id).sent }) (s : State) :
    l.foldl g s = { s with cmds := (l.foldl g s).cmds, mig := (l.foldl g s).mig, sent := (l.foldl g s).sent } := by
  induction l generalizing s with
  | nil => rfl
  | cons a l ih => simp only [List.foldl_cons]; rw [ih, hg]

theorem failR_frame (n : Nat) (st : Status) (s : State) : failR n st s = { s with fns := (failR n st s).fns, sent := (failR n st s).sent, cmds := (failR n st s).cmds, cqs := (failR n st s).cqs, qos := (failR n st s).qos, ctr := (failR n st s).ctr, mig := (failR n st s).mig, locks := (failR n st s).locks, mbx := (failR n st s).mbx, rjobs := (failR n st s).rjobs, rebs := (failR n st s).rebs, ops := (failR n st s).ops } := by
  unfold failR
  split
  · rfl
  · next r _ =>
    rw [endR_frame, foldl_sends_frame]
    · rfl
    · intro s id
      split
      · exact failLbas_frame _ _ _ _
      · rfl

theorem foldl_failR_frame (l : Table (Option RJob)) (st : Status) (s : State) : l.foldl (fun s e => failR e.1 st s) s = { s with fns := (l.foldl (fun s e => failR e.1 st s) s).fns, sent := (l.foldl (fun s e => failR e.1 st s) s).sent, cmds := (l.foldl (fun s e => failR e.1 st s) s).cmds, cqs := (l.foldl (fun s e => failR e.1 st s) s).cqs, qos := (l.foldl (fun s e => failR e.1 st s) s).qos, ctr := (l.foldl (fun s e => failR e.1 st s) s).ctr, mig := (l.foldl (fun s e => failR e.1 st s) s).mig, locks := (l.foldl (fun s e => failR e.1 st s) s).locks, mbx := (l.foldl (fun s e => failR e.1 st s) s).mbx, rjobs := (l.foldl (fun s e => failR e.1 st s) s).rjobs, rebs := (l.foldl (fun s e => failR e.1 st s) s).rebs, ops := (l.foldl (fun s e => failR e.1 st s) s).ops } := by
  induction l generalizing s with
  | nil => rfl
  | cons a l ih => simp only [List.foldl_cons]; rw [ih, failR_frame]

theorem causeOn_frame (n : Nat) (s : State) : causeOn n s = { s with cqs := (causeOn n s).cqs, fns := (causeOn n s).fns, sent := (causeOn n s).sent, mig := (causeOn n s).mig, rep := (causeOn n s).rep } := by
  unfold causeOn; split
  · rfl
  · extract_lets a s1; rw [postEventAll_frame]; rfl

theorem causeOff_frame (n : Nat) (s : State) : causeOff n s = { s with rep := (causeOff n s).rep } := by
  unfold causeOff; repeat' (first | rfl | split | extract_lets)

theorem capTest_frame (s : State) : capTest s = { s with hold := (capTest s).hold, pin := (capTest s).pin } := by
  unfold capTest; repeat' (first | rfl | split | extract_lets)

theorem capTestKept_frame (s : State) : capTestKept s = { s with hold := (capTestKept s).hold, pin := (capTestKept s).pin } := by
  unfold capTestKept; split
  · rw [capTest_frame]
  · rfl

theorem capTestCut_frame (s : State) : capTestCut s = { s with hold := (capTestCut s).hold, pin := (capTestCut s).pin } := by
  unfold capTestCut; split <;> rfl

theorem leaveRun_frame (m : Mode) (s : State) : leaveRun m s = { s with md := (leaveRun m s).md, hold := (leaveRun m s).hold, pin := (leaveRun m s).pin } := by
  unfold leaveRun; rw [setMode_frame]; split
  · rw [capTestCut_frame]
  · rfl

theorem wakeRecord_frame (a b c d : Nat) (s : State) : wakeRecord a b c d s = { s with pwr := (wakeRecord a b c d s).pwr } := by
  rfl

theorem exitBegin_frame (s : State) : exitBegin s = { s with chans := (exitBegin s).chans, dram := (exitBegin s).dram } := by
  rfl

theorem psBegin_frame (n : Nat) (w : Option PsWaiter) (s : State) : psBegin n w s = { s with md := (psBegin n w s).md, pwr := (psBegin n w s).pwr, hold := (psBegin n w s).hold, pin := (psBegin n w s).pin, chans := (psBegin n w s).chans, dram := (psBegin n w s).dram } := by
  unfold psBegin; extract_lets deep u v
  have hu : u = { s with md := u.md, hold := u.hold, pin := u.pin } := by
    simp only [u]; split
    · rw [leaveRun_frame]
    · rfl
  have hv : v = { u with pwr := v.pwr, chans := v.chans, dram := v.dram } := by
    simp only [v]; split
    · rw [exitBegin_frame, wakeRecord_frame]
    · rfl
  clear_value u v
  rw [hv, hu]

theorem psTake_frame (s : State) : psTake s = { s with md := (psTake s).md, pwr := (psTake s).pwr, hold := (psTake s).hold, pin := (psTake s).pin, chans := (psTake s).chans, dram := (psTake s).dram } := by
  unfold psTake; dsimp only; rw [psBegin_frame]

theorem afterLong_frame (s : State) : afterLong s = { s with md := (afterLong s).md, pwr := (afterLong s).pwr, hold := (afterLong s).hold, pin := (afterLong s).pin, chans := (afterLong s).chans, dram := (afterLong s).dram } := by
  unfold afterLong; dsimp only
  have h1 := capTestKept_frame s
  generalize capTestKept s = u at h1 ⊢
  split
  · rw [psTake_frame, h1]
  · rw [h1]

theorem mbxDone_frame (r : List (Nat × W32)) (s : State) : mbxDone r s = { s with fns := (mbxDone r s).fns, sent := (mbxDone r s).sent, mbx := (mbxDone r s).mbx, md := (mbxDone r s).md, pwr := (mbxDone r s).pwr, hold := (mbxDone r s).hold, pin := (mbxDone r s).pin, chans := (mbxDone r s).chans, dram := (mbxDone r s).dram } := by
  unfold mbxDone; try dsimp only
  (repeat' split) <;> first | rfl | (rw [afterLong_frame, mbxStop_frame]; first | done | rfl) | (rw [mbxStop_frame]; first | done | rfl)

theorem mbxKill_frame (c a o : Nat) (s : State) : mbxKill c a o s = { s with fns := (mbxKill c a o s).fns, sent := (mbxKill c a o s).sent, mbx := (mbxKill c a o s).mbx, md := (mbxKill c a o s).md, pwr := (mbxKill c a o s).pwr, hold := (mbxKill c a o s).hold, pin := (mbxKill c a o s).pin, chans := (mbxKill c a o s).chans, dram := (mbxKill c a o s).dram } := by
  unfold mbxKill; try dsimp only
  (repeat' split) <;> first | rfl | (rw [afterLong_frame, mbxStop_frame]; first | done | rfl) | (rw [mbxStop_frame]; first | done | rfl)

theorem mbxFail_frame (c a o : Nat) (s : State) : mbxFail c a o s = { s with fns := (mbxFail c a o s).fns, sent := (mbxFail c a o s).sent, mbx := (mbxFail c a o s).mbx, md := (mbxFail c a o s).md, pwr := (mbxFail c a o s).pwr, hold := (mbxFail c a o s).hold, pin := (mbxFail c a o s).pin, chans := (mbxFail c a o s).chans, dram := (mbxFail c a o s).dram } := by
  unfold mbxFail; split
  · rfl
  · rw [mbxKill_frame]

theorem psTell_frame (w : PsWaiter) (s : State) : psTell w s = { s with fns := (psTell w s).fns, sent := (psTell w s).sent, cmds := (psTell w s).cmds, cqs := (psTell w s).cqs, qos := (psTell w s).qos, ctr := (psTell w s).ctr, mig := (psTell w s).mig, locks := (psTell w s).locks, mbx := (psTell w s).mbx, md := (psTell w s).md, pwr := (psTell w s).pwr, hold := (psTell w s).hold, pin := (psTell w s).pin, chans := (psTell w s).chans, dram := (psTell w s).dram } := by
  unfold psTell psTellAs; try dsimp only
  (repeat' split) <;> first | rfl | (rw [finish_frame]; first | done | rfl) | (rw [mbxDone_frame]; first | done | rfl)

theorem foldl_psTell_frame (ws : List PsWaiter) (s : State) : ws.foldl (fun s w => psTell w s) s = { s with fns := (ws.foldl (fun s w => psTell w s) s).fns, sent := (ws.foldl (fun s w => psTell w s) s).sent, cmds := (ws.foldl (fun s w => psTell w s) s).cmds, cqs := (ws.foldl (fun s w => psTell w s) s).cqs, qos := (ws.foldl (fun s w => psTell w s) s).qos, ctr := (ws.foldl (fun s w => psTell w s) s).ctr, mig := (ws.foldl (fun s w => psTell w s) s).mig, locks := (ws.foldl (fun s w => psTell w s) s).locks, mbx := (ws.foldl (fun s w => psTell w s) s).mbx, md := (ws.foldl (fun s w => psTell w s) s).md, pwr := (ws.foldl (fun s w => psTell w s) s).pwr, hold := (ws.foldl (fun s w => psTell w s) s).hold, pin := (ws.foldl (fun s w => psTell w s) s).pin, chans := (ws.foldl (fun s w => psTell w s) s).chans, dram := (ws.foldl (fun s w => psTell w s) s).dram } := by
  induction ws generalizing s with
  | nil => rfl
  | cons c l ih => simp only [List.foldl_cons]; rw [ih, psTell_frame]

theorem psTellAll_frame (s : State) : psTellAll s = { s with fns := (psTellAll s).fns, sent := (psTellAll s).sent, cmds := (psTellAll s).cmds, cqs := (psTellAll s).cqs, qos := (psTellAll s).qos, ctr := (psTellAll s).ctr, mig := (psTellAll s).mig, locks := (psTellAll s).locks, mbx := (psTellAll s).mbx, md := (psTellAll s).md, pwr := (psTellAll s).pwr, hold := (psTellAll s).hold, pin := (psTellAll s).pin, chans := (psTellAll s).chans, dram := (psTellAll s).dram } := by
  unfold psTellAll; rw [foldl_psTell_frame]

theorem psRequest_frame (n : Nat) (w : Option PsWaiter) (s : State) : psRequest n w s = { s with fns := (psRequest n w s).fns, sent := (psRequest n w s).sent, cmds := (psRequest n w s).cmds, cqs := (psRequest n w s).cqs, qos := (psRequest n w s).qos, ctr := (psRequest n w s).ctr, mig := (psRequest n w s).mig, locks := (psRequest n w s).locks, mbx := (psRequest n w s).mbx, md := (psRequest n w s).md, pwr := (psRequest n w s).pwr, hold := (psRequest n w s).hold, pin := (psRequest n w s).pin, chans := (psRequest n w s).chans, dram := (psRequest n w s).dram } := by
  unfold psRequest; dsimp only
  (repeat' split) <;> first | rfl | (rw [psTellAll_frame]; first | done | rfl) | (rw [psTake_frame]; first | done | rfl)

theorem wakeDoze_frame (n : Nat) (s : State) : wakeDoze n s = { s with fns := (wakeDoze n s).fns, sent := (wakeDoze n s).sent, cmds := (wakeDoze n s).cmds, cqs := (wakeDoze n s).cqs, qos := (wakeDoze n s).qos, ctr := (wakeDoze n s).ctr, mig := (wakeDoze n s).mig, locks := (wakeDoze n s).locks, mbx := (wakeDoze n s).mbx, md := (wakeDoze n s).md, pwr := (wakeDoze n s).pwr, hold := (wakeDoze n s).hold, pin := (wakeDoze n s).pin, chans := (wakeDoze n s).chans, dram := (wakeDoze n s).dram } := by
  unfold wakeDoze; try dsimp only
  (repeat' split) <;> first | rfl | (rw [psRequest_frame]; first | done | rfl)

theorem dozeWake_frame (s : State) : dozeWake s = { s with fns := (dozeWake s).fns, sent := (dozeWake s).sent, cmds := (dozeWake s).cmds, cqs := (dozeWake s).cqs, qos := (dozeWake s).qos, ctr := (dozeWake s).ctr, mig := (dozeWake s).mig, locks := (dozeWake s).locks, mbx := (dozeWake s).mbx, md := (dozeWake s).md, pwr := (dozeWake s).pwr, hold := (dozeWake s).hold, pin := (dozeWake s).pin, chans := (dozeWake s).chans, dram := (dozeWake s).dram } := by
  exact wakeDoze_frame 7 s

end Sys2Proof.Machine
end

