-- ==== Sys2Proof/Laws/KeepsOps.lean ====
section
/-!
SUPPORT. What every operation keeps, operation by operation: the queue of waiting commands, the recovery image, the
register table's canonical form, the bound of the fused counter and the size of the field-repair bank.
-/
namespace Sys2Proof.Machine

open Sys2Proof

/-- The five parts that `Keeps` speaks of, against the state at the start. -/
def KeepsF (o0 : State) (p : List Instr) (r : Table W32) (i : Img) (f : Nat) (b : List Repair) : Prop :=
  p = o0.pending ∧ i = o0.fw.recovery ∧ (twf 0 o0.regs = true → twf 0 r = true) ∧
  (o0.fw.fused ≤ min o0.fw.recovery.counter 64 → f ≤ min o0.fw.recovery.counter 64) ∧
  (o0.sram.repairs.length ≤ 64 → b.length ≤ 64)

/-- What no operation breaks from `o0` to `s`: the queue and the recovery image are the same; a canonical register
table, a fused counter within the recovery image's, and a repair bank within its size stay so. -/
def Keeps (o0 s : State) : Prop := KeepsF o0 s.pending s.regs s.fw.recovery s.fw.fused s.sram.repairs

theorem Keeps.refl (s : State) : Keeps s s := ⟨rfl, rfl, id, id, id⟩

@[simp] theorem keeps_mk {o0 : State} {xclk xmd xpin xregs xrsv xnor xpPend xpsaveFail xaonQ xaonHeld xrefuse xwvTop xwvVf xgat xpace xmbx xnumVfs xvfEnable xtenants xgens xfns xsqs xcqs xcmds xnextOrd xsent xqos xnss xzones xprofiles xconv xcache xjobs xrjobs xrels xoffs xrebs xjournal xnextJob xops xruns xfltc xfltcMiss xcdc xcip xvault xco xsec xfw xchans xluns xnorCfg xsuspCount xsuspExh xlocks xdram xsram xpwr xhk xhold xtherm xzer xrep xmig xflt xctr xctrStored xsan xreplayed xfreeCtr xpending} :
    Keeps o0 (State.mk xclk xmd xpin xregs xrsv xnor xpPend xpsaveFail xaonQ xaonHeld xrefuse xwvTop xwvVf xgat xpace xmbx xnumVfs xvfEnable xtenants xgens xfns xsqs xcqs xcmds xnextOrd xsent xqos xnss xzones xprofiles xconv xcache xjobs xrjobs xrels xoffs xrebs xjournal xnextJob xops xruns xfltc xfltcMiss xcdc xcip xvault xco xsec xfw xchans xluns xnorCfg xsuspCount xsuspExh xlocks xdram xsram xpwr xhk xhold xtherm xzer xrep xmig xflt xctr xctrStored xsan xreplayed xfreeCtr xpending) ↔ KeepsF o0 xpending xregs xfw.recovery xfw.fused xsram.repairs := Iff.rfl

@[simp] theorem keeps_fold {o0 s : State} : KeepsF o0 s.pending s.regs s.fw.recovery s.fw.fused s.sram.repairs ↔ Keeps o0 s := Iff.rfl

theorem keeps_foldl {α : Type} {o0 : State} {g : State → α → State} (h : ∀ s x, Keeps o0 s → Keeps o0 (g s x)) (l : List α) {s : State}
    (hs : Keeps o0 s) : Keeps o0 (l.foldl g s) := by
  induction l generalizing s with
  | nil => exact hs
  | cons a t ih => exact ih (h s a hs)

/-- Any write of a table entry of the register file keeps `Keeps`. -/
theorem keepsF_tset {o0 s : State} (h : Keeps o0 s) (o : Nat) (v : W32) :
    KeepsF o0 s.pending (tset 0#32 s.regs o v) s.fw.recovery s.fw.fused s.sram.repairs :=
  ⟨h.1, h.2.1, fun k => twf_tset (h.2.2.1 k) _ _, h.2.2.2⟩

theorem keepsF_tmap {o0 s : State} (h : Keeps o0 s) (f : Nat → W32 → W32) :
    KeepsF o0 s.pending (tmap 0#32 f s.regs) s.fw.recovery s.fw.fused s.sram.repairs :=
  ⟨h.1, h.2.1, fun k => twf_tmap f (h.2.2.1 k), h.2.2.2⟩

@[simp] theorem keeps_ite {o0 : State} (c : Prop) [Decidable c] (a b : State) (ha : Keeps o0 a) (hb : Keeps o0 b) :
    Keeps o0 (if c then a else b) := by split <;> assumption

theorem keeps_foldr {α : Type} {o0 : State} {g : α → State → State} (h : ∀ x s, Keeps o0 s → Keeps o0 (g x s)) (l : List α) {s : State}
    (hs : Keeps o0 s) : Keeps o0 (l.foldr g s) := by
  induction l with
  | nil => exact hs
  | cons a t ih => exact h a _ ih

@[simp] theorem keeps_elim {α : Type} {o0 : State} {g : α → State} {s : State} (o : Option α) (h : ∀ x, Keeps o0 (g x)) (hs : Keeps o0 s) :
    Keeps o0 (o.elim s g) := by cases o; exact hs; exact h _

@[simp] theorem keeps_getD {o0 : State} {s : State} (o : Option State) (h : ∀ t, o = some t → Keeps o0 t) (hs : Keeps o0 s) :
    Keeps o0 (o.getD s) := by cases o; exact hs; exact h _ rfl

theorem keeps_natRepeat {o0 : State} {g : State → State} (h : ∀ s, Keeps o0 s → Keeps o0 (g s)) (n : Nat) {s : State} (hs : Keeps o0 s) :
    Keeps o0 (Nat.repeat g n s) := by
  induction n with
  | zero => exact hs
  | succ n ih => exact h _ ih

@[simp] theorem keeps_regPut {o0 : State} (s : State) (off : Nat) (v : W32) (h : Keeps o0 s) : Keeps o0 (regPut s off v) := by
  simp (maxDischargeDepth := 30) [regPut, h, keepsF_tset]

@[simp] theorem keeps_markP {o0 : State} (s : State) (off : Nat) (h : Keeps o0 s) : Keeps o0 (markP s off) := by
  simp only [markP]
  (repeat' split) <;> first | with_reducible exact h | simp (maxDischargeDepth := 30) [h]

@[simp] theorem keeps_regWrite {o0 : State} (s : State) (al : RegAlias) (off : Nat) (v : W32) (h : Keeps o0 s) : Keeps o0 (regWrite s al off v) := by
  simp only [regWrite]
  (repeat' split) <;> first | with_reducible exact h | simp (maxDischargeDepth := 30) [h]

@[simp] theorem keeps_regSetFld {o0 : State} (s : State) (off hi lo v : Nat) (h : Keeps o0 s) : Keeps o0 (regSetFld s off hi lo v) := by
  simp (maxDischargeDepth := 30) [regSetFld, h]

@[simp] theorem keeps_regsDefault {o0 : State} (cs : List Cls) (s : State) (h : Keeps o0 s) : Keeps o0 (regsDefault cs s) := by
  simp (maxDischargeDepth := 30) [regsDefault, h, keepsF_tmap]

@[simp] theorem keeps_regsReloadP {o0 : State} (s : State) (h : Keeps o0 s) : Keeps o0 (regsReloadP s) := by
  simp (maxDischargeDepth := 30) +contextual [regsReloadP, keeps_foldl, h]

@[simp] theorem keeps_cfgReload {o0 : State} (s : State) (h : Keeps o0 s) : Keeps o0 (cfgReload s) := h

@[simp] theorem keeps_storeP {o0 : State} (s : State) (h : Keeps o0 s) : Keeps o0 (storeP s) := h

@[simp] theorem keeps_gateRecord {o0 : State} (s : State) (base off bit code obj : Nat) (h : Keeps o0 s) : Keeps o0 (gateRecord s base off bit code obj) := h

@[simp] theorem keeps_modFn {o0 : State} (f : Nat) (g : Fn → Fn) (s : State) (h : Keeps o0 s) : Keeps o0 (modFn f g s) := h

@[simp] theorem keeps_modTn {o0 : State} (t : Nat) (g : Tenant → Tenant) (s : State) (h : Keeps o0 s) : Keeps o0 (modTn t g s) := h

@[simp] theorem keeps_modLun {o0 : State} (l : Nat) (g : Lun → Lun) (s : State) (h : Keeps o0 s) : Keeps o0 (modLun l g s) := h

@[simp] theorem keeps_modChan {o0 : State} (c : Nat) (g : Chan → Chan) (s : State) (h : Keeps o0 s) : Keeps o0 (modChan c g s) := h

@[simp] theorem keeps_modZone {o0 : State} (ns z : Nat) (g : Zone → Zone) (s : State) (h : Keeps o0 s) : Keeps o0 (modZone ns z g s) := h

@[simp] theorem keeps_modConv {o0 : State} (ns lba : Nat) (g : Conv → Conv) (s : State) (h : Keeps o0 s) : Keeps o0 (modConv ns lba g s) := h

@[simp] theorem keeps_setNs {o0 : State} (ns : Nat) (n : Option Ns) (s : State) (h : Keeps o0 s) : Keeps o0 (setNs ns n s) := h

@[simp] theorem keeps_modProf {o0 : State} (p : Nat) (g : Profile → Profile) (s : State) (h : Keeps o0 s) : Keeps o0 (modProf p g s) := h

@[simp] theorem keeps_modCip {o0 : State} (k : Nat) (g : Cip → Cip) (s : State) (h : Keeps o0 s) : Keeps o0 (modCip k g s) := h

@[simp] theorem keeps_modCdc {o0 : State} (k : Nat) (g : Cdc → Cdc) (s : State) (h : Keeps o0 s) : Keeps o0 (modCdc k g s) := h

@[simp] theorem keeps_modRank {o0 : State} (r : Nat) (g : Rank → Rank) (s : State) (h : Keeps o0 s) : Keeps o0 (modRank r g s) := h

@[simp] theorem keeps_modSlot {o0 : State} (k : Nat) (g : Slot → Slot) (s : State) (h : Keeps o0 s) : Keeps o0 (modSlot k g s) := h

@[simp] theorem keeps_modCont {o0 : State} (i : Nat) (g : Cont → Cont) (s : State) (h : Keeps o0 s) : Keeps o0 (modCont i g s) := h

@[simp] theorem keeps_modCtr {o0 : State} (i : Nat) (g : Ctrs → Ctrs) (s : State) (h : Keeps o0 s) : Keeps o0 (modCtr i g s) := h

@[simp] theorem keeps_setMode {o0 : State} (m : Mode) (s : State) (h : Keeps o0 s) : Keeps o0 (setMode m s) := by
  simp only [setMode]
  (repeat' split) <;> first | with_reducible exact h | simp (maxDischargeDepth := 30) [h]

@[simp] theorem keeps_enterHalt {o0 : State} (why : Nat) (s : State) (h : Keeps o0 s) : Keeps o0 (enterHalt why s) := by
  simp (maxDischargeDepth := 30) [enterHalt, h]

@[simp] theorem keeps_freeNext {o0 : State} (s : State) (h : Keeps o0 s) : Keeps o0 (freeNext s) := h

@[simp] theorem keeps_emit {o0 : State} (x : Xfer) (s : State) (h : Keeps o0 s) : Keeps o0 (emit x s) := h

@[simp] theorem keeps_dirtyMark {o0 : State} (t n g : Nat) (s : State) (h : Keeps o0 s) : Keeps o0 (dirtyMark t n g s) := by
  induction n generalizing g s with
  | zero => exact h
  | succ n ih =>
    simp only [dirtyMark]
    apply ih
    split <;> simp (maxDischargeDepth := 30) [h]

@[simp] theorem keeps_dirtyLog {o0 : State} (f addr len : Nat) (s : State) (h : Keeps o0 s) : Keeps o0 (dirtyLog f addr len s) := by
  simp only [dirtyLog]
  (repeat' split) <;> first | with_reducible exact h | simp (maxDischargeDepth := 30) [h]

@[simp] theorem keeps_dirtyLogSegs {o0 : State} (f off len : Nat) (l : List (Nat × Nat)) (s : State) (h : Keeps o0 s) :
    Keeps o0 (dirtyLogSegs f off len l s) := by
  induction l generalizing off len s with
  | nil => exact h
  | cons p l ih =>
    simp only [dirtyLogSegs]
    (repeat' split) <;> first | exact h | exact ih _ _ _ h | exact ih _ _ _ (keeps_dirtyLog _ _ _ _ h)

@[simp] theorem keeps_sendData {o0 : State} (c : Cmd) (off : Nat) (bytes : List Byte) (s : State) (h : Keeps o0 s) : Keeps o0 (sendData c off bytes s) := by
  simp only [sendData]
  (repeat' split) <;> first | with_reducible exact h | simp (maxDischargeDepth := 30) [h]

@[simp] theorem keeps_msiSend {o0 : State} (f v : Nat) (count : Bool) (s : State) (h : Keeps o0 s) : Keeps o0 (msiSend f v count s) := h

@[simp] theorem keeps_msiPend {o0 : State} (f v : Nat) (urgent : Bool) (s : State) (h : Keeps o0 s) : Keeps o0 (msiPend f v urgent s) := h

@[simp] theorem keeps_msiBudget {o0 : State} (f v : Nat) (s : State) (h : Keeps o0 s) : Keeps o0 (msiBudget f v s) := by
  simp only [msiBudget]
  (repeat' split) <;> first | with_reducible exact h | simp (maxDischargeDepth := 30) [h]

@[simp] theorem keeps_msiOwe {o0 : State} (f v : Nat) (urgent : Bool) (s : State) (h : Keeps o0 s) : Keeps o0 (msiOwe f v urgent s) := by
  simp only [msiOwe]
  (repeat' split) <;> first | with_reducible exact h | simp (maxDischargeDepth := 30) [h]

@[simp] theorem keeps_msiEntry {o0 : State} (f v : Nat) (urgent : Bool) (s : State) (h : Keeps o0 s) : Keeps o0 (msiEntry f v urgent s) := by
  simp only [msiEntry]
  (repeat' split) <;> first | with_reducible exact h | simp (maxDischargeDepth := 30) +contextual [h]

@[simp] theorem keeps_modCq {o0 : State} (f q : Nat) (g : Cq → Cq) (s : State) (h : Keeps o0 s) : Keeps o0 (modCq f q g s) := h

@[simp] theorem keeps_modSq {o0 : State} (f q : Nat) (g : Sq → Sq) (s : State) (h : Keeps o0 s) : Keeps o0 (modSq f q g s) := h

@[simp] theorem keeps_modCmd {o0 : State} (id : CmdId) (g : Cmd → Cmd) (s : State) (h : Keeps o0 s) : Keeps o0 (modCmd id g s) := h

@[simp] theorem keeps_promote {o0 : State} (id : CmdId) (s : State) (h : Keeps o0 s) : Keeps o0 (promote id s) := h

@[simp] theorem keeps_passToken {o0 : State} (f : Nat) (s : State) (h : Keeps o0 s) : Keeps o0 (passToken f s) := by
  simp only [passToken]
  (repeat' split) <;> first | with_reducible exact h | simp (maxDischargeDepth := 30) [h]

@[simp] theorem keeps_freeSlot {o0 : State} (id : CmdId) (s : State) (h : Keeps o0 s) : Keeps o0 (freeSlot id s) := by
  simp only [freeSlot]
  (repeat' split) <;> first | with_reducible exact h | simp (maxDischargeDepth := 30) [h]

@[simp] theorem keeps_countDone {o0 : State} (c : Cmd) (s : State) (h : Keeps o0 s) : Keeps o0 (countDone c s) := by
  simp only [countDone]
  (repeat' split) <;> first | with_reducible exact h | simp (maxDischargeDepth := 30) [h]

@[simp] theorem keeps_cqWrite {o0 : State} (f q : Nat) (c : Cq) (e : Cqe) (urgent : Bool) (s : State) (h : Keeps o0 s) : Keeps o0 (cqWrite f q c e urgent s) := by
  simp only [cqWrite]
  (repeat' split) <;> first | with_reducible exact h | simp (maxDischargeDepth := 30) [h]

@[simp] theorem keeps_countBytes {o0 : State} (c : Cmd) (s : State) (h : Keeps o0 s) : Keeps o0 (countBytes c s) := h

@[simp] theorem keeps_post {o0 : State} (id : CmdId) (s : State) (h : Keeps o0 s) : Keeps o0 (post id s) := by
  simp only [post]
  (repeat' split) <;> first | with_reducible exact h | simp (maxDischargeDepth := 30) [h]

@[simp] theorem keeps_cqDrain {o0 : State} (n f q : Nat) (s : State) (h : Keeps o0 s) : Keeps o0 (cqDrain n f q s) := by
  induction n generalizing s with
  | zero => exact h
  | succ n ih =>
    simp only [cqDrain]
    (repeat' split) <;> first | exact h | (apply ih; simp (maxDischargeDepth := 30) [h])

@[simp] theorem keeps_mbxStop {o0 : State} (st : MbxSt) (code : Nat) (res : List (Nat × W32)) (s : State) (h : Keeps o0 s) : Keeps o0 (mbxStop st code res s) := by
  simp only [mbxStop]
  (repeat' split) <;> first | with_reducible exact h | simp (maxDischargeDepth := 30) +contextual [h]

@[simp] theorem keeps_lockSetEnd {o0 : State} (s : State) (h : Keeps o0 s) : Keeps o0 (lockSetEnd s) := by
  simp only [lockSetEnd]
  (repeat' split) <;> first | with_reducible exact h | simp (maxDischargeDepth := 30) +contextual [h]

@[simp] theorem keeps_frzCount {o0 : State} (f : Nat) (s : State) (h : Keeps o0 s) : Keeps o0 (frzCount f s) := by
  simp only [frzCount]
  (repeat' split) <;> first | with_reducible exact h | simp (maxDischargeDepth := 30) [h]

@[simp] theorem keeps_finish {o0 : State} (id : CmdId) (st : Status) (dw0 dw1 : W32) (s : State) (h : Keeps o0 s) : Keeps o0 (finish id st dw0 dw1 s) := by
  simp (maxDischargeDepth := 30) [finish, h]

@[simp] theorem keeps_finishSt {o0 : State} (id : CmdId) (st : Status) (s : State) (h : Keeps o0 s) : Keeps o0 (finishSt id st s) := by
  simp (maxDischargeDepth := 30) [finishSt, h]

@[simp] theorem keeps_abortsGo {o0 : State} (s : State) (h : Keeps o0 s) : Keeps o0 (abortsGo s) := by
  simp only [abortsGo]
  (repeat' split) <;> first | with_reducible exact h | simp (maxDischargeDepth := 30) +contextual [keeps_foldl, h]

@[simp] theorem keeps_errEntry {o0 : State} (id : CmdId) (st : Status) (lba ns : Nat) (s : State) (h : Keeps o0 s) : Keeps o0 (errEntry id st lba ns s) := h

@[simp] theorem keeps_aerPost {o0 : State} (f : Nat) (ent : Cqe) (s : State) (h : Keeps o0 s) : Keeps o0 (aerPost f ent s) := by
  simp only [aerPost]
  (repeat' split) <;> first | with_reducible exact h | simp (maxDischargeDepth := 30) [h]

@[simp] theorem keeps_aerComplete {o0 : State} (f cid : Nat) (e : Ev) (s : State) (h : Keeps o0 s) : Keeps o0 (aerComplete f cid e s) := by
  simp (maxDischargeDepth := 30) [aerComplete, h]

@[simp] theorem keeps_postEvent {o0 : State} (typ info log : Nat) (f : Nat) (s : State) (h : Keeps o0 s) : Keeps o0 (postEvent typ info log f s) := by
  simp only [postEvent]
  (repeat' split) <;> first | with_reducible exact h | simp (maxDischargeDepth := 30) [h]

@[simp] theorem keeps_postEventAll {o0 : State} (typ info log : Nat) (s : State) (h : Keeps o0 s) : Keeps o0 (postEventAll typ info log s) := by
  simp (maxDischargeDepth := 30) +contextual [postEventAll, keeps_foldl, h]

@[simp] theorem keeps_healthLog {o0 : State} (e : HEnt) (s : State) (h : Keeps o0 s) : Keeps o0 (healthLog e s) := h

@[simp] theorem keeps_ventLog {o0 : State} (e : VEnt) (s : State) (h : Keeps o0 s) : Keeps o0 (ventLog e s) := h

@[simp] theorem keeps_thermalLog {o0 : State} (e : TEnt) (s : State) (h : Keeps o0 s) : Keeps o0 (thermalLog e s) := h

@[simp] theorem keeps_causeOn {o0 : State} (n : Nat) (s : State) (h : Keeps o0 s) : Keeps o0 (causeOn n s) := by
  simp only [causeOn]
  (repeat' split) <;> first | with_reducible exact h | simp (maxDischargeDepth := 30) [h]

@[simp] theorem keeps_causeOff {o0 : State} (n : Nat) (s : State) (h : Keeps o0 s) : Keeps o0 (causeOff n s) := by
  simp only [causeOff]
  (repeat' split) <;> first | with_reducible exact h | simp (maxDischargeDepth := 30) [h]

@[simp] theorem keeps_zoneChanged {o0 : State} (ns z : Nat) (s : State) (h : Keeps o0 s) : Keeps o0 (zoneChanged ns z s) := by
  simp only [zoneChanged]
  (repeat' split) <;> first | with_reducible exact h | simp (maxDischargeDepth := 30) [h]

@[simp] theorem keeps_warnCheck {o0 : State} (ns z : Nat) (s : State) (h : Keeps o0 s) : Keeps o0 (warnCheck ns z s) := by
  simp only [warnCheck]
  (repeat' split) <;> first | with_reducible exact h | simp (maxDischargeDepth := 30) [h]

@[simp] theorem keeps_clearPoison {o0 : State} (hit : LineData → Bool) (s : State) (h : Keeps o0 s) : Keeps o0 (clearPoison hit s) := h

@[simp] theorem keeps_cachePut {o0 : State} (b : CBlk) (s : State) (h : Keeps o0 s) : Keeps o0 (cachePut b s) := h

@[simp] theorem keeps_cacheData {o0 : State} (ns f t ver : Nat) (gen : BitVec 16) (n lba : Nat) (d : List Byte) (s : State) (h : Keeps o0 s) :
    Keeps o0 (cacheData ns f t ver gen n lba d s) := by
  induction n generalizing lba d s with
  | zero => exact h
  | succ n ih => exact ih _ _ _ (keeps_cachePut _ _ h)

@[simp] theorem keeps_cacheDrop {o0 : State} (ns lba n : Nat) (s : State) (h : Keeps o0 s) : Keeps o0 (cacheDrop ns lba n s) := h

@[simp] theorem keeps_discardWrite {o0 : State} (c : Cmd) (s : State) (h : Keeps o0 s) : Keeps o0 (discardWrite c s) := by
  simp only [discardWrite]
  (repeat' split) <;> first | with_reducible exact h | simp (maxDischargeDepth := 30) [h]

@[simp] theorem keeps_markZeroized {o0 : State} (ks : Nat → Bool) (s : State) (h : Keeps o0 s) : Keeps o0 (markZeroized ks s) := h

@[simp] theorem keeps_dropSlotData {o0 : State} (ks : Nat → Bool) (s : State) (h : Keeps o0 s) : Keeps o0 (dropSlotData ks s) := by
  simp only [dropSlotData]
  (repeat' split) <;> first | with_reducible exact h | simp (maxDischargeDepth := 30) +contextual [keeps_foldl, h]

@[simp] theorem keeps_failSlotWrites {o0 : State} (ks : Nat → Bool) (s : State) (h : Keeps o0 s) : Keeps o0 (failSlotWrites ks s) := by
  simp only [failSlotWrites]
  (repeat' split) <;> first | with_reducible exact h | simp (maxDischargeDepth := 30) +contextual [keeps_foldl, keeps_foldr, h]

@[simp] theorem keeps_recordAs {o0 : State} (f : Keys → Keys) (s : State) (h : Keeps o0 s) : Keeps o0 (recordAs f s) := h

@[simp] theorem keeps_recordVault {o0 : State} (s : State) (h : Keeps o0 s) : Keeps o0 (recordVault s) := h

@[simp] theorem keeps_resetLast {o0 : State} (kind func : Nat) (s : State) (h : Keeps o0 s) : Keeps o0 (resetLast kind func s) := h

@[simp] theorem keeps_vDefaults {o0 : State} (s : State) (h : Keeps o0 s) : Keeps o0 (vDefaults s) := by
  simp (maxDischargeDepth := 30) [vDefaults, h]

@[simp] theorem keeps_opsOld {o0 : State} (fs : Nat → Bool) (s : State) (h : Keeps o0 s) : Keeps o0 (opsOld fs s) := h

@[simp] theorem keeps_markKept {o0 : State} (mine : List Cmd) (s : State) (h : Keeps o0 s) : Keeps o0 (markKept mine s) := h

@[simp] theorem keeps_abandon {o0 : State} (fs : Nat → Bool) (s : State) (h : Keeps o0 s) : Keeps o0 (abandon fs s) := by
  simp only [abandon]
  (repeat' split) <;> first | with_reducible exact h | simp (maxDischargeDepth := 30) +contextual [keeps_foldr, h]

@[simp] theorem keeps_genStep {o0 : State} (f : Nat) (s : State) (h : Keeps o0 s) : Keeps o0 (genStep f s) := h

@[simp] theorem keeps_genStepAll {o0 : State} (s : State) (h : Keeps o0 s) : Keeps o0 (genStepAll s) := by
  unfold genStepAll; generalize tgen 0 1025 (fun f => genOf s f + 1) = t; exact h

@[simp] theorem keeps_dropQueues {o0 : State} (fs : Nat → Bool) (s : State) (h : Keeps o0 s) : Keeps o0 (dropQueues fs s) := h

@[simp] theorem keeps_fnMerge {o0 : State} (kind : Nat) (f : Nat) (s : State) (h : Keeps o0 s) : Keeps o0 (fnMerge kind f s) := by
  simp only [fnMerge]
  (repeat' split) <;> first | with_reducible exact h | simp (maxDischargeDepth := 30) [h]

@[simp] theorem keeps_vfReset {o0 : State} (kind f : Nat) (s : State) (h : Keeps o0 s) : Keeps o0 (vfReset kind f s) := by
  unfold vfReset
  split
  · exact keeps_fnMerge (h := h) ..
  · split
    · exact keeps_modFn (h := h) ..
    · extract_lets fs s1 s2 s3
      have h1 : Keeps o0 s1 := keeps_abandon (h := h) ..
      clear_value s1
      have h2 : Keeps o0 s2 := keeps_dropQueues (h := keeps_opsOld (h := keeps_genStep (h := h1) ..) ..) ..
      clear_value s2
      have h3 : Keeps o0 s3 := keeps_fnMerge (h := keeps_modFn (h := h2) ..) ..
      clear_value s3
      exact keeps_resetLast (h := (h3 : Keeps o0 { s3 with wvVf := _ })) ..

@[simp] theorem keeps_coEnd {o0 : State} (s : State) (h : Keeps o0 s) : Keeps o0 (coEnd s) := h

@[simp] theorem keeps_pfMerge {o0 : State} (kind : Nat) (s : State) (h : Keeps o0 s) : Keeps o0 (pfMerge kind s) := by
  simp only [pfMerge]
  (repeat' split) <;> first | with_reducible exact h | simp (maxDischargeDepth := 30) [h]

@[simp] theorem keeps_allReset {o0 : State} (kind : Nat) (s : State) (h : Keeps o0 s) : Keeps o0 (allReset kind s) := by
  simp only [allReset]
  (repeat' split) <;> first | with_reducible exact h | simp (maxDischargeDepth := 30) [h]

@[simp] theorem keeps_drainDone {o0 : State} (f : Nat) (s : State) (h : Keeps o0 s) : Keeps o0 (drainDone f s) := by
  simp only [drainDone]
  (repeat' split) <;> first | with_reducible exact h | simp (maxDischargeDepth := 30) [h]

@[simp] theorem keeps_flrEnd {o0 : State} (f : Nat) (s : State) (h : Keeps o0 s) : Keeps o0 (flrEnd f s) := by
  simp only [flrEnd]
  (repeat' split) <;> first | with_reducible exact h | simp (maxDischargeDepth := 30) [h]

@[simp] theorem keeps_destroyTenant {o0 : State} (t : Nat) (s : State) (h : Keeps o0 s) : Keeps o0 (destroyTenant t s) := by
  simp (maxDischargeDepth := 30) [destroyTenant, h]

@[simp] theorem keeps_retryFn {o0 : State} (s : State) (f kind : Nat) (h : Keeps o0 s) : Keeps o0 (retryFn s f kind) := by
  simp only [retryFn]
  (repeat' split) <;> first | with_reducible exact h | simp (maxDischargeDepth := 30) [h]

@[simp] theorem keeps_retryResets {o0 : State} (s : State) (h : Keeps o0 s) : Keeps o0 (retryResets s) := by
  simp only [retryResets]
  (repeat' split) <;> first | with_reducible exact h | simp (maxDischargeDepth := 30) +contextual [keeps_foldl, h]

@[simp] theorem keeps_mbxEmpty {o0 : State} (s : State) (h : Keeps o0 s) : Keeps o0 (mbxEmpty s) := by
  simp (maxDischargeDepth := 30) [mbxEmpty, h]

@[simp] theorem keeps_mbxLeave {o0 : State} (s : State) (h : Keeps o0 s) : Keeps o0 (mbxLeave s) := h

@[simp] theorem keeps_mbxCut {o0 : State} (cause : Nat) (s : State) (h : Keeps o0 s) : Keeps o0 (mbxCut cause s) := by
  simp only [mbxCut]
  (repeat' split) <;> first | with_reducible exact h | simp (maxDischargeDepth := 30) [h]

@[simp] theorem keeps_timeBack {o0 : State} (s : State) (h : Keeps o0 s) : Keeps o0 (timeBack s) := by
  simp only [timeBack]
  (repeat' split) <;> first | with_reducible exact h | simp (maxDischargeDepth := 30) [h]

@[simp] theorem keeps_timeSlow {o0 : State} (s : State) (h : Keeps o0 s) : Keeps o0 (timeSlow s) := by
  simp only [timeSlow]
  (repeat' split) <;> first | with_reducible exact h | simp (maxDischargeDepth := 30) [h]

@[simp] theorem keeps_epochSync {o0 : State} (s : State) (h : Keeps o0 s) : Keeps o0 (epochSync s) := h

@[simp] theorem keeps_coreLost {o0 : State} (s : State) (h : Keeps o0 s) : Keeps o0 (coreLost s) := by
  simp only [coreLost]
  (repeat' split) <;> first | with_reducible exact h | simp (maxDischargeDepth := 30) [h]

@[simp] theorem keeps_aonLost {o0 : State} (s : State) (h : Keeps o0 s) : Keeps o0 (aonLost s) := by
  simp (maxDischargeDepth := 30) [aonLost, h]

@[simp] theorem keeps_capTest {o0 : State} (s : State) (h : Keeps o0 s) : Keeps o0 (capTest s) := by
  simp only [capTest]
  (repeat' split) <;> first | with_reducible exact h | simp (maxDischargeDepth := 30) [h]

@[simp] theorem keeps_capTestKept {o0 : State} (s : State) (h : Keeps o0 s) : Keeps o0 (capTestKept s) := by
  simp only [capTestKept]
  (repeat' split) <;> first | with_reducible exact h | simp (maxDischargeDepth := 30) [h]

@[simp] theorem keeps_capTestCut {o0 : State} (s : State) (h : Keeps o0 s) : Keeps o0 (capTestCut s) := by
  simp only [capTestCut]
  (repeat' split) <;> first | with_reducible exact h | simp (maxDischargeDepth := 30) [h]

@[simp] theorem keeps_leaveRun {o0 : State} (m : Mode) (s : State) (h : Keeps o0 s) : Keeps o0 (leaveRun m s) := by
  simp only [leaveRun]
  (repeat' split) <;> first | with_reducible exact h | simp (maxDischargeDepth := 30) [h]

@[simp] theorem keeps_wakeRecord {o0 : State} (src ch fr cycles : Nat) (s : State) (h : Keeps o0 s) : Keeps o0 (wakeRecord src ch fr cycles s) := h

@[simp] theorem keeps_exitBegin {o0 : State} (s : State) (h : Keeps o0 s) : Keeps o0 (exitBegin s) := h

@[simp] theorem keeps_psBegin {o0 : State} (n : Nat) (w : Option PsWaiter) (s : State) (h : Keeps o0 s) : Keeps o0 (psBegin n w s) := by
  simp only [psBegin]
  (repeat' split) <;> first | with_reducible exact h | simp (maxDischargeDepth := 30) +contextual [h]

@[simp] theorem keeps_psCmdDone {o0 : State} (id : CmdId) (s : State) (h : Keeps o0 s) : Keeps o0 (psCmdDone id s) := by
  simp (maxDischargeDepth := 30) [psCmdDone, h]

@[simp] theorem keeps_psTake {o0 : State} (s : State) (h : Keeps o0 s) : Keeps o0 (psTake s) := by
  simp only [psTake]
  (repeat' split) <;> first | with_reducible exact h | simp (maxDischargeDepth := 30) [h]

@[simp] theorem keeps_afterLong {o0 : State} (s : State) (h : Keeps o0 s) : Keeps o0 (afterLong s) := by
  simp only [afterLong]
  (repeat' split) <;> first | with_reducible exact h | simp (maxDischargeDepth := 30) [h]

@[simp] theorem keeps_mbxDone {o0 : State} (res : List (Nat × W32)) (s : State) (h : Keeps o0 s) : Keeps o0 (mbxDone res s) := by
  simp only [mbxDone]
  (repeat' split) <;> first | with_reducible exact h | simp (maxDischargeDepth := 30) [h]

@[simp] theorem keeps_mbxKill {o0 : State} (code arg obj : Nat) (s : State) (h : Keeps o0 s) : Keeps o0 (mbxKill code arg obj s) := by
  simp only [mbxKill]
  (repeat' split) <;> first | with_reducible exact h | simp (maxDischargeDepth := 30) [h]

@[simp] theorem keeps_mbxFail {o0 : State} (code arg obj : Nat) (s : State) (h : Keeps o0 s) : Keeps o0 (mbxFail code arg obj s) := by
  simp only [mbxFail]
  (repeat' split) <;> first | with_reducible exact h | simp (maxDischargeDepth := 30) [h]

@[simp] theorem keeps_psTellAs {o0 : State} (n : Nat) (w : PsWaiter) (s : State) (h : Keeps o0 s) : Keeps o0 (psTellAs n w s) := by
  simp only [psTellAs]
  (repeat' split) <;> first | with_reducible exact h | simp (maxDischargeDepth := 30) +contextual [h]

@[simp] theorem keeps_psTell {o0 : State} (w : PsWaiter) (s : State) (h : Keeps o0 s) : Keeps o0 (psTell w s) := by
  simp (maxDischargeDepth := 30) [psTell, h]

@[simp] theorem keeps_psTellAll {o0 : State} (s : State) (h : Keeps o0 s) : Keeps o0 (psTellAll s) := by
  simp only [psTellAll]
  (repeat' split) <;> first | with_reducible exact h | simp (maxDischargeDepth := 30) +contextual [keeps_foldl, h]

@[simp] theorem keeps_psRequest {o0 : State} (n : Nat) (w : Option PsWaiter) (s : State) (h : Keeps o0 s) : Keeps o0 (psRequest n w s) := by
  simp only [psRequest]
  (repeat' split) <;> first | with_reducible exact h | simp (maxDischargeDepth := 30) [h]

@[simp] theorem keeps_wakeDoze {o0 : State} (src : Nat) (s : State) (h : Keeps o0 s) : Keeps o0 (wakeDoze src s) := by
  simp only [wakeDoze]
  (repeat' split) <;> first | with_reducible exact h | simp (maxDischargeDepth := 30) [h]

@[simp] theorem keeps_wakeWatch {o0 : State} (src ch : Nat) (s : State) (h : Keeps o0 s) : Keeps o0 (wakeWatch src ch s) := by
  simp only [wakeWatch]
  (repeat' split) <;> first | with_reducible exact h | simp (maxDischargeDepth := 30) [h]

@[simp] theorem keeps_dozeLeave {o0 : State} (src : Nat) (s : State) (h : Keeps o0 s) : Keeps o0 (dozeLeave src s) := by
  simp only [dozeLeave]
  (repeat' split) <;> first | with_reducible exact h | simp (maxDischargeDepth := 30) [h]

@[simp] theorem keeps_psDrop {o0 : State} (s : State) (h : Keeps o0 s) : Keeps o0 (psDrop s) := h

@[simp] theorem keeps_psAbandon {o0 : State} (s : State) (h : Keeps o0 s) : Keeps o0 (psAbandon s) := by
  simp only [psAbandon]
  (repeat' split) <;> first | with_reducible exact h | simp (maxDischargeDepth := 30) [h]

@[simp] theorem keeps_enterRun {o0 : State} (s : State) (h : Keeps o0 s) : Keeps o0 (enterRun s) := by
  simp (maxDischargeDepth := 30) [enterRun, h]

@[simp] theorem keeps_fastSet {o0 : State} (s : State) (h : Keeps o0 s) : Keeps o0 (fastSet s) := h

@[simp] theorem keeps_ventCut {o0 : State} (s : State) (r : Run) (h : Keeps o0 s) : Keeps o0 (ventCut s r) := by
  simp only [ventCut]
  (repeat' split) <;> first | with_reducible exact h | simp (maxDischargeDepth := 30) [h]

@[simp] theorem keeps_ventOps {o0 : State} (s : State) (h : Keeps o0 s) : Keeps o0 (ventOps s) := by
  unfold ventOps
  exact (keeps_foldl (o0 := o0) (fun s r hs => keeps_ventCut (h := hs) ..) s.runs h : Keeps o0 (List.foldl _ s s.runs))

@[simp] theorem keeps_ventTestDrop {o0 : State} (s : State) (h : Keeps o0 s) : Keeps o0 (ventTestDrop s) := h

@[simp] theorem keeps_ventMbx {o0 : State} (s : State) (h : Keeps o0 s) : Keeps o0 (ventMbx s) := by
  simp only [ventMbx]
  (repeat' split) <;> first | with_reducible exact h | simp (maxDischargeDepth := 30) [h]

@[simp] theorem keeps_ventPower {o0 : State} (s : State) (h : Keeps o0 s) : Keeps o0 (ventPower s) := by
  simp only [ventPower]
  (repeat' split) <;> first | with_reducible exact h | simp (maxDischargeDepth := 30) [h]

@[simp] theorem keeps_holdupIso {o0 : State} (on : Bool) (s : State) (h : Keeps o0 s) : Keeps o0 (holdupIso on s) := h

@[simp] theorem keeps_shutHalt {o0 : State} (s : State) (h : Keeps o0 s) : Keeps o0 (shutHalt s) := by
  simp only [shutHalt]
  (repeat' split) <;> first | with_reducible exact h | simp (maxDischargeDepth := 30) [h]

@[simp] theorem keeps_ventClose {o0 : State} (v : VentRun) (s : State) (h : Keeps o0 s) : Keeps o0 (ventClose v s) := by
  simp only [ventClose]
  (repeat' split) <;> first | with_reducible exact h | simp (maxDischargeDepth := 30) [h]

@[simp] theorem keeps_ventEnter {o0 : State} (cause : Nat) (shut perst : Bool) (s : State) (h : Keeps o0 s) : Keeps o0 (ventEnter cause shut perst s) := by
  simp only [ventEnter]
  (repeat' split) <;> first | with_reducible exact h | simp (maxDischargeDepth := 30) [h]

@[simp] theorem keeps_tenantResetEnd {o0 : State} (s : State) (h : Keeps o0 s) : Keeps o0 (tenantResetEnd s) := by
  simp only [tenantResetEnd]
  (repeat' split) <;> first | with_reducible exact h | simp (maxDischargeDepth := 30) +contextual [h]

@[simp] theorem keeps_mbxResume {o0 : State} (s : State) (h : Keeps o0 s) : Keeps o0 (mbxResume s) := by
  simp only [mbxResume]
  (repeat' split) <;> first | with_reducible exact h | simp (maxDischargeDepth := 30) +contextual [h]

@[simp] theorem keeps_ventMode {o0 : State} (s : State) (h : Keeps o0 s) : Keeps o0 (ventMode s) := by
  simp only [ventMode]
  (repeat' split) <;> first | with_reducible exact h | simp (maxDischargeDepth := 30) [h]

@[simp] theorem keeps_actPaused {o0 : State} (dt : Nat) (s : State) (h : Keeps o0 s) : Keeps o0 (actPaused dt s) := h

@[simp] theorem keeps_ventReturn {o0 : State} (v : VentRun) (s : State) (h : Keeps o0 s) : Keeps o0 (ventReturn v s) := by
  simp only [ventReturn]
  (repeat' split) <;> first | with_reducible exact h | simp (maxDischargeDepth := 30) [h]

@[simp] theorem keeps_waitsEnd {o0 : State} (s : State) (h : Keeps o0 s) : Keeps o0 (waitsEnd s) := by
  simp only [waitsEnd]
  (repeat' split) <;> first | with_reducible exact h | simp (maxDischargeDepth := 30) +contextual [keeps_foldl, h]

@[simp] theorem keeps_sessionsEnd {o0 : State} (s : State) (h : Keeps o0 s) : Keeps o0 (sessionsEnd s) := h

@[simp] theorem keeps_cryptoError {o0 : State} (fail engine : Nat) (pass : List Nat) (s : State) (h : Keeps o0 s) : Keeps o0 (cryptoError fail engine pass s) := by
  simp only [cryptoError]
  (repeat' split) <;> first | with_reducible exact h | simp (maxDischargeDepth := 30) [h]

@[simp] theorem keeps_modBlk {o0 : State} (l b : Nat) (g : Blk → Blk) (s : State) (h : Keeps o0 s) : Keeps o0 (modBlk l b g s) := h

@[simp] theorem keeps_takeBlk {o0 : State} (l b : Nat) (s : State) (h : Keeps o0 s) : Keeps o0 (takeBlk l b s) := h

@[simp] theorem keeps_queueOp {o0 : State} (o : Op) (s : State) (h : Keeps o0 s) : Keeps o0 (queueOp o s) := h

@[simp] theorem keeps_queueErase {o0 : State} (l b : Nat) (s : State) (h : Keeps o0 s) : Keeps o0 (queueErase l b s) := h

@[simp] theorem keeps_giveBlk {o0 : State} (l b : Nat) (s : State) (h : Keeps o0 s) : Keeps o0 (giveBlk l b s) := h

@[simp] theorem keeps_spareCheck {o0 : State} (s : State) (h : Keeps o0 s) : Keeps o0 (spareCheck s) := by
  simp only [spareCheck]
  (repeat' split) <;> first | with_reducible exact h | simp (maxDischargeDepth := 30) [h]

@[simp] theorem keeps_lunCheck {o0 : State} (s : State) (h : Keeps o0 s) : Keeps o0 (lunCheck s) := by
  simp only [lunCheck]
  (repeat' split) <;> first | with_reducible exact h | simp (maxDischargeDepth := 30) [h]

@[simp] theorem keeps_parFix {o0 : State} (l : Nat) (s : State) (h : Keeps o0 s) : Keeps o0 (parFix l s) := by
  simp only [parFix]
  (repeat' split) <;> first | with_reducible exact h | simp (maxDischargeDepth := 30) [h]

@[simp] theorem keeps_retireBlk {o0 : State} (l b : Nat) (s : State) (h : Keeps o0 s) : Keeps o0 (retireBlk l b s) := by
  simp (maxDischargeDepth := 30) [retireBlk, h]

@[simp] theorem keeps_journalHomes {o0 : State} (s : State) (h : Keeps o0 s) : Keeps o0 (journalHomes s) := h

theorem keeps_takeBand {o0 : State} (arch : Bool) (l : List Nat) (s : State) (h : Keeps o0 s) :
    ∀ r, takeBand arch l s = some r → Keeps o0 r.2 := by
  induction l generalizing s with
  | nil => intro r hr; cases hr; exact h
  | cons l t ih =>
    intro r hr
    simp only [takeBand] at hr
    split at hr
    · cases hr
    · split at hr
      · cases hr
      · next hx => cases hr; have hk := ih _ (keeps_takeBlk _ _ _ h) _ hx; exact hk

@[simp] theorem keeps_dropBand {o0 : State} (b : Band) (s : State) (h : Keeps o0 s) : Keeps o0 (dropBand b s) := by
  simp only [dropBand]
  (repeat' split) <;> first | with_reducible exact h | simp (maxDischargeDepth := 30) +contextual [keeps_foldl, h]

@[simp] theorem keeps_modJob {o0 : State} (n : Nat) (g : Job → Job) (s : State) (h : Keeps o0 s) : Keeps o0 (modJob n g s) := h

@[simp] theorem keeps_queueProg {o0 : State} (w : Work) (ns l : Nat) (js : List Job) (s : State) (h : Keeps o0 s) : Keeps o0 (queueProg w ns l js s) := h

@[simp] theorem keeps_issuePage {o0 : State} (ns z ready : Nat) (force : Bool) (k : Nat) (s : State) (h : Keeps o0 s) : Keeps o0 (issuePage ns z ready force k s) := by
  simp only [issuePage]
  (repeat' split) <;> first | with_reducible exact h | simp (maxDischargeDepth := 30) +contextual [h]

@[simp] theorem keeps_issueParity {o0 : State} (ns z ready : Nat) (force : Bool) (u : Nat) (s : State) (h : Keeps o0 s) : Keeps o0 (issueParity ns z ready force u s) := by
  simp only [issueParity]
  (repeat' split) <;> first | with_reducible exact h | simp (maxDischargeDepth := 30) +contextual [h]

@[simp] theorem keeps_issueZone {o0 : State} (ns z : Nat) (s : State) (h : Keeps o0 s) : Keeps o0 (issueZone ns z s) := by
  simp only [issueZone]
  (repeat' split) <;> first | with_reducible exact h | simp (maxDischargeDepth := 30) +contextual [keeps_foldl, h]

@[simp] theorem keeps_setPos {o0 : State} (ns z p : Nat) (nb : Nat × Nat) (s : State) (h : Keeps o0 s) : Keeps o0 (setPos ns z p nb s) := by
  simp only [setPos]
  (repeat' split) <;> first | with_reducible exact h | simp (maxDischargeDepth := 30) +contextual [h]

@[simp] theorem keeps_modReb {o0 : State} (n : Nat) (g : Reb → Reb) (s : State) (h : Keeps o0 s) : Keeps o0 (modReb n g s) := h

@[simp] theorem keeps_rebDrop {o0 : State} (hit : Reb → Bool) (s : State) (h : Keeps o0 s) : Keeps o0 (rebDrop hit s) := h

@[simp] theorem keeps_rebStart {o0 : State} (ns z row p : Nat) (who : RebFor) (o : Op) (s : State) (h : Keeps o0 s) : Keeps o0 (rebStart ns z row p who o s) := by
  simp only [rebStart]
  (repeat' split) <;> first | with_reducible exact h | simp (maxDischargeDepth := 30) +contextual [keeps_foldl, h]

@[simp] theorem keeps_relDrop {o0 : State} (n : Nat) (s : State) (h : Keeps o0 s) : Keeps o0 (relDrop n s) := h

@[simp] theorem keeps_wbUpdate {o0 : State} (s : State) (h : Keeps o0 s) : Keeps o0 (wbUpdate s) := by
  simp only [wbUpdate]
  (repeat' split) <;> first | with_reducible exact h | simp (maxDischargeDepth := 30) [h]

@[simp] theorem keeps_queueJob {o0 : State} (w : Work) (q : OpQueue) (j : Job) (s : State) (h : Keeps o0 s) : Keeps o0 (queueJob w q j s) := h

@[simp] theorem keeps_storeFrame {o0 : State} (n : Nat) (j : Job) (s : State) (h : Keeps o0 s) : Keeps o0 (storeFrame n j s) := h

@[simp] theorem keeps_storeReady {o0 : State} (l : List (Nat × Job)) (s : State) (h : Keeps o0 s) : Keeps o0 (storeReady l s) := by
  induction l generalizing s with
  | nil => exact h
  | cons p l ih =>
    simp only [storeReady]
    split
    · exact ih _ (keeps_storeFrame (h := h) ..)
    · exact ih _ h

@[simp] theorem keeps_placeFrame {o0 : State} (n : Nat) (frame : List Byte) (s : State) (h : Keeps o0 s) : Keeps o0 (placeFrame n frame s) := by
  unfold placeFrame
  split
  · exact h
  · exact keeps_issueZone (h := keeps_storeReady (h := keeps_modJob (h := h) ..) ..) ..

@[simp] theorem keeps_orderJob {o0 : State} (n : Nat) (j : Job) (s : State) (h : Keeps o0 s) : Keeps o0 (orderJob n j s) := by
  simp only [orderJob]
  (repeat' split) <;> first | with_reducible exact h | simp (maxDischargeDepth := 30) +contextual [h]

@[simp] theorem keeps_orderJobs {o0 : State} (l : List (Nat × Job)) (s : State) (h : Keeps o0 s) : Keeps o0 (orderJobs l s) := by
  induction l generalizing s with
  | nil => exact h
  | cons p l ih =>
    simp only [orderJobs]
    (repeat' split) <;> first | exact h | exact ih _ h | exact ih _ (keeps_orderJob _ _ _ h)

@[simp] theorem keeps_orderZone {o0 : State} (ns z : Nat) (s : State) (h : Keeps o0 s) : Keeps o0 (orderZone ns z s) := by
  simp (maxDischargeDepth := 30) [orderZone, h]

@[simp] theorem keeps_copyIndex {o0 : State} (ns z : Nat) (s : State) (h : Keeps o0 s) : Keeps o0 (copyIndex ns z s) := by
  simp only [copyIndex]
  (repeat' split) <;> first | with_reducible exact h | simp (maxDischargeDepth := 30) [h]

@[simp] theorem keeps_writeIndex {o0 : State} (ns z : Nat) (s : State) (h : Keeps o0 s) : Keeps o0 (writeIndex ns z s) := by
  simp only [writeIndex]
  (repeat' split) <;> first | with_reducible exact h | simp (maxDischargeDepth := 30) +contextual [h]

@[simp] theorem keeps_cutFrame {o0 : State} (ns z f n : Nat) (final redo : Bool) (s : State) (h : Keeps o0 s) : Keeps o0 (cutFrame ns z f n final redo s) := by
  simp only [cutFrame]
  (repeat' split) <;> first | with_reducible exact h | simp (maxDischargeDepth := 30) [h]

@[simp] theorem keeps_cutFull {o0 : State} (ns z : Nat) (s : State) (h : Keeps o0 s) : Keeps o0 (cutFull ns z s) := by
  simp (maxDischargeDepth := 30) +contextual [cutFull, keeps_foldl, h]

@[simp] theorem keeps_sealZone {o0 : State} (ns z : Nat) (final : Bool) (s : State) (h : Keeps o0 s) : Keeps o0 (sealZone ns z final s) := by
  simp only [sealZone]
  (repeat' split) <;> first | with_reducible exact h | simp (maxDischargeDepth := 30) +contextual [keeps_foldl, h]

@[simp] theorem keeps_finishAcct {o0 : State} (ns z : Nat) (s : State) (h : Keeps o0 s) : Keeps o0 (finishAcct ns z s) := by
  simp only [finishAcct]
  (repeat' split) <;> first | with_reducible exact h | simp (maxDischargeDepth := 30) [h]

@[simp] theorem keeps_finishData {o0 : State} (ns z : Nat) (s : State) (h : Keeps o0 s) : Keeps o0 (finishData ns z s) := by
  simp (maxDischargeDepth := 30) [finishData, h]

@[simp] theorem keeps_autoFinish {o0 : State} (ns z : Nat) (s : State) (h : Keeps o0 s) : Keeps o0 (autoFinish ns z s) := by
  simp only [autoFinish]
  (repeat' split) <;> first | with_reducible exact h | simp (maxDischargeDepth := 30) [h]

@[simp] theorem keeps_zoneSettle {o0 : State} (ns z : Nat) (s : State) (h : Keeps o0 s) : Keeps o0 (zoneSettle ns z s) := by
  simp (maxDischargeDepth := 30) [zoneSettle, h]

@[simp] theorem keeps_encoded {o0 : State} (n : Nat) (coded : Option (List Byte)) (s : State) (h : Keeps o0 s) : Keeps o0 (encoded n coded s) := by
  unfold encoded
  split
  · exact h
  · exact keeps_zoneSettle (h := keeps_orderZone (h := keeps_modJob (h := h) ..) ..) ..

@[simp] theorem keeps_markCovered {o0 : State} (bs : List Cov) (s : State) (h : Keeps o0 s) : Keeps o0 (markCovered bs s) := h

@[simp] theorem keeps_fuaCheck {o0 : State} (s : State) (h : Keeps o0 s) : Keeps o0 (fuaCheck s) := by
  simp (maxDischargeDepth := 30) +contextual [fuaCheck, keeps_foldl, h]

@[simp] theorem keeps_poolRelease {o0 : State} (ns : Nat) (lbas : List Nat) (s : State) (h : Keeps o0 s) : Keeps o0 (poolRelease ns lbas s) := by
  simp only [poolRelease]
  (repeat' split) <;> first | with_reducible exact h | simp (maxDischargeDepth := 30) [h]

@[simp] theorem keeps_poisonList {o0 : State} (ns : Nat) (s : State) (lba : Nat) (h : Keeps o0 s) : Keeps o0 (poisonList ns s lba) := by
  simp only [poisonList]
  (repeat' split) <;> first | with_reducible exact h | simp (maxDischargeDepth := 30) [h]

@[simp] theorem keeps_releaseBlks {o0 : State} (ns : Nat) (takes : List (Nat × Nat)) (s : State) (h : Keeps o0 s) : Keeps o0 (releaseBlks ns takes s) := by
  unfold releaseBlks
  exact keeps_wbUpdate (h := keeps_foldl (fun s l hs => keeps_poisonList (h := hs) ..) _ (keeps_poolRelease (h := h) ..)) ..

@[simp] theorem keeps_countMedia {o0 : State} (ns bytes : Nat) (s : State) (h : Keeps o0 s) : Keeps o0 (countMedia ns bytes s) := by
  simp only [countMedia]
  (repeat' split) <;> first | with_reducible exact h | simp (maxDischargeDepth := 30) [h]

@[simp] theorem keeps_confirmJob {o0 : State} (n : Nat) (j : Job) (s : State) (h : Keeps o0 s) : Keeps o0 (confirmJob n j s) := by
  unfold confirmJob
  exact keeps_countMedia (h := keeps_releaseBlks (h := h) ..) ..

@[simp] theorem keeps_issueBands {o0 : State} (ns : Nat) (bs : List Nat) (s : State) (h : Keeps o0 s) : Keeps o0 (issueBands ns bs s) := by
  simp (maxDischargeDepth := 30) +contextual [issueBands, keeps_foldl, h]

theorem keeps_poolBand {o0 : State} (ns : Nat) (n : Ns) (pno : Nat) (s : State) (h : Keeps o0 s) :
    ∀ r, poolBand ns n pno s = some r → Keeps o0 r.2 := by
  intro r hr
  simp only [poolBand] at hr
  split at hr
  · cases hr; exact h
  · split at hr
    · cases hr
    · have h1 : Keeps o0 ((poolBands s ns).foldl (fun s i => modZone ns i (fun z => { z with st := .full }) s) s) :=
        keeps_foldl (fun s i hs => keeps_modZone (h := hs) ..) _ h
      obtain ⟨u, hu, rfl⟩ := Option.map_eq_some_iff.1 hr
      exact keeps_issueBands (h := keeps_modZone (h := keeps_takeBand _ _ _ h1 _ hu) ..) ..

@[simp] theorem keeps_orderConv {o0 : State} (ns : Nat) (s : State) (h : Keeps o0 s) : Keeps o0 (orderConv ns s) := by
  unfold orderConv
  split
  · exact h
  · refine keeps_foldl (fun s e hs => ?_) _ h
    split
    · exact hs
    · split
      · exact hs
      · next hp => exact keeps_orderJob (h := keeps_modJob (h := keeps_poolBand _ _ _ _ hs _ hp) ..) ..

@[simp] theorem keeps_convCut {o0 : State} (j : Job) (s : State) (h : Keeps o0 s) : Keeps o0 (convCut j s) := by
  simp (maxDischargeDepth := 30) [convCut, h]

@[simp] theorem keeps_convJob {o0 : State} (ns lba ver : Nat) (s : State) (h : Keeps o0 s) : Keeps o0 (convJob ns lba ver s) := by
  simp only [convJob]
  (repeat' split) <;> first | with_reducible exact h | simp (maxDischargeDepth := 30) [h]

@[simp] theorem keeps_zoneOffline {o0 : State} (ns z : Nat) (s : State) (h : Keeps o0 s) : Keeps o0 (zoneOffline ns z s) := by
  simp (maxDischargeDepth := 30) [zoneOffline, h]

@[simp] theorem keeps_offlineCheck {o0 : State} (ns z : Nat) (s : State) (h : Keeps o0 s) : Keeps o0 (offlineCheck ns z s) := by
  simp only [offlineCheck]
  (repeat' split) <;> first | with_reducible exact h | simp (maxDischargeDepth := 30) [h]

@[simp] theorem keeps_losePages {o0 : State} (ns z : Nat) (gone : Nat → Bool) (s : State) (h : Keeps o0 s) : Keeps o0 (losePages ns z gone s) := by
  simp only [losePages]
  (repeat' split) <;> first | with_reducible exact h | simp (maxDischargeDepth := 30) +contextual [h]

@[simp] theorem keeps_rowLost {o0 : State} (ns z row p : Nat) (s : State) (h : Keeps o0 s) : Keeps o0 (rowLost ns z row p s) := by
  simp only [rowLost]
  (repeat' split) <;> first | with_reducible exact h | simp (maxDischargeDepth := 30) [h]

@[simp] theorem keeps_movedIn {o0 : State} (n : Nat) (s : State) (h : Keeps o0 s) : Keeps o0 (movedIn n s) := by
  simp only [movedIn]
  (repeat' split) <;> first | with_reducible exact h | simp (maxDischargeDepth := 30) +contextual [h]

@[simp] theorem keeps_moveGot {o0 : State} (n k : Nat) (s : State) (h : Keeps o0 s) : Keeps o0 (moveGot n k s) := by
  simp only [moveGot]
  (repeat' split) <;> first | with_reducible exact h | simp (maxDischargeDepth := 30) [h]

@[simp] theorem keeps_moveLost {o0 : State} (n : Nat) (s : State) (h : Keeps o0 s) : Keeps o0 (moveLost n s) := by
  simp only [moveLost]
  (repeat' split) <;> first | with_reducible exact h | simp (maxDischargeDepth := 30) [h]

@[simp] theorem keeps_moveIssue {o0 : State} (n k : Nat) (s : State) (h : Keeps o0 s) : Keeps o0 (moveIssue n k s) := by
  simp only [moveIssue]
  (repeat' split) <;> first | with_reducible exact h | simp (maxDischargeDepth := 30) +contextual [h]

@[simp] theorem keeps_moveConv {o0 : State} (ns lba : Nat) (s : State) (h : Keeps o0 s) : Keeps o0 (moveConv ns lba s) := by
  simp only [moveConv]
  (repeat' split) <;> first | with_reducible exact h | simp (maxDischargeDepth := 30) +contextual [keeps_foldl, h]

@[simp] theorem keeps_reclaim {o0 : State} (ns : Nat) (s : State) (h : Keeps o0 s) : Keeps o0 (reclaim ns s) := by
  unfold reclaim
  split
  · exact h
  · split
    · exact h
    · extract_lets closed reads s1
      have h1 : Keeps o0 s1 := by
        refine keeps_foldl (fun s i hs => ?_) _ h
        split
        · exact keeps_modZone (h := keeps_dropBand (h := hs) ..) ..
        · exact hs
      clear_value s1
      split
      · exact h1
      · split
        · exact h1
        · split
          · exact h1
          · dsimp only
            split
            · exact keeps_foldl (fun s l hs => keeps_moveConv (h := hs) ..) _ h1
            · exact h1

@[simp] theorem keeps_confirmConv {o0 : State} (n : Nat) (j : Job) (s : State) (h : Keeps o0 s) : Keeps o0 (confirmConv n j s) := by
  unfold confirmConv
  extract_lets s1 s2
  have h1 : Keeps o0 s1 := keeps_modConv (h := h) ..
  clear_value s1
  exact keeps_orderConv (h := keeps_reclaim (h := keeps_countMedia (h := keeps_releaseBlks (h := h1) ..) ..) ..) ..

@[simp] theorem keeps_confirmZone {o0 : State} (ns z : Nat) (s : State) (h : Keeps o0 s) : Keeps o0 (confirmZone ns z s) := by
  simp only [confirmZone]
  (repeat' split) <;> first | with_reducible exact h | simp (maxDischargeDepth := 30) +contextual [keeps_foldl, h]

@[simp] theorem keeps_zoneReadOnly {o0 : State} (ns z : Nat) (s : State) (h : Keeps o0 s) : Keeps o0 (zoneReadOnly ns z s) := by
  simp only [zoneReadOnly]
  (repeat' split) <;> first | with_reducible exact h | simp (maxDischargeDepth := 30) [h]

@[simp] theorem keeps_posDead {o0 : State} (ns z p : Nat) (s : State) (h : Keeps o0 s) : Keeps o0 (posDead ns z p s) := by
  unfold posDead
  extract_lets s1 s2 s3 s4
  have h2 : Keeps o0 s2 := by
    have h1 : Keeps o0 s1 := keeps_modZone (h := h) ..
    clear_value s1
    simp only [s2]
    split
    · exact keeps_relDrop (h := h1) ..
    · exact h1
  clear_value s2
  have h4 : Keeps o0 s4 := keeps_zoneReadOnly (s := s3) (h := h2) ..
  clear_value s4
  split
  · exact h4
  · refine keeps_foldl (fun s e hs => ?_) _ h4
    extract_lets j s5 s6
    have h5 : Keeps o0 s5 := hs
    clear_value s5
    split
    · exact keeps_convCut (h := h5) ..
    · refine keeps_cutFrame (h := ?_) ..
      simp only [s6]
      split
      · exact h5
      · exact keeps_modZone (h := h5) ..

@[simp] theorem keeps_relRowProg {o0 : State} (n row : Nat) (s : State) (h : Keeps o0 s) : Keeps o0 (relRowProg n row s) := by
  simp only [relRowProg]
  (repeat' split) <;> first | with_reducible exact h | simp (maxDischargeDepth := 30) [h]

@[simp] theorem keeps_relNext {o0 : State} (n : Nat) (s : State) (h : Keeps o0 s) : Keeps o0 (relNext n s) := by
  simp only [relNext]
  (repeat' split) <;> first | with_reducible exact h | simp (maxDischargeDepth := 30) [h]

@[simp] theorem keeps_relStart {o0 : State} (r : Rel) (s : State) (h : Keeps o0 s) : Keeps o0 (relStart r s) := by
  simp (maxDischargeDepth := 30) [relStart, h]

@[simp] theorem keeps_relocate {o0 : State} (ns z p : Nat) (kind : RelKind) (nb : Nat × Nat) (s : State) (h : Keeps o0 s) : Keeps o0 (relocate ns z p kind nb s) := by
  unfold relocate
  split
  · exact h
  · extract_lets old f s1 rows s2
    have h1 : Keeps o0 s1 := by
      clear_value f old
      simp only [s1]
      split
      · exact keeps_relDrop (h := h) ..
      · exact h
    clear_value s1
    have h2 : Keeps o0 s2 := keeps_setPos (h := h1) ..
    clear_value s2
    split
    · split
      · exact keeps_giveBlk (h := h2) ..
      · exact h2
    · exact keeps_relStart (h := h2) ..

@[simp] theorem keeps_replacePos {o0 : State} (ns z p : Nat) (kind : RelKind) (s : State) (h : Keeps o0 s) : Keeps o0 (replacePos ns z p kind s) := by
  unfold replacePos
  split
  · exact h
  · split
    · exact keeps_posDead (h := h) ..
    · exact keeps_relocate (h := h) ..

@[simp] theorem keeps_loseFrames {o0 : State} (ns z p : Nat) (s : State) (h : Keeps o0 s) : Keeps o0 (loseFrames ns z p s) := by
  simp only [loseFrames]
  (repeat' split) <;> first | with_reducible exact h | simp (maxDischargeDepth := 30) +contextual [h]

@[simp] theorem keeps_lunGone {o0 : State} (l : Nat) (s : State) (h : Keeps o0 s) : Keeps o0 (lunGone l s) := by
  unfold lunGone
  extract_lets ps s1 s2
  have h1 : Keeps o0 s1 := keeps_foldl (fun s e hs => keeps_loseFrames (h := hs) ..) _ h
  clear_value s1
  have h2 : Keeps o0 s2 := keeps_foldl (fun s e hs => keeps_replacePos (h := hs) ..) _ h1
  clear_value s2
  exact keeps_foldl (fun s e hs => keeps_offlineCheck (h := hs) ..) _ h2

@[simp] theorem keeps_lunFail {o0 : State} (l : Nat) (s : State) (h : Keeps o0 s) : Keeps o0 (lunFail l s) := by
  simp (maxDischargeDepth := 30) [lunFail, h]

@[simp] theorem keeps_modR {o0 : State} (n : Nat) (g : RJob → RJob) (s : State) (h : Keeps o0 s) : Keeps o0 (modR n g s) := h

@[simp] theorem keeps_queueR {o0 : State} (w : Work) (q : OpQueue) (r : RJob) (s : State) (h : Keeps o0 s) : Keeps o0 (queueR w q r s) := h

@[simp] theorem keeps_waitDone {o0 : State} (id : CmdId) (lbas : List Nat) (s : State) (h : Keeps o0 s) : Keeps o0 (waitDone id lbas s) := h

@[simp] theorem keeps_readEntries {o0 : State} (c : Cmd) (s : State) (h : Keeps o0 s) : Keeps o0 (readEntries c s) := by
  simp only [readEntries]
  (repeat' split) <;> first | with_reducible exact h | simp (maxDischargeDepth := 30) +contextual [keeps_foldl, h]

@[simp] theorem keeps_readCheck {o0 : State} (id : CmdId) (s : State) (h : Keeps o0 s) : Keeps o0 (readCheck id s) := by
  simp only [readCheck]
  (repeat' split) <;> first | with_reducible exact h | simp (maxDischargeDepth := 30) [h]

@[simp] theorem keeps_failLbas {o0 : State} (id : CmdId) (st : Status) (lbas : List Nat) (s : State) (h : Keeps o0 s) : Keeps o0 (failLbas id st lbas s) := by
  simp only [failLbas]
  (repeat' split) <;> first | with_reducible exact h | simp (maxDischargeDepth := 30) +contextual [keeps_foldl, h]

@[simp] theorem keeps_endR {o0 : State} (n : Nat) (ids : List CmdId) (s : State) (h : Keeps o0 s) : Keeps o0 (endR n ids s) := by
  simp (maxDischargeDepth := 30) +contextual [endR, keeps_foldl, h]

@[simp] theorem keeps_failR {o0 : State} (n : Nat) (st : Status) (s : State) (h : Keeps o0 s) : Keeps o0 (failR n st s) := by
  unfold failR
  split
  · exact h
  · refine keeps_endR (h := keeps_foldl (fun s id hs => ?_) _ h) ..
    split
    · exact keeps_failLbas (h := hs) ..
    · exact hs

@[simp] theorem keeps_deliverR {o0 : State} (n : Nat) (bytes : List Byte) (s : State) (h : Keeps o0 s) : Keeps o0 (deliverR n bytes s) := by
  unfold deliverR
  split
  · exact h
  · refine keeps_endR (h := keeps_foldl (fun s id hs => ?_) _ h) ..
    split
    · exact keeps_foldl (fun s b hb => keeps_sendData (h := hb) ..) _ hs
    · exact hs

@[simp] theorem keeps_payloadReady {o0 : State} (n : Nat) (s : State) (h : Keeps o0 s) : Keeps o0 (payloadReady n s) := by
  simp only [payloadReady]
  (repeat' split) <;> first | with_reducible exact h | simp (maxDischargeDepth := 30) [h]

@[simp] theorem keeps_bytesReady {o0 : State} (n : Nat) (s : State) (h : Keeps o0 s) : Keeps o0 (bytesReady n s) := by
  simp only [bytesReady]
  (repeat' split) <;> first | with_reducible exact h | simp (maxDischargeDepth := 30) [h]

@[simp] theorem keeps_pagesDone {o0 : State} (n : Nat) (s : State) (h : Keeps o0 s) : Keeps o0 (pagesDone n s) := by
  simp only [pagesDone]
  (repeat' split) <;> first | with_reducible exact h | simp (maxDischargeDepth := 30) [h]

@[simp] theorem keeps_pageGot {o0 : State} (n k : Nat) (s : State) (h : Keeps o0 s) : Keeps o0 (pageGot n k s) := by
  simp only [pageGot]
  (repeat' split) <;> first | with_reducible exact h | simp (maxDischargeDepth := 30) [h]

@[simp] theorem keeps_pageRebuilt {o0 : State} (n k : Nat) (s : State) (h : Keeps o0 s) : Keeps o0 (pageRebuilt n k s) := by
  simp only [pageRebuilt]
  (repeat' split) <;> first | with_reducible exact h | simp (maxDischargeDepth := 30) [h]

@[simp] theorem keeps_lostCheck {o0 : State} (ns z : Nat) (s : State) (h : Keeps o0 s) : Keeps o0 (lostCheck ns z s) := by
  simp only [lostCheck]
  (repeat' split) <;> first | with_reducible exact h | simp (maxDischargeDepth := 30) [h]

@[simp] theorem keeps_pageLost {o0 : State} (n : Nat) (s : State) (h : Keeps o0 s) : Keeps o0 (pageLost n s) := by
  simp only [pageLost]
  (repeat' split) <;> first | with_reducible exact h | simp (maxDischargeDepth := 30) [h]

@[simp] theorem keeps_pageRead {o0 : State} (n k : Nat) (s : State) (h : Keeps o0 s) : Keeps o0 (pageRead n k s) := by
  simp only [pageRead]
  (repeat' split) <;> first | with_reducible exact h | simp (maxDischargeDepth := 30) +contextual [h]

@[simp] theorem keeps_readPages {o0 : State} (n : Nat) (s : State) (h : Keeps o0 s) : Keeps o0 (readPages n s) := by
  simp only [readPages]
  (repeat' split) <;> first | with_reducible exact h | simp (maxDischargeDepth := 30) +contextual [keeps_foldl, h]

@[simp] theorem keeps_fltcUse {o0 : State} (key : Nat) (s : State) (h : Keeps o0 s) : Keeps o0 (fltcUse key s) := h

@[simp] theorem keeps_idxHave {o0 : State} (n i : Nat) (s : State) (h : Keeps o0 s) : Keeps o0 (idxHave n i s) := by
  simp only [idxHave]
  (repeat' split) <;> first | with_reducible exact h | simp (maxDischargeDepth := 30) [h]

@[simp] theorem keeps_readIndexes {o0 : State} (l : List Nat) (n : Nat) (copy : Bool) (s : State) (h : Keeps o0 s) :
    Keeps o0 (readIndexes l n copy s) := by
  induction l generalizing copy s with
  | nil => exact keeps_readPages (h := h) ..
  | cons i t ih =>
    unfold readIndexes
    (repeat' (first | split | extract_lets)) <;> first
      | exact h | exact keeps_readPages (h := h) .. | exact ih _ _ (keeps_idxHave (h := h) ..)
      | exact keeps_failR (h := keeps_rowLost (h := h) ..) ..
      | exact keeps_queueOp (h := (h : Keeps o0 { s with fltcMiss := _ })) ..
      | exact keeps_rebStart (h := (h : Keeps o0 { s with fltcMiss := _ })) ..

@[simp] theorem keeps_readIndex {o0 : State} (n : Nat) (copy : Bool) (s : State) (h : Keeps o0 s) : Keeps o0 (readIndex n copy s) := by
  unfold readIndex
  split
  · exact h
  · exact keeps_readIndexes (h := h) ..

@[simp] theorem keeps_indexGot {o0 : State} (n : Nat) (s : State) (h : Keeps o0 s) : Keeps o0 (indexGot n s) := by
  simp only [indexGot]
  (repeat' split) <;> first | with_reducible exact h | simp (maxDischargeDepth := 30) [h]

@[simp] theorem keeps_beginR {o0 : State} (r : RJob) (confirmed : Bool) (s : State) (h : Keeps o0 s) : Keeps o0 (beginR r confirmed s) := by
  simp only [beginR]
  (repeat' split) <;> first | with_reducible exact h | simp (maxDischargeDepth := 30) +contextual [keeps_foldl, h]

@[simp] theorem keeps_readFrame {o0 : State} (id : CmdId) (conv : Bool) (z idx : Nat) (s : State) (h : Keeps o0 s) : Keeps o0 (readFrame id conv z idx s) := by
  simp only [readFrame]
  (repeat' split) <;> first | with_reducible exact h | simp (maxDischargeDepth := 30) [h]

theorem keeps_readBlocks {o0 : State} (id : CmdId) (n : Ns) (k lba : Nat) (s : State) (fs : List (Nat × Nat)) (h : Keeps o0 s) :
    Keeps o0 (readBlocks id n k lba s fs).1 := by
  induction k generalizing lba s fs with
  | zero => exact h
  | succ k ih =>
    simp only [readBlocks]
    (repeat' split) <;> first | exact h | exact ih _ _ _ h | (apply ih; simp [h])

@[simp] theorem keeps_runRead {o0 : State} (id : CmdId) (n : Ns) (s : State) (h : Keeps o0 s) : Keeps o0 (runRead id n s) := by
  unfold runRead
  split
  · exact h
  · next c _ =>
    have hb := keeps_readBlocks id n (cmdBlocks c.e) (cmdSlba c.e) _ []
      (keeps_modCmd id (fun c => { c with phase := .reading, lba := cmdSlba c.e }) s h)
    exact keeps_readCheck (h := keeps_foldl (fun s f hs => keeps_readFrame (h := hs) ..) _ hb) ..

@[simp] theorem keeps_keysEnd {o0 : State} (s : State) (h : Keeps o0 s) : Keeps o0 (keysEnd s) := by
  unfold keysEnd
  split
  · exact h
  · extract_lets mine s1
    have h1 : Keeps o0 s1 := by
      refine keeps_foldl (fun s x hs => ?_) _ h
      split
      · next n _ => exact (keeps_modJob (h := hs) .. : Keeps o0 (modJob n (fun j => { j with key := [] }) s))
      · exact hs
    clear_value s1
    exact keeps_foldl (fun s e hs => keeps_failR (h := hs) ..) _ h1

@[simp] theorem keeps_askLease {o0 : State} (sec k : Nat) (s : State) (h : Keeps o0 s) : Keeps o0 (askLease sec k s) := h

theorem keeps_takeValue {o0 : State} (s : State) (sec k : Nat) (h : Keeps o0 s) : ∀ r, takeValue s sec k = some r → Keeps o0 r.2 := by
  intro r hr
  simp only [takeValue] at hr
  split at hr
  · cases hr
  · cases hr; dsimp only; split <;> simp [h]

@[simp] theorem keeps_giveLease {o0 : State} (sec k : Nat) (s : State) (h : Keeps o0 s) : Keeps o0 (giveLease sec k s) := by
  unfold giveLease
  dsimp only
  split
  · exact h
  · split
    · exact h
    · exact keeps_recordVault (h := keeps_modCip (h := keeps_modSlot (h := h) ..) ..) ..

@[simp] theorem keeps_failBoundReads {o0 : State} (ks : Nat → Bool) (s : State) (h : Keeps o0 s) : Keeps o0 (failBoundReads ks s) := by
  simp (maxDischargeDepth := 30) +contextual [failBoundReads, keeps_foldl, h]

@[simp] theorem keeps_dropDead {o0 : State} (s : State) (h : Keeps o0 s) : Keeps o0 (dropDead s) := h

@[simp] theorem keeps_zeroizeSlots {o0 : State} (ks : Nat → Bool) (s : State) (h : Keeps o0 s) : Keeps o0 (zeroizeSlots ks s) := by
  simp only [zeroizeSlots]
  (repeat' split) <;> first | with_reducible exact h | simp (maxDischargeDepth := 30) [h]

@[simp] theorem keeps_zeroizeAll {o0 : State} (s : State) (h : Keeps o0 s) : Keeps o0 (zeroizeAll s) := by
  simp (maxDischargeDepth := 30) [zeroizeAll, h]

@[simp] theorem keeps_loadKey {o0 : State} (k owner : Nat) (key : List Byte) (s : State) (h : Keeps o0 s) : Keeps o0 (loadKey k owner key s) := by
  simp only [loadKey]
  (repeat' split) <;> first | with_reducible exact h | simp (maxDischargeDepth := 30) [h]

@[simp] theorem keeps_unstage {o0 : State} (s : State) (h : Keeps o0 s) : Keeps o0 (unstage s) := h

theorem keeps_bindJob {o0 : State} (n sec : Nat) (s : State) (h : Keeps o0 s) : ∀ t, bindJob n sec s = some t → Keeps o0 t := by
  intro t ht
  simp only [bindJob] at ht
  (repeat' split at ht) <;> cases ht
  next hv => exact keeps_modJob _ _ _ (keeps_takeValue _ _ _ h _ hv)

@[simp] theorem keeps_encrypted {o0 : State} (n : Nat) (s : State) (h : Keeps o0 s) : Keeps o0 (encrypted n s) := by
  simp only [encrypted]
  (repeat' split) <;> first | with_reducible exact h | simp (maxDischargeDepth := 30) [h]

theorem keeps_bindNow {o0 : State} (n : Nat) (s : State) (h : Keeps o0 s) : ∀ t, bindNow n s = some t → Keeps o0 t := by
  intro t ht
  simp only [bindNow, Option.bind_eq_some_iff] at ht
  obtain ⟨j, -, ht⟩ := ht
  split at ht
  · next hb => cases ht; exact keeps_bindJob _ _ _ h _ hb
  · obtain ⟨k, -, hk⟩ := Option.bind_eq_some_iff.1 ht
    exact keeps_bindJob _ _ _ (keeps_giveLease _ _ _ h) _ hk

@[simp] theorem keeps_confirmAll {o0 : State} (ns z : Nat) (s : State) (h : Keeps o0 s) : Keeps o0 (confirmAll ns z s) := by
  unfold confirmAll
  exact keeps_confirmZone (h := h) ..

@[simp] theorem keeps_storeJob {o0 : State} (n : Nat) (s : State) (h : Keeps o0 s) : Keeps o0 (storeJob n s) := by
  unfold storeJob
  split
  · exact h
  · split
    · exact keeps_movedIn (h := h) ..
    · exact keeps_encoded (h := h) ..
    · split
      · exact keeps_orderConv (h := h) ..
      · exact keeps_orderZone (h := h) ..
    · refine keeps_getD (h := fun t ht => ?_) (hs := h) ..
      obtain ⟨u, hu, rfl⟩ := Option.map_eq_some_iff.1 ht
      exact keeps_encrypted (h := keeps_bindNow _ _ h _ hu) ..
    · exact keeps_issueZone (h := keeps_storeReady (h := h) ..) ..
    · exact keeps_confirmAll (h := h) ..

@[simp] theorem keeps_storeJobs {o0 : State} (n : Nat) (s : State) (h : Keeps o0 s) : Keeps o0 (storeJobs n s) := by
  induction n generalizing s with
  | zero => exact keeps_dropDead _ h
  | succ n ih => exact ih _ (keeps_foldl (fun s k hs => keeps_storeJob k s hs) _ h)

@[simp] theorem keeps_holdReads {o0 : State} (ns z : Nat) (s : State) (h : Keeps o0 s) : Keeps o0 (holdReads ns z s) := h

@[simp] theorem keeps_relAbandon {o0 : State} (band : Option Band) (s : State) (e : Nat × Rel) (h : Keeps o0 s) : Keeps o0 (relAbandon band s e) := by
  simp only [relAbandon]
  (repeat' split) <;> first | with_reducible exact h | simp (maxDischargeDepth := 30) +contextual [h]

@[simp] theorem keeps_zoneStrip {o0 : State} (ns z : Nat) (s : State) (h : Keeps o0 s) : Keeps o0 (zoneStrip ns z s) := by
  simp only [zoneStrip]
  (repeat' split) <;> first | with_reducible exact h | simp (maxDischargeDepth := 30) +contextual [keeps_foldl, h]

@[simp] theorem keeps_zoneClear {o0 : State} (ns z : Nat) (s : State) (h : Keeps o0 s) : Keeps o0 (zoneClear ns z s) := by
  simp (maxDischargeDepth := 30) [zoneClear, h]

theorem keeps_zoneOpenOp {o0 : State} (ns z : Nat) (s : State) (h : Keeps o0 s) : ∀ t, zoneOpenOp ns z s = .ok t → Keeps o0 t := by
  intro t ht
  simp only [zoneOpenOp] at ht
  (repeat' split at ht) <;> first | cases ht | (injection ht with ht; subst ht)
  all_goals first | exact h | simp (maxDischargeDepth := 30) [h]

theorem keeps_zoneCloseOp {o0 : State} (ns z : Nat) (s : State) (h : Keeps o0 s) : ∀ t, zoneCloseOp ns z s = .ok t → Keeps o0 t := by
  intro t ht
  simp only [zoneCloseOp] at ht
  (repeat' split at ht) <;> first | cases ht | (injection ht with ht; subst ht)
  all_goals first | exact h | simp (maxDischargeDepth := 30) [h]

theorem keeps_zoneFinishOp {o0 : State} (ns z : Nat) (s : State) (h : Keeps o0 s) : ∀ t, zoneFinishOp ns z s = .ok t → Keeps o0 t := by
  intro t ht
  simp only [zoneFinishOp] at ht
  (repeat' split at ht) <;> first | cases ht | (injection ht with ht; subst ht)
  all_goals first | exact h | simp (maxDischargeDepth := 30) [h]

theorem keeps_zoneResetOp {o0 : State} (ns z : Nat) (s : State) (h : Keeps o0 s) : ∀ t, zoneResetOp ns z s = .ok t → Keeps o0 t := by
  intro t ht
  simp only [zoneResetOp] at ht
  (repeat' split at ht) <;> first | cases ht | (injection ht with ht; subst ht)
  all_goals first | exact h | simp (maxDischargeDepth := 30) [h]

theorem keeps_zoneOfflineOp {o0 : State} (ns z : Nat) (s : State) (h : Keeps o0 s) : ∀ t, zoneOfflineOp ns z s = .ok t → Keeps o0 t := by
  intro t ht
  simp only [zoneOfflineOp] at ht
  (repeat' split at ht) <;> first | cases ht | (injection ht with ht; subst ht)
  all_goals first | exact h | simp (maxDischargeDepth := 30) [h]

theorem keeps_bindZone {o0 : State} (ns z pno : Nat) (n : Ns) (s : State) (h : Keeps o0 s) :
    ∀ t, bindZone ns z pno n s = some t → Keeps o0 t := by
  intro t ht
  simp only [bindZone] at ht
  split at ht
  · cases ht
  · next hb => cases ht; exact keeps_modZone _ _ _ _ (keeps_takeBand _ _ _ h _ hb)

@[simp] theorem keeps_admitBlocks {o0 : State} (id : CmdId) (ns z off nb : Nat) (n : Ns) (s : State) (h : Keeps o0 s) : Keeps o0 (admitBlocks id ns z off nb n s) := by
  simp only [admitBlocks]
  (repeat' split) <;> first | with_reducible exact h | simp (maxDischargeDepth := 30) [h]

theorem keeps_takeWrite {o0 : State} (c : Cmd) (ns z off nb hh : Nat) (n : Ns) (s : State) (h : Keeps o0 s) :
    ∀ t, takeWrite c ns z off nb hh n s = .take t → Keeps o0 t := by
  intro t ht
  simp only [takeWrite] at ht
  (repeat' split at ht) <;> first
    | (cases ht; done)
    | (injection ht with ht; subst ht; first
        | exact keeps_admitBlocks (h := h) ..
        | exact keeps_zoneChanged (h := keeps_admitBlocks (h := keeps_bindZone _ _ _ _ _ h _ ‹_›) ..) ..)

theorem keeps_zonedWrite {o0 : State} (c : Cmd) (n : Ns) (s : State) (h : Keeps o0 s) : ∀ t, zonedWrite c n s = .take t → Keeps o0 t := by
  intro t ht
  simp only [zonedWrite] at ht
  (repeat' split at ht) <;> first | (cases ht; done) | exact keeps_takeWrite _ _ _ _ _ _ _ _ h _ ht

theorem keeps_convWrite {o0 : State} (c : Cmd) (n : Ns) (s : State) (h : Keeps o0 s) : ∀ t, convWrite c n s = .take t → Keeps o0 t := by
  intro t ht
  simp only [convWrite] at ht
  (repeat' split at ht) <;> first | (cases ht; done) | (injection ht with ht; subst ht; exact keeps_modCmd (h := h) ..)

@[simp] theorem keeps_arrive {o0 : State} (ns z off nb : Nat) (s : State) (h : Keeps o0 s) : Keeps o0 (arrive ns z off nb s) := h

@[simp] theorem keeps_sealCovered {o0 : State} (ns z : Nat) (lbas : List Nat) (s : State) (h : Keeps o0 s) : Keeps o0 (sealCovered ns z lbas s) := by
  simp only [sealCovered]
  (repeat' split) <;> first | with_reducible exact h | simp (maxDischargeDepth := 30) +contextual [keeps_foldl, h]

@[simp] theorem keeps_pushCover {o0 : State} (bs : List Cov) (s : State) (h : Keeps o0 s) : Keeps o0 (pushCover bs s) := by
  simp (maxDischargeDepth := 30) +contextual [pushCover, keeps_foldl, h]

@[simp] theorem keeps_discardStored {o0 : State} (c : Cmd) (s : State) (h : Keeps o0 s) : Keeps o0 (discardStored c s) := by
  simp only [discardStored]
  (repeat' split) <;> first | with_reducible exact h | simp (maxDischargeDepth := 30) [h]

@[simp] theorem keeps_writeCached {o0 : State} (c : Cmd) (n : Ns) (s : State) (h : Keeps o0 s) : Keeps o0 (writeCached c n s) := by
  unfold writeCached
  extract_lets ns nb s1 bs fua s2 z s3 s4 s5 s6
  have h2 : Keeps o0 s2 := keeps_modCmd (h := keeps_cacheData (h := h) ..) ..
  have h3 : Keeps o0 s3 := keeps_arrive (h := h2) ..
  clear_value s3 s2
  have h4 : Keeps o0 s4 := by
    show Keeps o0 (if n.zoned = true then _ else _)
    split
    · split
      · exact h3
      · exact keeps_finish (h := h3) ..
    · refine keeps_foldl (fun s i hs => keeps_convJob (h := hs) ..) _ ?_
      split
      · exact h2
      · exact keeps_finish (h := h2) ..
  clear_value s4
  have h5 : Keeps o0 s5 := by
    show Keeps o0 (if n.zoned = true then _ else _)
    split
    · exact keeps_zoneSettle (h := h4) ..
    · exact h4
  clear_value s5
  have h6 : Keeps o0 s6 := by
    show Keeps o0 (if fua = true ∧ n.zoned = true then _ else _)
    split
    · exact keeps_pushCover (h := h5) ..
    · exact h5
  exact keeps_fuaCheck (h := keeps_wbUpdate (h := h6) ..) ..

@[simp] theorem keeps_sanDrop {o0 : State} (target : Nat) (s : State) (h : Keeps o0 s) : Keeps o0 (sanDrop target s) := by
  simp only [sanDrop]
  (repeat' split) <;> first | with_reducible exact h | simp (maxDischargeDepth := 30) [h]

@[simp] theorem keeps_sanDone {o0 : State} (s : State) (h : Keeps o0 s) : Keeps o0 (sanDone s) := by
  simp only [sanDone]
  (repeat' split) <;> first | with_reducible exact h | simp (maxDischargeDepth := 30) +contextual [keeps_foldl, h]

@[simp] theorem keeps_sanErased {o0 : State} (p : Nat × Nat) (s : State) (h : Keeps o0 s) : Keeps o0 (sanErased p s) := by
  simp only [sanErased]
  (repeat' split) <;> first | with_reducible exact h | simp (maxDischargeDepth := 30) [h]

@[simp] theorem keeps_sanStrip {o0 : State} (z : Nat × Nat) (s : State) (h : Keeps o0 s) : Keeps o0 (sanStrip z s) := by
  simp (maxDischargeDepth := 30) [sanStrip, h]

@[simp] theorem keeps_sanQueue {o0 : State} (s : State) (p : Nat × Nat) (h : Keeps o0 s) : Keeps o0 (sanQueue s p) := by
  simp only [sanQueue]
  (repeat' split) <;> first | with_reducible exact h | simp (maxDischargeDepth := 30) [h]

@[simp] theorem keeps_sanStart {o0 : State} (action target : Nat) (s : State) (h : Keeps o0 s) : Keeps o0 (sanStart action target s) := by
  unfold sanStart
  extract_lets s1 s2 bs zs s3 s4 s5
  have h1 : Keeps o0 s1 := keeps_sanDrop (h := h) ..
  clear_value s1
  have h2 : Keeps o0 s2 := by
    show Keeps o0 (if action = 1 then _ else _)
    split
    · exact keeps_recordVault (h := keeps_zeroizeSlots (h := h1) ..) ..
    · exact h1
  clear_value s2
  have h3 : Keeps o0 s3 := keeps_foldl (fun s z hs => keeps_sanStrip (h := hs) ..) _ h2
  clear_value s3
  have h4 : Keeps o0 s4 := h3
  clear_value s4
  have h5 : Keeps o0 s5 := keeps_foldl (fun s z hs => keeps_sanQueue (h := hs) ..) _ h4
  clear_value s5
  split
  · exact keeps_sanDone (h := h5) ..
  · exact h5

@[simp] theorem keeps_settleWrite {o0 : State} (c : Cmd) (s : State) (h : Keeps o0 s) : Keeps o0 (settleWrite c s) := by
  simp only [settleWrite]
  (repeat' split) <;> first | with_reducible exact h | simp (maxDischargeDepth := 30) [h]

theorem keeps_writeRes {o0 : State} (c : Cmd) (s : State) (r : WRes) (h : Keeps o0 s) (hr : ∀ t, r = .take t → Keeps o0 t) :
    Keeps o0 (writeRes c s r) := by
  unfold writeRes
  split
  · exact keeps_fuaCheck (h := keeps_settleWrite (h := keeps_finishSt (h := h) ..) ..) ..
  · exact h
  · exact hr _ rfl

@[simp] theorem keeps_deallocate {o0 : State} (ns lba n : Nat) (s : State) (h : Keeps o0 s) : Keeps o0 (deallocate ns lba n s) := by
  simp (maxDischargeDepth := 30) [deallocate, h]

theorem keeps_zoneAct {o0 : State} (act ns z : Nat) (s : State) (h : Keeps o0 s) : ∀ t, zoneAct act ns z s = .ok t → Keeps o0 t := by
  intro t ht
  simp only [zoneAct] at ht
  (repeat' split at ht) <;> first
    | cases ht; done
    | exact keeps_zoneOpenOp _ _ _ h _ ht | exact keeps_zoneCloseOp _ _ _ h _ ht | exact keeps_zoneFinishOp _ _ _ h _ ht
    | exact keeps_zoneResetOp _ _ _ h _ ht | exact keeps_zoneOfflineOp _ _ _ h _ ht

@[simp] theorem keeps_zoneSend {o0 : State} (act : Nat) (id : CmdId) (s : State) (h : Keeps o0 s) : Keeps o0 (zoneSend act id s) := by
  unfold zoneSend
  split
  · exact h
  · split
    · exact keeps_finishSt (h := h) ..
    · dsimp only
      (repeat' split) <;> first
        | exact h | exact keeps_finishSt (h := h) ..
        | exact keeps_finishSt (h := keeps_zoneAct (h := h) _ ‹_› ..) ..
        | skip
      · refine keeps_finishSt (h := keeps_foldl (fun s z hs => ?_) _ h) ..
        split
        · next hz => exact keeps_zoneAct _ _ _ _ hs _ hz
        · exact hs
      · next hz => exact keeps_finishSt (h := keeps_zoneAct _ _ _ _ h _ hz) ..

@[simp] theorem keeps_zoneReceive {o0 : State} (act : Nat) (id : CmdId) (s : State) (h : Keeps o0 s) : Keeps o0 (zoneReceive act id s) := by
  simp only [zoneReceive]
  (repeat' split) <;> first | with_reducible exact h | simp (maxDischargeDepth := 30) [h]

@[simp] theorem keeps_endJob {o0 : State} (c : Cmd) (r : JobEnd) (s : State) (h : Keeps o0 s) : Keeps o0 (endJob c r s) := by
  simp only [endJob]
  (repeat' split) <;> first | with_reducible exact h | simp (maxDischargeDepth := 30) [h]

@[simp] theorem keeps_modOff {o0 : State} (n : Nat) (g : Off → Off) (s : State) (h : Keeps o0 s) : Keeps o0 (modOff n g s) := h

@[simp] theorem keeps_offCheck {o0 : State} (n : Nat) (s : State) (h : Keeps o0 s) : Keeps o0 (offCheck n s) := by
  simp only [offCheck]
  (repeat' split) <;> first | with_reducible exact h | simp (maxDischargeDepth := 30) [h]

@[simp] theorem keeps_offHand {o0 : State} (n : Nat) (o : Off) (c : Cmd) (i : Nat) (s : State) (h : Keeps o0 s) : Keeps o0 (offHand n o c i s) := h

@[simp] theorem keeps_offStart {o0 : State} (o : Off) (c : Cmd) (s : State) (h : Keeps o0 s) : Keeps o0 (offStart o c s) := by
  simp (maxDischargeDepth := 30) +contextual [offStart, keeps_foldl, h]

@[simp] theorem keeps_moveBlk {o0 : State} (ns z p l : Nat) (kind : RelKind) (s : State) (h : Keeps o0 s) : Keeps o0 (moveBlk ns z p l kind s) := by
  simp only [moveBlk]
  (repeat' split) <;> first | with_reducible exact h | simp (maxDischargeDepth := 30) [h]

@[simp] theorem keeps_wornRefresh {o0 : State} (ns z : Nat) (s : State) (h : Keeps o0 s) : Keeps o0 (wornRefresh ns z s) := by
  simp only [wornRefresh]
  (repeat' split) <;> first | with_reducible exact h | simp (maxDischargeDepth := 30) +contextual [keeps_foldl, h]

@[simp] theorem keeps_wornMark {o0 : State} (ns z p : Nat) (at' : Nat × Nat) (s : State) (h : Keeps o0 s) : Keeps o0 (wornMark ns z p at' s) := by
  simp only [wornMark]
  (repeat' split) <;> first | with_reducible exact h | simp (maxDischargeDepth := 30) +contextual [h]

@[simp] theorem keeps_readSet {o0 : State} (l : Nat) (o : Op) (s : State) (h : Keeps o0 s) : Keeps o0 (readSet l o s) := by
  simp only [readSet]
  (repeat' split) <;> first | with_reducible exact h | simp (maxDischargeDepth := 30) [h]

@[simp] theorem keeps_rungCount {o0 : State} (l : Nat) (o : Op) (got : Nat) (s : State) (h : Keeps o0 s) : Keeps o0 (rungCount l o got s) := by
  simp only [rungCount]
  (repeat' split) <;> first | with_reducible exact h | simp (maxDischargeDepth := 30) [h]

@[simp] theorem keeps_cwFail {o0 : State} (l n : Nat) (s : State) (h : Keeps o0 s) : Keeps o0 (cwFail l n s) := h

@[simp] theorem keeps_rebDone {o0 : State} (n : Nat) (r : Reb) (s : State) (h : Keeps o0 s) : Keeps o0 (rebDone n r s) := by
  simp only [rebDone]
  (repeat' split) <;> first | with_reducible exact h | simp (maxDischargeDepth := 30) [h]

@[simp] theorem keeps_tagFail {o0 : State} (n : Nat) (s : State) (h : Keeps o0 s) : Keeps o0 (tagFail n s) := by
  simp only [tagFail]
  (repeat' split) <;> first | with_reducible exact h | simp (maxDischargeDepth := 30) [h]

@[simp] theorem keeps_whoFail {o0 : State} (who : RebFor) (s : State) (h : Keeps o0 s) : Keeps o0 (whoFail who s) := by
  simp only [whoFail]
  (repeat' split) <;> first | with_reducible exact h | simp (maxDischargeDepth := 30) [h]

@[simp] theorem keeps_rebFail {o0 : State} (n : Nat) (s : State) (h : Keeps o0 s) : Keeps o0 (rebFail n s) := by
  simp only [rebFail]
  (repeat' split) <;> first | with_reducible exact h | simp (maxDischargeDepth := 30) [h]

@[simp] theorem keeps_rebGot {o0 : State} (n p : Nat) (s : State) (h : Keeps o0 s) : Keeps o0 (rebGot n p s) := by
  simp only [rebGot]
  (repeat' split) <;> first | with_reducible exact h | simp (maxDischargeDepth := 30) [h]

@[simp] theorem keeps_rebTry {o0 : State} (l ns z row p : Nat) (who : RebFor) (o : Op) (s : State) (h : Keeps o0 s) : Keeps o0 (rebTry l ns z row p who o s) := by
  simp only [rebTry]
  (repeat' split) <;> first | with_reducible exact h | simp (maxDischargeDepth := 30) [h]

@[simp] theorem keeps_rebTag {o0 : State} (n : Nat) (b : Band) (r : RJob) (s : State) (h : Keeps o0 s) : Keeps o0 (rebTag n b r s) := by
  simp only [rebTag]
  (repeat' split) <;> first | with_reducible exact h | simp (maxDischargeDepth := 30) +contextual [keeps_foldl, h]

@[simp] theorem keeps_readWorn {o0 : State} (l : Nat) (o : Op) (s : State) (h : Keeps o0 s) : Keeps o0 (readWorn l o s) := by
  simp only [readWorn]
  (repeat' split) <;> first | with_reducible exact h | simp (maxDischargeDepth := 30) [h]

@[simp] theorem keeps_readGot {o0 : State} (o : Op) (s : State) (h : Keeps o0 s) : Keeps o0 (readGot o s) := by
  simp only [readGot]
  (repeat' split) <;> first | with_reducible exact h | simp (maxDischargeDepth := 30) [h]

@[simp] theorem keeps_readDeep {o0 : State} (l : Nat) (o : Op) (s : State) (h : Keeps o0 s) : Keeps o0 (readDeep l o s) := by
  simp only [readDeep]
  (repeat' split) <;> first | with_reducible exact h | simp (maxDischargeDepth := 30) [h]

@[simp] theorem keeps_readTimed {o0 : State} (l : Nat) (o : Op) (s : State) (h : Keeps o0 s) : Keeps o0 (readTimed l o s) := by
  simp only [readTimed]
  (repeat' split) <;> first | with_reducible exact h | simp (maxDischargeDepth := 30) [h]

@[simp] theorem keeps_readEnd {o0 : State} (l : Nat) (o : Op) (oks : List Bool) (s : State) (h : Keeps o0 s) : Keeps o0 (readEnd l o oks s) := by
  simp only [readEnd]
  (repeat' split) <;> first | with_reducible exact h | simp (maxDischargeDepth := 30) [h]

@[simp] theorem keeps_pulseSet {o0 : State} (l : Nat) (s : State) (h : Keeps o0 s) : Keeps o0 (pulseSet l s) := by
  simp only [pulseSet]
  (repeat' split) <;> first | with_reducible exact h | simp (maxDischargeDepth := 30) [h]

@[simp] theorem keeps_startWork {o0 : State} (r : Resource) (o : Op) (s : State) (h : Keeps o0 s) : Keeps o0 (startWork r o s) := by
  unfold startWork
  split
  · exact keeps_getD (h := fun t ht => keeps_bindJob _ _ _ h _ ht) (hs := h) ..
  · split
    · exact h
    · dsimp only
      split
      · exact keeps_modR (h := h) ..
      · exact h
  · exact keeps_modBlk (h := h) ..
  · split
    · exact keeps_readSet (h := h) ..
    · exact keeps_pulseSet (h := h) ..
  · exact h

@[simp] theorem keeps_lunResume {o0 : State} (l : Nat) (s : State) (h : Keeps o0 s) : Keeps o0 (lunResume l s) := by
  simp only [lunResume]
  (repeat' split) <;> first | with_reducible exact h | simp (maxDischargeDepth := 30) [h]

@[simp] theorem keeps_startOp {o0 : State} (r : Resource) (o : Op) (s : State) (h : Keeps o0 s) : Keeps o0 (startOp r o s) := by
  unfold startOp
  extract_lets cls kerf s1 s2
  have h1 : Keeps o0 s1 := h
  clear_value s1
  have h2 : Keeps o0 s2 := by
    simp only [s2]; split
    · exact h1
    · exact keeps_startWork (h := h1) ..
  clear_value s2
  exact h2

@[simp] theorem keeps_wantLeases {o0 : State} (k : Nat) (s : State) (h : Keeps o0 s) : Keeps o0 (wantLeases k s) := by
  unfold wantLeases
  refine keeps_foldl (fun s o hs => ?_) _ h
  split
  · split
    · split
      · exact keeps_askLease (h := hs) ..
      · exact hs
    · exact hs
  · exact hs

@[simp] theorem keeps_internalEnd {o0 : State} (s : State) (o : Op) (h : Keeps o0 s) : Keeps o0 (internalEnd s o) := by
  simp only [internalEnd]
  (repeat' split) <;> first | with_reducible exact h | simp (maxDischargeDepth := 30) [h]

@[simp] theorem keeps_endInternal {o0 : State} (l : Nat) (s : State) (h : Keeps o0 s) : Keeps o0 (endInternal l s) := by
  simp (maxDischargeDepth := 30) +contextual [endInternal, keeps_foldl, h]

@[simp] theorem keeps_relRepeat {o0 : State} (l b : Nat) (s : State) (h : Keeps o0 s) : Keeps o0 (relRepeat l b s) := by
  simp only [relRepeat]
  (repeat' split) <;> first | with_reducible exact h | simp (maxDischargeDepth := 30) +contextual [keeps_foldl, h]

@[simp] theorem keeps_moveOps {o0 : State} (k : Nat) (s : State) (h : Keeps o0 s) : Keeps o0 (moveOps k s) := h

@[simp] theorem keeps_rehome {o0 : State} (s : State) (h : Keeps o0 s) : Keeps o0 (rehome s) := by
  simp only [rehome]
  (repeat' split) <;> first | with_reducible exact h | simp (maxDischargeDepth := 30) +contextual [keeps_foldl, h]

@[simp] theorem keeps_endRun {o0 : State} (x : Run) (s : State) (h : Keeps o0 s) : Keeps o0 (endRun x s) := h

@[simp] theorem keeps_cdcEnc {o0 : State} (k : Nat) (s : State) (h : Keeps o0 s) : Keeps o0 (cdcEnc k s) := h

@[simp] theorem keeps_cdcRaw {o0 : State} (k : Nat) (s : State) (h : Keeps o0 s) : Keeps o0 (cdcRaw k s) := h

@[simp] theorem keeps_cdcVerify {o0 : State} (k : Nat) (s : State) (h : Keeps o0 s) : Keeps o0 (cdcVerify k s) := h

@[simp] theorem keeps_encodeEnd {o0 : State} (k lane c n : Nat) (s : State) (h : Keeps o0 s) : Keeps o0 (encodeEnd k lane c n s) := by
  simp only [encodeEnd]
  (repeat' split) <;> first | with_reducible exact h | simp (maxDischargeDepth := 30) [h]

@[simp] theorem keeps_verifyEnd {o0 : State} (k n : Nat) (ok : Bool) (s : State) (h : Keeps o0 s) : Keeps o0 (verifyEnd k n ok s) := by
  simp only [verifyEnd]
  (repeat' split) <;> first | with_reducible exact h | simp (maxDischargeDepth := 30) [h]

@[simp] theorem keeps_offLeft {o0 : State} (n i : Nat) (s : State) (h : Keeps o0 s) : Keeps o0 (offLeft n i s) := by
  simp (maxDischargeDepth := 30) [offLeft, h]

@[simp] theorem keeps_offEncEnd {o0 : State} (k lane c n i : Nat) (o : Op) (s : State) (h : Keeps o0 s) : Keeps o0 (offEncEnd k lane c n i o s) := by
  simp only [offEncEnd]
  (repeat' split) <;> first | with_reducible exact h | simp (maxDischargeDepth := 30) [h]

@[simp] theorem keeps_offVerifyEnd {o0 : State} (k n i : Nat) (ok : Bool) (s : State) (h : Keeps o0 s) : Keeps o0 (offVerifyEnd k n i ok s) := by
  simp only [offVerifyEnd]
  (repeat' split) <;> first | with_reducible exact h | simp (maxDischargeDepth := 30) [h]

@[simp] theorem keeps_decodeRetry {o0 : State} (k : Nat) (ok : Bool) (s : State) (h : Keeps o0 s) : Keeps o0 (decodeRetry k ok s) := h

@[simp] theorem keeps_decodeCount {o0 : State} (k : Nat) (stored faulty retryFaulty : Bool) (s : State) (h : Keeps o0 s) : Keeps o0 (decodeCount k stored faulty retryFaulty s) := by
  simp only [decodeCount]
  (repeat' split) <;> first | with_reducible exact h | simp (maxDischargeDepth := 30) [h]

@[simp] theorem keeps_decodeEnd {o0 : State} (k n : Nat) (faulty retryFaulty : Bool) (s : State) (h : Keeps o0 s) : Keeps o0 (decodeEnd k n faulty retryFaulty s) := by
  simp only [decodeEnd]
  (repeat' split) <;> first | with_reducible exact h | simp (maxDischargeDepth := 30) [h]

@[simp] theorem keeps_offDecEnd {o0 : State} (k n i : Nat) (faulty retryFaulty : Bool) (s : State) (h : Keeps o0 s) : Keeps o0 (offDecEnd k n i faulty retryFaulty s) := by
  simp only [offDecEnd]
  (repeat' split) <;> first | with_reducible exact h | simp (maxDischargeDepth := 30) [h]

@[simp] theorem keeps_fencedRun {o0 : State} (s : State) (x : Run) (h : Keeps o0 s) : Keeps o0 (fencedRun s x) := by
  simp only [fencedRun]
  (repeat' split) <;> first | with_reducible exact h | simp (maxDischargeDepth := 30) [h]

@[simp] theorem keeps_fence {o0 : State} (k : Nat) (s : State) (h : Keeps o0 s) : Keeps o0 (fence k s) := by
  simp (maxDischargeDepth := 30) +contextual [fence, keeps_foldl, h]

@[simp] theorem keeps_cipherFault {o0 : State} (k : Nat) (s : State) (h : Keeps o0 s) : Keeps o0 (cipherFault k s) := by
  simp only [cipherFault]
  (repeat' split) <;> first | with_reducible exact h | simp (maxDischargeDepth := 30) [h]

@[simp] theorem keeps_decrypted {o0 : State} (n k : Nat) (r : RJob) (tagOk : Bool) (s : State) (h : Keeps o0 s) : Keeps o0 (decrypted n k r tagOk s) := by
  unfold decrypted
  extract_lets hdr p plain s1
  clear_value plain p hdr
  have h1 : Keeps o0 s1 := keeps_modR (h := h) ..
  clear_value s1
  split
  · exact keeps_payloadReady (h := keeps_modR (h := keeps_modCip (h := h) ..) ..) ..
  · split
    · exact keeps_rebTag (h := h1) ..
    · exact keeps_tagFail (h := h1) ..

@[simp] theorem keeps_countExh {o0 : State} (l : Nat) (x : Run) (s : State) (h : Keeps o0 s) : Keeps o0 (countExh l x s) := by
  simp only [countExh]
  (repeat' split) <;> first | with_reducible exact h | simp (maxDischargeDepth := 30) [h]

@[simp] theorem keeps_pageDone {o0 : State} (ns z k e : Nat) (s : State) (h : Keeps o0 s) : Keeps o0 (pageDone ns z k e s) := by
  simp (maxDischargeDepth := 30) [pageDone, h]

@[simp] theorem keeps_parityDone {o0 : State} (ns z u e : Nat) (s : State) (h : Keeps o0 s) : Keeps o0 (parityDone ns z u e s) := by
  simp (maxDischargeDepth := 30) [parityDone, h]

@[simp] theorem keeps_programFail {o0 : State} (ns z p : Nat) (o : Op) (s : State) (h : Keeps o0 s) : Keeps o0 (programFail ns z p o s) := by
  unfold programFail
  split
  · exact h
  · next b _ =>
    have h1 : Keeps o0 (replacePos ns z p .replace (retireBlk (b.pos.getD p (0, 0)).1 (b.pos.getD p (0, 0)).2 s)) :=
      keeps_replacePos (h := keeps_retireBlk (h := h) ..) ..
    split
    next l k hx =>
    rw [hx] at h1
    dsimp only at h1 ⊢
    generalize replacePos ns z p .replace (retireBlk l k s) = s1 at h1 ⊢
    split
    · exact h1
    · split <;> exact h1

@[simp] theorem keeps_wearPass {o0 : State} (l : Nat) (s : State) (h : Keeps o0 s) : Keeps o0 (wearPass l s) := by
  simp only [wearPass]
  (repeat' split) <;> first | with_reducible exact h | simp (maxDischargeDepth := 30) [h]

@[simp] theorem keeps_relDone {o0 : State} (n : Nat) (r : Rel) (s : State) (h : Keeps o0 s) : Keeps o0 (relDone n r s) := by
  simp only [relDone]
  (repeat' split) <;> first | with_reducible exact h | simp (maxDischargeDepth := 30) [h]

@[simp] theorem keeps_relProgEnd {o0 : State} (n row : Nat) (fail : Bool) (s : State) (h : Keeps o0 s) : Keeps o0 (relProgEnd n row fail s) := by
  unfold relProgEnd
  split
  · exact h
  · split
    · exact keeps_replacePos (h := keeps_retireBlk (h := h) ..) ..
    · extract_lets left s1
      have h1 : Keeps o0 s1 := h
      clear_value s1
      split
      · exact keeps_relDone (h := h1) ..
      · exact keeps_relNext (h := h1) ..

@[simp] theorem keeps_ventTestEnd {o0 : State} (s : State) (h : Keeps o0 s) : Keeps o0 (ventTestEnd s) := by
  simp only [ventTestEnd]
  (repeat' split) <;> first | with_reducible exact h | simp (maxDischargeDepth := 30) +contextual [h]

@[simp] theorem keeps_indexCopied {o0 : State} (ns z : Nat) (p : Nat × Nat) (fail : Bool) (s : State) (h : Keeps o0 s) : Keeps o0 (indexCopied ns z p fail s) := by
  simp only [indexCopied]
  (repeat' split) <;> first | with_reducible exact h | simp (maxDischargeDepth := 30) [h]

@[simp] theorem keeps_convRetry {o0 : State} (s : State) (h : Keeps o0 s) : Keeps o0 (convRetry s) := by
  simp (maxDischargeDepth := 30) +contextual [convRetry, keeps_foldl, h]

@[simp] theorem keeps_eraseNext {o0 : State} (l b : Nat) (s : State) (h : Keeps o0 s) : Keeps o0 (eraseNext l b s) := by
  simp only [eraseNext]
  (repeat' split) <;> first | with_reducible exact h | simp (maxDischargeDepth := 30) +contextual [keeps_foldl, h]

@[simp] theorem keeps_erasedBlk {o0 : State} (l b : Nat) (s : State) (h : Keeps o0 s) : Keeps o0 (erasedBlk l b s) := by
  simp only [erasedBlk]
  (repeat' split) <;> first | with_reducible exact h | simp (maxDischargeDepth := 30) [h]

@[simp] theorem keeps_readOver {o0 : State} (l : Nat) (x : Run) (s : State) (h : Keeps o0 s) : Keeps o0 (readOver l x s) :=
  keeps_modLun (h := (keeps_endRun x s h : Keeps o0 (endRun x s))) ..

@[simp] theorem keeps_probeEnd {o0 : State} (l b zs : Nat) (s : State) (h : Keeps o0 s) : Keeps o0 (probeEnd l b zs s) := by
  simp only [probeEnd]
  (repeat' split) <;> first | with_reducible exact h | simp (maxDischargeDepth := 30) [h]

@[simp] theorem keeps_relLost {o0 : State} (l : Nat) (s : State) (e : Nat × Rel) (h : Keeps o0 s) : Keeps o0 (relLost l s e) := by
  simp only [relLost]
  (repeat' split) <;> first | with_reducible exact h | simp (maxDischargeDepth := 30) [h]

@[simp] theorem keeps_rebRehome {o0 : State} (n q : Nat) (o : Op) (s : State) (h : Keeps o0 s) : Keeps o0 (rebRehome n q o s) := by
  simp only [rebRehome]
  (repeat' split) <;> first | with_reducible exact h | simp (maxDischargeDepth := 30) [h]

@[simp] theorem keeps_orphanOp {o0 : State} (l : Nat) (s : State) (o : Op) (h : Keeps o0 s) : Keeps o0 (orphanOp l s o) := by
  simp only [orphanOp]
  (repeat' split) <;> first | with_reducible exact h | simp (maxDischargeDepth := 30) [h]

@[simp] theorem keeps_lunOrphans {o0 : State} (l : Nat) (s : State) (h : Keeps o0 s) : Keeps o0 (lunOrphans l s) := by
  simp only [lunOrphans]
  (repeat' split) <;> first | with_reducible exact h | simp (maxDischargeDepth := 30) +contextual [keeps_foldl, h]

@[simp] theorem keeps_lunDrop {o0 : State} (l : Nat) (s : State) (h : Keeps o0 s) : Keeps o0 (lunDrop l s) := h

@[simp] theorem keeps_lunsTrained {o0 : State} (c : Nat) (s : State) (h : Keeps o0 s) : Keeps o0 (lunsTrained c s) := by
  unfold lunsTrained
  refine keeps_foldl (fun s i hs => ?_) _ h
  split
  · exact keeps_modLun (h := hs) ..
  · exact hs

@[simp] theorem keeps_chanTrainNext {o0 : State} (k : Nat) (s : State) (h : Keeps o0 s) : Keeps o0 (chanTrainNext k s) := by
  simp only [chanTrainNext]
  (repeat' split) <;> first | with_reducible exact h | simp (maxDischargeDepth := 30) [h]

@[simp] theorem keeps_chanTrain {o0 : State} (c : Nat) (s : State) (h : Keeps o0 s) : Keeps o0 (chanTrain c s) := by
  simp only [chanTrain]
  (repeat' split) <;> first | with_reducible exact h | simp (maxDischargeDepth := 30) [h]

@[simp] theorem keeps_lunRefuse {o0 : State} (l : Nat) (s : State) (h : Keeps o0 s) : Keeps o0 (lunRefuse l s) := by
  simp only [lunRefuse]
  (repeat' split) <;> first | with_reducible exact h | simp (maxDischargeDepth := 30) [h]

@[simp] theorem keeps_mismatchPost {o0 : State} (s : State) (h : Keeps o0 s) : Keeps o0 (mismatchPost s) := by
  simp only [mismatchPost]
  (repeat' split) <;> first | with_reducible exact h | simp (maxDischargeDepth := 30) [h]

@[simp] theorem keeps_witnessEval {o0 : State} (changed : Bool) (s : State) (h : Keeps o0 s) : Keeps o0 (witnessEval changed s) := by
  simp only [witnessEval]
  (repeat' split) <;> first | with_reducible exact h | simp (maxDischargeDepth := 30) [h]

@[simp] theorem keeps_witness {o0 : State} (s : State) (h : Keeps o0 s) : Keeps o0 (witness s) := by
  simp only [witness]
  (repeat' split) <;> first | with_reducible exact h | simp (maxDischargeDepth := 30) [h]

@[simp] theorem keeps_setCeil {o0 : State} (s : State) (h : Keeps o0 s) : Keeps o0 (setCeil s) := h

@[simp] theorem keeps_lowEval {o0 : State} (s : State) (h : Keeps o0 s) : Keeps o0 (lowEval s) := by
  simp only [lowEval]
  (repeat' split) <;> first | with_reducible exact h | simp (maxDischargeDepth := 30) [h]

@[simp] theorem keeps_rankTrainNext {o0 : State} (c : Nat) (s : State) (h : Keeps o0 s) : Keeps o0 (rankTrainNext c s) := by
  simp only [rankTrainNext]
  (repeat' split) <;> first | with_reducible exact h | simp (maxDischargeDepth := 30) [h]

@[simp] theorem keeps_rankTrain {o0 : State} (r : Nat) (s : State) (h : Keeps o0 s) : Keeps o0 (rankTrain r s) := by
  simp (maxDischargeDepth := 30) [rankTrain, h]

@[simp] theorem keeps_rankTrainAll {o0 : State} (s : State) (h : Keeps o0 s) : Keeps o0 (rankTrainAll s) := by
  simp only [rankTrainAll]
  (repeat' split) <;> first | with_reducible exact h | simp (maxDischargeDepth := 30) +contextual [keeps_foldl, h]

@[simp] theorem keeps_refCtrlWrite {o0 : State} (s : State) (h : Keeps o0 s) : Keeps o0 (refCtrlWrite s) := h

@[simp] theorem keeps_setMig {o0 : State} (c : Nat) (m : MigCh) (s : State) (h : Keeps o0 s) : Keeps o0 (setMig c m s) := h

@[simp] theorem keeps_poisonData {o0 : State} (held : LineData) (s : State) (h : Keeps o0 s) : Keeps o0 (poisonData held s) := by
  simp only [poisonData]
  (repeat' split) <;> first | with_reducible exact h | simp (maxDischargeDepth := 30) +contextual [keeps_foldl, h]

@[simp] theorem keeps_tableRebuilt {o0 : State} (s : State) (h : Keeps o0 s) : Keeps o0 (tableRebuilt s) := h

@[simp] theorem keeps_poisonLine {o0 : State} (r : Nat) (f : LineFault) (s : State) (h : Keeps o0 s) : Keeps o0 (poisonLine r f s) := by
  simp only [poisonLine]
  (repeat' split) <;> first | with_reducible exact h | simp (maxDischargeDepth := 30) [h]

@[simp] theorem keeps_setRetired {o0 : State} (r : Nat) (s : State) (h : Keeps o0 s) : Keeps o0 (setRetired r s) := by
  unfold setRetired
  exact keeps_regPut (h := h) ..

@[simp] theorem keeps_retireInPlace {o0 : State} (r : Nat) (s : State) (h : Keeps o0 s) : Keeps o0 (retireInPlace r s) := by
  simp (maxDischargeDepth := 30) [retireInPlace, h]

@[simp] theorem keeps_migMbx {o0 : State} (r code lines : Nat) (s : State) (h : Keeps o0 s) : Keeps o0 (migMbx r code lines s) := by
  simp only [migMbx]
  (repeat' split) <;> first | with_reducible exact h | simp (maxDischargeDepth := 30) +contextual [h]

@[simp] theorem keeps_migNext {o0 : State} (c : Nat) (s : State) (h : Keeps o0 s) : Keeps o0 (migNext c s) := by
  simp only [migNext]
  (repeat' split) <;> first | with_reducible exact h | simp (maxDischargeDepth := 30) [h]

@[simp] theorem keeps_retireRank {o0 : State} (r cause : Nat) (s : State) (h : Keeps o0 s) : Keeps o0 (retireRank r cause s) := by
  simp only [retireRank]
  (repeat' split) <;> first | with_reducible exact h | simp (maxDischargeDepth := 30) [h]

@[simp] theorem keeps_migReleased {o0 : State} (s : State) (h : Keeps o0 s) : Keeps o0 (migReleased s) := by
  simp only [migReleased]
  (repeat' split) <;> first | with_reducible exact h | simp (maxDischargeDepth := 30) [h]

@[simp] theorem keeps_spareFails {o0 : State} (r : Nat) (s : State) (h : Keeps o0 s) : Keeps o0 (spareFails r s) := by
  simp only [spareFails]
  (repeat' split) <;> first | with_reducible exact h | simp (maxDischargeDepth := 30) [h]

@[simp] theorem keeps_writeBack {o0 : State} (r : Nat) (f : LineFault) (s : State) (h : Keeps o0 s) : Keeps o0 (writeBack r f s) := by
  simp only [writeBack]
  (repeat' split) <;> first | with_reducible exact h | simp (maxDischargeDepth := 30) [h]

@[simp] theorem keeps_backsDone {o0 : State} (s : State) (h : Keeps o0 s) : Keeps o0 (backsDone s) := h

@[simp] theorem keeps_countCe {o0 : State} (r : Nat) (s : State) (h : Keeps o0 s) : Keeps o0 (countCe r s) := by
  simp only [countCe]
  (repeat' split) <;> first | with_reducible exact h | simp (maxDischargeDepth := 30) [h]

@[simp] theorem keeps_lineLost {o0 : State} (r : Nat) (f : LineFault) (s : State) (h : Keeps o0 s) : Keeps o0 (lineLost r f s) := by
  simp only [lineLost]
  (repeat' split) <;> first | with_reducible exact h | simp (maxDischargeDepth := 30) [h]

@[simp] theorem keeps_lineFault {o0 : State} (r : Nat) (s : State) (f : LineFault) (h : Keeps o0 s) : Keeps o0 (lineFault r s f) := by
  unfold lineFault
  split
  · split
    · exact h
    · exact keeps_poisonLine (h := h) ..
  · refine keeps_natRepeat (fun s hs => keeps_countCe (h := hs) ..) _ ?_
    split
    · exact keeps_lineLost (h := h) ..
    · split
      · exact keeps_writeBack (h := h) ..
      · exact h

@[simp] theorem keeps_copyFault {o0 : State} (src dst : Nat) (s : State) (f : LineFault) (h : Keeps o0 s) : Keeps o0 (copyFault src dst s f) := by
  unfold copyFault
  split
  · split
    · exact h
    · exact keeps_poisonLine (h := h) ..
  · refine keeps_natRepeat (fun s hs => keeps_countCe (h := hs) ..) _ ?_
    split
    · exact keeps_poisonLine (h := h) ..
    · exact h

@[simp] theorem keeps_dramTick {o0 : State} (dt : Nat) (s : State) (h : Keeps o0 s) : Keeps o0 (dramTick dt s) := by
  simp only [dramTick]
  (repeat' split) <;> first | with_reducible exact h | simp (maxDischargeDepth := 30) [h]

@[simp] theorem keeps_sampleStraps {o0 : State} (s : State) (h : Keeps o0 s) : Keeps o0 (sampleStraps s) := h

@[simp] theorem keeps_startLockout {o0 : State} (s : State) (h : Keeps o0 s) : Keeps o0 (startLockout s) := by
  simp only [startLockout]
  (repeat' split) <;> first | with_reducible exact h | simp (maxDischargeDepth := 30) [h]

@[simp] theorem keeps_enterStage1 {o0 : State} (s : State) (h : Keeps o0 s) : Keeps o0 (enterStage1 s) := by
  simp (maxDischargeDepth := 30) [enterStage1, h]

@[simp] theorem keeps_ventCutLog {o0 : State} (s : State) (h : Keeps o0 s) : Keeps o0 (ventCutLog s) := by
  simp only [ventCutLog]
  (repeat' split) <;> first | with_reducible exact h | simp (maxDischargeDepth := 30) [h]

@[simp] theorem keeps_keyLossLog {o0 : State} (s : State) (h : Keeps o0 s) : Keeps o0 (keyLossLog s) := by
  simp only [keyLossLog]
  (repeat' split) <;> first | with_reducible exact h | simp (maxDischargeDepth := 30) [h]

@[simp] theorem keeps_releaseOutputs {o0 : State} (s : State) (h : Keeps o0 s) : Keeps o0 (releaseOutputs s) := h

@[simp] theorem keeps_linksDown {o0 : State} (s : State) (h : Keeps o0 s) : Keeps o0 (linksDown s) := h

@[simp] theorem keeps_setLink {o0 : State} (p : Nat) (up : Bool) (s : State) (h : Keeps o0 s) : Keeps o0 (setLink p up s) := by
  simp only [setLink]
  (repeat' split) <;> first | with_reducible exact h | simp (maxDischargeDepth := 30) [h]

@[simp] theorem keeps_dozeWake {o0 : State} (s : State) (h : Keeps o0 s) : Keeps o0 (dozeWake s) := by
  simp (maxDischargeDepth := 30) [dozeWake, h]

@[simp] theorem keeps_hotResetStart {o0 : State} (s : State) (h : Keeps o0 s) : Keeps o0 (hotResetStart s) := by
  simp (maxDischargeDepth := 30) [hotResetStart, h]

@[simp] theorem keeps_hotReset {o0 : State} (s : State) (h : Keeps o0 s) : Keeps o0 (hotReset s) := by
  simp only [hotReset]
  (repeat' split) <;> first | with_reducible exact h | simp (maxDischargeDepth := 30) [h]

@[simp] theorem keeps_portSettle {o0 : State} (s : State) (h : Keeps o0 s) : Keeps o0 (portSettle s) := by
  simp only [portSettle]
  (repeat' split) <;> first | with_reducible exact h | simp (maxDischargeDepth := 30) [h]

@[simp] theorem keeps_perstDrop {o0 : State} (s : State) (h : Keeps o0 s) : Keeps o0 (perstDrop s) := by
  simp (maxDischargeDepth := 30) [perstDrop, h]

@[simp] theorem keeps_perstStart {o0 : State} (s : State) (h : Keeps o0 s) : Keeps o0 (perstStart s) := by
  simp (maxDischargeDepth := 30) [perstStart, h]

@[simp] theorem keeps_perstInStart {o0 : State} (s : State) (h : Keeps o0 s) : Keeps o0 (perstInStart s) := by
  simp (maxDischargeDepth := 30) [perstInStart, h]

@[simp] theorem keeps_ctrlReset {o0 : State} (f : Nat) (s : State) (h : Keeps o0 s) : Keeps o0 (ctrlReset f s) := by
  simp only [ctrlReset]
  (repeat' split) <;> first | with_reducible exact h | simp (maxDischargeDepth := 30) [h]

@[simp] theorem keeps_fuseRaise {o0 : State}  (s : State) (h : Keeps o0 s) : Keeps o0 (fuseRaise  s) := by
  unfold fuseRaise
  split
  · split
    · refine ⟨h.1, h.2.1, h.2.2.1, fun hf => ?_, h.2.2.2.2⟩
      have h1 := h.2.2.2.1 hf
      have h2 : s.fw.recovery = o0.fw.recovery := h.2.1
      show max s.fw.fused (min _ (min s.fw.recovery.counter 64)) ≤ _
      rw [h2]
      omega
    · exact h
  · exact h

@[simp] theorem keeps_fnReady {o0 : State} (f : Nat) (s : State) (h : Keeps o0 s) : Keeps o0 (fnReady f s) := by
  unfold fnReady
  exact keeps_fuseRaise s h

@[simp] theorem keeps_enableFn {o0 : State} (f ams : Nat) (s : State) (h : Keeps o0 s) : Keeps o0 (enableFn f ams s) := by
  simp only [enableFn]
  (repeat' split) <;> first | with_reducible exact h | simp (maxDischargeDepth := 30) [h]

@[simp] theorem keeps_ctrlEnable {o0 : State} (f : Nat) (ams : BitVec 3) (s : State) (h : Keeps o0 s) : Keeps o0 (ctrlEnable f ams s) := by
  simp only [ctrlEnable]
  (repeat' split) <;> first | with_reducible exact h | simp (maxDischargeDepth := 30) [h]

@[simp] theorem keeps_lateReady {o0 : State} (f : Nat) (s : State) (h : Keeps o0 s) : Keeps o0 (lateReady f s) := by
  simp only [lateReady]
  (repeat' split) <;> first | with_reducible exact h | simp (maxDischargeDepth := 30) [h]

@[simp] theorem keeps_nssReset {o0 : State} (s : State) (h : Keeps o0 s) : Keeps o0 (nssReset s) := by
  simp only [nssReset]
  (repeat' split) <;> first | with_reducible exact h | simp (maxDischargeDepth := 30) [h]

@[simp] theorem keeps_mbxZeroize {o0 : State} (s : State) (h : Keeps o0 s) : Keeps o0 (mbxZeroize s) := by
  simp only [mbxZeroize]
  (repeat' split) <;> first | with_reducible exact h | simp (maxDischargeDepth := 30) [h]

@[simp] theorem keeps_drbgAgain {o0 : State} (s : State) (h : Keeps o0 s) : Keeps o0 (drbgAgain s) := by
  simp only [drbgAgain]
  (repeat' split) <;> first | with_reducible exact h | simp (maxDischargeDepth := 30) [h]

@[simp] theorem keeps_zeroizeN {o0 : State} (s : State) (h : Keeps o0 s) : Keeps o0 (zeroizeN s) := by
  simp only [zeroizeN]
  (repeat' split) <;> first | with_reducible exact h | simp (maxDischargeDepth := 30) [h]

@[simp] theorem keeps_aonRefresh {o0 : State} (s : State) (h : Keeps o0 s) : Keeps o0 (aonRefresh s) := by
  simp (maxDischargeDepth := 30) [aonRefresh, h]

@[simp] theorem keeps_gatedRecord {o0 : State} (who : Requester) (isWrite : Bool) (off : Nat) (s : State) (h : Keeps o0 s) : Keeps o0 (gatedRecord who isWrite off s) := h

@[simp] theorem keeps_gatedClear {o0 : State} (s : State) (h : Keeps o0 s) : Keeps o0 (gatedClear s) := h

@[simp] theorem keeps_modWv {o0 : State} (w : WvView) (g : WvWin → WvWin) (s : State) (h : Keeps o0 s) : Keeps o0 (modWv w g s) := by
  simp only [modWv]
  (repeat' split) <;> first | with_reducible exact h | simp (maxDischargeDepth := 30) [h]

@[simp] theorem keeps_wvSelect {o0 : State} (w : WvView) (sel : BitVec 16) (s : State) (h : Keeps o0 s) : Keeps o0 (wvSelect w sel s) := by
  simp (maxDischargeDepth := 30) [wvSelect, h]

@[simp] theorem keeps_wvSnap {o0 : State} (w : WvView) (s : State) (h : Keeps o0 s) : Keeps o0 (wvSnap w s) := by
  simp only [wvSnap]
  (repeat' split) <;> first | with_reducible exact h | simp (maxDischargeDepth := 30) [h]

@[simp] theorem keeps_paceClr {o0 : State} (m : Nat) (s : State) (h : Keeps o0 s) : Keeps o0 (paceClr m s) := h

@[simp] theorem keeps_gateRun {o0 : State} (base off bit obj : Nat) (owned : Bool) (checks : GateFail) (ok : State → State) (s : State)
    (ha : ∀ s, Keeps o0 s → Keeps o0 (ok s)) (h : Keeps o0 s) : Keeps o0 (gateRun base off bit obj owned checks ok s) := by
  simp only [gateRun]
  (repeat' split) <;> simp [h, ha]

@[simp] theorem keeps_gatedWrite {o0 : State} (al : RegAlias) (off bit : Nat) (v : W32) (gate : State → State) (s : State)
    (ha : ∀ s, Keeps o0 s → Keeps o0 (gate s)) (h : Keeps o0 s) : Keeps o0 (gatedWrite al off bit v gate s) := by
  simp only [gatedWrite]
  (repeat' split) <;> simp [h, ha]

@[simp] theorem keeps_paceLatch {o0 : State} (s : State) (h : Keeps o0 s) : Keeps o0 (paceLatch s) := h

@[simp] theorem keeps_paceGate {o0 : State} (s : State) (h : Keeps o0 s) : Keeps o0 (paceGate s) := by
  simp (maxDischargeDepth := 30) +contextual [paceGate, h]

@[simp] theorem keeps_paceCtrlWrite {o0 : State} (al : RegAlias) (v : W32) (s : State) (h : Keeps o0 s) : Keeps o0 (paceCtrlWrite al v s) := by
  simp (maxDischargeDepth := 30) +contextual [paceCtrlWrite, h]

@[simp] theorem keeps_thermAccept {o0 : State} (s : State) (h : Keeps o0 s) : Keeps o0 (thermAccept s) := by
  simp (maxDischargeDepth := 30) [thermAccept, h]

@[simp] theorem keeps_thermGate {o0 : State} (s : State) (h : Keeps o0 s) : Keeps o0 (thermGate s) := by
  simp (maxDischargeDepth := 30) +contextual [thermGate, h]

@[simp] theorem keeps_ventAccept {o0 : State} (s : State) (h : Keeps o0 s) : Keeps o0 (ventAccept s) := by
  simp (maxDischargeDepth := 30) [ventAccept, h]

@[simp] theorem keeps_ventGate {o0 : State} (s : State) (h : Keeps o0 s) : Keeps o0 (ventGate s) := by
  simp (maxDischargeDepth := 30) +contextual [ventGate, h]

@[simp] theorem keeps_mapGate {o0 : State} (s : State) (h : Keeps o0 s) : Keeps o0 (mapGate s) := by
  simp (maxDischargeDepth := 30) +contextual [mapGate, h]

@[simp] theorem keeps_mapCtrlWrite {o0 : State} (al : RegAlias) (v : W32) (s : State) (h : Keeps o0 s) : Keeps o0 (mapCtrlWrite al v s) := by
  simp (maxDischargeDepth := 30) +contextual [mapCtrlWrite, h]

@[simp] theorem keeps_aonPost {o0 : State} (w : AonWrite) (s : State) (h : Keeps o0 s) : Keeps o0 (aonPost w s) := by
  simp only [aonPost]
  (repeat' split) <;> first | with_reducible exact h | simp (maxDischargeDepth := 30) [h]

@[simp] theorem keeps_aonApply {o0 : State} (w : AonWrite) (s : State) (h : Keeps o0 s) : Keeps o0 (aonApply w s) := by
  simp only [aonApply]
  (repeat' split) <;> first | with_reducible exact h | simp (maxDischargeDepth := 30) +contextual [h]

@[simp] theorem keeps_wvEdge {o0 : State} (s : State) (h : Keeps o0 s) : Keeps o0 (wvEdge s) := h

@[simp] theorem keeps_aonEdge {o0 : State} (s : State) (h : Keeps o0 s) : Keeps o0 (aonEdge s) := by
  simp (maxDischargeDepth := 30) +contextual [aonEdge, keeps_foldl, h]

@[simp] theorem keeps_aonWriteEdge {o0 : State} (w : AonWrite) (s : State) (h : Keeps o0 s) : Keeps o0 (aonWriteEdge w s) := by
  simp (maxDischargeDepth := 30) +contextual [aonWriteEdge, keeps_foldl, h]

@[simp] theorem keeps_keySelect {o0 : State} (al : RegAlias) (v : W32) (s : State) (h : Keeps o0 s) : Keeps o0 (keySelect al v s) := by
  simp (maxDischargeDepth := 30) [keySelect, h]

@[simp] theorem keeps_keyWord {o0 : State} (i : Nat) (v : W32) (s : State) (h : Keeps o0 s) : Keeps o0 (keyWord i v s) := h

@[simp] theorem keeps_keyCommitOp {o0 : State} (force : Bool) (s : State) (h : Keeps o0 s) : Keeps o0 (keyCommitOp force s) := by
  simp (maxDischargeDepth := 30) +contextual [keyCommitOp, h]

@[simp] theorem keeps_coUsed {o0 : State} (s : State) (h : Keeps o0 s) : Keeps o0 (coUsed s) := h

@[simp] theorem keeps_coFailed {o0 : State} (s : State) (h : Keeps o0 s) : Keeps o0 (coFailed s) := h

@[simp] theorem keeps_coSubmitOp {o0 : State} (s : State) (h : Keeps o0 s) : Keeps o0 (coSubmitOp s) := by
  simp only [coSubmitOp]
  (repeat' split) <;> first | with_reducible exact h | simp (maxDischargeDepth := 30) [h]

@[simp] theorem keeps_coSetkeyOp {o0 : State} (s : State) (h : Keeps o0 s) : Keeps o0 (coSetkeyOp s) := by
  simp only [coSetkeyOp]
  (repeat' split) <;> first | with_reducible exact h | simp (maxDischargeDepth := 30) [h]

@[simp] theorem keeps_coAuthWrite {o0 : State} (v : W32) (s : State) (h : Keeps o0 s) : Keeps o0 (coAuthWrite v s) := by
  simp only [coAuthWrite]
  (repeat' split) <;> first | with_reducible exact h | simp (maxDischargeDepth := 30) [h]

@[simp] theorem keeps_fltcWrite {o0 : State} (al : RegAlias) (v : W32) (s : State) (h : Keeps o0 s) : Keeps o0 (fltcWrite al v s) := by
  simp (maxDischargeDepth := 30) [fltcWrite, h]

@[simp] theorem keeps_rejClr {o0 : State} (s : State) (h : Keeps o0 s) : Keeps o0 (rejClr s) := h

@[simp] theorem keeps_mbxRegWrite {o0 : State} (al : RegAlias) (off : Nat) (v : W32) (s : State) (h : Keeps o0 s) : Keeps o0 (mbxRegWrite al off v s) := by
  simp only [mbxRegWrite]
  (repeat' split) <;> first | with_reducible exact h | simp (maxDischargeDepth := 30) [h]

@[simp] theorem keeps_msiUnmask {o0 : State} (f v : Nat) (s : State) (h : Keeps o0 s) : Keeps o0 (msiUnmask f v s) := by
  simp only [msiUnmask]
  (repeat' split) <;> first | with_reducible exact h | simp (maxDischargeDepth := 30) [h]

@[simp] theorem keeps_sqTail {o0 : State} (f q tail : Nat) (entries : List Sqe) (s : State) (h : Keeps o0 s) : Keeps o0 (sqTail f q tail entries s) := by
  simp only [sqTail]
  (repeat' split) <;> first | with_reducible exact h | simp (maxDischargeDepth := 30) [h]

@[simp] theorem keeps_cqHead {o0 : State} (f q head : Nat) (s : State) (h : Keeps o0 s) : Keeps o0 (cqHead f q head s) := by
  simp only [cqHead]
  (repeat' split) <;> first | with_reducible exact h | simp (maxDischargeDepth := 30) [h]

@[simp] theorem keeps_arbServed {o0 : State} (f : Nat) (q : Sq) (c : Nat) (s : State) (h : Keeps o0 s) : Keeps o0 (arbServed f q c s) := by
  simp only [arbServed]
  (repeat' split) <;> first | with_reducible exact h | simp (maxDischargeDepth := 30) +contextual [h]

@[simp] theorem keeps_fetch {o0 : State} (q : Sq) (s : State) (h : Keeps o0 s) : Keeps o0 (fetch q s) := by
  simp only [fetch]
  (repeat' split) <;> first | with_reducible exact h | simp (maxDischargeDepth := 30) [h]

@[simp] theorem keeps_chargeCont {o0 : State} (i r w : Nat) (phase1 : Bool) (s : State) (h : Keeps o0 s) : Keeps o0 (chargeCont i r w phase1 s) := h

@[simp] theorem keeps_admitCand {o0 : State} (phase1 : Bool) (c : Cand) (s : State) (h : Keeps o0 s) : Keeps o0 (admitCand phase1 c s) := by
  simp only [admitCand]
  (repeat' split) <;> first | with_reducible exact h | simp (maxDischargeDepth := 30) [h]

@[simp] theorem keeps_setFactors {o0 : State} (s : State) (h : Keeps o0 s) : Keeps o0 (setFactors s) := h

@[simp] theorem keeps_settleShares {o0 : State} (s : State) (h : Keeps o0 s) : Keeps o0 (settleShares s) := h

@[simp] theorem keeps_setCredits {o0 : State}  (s : State) (h : Keeps o0 s) : Keeps o0 (setCredits  s) := by
  unfold setCredits
  exact (keeps_foldl (fun s i hs => keeps_modCont (h := hs) ..) _ h : Keeps o0 (List.foldl _ s _))

@[simp] theorem keeps_sendHeld {o0 : State} (f : Nat) (s : State) (h : Keeps o0 s) : Keeps o0 (sendHeld f s) := by
  simp only [sendHeld]
  (repeat' split) <;> first | with_reducible exact h | simp (maxDischargeDepth := 30) +contextual [keeps_foldl, h]

@[simp] theorem keeps_settleAges {o0 : State}  (s : State) (h : Keeps o0 s) : Keeps o0 (settleAges  s) := by
  unfold settleAges
  refine keeps_foldl (fun s f hs => ?_) _ h
  split
  · exact hs
  · exact hs

@[simp] theorem keeps_admin {o0 : State} (id : CmdId) (opc : Nat) (s : State) (k : Cmd → State) (ha : ∀ c, Keeps o0 (k c))
    (h : Keeps o0 s) : Keeps o0 (admin id opc s k) := by
  simp only [admin]
  (repeat' split) <;> simp [h, ha]

@[simp] theorem keeps_unwait {o0 : State} (id : CmdId) (s : State) (h : Keeps o0 s) : Keeps o0 (unwait id s) := h

@[simp] theorem keeps_stopCmd {o0 : State} (st : Status) (c : Cmd) (s : State) (h : Keeps o0 s) : Keeps o0 (stopCmd st c s) := by
  simp only [stopCmd]
  (repeat' split) <;> first | with_reducible exact h | simp (maxDischargeDepth := 30) [h]

@[simp] theorem keeps_tempEvents {o0 : State} (s0 s : State) (h : Keeps o0 s) : Keeps o0 (tempEvents s0 s) := by
  simp only [tempEvents]
  (repeat' split) <;> first | with_reducible exact h | simp (maxDischargeDepth := 30) +contextual [keeps_foldl, h]

@[simp] theorem keeps_setFeature {o0 : State} (c : Cmd) (s : State) (h : Keeps o0 s) : Keeps o0 (setFeature c s) := by
  simp only [setFeature]
  (repeat' split) <;> first | with_reducible exact h | simp (maxDischargeDepth := 30) +contextual [keeps_foldl, h]

@[simp] theorem keeps_aerReport {o0 : State} (f : Nat) (s : State) (h : Keeps o0 s) : Keeps o0 (aerReport f s) := by
  simp only [aerReport]
  (repeat' split) <;> first | with_reducible exact h | simp (maxDischargeDepth := 30) [h]

@[simp] theorem keeps_logRead {o0 : State} (f lid nsid : Nat) (s : State) (h : Keeps o0 s) : Keeps o0 (logRead f lid nsid s) := by
  simp only [logRead]
  (repeat' split) <;> first | with_reducible exact h | simp (maxDischargeDepth := 30) [h]

@[simp] theorem keeps_putSlot {o0 : State} (n : Nat) (i : Img) (s : State) (h : Keeps o0 s) : Keeps o0 (putSlot n i s) := h

@[simp] theorem keeps_setActive {o0 : State} (n : Nat) (s : State) (h : Keeps o0 s) : Keeps o0 (setActive n s) := by
  simp only [setActive]
  (repeat' split) <;> first | with_reducible exact h | simp (maxDischargeDepth := 30) [h]

@[simp] theorem keeps_actBegin {o0 : State} (slot : Nat) (mbx : Bool) (cmd : Option CmdId) (s : State) (h : Keeps o0 s) : Keeps o0 (actBegin slot mbx cmd s) := by
  simp only [actBegin]
  (repeat' split) <;> first | with_reducible exact h | simp (maxDischargeDepth := 30) [h]

@[simp] theorem keeps_actReset {o0 : State} (slot : Nat) (mbx : Bool) (s : State) (h : Keeps o0 s) : Keeps o0 (actReset slot mbx s) := by
  simp (maxDischargeDepth := 30) [actReset, h]

@[simp] theorem keeps_commitImg {o0 : State} (id : CmdId) (ca slot : Nat) (loaded : Bool) (i : Img) (s : State) (h : Keeps o0 s) : Keeps o0 (commitImg id ca slot loaded i s) := by
  simp only [commitImg]
  (repeat' split) <;> first | with_reducible exact h | simp (maxDischargeDepth := 30) [h]

@[simp] theorem keeps_flushAll {o0 : State}  (s : State) (h : Keeps o0 s) : Keeps o0 (flushAll  s) := by
  unfold flushAll
  exact keeps_storeJobs (h := (keeps_foldl (fun s k hs => keeps_zoneSettle (h := keeps_sealZone (h := keeps_cutFull (h := hs) ..) ..) ..) _ h :
    Keeps o0 (List.foldl _ s _))) ..

@[simp] theorem keeps_crossLog {o0 : State} (n : Nat) (was is : Bool) (x : Int) (k : Nat) (s : State) (h : Keeps o0 s) : Keeps o0 (crossLog n was is x k s) := by
  simp only [crossLog]
  (repeat' split) <;> first | with_reducible exact h | simp (maxDischargeDepth := 30) [h]

@[simp] theorem keeps_tempOwe {o0 : State} (s0 s : State) (h : Keeps o0 s) : Keeps o0 (tempOwe s0 s) := h

@[simp] theorem keeps_thermAccount {o0 : State} (s : State) (h : Keeps o0 s) : Keeps o0 (thermAccount s) := h

@[simp] theorem keeps_kerfMark {o0 : State} (s : State) (h : Keeps o0 s) : Keeps o0 (kerfMark s) := by
  simp only [kerfMark]
  (repeat' split) <;> first | with_reducible exact h | simp (maxDischargeDepth := 30) +contextual [h]

@[simp] theorem keeps_shutDown {o0 : State} (s : State) (h : Keeps o0 s) : Keeps o0 (shutDown s) := by
  simp only [shutDown]
  (repeat' split) <;> first | with_reducible exact h | simp (maxDischargeDepth := 30) [h]

@[simp] theorem keeps_thermStep {o0 : State} (x : Int) (s0 : State) (h : Keeps o0 s0) : Keeps o0 (thermStep x s0) := by
  simp only [thermStep]
  (repeat' split) <;> first | with_reducible exact h | simp (maxDischargeDepth := 30) [h]

@[simp] theorem keeps_putReadings {o0 : State} (r : Readings) (s : State) (h : Keeps o0 s) : Keeps o0 (putReadings r s) := h

@[simp] theorem keeps_holdupApply {o0 : State} (s : State) (h : Keeps o0 s) : Keeps o0 (holdupApply s) := by
  simp only [holdupApply]
  (repeat' split) <;> first | with_reducible exact h | simp (maxDischargeDepth := 30) +contextual [h]

@[simp] theorem keeps_ceilRound {o0 : State} (s : State) (h : Keeps o0 s) : Keeps o0 (ceilRound s) := by
  simp only [ceilRound]
  (repeat' split) <;> first | with_reducible exact h | simp (maxDischargeDepth := 30) +contextual [h]

@[simp] theorem keeps_dozeVent {o0 : State} (s : State) (h : Keeps o0 s) : Keeps o0 (dozeVent s) := by
  simp (maxDischargeDepth := 30) [dozeVent, h]

@[simp] theorem keeps_vinVent {o0 : State} (dur : Nat) (s : State) (h : Keeps o0 s) : Keeps o0 (vinVent dur s) := by
  simp only [vinVent]
  (repeat' split) <;> first | with_reducible exact h | simp (maxDischargeDepth := 30) [h]

@[simp] theorem keeps_psReach {o0 : State} (t : Trans) (s : State) (h : Keeps o0 s) : Keeps o0 (psReach t s) := by
  simp only [psReach]
  (repeat' split) <;> first | with_reducible exact h | simp (maxDischargeDepth := 30) [h]

@[simp] theorem keeps_psNext {o0 : State} (s : State) (h : Keeps o0 s) : Keeps o0 (psNext s) := by
  simp only [psNext]
  (repeat' split) <;> first | with_reducible exact h | simp (maxDischargeDepth := 30) +contextual [h]

@[simp] theorem keeps_exitOwed {o0 : State} (s : State) (h : Keeps o0 s) : Keeps o0 (exitOwed s) := by
  simp only [exitOwed]
  (repeat' split) <;> first | with_reducible exact h | simp (maxDischargeDepth := 30) +contextual [keeps_foldl, keeps_foldr, h]

@[simp] theorem keeps_exitMode {o0 : State} (s : State) (h : Keeps o0 s) : Keeps o0 (exitMode s) := by
  simp only [exitMode]
  (repeat' split) <;> first | with_reducible exact h | simp (maxDischargeDepth := 30) [h]

@[simp] theorem keeps_ranksSleep {o0 : State} (s : State) (h : Keeps o0 s) : Keeps o0 (ranksSleep s) := h

@[simp] theorem keeps_enterDoze {o0 : State} (s : State) (h : Keeps o0 s) : Keeps o0 (enterDoze s) := by
  simp only [enterDoze]
  (repeat' split) <;> first | with_reducible exact h | simp (maxDischargeDepth := 30) [h]

@[simp] theorem keeps_enterWatch {o0 : State} (s : State) (h : Keeps o0 s) : Keeps o0 (enterWatch s) := by
  simp (maxDischargeDepth := 30) [enterWatch, h]

@[simp] theorem keeps_runTests {o0 : State} (t : SelfTest) (s : State) (h : Keeps o0 s) : Keeps o0 (runTests t s) := by
  simp only [runTests]
  (repeat' split) <;> first | with_reducible exact h | simp (maxDischargeDepth := 30) +contextual [keeps_foldl, h]

@[simp] theorem keeps_watchRestart {o0 : State} (crc : Bool) (s : State) (h : Keeps o0 s) : Keeps o0 (watchRestart crc s) := by
  simp only [watchRestart]
  (repeat' split) <;> first | with_reducible exact h | simp (maxDischargeDepth := 30) [h]

/-- No check fails exactly when each of them passes. -/
theorem firstM_none {l : List MFail} : firstM l = none ↔ ∀ m ∈ l, m = none := by
  induction l with
  | nil => simp [firstM]
  | cons m t ih => cases m <;> simp [firstM, ih]

/-- A check passes exactly when its condition does not hold. -/
theorem mfail_none {c : Bool} {code arg obj : Nat} : mfail c code arg obj = none ↔ c = false := by
  cases c <;> simp [mfail]

@[simp] theorem keeps_mbxDo {o0 : State} (checks : List MFail) (act : State → State) (s : State) (ha : ∀ s, Keeps o0 s → Keeps o0 (act s))
    (h : Keeps o0 s) : Keeps o0 (mbxDo checks act s) := by
  unfold mbxDo; split
  · exact keeps_mbxFail _ _ _ _ h
  · exact ha _ h

@[simp] theorem keeps_mbxAccept {o0 : State} (opc : Nat) (r : MbxReq) (met : List SramMet) (test : Option SelfTest) (s : State) (h : Keeps o0 s) : Keeps o0 (mbxAccept opc r met test s) := by
  simp (maxDischargeDepth := 30) +contextual [mbxAccept, keeps_foldl, h]

@[simp] theorem keeps_ring {o0 : State} (opc : Nat) (r : MbxReq) (met : List SramMet) (test : Option SelfTest)
    (body : MbxRun → State → State) (s : State) (hb : ∀ m s, Keeps o0 s → Keeps o0 (body m s)) (h : Keeps o0 s) :
    Keeps o0 (ring opc r met test body s) := by
  unfold ring
  have h1 : Keeps o0 (mbxAccept opc r met test s) := keeps_mbxAccept (h := h) ..
  generalize mbxAccept opc r met test s = s1 at h1 ⊢
  dsimp only
  (repeat' split) <;> first
    | exact h
    | exact keeps_gatedRecord (h := keeps_foldl (fun s w hs => keeps_gatedRecord (h := hs) ..) _ h) ..
    | exact h1
    | (refine keeps_mbxDo (ha := fun s hs => ?_) (h := h1) ..; split <;> first | exact hs | exact hb _ _ hs)

@[simp] theorem keeps_mbDevIdentify {o0 : State} (r : MbxRun) (s : State) (h : Keeps o0 s) : Keeps o0 (mbDevIdentify r s) := by
  simp (maxDischargeDepth := 30) +contextual [mbDevIdentify, h]

@[simp] theorem keeps_mbDevState {o0 : State} (s : State) (h : Keeps o0 s) : Keeps o0 (mbDevState s) := by
  simp (maxDischargeDepth := 30) +contextual [mbDevState, h]

@[simp] theorem keeps_mbFwWriteSlot {o0 : State} (r : MbxRun) (s : State) (h : Keeps o0 s) : Keeps o0 (mbFwWriteSlot r s) := by
  simp (maxDischargeDepth := 30) +contextual [mbFwWriteSlot, h]

@[simp] theorem keeps_mbFwSlotQuery {o0 : State} (s : State) (h : Keeps o0 s) : Keeps o0 (mbFwSlotQuery s) := by
  simp (maxDischargeDepth := 30) +contextual [mbFwSlotQuery, h]

@[simp] theorem keeps_mbFwActivate {o0 : State} (r : MbxRun) (s : State) (h : Keeps o0 s) : Keeps o0 (mbFwActivate r s) := by
  simp only [mbFwActivate]
  (repeat' split) <;> first | with_reducible exact h | simp (maxDischargeDepth := 30) +contextual [h]

@[simp] theorem keeps_mbTenantCreate {o0 : State} (r : MbxRun) (s : State) (h : Keeps o0 s) : Keeps o0 (mbTenantCreate r s) := by
  simp (maxDischargeDepth := 30) +contextual [mbTenantCreate, h]

@[simp] theorem keeps_mbTenantConfigure {o0 : State} (r : MbxRun) (s : State) (h : Keeps o0 s) : Keeps o0 (mbTenantConfigure r s) := by
  simp (maxDischargeDepth := 30) +contextual [mbTenantConfigure, h]

@[simp] theorem keeps_mbTenantSetShare {o0 : State} (r : MbxRun) (s : State) (h : Keeps o0 s) : Keeps o0 (mbTenantSetShare r s) := by
  simp (maxDischargeDepth := 30) +contextual [mbTenantSetShare, h]

@[simp] theorem keeps_mbTenantEnable {o0 : State} (r : MbxRun) (s : State) (h : Keeps o0 s) : Keeps o0 (mbTenantEnable r s) := by
  simp only [mbTenantEnable]
  (repeat' split) <;> first | with_reducible exact h | simp (maxDischargeDepth := 30) +contextual [h]

@[simp] theorem keeps_mbTenantReset {o0 : State} (r : MbxRun) (s : State) (h : Keeps o0 s) : Keeps o0 (mbTenantReset r s) := by
  simp (maxDischargeDepth := 30) +contextual [mbTenantReset, h]

@[simp] theorem keeps_mbTenantDestroy {o0 : State} (r : MbxRun) (s : State) (h : Keeps o0 s) : Keeps o0 (mbTenantDestroy r s) := by
  simp only [mbTenantDestroy]
  (repeat' split) <;> first | with_reducible exact h | simp (maxDischargeDepth := 30) +contextual [h]

@[simp] theorem keeps_mbTenantQuery {o0 : State} (r : MbxRun) (s : State) (h : Keeps o0 s) : Keeps o0 (mbTenantQuery r s) := by
  simp (maxDischargeDepth := 30) +contextual [mbTenantQuery, h]

@[simp] theorem keeps_mbNsCreate {o0 : State} (r : MbxRun) (s : State) (h : Keeps o0 s) : Keeps o0 (mbNsCreate r s) := by
  simp only [mbNsCreate]
  (repeat' split) <;> first | with_reducible exact h | simp (maxDischargeDepth := 30) +contextual [h]

@[simp] theorem keeps_nsDrop {o0 : State} (ns : Nat) (s : State) (h : Keeps o0 s) : Keeps o0 (nsDrop ns s) := by
  simp (maxDischargeDepth := 30) +contextual [nsDrop, keeps_foldl, h]

@[simp] theorem keeps_mbNsDelete {o0 : State} (r : MbxRun) (s : State) (h : Keeps o0 s) : Keeps o0 (mbNsDelete r s) := by
  simp (maxDischargeDepth := 30) +contextual [mbNsDelete, h]

@[simp] theorem keeps_nsNotice {o0 : State} (ns f : Nat) (s : State) (h : Keeps o0 s) : Keeps o0 (nsNotice ns f s) := by
  simp (maxDischargeDepth := 30) [nsNotice, h]

@[simp] theorem keeps_mbNsAttach {o0 : State} (r : MbxRun) (s : State) (h : Keeps o0 s) : Keeps o0 (mbNsAttach r s) := by
  simp only [mbNsAttach]
  (repeat' split) <;> first | with_reducible exact h | simp (maxDischargeDepth := 30) +contextual [h]

@[simp] theorem keeps_mbNsDetach {o0 : State} (r : MbxRun) (s : State) (h : Keeps o0 s) : Keeps o0 (mbNsDetach r s) := by
  simp (maxDischargeDepth := 30) +contextual [mbNsDetach, h]

@[simp] theorem keeps_mbProfileWrite {o0 : State} (r : MbxRun) (s : State) (h : Keeps o0 s) : Keeps o0 (mbProfileWrite r s) := by
  simp (maxDischargeDepth := 30) +contextual [mbProfileWrite, h]

@[simp] theorem keeps_mbProfileEnable {o0 : State} (r : MbxRun) (s : State) (h : Keeps o0 s) : Keeps o0 (mbProfileEnable r s) := by
  simp only [mbProfileEnable]
  (repeat' split) <;> first | with_reducible exact h | simp (maxDischargeDepth := 30) +contextual [h]

@[simp] theorem keeps_mbProfileAttach {o0 : State} (r : MbxRun) (s : State) (h : Keeps o0 s) : Keeps o0 (mbProfileAttach r s) := by
  simp (maxDischargeDepth := 30) +contextual [mbProfileAttach, h]

@[simp] theorem keeps_sramCe {o0 : State} (s : State) (h : Keeps o0 s) : Keeps o0 (sramCe s) := h

@[simp] theorem keeps_sramUe {o0 : State} (src k : Nat) (s : State) (h : Keeps o0 s) : Keeps o0 (sramUe src k s) := by
  simp only [sramUe]
  (repeat' split) <;> first | with_reducible exact h | simp (maxDischargeDepth := 30) [h]

@[simp] theorem keeps_setRow {o0 : State} (k : Nat) (v : BitVec 297) (s : State) (h : Keeps o0 s) : Keeps o0 (setRow k v s) := h

@[simp] theorem keeps_jobRepeat {o0 : State} (n : Nat) (s : State) (h : Keeps o0 s) : Keeps o0 (jobRepeat n s) := h

@[simp] theorem keeps_frameAgain {o0 : State} (n : Nat) (s : State) (h : Keeps o0 s) : Keeps o0 (frameAgain n s) := by
  simp only [frameAgain]
  (repeat' split) <;> first | with_reducible exact h | simp (maxDischargeDepth := 30) [h]

@[simp] theorem keeps_offLost {o0 : State} (n : Nat) (s : State) (h : Keeps o0 s) : Keeps o0 (offLost n s) := by
  simp only [offLost]
  (repeat' split) <;> first | with_reducible exact h | simp (maxDischargeDepth := 30) [h]

@[simp] theorem keeps_slotReload {o0 : State} (k : Nat) (s : State) (h : Keeps o0 s) : Keeps o0 (slotReload k s) := by
  simp only [slotReload]
  (repeat' split) <;> first | with_reducible exact h | simp (maxDischargeDepth := 30) +contextual [keeps_foldl, h]

@[simp] theorem keeps_reqLost {o0 : State} (who : SramReq) (write : Bool) (s : State) (h : Keeps o0 s) : Keeps o0 (reqLost who write s) := by
  simp only [reqLost]
  (repeat' split) <;> first | with_reducible exact h | simp (maxDischargeDepth := 30) [h]

@[simp] theorem keeps_sramDo {o0 : State} (s : State) (m : SramMet) (h : Keeps o0 s) : Keeps o0 (sramDo s m) := by
  unfold sramDo
  split
  · exact h
  · exact keeps_setRow (h := h) ..
  · split
    · exact h
    · exact keeps_sramCe (h := h) ..
    · exact keeps_reqLost (h := keeps_sramUe (h := h) ..) ..
  · extract_lets v put
    have hp : ∀ s, Keeps o0 s → Keeps o0 (put s) := fun s hs => keeps_setRow (h := hs) ..
    clear_value put
    split
    · exact hp _ h
    · exact hp _ (keeps_sramCe (h := h) ..)
    · exact keeps_reqLost (h := keeps_sramUe (h := h) ..) ..

@[simp] theorem keeps_scrubBack {o0 : State} (k c : Nat) (s : State) (h : Keeps o0 s) : Keeps o0 (scrubBack k c s) := by
  unfold scrubBack
  extract_lets s1
  have h1 : Keeps o0 s1 := keeps_setRow (h := h) ..
  clear_value s1
  split
  · exact h1
  · exact keeps_sramUe (h := h1) ..
  · have h2 : Keeps o0 (sramCe s1) := keeps_sramCe (h := h1) ..
    split <;> exact h2

@[simp] theorem keeps_scrubCount {o0 : State} (k : Nat) (res : RowRes) (s : State) (h : Keeps o0 s) : Keeps o0 (scrubCount k res s) := by
  simp only [scrubCount]
  (repeat' split) <;> first | with_reducible exact h | simp (maxDischargeDepth := 30) [h]

@[simp] theorem keeps_scrubRow {o0 : State} (repair : Bool) (here : List SramMet) (k : Nat) (s : State) (h : Keeps o0 s) : Keeps o0 (scrubRow repair here k s) := by
  have hl : ∀ s, Keeps o0 s → Keeps o0 (here.foldl sramDo s) := fun s hs => keeps_foldl (fun s w hs => keeps_sramDo _ _ hs) _ hs
  have h0 : Keeps o0 (scrubCount k (rowCheck (rowRead s k)) s) := keeps_scrubCount (h := h) ..
  unfold scrubRow
  dsimp only
  generalize scrubCount k (rowCheck (rowRead s k)) s = s1 at h0 ⊢
  split
  · exact hl _ h0
  · exact hl _ (keeps_sramUe (h := h0) ..)
  · have h1 : Keeps o0 (here.foldl sramDo (sramCe s1)) := hl _ (keeps_sramCe (h := h0) ..)
    split
    · exact h1
    · split
      · exact keeps_scrubBack (h := h1) ..
      · split
        · exact h1
        · exact keeps_sramUe (h := h1) ..
        · exact keeps_scrubBack (h := keeps_sramCe (h := h1) ..) ..

@[simp] theorem keeps_scrubStart {o0 : State} (r : MbxRun) (s : State) (h : Keeps o0 s) : Keeps o0 (scrubStart r s) := by
  exact (keeps_foldl (fun s w hs => keeps_sramDo (h := hs) ..) _ h : Keeps o0 (List.foldl _ s _))

@[simp] theorem keeps_scrubMacro {o0 : State} (r : MbxRun) (s : State) (h : Keeps o0 s) : Keeps o0 (scrubMacro r s) := by
  unfold scrubMacro
  extract_lets m met src s1
  have h1 : Keeps o0 s1 := h
  clear_value s1
  exact (keeps_foldl (fun s k hs => keeps_scrubRow (h := hs) ..) _ h1 : Keeps o0 (List.foldl _ s1 _))

@[simp] theorem keeps_scrubMacros {o0 : State} (r : MbxRun) (n : Nat) (s : State) (h : Keeps o0 s) : Keeps o0 (scrubMacros r n s) := by
  induction n generalizing s with
  | zero => exact h
  | succ n ih => exact ih _ (keeps_scrubMacro (h := h) ..)

@[simp] theorem keeps_scrubTick {o0 : State} (s : State) (h : Keeps o0 s) : Keeps o0 (scrubTick s) := by
  simp only [scrubTick]
  (repeat' split) <;> first | with_reducible exact h | simp (maxDischargeDepth := 30) [h]

@[simp] theorem keeps_scrubEnd {o0 : State} (r : MbxRun) (s : State) (h : Keeps o0 s) : Keeps o0 (scrubEnd r s) := by
  exact keeps_mbxDone (h := keeps_scrubMacros (h := h) ..) ..

@[simp] theorem keeps_repairRow {o0 : State} (e : Repair) (k : Nat) (s : State) (h : Keeps o0 s) : Keeps o0 (repairRow e k s) := by
  unfold repairRow
  extract_lets put
  have hp : ∀ s, Keeps o0 s → Keeps o0 (put s) := fun s hs => keeps_setRow (h := hs) ..
  clear_value put
  split
  · exact hp _ h
  · exact keeps_sramCe (h := hp _ h) ..
  · exact keeps_setRow (h := keeps_sramUe (h := h) ..) ..

@[simp] theorem keeps_repairCopy {o0 : State} (e : Repair) (s : State) (h : Keeps o0 s) : Keeps o0 (repairCopy e s) := by
  exact keeps_foldl (fun s k hs => keeps_repairRow (h := hs) ..) _ h

@[simp] theorem keeps_mbKeyLoadWrapped {o0 : State} (r : MbxRun) (s : State) (h : Keeps o0 s) : Keeps o0 (mbKeyLoadWrapped r s) := by
  simp (maxDischargeDepth := 30) +contextual [mbKeyLoadWrapped, h]

@[simp] theorem keeps_mbKeyZeroizeSlot {o0 : State} (r : MbxRun) (s : State) (h : Keeps o0 s) : Keeps o0 (mbKeyZeroizeSlot r s) := by
  simp (maxDischargeDepth := 30) +contextual [mbKeyZeroizeSlot, h]

@[simp] theorem keeps_mbKeyZeroizeAll {o0 : State} (s : State) (h : Keeps o0 s) : Keeps o0 (mbKeyZeroizeAll s) := by
  simp (maxDischargeDepth := 30) +contextual [mbKeyZeroizeAll, h]

@[simp] theorem keeps_mbKeySetCeiling {o0 : State} (r : MbxRun) (s : State) (h : Keeps o0 s) : Keeps o0 (mbKeySetCeiling r s) := by
  simp (maxDischargeDepth := 30) +contextual [mbKeySetCeiling, h]

@[simp] theorem keeps_setLock {o0 : State} (i : Nat) (l : LockRange) (s : State) (h : Keeps o0 s) : Keeps o0 (setLock i l s) := h

@[simp] theorem keeps_mbLockDefine {o0 : State} (r : MbxRun) (s : State) (h : Keeps o0 s) : Keeps o0 (mbLockDefine r s) := by
  simp only [mbLockDefine]
  (repeat' split) <;> first | with_reducible exact h | simp (maxDischargeDepth := 30) +contextual [h]

@[simp] theorem keeps_mbLockSet {o0 : State} (r : MbxRun) (s : State) (h : Keeps o0 s) : Keeps o0 (mbLockSet r s) := by
  simp only [mbLockSet]
  (repeat' split) <;> first | with_reducible exact h | simp (maxDischargeDepth := 30) +contextual [h]

@[simp] theorem keeps_mbSanitize {o0 : State} (r : MbxRun) (s : State) (h : Keeps o0 s) : Keeps o0 (mbSanitize r s) := by
  simp (maxDischargeDepth := 30) +contextual [mbSanitize, h]

@[simp] theorem keeps_mbPowerStateSet {o0 : State} (r : MbxRun) (s : State) (h : Keeps o0 s) : Keeps o0 (mbPowerStateSet r s) := by
  simp (maxDischargeDepth := 30) +contextual [mbPowerStateSet, h]

@[simp] theorem keeps_mbHoldupSet {o0 : State} (r : MbxRun) (s : State) (h : Keeps o0 s) : Keeps o0 (mbHoldupSet r s) := by
  simp (maxDischargeDepth := 30) +contextual [mbHoldupSet, h]

@[simp] theorem keeps_mbVentTest {o0 : State} (r : MbxRun) (s : State) (h : Keeps o0 s) : Keeps o0 (mbVentTest r s) := by
  unfold mbVentTest
  refine keeps_mbxDo (ha := fun s hs => ?_) (h := h) ..
  extract_lets s1
  have h1 : Keeps o0 s1 := keeps_capTestCut (h := hs) ..
  clear_value s1
  exact keeps_ventTestEnd (h := (h1 : Keeps o0 { s1 with pin := _, hold := _, mbx := _, ops := _ })) ..

@[simp] theorem keeps_mbWatchConfig {o0 : State} (r : MbxRun) (s : State) (h : Keeps o0 s) : Keeps o0 (mbWatchConfig r s) := by
  simp (maxDischargeDepth := 30) +contextual [mbWatchConfig, h]

@[simp] theorem keeps_mbScrub {o0 : State} (r : MbxRun) (s : State) (h : Keeps o0 s) : Keeps o0 (mbScrub r s) := by
  simp (maxDischargeDepth := 30) +contextual [mbScrub, h]

@[simp] theorem keeps_mbRankMigrate {o0 : State} (r : MbxRun) (s : State) (h : Keeps o0 s) : Keeps o0 (mbRankMigrate r s) := by
  simp (maxDischargeDepth := 30) +contextual [mbRankMigrate, h]

@[simp] theorem keeps_mbRepairAdd {o0 : State} (r : MbxRun) (s : State) (h : Keeps o0 s) : Keeps o0 (mbRepairAdd r s) := by
  unfold mbRepairAdd mbxDo
  extract_lets m col i e
  split
  · exact keeps_mbxFail _ _ _ _ h
  · next hn =>
    have hlen : s.sram.repairs.length < 64 := by
      have hc := firstM_none.1 hn (mfail (decide (64 ≤ s.sram.repairs.length)) 5 0 m) (by simp)
      simpa using mfail_none.1 hc
    dsimp -zeta only
    have h1 : Keeps o0 (repairCopy e s) := keeps_repairCopy (h := h) ..
    generalize repairCopy e s = s1 at h1 ⊢
    dsimp only
    have h2 : Keeps o0 { s1 with sram := { s1.sram with repairs := s.sram.repairs ++ [e] } } := by
      refine ⟨h1.1, h1.2.1, h1.2.2.1, h1.2.2.2.1, fun _ => ?_⟩
      show (s.sram.repairs ++ [_]).length ≤ 64
      rw [List.length_append, List.length_singleton]
      omega
    refine keeps_mbxDone (h := ?_) ..
    split
    · exact keeps_causeOn (h := h2) ..
    · exact h2

@[simp] theorem keeps_mbFleetSetId {o0 : State} (r : MbxRun) (s : State) (h : Keeps o0 s) : Keeps o0 (mbFleetSetId r s) := by
  simp (maxDischargeDepth := 30) +contextual [mbFleetSetId, h]

@[simp] theorem keeps_mbFleetSetExpected {o0 : State} (r : MbxRun) (s : State) (h : Keeps o0 s) : Keeps o0 (mbFleetSetExpected r s) := by
  simp (maxDischargeDepth := 30) +contextual [mbFleetSetExpected, h]

@[simp] theorem keeps_mbFleetLoadMigrationKey {o0 : State} (r : MbxRun) (s : State) (h : Keeps o0 s) : Keeps o0 (mbFleetLoadMigrationKey r s) := by
  simp (maxDischargeDepth := 30) +contextual [mbFleetLoadMigrationKey, h]

@[simp] theorem keeps_mbLogRead {o0 : State} (r : MbxRun) (s : State) (h : Keeps o0 s) : Keeps o0 (mbLogRead r s) := by
  simp (maxDischargeDepth := 30) +contextual [mbLogRead, h]

@[simp] theorem keeps_mbSelftest {o0 : State} (r : MbxRun) (s : State) (h : Keeps o0 s) : Keeps o0 (mbSelftest r s) := by
  simp only [mbSelftest]
  (repeat' split) <;> first | with_reducible exact h | simp (maxDischargeDepth := 30) +contextual [h]

@[simp] theorem keeps_mbTenantFreeze {o0 : State} (r : MbxRun) (s : State) (h : Keeps o0 s) : Keeps o0 (mbTenantFreeze r s) := by
  simp (maxDischargeDepth := 30) +contextual [mbTenantFreeze, h]

@[simp] theorem keeps_mbTenantSave {o0 : State} (r : MbxRun) (s : State) (h : Keeps o0 s) : Keeps o0 (mbTenantSave r s) := by
  simp (maxDischargeDepth := 30) +contextual [mbTenantSave, h]

@[simp] theorem keeps_restoreDo {o0 : State} (t : Nat) (b : List Byte) (s : State) (h : Keeps o0 s) : Keeps o0 (restoreDo t b s) := by
  unfold restoreDo
  exact keeps_mbxDone (h := h) ..

@[simp] theorem keeps_mbTenantRestore {o0 : State} (r : MbxRun) (s : State) (h : Keeps o0 s) : Keeps o0 (mbTenantRestore r s) := by
  simp (maxDischargeDepth := 30) +contextual [mbTenantRestore, h]

@[simp] theorem keeps_thawMsgs {o0 : State} (f : Nat) (s : State) (h : Keeps o0 s) : Keeps o0 (thawMsgs f s) := by
  simp only [thawMsgs]
  (repeat' split) <;> first | with_reducible exact h | simp (maxDischargeDepth := 30) +contextual [keeps_foldl, h]

@[simp] theorem keeps_thaw {o0 : State} (t : Nat) (s : State) (h : Keeps o0 s) : Keeps o0 (thaw t s) := by
  simp (maxDischargeDepth := 30) +contextual [thaw, keeps_foldl, h]

@[simp] theorem keeps_mbTenantThaw {o0 : State} (r : MbxRun) (s : State) (h : Keeps o0 s) : Keeps o0 (mbTenantThaw r s) := by
  simp (maxDischargeDepth := 30) +contextual [mbTenantThaw, h]

@[simp] theorem keeps_setDlog {o0 : State} (t : Nat) (d : DLog) (s : State) (h : Keeps o0 s) : Keeps o0 (setDlog t d s) := h

@[simp] theorem keeps_mbDirtyLogCtrl {o0 : State} (r : MbxRun) (s : State) (h : Keeps o0 s) : Keeps o0 (mbDirtyLogCtrl r s) := by
  simp only [mbDirtyLogCtrl]
  (repeat' split) <;> first | with_reducible exact h | simp (maxDischargeDepth := 30) +contextual [h]

@[simp] theorem keeps_mbDirtyLogHarvest {o0 : State} (r : MbxRun) (s : State) (h : Keeps o0 s) : Keeps o0 (mbDirtyLogHarvest r s) := by
  simp (maxDischargeDepth := 30) +contextual [mbDirtyLogHarvest, h]

@[simp] theorem keeps_mbxBody {o0 : State} (r : MbxRun) (s : State) (h : Keeps o0 s) : Keeps o0 (mbxBody r s) := by
  simp only [mbxBody]
  (repeat' split) <;> first | with_reducible exact h | simp (maxDischargeDepth := 30) [h]

@[simp] theorem keeps_mbxGo {o0 : State} (s : State) (h : Keeps o0 s) : Keeps o0 (mbxGo s) := by
  simp only [mbxGo]
  (repeat' split) <;> first | with_reducible exact h | simp (maxDischargeDepth := 30) [h]

@[simp] theorem keeps_runSlot {o0 : State} (n : Nat) (s : State) (h : Keeps o0 s) : Keeps o0 (runSlot n s) := h

@[simp] theorem keeps_actEnd {o0 : State} (a : Act) (st : Status) (s : State) (h : Keeps o0 s) : Keeps o0 (actEnd a st s) := by
  simp only [actEnd]
  (repeat' split) <;> first | with_reducible exact h | simp (maxDischargeDepth := 30) +contextual [h]

@[simp] theorem keeps_msixWrite {o0 : State} (f off : Nat) (v : W32) (s : State) (h : Keeps o0 s) : Keeps o0 (msixWrite f off v s) := by
  simp only [msixWrite]
  (repeat' split) <;> first | with_reducible exact h | simp (maxDischargeDepth := 30) [h]

@[simp] theorem keeps_ringHeld {o0 : State} (s : State) (h : Keeps o0 s) : Keeps o0 (ringHeld s) := by
  unfold ringHeld
  extract_lets cmd r
  clear_value cmd r
  split
  · exact keeps_ring (hb := keeps_mbxBody) (h := keeps_freeNext (h := h) ..) ..
  · exact keeps_ring (hb := keeps_mbxBody) (h := h) ..

@[simp] theorem keeps_flagClear {o0 : State} (off : Nat) (v : W32) (s : State) (h : Keeps o0 s) : Keeps o0 (flagClear off v s) := by
  simp only [flagClear]
  (repeat' split) <;> first | with_reducible exact h | simp (maxDischargeDepth := 30) [h]

@[simp] theorem keeps_strobe {o0 : State} (off : Nat) (v : W32) (s : State) (h : Keeps o0 s) : Keeps o0 (strobe off v s) := by
  simp only [strobe]
  (repeat' split) <;> first | with_reducible exact h | simp (maxDischargeDepth := 30) [h]

@[simp] theorem keeps_rwEffect {o0 : State} (al : RegAlias) (off : Nat) (v : W32) (s : State) (h : Keeps o0 s) : Keeps o0 (rwEffect al off v s) := by
  simp only [rwEffect]
  (repeat' split) <;> first | with_reducible exact h | simp (maxDischargeDepth := 30) [h]

@[simp] theorem keeps_doorbellWrite {o0 : State} (f i : Nat) (v : W32) (s : State) (h : Keeps o0 s) : Keeps o0 (doorbellWrite f i v s) := by
  simp only [doorbellWrite]
  (repeat' split) <;> first | with_reducible exact h | simp (maxDischargeDepth := 30) [h]

@[simp] theorem keeps_ccWrite {o0 : State} (f : Nat) (v : W32) (s : State) (h : Keeps o0 s) : Keeps o0 (ccWrite f v s) := by
  simp only [ccWrite]
  (repeat' split) <;> first | with_reducible exact h | simp (maxDischargeDepth := 30) [h]

@[simp] theorem keeps_nvmeWrite {o0 : State} (f off : Nat) (v : W32) (s : State) (h : Keeps o0 s) : Keeps o0 (nvmeWrite f off v s) := by
  simp only [nvmeWrite]
  (repeat' split) <;> first | with_reducible exact h | simp (maxDischargeDepth := 30) [h]

@[simp] theorem keeps_controlWrite {o0 : State} (al : RegAlias) (off : Nat) (v : W32) (s : State) (h : Keeps o0 s) : Keeps o0 (controlWrite al off v s) := by
  simp only [controlWrite]
  (repeat' split) <;> first | with_reducible exact h | simp (maxDischargeDepth := 30) [h]

@[simp] theorem keeps_tenantWrite {o0 : State} (f off : Nat) (v : W32) (s : State) (h : Keeps o0 s) : Keeps o0 (tenantWrite f off v s) := by
  simp only [tenantWrite]
  (repeat' split) <;> first | with_reducible exact h | simp (maxDischargeDepth := 30) [h]

@[simp] theorem keeps_mctp {o0 : State} (reply : State → State) (s : State) (ha : ∀ s, Keeps o0 s → Keeps o0 (reply s)) (h : Keeps o0 s) :
    Keeps o0 (mctp reply s) := by
  unfold mctp; split <;> simp [h, ha]

@[simp] theorem keeps_spdmServed {o0 : State} (ok : Bool) (reply : State → State) (s : State) (ha : ∀ s, Keeps o0 s → Keeps o0 (reply s))
    (h : Keeps o0 s) : Keeps o0 (spdmServed ok reply s) := by
  unfold spdmServed
  exact keeps_mctp _ _ (fun s hs => by split <;> simp [hs, ha]) h

@[simp] theorem keeps_drbgBytes {o0 : State} (n : Nat) (s : State) (h : Keeps o0 s) : Keeps o0 (drbgBytes n s).2 := h

@[simp] theorem keeps_signed {o0 : State} (body : List Byte) (s : State) (h : Keeps o0 s) : Keeps o0 (signed body s) := by
  simp (maxDischargeDepth := 30) [signed, h]

@[simp] theorem keeps_exchanged {o0 : State} (pairOk : Bool) (s : State) (h : Keeps o0 s) : Keeps o0 (exchanged pairOk s) := by
  simp only [exchanged]
  (repeat' split) <;> first | with_reducible exact h | simp (maxDischargeDepth := 30) [h]

@[simp] theorem keeps_spdmAnswer {o0 : State} (w : SpdmWait) (s : State) (h : Keeps o0 s) : Keeps o0 (spdmAnswer w s) := by
  simp only [spdmAnswer]
  (repeat' split) <;> first | with_reducible exact h | simp (maxDischargeDepth := 30) [h]

@[simp] theorem keeps_drawn {o0 : State} (w : SpdmWait) (s : State) (h : Keeps o0 s) : Keeps o0 (drawn w s) := by
  simp only [drawn]
  (repeat' split) <;> first | with_reducible exact h | simp (maxDischargeDepth := 30) [h]

@[simp] theorem keeps_noiseFail {o0 : State} (s : State) (h : Keeps o0 s) : Keeps o0 (noiseFail s) := by
  simp only [noiseFail]
  (repeat' split) <;> first | with_reducible exact h | simp (maxDischargeDepth := 30) [h]

@[simp] theorem keeps_waitsServed {o0 : State} (s : State) (h : Keeps o0 s) : Keeps o0 (waitsServed s) := by
  simp only [waitsServed]
  (repeat' split) <;> first | with_reducible exact h | simp (maxDischargeDepth := 30) +contextual [keeps_foldl, h]

@[simp] theorem keeps_modSess {o0 : State} (id : Nat) (g : Sess → Sess) (s : State) (h : Keeps o0 s) : Keeps o0 (modSess id g s) := h

theorem keeps_ventEngine {o0 : State} (s : State) (k : Nat) (h : Keeps o0 s) : ∀ r, ventEngine s k = some r → Keeps o0 r.2.2 := by
  intro r hr
  unfold ventEngine at hr
  dsimp only at hr
  split at hr
  · obtain ⟨u, hu, rfl⟩ := Option.map_eq_some_iff.1 hr
    exact keeps_takeValue _ _ _ h _ hu
  · obtain ⟨i, -, hi⟩ := Option.bind_eq_some_iff.1 hr
    obtain ⟨u, hu, rfl⟩ := Option.map_eq_some_iff.1 hi
    exact keeps_takeValue _ _ _ (keeps_giveLease _ _ _ h) _ hu

theorem keeps_ventOne {o0 : State} (s : State) (h : Keeps o0 s) : ∀ t, ventOne s = some t → Keeps o0 t := by
  intro t ht
  obtain ⟨b, -, ht⟩ := Option.bind_eq_some_iff.1 ht
  dsimp -zeta only at ht
  split at ht
  · cases ht
  · extract_lets at' data bad owner put at ht
    have hp : ∀ a e c f s, Keeps o0 s → Keeps o0 (put a e c f s) := fun a e c f s hs => hs
    clear_value put
    split at ht
    · injection ht with ht; exact ht ▸ hp _ _ _ _ _ h
    · obtain ⟨e, -, ht⟩ := Option.bind_eq_some_iff.1 ht
      obtain ⟨r, hr, rfl⟩ := Option.map_eq_some_iff.1 ht
      exact hp _ _ _ _ _ (keeps_ventEngine _ _ h _ hr)

@[simp] theorem keeps_ventUntil {o0 : State} (n due : Nat) (s : State) (h : Keeps o0 s) : Keeps o0 (ventUntil n due s) := by
  induction n generalizing s with
  | zero => exact h
  | succ n ih =>
    simp only [ventUntil]
    split
    · exact h
    · split
      · next hv => exact ih _ (keeps_ventOne _ h _ hv)
      · exact h

@[simp] theorem keeps_ventTick {o0 : State} (s : State) (h : Keeps o0 s) : Keeps o0 (ventTick s) := by
  unfold ventTick
  split
  · split
    · exact h
    · exact keeps_ventUntil (h := h) ..
  · exact h

@[simp] theorem keeps_ventDump {o0 : State} (s : State) (h : Keeps o0 s) : Keeps o0 (ventDump s) := by
  unfold ventDump
  extract_lets s1
  have h1 : Keeps o0 s1 := keeps_ventUntil (h := h) ..
  clear_value s1
  exact keeps_fuaCheck (h := h1) ..

@[simp] theorem keeps_ventBack {o0 : State} (v : VentRun) (s : State) (h : Keeps o0 s) : Keeps o0 (ventBack v s) := by
  simp (maxDischargeDepth := 30) [ventBack, h]

@[simp] theorem keeps_toStage {o0 : State} (n : Nat) (s : State) (h : Keeps o0 s) : Keeps o0 (toStage n s) := h

@[simp] theorem keeps_startFail {o0 : State} (reason : Nat) (s : State) (h : Keeps o0 s) : Keeps o0 (startFail reason s) := h

@[simp] theorem keeps_trainFailed {o0 : State} (r : Nat) (s : State) (h : Keeps o0 s) : Keeps o0 (trainFailed r s) := by
  simp only [trainFailed]
  (repeat' split) <;> first | with_reducible exact h | simp (maxDischargeDepth := 30) [h]

@[simp] theorem keeps_discoverChan {o0 : State} (p : FlashProbe) (c : Nat) (s : State) (h : Keeps o0 s) : Keeps o0 (discoverChan p c s) := by
  simp only [discoverChan]
  (repeat' split) <;> first | with_reducible exact h | simp (maxDischargeDepth := 30) +contextual [keeps_foldl, h]

@[simp] theorem keeps_poolSize {o0 : State} (s : State) (h : Keeps o0 s) : Keeps o0 (poolSize s) := by
  simp only [poolSize]
  (repeat' split) <;> first | with_reducible exact h | simp (maxDischargeDepth := 30) [h]

@[simp] theorem keeps_cutZone {o0 : State} (ns : Nat) (n : Ns) (z : Nat) (s : State) (h : Keeps o0 s) : Keeps o0 (cutZone ns n z s) := by
  simp only [cutZone]
  (repeat' split) <;> first | with_reducible exact h | simp (maxDischargeDepth := 30) [h]

@[simp] theorem keeps_refreshPos {o0 : State} (ns z : Nat) (s : State) (p : Nat) (h : Keeps o0 s) : Keeps o0 (refreshPos ns z s p) := by
  unfold refreshPos
  split
  · exact h
  · exact keeps_replacePos (h := h) ..

@[simp] theorem keeps_relAgain {o0 : State} (s : State) (r : Rel) (h : Keeps o0 s) : Keeps o0 (relAgain s r) := by
  unfold relAgain
  extract_lets s1 here
  have h1 : Keeps o0 s1 := keeps_replacePos (h := h) ..
  clear_value s1
  split
  · exact h1
  · exact keeps_giveBlk (h := h1) ..

@[simp] theorem keeps_replayErases {o0 : State} (s : State) (h : Keeps o0 s) : Keeps o0 (replayErases s) := by
  simp only [replayErases]
  (repeat' split) <;> first | with_reducible exact h | simp (maxDischargeDepth := 30) +contextual [keeps_foldl, h]

@[simp] theorem keeps_copyAgain {o0 : State} (ns z : Nat) (s : State) (h : Keeps o0 s) : Keeps o0 (copyAgain ns z s) := by
  simp only [copyAgain]
  (repeat' split) <;> first | with_reducible exact h | simp (maxDischargeDepth := 30) [h]

@[simp] theorem keeps_recLost {o0 : State} (r : VentRec) (s : State) (h : Keeps o0 s) : Keeps o0 (recLost r s) := by
  simp only [recLost]
  (repeat' split) <;> first | with_reducible exact h | simp (maxDischargeDepth := 30) +contextual [keeps_foldl, h]

@[simp] theorem keeps_recZeroized {o0 : State} (r : VentRec) (s : State) (h : Keeps o0 s) : Keeps o0 (recZeroized r s) := by
  simp only [recZeroized]
  (repeat' split) <;> first | with_reducible exact h | simp (maxDischargeDepth := 30) +contextual [keeps_foldl, h]

@[simp] theorem keeps_recFound {o0 : State} (r : VentRec) (s : State) (h : Keeps o0 s) : Keeps o0 (recFound r s) := by
  simp only [recFound]
  (repeat' split) <;> first | with_reducible exact h | simp (maxDischargeDepth := 30) +contextual [keeps_foldl, h]

@[simp] theorem keeps_recRestore {o0 : State} (r : VentRec) (s : State) (h : Keeps o0 s) : Keeps o0 (recRestore r s) := by
  simp only [recRestore]
  (repeat' split) <;> first | with_reducible exact h | simp (maxDischargeDepth := 30) +contextual [keeps_foldl, h]

@[simp] theorem keeps_recOne {o0 : State} (unreadable : List Nat) (s : State) (e : VentRec × Nat) (h : Keeps o0 s) : Keeps o0 (recOne unreadable s e) := by
  simp only [recOne]
  (repeat' split) <;> first | with_reducible exact h | simp (maxDischargeDepth := 30) [h]

@[simp] theorem keeps_restorePlace {o0 : State} (s : State) (k : Nat × Nat) (h : Keeps o0 s) : Keeps o0 (restorePlace s k) := by
  simp only [restorePlace]
  (repeat' split) <;> first | with_reducible exact h | simp (maxDischargeDepth := 30) +contextual [h]

@[simp] theorem keeps_causesAgain {o0 : State} (s : State) (h : Keeps o0 s) : Keeps o0 (causesAgain s) := by
  simp only [causesAgain]
  (repeat' split) <;> first | with_reducible exact h | simp (maxDischargeDepth := 30) [h]

@[simp] theorem keeps_sanAgain {o0 : State}  (s : State) (h : Keeps o0 s) : Keeps o0 (sanAgain  s) := by
  unfold sanAgain
  split
  · exact h
  · exact keeps_sanStart (h := (keeps_regPut (h := keeps_regPut (h := keeps_regPut (h := h) ..) ..) .. :
      Keeps o0 (regPut (regPut (regPut s _ _) _ _) _ _))) ..

@[simp] theorem keeps_tick {o0 : State} (s : State) (h : Keeps o0 s) : Keeps o0 (tick s) := by
  simp only [tick]
  (repeat' split) <;> first | with_reducible exact h | simp (maxDischargeDepth := 30) [h]

@[simp] theorem keeps_upkeep {o0 : State} (s : State) (h : Keeps o0 s) : Keeps o0 (upkeep s) := by
  simp only [upkeep]
  (repeat' split) <;> first | with_reducible exact h | simp (maxDischargeDepth := 30) +contextual [keeps_foldl, h]

@[simp] theorem keeps_idle {o0 : State} (s : State) (h : Keeps o0 s) : Keeps o0 (idle s) := by
  simp (maxDischargeDepth := 30) [idle, h]

end Sys2Proof.Machine
end

