-- ==== Sys2Proof/Laws/Keeps.lean ====
section
/-!
SUPPORT. What every command keeps (`Keeps`), one lemma per meaning: if it answers a next state, that state keeps it.
-/
namespace Sys2Proof.Machine

open Sys2Proof

theorem keeps_execWrite {o0 : State} (id : CmdId) (s : State) (h : Keeps o0 s) {t' : State} (ht : execWrite id s = .next t') : Keeps o0 t' := by
  simp only [execWrite] at ht
  split at ht
  · injection ht with ht; exact ht ▸ h
  · split at ht
    · injection ht with ht; exact ht ▸ keeps_settleWrite (h := keeps_finishSt (h := h) ..) ..
    · injection ht with ht; subst ht
      refine keeps_writeRes _ _ _ h ?_
      split
      · exact keeps_zonedWrite _ _ _ h
      · exact keeps_convWrite _ _ _ h

theorem keeps_execZoneAppend {o0 : State} (id : CmdId) (s : State) (h : Keeps o0 s) {t' : State} (ht : execZoneAppend id s = .next t') : Keeps o0 t' := by
  simp only [execZoneAppend] at ht
  (repeat' split at ht) <;> (injection ht with ht; subst ht) <;> first
    | exact h | exact keeps_settleWrite (h := keeps_finishSt (h := h) ..) .. | exact keeps_finishSt (h := h) .. | exact keeps_writeRes _ _ _ h (keeps_zonedWrite _ _ _ h)

theorem keeps_execWriteDataCached {o0 : State} (id : CmdId) (s : State) (h : Keeps o0 s) {t' : State} (ht : execWriteDataCached id s = .next t') : Keeps o0 t' := by
  simp only [execWriteDataCached] at ht
  (repeat' split at ht) <;> (injection ht with ht; subst ht; (repeat' split) <;> first | with_reducible exact h | simp (maxDischargeDepth := 30) [h])

theorem keeps_execFlush {o0 : State} (id : CmdId) (s : State) (h : Keeps o0 s) {t' : State} (ht : execFlush id s = .next t') : Keeps o0 t' := by
  simp only [execFlush] at ht
  (repeat' split at ht) <;> (injection ht with ht; subst ht; (repeat' split) <;> first | with_reducible exact h | simp (maxDischargeDepth := 30) [h])

theorem keeps_execFlushComplete {o0 : State} (id : CmdId) (s : State) (h : Keeps o0 s) {t' : State} (ht : execFlushComplete id s = .next t') : Keeps o0 t' := by
  simp only [execFlushComplete] at ht
  (repeat' split at ht) <;> (injection ht with ht; subst ht; (repeat' split) <;> first | with_reducible exact h | simp (maxDischargeDepth := 30) +contextual [keeps_foldl, h])

theorem keeps_execRead {o0 : State} (id : CmdId) (s : State) (h : Keeps o0 s) {t' : State} (ht : execRead id s = .next t') : Keeps o0 t' := by
  simp only [execRead] at ht
  (repeat' split at ht) <;> (injection ht with ht; subst ht; (repeat' split) <;> first | with_reducible exact h | simp (maxDischargeDepth := 30) [h])

theorem keeps_execWriteZeroes {o0 : State} (id : CmdId) (s : State) (h : Keeps o0 s) {t' : State} (ht : execWriteZeroes id s = .next t') : Keeps o0 t' := by
  simp only [execWriteZeroes] at ht
  (repeat' split at ht) <;> (injection ht with ht; subst ht; (repeat' split) <;> first | with_reducible exact h | simp (maxDischargeDepth := 30) [h])

theorem keeps_execDatasetManagement {o0 : State} (id : CmdId) (s : State) (h : Keeps o0 s) {t' : State} (ht : execDatasetManagement id s = .next t') : Keeps o0 t' := by
  simp only [execDatasetManagement] at ht
  (repeat' split at ht) <;> (injection ht with ht; subst ht; (repeat' split) <;> first | with_reducible exact h | simp (maxDischargeDepth := 30) +contextual [keeps_foldl, h])

theorem keeps_execZoneClose {o0 : State} (id : CmdId) (s : State) (h : Keeps o0 s) {t' : State} (ht : execZoneClose id s = .next t') : Keeps o0 t' := by
  simp only [execZoneClose] at ht
  (repeat' split at ht) <;> (injection ht with ht; subst ht; (repeat' split) <;> first | with_reducible exact h | simp (maxDischargeDepth := 30) [h])

theorem keeps_execZoneFinish {o0 : State} (id : CmdId) (s : State) (h : Keeps o0 s) {t' : State} (ht : execZoneFinish id s = .next t') : Keeps o0 t' := by
  simp only [execZoneFinish] at ht
  (repeat' split at ht) <;> (injection ht with ht; subst ht; (repeat' split) <;> first | with_reducible exact h | simp (maxDischargeDepth := 30) [h])

theorem keeps_execZoneOpen {o0 : State} (id : CmdId) (s : State) (h : Keeps o0 s) {t' : State} (ht : execZoneOpen id s = .next t') : Keeps o0 t' := by
  simp only [execZoneOpen] at ht
  (repeat' split at ht) <;> (injection ht with ht; subst ht; (repeat' split) <;> first | with_reducible exact h | simp (maxDischargeDepth := 30) [h])

theorem keeps_execZoneReset {o0 : State} (id : CmdId) (s : State) (h : Keeps o0 s) {t' : State} (ht : execZoneReset id s = .next t') : Keeps o0 t' := by
  simp only [execZoneReset] at ht
  (repeat' split at ht) <;> (injection ht with ht; subst ht; (repeat' split) <;> first | with_reducible exact h | simp (maxDischargeDepth := 30) [h])

theorem keeps_execZoneOffline {o0 : State} (id : CmdId) (s : State) (h : Keeps o0 s) {t' : State} (ht : execZoneOffline id s = .next t') : Keeps o0 t' := by
  simp only [execZoneOffline] at ht
  (repeat' split at ht) <;> (injection ht with ht; subst ht; (repeat' split) <;> first | with_reducible exact h | simp (maxDischargeDepth := 30) [h])

theorem keeps_execReportZones {o0 : State} (id : CmdId) (s : State) (h : Keeps o0 s) {t' : State} (ht : execReportZones id s = .next t') : Keeps o0 t' := by
  simp only [execReportZones] at ht
  (repeat' split at ht) <;> (injection ht with ht; subst ht; (repeat' split) <;> first | with_reducible exact h | simp (maxDischargeDepth := 30) [h])

theorem keeps_execExtendedReportZones {o0 : State} (id : CmdId) (s : State) (h : Keeps o0 s) {t' : State} (ht : execExtendedReportZones id s = .next t') : Keeps o0 t' := by
  simp only [execExtendedReportZones] at ht
  (repeat' split at ht) <;> (injection ht with ht; subst ht; (repeat' split) <;> first | with_reducible exact h | simp (maxDischargeDepth := 30) [h])

theorem keeps_execCodecEncode {o0 : State} (id : CmdId) (s : State) (h : Keeps o0 s) {t' : State} (ht : execCodecEncode id s = .next t') : Keeps o0 t' := by
  simp only [execCodecEncode] at ht
  (repeat' split at ht) <;> (injection ht with ht; subst ht; (repeat' split) <;> first | with_reducible exact h | simp (maxDischargeDepth := 30) [h])

theorem keeps_execCodecDecode {o0 : State} (id : CmdId) (s : State) (h : Keeps o0 s) {t' : State} (ht : execCodecDecode id s = .next t') : Keeps o0 t' := by
  simp only [execCodecDecode] at ht
  (repeat' split at ht) <;> (injection ht with ht; subst ht; (repeat' split) <;> first | with_reducible exact h | simp (maxDischargeDepth := 30) +contextual [h])

theorem keeps_execDispatch {o0 : State} (r : Resource) (s : State) (h : Keeps o0 s) {t' : State} (ht : execDispatch r s = .next t') : Keeps o0 t' := by
  simp only [execDispatch] at ht
  (repeat' split at ht) <;> (injection ht with ht; subst ht; (repeat' split) <;> first | with_reducible exact h | simp (maxDischargeDepth := 30) [h])

theorem keeps_execKerfExpiry {o0 : State} (r : Resource) (s : State) (h : Keeps o0 s) {t' : State} (ht : execKerfExpiry r s = .next t') : Keeps o0 t' := by
  simp only [execKerfExpiry] at ht
  (repeat' split at ht) <;> (injection ht with ht; subst ht; (repeat' split) <;> first | with_reducible exact h | simp (maxDischargeDepth := 30) +contextual [keeps_foldl, h])

theorem keeps_execGeyserOverAge {o0 : State} (id : CmdId) (s : State) (h : Keeps o0 s) {t' : State} (ht : execGeyserOverAge id s = .next t') : Keeps o0 t' := by
  simp only [execGeyserOverAge] at ht
  (repeat' split at ht) <;> (injection ht with ht; subst ht; (repeat' split) <;> first | with_reducible exact h | simp (maxDischargeDepth := 30) [h])

theorem keeps_execEncodeComplete {o0 : State} (k lane c : Nat) (verifyOk : Bool) (s : State) (h : Keeps o0 s) {t' : State} (ht : execEncodeComplete k lane c verifyOk s = .next t') : Keeps o0 t' := by
  simp only [execEncodeComplete] at ht
  (repeat' split at ht) <;> (injection ht with ht; subst ht; (repeat' split) <;> first | with_reducible exact h | simp (maxDischargeDepth := 30) [h])

theorem keeps_execDecodeComplete {o0 : State} (k lane c : Nat) (faulty retryFaulty : Bool) (s : State) (h : Keeps o0 s) {t' : State} (ht : execDecodeComplete k lane c faulty retryFaulty s = .next t') : Keeps o0 t' := by
  simp only [execDecodeComplete] at ht
  (repeat' split at ht) <;> (injection ht with ht; subst ht; (repeat' split) <;> first | with_reducible exact h | simp (maxDischargeDepth := 30) [h])

theorem keeps_execCipherOperationComplete {o0 : State} (k : Nat) (checkOk tagOk : Bool) (s : State) (h : Keeps o0 s) {t' : State} (ht : execCipherOperationComplete k checkOk tagOk s = .next t') : Keeps o0 t' := by
  unfold execCipherOperationComplete at ht
  split at ht
  · injection ht with ht; exact ht ▸ h
  · next x _ =>
    have h1 : Keeps o0 (endRun x s) := keeps_endRun (h := h) ..
    generalize endRun x s = s1 at h1 ht
    dsimp only at ht
    (repeat' split at ht) <;> (injection ht with ht; subst ht; (repeat' split) <;> simp (maxDischargeDepth := 30) [h1])

theorem keeps_execLeaseGrant {o0 : State} (k i : Nat) (s : State) (h : Keeps o0 s) {t' : State} (ht : execLeaseGrant k i s = .next t') : Keeps o0 t' := by
  simp only [execLeaseGrant] at ht
  (repeat' split at ht) <;> (injection ht with ht; subst ht; (repeat' split) <;> first | with_reducible exact h | simp (maxDischargeDepth := 30) [h])

theorem keeps_execSuspendMinRun {o0 : State} (l : Nat) (s : State) (h : Keeps o0 s) {t' : State} (ht : execSuspendMinRun l s = .next t') : Keeps o0 t' := by
  simp only [execSuspendMinRun] at ht
  (repeat' split at ht) <;> (injection ht with ht; subst ht; (repeat' split) <;> first | with_reducible exact h | simp (maxDischargeDepth := 30) [h])

theorem keeps_execLunSuspended {o0 : State} (l : Nat) (s : State) (h : Keeps o0 s) {t' : State} (ht : execLunSuspended l s = .next t') : Keeps o0 t' := by
  simp only [execLunSuspended] at ht
  (repeat' split at ht) <;> (injection ht with ht; subst ht; (repeat' split) <;> first | with_reducible exact h | simp (maxDischargeDepth := 30) [h])

theorem keeps_execProgramComplete {o0 : State} (l : Nat) (fail : Bool) (s : State) (h : Keeps o0 s) {t' : State} (ht : execProgramComplete l fail s = .next t') : Keeps o0 t' := by
  unfold execProgramComplete at ht
  split at ht
  · injection ht with ht; exact ht ▸ h
  · next x _ =>
    split at ht
    · injection ht with ht; exact ht ▸ h
    · have h1 : Keeps o0 (countExh l x (modLun l (fun u => { u with timeouts := 0 }) (endRun x s))) :=
        keeps_countExh (h := keeps_modLun (h := keeps_endRun (h := h) ..) ..) ..
      generalize countExh l x (modLun l (fun u => { u with timeouts := 0 }) (endRun x s)) = s1 at h1 ht
      dsimp only at ht
      (repeat' split at ht) <;> (injection ht with ht; subst ht; (repeat' split) <;> simp (maxDischargeDepth := 30) [h1])

theorem keeps_execEraseComplete {o0 : State} (l : Nat) (fail : Bool) (zs : Nat) (s : State) (h : Keeps o0 s) {t' : State} (ht : execEraseComplete l fail zs s = .next t') : Keeps o0 t' := by
  simp only [execEraseComplete] at ht
  (repeat' split at ht) <;> (injection ht with ht; subst ht; (repeat' split) <;> first | with_reducible exact h | simp (maxDischargeDepth := 30) [h])

theorem keeps_execLunReadComplete {o0 : State} (l : Nat) (oks : List Bool) (s : State) (h : Keeps o0 s) {t' : State} (ht : execLunReadComplete l oks s = .next t') : Keeps o0 t' := by
  simp only [execLunReadComplete] at ht
  (repeat' split at ht) <;> (injection ht with ht; subst ht; first | with_reducible exact h | simp (maxDischargeDepth := 30) [h])

theorem keeps_execFlashOperationTimeout {o0 : State} (l : Nat) (s : State) (h : Keeps o0 s) {t' : State} (ht : execFlashOperationTimeout l s = .next t') : Keeps o0 t' := by
  unfold execFlashOperationTimeout at ht
  split at ht
  · injection ht with ht; exact ht ▸ h
  · next x _ =>
    extract_lets s1 s2 s3 at ht
    have h3 : Keeps o0 s3 := keeps_modLun (h := (keeps_endRun x s h : Keeps o0 (endRun x s))) ..
    clear_value s3
    injection ht with ht; subst ht
    split
    · exact h3
    · exact keeps_lunOrphans (h := keeps_lunFail (h := h3) ..) ..

theorem keeps_execFlashDriftCheck {o0 : State} (c eye : Nat) (s : State) (h : Keeps o0 s) {t' : State} (ht : execFlashDriftCheck c eye s = .next t') : Keeps o0 t' := by
  simp only [execFlashDriftCheck] at ht
  (repeat' split at ht) <;> (injection ht with ht; subst ht; (repeat' split) <;> first | with_reducible exact h | simp (maxDischargeDepth := 30) [h])

theorem keeps_execChannelRetrain {o0 : State} (c : Nat) (s : State) (h : Keeps o0 s) {t' : State} (ht : execChannelRetrain c s = .next t') : Keeps o0 t' := by
  simp only [execChannelRetrain] at ht
  (repeat' split at ht) <;> (injection ht with ht; subst ht; (repeat' split) <;> first | with_reducible exact h | simp (maxDischargeDepth := 30) [h])

theorem keeps_execChannelRetrainComplete {o0 : State} (p : ChanProbe) (s : State) (h : Keeps o0 s) {t' : State} (ht : execChannelRetrainComplete p s = .next t') : Keeps o0 t' := by
  unfold execChannelRetrainComplete at ht
  extract_lets c s1 s2 at ht
  split at ht
  · injection ht with ht; exact ht ▸ h
  · have h1 : Keeps o0 s1 := keeps_modChan (h := h) ..
    clear_value s1
    have h2 : Keeps o0 s2 := by
      simp only [s2]; split
      · exact keeps_foldl (fun s i hs => keeps_lunRefuse (h := hs) ..) _ h1
      · exact keeps_lunsTrained (h := h1) ..
    clear_value s2
    injection ht with ht; exact ht ▸ keeps_chanTrainNext (h := h2) ..

theorem keeps_execDramDriftCheck {o0 : State} (r drift : Nat) (s : State) (h : Keeps o0 s) {t' : State} (ht : execDramDriftCheck r drift s = .next t') : Keeps o0 t' := by
  simp only [execDramDriftCheck] at ht
  (repeat' split at ht) <;> (injection ht with ht; subst ht; (repeat' split) <;> first | with_reducible exact h | simp (maxDischargeDepth := 30) [h])

theorem keeps_execDramRetrain {o0 : State} (s : State) (h : Keeps o0 s) {t' : State} (ht : execDramRetrain s = .next t') : Keeps o0 t' := by
  simp only [execDramRetrain] at ht
  (repeat' split at ht) <;> (injection ht with ht; subst ht; (repeat' split) <;> first | with_reducible exact h | simp (maxDischargeDepth := 30) [h])

theorem keeps_execRankRetrainComplete {o0 : State} (r : Nat) (s : State) (h : Keeps o0 s) {t' : State} (ht : execRankRetrainComplete r s = .next t') : Keeps o0 t' := by
  simp only [execRankRetrainComplete] at ht
  (repeat' split at ht) <;> (injection ht with ht; subst ht; (repeat' split) <;> first | with_reducible exact h | simp (maxDischargeDepth := 30) [h])

theorem keeps_execMr4Poll {o0 : State} (hot : BitVec 16) (s : State) (h : Keeps o0 s) {t' : State} (ht : execMr4Poll hot s = .next t') : Keeps o0 t' := by
  simp only [execMr4Poll] at ht
  (repeat' split at ht) <;> (injection ht with ht; subst ht; (repeat' split) <;> first | with_reducible exact h | simp (maxDischargeDepth := 30) +contextual [keeps_foldl, h])

theorem keeps_execRefreshDue {o0 : State} (r busy : Nat) (s : State) (h : Keeps o0 s) {t' : State} (ht : execRefreshDue r busy s = .next t') : Keeps o0 t' := by
  simp only [execRefreshDue] at ht
  (repeat' split at ht) <;> (injection ht with ht; subst ht; (repeat' split) <;> first | with_reducible exact h | simp (maxDischargeDepth := 30) [h])

theorem keeps_execPatrolScrub {o0 : State} (r : Nat) (faults : List LineFault) (s : State) (h : Keeps o0 s) {t' : State} (ht : execPatrolScrub r faults s = .next t') : Keeps o0 t' := by
  simp only [execPatrolScrub] at ht
  (repeat' split at ht) <;> (injection ht with ht; subst ht; (repeat' split) <;> first | with_reducible exact h | simp (maxDischargeDepth := 30) +contextual [keeps_foldl, h])

theorem keeps_execDramCaParityAlert {o0 : State} (r : Nat) (s : State) (h : Keeps o0 s) {t' : State} (ht : execDramCaParityAlert r s = .next t') : Keeps o0 t' := by
  simp only [execDramCaParityAlert] at ht
  (repeat' split at ht) <;> (injection ht with ht; subst ht; (repeat' split) <;> first | with_reducible exact h | simp (maxDischargeDepth := 30) [h])

theorem keeps_execSpareFillComplete {o0 : State} (r : Nat) (s : State) (h : Keeps o0 s) {t' : State} (ht : execSpareFillComplete r s = .next t') : Keeps o0 t' := by
  simp only [execSpareFillComplete] at ht
  (repeat' split at ht) <;> (injection ht with ht; subst ht; (repeat' split) <;> first | with_reducible exact h | simp (maxDischargeDepth := 30) [h])

theorem keeps_execRankMigrationComplete {o0 : State} (c : Nat) (faults : List LineFault) (s : State) (h : Keeps o0 s) {t' : State} (ht : execRankMigrationComplete c faults s = .next t') : Keeps o0 t' := by
  simp only [execRankMigrationComplete] at ht
  (repeat' split at ht) <;> (injection ht with ht; subst ht; (repeat' split) <;> first | with_reducible exact h | simp (maxDischargeDepth := 30) +contextual [keeps_foldl, h])

theorem keeps_execPor {o0 : State} (s : State) (h : Keeps o0 s) {t' : State} (ht : execPor s = .next t') : Keeps o0 t' := by
  simp only [execPor] at ht
  (repeat' split at ht) <;> (injection ht with ht; subst ht; (repeat' split) <;> first | with_reducible exact h | simp (maxDischargeDepth := 30) [h])

theorem keeps_execPorstNAssertion {o0 : State} (s : State) (h : Keeps o0 s) {t' : State} (ht : execPorstNAssertion s = .next t') : Keeps o0 t' := by
  simp only [execPorstNAssertion] at ht
  (repeat' split at ht) <;> (injection ht with ht; subst ht; (repeat' split) <;> first | with_reducible exact h | simp (maxDischargeDepth := 30) [h])

theorem keeps_execPorstNDeassertion {o0 : State} (s : State) (h : Keeps o0 s) {t' : State} (ht : execPorstNDeassertion s = .next t') : Keeps o0 t' := by
  simp only [execPorstNDeassertion] at ht
  (repeat' split at ht) <;> (injection ht with ht; subst ht; (repeat' split) <;> first | with_reducible exact h | simp (maxDischargeDepth := 30) [h])

theorem keeps_execPerstNAssertion {o0 : State} (p : Nat) (s : State) (h : Keeps o0 s) {t' : State} (ht : execPerstNAssertion p s = .next t') : Keeps o0 t' := by
  simp only [execPerstNAssertion] at ht
  (repeat' split at ht) <;> (injection ht with ht; subst ht; (repeat' split) <;> first | with_reducible exact h | simp (maxDischargeDepth := 30) [h])

theorem keeps_execPerstNDeassertion {o0 : State} (p : Nat) (s : State) (h : Keeps o0 s) {t' : State} (ht : execPerstNDeassertion p s = .next t') : Keeps o0 t' := by
  simp only [execPerstNDeassertion] at ht
  (repeat' split at ht) <;> (injection ht with ht; subst ht; (repeat' split) <;> first | with_reducible exact h | simp (maxDischargeDepth := 30) [h])

theorem keeps_execLinkDownHotReset {o0 : State} (p : Nat) (s : State) (h : Keeps o0 s) {t' : State} (ht : execLinkDownHotReset p s = .next t') : Keeps o0 t' := by
  simp only [execLinkDownHotReset] at ht
  (repeat' split at ht) <;> (injection ht with ht; subst ht; (repeat' split) <;> first | with_reducible exact h | simp (maxDischargeDepth := 30) [h])

theorem keeps_execServingPortChange {o0 : State} (s : State) (h : Keeps o0 s) {t' : State} (ht : execServingPortChange s = .next t') : Keeps o0 t' := by
  simp only [execServingPortChange] at ht
  (repeat' split at ht) <;> (injection ht with ht; subst ht; (repeat' split) <;> first | with_reducible exact h | simp (maxDischargeDepth := 30) [h])

theorem keeps_execLinkUp {o0 : State} (p : Nat) (s : State) (h : Keeps o0 s) {t' : State} (ht : execLinkUp p s = .next t') : Keeps o0 t' := by
  simp only [execLinkUp] at ht
  (repeat' split at ht) <;> (injection ht with ht; subst ht; (repeat' split) <;> first | with_reducible exact h | simp (maxDischargeDepth := 30) [h])

theorem keeps_execPfFlr {o0 : State} (s : State) (h : Keeps o0 s) {t' : State} (ht : execPfFlr s = .next t') : Keeps o0 t' := by
  simp only [execPfFlr] at ht
  (repeat' split at ht) <;> (injection ht with ht; subst ht; (repeat' split) <;> first | with_reducible exact h | simp (maxDischargeDepth := 30) [h])

theorem keeps_execVfFlr {o0 : State} (v : Nat) (s : State) (h : Keeps o0 s) {t' : State} (ht : execVfFlr v s = .next t') : Keeps o0 t' := by
  simp only [execVfFlr] at ht
  (repeat' split at ht) <;> (injection ht with ht; subst ht; (repeat' split) <;> first | with_reducible exact h | simp (maxDischargeDepth := 30) [h])

theorem keeps_execControllerReset {o0 : State} (f : Nat) (s : State) (h : Keeps o0 s) {t' : State} (ht : execControllerReset f s = .next t') : Keeps o0 t' := by
  simp only [execControllerReset] at ht
  (repeat' split at ht) <;> (injection ht with ht; subst ht; (repeat' split) <;> first | with_reducible exact h | simp (maxDischargeDepth := 30) [h])

theorem keeps_execControllerEnable {o0 : State} (f : Nat) (ams : BitVec 3) (s : State) (h : Keeps o0 s) {t' : State} (ht : execControllerEnable f ams s = .next t') : Keeps o0 t' := by
  simp only [execControllerEnable] at ht
  (repeat' split at ht) <;> (injection ht with ht; subst ht; (repeat' split) <;> first | with_reducible exact h | simp (maxDischargeDepth := 30) [h])

theorem keeps_execNvmSubsystemReset {o0 : State} (s : State) (h : Keeps o0 s) {t' : State} (ht : execNvmSubsystemReset s = .next t') : Keeps o0 t' := by
  simp only [execNvmSubsystemReset] at ht
  (repeat' split at ht) <;> (injection ht with ht; subst ht; (repeat' split) <;> first | with_reducible exact h | simp (maxDischargeDepth := 30) [h])

theorem keeps_execVfEnableClear {o0 : State} (s : State) (h : Keeps o0 s) {t' : State} (ht : execVfEnableClear s = .next t') : Keeps o0 t' := by
  simp only [execVfEnableClear] at ht
  (repeat' split at ht) <;> (injection ht with ht; subst ht; (repeat' split) <;> first | with_reducible exact h | simp (maxDischargeDepth := 30) +contextual [keeps_foldl, h])

theorem keeps_execVfEnableSet {o0 : State} (n : Nat) (s : State) (h : Keeps o0 s) {t' : State} (ht : execVfEnableSet n s = .next t') : Keeps o0 t' := by
  simp only [execVfEnableSet] at ht
  (repeat' split at ht) <;> (injection ht with ht; subst ht; (repeat' split) <;> first | with_reducible exact h | simp (maxDischargeDepth := 30) [h])

theorem keeps_execResetDrainDone {o0 : State} (f : Nat) (s : State) (h : Keeps o0 s) {t' : State} (ht : execResetDrainDone f s = .next t') : Keeps o0 t' := by
  simp only [execResetDrainDone] at ht
  (repeat' split at ht) <;> (injection ht with ht; subst ht; (repeat' split) <;> first | with_reducible exact h | simp (maxDischargeDepth := 30) +contextual [h])

theorem keeps_execZeroizeNAssertion {o0 : State} (s : State) (h : Keeps o0 s) {t' : State} (ht : execZeroizeNAssertion s = .next t') : Keeps o0 t' := by
  simp only [execZeroizeNAssertion] at ht
  (repeat' split at ht) <;> (injection ht with ht; subst ht; (repeat' split) <;> first | with_reducible exact h | simp (maxDischargeDepth := 30) [h])

theorem keeps_execZeroizeNRelease {o0 : State} (s : State) (h : Keeps o0 s) {t' : State} (ht : execZeroizeNRelease s = .next t') : Keeps o0 t' := by
  simp only [execZeroizeNRelease] at ht
  (repeat' split at ht) <;> (injection ht with ht; subst ht; (repeat' split) <;> first | with_reducible exact h | simp (maxDischargeDepth := 30) [h])

theorem keeps_execZeroizeRecordStored {o0 : State} (s : State) (h : Keeps o0 s) {t' : State} (ht : execZeroizeRecordStored s = .next t') : Keeps o0 t' := by
  simp only [execZeroizeRecordStored] at ht
  (repeat' split at ht) <;> (injection ht with ht; subst ht; (repeat' split) <;> first | with_reducible exact h | simp (maxDischargeDepth := 30) [h])

theorem keeps_execGatedBlockAccess {o0 : State} (who : Requester) (isWrite : Bool) (off : Nat) (s : State) (h : Keeps o0 s) {t' : State} (ht : execGatedBlockAccess who isWrite off s = .next t') : Keeps o0 t' := by
  simp only [execGatedBlockAccess] at ht
  (repeat' split at ht) <;> (injection ht with ht; subst ht; (repeat' split) <;> first | with_reducible exact h | simp (maxDischargeDepth := 30) [h])

theorem keeps_execGatedAccessClear {o0 : State} (s : State) (h : Keeps o0 s) {t' : State} (ht : execGatedAccessClear s = .next t') : Keeps o0 t' := by
  simp only [execGatedAccessClear] at ht
  (repeat' split at ht) <;> (injection ht with ht; subst ht; (repeat' split) <;> first | with_reducible exact h | simp (maxDischargeDepth := 30) [h])

theorem keeps_execWvSelWrite {o0 : State} (view : WvView) (sel : BitVec 16) (s : State) (h : Keeps o0 s) {t' : State} (ht : execWvSelWrite view sel s = .next t') : Keeps o0 t' := by
  simp only [execWvSelWrite] at ht
  (repeat' split at ht) <;> (injection ht with ht; subst ht; (repeat' split) <;> first | with_reducible exact h | simp (maxDischargeDepth := 30) [h])

theorem keeps_execWvSnap {o0 : State} (view : WvView) (s : State) (h : Keeps o0 s) {t' : State} (ht : execWvSnap view s = .next t') : Keeps o0 t' := by
  simp only [execWvSnap] at ht
  (repeat' split at ht) <;> (injection ht with ht; subst ht; (repeat' split) <;> first | with_reducible exact h | simp (maxDischargeDepth := 30) [h])

theorem keeps_execSecPaceClr {o0 : State} (k : Nat) (s : State) (h : Keeps o0 s) {t' : State} (ht : execSecPaceClr k s = .next t') : Keeps o0 t' := by
  simp only [execSecPaceClr] at ht
  (repeat' split at ht) <;> (injection ht with ht; subst ht; (repeat' split) <;> first | with_reducible exact h | simp (maxDischargeDepth := 30) [h])

theorem keeps_execTopPaceDevClr {o0 : State} (s : State) (h : Keeps o0 s) {t' : State} (ht : execTopPaceDevClr s = .next t') : Keeps o0 t' := by
  simp only [execTopPaceDevClr] at ht
  (repeat' split at ht) <;> (injection ht with ht; subst ht; (repeat' split) <;> first | with_reducible exact h | simp (maxDischargeDepth := 30) [h])

theorem keeps_execPaceEnable {o0 : State} (al : RegAlias) (v : W32) (s : State) (h : Keeps o0 s) {t' : State} (ht : execPaceEnable al v s = .next t') : Keeps o0 t' := by
  simp only [execPaceEnable] at ht
  (repeat' split at ht) <;> (injection ht with ht; subst ht; (repeat' split) <;> first | with_reducible exact h | simp (maxDischargeDepth := 30) [h])

theorem keeps_execDramMapArm {o0 : State} (al : RegAlias) (v : W32) (s : State) (h : Keeps o0 s) {t' : State} (ht : execDramMapArm al v s = .next t') : Keeps o0 t' := by
  simp only [execDramMapArm] at ht
  (repeat' split at ht) <;> (injection ht with ht; subst ht; (repeat' split) <;> first | with_reducible exact h | simp (maxDischargeDepth := 30) [h])

theorem keeps_execAonPostedWrite {o0 : State} (s : State) (h : Keeps o0 s) {t' : State} (ht : execAonPostedWrite s = .next t') : Keeps o0 t' := by
  simp only [execAonPostedWrite] at ht
  (repeat' split at ht) <;> (injection ht with ht; subst ht; (repeat' split) <;> first | with_reducible exact h | simp (maxDischargeDepth := 30) [h])

theorem keeps_execThermalEnable {o0 : State} (al : RegAlias) (v : W32) (s : State) (h : Keeps o0 s) {t' : State} (ht : execThermalEnable al v s = .next t') : Keeps o0 t' := by
  simp only [execThermalEnable] at ht
  (repeat' split at ht) <;> (injection ht with ht; subst ht; (repeat' split) <;> first | with_reducible exact h | simp (maxDischargeDepth := 30) [h])

theorem keeps_execVentEnable {o0 : State} (al : RegAlias) (v : W32) (s : State) (h : Keeps o0 s) {t' : State} (ht : execVentEnable al v s = .next t') : Keeps o0 t' := by
  simp only [execVentEnable] at ht
  (repeat' split at ht) <;> (injection ht with ht; subst ht; (repeat' split) <;> first | with_reducible exact h | simp (maxDischargeDepth := 30) [h])

theorem keeps_execHoldupTestRun {o0 : State} (s : State) (h : Keeps o0 s) {t' : State} (ht : execHoldupTestRun s = .next t') : Keeps o0 t' := by
  simp only [execHoldupTestRun] at ht
  (repeat' split at ht) <;> (injection ht with ht; subst ht; (repeat' split) <;> first | with_reducible exact h | simp (maxDischargeDepth := 30) [h])

theorem keeps_execPWriteStore {o0 : State} (ok : Bool) (s : State) (h : Keeps o0 s) {t' : State} (ht : execPWriteStore ok s = .next t') : Keeps o0 t' := by
  simp only [execPWriteStore] at ht
  (repeat' split at ht) <;> (injection ht with ht; subst ht; (repeat' split) <;> first | with_reducible exact h | simp (maxDischargeDepth := 30) [h])

theorem keeps_execKeySlotSelect {o0 : State} (al : RegAlias) (v : W32) (s : State) (h : Keeps o0 s) {t' : State} (ht : execKeySlotSelect al v s = .next t') : Keeps o0 t' := by
  simp only [execKeySlotSelect] at ht
  (repeat' split at ht) <;> (injection ht with ht; subst ht; (repeat' split) <;> first | with_reducible exact h | simp (maxDischargeDepth := 30) [h])

theorem keeps_execKeyWordWrite {o0 : State} (i : Nat) (v : W32) (s : State) (h : Keeps o0 s) {t' : State} (ht : execKeyWordWrite i v s = .next t') : Keeps o0 t' := by
  simp only [execKeyWordWrite] at ht
  (repeat' split at ht) <;> (injection ht with ht; subst ht; (repeat' split) <;> first | with_reducible exact h | simp (maxDischargeDepth := 30) [h])

theorem keeps_execKeyCommit {o0 : State} (s : State) (h : Keeps o0 s) {t' : State} (ht : execKeyCommit s = .next t') : Keeps o0 t' := by
  simp only [execKeyCommit] at ht
  (repeat' split at ht) <;> (injection ht with ht; subst ht; (repeat' split) <;> first | with_reducible exact h | simp (maxDischargeDepth := 30) [h])

theorem keeps_execKeyCommitForce {o0 : State} (s : State) (h : Keeps o0 s) {t' : State} (ht : execKeyCommitForce s = .next t') : Keeps o0 t' := by
  simp only [execKeyCommitForce] at ht
  (repeat' split at ht) <;> (injection ht with ht; subst ht; (repeat' split) <;> first | with_reducible exact h | simp (maxDischargeDepth := 30) [h])

theorem keeps_execCoSubmit {o0 : State} (s : State) (h : Keeps o0 s) {t' : State} (ht : execCoSubmit s = .next t') : Keeps o0 t' := by
  simp only [execCoSubmit] at ht
  (repeat' split at ht) <;> (injection ht with ht; subst ht; (repeat' split) <;> first | with_reducible exact h | simp (maxDischargeDepth := 30) [h])

theorem keeps_execCoLogout {o0 : State} (s : State) (h : Keeps o0 s) {t' : State} (ht : execCoLogout s = .next t') : Keeps o0 t' := by
  simp only [execCoLogout] at ht
  (repeat' split at ht) <;> (injection ht with ht; subst ht; (repeat' split) <;> first | with_reducible exact h | simp (maxDischargeDepth := 30) [h])

theorem keeps_execCoSetkey {o0 : State} (s : State) (h : Keeps o0 s) {t' : State} (ht : execCoSetkey s = .next t') : Keeps o0 t' := by
  simp only [execCoSetkey] at ht
  (repeat' split at ht) <;> (injection ht with ht; subst ht; (repeat' split) <;> first | with_reducible exact h | simp (maxDischargeDepth := 30) [h])

theorem keeps_execFltcSizeWrite {o0 : State} (al : RegAlias) (v : W32) (s : State) (h : Keeps o0 s) {t' : State} (ht : execFltcSizeWrite al v s = .next t') : Keeps o0 t' := by
  simp only [execFltcSizeWrite] at ht
  (repeat' split at ht) <;> (injection ht with ht; subst ht; (repeat' split) <;> first | with_reducible exact h | simp (maxDischargeDepth := 30) [h])

theorem keeps_execCdcReserveWrite {o0 : State} (k : Nat) (al : RegAlias) (v : W32) (s : State) (h : Keeps o0 s) {t' : State} (ht : execCdcReserveWrite k al v s = .next t') : Keeps o0 t' := by
  injection ht with ht; subst ht
  split
  · exact h
  · split
    · exact keeps_gatedRecord (h := h) ..
    · exact keeps_regWrite (h := h) ..

theorem keeps_execRejClr {o0 : State} (s : State) (h : Keeps o0 s) {t' : State} (ht : execRejClr s = .next t') : Keeps o0 t' := by
  simp only [execRejClr] at ht
  (repeat' split at ht) <;> (injection ht with ht; subst ht; (repeat' split) <;> first | with_reducible exact h | simp (maxDischargeDepth := 30) [h])

theorem keeps_execVectorUnmask {o0 : State} (f v : Nat) (s : State) (h : Keeps o0 s) {t' : State} (ht : execVectorUnmask f v s = .next t') : Keeps o0 t' := by
  simp only [execVectorUnmask] at ht
  (repeat' split at ht) <;> (injection ht with ht; subst ht; (repeat' split) <;> first | with_reducible exact h | simp (maxDischargeDepth := 30) [h])

theorem keeps_execPaceWindowEnd {o0 : State} (meter reading : Nat) (s : State) (h : Keeps o0 s) {t' : State} (ht : execPaceWindowEnd meter reading s = .next t') : Keeps o0 t' := by
  simp only [execPaceWindowEnd] at ht
  (repeat' split at ht) <;> (injection ht with ht; subst ht; (repeat' split) <;> first | with_reducible exact h | simp (maxDischargeDepth := 30) [h])

theorem keeps_execPaceLoopAction {o0 : State} (est : Nat) (s : State) (h : Keeps o0 s) {t' : State} (ht : execPaceLoopAction est s = .next t') : Keeps o0 t' := by
  simp only [execPaceLoopAction] at ht
  (repeat' split at ht) <;> (injection ht with ht; subst ht; (repeat' split) <;> first | with_reducible exact h | simp (maxDischargeDepth := 30) [h])

theorem keeps_execAvsAckTimeout {o0 : State} (s : State) (h : Keeps o0 s) {t' : State} (ht : execAvsAckTimeout s = .next t') : Keeps o0 t' := by
  simp only [execAvsAckTimeout] at ht
  (repeat' split at ht) <;> (injection ht with ht; subst ht; (repeat' split) <;> first | with_reducible exact h | simp (maxDischargeDepth := 30) [h])

theorem keeps_execAvsbusAcknowledge {o0 : State} (s : State) (h : Keeps o0 s) {t' : State} (ht : execAvsbusAcknowledge s = .next t') : Keeps o0 t' := by
  simp only [execAvsbusAcknowledge] at ht
  (repeat' split at ht) <;> (injection ht with ht; subst ht; (repeat' split) <;> first | with_reducible exact h | simp (maxDischargeDepth := 30) [h])

theorem keeps_execReferenceClockLoss {o0 : State} (s : State) (h : Keeps o0 s) {t' : State} (ht : execReferenceClockLoss s = .next t') : Keeps o0 t' := by
  simp only [execReferenceClockLoss] at ht
  (repeat' split at ht) <;> (injection ht with ht; subst ht; (repeat' split) <;> first | with_reducible exact h | simp (maxDischargeDepth := 30) [h])

theorem keeps_execReferenceClockReturn {o0 : State} (s : State) (h : Keeps o0 s) {t' : State} (ht : execReferenceClockReturn s = .next t') : Keeps o0 t' := by
  simp only [execReferenceClockReturn] at ht
  (repeat' split at ht) <;> (injection ht with ht; subst ht; (repeat' split) <;> first | with_reducible exact h | simp (maxDischargeDepth := 30) [h])

theorem keeps_execSqTailDoorbell {o0 : State} (f q tail : Nat) (entries : List Sqe) (s : State) (h : Keeps o0 s) {t' : State} (ht : execSqTailDoorbell f q tail entries s = .next t') : Keeps o0 t' := by
  simp only [execSqTailDoorbell] at ht
  (repeat' split at ht) <;> (injection ht with ht; subst ht; (repeat' split) <;> first | with_reducible exact h | simp (maxDischargeDepth := 30) [h])

theorem keeps_execCqHeadDoorbell {o0 : State} (f q head : Nat) (s : State) (h : Keeps o0 s) {t' : State} (ht : execCqHeadDoorbell f q head s = .next t') : Keeps o0 t' := by
  simp only [execCqHeadDoorbell] at ht
  (repeat' split at ht) <;> (injection ht with ht; subst ht; (repeat' split) <;> first | with_reducible exact h | simp (maxDischargeDepth := 30) [h])

theorem keeps_execAdmission {o0 : State} (s : State) (h : Keeps o0 s) {t' : State} (ht : execAdmission s = .next t') : Keeps o0 t' := by
  simp only [execAdmission] at ht
  (repeat' split at ht) <;> (injection ht with ht; subst ht; (repeat' split) <;> first | with_reducible exact h | simp (maxDischargeDepth := 30) +contextual [keeps_foldl, h])

theorem keeps_execShareEpochBoundary {o0 : State} (s : State) (h : Keeps o0 s) {t' : State} (ht : execShareEpochBoundary s = .next t') : Keeps o0 t' := by
  simp only [execShareEpochBoundary] at ht
  (repeat' split at ht) <;> (injection ht with ht; subst ht; (repeat' split) <;> first | with_reducible exact h | simp (maxDischargeDepth := 30) +contextual [keeps_foldl, h])

theorem keeps_execCoalescingTimerExpiry {o0 : State} (f vec : Nat) (s : State) (h : Keeps o0 s) {t' : State} (ht : execCoalescingTimerExpiry f vec s = .next t') : Keeps o0 t' := by
  simp only [execCoalescingTimerExpiry] at ht
  (repeat' split at ht) <;> (injection ht with ht; subst ht; (repeat' split) <;> first | with_reducible exact h | simp (maxDischargeDepth := 30) [h])

theorem keeps_execDeleteIoSubmissionQueue {o0 : State} (id : CmdId) (s : State) (h : Keeps o0 s) {t' : State} (ht : execDeleteIoSubmissionQueue id s = .next t') : Keeps o0 t' := by
  simp only [execDeleteIoSubmissionQueue] at ht
  (repeat' split at ht) <;> (injection ht with ht; subst ht; (repeat' split) <;> first | with_reducible exact h | simp (maxDischargeDepth := 30) +contextual [keeps_foldl, h])

theorem keeps_execCreateIoSubmissionQueue {o0 : State} (id : CmdId) (s : State) (h : Keeps o0 s) {t' : State} (ht : execCreateIoSubmissionQueue id s = .next t') : Keeps o0 t' := by
  simp only [execCreateIoSubmissionQueue] at ht
  (repeat' split at ht) <;> (injection ht with ht; subst ht; (repeat' split) <;> first | with_reducible exact h | simp (maxDischargeDepth := 30) +contextual [h])

theorem keeps_execDeleteIoCompletionQueue {o0 : State} (id : CmdId) (s : State) (h : Keeps o0 s) {t' : State} (ht : execDeleteIoCompletionQueue id s = .next t') : Keeps o0 t' := by
  injection ht with ht; subst ht
  refine keeps_admin (ha := fun c => ?_) (h := h) ..
  dsimp only
  split
  · exact keeps_finishSt (h := h) ..
  · next x _ =>
    split
    · exact keeps_finishSt (h := h) ..
    · have hx : Keeps o0 (x.waiting.foldl (fun s e => if e.aer then s else freeSlot ⟨id.func, e.e.sq, e.e.cid⟩ s) s) :=
        keeps_foldl (fun s e hs => by split; exact hs; exact keeps_freeSlot (h := hs) ..) _ h
      refine keeps_finishSt (h := ?_) ..
      exact hx

theorem keeps_execCreateIoCompletionQueue {o0 : State} (id : CmdId) (s : State) (h : Keeps o0 s) {t' : State} (ht : execCreateIoCompletionQueue id s = .next t') : Keeps o0 t' := by
  simp only [execCreateIoCompletionQueue] at ht
  (repeat' split at ht) <;> (injection ht with ht; subst ht; (repeat' split) <;> first | with_reducible exact h | simp (maxDischargeDepth := 30) +contextual [h])

theorem keeps_execIdentify {o0 : State} (id : CmdId) (s : State) (h : Keeps o0 s) {t' : State} (ht : execIdentify id s = .next t') : Keeps o0 t' := by
  injection ht with ht; subst ht
  refine keeps_admin (ha := fun c => ?_) (h := h) ..
  try dsimp only
  (repeat' split) <;> first | exact h | simp (maxDischargeDepth := 30) +contextual [keeps_foldl, h]

theorem keeps_execAbort {o0 : State} (id : CmdId) (s : State) (h : Keeps o0 s) {t' : State} (ht : execAbort id s = .next t') : Keeps o0 t' := by
  injection ht with ht; subst ht
  refine keeps_admin (ha := fun c => ?_) (h := h) ..
  dsimp only
  split
  · exact keeps_finishSt (h := h) ..
  · split
    · exact keeps_finishSt (h := keeps_aerPost (h := keeps_modFn (h := h) ..) ..) ..
    · split
      · split
        · exact keeps_finish (h := h) ..
        · exact keeps_abortsGo (h := keeps_stopCmd (h := keeps_modCmd (h := h) ..) ..) ..
      · exact keeps_finish (h := h) ..

theorem keeps_execSetFeatures {o0 : State} (id : CmdId) (s : State) (h : Keeps o0 s) {t' : State} (ht : execSetFeatures id s = .next t') : Keeps o0 t' := by
  simp only [execSetFeatures] at ht
  (repeat' split at ht) <;> (injection ht with ht; subst ht; (repeat' split) <;> first | with_reducible exact h | simp (maxDischargeDepth := 30) +contextual [h])

theorem keeps_execGetFeatures {o0 : State} (id : CmdId) (s : State) (h : Keeps o0 s) {t' : State} (ht : execGetFeatures id s = .next t') : Keeps o0 t' := by
  injection ht with ht; subst ht
  refine keeps_admin (ha := fun c => ?_) (h := h) ..
  try dsimp only
  (repeat' split) <;> first | exact h | simp (maxDischargeDepth := 30) +contextual [keeps_foldl, h]

theorem keeps_execAsynchronousEventRequest {o0 : State} (id : CmdId) (s : State) (h : Keeps o0 s) {t' : State} (ht : execAsynchronousEventRequest id s = .next t') : Keeps o0 t' := by
  simp only [execAsynchronousEventRequest] at ht
  (repeat' split at ht) <;> (injection ht with ht; subst ht; (repeat' split) <;> first | with_reducible exact h | simp (maxDischargeDepth := 30) [h])

theorem keeps_execGetLogPage {o0 : State} (id : CmdId) (s : State) (h : Keeps o0 s) {t' : State} (ht : execGetLogPage id s = .next t') : Keeps o0 t' := by
  injection ht with ht; subst ht
  refine keeps_admin (ha := fun c => ?_) (h := h) ..
  try dsimp only
  (repeat' split) <;> first | exact h | simp (maxDischargeDepth := 30) +contextual [keeps_foldl, h]

theorem keeps_execFirmwareImageDownload {o0 : State} (id : CmdId) (s : State) (h : Keeps o0 s) {t' : State} (ht : execFirmwareImageDownload id s = .next t') : Keeps o0 t' := by
  simp only [execFirmwareImageDownload] at ht
  (repeat' split at ht) <;> (injection ht with ht; subst ht; (repeat' split) <;> first | with_reducible exact h | simp (maxDischargeDepth := 30) +contextual [h])

theorem keeps_execFirmwareCommit {o0 : State} (id : CmdId) (s : State) (h : Keeps o0 s) {t' : State} (ht : execFirmwareCommit id s = .next t') : Keeps o0 t' := by
  injection ht with ht; subst ht
  refine keeps_admin (ha := fun c => ?_) (h := h) ..
  extract_lets fs ca slot down loaded image
  clear_value image loaded down slot ca fs
  (repeat' split) <;> simp (maxDischargeDepth := 30) [h]

theorem keeps_execDirectiveSend {o0 : State} (id : CmdId) (s : State) (h : Keeps o0 s) {t' : State} (ht : execDirectiveSend id s = .next t') : Keeps o0 t' := by
  injection ht with ht; subst ht
  refine keeps_admin (ha := fun c => ?_) (h := h) ..
  try dsimp only
  (repeat' split) <;> first | exact h | simp (maxDischargeDepth := 30) +contextual [keeps_foldl, h]

theorem keeps_execDirectiveReceive {o0 : State} (id : CmdId) (s : State) (h : Keeps o0 s) {t' : State} (ht : execDirectiveReceive id s = .next t') : Keeps o0 t' := by
  injection ht with ht; subst ht
  refine keeps_admin (ha := fun c => ?_) (h := h) ..
  try dsimp only
  (repeat' split) <;> first | exact h | simp (maxDischargeDepth := 30) +contextual [keeps_foldl, h]

theorem keeps_execUnsupportedCommand {o0 : State} (id : CmdId) (s : State) (h : Keeps o0 s) {t' : State} (ht : execUnsupportedCommand id s = .next t') : Keeps o0 t' := by
  simp only [execUnsupportedCommand] at ht
  (repeat' split at ht) <;> (injection ht with ht; subst ht; (repeat' split) <;> first | with_reducible exact h | simp (maxDischargeDepth := 30) [h])

theorem keeps_execCleanShutdown {o0 : State} (s : State) (h : Keeps o0 s) {t' : State} (ht : execCleanShutdown s = .next t') : Keeps o0 t' := by
  unfold execCleanShutdown at ht
  split at ht
  · injection ht with ht; exact ht ▸ h
  · have h1 : Keeps o0 (flushAll s) := keeps_flushAll (h := h) ..
    generalize flushAll s = s1 at h1 ht
    injection ht with ht; subst ht; exact h1

theorem keeps_execFastThermalSample {o0 : State} (reading : BitVec 16) (s : State) (h : Keeps o0 s) {t' : State} (ht : execFastThermalSample reading s = .next t') : Keeps o0 t' := by
  simp only [execFastThermalSample] at ht
  (repeat' split at ht) <;> (injection ht with ht; subst ht; (repeat' split) <;> first | with_reducible exact h | simp (maxDischargeDepth := 30) [h])

theorem keeps_execHousekeepingRound {o0 : State} (r : Readings) (s : State) (h : Keeps o0 s) {t' : State} (ht : execHousekeepingRound r s = .next t') : Keeps o0 t' := by
  simp only [execHousekeepingRound] at ht
  (repeat' split at ht) <;> (injection ht with ht; subst ht; (repeat' split) <;> first | with_reducible exact h | simp (maxDischargeDepth := 30) +contextual [h])

theorem keeps_execCapacitanceTestDue {o0 : State} (s : State) (h : Keeps o0 s) {t' : State} (ht : execCapacitanceTestDue s = .next t') : Keeps o0 t' := by
  simp only [execCapacitanceTestDue] at ht
  (repeat' split at ht) <;> (injection ht with ht; subst ht; (repeat' split) <;> first | with_reducible exact h | simp (maxDischargeDepth := 30) [h])

theorem keeps_execCapacitanceTestEnd {o0 : State} (v0 v1 : Nat) (s : State) (h : Keeps o0 s) {t' : State} (ht : execCapacitanceTestEnd v0 v1 s = .next t') : Keeps o0 t' := by
  simp only [execCapacitanceTestEnd] at ht
  (repeat' split at ht) <;> (injection ht with ht; subst ht; (repeat' split) <;> first | with_reducible exact h | simp (maxDischargeDepth := 30) [h])

theorem keeps_execVinWarning {o0 : State} (mv : Nat) (s : State) (h : Keeps o0 s) {t' : State} (ht : execVinWarning mv s = .next t') : Keeps o0 t' := by
  simp only [execVinWarning] at ht
  (repeat' split at ht) <;> (injection ht with ht; subst ht; (repeat' split) <;> first | with_reducible exact h | simp (maxDischargeDepth := 30) [h])

theorem keeps_execDipEnd {o0 : State} (mv : Nat) (s : State) (h : Keeps o0 s) {t' : State} (ht : execDipEnd mv s = .next t') : Keeps o0 t' := by
  simp only [execDipEnd] at ht
  (repeat' split at ht) <;> (injection ht with ht; subst ht; (repeat' split) <;> first | with_reducible exact h | simp (maxDischargeDepth := 30) [h])

theorem keeps_execDebounceExpiry {o0 : State} (s : State) (h : Keeps o0 s) {t' : State} (ht : execDebounceExpiry s = .next t') : Keeps o0 t' := by
  simp only [execDebounceExpiry] at ht
  (repeat' split at ht) <;> (injection ht with ht; subst ht; (repeat' split) <;> first | with_reducible exact h | simp (maxDischargeDepth := 30) [h])

theorem keeps_execPowerEntryDrainEnd {o0 : State} (s : State) (h : Keeps o0 s) {t' : State} (ht : execPowerEntryDrainEnd s = .next t') : Keeps o0 t' := by
  unfold execPowerEntryDrainEnd at ht
  split at ht
  · injection ht with ht; exact ht ▸ h
  · split at ht
    · injection ht with ht; exact ht ▸ h
    · extract_lets p s1 s2 at ht
      have h1 : Keeps o0 s1 := h
      clear_value s1
      have h2 : Keeps o0 s2 := keeps_storeP (h := keeps_flushAll (h := h1) ..) ..
      clear_value s2
      split at ht
      · injection ht with ht; subst ht; exact h2
      · injection ht with ht; subst ht; exact h1

theorem keeps_execPowerTransitionEnd {o0 : State} (s : State) (h : Keeps o0 s) {t' : State} (ht : execPowerTransitionEnd s = .next t') : Keeps o0 t' := by
  simp only [execPowerTransitionEnd] at ht
  (repeat' split at ht) <;> (injection ht with ht; subst ht; (repeat' split) <;> first | with_reducible exact h | simp (maxDischargeDepth := 30) [h])

theorem keeps_execWatchCycle {o0 : State} (r : Readings) (s : State) (h : Keeps o0 s) {t' : State} (ht : execWatchCycle r s = .next t') : Keeps o0 t' := by
  simp only [execWatchCycle] at ht
  (repeat' split at ht) <;> (injection ht with ht; subst ht; (repeat' split) <;> first | with_reducible exact h | simp (maxDischargeDepth := 30) +contextual [h])

theorem keeps_execWakeTimerExpiry {o0 : State} (s : State) (h : Keeps o0 s) {t' : State} (ht : execWakeTimerExpiry s = .next t') : Keeps o0 t' := by
  simp only [execWakeTimerExpiry] at ht
  (repeat' split at ht) <;> (injection ht with ht; subst ht; (repeat' split) <;> first | with_reducible exact h | simp (maxDischargeDepth := 30) [h])

theorem keeps_execHostL12Exit {o0 : State} (s : State) (h : Keeps o0 s) {t' : State} (ht : execHostL12Exit s = .next t') : Keeps o0 t' := by
  simp only [execHostL12Exit] at ht
  (repeat' split at ht) <;> (injection ht with ht; subst ht; (repeat' split) <;> first | with_reducible exact h | simp (maxDischargeDepth := 30) [h])

theorem keeps_execSidebandWakePacket {o0 : State} (s : State) (h : Keeps o0 s) {t' : State} (ht : execSidebandWakePacket s = .next t') : Keeps o0 t' := by
  simp only [execSidebandWakePacket] at ht
  (repeat' split at ht) <;> (injection ht with ht; subst ht; (repeat' split) <;> first | with_reducible exact h | simp (maxDischargeDepth := 30) [h])

theorem keeps_execVcoreGood {o0 : State} (p : WakeProbe) (s : State) (h : Keeps o0 s) {t' : State} (ht : execVcoreGood p s = .next t') : Keeps o0 t' := by
  simp only [execVcoreGood] at ht
  (repeat' split at ht) <;> (injection ht with ht; subst ht; (repeat' split) <;> first | with_reducible exact h | simp (maxDischargeDepth := 30) [h])

theorem keeps_execFreezeComplete {o0 : State} (s : State) (h : Keeps o0 s) {t' : State} (ht : execFreezeComplete s = .next t') : Keeps o0 t' := by
  unfold execFreezeComplete at ht
  split at ht
  · injection ht with ht; exact ht ▸ h
  · split at ht
    · injection ht with ht; exact ht ▸ h
    · injection ht with ht; subst ht
      exact keeps_mbxDone (h := h) ..

theorem keeps_execFreezeAbortTimeout {o0 : State} (s : State) (h : Keeps o0 s) {t' : State} (ht : execFreezeAbortTimeout s = .next t') : Keeps o0 t' := by
  simp only [execFreezeAbortTimeout] at ht
  (repeat' split at ht) <;> (injection ht with ht; subst ht; (repeat' split) <;> first | with_reducible exact h | simp (maxDischargeDepth := 30) +contextual [keeps_foldl, h])

theorem keeps_execDevIdentify {o0 : State} (r : MbxReq) (s : State) (h : Keeps o0 s) {t' : State} (ht : execDevIdentify r s = .next t') : Keeps o0 t' := by
  injection ht with ht; exact ht ▸ keeps_ring (hb := keeps_mbxBody) (h := h) ..

theorem keeps_execDevState {o0 : State} (r : MbxReq) (s : State) (h : Keeps o0 s) {t' : State} (ht : execDevState r s = .next t') : Keeps o0 t' := by
  injection ht with ht; exact ht ▸ keeps_ring (hb := keeps_mbxBody) (h := h) ..

theorem keeps_execFwWriteSlot {o0 : State} (r : MbxReq) (s : State) (h : Keeps o0 s) {t' : State} (ht : execFwWriteSlot r s = .next t') : Keeps o0 t' := by
  injection ht with ht; exact ht ▸ keeps_ring (hb := keeps_mbxBody) (h := h) ..

theorem keeps_execFwSlotQuery {o0 : State} (r : MbxReq) (s : State) (h : Keeps o0 s) {t' : State} (ht : execFwSlotQuery r s = .next t') : Keeps o0 t' := by
  injection ht with ht; exact ht ▸ keeps_ring (hb := keeps_mbxBody) (h := h) ..

theorem keeps_execFwActivate {o0 : State} (r : MbxReq) (s : State) (h : Keeps o0 s) {t' : State} (ht : execFwActivate r s = .next t') : Keeps o0 t' := by
  injection ht with ht; exact ht ▸ keeps_ring (hb := keeps_mbxBody) (h := h) ..

theorem keeps_execTenantCreate {o0 : State} (r : MbxReq) (s : State) (h : Keeps o0 s) {t' : State} (ht : execTenantCreate r s = .next t') : Keeps o0 t' := by
  injection ht with ht; exact ht ▸ keeps_ring (hb := keeps_mbxBody) (h := h) ..

theorem keeps_execTenantConfigure {o0 : State} (r : MbxReq) (s : State) (h : Keeps o0 s) {t' : State} (ht : execTenantConfigure r s = .next t') : Keeps o0 t' := by
  injection ht with ht; exact ht ▸ keeps_ring (hb := keeps_mbxBody) (h := h) ..

theorem keeps_execTenantSetShare {o0 : State} (r : MbxReq) (s : State) (h : Keeps o0 s) {t' : State} (ht : execTenantSetShare r s = .next t') : Keeps o0 t' := by
  injection ht with ht; exact ht ▸ keeps_ring (hb := keeps_mbxBody) (h := h) ..

theorem keeps_execTenantEnable {o0 : State} (r : MbxReq) (s : State) (h : Keeps o0 s) {t' : State} (ht : execTenantEnable r s = .next t') : Keeps o0 t' := by
  injection ht with ht; exact ht ▸ keeps_ring (hb := keeps_mbxBody) (h := h) ..

theorem keeps_execTenantReset {o0 : State} (r : MbxReq) (s : State) (h : Keeps o0 s) {t' : State} (ht : execTenantReset r s = .next t') : Keeps o0 t' := by
  injection ht with ht; exact ht ▸ keeps_ring (hb := keeps_mbxBody) (h := h) ..

theorem keeps_execTenantDestroy {o0 : State} (r : MbxReq) (s : State) (h : Keeps o0 s) {t' : State} (ht : execTenantDestroy r s = .next t') : Keeps o0 t' := by
  injection ht with ht; exact ht ▸ keeps_ring (hb := keeps_mbxBody) (h := h) ..

theorem keeps_execTenantQuery {o0 : State} (r : MbxReq) (s : State) (h : Keeps o0 s) {t' : State} (ht : execTenantQuery r s = .next t') : Keeps o0 t' := by
  injection ht with ht; exact ht ▸ keeps_ring (hb := keeps_mbxBody) (h := h) ..

theorem keeps_execNsCreate {o0 : State} (r : MbxReq) (s : State) (h : Keeps o0 s) {t' : State} (ht : execNsCreate r s = .next t') : Keeps o0 t' := by
  injection ht with ht; exact ht ▸ keeps_ring (hb := keeps_mbxBody) (h := h) ..

theorem keeps_execNsDelete {o0 : State} (r : MbxReq) (s : State) (h : Keeps o0 s) {t' : State} (ht : execNsDelete r s = .next t') : Keeps o0 t' := by
  injection ht with ht; exact ht ▸ keeps_ring (hb := keeps_mbxBody) (h := h) ..

theorem keeps_execNsAttach {o0 : State} (r : MbxReq) (s : State) (h : Keeps o0 s) {t' : State} (ht : execNsAttach r s = .next t') : Keeps o0 t' := by
  injection ht with ht; exact ht ▸ keeps_ring (hb := keeps_mbxBody) (h := h) ..

theorem keeps_execNsDetach {o0 : State} (r : MbxReq) (s : State) (h : Keeps o0 s) {t' : State} (ht : execNsDetach r s = .next t') : Keeps o0 t' := by
  injection ht with ht; exact ht ▸ keeps_ring (hb := keeps_mbxBody) (h := h) ..

theorem keeps_execProfileWrite {o0 : State} (r : MbxReq) (s : State) (h : Keeps o0 s) {t' : State} (ht : execProfileWrite r s = .next t') : Keeps o0 t' := by
  injection ht with ht; exact ht ▸ keeps_ring (hb := keeps_mbxBody) (h := h) ..

theorem keeps_execProfileEnable {o0 : State} (r : MbxReq) (s : State) (h : Keeps o0 s) {t' : State} (ht : execProfileEnable r s = .next t') : Keeps o0 t' := by
  injection ht with ht; exact ht ▸ keeps_ring (hb := keeps_mbxBody) (h := h) ..

theorem keeps_execProfileAttach {o0 : State} (r : MbxReq) (s : State) (h : Keeps o0 s) {t' : State} (ht : execProfileAttach r s = .next t') : Keeps o0 t' := by
  injection ht with ht; exact ht ▸ keeps_ring (hb := keeps_mbxBody) (h := h) ..

theorem keeps_execKeyLoadWrapped {o0 : State} (r : MbxReq) (s : State) (h : Keeps o0 s) {t' : State} (ht : execKeyLoadWrapped r s = .next t') : Keeps o0 t' := by
  injection ht with ht; exact ht ▸ keeps_ring (hb := keeps_mbxBody) (h := h) ..

theorem keeps_execKeyZeroizeSlot {o0 : State} (r : MbxReq) (s : State) (h : Keeps o0 s) {t' : State} (ht : execKeyZeroizeSlot r s = .next t') : Keeps o0 t' := by
  injection ht with ht; exact ht ▸ keeps_ring (hb := keeps_mbxBody) (h := h) ..

theorem keeps_execKeyZeroizeAll {o0 : State} (r : MbxReq) (s : State) (h : Keeps o0 s) {t' : State} (ht : execKeyZeroizeAll r s = .next t') : Keeps o0 t' := by
  injection ht with ht; exact ht ▸ keeps_ring (hb := keeps_mbxBody) (h := h) ..

theorem keeps_execKeySetCeiling {o0 : State} (r : MbxReq) (s : State) (h : Keeps o0 s) {t' : State} (ht : execKeySetCeiling r s = .next t') : Keeps o0 t' := by
  injection ht with ht; exact ht ▸ keeps_ring (hb := keeps_mbxBody) (h := h) ..

theorem keeps_execLockDefine {o0 : State} (r : MbxReq) (s : State) (h : Keeps o0 s) {t' : State} (ht : execLockDefine r s = .next t') : Keeps o0 t' := by
  injection ht with ht; exact ht ▸ keeps_ring (hb := keeps_mbxBody) (h := h) ..

theorem keeps_execLockSet {o0 : State} (r : MbxReq) (s : State) (h : Keeps o0 s) {t' : State} (ht : execLockSet r s = .next t') : Keeps o0 t' := by
  injection ht with ht; exact ht ▸ keeps_ring (hb := keeps_mbxBody) (h := h) ..

theorem keeps_execSanitize {o0 : State} (r : MbxReq) (s : State) (h : Keeps o0 s) {t' : State} (ht : execSanitize r s = .next t') : Keeps o0 t' := by
  injection ht with ht; exact ht ▸ keeps_ring (hb := keeps_mbxBody) (h := h) ..

theorem keeps_execPowerStateSet {o0 : State} (r : MbxReq) (s : State) (h : Keeps o0 s) {t' : State} (ht : execPowerStateSet r s = .next t') : Keeps o0 t' := by
  injection ht with ht; exact ht ▸ keeps_ring (hb := keeps_mbxBody) (h := h) ..

theorem keeps_execHoldupSet {o0 : State} (r : MbxReq) (s : State) (h : Keeps o0 s) {t' : State} (ht : execHoldupSet r s = .next t') : Keeps o0 t' := by
  injection ht with ht; exact ht ▸ keeps_ring (hb := keeps_mbxBody) (h := h) ..

theorem keeps_execVentTest {o0 : State} (r : MbxReq) (s : State) (h : Keeps o0 s) {t' : State} (ht : execVentTest r s = .next t') : Keeps o0 t' := by
  injection ht with ht; exact ht ▸ keeps_ring (hb := keeps_mbxBody) (h := h) ..

theorem keeps_execWatchConfig {o0 : State} (r : MbxReq) (s : State) (h : Keeps o0 s) {t' : State} (ht : execWatchConfig r s = .next t') : Keeps o0 t' := by
  injection ht with ht; exact ht ▸ keeps_ring (hb := keeps_mbxBody) (h := h) ..

theorem keeps_execScrub {o0 : State} (r : MbxReq) (met : List SramMet) (s : State) (h : Keeps o0 s) {t' : State} (ht : execScrub r met s = .next t') : Keeps o0 t' := by
  injection ht with ht; exact ht ▸ keeps_ring (hb := keeps_mbxBody) (h := h) ..

theorem keeps_execRankMigrate {o0 : State} (r : MbxReq) (s : State) (h : Keeps o0 s) {t' : State} (ht : execRankMigrate r s = .next t') : Keeps o0 t' := by
  injection ht with ht; exact ht ▸ keeps_ring (hb := keeps_mbxBody) (h := h) ..

theorem keeps_execRepairAdd {o0 : State} (r : MbxReq) (s : State) (h : Keeps o0 s) {t' : State} (ht : execRepairAdd r s = .next t') : Keeps o0 t' := by
  injection ht with ht; exact ht ▸ keeps_ring (hb := keeps_mbxBody) (h := h) ..

theorem keeps_execFleetSetId {o0 : State} (r : MbxReq) (s : State) (h : Keeps o0 s) {t' : State} (ht : execFleetSetId r s = .next t') : Keeps o0 t' := by
  injection ht with ht; exact ht ▸ keeps_ring (hb := keeps_mbxBody) (h := h) ..

theorem keeps_execFleetSetExpected {o0 : State} (r : MbxReq) (s : State) (h : Keeps o0 s) {t' : State} (ht : execFleetSetExpected r s = .next t') : Keeps o0 t' := by
  injection ht with ht; exact ht ▸ keeps_ring (hb := keeps_mbxBody) (h := h) ..

theorem keeps_execFleetLoadMigrationKey {o0 : State} (r : MbxReq) (s : State) (h : Keeps o0 s) {t' : State} (ht : execFleetLoadMigrationKey r s = .next t') : Keeps o0 t' := by
  injection ht with ht; exact ht ▸ keeps_ring (hb := keeps_mbxBody) (h := h) ..

theorem keeps_execTenantFreeze {o0 : State} (r : MbxReq) (s : State) (h : Keeps o0 s) {t' : State} (ht : execTenantFreeze r s = .next t') : Keeps o0 t' := by
  injection ht with ht; exact ht ▸ keeps_ring (hb := keeps_mbxBody) (h := h) ..

theorem keeps_execTenantSave {o0 : State} (r : MbxReq) (s : State) (h : Keeps o0 s) {t' : State} (ht : execTenantSave r s = .next t') : Keeps o0 t' := by
  injection ht with ht; exact ht ▸ keeps_ring (hb := keeps_mbxBody) (h := h) ..

theorem keeps_execTenantRestore {o0 : State} (r : MbxReq) (s : State) (h : Keeps o0 s) {t' : State} (ht : execTenantRestore r s = .next t') : Keeps o0 t' := by
  injection ht with ht; exact ht ▸ keeps_ring (hb := keeps_mbxBody) (h := h) ..

theorem keeps_execTenantThaw {o0 : State} (r : MbxReq) (s : State) (h : Keeps o0 s) {t' : State} (ht : execTenantThaw r s = .next t') : Keeps o0 t' := by
  injection ht with ht; exact ht ▸ keeps_ring (hb := keeps_mbxBody) (h := h) ..

theorem keeps_execDirtyLogCtrl {o0 : State} (r : MbxReq) (s : State) (h : Keeps o0 s) {t' : State} (ht : execDirtyLogCtrl r s = .next t') : Keeps o0 t' := by
  injection ht with ht; exact ht ▸ keeps_ring (hb := keeps_mbxBody) (h := h) ..

theorem keeps_execDirtyLogHarvest {o0 : State} (r : MbxReq) (s : State) (h : Keeps o0 s) {t' : State} (ht : execDirtyLogHarvest r s = .next t') : Keeps o0 t' := by
  injection ht with ht; exact ht ▸ keeps_ring (hb := keeps_mbxBody) (h := h) ..

theorem keeps_execLogRead {o0 : State} (r : MbxReq) (s : State) (h : Keeps o0 s) {t' : State} (ht : execLogRead r s = .next t') : Keeps o0 t' := by
  injection ht with ht; exact ht ▸ keeps_ring (hb := keeps_mbxBody) (h := h) ..

theorem keeps_execSelftest {o0 : State} (r : MbxReq) (t : SelfTest) (s : State) (h : Keeps o0 s) {t' : State} (ht : execSelftest r t s = .next t') : Keeps o0 t' := by
  injection ht with ht; exact ht ▸ keeps_ring (hb := keeps_mbxBody) (h := h) ..

theorem keeps_execUndefinedMailboxOpcode {o0 : State} (opc : BitVec 16) (r : MbxReq) (s : State) (h : Keeps o0 s) {t' : State} (ht : execUndefinedMailboxOpcode opc r s = .next t') : Keeps o0 t' := by
  unfold execUndefinedMailboxOpcode at ht
  split at ht
  · injection ht with ht; exact ht ▸ h
  · injection ht with ht; exact ht ▸ keeps_ring (hb := keeps_mbxBody) (h := h) ..

theorem keeps_execActivationDrainEnd {o0 : State} (s : State) (h : Keeps o0 s) {t' : State} (ht : execActivationDrainEnd s = .next t') : Keeps o0 t' := by
  simp only [execActivationDrainEnd] at ht
  (repeat' split at ht) <;> (injection ht with ht; subst ht; (repeat' split) <;> first | with_reducible exact h | simp (maxDischargeDepth := 30) [h])

theorem keeps_execImageSwitchComplete {o0 : State} (s : State) (h : Keeps o0 s) {t' : State} (ht : execImageSwitchComplete s = .next t') : Keeps o0 t' := by
  simp only [execImageSwitchComplete] at ht
  (repeat' split at ht) <;> (injection ht with ht; subst ht; (repeat' split) <;> first | with_reducible exact h | simp (maxDischargeDepth := 30) [h])

theorem keeps_execActivationDrainTimeout {o0 : State} (s : State) (h : Keeps o0 s) {t' : State} (ht : execActivationDrainTimeout s = .next t') : Keeps o0 t' := by
  simp only [execActivationDrainTimeout] at ht
  (repeat' split at ht) <;> (injection ht with ht; subst ht; (repeat' split) <;> first | with_reducible exact h | simp (maxDischargeDepth := 30) [h])

theorem keeps_execActivationWithResetComplete {o0 : State} (s : State) (h : Keeps o0 s) {t' : State} (ht : execActivationWithResetComplete s = .next t') : Keeps o0 t' := by
  simp only [execActivationWithResetComplete] at ht
  (repeat' split at ht) <;> (injection ht with ht; subst ht; (repeat' split) <;> first | with_reducible exact h | simp (maxDischargeDepth := 30) +contextual [keeps_foldl, h])

theorem keeps_execRegisterWrite {o0 : State} (w : Window) (al : RegAlias) (off : Nat) (v : W32) (s : State) (h : Keeps o0 s) {t' : State} (ht : execRegisterWrite w al off v s = .next t') : Keeps o0 t' := by
  simp only [execRegisterWrite] at ht
  (repeat' split at ht) <;> (injection ht with ht; subst ht; (repeat' split) <;> first | with_reducible exact h | simp (maxDischargeDepth := 30) [h])

theorem keeps_execTenantCounterJournal {o0 : State} (s : State) (h : Keeps o0 s) {t' : State} (ht : execTenantCounterJournal s = .next t') : Keeps o0 t' := by
  simp only [execTenantCounterJournal] at ht
  (repeat' split at ht) <;> (injection ht with ht; subst ht; (repeat' split) <;> first | with_reducible exact h | simp (maxDischargeDepth := 30) [h])

theorem keeps_execWitnessRecompute {o0 : State} (s : State) (h : Keeps o0 s) {t' : State} (ht : execWitnessRecompute s = .next t') : Keeps o0 t' := by
  simp only [execWitnessRecompute] at ht
  (repeat' split at ht) <;> (injection ht with ht; subst ht; (repeat' split) <;> first | with_reducible exact h | simp (maxDischargeDepth := 30) [h])

theorem keeps_execWitnessSettleExpiry {o0 : State} (s : State) (h : Keeps o0 s) {t' : State} (ht : execWitnessSettleExpiry s = .next t') : Keeps o0 t' := by
  simp only [execWitnessSettleExpiry] at ht
  (repeat' split at ht) <;> (injection ht with ht; subst ht; (repeat' split) <;> first | with_reducible exact h | simp (maxDischargeDepth := 30) [h])

theorem keeps_execDrbgReseed {o0 : State} (s : State) (h : Keeps o0 s) {t' : State} (ht : execDrbgReseed s = .next t') : Keeps o0 t' := by
  simp only [execDrbgReseed] at ht
  (repeat' split at ht) <;> (injection ht with ht; subst ht; (repeat' split) <;> first | with_reducible exact h | simp (maxDischargeDepth := 30) [h])

theorem keeps_execCoLockoutExpiry {o0 : State} (s : State) (h : Keeps o0 s) {t' : State} (ht : execCoLockoutExpiry s = .next t') : Keeps o0 t' := by
  simp only [execCoLockoutExpiry] at ht
  (repeat' split at ht) <;> (injection ht with ht; subst ht; (repeat' split) <;> first | with_reducible exact h | simp (maxDischargeDepth := 30) [h])

theorem keeps_execSpdmHeartbeatTimeout {o0 : State} (session : Nat) (s : State) (h : Keeps o0 s) {t' : State} (ht : execSpdmHeartbeatTimeout session s = .next t') : Keeps o0 t' := by
  simp only [execSpdmHeartbeatTimeout] at ht
  (repeat' split at ht) <;> (injection ht with ht; subst ht; (repeat' split) <;> first | with_reducible exact h | simp (maxDischargeDepth := 30) [h])

theorem keeps_execSmbusClockLowTimeout {o0 : State} (s : State) (h : Keeps o0 s) {t' : State} (ht : execSmbusClockLowTimeout s = .next t') : Keeps o0 t' := by
  simp only [execSmbusClockLowTimeout] at ht
  (repeat' split at ht) <;> (injection ht with ht; subst ht; (repeat' split) <;> first | with_reducible exact h | simp (maxDischargeDepth := 30) [h])

theorem keeps_execScrubComplete {o0 : State} (s : State) (h : Keeps o0 s) {t' : State} (ht : execScrubComplete s = .next t') : Keeps o0 t' := by
  simp only [execScrubComplete] at ht
  (repeat' split at ht) <;> (injection ht with ht; subst ht; (repeat' split) <;> first | with_reducible exact h | simp (maxDischargeDepth := 30) [h])

theorem keeps_execNvmeMiBasicManagement {o0 : State} (s : State) (h : Keeps o0 s) {t' : State} (ht : execNvmeMiBasicManagement s = .next t') : Keeps o0 t' := by
  simp only [execNvmeMiBasicManagement] at ht
  (repeat' split at ht) <;> (injection ht with ht; subst ht; (repeat' split) <;> first | with_reducible exact h | simp (maxDischargeDepth := 30) [h])

theorem keeps_execFleetWitnessRead {o0 : State} (s : State) (h : Keeps o0 s) {t' : State} (ht : execFleetWitnessRead s = .next t') : Keeps o0 t' := by
  simp only [execFleetWitnessRead] at ht
  (repeat' split at ht) <;> (injection ht with ht; subst ht; (repeat' split) <;> first | with_reducible exact h | simp (maxDischargeDepth := 30) +contextual [h])

theorem keeps_execSidebandHealthRequest {o0 : State} (s : State) (h : Keeps o0 s) {t' : State} (ht : execSidebandHealthRequest s = .next t') : Keeps o0 t' := by
  simp only [execSidebandHealthRequest] at ht
  (repeat' split at ht) <;> (injection ht with ht; subst ht; (repeat' split) <;> first | with_reducible exact h | simp (maxDischargeDepth := 30) +contextual [h])

theorem keeps_execGetVersion {o0 : State} (s : State) (h : Keeps o0 s) {t' : State} (ht : execGetVersion s = .next t') : Keeps o0 t' := by
  simp only [execGetVersion] at ht
  (repeat' split at ht) <;> (injection ht with ht; subst ht; (repeat' split) <;> first | with_reducible exact h | simp (maxDischargeDepth := 30) +contextual [h])

theorem keeps_execGetCapabilities {o0 : State} (s : State) (h : Keeps o0 s) {t' : State} (ht : execGetCapabilities s = .next t') : Keeps o0 t' := by
  simp only [execGetCapabilities] at ht
  (repeat' split at ht) <;> (injection ht with ht; subst ht; (repeat' split) <;> first | with_reducible exact h | simp (maxDischargeDepth := 30) +contextual [h])

theorem keeps_execNegotiateAlgorithms {o0 : State} (s : State) (h : Keeps o0 s) {t' : State} (ht : execNegotiateAlgorithms s = .next t') : Keeps o0 t' := by
  simp only [execNegotiateAlgorithms] at ht
  (repeat' split at ht) <;> (injection ht with ht; subst ht; (repeat' split) <;> first | with_reducible exact h | simp (maxDischargeDepth := 30) +contextual [h])

theorem keeps_execGetCertificate {o0 : State} (s : State) (h : Keeps o0 s) {t' : State} (ht : execGetCertificate s = .next t') : Keeps o0 t' := by
  simp only [execGetCertificate] at ht
  (repeat' split at ht) <;> (injection ht with ht; subst ht; (repeat' split) <;> first | with_reducible exact h | simp (maxDischargeDepth := 30) +contextual [h])

theorem keeps_execChallenge {o0 : State} (_nonce : List Byte) (s : State) (h : Keeps o0 s) {t' : State} (ht : execChallenge _nonce s = .next t') : Keeps o0 t' := by
  simp only [execChallenge] at ht
  (repeat' split at ht) <;> (injection ht with ht; subst ht; (repeat' split) <;> first | with_reducible exact h | simp (maxDischargeDepth := 30) +contextual [h])

theorem keeps_execGetMeasurements {o0 : State} (_nonce : List Byte) (s : State) (h : Keeps o0 s) {t' : State} (ht : execGetMeasurements _nonce s = .next t') : Keeps o0 t' := by
  simp only [execGetMeasurements] at ht
  (repeat' split at ht) <;> (injection ht with ht; subst ht; (repeat' split) <;> first | with_reducible exact h | simp (maxDischargeDepth := 30) +contextual [h])

theorem keeps_execKeyExchange {o0 : State} (_peer : List Byte) (pairOk : Bool) (s : State) (h : Keeps o0 s) {t' : State} (ht : execKeyExchange _peer pairOk s = .next t') : Keeps o0 t' := by
  simp only [execKeyExchange] at ht
  (repeat' split at ht) <;> (injection ht with ht; subst ht; (repeat' split) <;> first | with_reducible exact h | simp (maxDischargeDepth := 30) +contextual [h])

theorem keeps_execNoiseSample {o0 : State} (bit : Bool) (s : State) (h : Keeps o0 s) {t' : State} (ht : execNoiseSample bit s = .next t') : Keeps o0 t' := by
  simp only [execNoiseSample] at ht
  (repeat' split at ht) <;> (injection ht with ht; subst ht; (repeat' split) <;> first | with_reducible exact h | simp (maxDischargeDepth := 30) [h])

theorem keeps_execHeartbeat {o0 : State} (session : Nat) (s : State) (h : Keeps o0 s) {t' : State} (ht : execHeartbeat session s = .next t') : Keeps o0 t' := by
  simp only [execHeartbeat] at ht
  (repeat' split at ht) <;> (injection ht with ht; subst ht; (repeat' split) <;> first | with_reducible exact h | simp (maxDischargeDepth := 30) +contextual [h])

theorem keeps_execKeyUpdate {o0 : State} (session : Nat) (s : State) (h : Keeps o0 s) {t' : State} (ht : execKeyUpdate session s = .next t') : Keeps o0 t' := by
  simp only [execKeyUpdate] at ht
  (repeat' split at ht) <;> (injection ht with ht; subst ht; (repeat' split) <;> first | with_reducible exact h | simp (maxDischargeDepth := 30) +contextual [h])

theorem keeps_execEndSession {o0 : State} (session : Nat) (s : State) (h : Keeps o0 s) {t' : State} (ht : execEndSession session s = .next t') : Keeps o0 t' := by
  simp only [execEndSession] at ht
  (repeat' split at ht) <;> (injection ht with ht; subst ht; (repeat' split) <;> first | with_reducible exact h | simp (maxDischargeDepth := 30) +contextual [h])

theorem keeps_execVentEnd {o0 : State} (vinMv : Nat) (s : State) (h : Keeps o0 s) {t' : State} (ht : execVentEnd vinMv s = .next t') : Keeps o0 t' := by
  simp only [execVentEnd] at ht
  (repeat' split at ht) <;> (injection ht with ht; subst ht; (repeat' split) <;> first | with_reducible exact h | simp (maxDischargeDepth := 30) +contextual [h])

theorem keeps_execVentRecovery {o0 : State} (vinMv : Nat) (s : State) (h : Keeps o0 s) {t' : State} (ht : execVentRecovery vinMv s = .next t') : Keeps o0 t' := by
  simp only [execVentRecovery] at ht
  (repeat' split at ht) <;> (injection ht with ht; subst ht; (repeat' split) <;> first | with_reducible exact h | simp (maxDischargeDepth := 30) [h])

theorem keeps_execStartBegin {o0 : State} (s : State) (h : Keeps o0 s) {t' : State} (ht : execStartBegin s = .next t') : Keeps o0 t' := by
  simp only [execStartBegin] at ht
  (repeat' split at ht) <;> (injection ht with ht; subst ht; (repeat' split) <;> first | with_reducible exact h | simp (maxDischargeDepth := 30) [h])

theorem keeps_execLinkTrained {o0 : State} (port : Nat) (s : State) (h : Keeps o0 s) {t' : State} (ht : execLinkTrained port s = .next t') : Keeps o0 t' := by
  simp only [execLinkTrained] at ht
  (repeat' split at ht) <;> (injection ht with ht; subst ht; (repeat' split) <;> first | with_reducible exact h | simp (maxDischargeDepth := 30) [h])

theorem keeps_execPowerOnSelfTests {o0 : State} (t : SelfTest) (s : State) (h : Keeps o0 s) {t' : State} (ht : execPowerOnSelfTests t s = .next t') : Keeps o0 t' := by
  simp only [execPowerOnSelfTests] at ht
  (repeat' split at ht) <;> (injection ht with ht; subst ht; (repeat' split) <;> first | with_reducible exact h | simp (maxDischargeDepth := 30) [h])

theorem keeps_execImageAuthentication {o0 : State} (s : State) (h : Keeps o0 s) {t' : State} (ht : execImageAuthentication s = .next t') : Keeps o0 t' := by
  simp only [execImageAuthentication] at ht
  (repeat' split at ht) <;> (injection ht with ht; subst ht; (repeat' split) <;> first | with_reducible exact h | simp (maxDischargeDepth := 30) [h])

theorem keeps_execDramTraining {o0 : State} (p : DramProbe) (s : State) (h : Keeps o0 s) {t' : State} (ht : execDramTraining p s = .next t') : Keeps o0 t' := by
  simp only [execDramTraining] at ht
  (repeat' split at ht) <;> (injection ht with ht; subst ht; (repeat' split) <;> first | with_reducible exact h | simp (maxDischargeDepth := 30) +contextual [keeps_foldl, h])

theorem keeps_execFlashDiscovery {o0 : State} (p : FlashProbe) (s : State) (h : Keeps o0 s) {t' : State} (ht : execFlashDiscovery p s = .next t') : Keeps o0 t' := by
  simp only [execFlashDiscovery] at ht
  (repeat' split at ht) <;> (injection ht with ht; subst ht; (repeat' split) <;> first | with_reducible exact h | simp (maxDischargeDepth := 30) +contextual [keeps_foldl, h])

theorem keeps_execMetadataReplay {o0 : State} (readable : Bool) (s : State) (h : Keeps o0 s) {t' : State} (ht : execMetadataReplay readable s = .next t') : Keeps o0 t' := by
  unfold execMetadataReplay at ht
  split at ht
  · injection ht with ht; exact ht ▸ h
  · split at ht
    · injection ht with ht; subst ht; simp [h]
    · extract_lets lossy recd s1 keys bad s2 s3 s4 s5 s6 s7 at ht
      have h1 : Keeps o0 s1 := h
      clear_value s1
      have h2 : Keeps o0 s2 := by
        show Keeps o0 (if _ then _ else _)
        split
        · refine keeps_foldl (fun s k hs => ?_) _ h1
          split
          · exact keeps_cutZone (h := hs) ..
          · exact hs
        · exact h1
      clear_value s2
      have h3 : Keeps o0 s3 := keeps_replayErases (h := h2) ..
      clear_value s3
      have h4 : Keeps o0 s4 := keeps_foldl (fun s r hs => keeps_relAgain (h := hs) ..) _ h3
      clear_value s4
      have h5 : Keeps o0 s5 := by
        show Keeps o0 (if _ then _ else _)
        split
        · exact keeps_foldl (fun s e hs => keeps_foldl (fun s p hp => keeps_refreshPos (h := hp) ..) _ hs) _ h4
        · exact h4
      clear_value s5
      have h6 : Keeps o0 s6 := keeps_foldl (fun s k hs => keeps_copyAgain (h := hs) ..) _ h5
      clear_value s6
      have h7 : Keeps o0 s7 := keeps_foldl (fun s l hs => keeps_lunGone (h := hs) ..) _ h6
      clear_value s7
      injection ht with ht; exact ht ▸ keeps_toStage (h := h7) ..

theorem keeps_execVentPoolRestore {o0 : State} (unreadable : List Nat) (s : State) (h : Keeps o0 s) {t' : State} (ht : execVentPoolRestore unreadable s = .next t') : Keeps o0 t' := by
  unfold execVentPoolRestore at ht
  split at ht
  · injection ht with ht; exact ht ▸ h
  · extract_lets all todo bad good s1 s3 fin s4 blocks s5 at ht
    have h1 : Keeps o0 s1 := keeps_foldl (fun s r hs => keeps_recOne (h := hs) ..) _ h
    clear_value s1
    have h3 : Keeps o0 s3 := keeps_foldl (fun s k hs => keeps_restorePlace (h := hs) ..) _ h1
    clear_value s3
    have h4 : Keeps o0 s4 := keeps_storeJobs (h := keeps_foldl (fun s k hs => keeps_finishData (h := hs) ..) _ h3) ..
    clear_value s4
    have h5 : Keeps o0 s5 := by
      show Keeps o0 (if _ then _ else _)
      split
      · exact h4
      · exact keeps_ventLog (h := h4) ..
    clear_value s5
    injection ht with ht; subst ht; exact h5

theorem keeps_execStartComplete {o0 : State} (s : State) (h : Keeps o0 s) {t' : State} (ht : execStartComplete s = .next t') : Keeps o0 t' := by
  unfold execStartComplete at ht
  split at ht
  · injection ht with ht; exact ht ▸ h
  · extract_lets p s1 s2 s3 s4 s5 at ht
    have h2 : Keeps o0 s2 := keeps_toStage (s := s1) (h := h) ..
    clear_value s2
    have h3 : Keeps o0 s3 := by
      show Keeps o0 (if _ then _ else _)
      split
      · exact keeps_enterHalt (h := h2) ..
      · exact keeps_enterRun (h := h2) ..
    clear_value s3
    have h4 : Keeps o0 s4 := keeps_epochSync (h := keeps_causesAgain (h := keeps_sanAgain (h := keeps_exitOwed (h := h3) ..) ..) ..) ..
    clear_value s4
    have h5 : Keeps o0 s5 := keeps_foldl (fun s e hs => keeps_enableFn (h := hs) ..) _ h4
    clear_value s5
    injection ht with ht; exact ht ▸ keeps_witness (h := h5) ..

end Sys2Proof.Machine
end

