-- ==== Sys2Proof/Laws/Mailbox.lean ====
section
/-!
SUPPORT. A mailbox command that is issued: what the doorbell changes, and that the command's own body then runs.
-/
namespace Sys2Proof.Machine

open Sys2Proof

theorem foldl_reqWrites_frame (l : List (Nat × W32)) (s : State) : l.foldl (fun s w => regPut s (0x20000 + w.1) w.2) s =
    { s with regs := (l.foldl (fun s w => regPut s (0x20000 + w.1) w.2) s).regs } := by
  induction l generalizing s with
  | nil => rfl
  | cons x l ih => rw [List.foldl_cons, ih]; rfl
theorem mbxAccept_frame (opc r met test s) : mbxAccept opc r met test s = { s with regs := (mbxAccept opc r met test s).regs, rsv := (mbxAccept opc r met test s).rsv, mbx := (mbxAccept opc r met test s).mbx } := by
  unfold mbxAccept; dsimp only
  rw [foldl_reqWrites_frame]
theorem ring_issued (opc r met test s a m) (h : Issued opc r met test s a m) (hd : mbxDefined opc = true) (body) :
    ring opc r met test body s = body m a := by
  obtain ⟨h1, h2, h3, h5, h6, h7, rfl, h9⟩ := h
  have f := mbxAccept_frame opc r met test s
  have fmd : (mbxAccept opc r met test s).md = s.md := by rw [f]
  have fflt : (mbxAccept opc r met test s).flt = s.flt := by rw [f]
  have ffw : (mbxAccept opc r met test s).fw = s.fw := by rw [f]
  simp only [ring, h1, h2, h3, h9]
  have he : (r.epoch && decide (m.args.getD 15 0 ≠ s.flt.epoch)) = false := by
    cases hh : r.epoch with
    | false => rfl
    | true => simpa using h6 hh
  simp only [mbxDo, preChecks, h5, hd, fflt, he, modeRefuses, fmd, h2]
  simp [mfail, firstM, mbxLater, fmd, ffw, h2, h7]


theorem issued_opc (opc r met test s a m) (h : Issued opc r met test s a m) : m.opc = opc := by
  have h9 := h.2.2.2.2.2.2.2; rw [h.2.2.2.2.2.2.1] at h9
  simp only [mbxAccept, Option.some.injEq] at h9; rw [← h9]; rfl
theorem issued_frame (opc r met test s a m) (h : Issued opc r met test s a m) : a = { s with regs := a.regs, rsv := a.rsv, mbx := a.mbx } := by
  rw [h.2.2.2.2.2.2.1, ← mbxAccept_frame]
theorem bufChecks_ok (m need most) (h : BufOk m need most) (l) : firstM (bufChecks m need ++ l) = firstM l := by
  obtain ⟨h1, h2, h3⟩ := h
  have e1 : (m.buf.any fun b => decide (b.addr.toNat % 4096 ≠ 0)) = false := by
    cases hb : m.buf with
    | none => rfl
    | some b => simp [h1 b hb]
  have e2 : decide (bufLen m < need) = false := by simp; omega
  simp only [bufChecks, e1, e2, mfail, List.cons_append, List.nil_append]
  rfl
theorem bufLong_ok (m need most) (h : BufOk m need most) : bufLong m most = none := by
  have h3 := h.2.2
  have e : decide (min most 0x4000000 < bufLen m) = false := by simp; omega
  simp only [bufLong, e, mfail]
  rfl

end Sys2Proof.Machine
end

