-- ==== Sys2Proof/WellFormed.lean ====
section
/-!
DEFINITION. Which commands are well formed: every operand within the range that the part's numbering gives it. A
command outside it names nothing on the part; the meanings stay total on it.
-/
namespace Sys2Proof

/-- A function number: 0 for the PF, 1 to 1,024 for a VF (R3). -/
def okFn (f : Nat) : Bool := f ≤ 1024
/-- A VF number. -/
def okVf (v : Nat) : Bool := 1 ≤ v && v ≤ 1024
/-- A port. -/
def okPort (p : Nat) : Bool := p ≤ 1
/-- A section (R13). -/
def okSec (s : Nat) : Bool := s ≤ 7
/-- A channel (R13). -/
def okChan (c : Nat) : Bool := c ≤ 63
/-- A device LUN (R14). -/
def okLun (l : Nat) : Bool := l ≤ 8191
/-- A device rank (R310). -/
def okRank (r : Nat) : Bool := r ≤ 15
/-- A queue identifier: 0 the admin queue, 1 to 64 (R105). -/
def okQueue (q : Nat) : Bool := q ≤ 64
/-- A named command: function, queue and a 16-bit identifier. -/
def okCmd (i : CmdId) : Bool := okFn i.func && okQueue i.sq && i.cid < 65536
/-- A coder: lane 0 to 15, coder 0 or 1 (R204). -/
def okCoder (s l c : Nat) : Bool := okSec s && l ≤ 15 && c ≤ 1

/-- A resource of dispatch (R159). -/
def okRes : Resource → Bool
  | .lun n => okLun n
  | .coder s l c => okCoder s l c
  | .cipher s => okSec s

/-- A mailbox issue: at most sixteen arguments, a buffer of at most what LEN holds (chapter 05). -/
def okMbx (r : MbxReq) : Bool := r.args.length ≤ 16 && (match r.buf with | some b => b.len < 2 ^ 32 && b.bytes.length ≤ b.len | none => true)

/-- A Control window offset aligned to a register, normal range (R41, R45). -/
def okOff (o : Nat) : Bool := o < 0x2000000 && o % 4 = 0

/-- Whether every operand of a command is within its range. -/
def Instr.wf : Instr → Bool
  | .perstNAssertion p | .perstNDeassertion p | .linkDownHotReset p | .linkTrained p | .linkUp p => okPort p
  | .vfFlr v => okVf v
  | .controllerReset f | .controllerEnable f _ | .resetDrainDone f => okFn f
  | .vfEnableSet n => n ≤ 1024
  | .ventPoolRestore _ => true
  | .deleteIoSubmissionQueue i | .createIoSubmissionQueue i | .getLogPage i | .deleteIoCompletionQueue i
  | .createIoCompletionQueue i | .identify i | .abort i | .setFeatures i | .getFeatures i
  | .asynchronousEventRequest i | .firmwareImageDownload i | .firmwareCommit i | .directiveSend i
  | .directiveReceive i => okCmd i && i.sq = 0
  | .flush i | .flushComplete i | .write i | .zoneAppend i | .read i | .writeZeroes i | .datasetManagement i
  | .zoneClose i | .zoneFinish i | .zoneOpen i | .zoneReset i | .zoneOffline i | .reportZones i
  | .extendedReportZones i | .codecEncode i | .codecDecode i | .geyserOverAge i | .writeDataCached i =>
    okCmd i && i.sq ≠ 0
  | .unsupportedCommand i => okCmd i
  | .sqTailDoorbell f q t _ => okFn f && okQueue q && t < 4096
  | .cqHeadDoorbell f q h => okFn f && okQueue q && h < 4096
  | .dispatch r | .kerfExpiry r => okRes r
  | .encodeComplete s l c _ => okCoder s l c
  | .decodeComplete s l c _ _ => okCoder s l c
  | .cipherOperationComplete s _ _ => okSec s
  | .leaseGrant s k => okSec s && k < 2048
  | .lunReadComplete l _ | .suspendMinRun l | .lunSuspended l | .programComplete l _ | .eraseComplete l _ _
  | .flashOperationTimeout l => okLun l
  | .flashDriftCheck c _ | .channelRetrain c => okChan c
  | .channelRetrainComplete p => okChan p.chan
  | .dramTraining p => p.eyes.length = 16
  | .dramDriftCheck r _ | .refreshDue r _ | .dramCaParityAlert r | .patrolScrub r _ | .spareFillComplete r
  | .rankRetrainComplete r => okRank r
  | .rankMigrationComplete c _ => c ≤ 3
  | .paceWindowEnd m p => m ≤ 8 && p ≤ 2000
  | .paceLoopAction e => e < 65536
  | .coalescingTimerExpiry f v | .vectorUnmask f v => okFn f && v ≤ 64
  | .housekeepingRound r | .watchCycle r => r.ch.length = 12
  | .capacitanceTestEnd a b => a < 65536 && b < 65536
  | .vinWarning v | .dipEnd v | .ventEnd v | .ventRecovery v => v < 65536
  | .gatedBlockAccess _ _ o => o < 0x2000000
  | .registerWrite w _ o _ => (match w with | .control => okOff o | .tenant v => okVf v && o < 0x10000 | .msix f => okFn f && o < 0x1000)
  | .wvSelWrite w _ | .wvSnap w => (match w with | .top => true | .vf v => okVf v)
  | .secPaceClr s => okSec s
  | .cdcReserveWrite s _ _ => okSec s
  | .keyWordWrite i _ => i ≤ 7
  | .devIdentify r | .devState r | .fwWriteSlot r | .fwSlotQuery r | .fwActivate r | .tenantCreate r
  | .tenantConfigure r | .tenantSetShare r | .tenantEnable r | .tenantReset r | .tenantDestroy r | .tenantQuery r
  | .nsCreate r | .nsDelete r | .nsAttach r | .nsDetach r | .profileWrite r | .profileEnable r | .profileAttach r
  | .keyLoadWrapped r | .keyZeroizeSlot r | .keyZeroizeAll r | .keySetCeiling r | .lockDefine r | .lockSet r
  | .sanitize r | .powerStateSet r | .holdupSet r | .ventTest r | .watchConfig r | .scrub r _ | .rankMigrate r
  | .repairAdd r | .fleetSetId r | .fleetSetExpected r | .fleetLoadMigrationKey r | .tenantFreeze r | .tenantSave r
  | .tenantRestore r | .tenantThaw r | .dirtyLogCtrl r | .dirtyLogHarvest r | .logRead r | .selftest r _
  | .undefinedMailboxOpcode _ r => okMbx r
  | .challenge n | .getMeasurements n => n.length = 32
  | .keyExchange p _ => p.length = 96
  | _ => true

end Sys2Proof
end

