-- ==== Sys2Proof/Tests/Slice0.lean ====
section
/-!
SUPPORT. The model's own tests: ill-formed commands that `Instr.wf` refuses, a witness of every statement's hypotheses, and
single steps on small states, against worked examples of the manual or values reckoned from it by hand.
-/
namespace Sys2Proof.Machine.Tests

open Sys2Proof Sys2Proof.Machine

set_option Elab.async false

/-! ### Helpers: a small running state, an admitted command, a namespace -/

/-- A device that has started: stage 8, RUN, port 0 up, the cryptography approved. -/
def runS : State :=
  { ({} : State) with
    md := { cur := .run, stage := 8, loaded := true }
    pin := { porst := false, perst := false, perst1 := false, p0Up := true }
    sec := { st := 1, drbg := true, negotiated := true } }

/-- `runS` in another mode. -/
def inMode (m : Mode) : State := { runS with md := { runS.md with cur := m } }

/-- `runS` at a stage of START. -/
def atS (n : Nat) : State := { runS with md := { stage := n } }

/-- A submission queue entry: opcode, namespace, dwords 10 to 13. -/
def ent (opc nsid : Nat) (d10 d11 d12 d13 : W32) : Sqe :=
  { cid := 1, opc := opc, nsid := nsid, cdw10 := d10, cdw11 := d11, cdw12 := d12, cdw13 := d13, cdw14 := 0, cdw15 := 0, mptr := 0,
    segs := [], data := [] }

/-- The PF's admin and I/O command 1. -/
def idA : CmdId := ⟨0, 0, 1⟩
def idQ : CmdId := ⟨0, 1, 1⟩

/-- An entry admitted under an identifier. -/
def cmd1 (id : CmdId) (e : Sqe) : Cmd := { id := id, e := e, gen := 0, cls := .medium, time := 0, ord := 0 }

/-- A zoned namespace of one zone of 64 MiB, and a conventional one, of the PF; profile 0 (raw, 64 KiB frames) enabled under hint 0. -/
def nsZ : Ns := { zoned := true, zcode := 0, size := 1, owner := some 0xFFFF, hints := [(0, 0)] }
def nsC : Ns := { zoned := false, zcode := 0, size := 1, owner := some 0xFFFF, hints := [(0, 0)] }

/-- `runS` with the PF enabled, its admin and first I/O queue, namespaces 1 (zoned) and 2 (conventional). -/
def nvS : State :=
  { runS with
    fns := [(0, { en := true, rdy := true, numQ := some 4 })]
    sqs := [{ func := 0, id := 0, cq := 0, size := 4, prio := 0 }, { func := 0, id := 1, cq := 1, size := 4, prio := 0 }]
    cqs := [{ func := 0, id := 0, size := 4, vec := 0, ien := true }, { func := 0, id := 1, size := 4, vec := 1, ien := true }]
    nss := [(1, some nsZ), (2, some nsC)]
    profiles := [(0, { desc := [1], enabled := true })]
    luns := [(0, { reason := 0, pageBytes := 16384, ppb := 1024, blocks := 100, rated := 1000, bulk := 99, spare := 3 })] }

/-- `nvS` with one admitted command, named `i`. -/
def withCmd (i : CmdId) (e : Sqe) : State := { nvS with cmds := [cmd1 i e] }

/-- A state after a step that answers one. -/
def after (c : Instr) (s : State) : State :=
  match exec c s with
  | .next t => t
  | _ => s

/-! ### Operands out of range are refused by `Instr.wf` -/

/-- Ports, functions, VFs and queues (R3, R105, R455). -/
theorem wf_refuses_numbers :
    (Instr.perstNAssertion 2).wf = false ∧ (Instr.linkUp 2).wf = false ∧ (Instr.vfFlr 0).wf = false ∧ (Instr.vfFlr 1025).wf = false ∧
    (Instr.controllerReset 1025).wf = false ∧ (Instr.controllerEnable 1025 0).wf = false ∧ (Instr.vfEnableSet 1025).wf = false ∧
    (Instr.sqTailDoorbell 0 65 0 []).wf = false ∧ (Instr.sqTailDoorbell 0 1 4096 []).wf = false ∧
    (Instr.cqHeadDoorbell 0 65 0).wf = false ∧ (Instr.cqHeadDoorbell 0 1 4096).wf = false ∧
    (Instr.coalescingTimerExpiry 0 65).wf = false ∧ (Instr.vectorUnmask 1025 0).wf = false := by decide

/-- Command names: a 16-bit identifier, the admin queue for admin commands, another queue for I/O commands (R105, R167). -/
theorem wf_refuses_names :
    (Instr.identify ⟨0, 1, 0⟩).wf = false ∧ (Instr.identify ⟨0, 0, 65536⟩).wf = false ∧ (Instr.identify ⟨1025, 0, 0⟩).wf = false ∧
    (Instr.write ⟨0, 0, 0⟩).wf = false ∧ (Instr.write ⟨0, 65, 0⟩).wf = false ∧ (Instr.unsupportedCommand ⟨1025, 0, 0⟩).wf = false := by
  decide

/-- Resources, engines, flash and DRAM units (R13, R14, R204, R310). -/
theorem wf_refuses_units :
    (Instr.dispatch (.lun 8192)).wf = false ∧ (Instr.dispatch (.coder 8 0 0)).wf = false ∧ (Instr.dispatch (.coder 0 16 0)).wf = false ∧
    (Instr.dispatch (.coder 0 0 2)).wf = false ∧ (Instr.kerfExpiry (.cipher 8)).wf = false ∧ (Instr.encodeComplete 0 0 2 true).wf = false ∧
    (Instr.decodeComplete 8 0 0 false false).wf = false ∧ (Instr.cipherOperationComplete 8 true true).wf = false ∧
    (Instr.leaseGrant 0 2048).wf = false ∧ (Instr.eraseComplete 8192 false 0).wf = false ∧ (Instr.flashDriftCheck 64 0).wf = false ∧
    (Instr.channelRetrainComplete ⟨64, 0, 0, 0, 0⟩).wf = false ∧ (Instr.refreshDue 16 1).wf = false ∧
    (Instr.rankMigrationComplete 4 []).wf = false := by decide

/-- Readings and register operands (R32, R41, R354, R367). -/
theorem wf_refuses_values :
    (Instr.paceWindowEnd 9 0).wf = false ∧ (Instr.paceWindowEnd 0 2001).wf = false ∧ (Instr.paceLoopAction 65536).wf = false ∧
    (Instr.housekeepingRound ⟨[]⟩).wf = false ∧ (Instr.capacitanceTestEnd 65536 0).wf = false ∧ (Instr.vinWarning 65536).wf = false ∧
    (Instr.gatedBlockAccess .host true 0x2000000).wf = false ∧ (Instr.registerWrite .control .normal 2 0).wf = false ∧
    (Instr.registerWrite (.tenant 0) .normal 0 0).wf = false ∧ (Instr.registerWrite (.msix 0) .normal 0x1000 0).wf = false ∧
    (Instr.wvSelWrite (.vf 0) 1).wf = false ∧ (Instr.secPaceClr 8).wf = false ∧ (Instr.cdcReserveWrite 8 .normal 0).wf = false ∧
    (Instr.keyWordWrite 8 0).wf = false := by decide

/-- Mailbox issues with more than sixteen arguments or a buffer shorter than its bytes, and SPDM operands of the wrong length. -/
theorem wf_refuses_requests :
    (Instr.devState ⟨List.replicate 17 0, none, false, false, false, 0⟩).wf = false ∧
    (Instr.devState ⟨[], some ⟨0, 0, [0]⟩, false, false, false, 0⟩).wf = false ∧
    (Instr.devState ⟨[], some ⟨0, 4294967296, []⟩, false, false, false, 0⟩).wf = false ∧
    (Instr.challenge []).wf = false ∧ (Instr.getMeasurements (List.replicate 31 0)).wf = false ∧
    (Instr.keyExchange [] true).wf = false := by decide

/-! ### Every statement's hypotheses are met somewhere -/

theorem wit_StepRunsFront : ({ runS with pending := [.por] } : State).pending = Instr.por :: [] := rfl
theorem wit_IdleTick :
    runS.pending = [] ∧ ((∀ e ∈ runS.fns, e.2.waitRst = none) ∧ runS.hold.vent = none ∧ scrubRun runS = none ∧
      (ioServes runS = false ∨ (runS.luns = [] ∧ runS.zones = [] ∧ runS.cmds = []))) ∧ runS.clk.refOn = true ∧ dramOn State.reset = false ∧
    slowEdges (runS.clk.time + 10) = slowEdges runS.clk.time ∧ runS.aonQ = [] ∧ runS.aonHeld = [] ∧
    ({ runS with clk := { refOn := false } } : State).clk.refOn = false := by decide
theorem wit_StepKeepsRegisterTable : RegsCanonical runS ∧ RegsCanonical { runS with regs := [(0x10200, 0x1000C)] } := by
  unfold RegsCanonical; decide
theorem wit_StepKeepsFuses : FusesBounded { runS with fw := { recovery := { counter := 64 }, fused := 64 } } := by unfold FusesBounded; decide
theorem wit_StepKeepsRepairBank : RepairsBounded { runS with sram := { repairs := List.replicate 64 ⟨0, false, 0⟩ } } := by
  unfold RepairsBounded; decide

theorem wit_PowerResets : runS.pin.porst = false ∧ runS.clk.refOn = true ∧ State.reset.pin.porst = true ∧ State.reset.md.cur = .start ∧ State.reset.md.stage = 0 := by
  decide

theorem wit_PerstRows :
    runS.pin.perst = false ∧ 0 = runS.pin.serving ∧ runS.md.cur ≠ .start ∧ runS.md.cur ≠ .watch ∧ runS.hold.vent = none ∧
    1 ≠ runS.pin.serving ∧
    (let s : State := { inMode .vent with hold := { vent := some ⟨1, .run, 0, false, true, true, 0, 0, 0⟩ } }
     0 = s.pin.serving ∧ s.md.cur = .vent ∧ s.hold.vent = some ⟨1, .run, 0, false, true, true, 0, 0, 0⟩) := by decide

theorem wit_AllFunctionResets :
    served nvS = true ∧ resetWaits nvS = false ∧ (fnOf nvS 0).en = true ∧ (fnOf nvS 0).drain = none ∧ (fnOf nvS 0).waitRst = none ∧
    0 = nvS.pin.serving ∧
    (let s : State := { nvS with fns := [(0, { drain := some 20 })] }
     served s = true ∧ resetWaits s = false ∧ (fnOf s 0).drain.isSome = true) ∧
    (let s : State := { nvS with pin := { nvS.pin with dual := true, p0Up := false, p1Up := true } }
     served s = true ∧ resetWaits s = false ∧ servingOf s ≠ s.pin.serving) := by decide

/-- `nvS` with VF 1 and VF 1,024 present and enabled. -/
def vfS : State :=
  { nvS with
    numVfs := 1024, vfEnable := true, fns := [(0, { en := true, rdy := true, numQ := some 4 }), (1, { en := true }), (1024, { en := true })]
    tenants := [(0, { st := .enabled, qp := 1, vec := 2 })] }

theorem wit_VfResets :
    (served vfS = true ∧ 1024 ≠ 0 ∧ fnPresent vfS 1024 = true ∧ (fnOf vfS 1024).drain = none ∧ (fnOf vfS 0).drain = none ∧
      (fnOf vfS 1024).waitRst = none ∧ (fnOf vfS 0).waitRst = none ∧ genInUse vfS 1024 (genOf vfS 1024 + 1) = false ∧ (fnOf vfS 1024).en = true) ∧
    (served { vfS with numVfs := 3 } = true ∧ vfS.vfEnable = true ∧
      (∀ v, v ≤ 3 → (fnOf { vfS with numVfs := 3 } v).drain = none ∧ (fnOf { vfS with numVfs := 3 } v).waitRst = none) ∧
      vfS.ops = [] ∧ vfS.runs = [] ∧ vfS.rjobs = [] ∧ vfS.jobs = [] ∧ vfS.cache = []) ∧
    (let s : State := { atS 5 with vfEnable := true }
     served s = false ∧ coreOn s = true ∧ s.vfEnable = true) ∧
    (nvS.vfEnable = false ∧ coreOn nvS = true) := by decide

theorem wit_ResetDrains :
    (let s : State := { vfS with fns := [(1, { drain := some 15 })] }
     (fnOf s 1).drain = some 15 ∧ s.mbx.run = none) ∧
    (let s : State := { vfS with fns := [(0, { drain := some 16 })] }
     (fnOf s 0).drain = some 16 ∧ s.mbx.run = none) ∧
    (let r : MbxRun := { opc := 0x0205, args := [0], buf := none, notify := false, epoch := false, force := false }
     let s : State := { vfS with fns := [(1, { drain := some 8 })], mbx := { run := some r } }
     (fnOf s 1).drain = some 8 ∧ s.mbx.run = some r ∧ r.opc = 0x0205 ∧ r.paused = false ∧ r.waitStart = false ∧
     (r.args.getD 0 0).toNat + 1 = 1) := by decide

theorem wit_ControllerEnabling :
    (let s : State := { vfS with fns := [] }
     (fnOf s 1).en = false ∧ fnPresent s 1 = true ∧ (fnOf s 1).drain = none ∧ served s = true ∧ s.fw.act = none ∧
     BitVec.toNat (1 : BitVec 3) ≤ 1 ∧ (tnOf s (1 - 1)).st = .enabled ∧ (1 < (2 : BitVec 3).toNat)) ∧
    ((fnOf (atS 5) 0).en = false ∧ fnPresent (atS 5) 0 = true ∧ (fnOf (atS 5) 0).drain = none ∧ (atS 5).md.stage ≠ 8) ∧
    (runS.pin.perst = false ∧ runS.pin.serving = 0) ∧
    (let s : State := { runS with pin := { runS.pin with dual := true } }
     s.pin.perst1 = false ∧ s.pin.dual = true ∧ s.pin.p0Up = true ∧ s.pin.serving = 0) := by decide

theorem wit_Zeroization :
    (runS.zer.held = false ∧ coreOn runS = true ∧ runS.sec.drbg = true ∧ runS.sec.st ≠ 2 ∧ runS.rjobs = []) ∧
    ((inMode .watch).zer.held = false ∧ coreOn (inMode .watch) = false) ∧
    ({ runS with zer := ⟨true, true, 1⟩ } : State).zer.held = true ∧ ({ runS with zer := ⟨true, true, 1⟩ } : State).zer.pend = true := by
  decide

/-- Self-tests that pass. -/
def goodTests : SelfTest := ⟨true, List.replicate 8 true, List.replicate 8 true, true⟩

theorem wit_StartToImage :
    (atStage (atS 0) 0 = true ∧ (atS 0).pin.porst = false ∧ (atS 0).pin.zeroize = false) ∧
    (atStage (atS 1) 1 = true ∧ (atS 1).pin.perst = false ∧ (atS 1).pin.serving = 0) ∧
    ((atStage (atS 1) 1 || atStage (atS 1) 2) = true ∧ firstFailed goodTests = 0 ∧ ∀ k, k < 8 → goodTests.gcmOk.getD k false = true) ∧
    ((atStage (atS 2) 1 || atStage (atS 2) 2) = true ∧ { goodTests with romOk := false }.romOk = false) ∧
    (atStage (atS 3) 3 = true ∧ (atS 3).mbx.run = none ∧
      (startImages (atS 3)).find? (fun e => imgOk (atS 3) e.2) = some (4, (atS 3).fw.recovery)) ∧
    (let s : State := { atS 3 with fw := { recovery := {} } }
     atStage s 3 = true ∧ s.mbx.run = none ∧ (startImages s).find? (fun e => imgOk s e.2) = none) := by decide

/-- A LUN whose parameter page is accepted, and a channel that trains. -/
def goodLun : LunProbe := ⟨0, true, true, 5, true, true, true, true, true, 16384, 2208, 1024, 1000, 100000, true, true, true, true, false,
  0, []⟩

theorem wit_StartToRun :
    (atStage (atS 4) 4 = true ∧ usedChans (atS 4) ⟨0, 0xFFFF, List.replicate 16 (30, 40)⟩ ≠ []) ∧ usedChans (atS 4) ⟨0, 0, []⟩ = [] ∧
    (atStage (atS 5) 5 = true ∧ (⟨[], []⟩ : FlashProbe).luns = []) ∧
    ((atS 5).luns = [] ∧ goodLun.lun < 8192 ∧ lunReason goodLun = 0 ∧ 0 = lunChan goodLun.lun ∧ goodLun.dqTraining = true ∧
      regFld (atS 5) (chuBase 0) 1 0 = 1 ∧ eyePass 90 60 = true) ∧
    (atStage (atS 6) 6 = true ∧ (atS 6).zer.pend = false) ∧
    (atStage (atS 7) 7 = true ∧ (atS 7).replayed = false ∧ (atS 7).sec.st ≠ 2) ∧
    (let s : State := { atS 7 with replayed := true }
     atStage s 7 = true ∧ s.replayed = true ∧ s.san.running = false) := by decide

/-- An entry of dwords 10 and 11. -/
def adm (opc : Nat) (d10 d11 : W32) : Sqe := ent opc 0 d10 d11 0 0

theorem wit_FinishPosts :
    let c := cmd1 idQ (ent 2 1 0 0 0 0)
    let s := withCmd idQ (ent 2 1 0 0 0 0)
    let sq : Sq := { func := 0, id := 1, cq := 1, size := 4, prio := 0 }
    let cq : Cq := { func := 0, id := 1, size := 4, vec := 1, ien := true }
    let full : State := { s with cqs := [{ cq with tail := 3 }] }
    (cmdOf s idQ = some c ∧ sqOf s 0 1 = some sq ∧ cqOf s 0 1 = some cq ∧ c.gen = genOf s 0 ∧ cq.waiting = [] ∧ cqRoom cq = true) ∧
    (cmdOf full idQ = some c ∧ sqOf full 0 1 = some sq ∧ cqOf full 0 1 = some { cq with tail := 3 } ∧ c.gen = genOf full 0 ∧
      cqRoom { cq with tail := 3 } = false) ∧
    c.gen ≠ genOf { s with gens := [(0, 1)] } 0 := by decide

theorem wit_QueueCommands :
    (let e := adm 0x05 0x10004 0x3F0001
     AdminRuns (withCmd idA e) idA 0x05 (cmd1 idA e) ∧ bitOf e.cdw11 0 = true ∧ fld e.cdw10 15 0 ≠ 0 ∧
      fld e.cdw10 15 0 ≤ queueLimit (withCmd idA e) 0 ∧ cqOf (withCmd idA e) 0 (fld e.cdw10 15 0) = none ∧ fld e.cdw10 31 16 ≠ 0 ∧
      fld e.cdw10 31 16 ≤ 0xFFF ∧ fld e.cdw11 31 16 < fnVectors (withCmd idA e) 0) ∧
    (let e := adm 0x01 0xFFF0004 0x10001
     AdminRuns (withCmd idA e) idA 0x01 (cmd1 idA e) ∧ bitOf e.cdw11 0 = true ∧ fld e.cdw10 15 0 ≠ 0 ∧
      fld e.cdw10 15 0 ≤ queueLimit (withCmd idA e) 0 ∧ sqOf (withCmd idA e) 0 (fld e.cdw10 15 0) = none ∧ fld e.cdw10 31 16 ≠ 0 ∧
      fld e.cdw10 31 16 ≤ 0xFFF ∧ fld e.cdw11 31 16 ≠ 0 ∧ (cqOf (withCmd idA e) 0 (fld e.cdw11 31 16)).isSome = true) ∧
    (let e := adm 0x00 1 0
     let s := withCmd idA e
     AdminRuns s idA 0x00 (cmd1 idA e) ∧ fld e.cdw10 15 0 ≠ 0 ∧ (sqOf s 0 (fld e.cdw10 15 0)).isSome = true ∧
      ∀ d ∈ s.cmds, d.id.func = 0 → d.id.sq = fld e.cdw10 15 0 → d.phase = .decided) ∧
    (let e := adm 0x04 1 0
     let x : Cq := { func := 0, id := 1, size := 4, vec := 1, ien := true }
     let s := withCmd idA e
     let t : State := { s with sqs := s.sqs.take 1 }
     AdminRuns s idA 0x04 (cmd1 idA e) ∧ AdminRuns t idA 0x04 (cmd1 idA e) ∧ fld e.cdw10 15 0 ≠ 0 ∧
      cqOf s 0 (fld e.cdw10 15 0) = some x ∧ cqOf t 0 (fld e.cdw10 15 0) = some x ∧ x.waiting = [] ∧
      (∃ y ∈ s.sqs, y.func = 0 ∧ y.cq = fld e.cdw10 15 0) ∧ ∀ y ∈ t.sqs, y.func = 0 → y.cq ≠ fld e.cdw10 15 0) := by
  unfold AdminRuns; decide

theorem wit_AdminData :
    (let e := adm 0x06 1 0
     AdminRuns (withCmd idA e) idA 0x06 (cmd1 idA e) ∧
      identData (withCmd idA e) (cmd1 idA e) = .ok (identCtrl (withCmd idA e) 0) ∧ fld e.cdw10 7 0 = 1) ∧
    (let e := adm 0x02 0 0
     AdminRuns (withCmd idA e) idA 0x02 (cmd1 idA e) ∧ fld e.cdw10 7 0 ≠ 0xBF ∧ e.nsid = 0 ∧ logReadable 0 (fld e.cdw10 7 0) = true ∧
      4 * (fld e.cdw10 31 16 + 65536 * fld e.cdw11 15 0 + 1) ≤ 2097152 ∧ (e.cdw12.toNat + 2 ^ 32 * e.cdw13.toNat) % 4 = 0 ∧
      e.cdw12.toNat + 2 ^ 32 * e.cdw13.toNat < (logPage (withCmd idA e) 0 (fld e.cdw10 7 0)).length) ∧
    (let e := adm 0xFF 0 0
     ioServes (withCmd idA e) = true ∧ cmdOf (withCmd idA e) idA = some (cmd1 idA e) ∧ (cmd1 idA e).phase = .admitted ∧ idA.sq = 0 ∧
      e.opc ∉ adminOps 0 ∧ frozenFn (withCmd idA e) 0 = false) := by
  unfold AdminRuns; exact ⟨⟨by decide, rfl, by decide⟩, by decide +kernel, by decide⟩

theorem wit_AbortAndEvents :
    (let e := adm 0x08 0x10001 0
     let d := cmd1 idQ (ent 2 1 0 0 0 0)
     let s : State := { nvS with cmds := [cmd1 idA e, d] }
     AdminRuns s idA 0x08 (cmd1 idA e) ∧ (∀ x ∈ s.cmds, x.id.func = 0 → x.id.sq = 0 → x.e.opc = 0x08 → 0 ≤ x.ord) ∧
      fld e.cdw10 15 0 ≠ 0 ∧ cmdOf s ⟨0, fld e.cdw10 15 0, fld e.cdw10 31 16⟩ = some d ∧ d.phase ≠ .decided ∧
      AdminRuns (withCmd idA e) idA 0x08 (cmd1 idA e) ∧ cmdOf (withCmd idA e) ⟨0, fld e.cdw10 15 0, fld e.cdw10 31 16⟩ = none) ∧
    (let e := adm 0x0C 0 0
     let s : State := { withCmd idA e with fns := [(0, { rdy := true, aers := [2, 3, 4, 5, 6, 7, 8] })] }
     adminCmd s idA 0x0C = some (cmd1 idA e) ∧ (fnOf s 0).aers.length < 8 ∧ (fnOf s 0).events = []) ∧
    (let e := adm 0x0C 0 0
     let s : State := { withCmd idA e with fns := [(0, { rdy := true, aers := [2, 3, 4, 5, 6, 7, 8, 9] })] }
     adminCmd s idA 0x0C = some (cmd1 idA e) ∧ 8 ≤ (fnOf s 0).aers.length) := by
  unfold AdminRuns; decide

theorem wit_FeatureCommands :
    (let e := adm 0x09 0x08 0x305
     AdminRuns (withCmd idA e) idA 0x09 (cmd1 idA e) ∧ fld e.cdw10 7 0 = 0x08 ∧ bitOf e.cdw10 31 = false) ∧
    featKey 8 1 ≠ featKey 8 0 ∧
    (let e := adm 0x0A 0x08 0
     AdminRuns (withCmd idA e) idA 0x0A (cmd1 idA e) ∧ fld e.cdw10 7 0 = 0x08 ∧ fld e.cdw10 10 8 = 0) ∧
    (let e := adm 0x09 0x02 4
     AdminRuns (withCmd idA e) idA 0x09 (cmd1 idA e) ∧ (cmd1 idA e).id = idA ∧ idA.func = 0 ∧ fld e.cdw10 7 0 = 0x02 ∧
      bitOf e.cdw10 31 = false ∧ fld e.cdw11 4 0 ≤ 4) ∧
    (let e := adm 0x09 0xC1 0x00010203
     AdminRuns (withCmd idA e) idA 0x09 (cmd1 idA e) ∧ fld e.cdw10 7 0 = 0xC1 ∧ bitOf e.cdw10 31 = false ∧
      (fld e.cdw11 15 8 < fld e.cdw11 7 0 ∧ fld e.cdw11 31 16 < fld e.cdw11 15 8)) := by
  unfold AdminRuns; decide

theorem wit_ThermalFeature :
    let e := adm 0x0A 0xC2 0
    let s : State := { withCmd idA e with therm := { kerf := 1000 }, pace := { effTarget := 1250 } }
    AdminRuns s idA 0x0A (cmd1 idA e) ∧ fld e.cdw10 7 0 = 0xC2 ∧ fld e.cdw10 10 8 = 0 ∧ s.therm.kerf ≤ 1000 ∧ s.pace.effTarget < 2048 := by
  unfold AdminRuns; decide

/-- For the image that verifies, the signature's outcome (a value of Config) is a hypothesis here. -/
theorem wit_FirmwareCommands :
    (let e := adm 0x11 1023 0
     AdminRuns (withCmd idA e) idA 0x11 (cmd1 idA e) ∧ idA.func = 0 ∧ 4 * (e.cdw10.toNat + 1) % 4096 = 0 ∧ 4 * e.cdw11.toNat % 4096 = 0 ∧
      4 * e.cdw11.toNat + 4 * (e.cdw10.toNat + 1) ≤ 16777216 ∧ ([] : List Byte).length + 4 * (e.cdw10.toNat + 1) ≤ 16777216) ∧
    (let e := adm 0x10 4 0
     let s : State := { withCmd idA e with fns := [(0, { img := [1] })] }
     (AdminRuns s idA 0x10 (cmd1 idA e) ∧ fld e.cdw10 5 3 = 0 ∧ fld e.cdw10 2 0 ≤ 4 ∧ commitSlot s (fld e.cdw10 2 0) ≠ s.fw.active ∧
      s.fw.act = none ∧ (fnOf s 0).img ≠ []) ∧
     (Config.imgAuthentic (fnOf s 0).img = true → imgOk s (imgOf (fnOf s 0).img) = true)) ∧
    (let e := adm 0x10 4 0
     let s : State := { withCmd idA e with fns := [(0, { img := [1] })], fw := { fused := Config.imgCounter [1] + 1 } }
     (AdminRuns s idA 0x10 (cmd1 idA e) ∧ commitSlot s (fld e.cdw10 2 0) ≠ s.fw.active ∧ s.fw.act = none ∧ (fnOf s 0).img ≠ []) ∧
     imgOk s (imgOf (fnOf s 0).img) = false) ∧
    (let e := adm 0x10 0x1A 0
     let i : Img := { authentic := true }
     let s : State := { withCmd idA e with fw := { slots := [(1, some i)] } }
     AdminRuns s idA 0x10 (cmd1 idA e) ∧ fld e.cdw10 5 3 = 3 ∧ (fnOf s 0).img = [] ∧ fld e.cdw10 2 0 ≠ 0 ∧ fld e.cdw10 2 0 ≤ 4 ∧
      s.fw.act = none ∧ s.mbx.long = false ∧ tget none s.fw.slots (commitSlot s (fld e.cdw10 2 0)) = some i ∧ imgOk s i = true ∧
      i.needsReset = false ∧ s.md.cur = .run) := by
  unfold AdminRuns
  exact ⟨by decide, ⟨by decide, fun h => by simp_all [imgOk, imgOf, withCmd, nvS, runS, fnOf, tget]⟩,
    ⟨⟨⟨rfl, rfl⟩, by decide, rfl, by decide⟩, by simp [imgOk, imgOf, fnOf, tget]⟩, by decide⟩

theorem wit_DirectiveCommands :
    (let e : Sqe := ent 0x19 1 0 1 0xF01 0
     AdminRuns (withCmd idA e) idA 0x19 (cmd1 idA e) ∧ fld e.cdw11 7 0 = 1 ∧ fld e.cdw11 15 8 = 0 ∧ fld e.cdw12 15 8 = 0x0F ∧
      e.nsid ≠ 0xFFFFFFFF ∧ nsCheck (withCmd idA e) (cmd1 idA e) = .ok nsZ) ∧
    (let e : Sqe := ent 0x1A 1 0 1 0 0
     AdminRuns (withCmd idA e) idA 0x1A (cmd1 idA e) ∧ fld e.cdw11 7 0 = 1 ∧ fld e.cdw11 15 8 = 0 ∧
      nsCheck (withCmd idA e) (cmd1 idA e) = .ok nsZ) := by
  unfold AdminRuns; exact ⟨⟨by decide, rfl, rfl, rfl, by decide, rfl⟩, by decide, rfl, rfl, rfl⟩

/-- `nvS` with zone 0 of namespace 1 as given, and one admitted command. -/
def zoneS (z : Zone) (e : Sqe) : State := { withCmd idQ e with zones := [(zkey 1 0, z)] }

/-- An open zone bound to profile 0 with room for data. -/
def openZ : Zone := { st := .implOpen, prof := some 0, band := some {}, dcap := 10000000 }

theorem wit_ZonedWrites :
    (let e := ent 1 1 0 0 0 0
     let c := cmd1 idQ e
     let s := zoneS openZ e
     let t := zoneS { openZ with dcap := 0 } e
     (WriteRuns s idQ 1 c nsZ ∧ rangeLocked s 0 1 (cmdSlba e) (cmdBlocks e) = false ∧ ZoneTakes s c nsZ 0 0 0 ∧
      (worstAt s c 0 0 0 : Nat) ≤ headroom s (zoneOf s 1 0) ∧ zoneRestarts s 1 0 = false ∧ openZ.band.isSome = true ∧
      zoneRestarts { s with rels := [(0, some { kind := .restart, ns := 1, zone := 0, pos := 0, src := (0, 0), dst := (0, 0) })] } 1 0 = true) ∧
     (WriteRuns t idQ 1 c nsZ ∧ rangeLocked t 0 1 (cmdSlba e) (cmdBlocks e) = false ∧ ZoneTakes t c nsZ 0 0 0 ∧
      headroom t (zoneOf t 1 0) < (worstAt t c 0 0 0 : Nat))) ∧
    (let e := ent 1 1 1 0 0 0
     let c := cmd1 idQ e
     let s := zoneS {} e
     WriteRuns s idQ 1 c nsZ ∧ rangeLocked s 0 1 (cmdSlba e) (cmdBlocks e) = false ∧ writeHint s c = some 0 ∧ 1 + cmdBlocks e ≤ zszeBlocks nsZ ∧
      (zoneOf s 1 0).zeroized = false ∧ (zoneOf s 1 0).st = .empty ∧ 1 ≠ (zoneOf s 1 0).wp) ∧
    (let e := ent 0x7D 1 0 0 0 0
     let c := cmd1 idQ e
     let s := zoneS { openZ with wp := 262143 } e
     WriteRuns s idQ 0x7D c nsZ ∧ cmdSlba e = zoneStart nsZ 0 ∧ rangeLocked s 0 1 (zoneStart nsZ 0) (zszeBlocks nsZ) = false ∧
      ZoneTakes s c nsZ 0 262143 0 ∧ (worstAt s c 0 262143 0 : Nat) ≤ headroom s (zoneOf s 1 0) ∧
      zoneRestarts s 1 0 = false ∧ (zoneOf s 1 0).band.isSome = true) := by
  unfold WriteRuns ZoneTakes worstAt
  exact ⟨⟨⟨⟨by decide +kernel, rfl, by decide +kernel⟩, by decide +kernel⟩, ⟨by decide +kernel, rfl, by decide +kernel⟩, by decide +kernel⟩,
    ⟨⟨by decide +kernel, rfl, by decide +kernel⟩, by decide +kernel⟩, ⟨by decide +kernel, rfl, by decide +kernel⟩, by decide +kernel⟩

theorem wit_FlushCommands :
    (let e := ent 0 1 0 0 0 0
     ioCmd (withCmd idQ e) idQ 0 = some (cmd1 idQ e) ∧ nsCheck (withCmd idQ e) (cmd1 idQ e) = .ok nsZ) ∧
    (let c : Cmd := { cmd1 idQ (ent 0 1 0 0 0 0) with phase := .durable, cover := [⟨1, 0, 0⟩] }
     let s : State := { nvS with
       cmds := [c], cache := [{ ns := 1, lba := 0, data := [], func := 0, time := 0, ver := 1 }]
       jobs := [(0, some { ns := 1, zone := 0, idx := 0, takes := [(0, 1)] })] }
     cmdOf s idQ = some c ∧ c.phase = .durable ∧ c.e.opc = 0 ∧ c.id.sq ≠ 0 ∧
      (∀ x ∈ s.cache, x.ns = 1 → x.lba = 0 → x.ver ≠ 0) ∧ ∀ e ∈ s.jobs, ∀ j ∈ e.2, j.ns = 1 → (0, 0) ∉ j.takes) := by
  exact ⟨⟨by decide, rfl⟩, by decide⟩

theorem wit_ReadAndDeallocate :
    (let e := ent 2 1 0 0 511 0
     IoRuns (withCmd idQ e) idQ 2 (cmd1 idQ e) nsZ ∧ cmdBlocks e ≤ 512 ∧ cmdSlba e + cmdBlocks e ≤ nsCap (withCmd idQ e) nsZ ∧
      (withCmd idQ e).sec.st ≠ 2 ∧ readOffline (withCmd idQ e) (cmd1 idQ e) nsZ = false ∧ readRebuilds (withCmd idQ e) (cmd1 idQ e) nsZ = false) ∧
    (let e := ent 2 1 0 0 0 0
     let s := zoneS { st := .offline } e
     IoRuns s idQ 2 (cmd1 idQ e) nsZ ∧ cmdSlba e + cmdBlocks e ≤ nsCap s nsZ ∧ readOffline s (cmd1 idQ e) nsZ = true ∧
      rangeLocked s 0 1 (cmdSlba e) (cmdBlocks e) = false) ∧
    (let e := ent 2 1 262144 0 0 0
     IoRuns (withCmd idQ e) idQ 2 (cmd1 idQ e) nsZ ∧ nsCap (withCmd idQ e) nsZ < cmdSlba e + cmdBlocks e) ∧
    (let e := ent 1 2 262143 0 0 0
     let s := withCmd idQ e
     wrCmd s idQ 1 = some (cmd1 idQ e) ∧ nsCheck s (cmd1 idQ e) = .ok nsC ∧ nsC.zoned = false ∧ cmdSlba e + cmdBlocks e ≤ nsCap s nsC ∧
      writeHint s (cmd1 idQ e) = some 0 ∧ rangeLocked s 0 2 (cmdSlba e) (cmdBlocks e) = false ∧ hintEnabled s nsC 0 = some 0 ∧
      slotRefuses s (profOf s 0) = none) ∧
    (let e := ent 8 2 0 0 65535 0
     let s := withCmd idQ e
     IoRuns s idQ 8 (cmd1 idQ e) nsC ∧ nsC.zoned = false ∧ cmdSlba e + cmdBlocks e ≤ nsCap s nsC ∧
      rangeLocked s 0 2 (cmdSlba e) (cmdBlocks e) = false) ∧
    (let e := ent 8 2 262144 0 0 0
     IoRuns (withCmd idQ e) idQ 8 (cmd1 idQ e) nsC ∧ nsCap (withCmd idQ e) nsC < cmdSlba e + cmdBlocks e) ∧
    (let e := ent 9 2 0 0 0 0
     IoRuns (withCmd idQ e) idQ 9 (cmd1 idQ e) nsC ∧ bitOf e.cdw11 2 = false) ∧
    (let e := { ent 9 2 0 0 0 0 with data := [0, 0, 0, 0, 1, 0, 0, 0] }
     let s : State := { withCmd idQ e with locks := [(0, { defined := true, locked := true, ns := 2, start := 0, len := 1 })] }
     IoRuns s idQ 9 (cmd1 idQ e) nsC ∧ (∀ r ∈ dsmRanges e, r.1 + r.2 ≤ nsCap s nsC) ∧
      ∃ r ∈ dsmRanges e, rangeLocked s 0 2 r.1 r.2 = true) ∧
    (let e := ent 9 2 0 4 0 0
     let s := withCmd idQ e
     IoRuns s idQ 9 (cmd1 idQ e) nsC ∧ bitOf e.cdw11 2 = true ∧
      ∀ r ∈ dsmRanges e, r.1 + r.2 ≤ nsCap s nsC ∧ rangeLocked s 0 2 r.1 r.2 = false) := by
  unfold IoRuns
  exact ⟨⟨⟨by decide +kernel, rfl⟩, by decide +kernel⟩, ⟨⟨by decide +kernel, rfl⟩, by decide +kernel⟩, ⟨⟨by decide +kernel, rfl⟩, by decide +kernel⟩,
    ⟨by decide +kernel, rfl, by decide +kernel⟩, ⟨⟨by decide +kernel, rfl⟩, by decide +kernel⟩, ⟨⟨by decide +kernel, rfl⟩, by decide +kernel⟩,
    ⟨⟨by decide +kernel, rfl⟩, by decide +kernel⟩, ⟨⟨by decide +kernel, rfl⟩, by decide +kernel⟩, ⟨by decide +kernel, rfl⟩, by decide +kernel⟩

/-- Every action of Zone Management Send may run on a zone in every state, bound to a profile or not; with all contexts claimed, none is left. -/
theorem wit_ZoneSends :
    (∀ a ∈ [1, 2, 3, 4, 5], ∀ st ∈ [ZState.empty, .implOpen, .explOpen, .closed, .full, .readOnly, .offline], ∀ p ∈ [none, some 0],
      let e := ent 0x79 1 0 0 0 (BitVec.ofNat 32 a)
      let s := zoneS { st := st, prof := p } e
      SendRuns s idQ a (cmd1 idQ e) nsZ 0 ∧ nsOf s 1 = some nsZ ∧ (zoneOf s 1 0).st = st ∧ (zoneOf s 1 0).prof = p ∧ canClaim s 1 = true) ∧
    (let e := ent 0x79 1 0 0 0 3
     let s : State := { zoneS {} e with zones := (List.range 4096).map fun i => (zkey 3 i, openZ) }
     SendRuns s idQ 3 (cmd1 idQ e) nsZ 0 ∧ (zoneOf s 1 0).st = .empty ∧ canClaim s 1 = false) := by
  have key : ∀ a ∈ [1, 2, 3, 4, 5], ∀ st ∈ [ZState.empty, .implOpen, .explOpen, .closed, .full, .readOnly, .offline], ∀ p ∈ [none, some 0],
      let e := ent 0x79 1 0 0 0 (BitVec.ofNat 32 a)
      let s := zoneS { st := st, prof := p } e
      (ioCmd s idQ 0x79 = some (cmd1 idQ e) ∧ zsa e = a ∧ nsZ.zoned = true ∧ selAll e = false ∧ cmdSlba e = zoneStart nsZ 0 ∧
        cmdSlba e < nsCap s nsZ ∧ lbaZone nsZ (cmdSlba e) = 0 ∧ zoneWriting s 1 0 0 = false ∧
        rangeLocked s 0 1 (zoneStart nsZ 0) (zszeBlocks nsZ) = false) ∧
      nsOf s 1 = some nsZ ∧ (zoneOf s 1 0).st = st ∧ (zoneOf s 1 0).prof = p ∧ canClaim s 1 = true := by decide +kernel
  refine ⟨fun a ha st hs p hp => ?_, ?_⟩
  · obtain ⟨⟨h1, h2⟩, h3⟩ := key a ha st hs p hp
    exact ⟨⟨⟨h1, rfl⟩, h2⟩, h3⟩
  · unfold SendRuns IoRuns
    exact ⟨⟨⟨by decide +kernel, rfl⟩, by decide +kernel⟩, by decide +kernel⟩

theorem wit_ZoneReports :
    let e := ent 0x7A 1 0 0 524287 0x0700
    let x := ent 0x7A 1 262143 0 0 0x0001
    (IoRuns (withCmd idQ e) idQ 0x7A (cmd1 idQ e) nsZ ∧ nsZ.zoned = true ∧ fld e.cdw13 15 8 ≤ 7 ∧ 4 * (e.cdw12.toNat + 1) ≤ 2097152 ∧
      cmdSlba e < nsCap (withCmd idQ e) nsZ ∧ fld e.cdw13 7 0 = 0) ∧
    (IoRuns (withCmd idQ x) idQ 0x7A (cmd1 idQ x) nsZ ∧ fld x.cdw13 15 8 ≤ 7 ∧ 4 * (x.cdw12.toNat + 1) ≤ 2097152 ∧
      cmdSlba x < nsCap (withCmd idQ x) nsZ ∧ fld x.cdw13 7 0 = 1) := by
  unfold IoRuns
  exact ⟨⟨⟨by decide +kernel, rfl⟩, by decide +kernel⟩, ⟨by decide +kernel, rfl⟩, by decide +kernel⟩

theorem wit_OffloadJobs :
    (let e := ent 0x83 1 2097152 4096 0 0
     let s := withCmd idQ e
     IoRuns s idQ 0x83 (cmd1 idQ e) nsZ ∧ hintEnabled s nsZ (fld e.cdw13 5 0) = some 0 ∧ offloadBad e = false ∧ e.cdw10 ≠ 0 ∧ e.cdw12 = 0 ∧
      e.mptr % 4 = 0 ∧ e.cdw14.toNat % frameBytes (profOf s 0) = 0 ∧ fld e.cdw13 15 6 = 0 ∧ fld e.cdw13 31 18 = 0) ∧
    (let e := ent 0x87 1 16 4096 0 0
     IoRuns (withCmd idQ e) idQ 0x87 (cmd1 idQ e) nsZ ∧ offloadBad e = false ∧ 16 ≤ e.cdw10.toNat ∧ e.cdw10.toNat % 16 = 0 ∧ e.mptr % 16 = 0 ∧
      e.cdw14.toNat % 16 = 0 ∧ fld e.cdw13 15 0 = 0 ∧ fld e.cdw13 31 17 = 0) ∧
    (let e := ent 0x83 1 1 4096 0 0
     let c : Cmd := { cmd1 idQ e with phase := .reading }
     let o : Off := { id := idQ, gen := 0, dec := false, frames := [(0, 1)], stop := okSt }
     let s : State := { nvS with cmds := [c], offs := [(0, some o)] }
     tget none s.offs 0 = some o ∧ o.left = [] ∧ cmdOf s o.id = some c ∧ c.gen = o.gen ∧ c.phase = .reading ∧ o.dec = false ∧
      (offFrame o c 0).length ≤ 4096 ∧ 0 < (offFrame o c 0).length ∧ jobReports o.stop = true) ∧
    encFrames 16384 16385 false ≠ [] := by
  unfold IoRuns
  exact ⟨⟨⟨by decide +kernel, rfl⟩, by decide +kernel⟩, ⟨⟨by decide +kernel, rfl⟩, by decide +kernel⟩, by decide +kernel, by decide +kernel⟩

theorem wit_SampleCodes : 0 < 8 ∧ 255 < 2 ^ 8 ∧ 0 < 2 ^ 8 ∧ (23 : Nat) / 2 ^ 0 < 24 ∧ 24 ≤ (24 : Nat) / 2 ^ 0 ∧ 8 ≤ 8 := by decide

theorem wit_RawFrameRoundTrip :
    (65535 : Nat) < 65536 ∧ leAt [] 2 1 < 3 ∧ 0 < [(7 : Byte)].length ∧ [(7 : Byte)].length ≤ fsizeBytes (leAt [] 2 1) ∧
    storedCoded (leAt [] 1 1) (geomOf [] 0 [(7 : Byte)].length) [7]
      (if leAt [] 1 1 = 0 then [] else codedPayload (geomOf [] 0 [(7 : Byte)].length) [7]) = false := by decide +kernel

/-- A first write, plain and by append, into an empty zone of a namespace whose hint 5 names profile 7, of a lane set of one LUN. -/
theorem wit_ZonedWrites_first :
    ∀ op ∈ [1, 0x7D],
      let n : Ns := { nsZ with hints := [(5, 7)] }
      let c := cmd1 idQ (ent op 42 0 0 0x00F0000F 0x00050000)
      let s : State := { nvS with
        nss := [(42, some n)], cmds := [c], fns := [(0, { en := true, rdy := true, dirEn := [42] })]
        profiles := [(7, { desc := putAll (zeros 256) [(0, [1]), (16, [1]), (24, [1])], enabled := true })], chans := [(0, { gated := false })] }
      WriteRuns s idQ op c n ∧
      (let z := lbaZone n (cmdSlba c.e)
       let zn := zoneOf s c.e.nsid z
       cmdSlba c.e = zoneStart n z ∧ rangeLocked s c.ord c.e.nsid (zoneStart n z) (if op = 1 then cmdBlocks c.e else zszeBlocks n) = false ∧
       writeHint s c = some 5 ∧ hintEnabled s n 5 = some 7 ∧ zn.prof = none ∧ zn.zeroized = false ∧ slotRefuses s (profOf s 7) = none ∧
       zn.st = .empty ∧ zn.wp = 0 ∧ canClaim s c.e.nsid = true ∧ zoneRestarts s c.e.nsid z = false ∧ cmdBlocks c.e ≤ zszeBlocks n ∧
       (worstOf (boundZone s n zn 7) (frameBytes (profOf s 7)) 0 (4096 * cmdBlocks c.e) : Nat) ≤ headroom s (boundZone s n zn 7) ∧
       (takeBand (leAt (profOf s 7).desc 7 1 = 3) (laneSet (profOf s 7)) s).isSome = true) := by
  unfold WriteRuns
  intro op h
  simp only [List.mem_cons, List.not_mem_nil, or_false] at h
  rcases h with rfl | rfl
  · exact ⟨⟨by decide +kernel, rfl, by decide +kernel⟩, by decide +kernel⟩
  · exact ⟨⟨by decide +kernel, rfl, by decide +kernel⟩, by decide +kernel⟩

theorem wit_FirmwareActivation :
    (let a : Act := ⟨1, false, some idA, false, false, 0⟩
     let s : State := { withCmd idA (adm 0x10 0x1A 0) with
      fw := { slots := [(1, some { authentic := true })], act := some a }, md := (inMode .quiesce).md, clk := { time := 500000000 } }
     s.fw.act = some a ∧ a.switching = false ∧ a.withReset = false ∧ s.md.cur = .quiesce ∧ (∀ c ∈ s.cmds, some c.id = a.cmd) ∧
      s.mbx.run = none ∧ now s ≤ a.start + 500000000 ∧ a.mbx = false) ∧
    (let a : Act := ⟨1, false, some idA, false, false, 0⟩
     let s : State := { nvS with fw := { act := some a }, md := (inMode .quiesce).md, clk := { time := 500000000 }, cmds := [cmd1 idQ (ent 2 1 0 0 0 0)] }
     s.fw.act = some a ∧ a.switching = false ∧ a.withReset = false ∧ a.start + 500000000 = now s ∧ (∃ c ∈ s.cmds, some c.id ≠ a.cmd) ∧
      a.mbx = false ∧ s.mbx.run = none ∧ s.md.cur = .quiesce ∧ s.pwr.trans = none) ∧
    (let a : Act := ⟨1, false, some idA, true, false, 0⟩
     let s : State := { inMode .quiesce with fw := { act := some a } }
     s.fw.act = some a ∧ a.switching = true ∧ a.mbx = false ∧ s.mbx.run = none ∧ s.md.cur = .quiesce ∧ s.pwr.trans = none) ∧
    (let a : Act := ⟨1, false, none, true, true, 0⟩
     let s : State := { nvS with fw := { act := some a } }
     s.fw.act = some a ∧ a.withReset = true ∧ s.mbx.run = none ∧ (fnOf s 0).waitRst = none ∧ ∀ e ∈ s.fns, e.2.enHeld = false) := by decide

theorem wit_DoorbellsAndVectors :
    (let sq : Sq := { func := 0, id := 1, cq := 1, size := 4, prio := 0 }
     doorbellReaches nvS 0 = true ∧ nvS.pwr.trans = none ∧ nvS.md.cur ≠ .doze ∧ sqOf nvS 0 1 = some sq ∧ 3 < sq.size ∧
      (3 + sq.size - (sq.head + sq.subs.length) % sq.size) % sq.size = (List.replicate 3 (ent 2 1 0 0 0 0)).length) ∧
    (let cq : Cq := { func := 0, id := 1, size := 4, vec := 1, ien := true, tail := 3 }
     let s : State := { nvS with cqs := [cq] }
     doorbellReaches s 0 = true ∧ cqOf s 0 1 = some cq ∧ 3 < cq.size ∧
      (3 + cq.size - cq.head) % cq.size ≤ (cq.tail + cq.size - cq.head) % cq.size ∧ cq.waiting = [] ∧ ∀ c ∈ s.cmds, c.phase ≠ .held) ∧
    (fnPresent nvS 0 = true ∧ 63 < fnVectors nvS 0 ∧ 63 ∉ (fnOf nvS 0).pba) ∧
    (let s : State := { nvS with fns := [(0, { feats := [(featKey 8 0, 0x103)], coal := [(1, ⟨1, some 0⟩)] })], clk := { time := 100000 } }
     (tget {} (fnOf s 0).coal 1).since = some 0 ∧ 0 + 100000 * fld (featGet (fnOf s 0) 8 0) 15 8 ≤ now s) := by decide

/-- `nvS` with one entry waiting in a queue. -/
def queued (q : Nat) (e : Sqe) : State :=
  { nvS with sqs := nvS.sqs.map fun x => if x.id = q then { x with tail := 1, subs := [e] } else x }

theorem wit_AdmissionTurns :
    admitting (inMode .vent) = false ∧
    (let q : Sq := { func := 0, id := 0, cq := 0, size := 4, prio := 0, tail := 1, subs := [adm 6 1 0] }
     let s := queued 0 (adm 6 1 0)
     admitting s = true ∧ s.sqs.filter (adminReady s) = [q] ∧ sqOf s q.func 0 = some q ∧ q.subs = adm 6 1 0 :: [] ∧
      sqOf s q.func q.id = some q) ∧
    (let e := ent 0 1 0 0 0 0
     let q : Sq := { func := 0, id := 1, cq := 1, size := 4, prio := 0, tail := 1, subs := [e] }
     let k : Cont := { capcR := 112000000, capcW := 112000000 }
     let s : State := { queued 1 e with qos := { budgetW := 1, conts := [(1024, k)] } }
     let t : State := { queued 1 e with qos := { budgetW := 1, conts := [(1024, { k with mincW := 1 })] } }
     admitting s = true ∧ s.sqs.filter (adminReady s) = [] ∧ candidates s = [(1024, q, 0, e)] ∧
      hasMin (contOf s 1024) (charges e).1 (charges e).2 = false ∧
      admitting t = true ∧ t.sqs.filter (adminReady t) = [] ∧ candidates t = [(1024, q, 0, e)] ∧
      hasMin (contOf t 1024) (charges e).1 (charges e).2 = true) := by decide +kernel

theorem wit_EpochBoundary :
    (vfS.md.cur ≠ .watch ∧ vfS.md.cur ≠ .start ∧ vfS.qos.epoch < epochNow { vfS with clk := { time := 1000000 } } ∧
      (((settleShares (setFactors vfS)).tenants.filter fun e : Nat × Tenant => e.2.st ≠ TState.none).map Prod.fst ++ [1024]).Nodup) ∧
    kerfTime vfS = 0 ∧ backlog vfS Cmd.chargeR ≤ 448000000 ∧ 0 ≠ 1024 := by decide +kernel

/-- An operation of a kind on a queue, and a run of it. -/
def opOf (w : Work) (q : OpQueue) : Op := ⟨w, q, .medium, 0, 0, 0, 0, .hard, []⟩
def runOf (w : Work) (r : Resource) : Run := { res := r, op := { opOf w (.lun 0) with cls := .writeBack } }

theorem wit_DispatchOrder : pickOp runS [opOf (.erase 0 0) (.lun 0)] = some (opOf (.erase 0 0) (.lun 0)) := by decide +kernel

theorem wit_DispatchStarts :
    (let o := opOf (.encode 0) (.codec 7)
     let u := rehome { nvS with ops := [o] }
     pickOp u (u.ops.filter (mayStart u (.coder 7 15 0))) = some o ∧ decryptKeyless u o.work = none ∧ o.work = .encode 0) ∧
    (let o := opOf (.erase 0 0) (.lun 0)
     let s : State := { nvS with ops := [o], chans := [(0, { gated := false })], san := { erases := [(0, 0)] } }
     let u := lunResume 0 (endInternal 0 (rehome s))
     ioServes s = true ∧ pickOp u (u.ops.filter (mayStart u (.lun 0))) = some o ∧ o.work = .erase 0 0) ∧
    (let x : Run := { runOf (.erase 0 0) (.lun 0) with kerf := true, kerfUs := 1000 }
     let s : State := { nvS with runs := [x], clk := { time := 1000000 } }
     s.runs.filter (kerfOver s (.lun 0)) = [x] ∧ x.op.work = .erase 0 0 ∧ kerfOver { s with clk := { time := 999990 } } (.lun 0) x = false) ∧
    (∀ k, k < 8 → (cipOf nvS k).fenced = false) ∧
    nvS.fw.act.any (·.switching) = false ∧
    (let s : State := { nvS with fw := { act := some ⟨1, false, some idA, true, false, 0⟩ } }
     s.fw.act.any (·.switching) = true) := by decide +kernel

theorem wit_GeyserPromotion :
    let c := cmd1 idQ (ent 2 1 0 0 0 0)
    let s : State := { withCmd idQ (ent 2 1 0 0 0 0) with clk := { time := 10000000000 } }
    cmdOf s idQ = some c ∧ c.overAge = false ∧ c.id.sq ≠ 0 ∧
      ageLimit s 0 c.cls = some (1000000 * fld (featGet (fnOf s 0) 0xC1 0) 15 8) ∧
      c.time + 1000000 * fld (featGet (fnOf s 0) 0xC1 0) 15 8 ≤ now s := by decide +kernel

theorem wit_WriteDataReachesCache :
    let c : Cmd := { cmd1 idQ (ent 1 1 0 0 0 0) with phase := .fetching }
    let s : State := { nvS with cmds := [c] }
    cmdOf s idQ = some c ∧ c.phase = .fetching ∧ isWrite c.e = true ∧ nsOf s c.e.nsid = some nsZ := by decide

/-- A lossless profile of 8-bit samples, lines of 16. -/
def desc8 : List Byte := [1, 1, 0, 0, 8, 0, 0, 0, 16, 0, 0, 0]

theorem wit_CoderEnds :
    (let j : Job := { ns := 1, zone := 0, idx := 0, orig := List.replicate 16 0 }
     let x := runOf (.encode 0) (.coder 0 0 0)
     let s : State := { nvS with jobs := [(0, some j)], runs := [x] }
     let t : State := { s with profiles := [(0, { desc := desc8, enabled := true })] }
     runOn s (.coder 0 0 0) = some x ∧ x.op.work = .encode 0 ∧ tget none s.jobs 0 = some j ∧ coderResult (endRun x s) j = none ∧
      runOn t (.coder 0 0 0) = some x ∧ tget none t.jobs 0 = some j ∧ (coderResult (endRun x t) j).isSome = true ∧
      regFld t (cdcBase 0) 8 8 = 0 ∧ regFld { t with regs := [(cdcBase 0, 0x104)] } (cdcBase 0) 8 8 = 1) ∧
    (let j : Job := { ns := 1, zone := 0, idx := 0 }
     let x := runOf (.verify 0 15 0) (.coder 7 15 1)
     let s : State := { nvS with jobs := [(0, some j)], runs := [x] }
     runOn s (.coder 7 15 1) = some x ∧ x.op.work = .verify 0 15 0 ∧ tget none s.jobs 0 = some j) ∧
    (let r : RJob := { ns := 1, zone := 0, idx := 0, bytes := 0 :: 1 :: List.replicate 46 0 }
     let x := runOf (.decode 0) (.coder 0 0 0)
     let s : State := { nvS with rjobs := [(0, some r)], runs := [x] }
     runOn s (.coder 0 0 0) = some x ∧ x.op.work = .decode 0 ∧ tget none s.rjobs 0 = some r ∧ r.gen = genOf s r.func) ∧
    ({ ns := 1, zone := 0, idx := 0 } : Job).redo = false := by decide +kernel

theorem wit_decoded : decodePayload (0 :: 1 :: List.replicate 46 (0 : Byte)) [] = .ok [] := by decide +kernel

theorem wit_CipherEngines :
    (let j : Job := { ns := 1, zone := 0, idx := 0 }
     let x := runOf (.encrypt 0) (.cipher 7)
     let s : State := { nvS with jobs := [(0, some j)], runs := [x] }
     runOn s (.cipher 7) = some x ∧ x.op.work = .encrypt 0 ∧ tget none s.jobs 0 = some j) ∧
    (let r : RJob := { ns := 1, zone := 0, idx := 0 }
     let x := runOf (.decrypt 0) (.cipher 0)
     let s : State := { nvS with rjobs := [(0, some r)], runs := [x] }
     runOn s (.cipher 0) = some x ∧ x.op.work = .decrypt 0 ∧ tget none s.rjobs 0 = some r) ∧
    ((recentFaults runS (cipOf { runS with cip := [(0, { faultTimes := [0] })] } 0)).length < 2) ∧
    (let s : State := { runS with cip := [(0, { faultTimes := [0, 0] })] }
     2 ≤ (recentFaults s (cipOf s 0)).length ∧ 1 < (openSecs s).length ∧ (cipOf s 0).fenced = false) ∧
    (let e : KeyEp := ⟨1, []⟩
     let s : State := { runS with
      vault := { live := { slots := [(2047, { cur := some e, last := 1, ceiling := 1 })] } }, cip := [(0, { wantLease := [2047] })] }
     2047 ∈ (cipOf s 0).wantLease ∧ s.md.cur ≠ .watch ∧ s.md.cur ≠ .doze ∧ (slotOf s 2047).cur = some e ∧
      (slotOf s 2047).hwm < (slotOf s 2047).ceiling) := by decide

theorem wit_LunOperations :
    (let x : Run := { res := .lun 0, op := { opOf (.lunRead 0 5 0) (.lun 0) with cws := [0, 3] } }
     let r : RJob := { ns := 1, zone := 0, idx := 0, pages := [5, 6] }
     let s : State := { nvS with runs := [x], rjobs := [(0, some r)] }
     s.runs.find? (fun x => x.res = .lun 0 && !x.kerf && isRead x.op.work && !isProbe x.op.work) = some x ∧ x.op.work = .lunRead 0 5 0 ∧
      tget none s.rjobs 0 = some r ∧ r.gen = genOf s r.func ∧ x.op.rung = .hard ∧ [true, false].length = x.op.cws.length ∧
      (∀ y ∈ s.runs, y.res = .lun 0 → y = x) ∧ (∀ b ∈ [true, true], b = true) ∧ r.pages.filter (· ≠ 5) ≠ [] ∧
      ((x.op.cws.zip [true, false]).filter fun e => !e.2).map Prod.fst = [3] ∧ r.limit = none ∧ fld (eccCtrl s 0) 1 0 ≠ 0 ∧
      fld (eccCtrl s 0) 11 8 ≠ 0 ∧ fld (eccCtrl (regPut s (chuBase (lunChan 0) + 0x1C) 0) 0) 1 0 = 0) ∧
    (let x := runOf (.erase 0 0) (.lun 0)
     let o := opOf (.lunRead 0 5 1) (.lun 0)
     let r : RJob := { ns := 1, zone := 0, idx := 0, ids := [idQ] }
     let s : State := { withCmd idQ (ent 2 1 0 0 0 0) with runs := [x], ops := [o], rjobs := [(0, some r)], clk := { time := 100000000 } }
     lunMain s 0 = some x ∧ x.kerf = false ∧ x.suspended = false ∧ x.suspending = false ∧ x.suspends < 16 ∧
      suspendable s 0 x.op.work = true ∧ ioServes s = true ∧ x.since + minRun s 0 x.op.work ≤ now s ∧
      (∃ o ∈ waitingReads s 0, internalSt s o = none ∧ clsRank (effCls s o) ≤ clsRank .low ∧ clsRank (effCls s o) < clsRank x.op.cls)) ∧
    (let x : Run := { runOf (.erase 0 0) (.lun 8191) with suspending := true, suspends := 15 }
     x ∈ ({ nvS with runs := [x] } : State).runs ∧ x.res = .lun 8191 ∧ x.suspending = true) ∧
    (let x := runOf (.program 1 0 0 16384) (.lun 0)
     runOn { nvS with runs := [x] } (.lun 0) = some x ∧ x.op.work = .program 1 0 0 16384 ∧ x.suspends < 16) ∧
    (let x := runOf (.orphan 99) (.lun 0)
     runOn { nvS with runs := [x] } (.lun 0) = some x ∧ x.op.work = .orphan 99 ∧ x.suspends < 16) ∧
    (let x := runOf (.erase 0 3) (.lun 0)
     let s : State := { nvS with runs := [x] }
     runOn s (.lun 0) = some x ∧ x.op.work = .erase 0 3 ∧ s.san.running = false ∧ (blkOf (lunOf s 0) 3).probes = 0 ∧ x.suspends < 16 ∧
      (∀ e ∈ s.jobs, ∀ j ∈ e.2, j.stage ≠ .order) ∧ lunPositions s 0 = [] ∧ s.rels = [] ∧
      (blkOf (lunOf { s with luns := [(0, { blk := [(3, { probes := 1 })] })] } 0) 3).probes ≠ 0) ∧
    (let x := runOf (.erase 0 3) (.lun 0)
     let s : State := { nvS with runs := [x], luns := [(0, { reason := 0, timeouts := 1 })] }
     s.runs.find? (fun x => x.res = .lun 0 && !x.kerf && !x.suspended) = some x ∧ (lunOf s 0).timeouts < 2) := by decide +kernel

theorem wit_SuspectProbe :
    let x := runOf (.probe 3) (.lun 0)
    let s : State := { nvS with runs := [x], luns := [(0, { blk := [(3, { probes := 3 })] })] }
    let lim := regFld s (secBase (lunSec 0) + 0x114) 15 0
    runOn s (.lun 0) = some x ∧ x.op.work = .probe 3 ∧ lim ≤ lim ∧ lim < lim + 1 ∧ (blkOf (lunOf nvS 0) 3).probes < 3 ∧
      3 ≤ (blkOf (lunOf s 0) 3).probes := by decide +kernel

theorem wit_FlashChannelTraining :
    (let s : State := { nvS with chans := [(63, { gated := false })] }
     flashOn s = true ∧ (chanOf s 63).gated = false ∧ (chanOf s 63).retraining = false ∧
      (chanOf { s with chans := [(63, { gated := false, checkDue := true })] } 63).checkDue = true ∧
      (chanOf s 63).lastCheck + 1000000 * regFld s (chuBase 63 + 8) 15 0 ≤ now { s with clk := { time := 65535000000 } } ∧
      80 ≤ ((80 : Int) - (chanOf s 63).lastTj).natAbs ∧ regFld s (chuBase 63 + 8) 23 16 ≤ 255 ∧ 63 < 64 ∧
      ∀ d, d < 64 → d / 8 = 63 / 8 → (chanOf s d).retraining = false ∧ (chanOf s d).wantRetrain = false) ∧
    (let s : State := { nvS with chans := [(5, { retraining := true })] }
     (chanOf s 5).retraining = true ∧ regFld s (chuBase 5) 1 0 = 1 ∧ chanDq { s with luns := [] } 5 = true ∧ eyePass 90 60 = true ∧ ∀ d, d < 64 → (chanOf s d).wantRetrain = false) ∧
    (let s : State := { nvS with chans := [(5, { retraining := true })], regs := [(chuBase 5, 2)] }
     regFld s (chuBase 5) 1 0 ≠ 1 ∧ eyePass 90 60 = true) ∧
    (¬(1 = 1 ∧ eyePass 89 60 = true) ∧ eyePass 90 59 = false) := by decide +kernel

/-- Channels beyond the 64 list nothing, so the two `∀ d` hypotheses above hold for every d. -/
theorem wit_noOtherChannel (n d : Nat) (c : Chan) (h : d ≠ n) : chanOf { nvS with chans := [(n, c)] } d = {} := by
  simp [chanOf, tget, Ne.symm h]

/-- `nvS` with rank `r` in a state of the DRAM table. -/
def rankS (r st : Nat) : State := { nvS with dram := { ranks := [(r, { st := st })] } }

/-- A line with one bad bit in its first codeword, and one with two: a check bit, and two check bits. -/
def okLine : LineFault := ⟨0, [BitVec.twoPow 40 32], 0, true, .nothing, false⟩
def badLine : LineFault := ⟨7, [0x300000000], 0, true, .nothing, false⟩

theorem dataCols_ok : dataColsOk dataCols = true := by
  unfold dataCols; dsimp only
  split
  · assumption
  · decide +kernel

theorem checkCols_odd (c : Byte) (h : c ∈ checkCols) : oddByte c = true := by
  rcases List.mem_append.mp h with h | h
  · have := dataCols_ok
    simp only [dataColsOk, Bool.and_eq_true, List.all_eq_true] at this
    exact (this.1.2 c h).1
  · have : ∀ c ∈ (List.range 8).map (BitVec.twoPow 8), oddByte c = true := by decide
    exact this c h

theorem dataCols_list : dataCols = (List.range 32).map (dataCols.getD · 0) := by
  have l : dataCols.length = 32 := by
    have := dataCols_ok
    simp only [dataColsOk, Bool.and_eq_true, decide_eq_true_eq] at this
    exact this.1.1
  apply List.ext_getElem (by simp [l])
  intro i h _
  simp [List.getD, h]

theorem fold_zero : addrFold 0 = 0 := by
  have : ∀ (l : List Nat) (x : Byte), l.foldl (fun x i => if (0 : BitVec 34).getLsbD i then x ^^^ foldConsts.getD i 0 else x) x = x := by
    intro l
    induction l with
    | nil => exact fun _ => rfl
    | cons i t ih => intro x; simpa using ih x
  exact this _ _

theorem syndrome_checks : syndrome (BitVec.twoPow 40 32) 0#34 = 1#8 ∧ syndrome 0x300000000#40 0#34 = 3#8 ∧ syndrome 0#40 0#34 = 0#8 := by
  unfold syndrome checkCols
  rw [show addrFold 0#34 = 0 from fold_zero, dataCols_list]
  decide +kernel

/-- How the two lines read where no line is poisoned. -/
theorem faults_read (s : State) (r : Nat) (h : s.dram.poison = []) (q : (rankOf s r).st ≠ 2) :
    faultRes s r okLine = .read 1 false ∧ faultRes s r badLine = .read 0 true := by
  have z : 0#8 ∉ checkCols := fun h => absurd (checkCols_odd 0 h) (by decide)
  have t : 3#8 ∉ checkCols := fun h => absurd (checkCols_odd 3 h) (by decide)
  have o : 1#8 ∈ checkCols := List.mem_append.mpr (.inr (by decide))
  have m : ∀ f, marked s r f = false := fun f => by simp [marked, fillMarked, h, q]
  obtain ⟨s1, s3, s0⟩ := syndrome_checks
  have a : faultSyn okLine false = 1 :: List.replicate 15 0 := by
    simp [faultSyn, okLine, List.range_succ_eq_map, s1, s0]
  have b : faultSyn badLine false = 3 :: List.replicate 15 0 := by
    simp [faultSyn, badLine, List.range_succ_eq_map, s3, s0]
  constructor
  · simp [faultRes, m, a, lineRes, z, o, List.replicate, List.filter]
  · simp [faultRes, m, b, lineRes, z, t, List.replicate, List.filter]

theorem wit_DramTrainingAndRefresh :
    (let s : State := { rankS 15 1 with therm := { last := 80 } }
     let t : State := { rankS 15 1 with clk := { time := 65535000000 } }
     dramOn s = true ∧ rankLive (rankOf s 15).st = true ∧ regFld s 0x80064 15 8 < 256 ∧ 80 ≤ (s.therm.last - (rankOf s 15).lastTj).natAbs ∧
      (rankOf t 15).lastCheck + 1000000 * regFld t 0x80064 31 16 ≤ now t ∧ ({ checkDue := true } : Rank).checkDue = true ∧
      t.dram.mr4At + 1000000 ≤ now t ∧ (rankOf t 15).refAt + (if (rankOf t 15).doubled then 975 else 1950) ≤ now t ∧
      (rankOf t 15).freeAt ≤ now t ∧ ¬ (rankOf { t with dram := { ranks := [(15, { freeAt := 65535000001 })] } } 15).freeAt ≤ now t ∧
      ∀ k ∈ chanRanks (rankChan 15), (rankOf s k).retraining = false ∧ (rankOf s k).wantRetrain = false) ∧
    (let s : State := { nvS with dram := { ranks := [(0, { st := 1, retraining := true })] } }
     (rankOf s 0).retraining = true ∧ ∀ k ∈ chanRanks (rankChan 0), (rankOf s k).wantRetrain = false) ∧
    (regFld (rankS 0 1) 0x80060 8 8 ≠ 0 ∧ (rankOf (rankS 0 1) 0).outstanding < regFld (rankS 0 1) 0x80060 3 0 ∧
      regFld (rankS 0 1) 0x80060 3 0 ≤ 15) ∧ regFld (regPut (rankS 0 1) 0x80060 8) 0x80060 8 8 = 0 := by decide +kernel

theorem wit_DramCode : 39 < 40 ∧ 0 < 40 ∧ 39 ≠ 0 ∧ 33 < 34 ∧ 0 < 34 ∧ 33 ≠ 0 := by decide

theorem wit_DramErrors :
    (let s := regPut (rankS 15 6) 0x80070 24
     rankServes s 15 = true ∧ accessRanks s 15 okLine.line false = [15] ∧ regFld s 0x80070 7 0 ≠ 0 ∧ regFld s 0x80070 31 16 = 0 ∧
      okLine.queued = false ∧ faultRes s 15 okLine = .read 1 false) ∧
    (let s := rankS 15 1
     15 < 16 ∧ rankServes s 15 = true ∧ accessRanks s 15 badLine.line false = [15] ∧ (rankOf s 15).st = 1 ∧ regFld s 0x80070 7 0 ≠ 0 ∧
      freeSpare s (rankChan 15) = false ∧ badLine.held = .nothing ∧ dramOn s = true ∧ faultRes s 15 badLine = .read 0 true) ∧
    (let s : State := { nvS with dram := { ranks := [(15, { st := 1, retraining := true })] } }
     rankServes s 15 = false ∧ regFld (regPut s 0x80070 0) 0x80070 7 0 = 0) := by
  refine ⟨⟨?_, ?_, ?_, ?_, ?_, (faults_read _ 15 rfl (by decide)).1⟩, ⟨?_, ?_, ?_, ?_, ?_, ?_, ?_, ?_, (faults_read _ 15 rfl (by decide)).2⟩, ?_⟩
    <;> decide +kernel

theorem wit_DramSpares :
    (let s : State := { nvS with dram := { ranks := [(3, { st := 3 })], mig := [(0, { active := true, src := 0, dst := 3, waitFill := true })] } }
     (rankOf s 3).st = 3 ∧ (migOf s (rankChan 3)).active = true ∧ (migOf s (rankChan 3)).dst = 3 % 4) ∧
    (let s : State := { nvS with dram := { ranks := [(12, { st := 4 }), (15, { st := 2 })], mig := [(3, { active := true, src := 0, dst := 3 })] } }
     let m := migOf s 3
     m.active = true ∧ m.waitFill = false ∧ m.src < 4 ∧ m.dst < 4 ∧ m.src ≠ m.dst ∧ rankServes s (4 * 3 + m.src) = true ∧ rankServes s (4 * 3 + m.dst) = true ∧
      s.md.cur ≠ .vent ∧ (∀ k ∈ chanRanks 3, k ≠ 4 * 3 + m.src → (rankOf s k).st ≠ 4) ∧ s.mbx.run = none) ∧
    (let s : State := { nvS with dram := { ranks := [(0, { st := 4 }), (1, { st := 1 }), (2, { st := 2 }), (3, { st := 2 })],
                                           mig := [(0, { active := true, src := 0, dst := 3 })] } }
     (rankOf s 1).st = 1 ∧ freeSpare s (rankChan 1) = true ∧ (migOf s (rankChan 1)).active = true) := by decide +kernel

/-- `runS` with the pace loop enabled, 1 ms of device time past. -/
def paceS : State := regPut { runS with clk := { time := 1000000 } } 0x10200 0x10514

theorem wit_AvsTimeout :
    (let s : State := { paceS with pace := { avsOut := some 755 } }
     s.pace.avsOut = some 755 ∧ s.pace.avsAt + 1000000 ≤ now s) ∧
    (let s : State := { paceS with pace := { avsFault := true } }
     paceActs s = true ∧ s.pace.actAt + 1000000 ≤ now s ∧ s.pace.avsOut = none ∧ s.pace.avsFault = true) ∧
    ({ paceS with pace := { avsOut := some 755 } } : State).pace.avsOut = some 755 := by decide +kernel

theorem wit_PaceLoopOff :
    regFld (regPut runS 0x10200 0x514) 0x10200 16 16 = 0 ∧ (atStage (atS 3) 3 = true ∧ (atS 3).mbx.run = none ∧
      (startImages (atS 3)).find? (fun e => imgOk (atS 3) e.2) = some (4, (atS 3).fw.recovery)) := by decide +kernel

theorem wit_PaceLoop :
    8 ≤ 8 ∧ meterGated (inMode .doze) 0 = true ∧ meterGated (inMode .doze) 8 = false ∧ (tget {} paceS.pace.meters 8).endAt + 1000000 ≤ now paceS ∧
    (let p := (paceLatch paceS).pace
     paceActs paceS = true ∧ paceS.pace.actAt + 1000000 ≤ now paceS ∧ paceS.pace.avsOut = none ∧ paceS.pace.avsFault = false ∧ 5499 < powerCap paceS.pwr.cur ∧
      paceS.pace.vset + p.step ≤ p.ceil ∧ 600 + p.step ≤ paceS.pace.vset ∧ 0 < p.step ∧
      measuredPace paceS < min p.target paceS.therm.ttarget) ∧
    (let s : State := { paceS with pace := { meters := (List.range 9).map fun i => (i, ⟨1021, 0, false, 0⟩) } }
     let p := (paceLatch s).pace
     min p.target s.therm.ttarget + p.hyst < measuredPace s) ∧
    (let s : State := { paceS with pace := { meters := (List.range 9).map fun i => (i, ⟨1020, 0, false, 0⟩) } }
     let p := (paceLatch s).pace
     min p.target s.therm.ttarget ≤ measuredPace s ∧ measuredPace s ≤ min p.target s.therm.ttarget + p.hyst) ∧
    600 ≤ ({} : Pace).ceil := by decide +kernel

theorem wit_ReferenceClock : runS.clk.refOn = true ∧
    (let s : State := { runS with clk := { refOn := false } }
     s.clk.refOn = false ∧ s.pwr.coreOff = false) ∧ ({ inMode .watch with pwr := { coreOff := true } } : State).pwr.coreOff = true := by decide

theorem wit_NoiseAndReseed :
    (runS.sec.drbg = true ∧ runS.sec.st ≠ 2 ∧ coreOn runS = true ∧ runS.sec.waits = [] ∧ runS.sec.startUp - 1 = 0 ∧ runS.sec.fill = 0) ∧
    (let s : State := { runS with sec := { runS.sec with fill := 1, waits := [.challenge] } }
     (if s.sec.startUp = 0 then s.sec.fill - 1 else s.sec.fill) = 0 ∧ s.sec.startUp - 1 = 0 ∧ s.sec.waits = [.challenge]) ∧
    (let s : State := { runS with sec := { runS.sec with startUp := 1024 } }
     s.sec.startUp - 1 ≠ 0) ∧
    (let s : State := { runS with sec := { runS.sec with lastBit := some true, rep := 40, failTimes := [0, 0] } }
     (if s.sec.lastBit = some true then s.sec.rep + 1 else 1) = 41 ∧
      2 ≤ (s.sec.failTimes.filter fun x => now s ≤ x + 1000000000).length ∧ s.md.cur = .run ∧ s.rjobs = []) ∧
    (let s : State := { runS with sec := { runS.sec with winPos := 1023, winFirst := true, winCount := 799, failTimes := [0] } }
     (if true = s.sec.winFirst then s.sec.winCount + 1 else s.sec.winCount) = 800 ∧
      (s.sec.failTimes.filter fun x => now s ≤ x + 1000000000).length < 2) ∧
    (let s : State := { runS with sec := { runS.sec with drbgReqs := 2 ^ 20 } }
     s.sec.drbg = true ∧ s.sec.st ≠ 2 ∧ s.sec.startUp = 0 ∧ 2 ^ 20 ≤ s.sec.drbgReqs) := by decide

theorem wit_TimedRows :
    coreRuns runS = true ∧
    (let s : State := { runS with flt := { settle := some 0 }, clk := { time := 5000000000 } }
     s.flt.settle = some 0 ∧ coreRuns s = true ∧ 0 + regFld s 0xA000C 9 0 * 1000000000 ≤ now s) ∧
    (let s : State := { runS with co := { lockedUntil := some 60 }, clk := { time := 60 } }
     s.co.lockedUntil = some 60 ∧ 60 ≤ now s) := by decide +kernel

theorem wit_TemperatureAndHousekeeping :
    (let s : State := { runS with therm := { fast := true }, clk := { edge := true, ticks := 1638 } }
     s.therm.fast = true ∧ s.clk.edge = true ∧ s.therm.fastAt + 32 ≤ s.clk.ticks ∧ s.hk.roundAt + 1638 ≤ s.clk.ticks) ∧ runS.md.cur ≠ .watch ∧
    (⟨840, 40⟩ : Thr).level ≤ 840 ∧ (799 : Int) < (⟨840, 40⟩ : Thr).level - (⟨840, 40⟩ : Thr).hyst ∧
    ((⟨840, 40⟩ : Thr).level - (⟨840, 40⟩ : Thr).hyst ≤ 800 ∧ (800 : Int) < (⟨840, 40⟩ : Thr).level) := by decide

theorem wit_CapacitanceTest :
    (let s : State := { runS with clk := { time := dayNs } }
     s.hold.lastTest + dayNs ≤ now s ∧ s.hold.testRun = false ∧ s.md.cur = .run ∧ ventTesting s = false) ∧
    ({ runS with hold := { testRun := true } } : State).hold.testRun = true ∧ 12000 ≤ 12000 ∧ 11999 < 12000 := by decide

theorem wit_DipsAndVent :
    (let s : State := regPut runS 0x30200 0x80320000
     ventEnabled s = true ∧ 10799 < ventWarn s ∧ s.hold.debounce = none ∧ s.md.cur ≠ .vent ∧ s.md.cur ≠ .doze) ∧
    (let s : State := { runS with hold := { debounce := some 0 } }
     s.hold.debounce = some 0 ∧ ventRecover s ≤ 11400) ∧
    (let s : State := { regPut nvS 0x30200 0x80320000 with hold := { debounce := some 0 }, clk := { time := 45000 } }
     s.hold.debounce = some 0 ∧ 0 + 900 * s.hold.deb ≤ now s ∧ ventEnabled s = true ∧ s.md.cur = .run ∧ anyLun s = true ∧ s.hold.vent = none) ∧
    (let v : VentRun := ⟨0, .run, 0, false, false, false, 0, 0, 0⟩
     let b : CBlk := { ns := 2, lba := 0, data := [], func := 0, time := 0 }
     let s : State := { inMode .vent with hold := { vent := some v, poolCap := 72 * 2 ^ 18 }, cache := [b] }
     s.hold.vent = some v ∧ v.dumped = false ∧ v.perst = false ∧ v.shut = false ∧ 11399 < ventRecover s ∧ ventFetching s v = false ∧
      (∀ c ∈ s.cmds, c.phase ≠ .durable) ∧ s.cache = [b] ∧ b.vented = false ∧ dataSlot s b.ns b.lba = none ∧ v.blocks < 2 ^ 64 ∧ poolUsed s < s.hold.poolCap) ∧
    (let v : VentRun := ⟨0, .run, 0, false, false, true, 0, 0, 0⟩
     let s : State := { inMode .vent with hold := { vent := some v } }
     s.hold.vent = some v ∧ v.dumped = true ∧ v.perst = false ∧ v.shut = false ∧ ventRecover s ≤ 11400 ∧ v.fromMode ≠ .halt ∧
      s.pwr.pend = 7 ∧ s.mbx.run = none ∧ s.fw.act = none) := by decide +kernel

/-- A state in a power transition. -/
def transS (m : Mode) (u : Trans) : State := { inMode m with pwr := { trans := some u } }

theorem wit_PowerTransitions :
    (let u : Trans := ⟨3, false, false, none⟩
     (transS .run u).pwr.trans = some u ∧ u.drained = false ∧ (transS .run u).md.cur ≠ .vent ∧ psDrained (transS .run u) = true ∧ u.target ≠ 4) ∧
    (let u : Trans := ⟨4, false, false, none⟩
     (transS .run u).pwr.trans = some u ∧ u.drained = false ∧ (transS .run u).md.cur ≠ .vent ∧ psDrained (transS .run u) = true ∧ u.target = 4) ∧
    (∀ n ∈ [0, 1, 2, 3, 4], let u : Trans := ⟨n, true, false, none⟩
     (transS .run u).pwr.trans = some u ∧ u.drained = true ∧ (transS .run u).pwr.coreOff = false ∧ u.owner = none ∧
      (transS .run u).pwr.pend = 7 ∧ (transS .run u).pwr.waiters = [] ∧ u.exiting = false ∧ (transS .run u).aonQ = []) ∧
    (let u : Trans := ⟨2, true, true, none⟩
     let s := transS .doze u
     s.pwr.trans = some u ∧ u.target < 3 ∧ u.exiting = true ∧ exitChecked s = true ∧ s.pwr.ventAfter = false ∧ s.pwr.shutAfter = false ∧
      s.pwr.haltRec = false ∧ s.sec.st ≠ 2 ∧ s.md.cur ≠ .halt ∧ s.pwr.owed = [] ∧ s.therm.evOwed = [] ∧ s.therm.held = [] ∧ s.clk.refPin = true ∧
      exitChecked { s with chans := [(0, { checkDue := true })] } = false) ∧ ioServes runS = true := by decide

theorem wit_WatchAndWake :
    (let s : State := { inMode .watch with clk := { edge := true, ticks := 32768 } }
     s.md.cur = .watch ∧ s.pwr.trans = none ∧ ticksPast s s.pwr.cycleAt (s.pwr.watchPeriod * 32768 / 1000) = true ∧ perstLow s = false ∧
      breach s = none ∧ perstLow { s with pin := { s.pin with perst := true } } = true ∧
      breach { s with pwr := { watchMask := 1, thr := [(0, (1, 0x550))] } } = some 0) ∧
    (let s : State := { regPut (inMode .watch) 0x30034 1 with clk := { time := 1000000000 } }
     s.md.cur = .watch ∧ s.pwr.trans = none ∧ perstLow s = false ∧ regFld s 0x30034 31 0 ≠ 0 ∧ s.pwr.since + regFld s 0x30034 31 0 * 1000000000 ≤ now s) ∧
    (let u : Trans := ⟨0, true, true, none⟩
     let s : State := { inMode .watch with pwr := { trans := some u, coreOff := true } }
     let p : WakeProbe := ⟨true, true, true, goodTests⟩
     s.pwr.trans = some u ∧ s.pwr.coreOff = true ∧ s.md.cur = .watch ∧ p.retentionOk = true ∧ p.dramCopyOk = true ∧ p.ranksOk = true ∧
      firstFailed p.tests = 0 ∧ (∀ k, k < 8 → p.tests.gcmOk.getD k false = true) ∧ s.pwr.zerDone = false ∧
      ({ p with retentionOk := false } : WakeProbe).retentionOk = false) := by decide +kernel

theorem wit_SidebandAnswers :
    coreOn runS = true ∧ coreOn (inMode .watch) = false ∧ (inMode .watch).pwr.trans = none ∧ perstLow (inMode .watch) = false ∧
    (let s : State := { inMode .watch with pin := { perst := true } }
     coreOn s = false ∧ perstLow s = true) ∧
    (let s : State := { inMode .watch with pwr := { trans := some ⟨0, true, true, none⟩, coreOff := true } }
     coreOn s = false ∧ s.pwr.trans ≠ none) := by decide

theorem wit_SpdmRequests :
    (coreOn runS = true ∧ runS.sec.st ≠ 2 ∧ runS.sec.negotiated = true ∧ runS.sec.startUp = 0 ∧ runS.sec.fill = 0 ∧ runS.md.cur = .run) ∧
    ({ runS with sec := { runS.sec with fill := 1536 } } : State).sec.fill ≠ 0 ∧
    (let s : State := { runS with sec := { runS.sec with sessions := [⟨1, [], 0, 0⟩, ⟨2, [], 0, 0⟩, ⟨3, [], 0, 0⟩] } }
     s.sec.sessions.length < 4 ∧ sessOpen 3 s = true) ∧
    (let s : State := { inMode .halt with sec := { st := 2 } }
     coreOn s = true ∧ s.sec.st = 2) := by decide

theorem wit_FreezeAndScrubEnd :
    (let r : MbxRun := { opc := 0x0801, args := [0], buf := none, notify := false, epoch := false, force := false }
     let s : State := { vfS with mbx := { run := some r }, mig := { freeze := some 0 }, clk := { time := 450000000 } }
     freezing s = some 0 ∧ undecided s 0 = [] ∧ s.mig.frzStart + 450000000 ≤ now s) ∧
    (let r : MbxRun := { opc := 0x0601, args := [0, 1151, 0], buf := none, notify := false, epoch := false, force := false }
     let s : State := { runS with mbx := { run := some r } }
     s.mbx.run = some r ∧ r.opc = 0x0601 ∧ r.paused = false ∧ r.waitStart = false ∧ s.sram.cells = [] ∧ s.sram.bad = [] ∧ r.met = [] ∧
      s.sram.scan = argN r 0 ∧ s.sram.scanCe = 0 ∧ s.sram.scanUe = 0) := by decide

theorem wit_GatedAccesses : blockGated (inMode .watch) 0x20000 = true := by decide

theorem wit_TenantSelectors :
    wvServed vfS (.vf 1024) = true ∧ (wvOf vfS (.vf 1024)).sel.toNat = 1 ∧
    (let s : State := { vfS with wvVf := [(1, { sel := 0x13 }), (2, { sel := 0x14 })] }
     wvServed s (.vf 1) = true ∧ (wvOf s (.vf 1)).sel.toNat = 0x13 ∧ wvServed s (.vf 2) = true ∧
      ¬((wvOf s (.vf 2)).sel.toNat = 1 ∨ (0x10 ≤ (wvOf s (.vf 2)).sel.toNat ∧ (wvOf s (.vf 2)).sel.toNat ≤ 0x13))) := by decide

theorem wit_RegisterWrites :
    (topServed runS = true ∧ runS.md.loaded = true) ∧
    (0x30000 ≤ 0x30034 ∧ 0x30034 < 0x40000 ∧ aonHas (0x30034 - 0x30000) = true ∧ runS.aonHeld = [] ∧ runS.aonQ.length < 8) ∧
    aonHas (0x3FFFC - 0x30000) = false ∧
    (topServed (inMode .doze) = true ∧ 0x10000 ≤ 0x80004 ∧ blockGated (inMode .doze) 0x80004 = true) ∧ topServed (atS 0) = false ∧ (atS 0).md.cur ≠ .watch ∧
    ((inMode .watch).md.cur = .watch ∧ blockGated (inMode .watch) 0x20000 = true) ∧
    wvServed vfS (.vf 1) = true ∧ (fnPresent vfS 1 = true ∧ 1 < fnVectors vfS 1 ∧ 1 < 256 ∧ coreOn vfS = true ∧ bitOf (1 : W32) 0 = true) ∧
    (7 < 8 ∧ blockGated runS (cdcBase 7) = false) ∧ blockGated runS 0x70000 = false := by decide

theorem wit_StrobesAndStores :
    (7 < 8 ∧ blockGated runS (secBase 7) = false ∧ topServed runS = true ∧ runS.md.cur ≠ .watch ∧ wvServed vfS (.vf 1) = true) ∧
    runS.wvTop.sel.toNat = 1 ∧ (slotOf runS 0).hwm < 2 ^ 128 ∧
    (let s : State := { runS with aonQ := [⟨0x30034, .normal, 1⟩, ⟨0x30034, .normal, 2⟩], wvTop := { waitEdge := true } }
     s.aonQ = [⟨0x30034, .normal, 1⟩, ⟨0x30034, .normal, 2⟩] ∧ s.wvTop.waitEdge = true) ∧
    (let s : State := { runS with pPend := [0xA000C] }
     pOwed s = true ∧ coreOn s = true) ∧
    (blockGated runS 0x30000 = false ∧ runS.aonQ = [] ∧ runS.aonHeld = [] ∧ runS.hold.testRun = false ∧ runS.md.cur = .run ∧
      ventTesting runS = false ∧ blockGated (inMode .halt) 0x30000 = false ∧ (inMode .halt).md.cur ≠ .run) := by decide

/-- The state that the witnesses of the enable gates change: the pace loop off, the thermal, Vent and map enables off. -/
def gateS : State :=
  [(0x10200, 0x514), (0x3010C, 0x352), (0x30200, 0x320000), (0x80004, 0)].foldl (fun s (w : Nat × W32) => regPut s w.1 w.2) runS

/-- A tag that does not match. -/
def tagS : State := regPut gateS 0xA0010 1

theorem wit_EnableGates :
    (topServed gateS = true ∧ bitOf (regGet gateS 0x10200) 16 = false ∧ bitOf (aliasWord .setBits (regGet gateS 0x10200) 0x10000) 16 = true ∧
      tagRefuses gateS = false ∧ aliasWord .setBits (tget 0 gateS.rsv 0x10200) (0x10000 &&& ~~~(rwMask 0x10200)) = 0 ∧
      tget 0 gateS.rsv 0x10204 = 0 ∧ tget 0 gateS.rsv 0x10208 = 0 ∧ 100 ≤ regFld gateS 0x10204 10 0 ∧ regFld gateS 0x10204 10 0 ≤ 1250 ∧
      600 ≤ regFld gateS 0x10208 9 0 ∧ regFld gateS 0x10208 9 0 ≤ 850 ∧
      1 ≤ fld (aliasWord .setBits (regGet gateS 0x10200) 0x10000) 11 8 ∧ fld (aliasWord .setBits (regGet gateS 0x10200) 0x10000) 11 8 ≤ 10 ∧
      5 ≤ fld (aliasWord .setBits (regGet gateS 0x10200) 0x10000) 7 0 ∧ fld (aliasWord .setBits (regGet gateS 0x10200) 0x10000) 7 0 ≤ 200) ∧
    (tagRefuses { tagS with flt := { epoch := 1 } } = true ∧ bitOf (regGet tagS 0x10200) 16 = false) ∧
    (blockGated gateS 0x30000 = false ∧ gateS.aonQ = [] ∧ gateS.aonHeld = [] ∧ bitOf (regGet gateS 0x3010C) 31 = false ∧
      bitOf (aliasWord .setBits (regGet gateS 0x3010C) 0x80000000) 31 = true ∧ thermChecks (regWrite gateS .setBits 0x3010C 0x80000000) = none ∧
      (thermChecks (regWrite (regPut gateS 0x30104 0) .setBits 0x3010C 0x80000000)).isSome = true) ∧ thermChecks runS = none ∧
    (bitOf (regGet gateS 0x30200) 31 = false ∧ bitOf (aliasWord .setBits (regGet gateS 0x30200) 0x80000000) 31 = true ∧
      ventTesting gateS = false ∧ ventChecks (regWrite gateS .setBits 0x30200 0x80000000) = none ∧
      (ventChecks (regWrite (regPut gateS 0x30200 0x130000) .setBits 0x30200 0x80000000)).isSome = true ∧
      ventTesting { gateS with mbx := { run := some { opc := 0x0503, args := [], buf := none, notify := false, epoch := false, force := false } } } = true) ∧
    ventChecks runS = none ∧
    (blockGated gateS 0x80000 = false ∧ bitOf (regGet gateS 0x80004) 8 = false ∧
      bitOf (aliasWord .normal (regGet gateS 0x80004) 0x100) 8 = true ∧ mapChecks (regWrite gateS .normal 0x80004 0x101) = none ∧
      (mapChecks (regWrite gateS .normal 0x80004 0x105)).isSome = true) := by decide +kernel

/-- A device whose Crypto Officer has staged a key for slot 0 of the PF. -/
def keyS : State :=
  { regPut runS 0x40000 0xFFFF0000 with
    vault := { live := { kek := some [], co := some (List.replicate 48 0) }, words := (List.range 8).map fun i => (i, some 1), staged := some 0 }
    co := { role := true } }

/-- `keyS` with slot 0 holding two epochs. -/
def keyS2 : State :=
  { keyS with vault := { keyS.vault with live := { keyS.vault.live with
      slots := [(0, { cur := some ⟨2, []⟩, prev := some ⟨1, []⟩, last := 2 })] } } }

theorem wit_RecommitEpochs :
    (blockGated keyS2 0x40000 = false ∧ tagRefuses keyS2 = false ∧ ownsSlot keyS2 (selSlot keyS2) = false ∧ keyEntryBarred keyS2 = false ∧
      keyS2.co.role = true ∧ selSlot keyS2 ≤ 2047 ∧ selOwner keyS2 = 0xFFFF ∧ (slotOf keyS2 (selSlot keyS2)).last ≠ 0xFFFFFFFF ∧
      (∀ i, i < 8 → (tget none keyS2.vault.words i).isSome = true) ∧ tget 0 keyS2.rsv 0x40000 = 0) ∧
    (slotOf keyS2 (selSlot keyS2)).cur = some ⟨2, []⟩ ∧ (slotOf keyS2 (selSlot keyS2)).owner = selOwner keyS2 ∧
    prevReferenced keyS2 (selSlot keyS2) = false := by decide +kernel

theorem wit_KeyEntryAndOfficer :
    (blockGated keyS 0x40000 = false ∧ 7 < 8) ∧
    (blockGated keyS 0x40000 = false ∧ tagRefuses keyS = false ∧ ownsSlot keyS (selSlot keyS) = false ∧ keyEntryBarred keyS = false ∧
      keyS.co.role = true ∧ selSlot keyS ≤ 2047 ∧ selOwner keyS = 0xFFFF ∧ (slotOf keyS (selSlot keyS)).last ≠ 0xFFFFFFFF ∧
      (∀ i, i < 8 → (tget none keyS.vault.words i).isSome = true) ∧ tget 0 keyS.rsv 0x40000 = 0 ∧
      (slotOf keyS (selSlot keyS)).cur = none ∧ ownerClash keyS (selSlot keyS) (selOwner keyS) = false) ∧
    (let s : State := { keyS with co := {} }
     blockGated s 0x40000 = false ∧ tagRefuses s = false ∧ ownsSlot s (selSlot s) = false ∧ s.co.role = false) ∧
    (coIgnored keyS = false ∧ keyS.vault.live.co = some (List.replicate 48 0)) ∧ coIgnored (inMode .watch) = true ∧
    (coIgnored keyS = false ∧ keyS.co.role = true) := by decide +kernel

/-- Response words that spell 48 bytes. -/
def respWords (b : List Byte) : Table W32 := (List.range 12).map fun i => (i, w32 (leAt b (4 * i) 4))

theorem chunks4 (b : List Byte) (n : Nat) : ((List.range n).map fun i => (b.drop (4 * i)).take 4).flatten = b.take (4 * n) := by
  induction n with
  | zero => rfl
  | succ n ih =>
    rw [List.range_succ, List.map_append, List.flatten_append, ih, Nat.mul_succ, List.take_add]
    simp

theorem coResp_respWords (s : State) (b : List Byte) (h : b.length = 48) : coResp { s with co := { s.co with resp := respWords b } } = b := by
  have word : ∀ i, i < 12 → leBytes 4 (w32 (leAt b (4 * i) 4)).toNat = (b.drop (4 * i)).take 4 := by
    intro i hi
    have e := bytesAt_eq b (4 * i) 4 (by omega)
    have l : ((b.drop (4 * i)).take 4).length = 4 := by rw [← e]; simp
    have lt := leNat_lt ((b.drop (4 * i)).take 4)
    rw [l] at lt
    rw [leAt, e, w32, BitVec.toNat_ofNat, Nat.mod_eq_of_lt (by simpa using lt)]
    have r := leBytes_leNat ((b.drop (4 * i)).take 4)
    rwa [l] at r
  have e : coResp { s with co := { s.co with resp := respWords b } } =
      ((List.range 12).map fun i => (b.drop (4 * i)).take 4).flatten := by
    unfold coResp
    congr 1
    apply List.map_congr_left
    intro i hi
    have hi : i < 12 := List.mem_range.mp hi
    rw [← word i hi]
    have : tget 0 (respWords b) i = w32 (leAt b (4 * i) 4) := by
      have : ∀ j, j < 12 → tget 0 (respWords b) j = w32 (leAt b (4 * j) 4) := by
        intro j hj
        rcases j with _|_|_|_|_|_|_|_|_|_|_|_|j <;> first | rfl | omega
      exact this i hi
    rw [this]
  rw [e]
  rw [chunks4, List.take_of_length_le (by omega)]

/-- The right response and a wrong one: neither rests on the serial number. -/
theorem wit_coSubmit :
    (∃ s : State, coIgnored s = false ∧ s.vault.live.co = some [] ∧ coResp s = coExpected [] s.co.count) ∧
    (∃ s : State, coIgnored s = false ∧ s.vault.live.co = some [] ∧ coResp s ≠ coExpected [] s.co.count ∧ 4 ≤ s.co.fails ∧ s.co.fails ≤ 5) := by
  have l : (coExpected [] 0).length = 48 := by simp [coExpected]
  let base : State := { runS with vault := { live := { co := some [] } }, co := { fails := 4 } }
  refine ⟨⟨{ base with co := { base.co with resp := respWords (coExpected [] 0) } }, rfl, rfl, coResp_respWords base _ l⟩,
    ⟨{ base with co := { base.co with resp := respWords ((coExpected [] 0).map (· + 1)) } }, rfl, rfl, ?_, by decide, by decide⟩⟩
  rw [coResp_respWords base _ (by simpa using l)]
  show (coExpected [] 0).map (· + 1) ≠ coExpected [] 0
  cases h : coExpected [] 0 with
  | nil => rw [h] at l; cases l
  | cons x t =>
    intro e
    rw [List.map_cons] at e
    have ne : ∀ y : Byte, y + 1 ≠ y := by decide
    exact ne x (List.cons.inj e).1

/-! ### Mailbox commands that are issued -/

/-- A request with arguments, and one with a host buffer. -/
def req (args : List W32) : MbxReq := ⟨args, none, false, false, false, 0⟩
def reqB (args : List W32) (len : Nat) (b : List Byte) : MbxReq := ⟨args, some ⟨0x1000, len, b⟩, false, false, false, 0⟩

/-- The state and the command as latched after a doorbell that is accepted. -/
def accB (opc : Nat) (r : MbxReq) (s : State) : State := mbxAccept opc r [] none s
def latB (opc : Nat) (r : MbxReq) (s : State) : MbxRun :=
  mbxLatch opc r [] none ((reqWrites opc r).foldl (fun s w => regPut s (0x20000 + w.1) w.2) s)

/-- What `Issued` asks, as a test. -/
def issuable (_opc : Nat) (r : MbxReq) (s : State) : Bool :=
  mbxReached s && s.md.cur = .run && s.mbx.st ≠ .busy && r.rsvd = 0 && !r.epoch && s.fw.act.isNone

theorem issued_of {opc r s} (h : issuable opc r s = true) : Issued opc r [] none s (accB opc r s) (latB opc r s) := by
  simp only [issuable, Bool.and_eq_true, decide_eq_true_eq, Bool.not_eq_true', Option.isNone_iff_eq_none] at h
  obtain ⟨⟨⟨⟨⟨h1, h2⟩, h3⟩, h4⟩, h5⟩, h6⟩ := h
  exact ⟨h1, h2, h3, h4, fun e => (by rw [h5] at e; cases e), h6, rfl, rfl⟩

/-- What `BufOk` asks, as a test. -/
def bufFits (m : MbxRun) (need most : Nat) : Bool :=
  m.buf.all (fun b => b.addr.toNat % 4096 = 0) && need ≤ bufLen m && bufLen m ≤ min most 0x4000000

theorem bufOk_of {m need most} (h : bufFits m need most = true) : BufOk m need most := by
  simp only [bufFits, Bool.and_eq_true, decide_eq_true_eq] at h
  obtain ⟨⟨h1, h2⟩, h3⟩ := h
  refine ⟨fun b hb => ?_, h2, h3⟩
  rw [hb] at h1; simpa using h1

/-- By `issued_of` and `bufOk_of` these tests stand for `Issued` and `BufOk` in the witnesses that follow. -/
theorem wit_MailboxProtocol :
    (let s : State := { runS with mbx := { st := .busy } }
     mbxReached s = true ∧ s.md.cur ≠ .watch ∧ s.mbx.st = .busy) ∧
    (let r : MbxReq := { req [] with rsvd := 1 }
     mbxReached runS = true ∧ runS.md.cur ≠ .watch ∧ runS.mbx.st ≠ .busy ∧ r.rsvd ≠ 0) ∧
    (mbxDefined 0x0106 = false ∧ (req []).rsvd = 0) ∧
    (let r : MbxReq := { req [] with epoch := true }
     let s : State := { runS with flt := { epoch := 1 } }
     mbxDefined 0x0102 = true ∧ r.epoch = true ∧ (latB 0x0102 r s).args.getD 15 0 ≠ s.flt.epoch) ∧
    (modeRefuses (inMode .doze) 0x0101 = some 0x14 ∧ mbxReached (inMode .doze) = true ∧ (inMode .doze).mbx.st ≠ .busy) ∧
    (latB 0x0102 (req []) runS).paused = false ∧
    ({ runS with mbx := { run := some (latB 0x0102 (req []) runS) } } : State).mbx.long = false := by decide +kernel

theorem wit_latched (opc : Nat) (r : MbxReq) (s : State) : (accB opc r s).mbx.run = some (latB opc r s) := rfl

/-- A device with images in slots 1 and 2, slot 0 active. -/
def fwS : State := { runS with fw := { slots := [(1, some { authentic := true }), (2, some { authentic := true, needsReset := true })] } }

theorem wit_DeviceMailbox :
    (issuable 0x0101 (reqB [] 4096 []) runS = true ∧ bufFits (latB 0x0101 (reqB [] 4096 []) runS) 4096 0x4000000 = true) ∧
    issuable 0x0102 (req []) runS = true ∧
    (let r := reqB [3, 16773120] 4096 []
     let m := latB 0x0103 r runS
     issuable 0x0103 r runS = true ∧ bufFits m 1 0x1000000 = true ∧ argN m 0 ≤ 3 ∧ argN m 0 ≠ runS.fw.active ∧ argN m 1 % 4096 = 0 ∧
      argN m 1 + bufLen m ≤ 0x1000000) ∧ issuable 0x0104 (req []) runS = true := by decide +kernel

theorem wit_FwActivate_0 : let m := latB 0x0105 (req [1, 0]) fwS
    issuable 0x0105 (req [1, 0]) fwS = true ∧ argN m 0 ≤ 3 ∧ tget none fwS.fw.slots (argN m 0) = some { authentic := true } ∧ argN m 1 = 0 ∧
    imgOk fwS { authentic := true } = true ∧ ({ authentic := true } : Img).needsReset = false := by decide +kernel
theorem wit_FwActivate_1 : let m := latB 0x0105 (req [1, 1]) fwS
    issuable 0x0105 (req [1, 1]) fwS = true ∧ argN m 0 ≤ 3 ∧ tget none fwS.fw.slots (argN m 0) = some { authentic := true } ∧ argN m 1 = 1 ∧
    imgOk fwS { authentic := true } = true ∧ ({ authentic := true } : Img).needsReset = false := by decide +kernel
theorem wit_FwActivate_2 : let m := latB 0x0105 (req [1, 2]) fwS
    issuable 0x0105 (req [1, 2]) fwS = true ∧ argN m 0 ≤ 3 ∧ tget none fwS.fw.slots (argN m 0) = some { authentic := true } ∧ argN m 1 = 2 ∧
    imgOk fwS { authentic := true } = true ∧ ({ authentic := true } : Img).needsReset = false := by decide +kernel

/-- `runS` with VF Enable, 1,024 VFs and tenant 1,023 in a state. -/
def tenS (st : TState) : State := { runS with numVfs := 1024, vfEnable := true, tenants := if st = .none then [] else [(1023, { st := st })] }

theorem wit_TenantMailbox_1 :
    (let m := latB 0x0201 (req [1023]) (tenS .none)
     issuable 0x0201 (req [1023]) (tenS .none) = true ∧ argN m 0 ≤ 1023 ∧ fnPresent (tenS .none) (argN m 0 + 1) = true ∧
      (tnOf (tenS .none) (argN m 0)).st = .none) := by decide +kernel
theorem wit_TenantMailbox_2 :
    (let r := req [1023, 64, 65]
     let s := tenS .created
     let m := latB 0x0202 r s
     issuable 0x0202 r s = true ∧ argN m 0 ≤ 1023 ∧ 1 ≤ argN m 1 ∧ argN m 1 ≤ 64 ∧ 2 ≤ argN m 2 ∧ argN m 2 ≤ 65 ∧
      (tnOf s (argN m 0)).st = .created ∧ othersQp s (argN m 0) + ((fnOf s 0).numQ.getD 0) + argN m 1 ≤ 4096 ∧
      othersVec s (argN m 0) + argN m 2 ≤ 32768) := by decide +kernel
theorem wit_TenantMailbox_3 :
    (∀ x ∈ [([] : Table Tenant), [(0, { st := .created, stored := { min := 1 } })]],
     let r := req [1023, 10000, 255, 10000, 65535, 65535]
     let s : State := { tenS .configured with tenants := x ++ [(1023, { st := .configured })] }
     let m := latB 0x0203 r s
     issuable 0x0203 r s = true ∧ argN m 0 ≤ 1023 ∧ argN m 1 ≤ 10000 ∧ 1 ≤ argN m 2 ∧ argN m 2 ≤ 255 ∧ argN m 1 ≤ argN m 3 ∧ argN m 3 ≤ 10000 ∧
      argN m 4 ≤ 65535 ∧ argN m 5 ≤ 65535 ∧ (tnOf s (argN m 0)).st ≠ .none ∧ (tnOf s (argN m 0)).st ≠ .frozen ∧
      (10000 < argN m 1 + othersMin s (argN m 0) ↔ x.length = 1)) := by decide +kernel
theorem wit_TenantMailbox_4 :
    (let r := req [1023, 1]
     let s := tenS .configured
     let m := latB 0x0204 r s
     issuable 0x0204 r s = true ∧ argN m 1 = 1 ∧ (tnOf s (argN m 0)).st = .configured ∧ (∀ e ∈ tenantNss s (argN m 0), nsKeyless s e.2 = false) ∧
      ctxNeed s (argN m 0) ≤ ctxFree s) := by decide +kernel
theorem wit_TenantMailbox_5 :
    (let s := tenS .enabled
     let m := latB 0x0204 (req [1023, 0]) s
     issuable 0x0204 (req [1023, 0]) s = true ∧ argN m 1 = 0 ∧ (tnOf s (argN m 0)).st = .enabled ∧
      issuable 0x0205 (req [1023]) s = true ∧ (tnOf s (argN (latB 0x0205 (req [1023]) s) 0)).st = .enabled) := by decide +kernel
theorem wit_TenantMailbox_6 :
    (let s := tenS .configured
     let m := latB 0x0206 (req [1023]) s
     let u : State := { s with ops := [⟨.lunRead 0 0 0, .lun 0, .medium, 0, 1024, 1, 0, .hard, []⟩] }
     issuable 0x0206 (req [1023]) s = true ∧ argN m 0 ≤ 1023 ∧ (tnOf s (argN m 0)).st = .configured ∧ tenantNss s (argN m 0) = [] ∧
      (∀ e ∈ s.vault.live.slots, e.2.cur.isSome = true → e.2.owner ≠ argN m 0) ∧ genInUse s 1024 (genOf s 1024 + 1) = false ∧
      issuable 0x0206 (req [1023]) u = true ∧ genInUse u 1024 (genOf u 1024 + 1) = true) := by decide +kernel
theorem wit_TenantMailbox_7 :
    (issuable 0x0207 (req [1023]) runS = true ∧ argN (latB 0x0207 (req [1023]) runS) 0 ≤ 1023) := by decide +kernel

/-- `runS` with a LUN of 100 blocks of 16 MiB on a channel in service, an enabled profile 1,023 and a written, disabled profile 0. -/
def mediaS : State :=
  { nvS with
    fns := [], sqs := [], cqs := [], chans := [(0, { gated := false })], luns := [(0, { reason := 0, pageBytes := 16384, ppb := 1024, blocks := 100000 })]
    nss := [(1, some { nsZ with owner := none, hints := [] }), (2, some nsC)]
    profiles := [(0, { desc := putAll (zeros 256) [(0, [1]), (16, [1]), (24, [1])] }), (1023, { desc := [1], enabled := true })] }

theorem wit_NamespaceMailbox_1 :
    (let r := req [4096, 1, 4, 1]
     let m := latB 0x0301 r mediaS
     let n : Ns := { zoned := argN m 1 = 1, zcode := if argN m 1 = 1 then argN m 2 else 0, size := argN m 3 }
     issuable 0x0301 r mediaS = true ∧ 1 ≤ argN m 0 ∧ argN m 0 ≤ 4096 ∧ argN m 1 ≤ 1 ∧ (argN m 1 = 1 → argN m 2 ≤ 4) ∧ argN m 3 ≠ 0 ∧
      nsOf mediaS (argN m 0) = none ∧ nssBytes mediaS (fun _ => true) + nsBytes n ≤ rawBytes mediaS ∧
      (n.zoned = false → 100 * (nssBytes mediaS (fun x => !x.zoned) + nsBytes n) ≤ rawBytes mediaS)) := by decide +kernel
theorem wit_NamespaceMailbox_2 :
    (let m := latB 0x0302 (req [1]) mediaS
     issuable 0x0302 (req [1]) mediaS = true ∧ 1 ≤ argN m 0 ∧ argN m 0 ≤ 4096 ∧
      nsOf mediaS (argN m 0) = some { nsZ with owner := none, hints := [] } ∧ (∀ e ∈ mediaS.locks, e.2.defined = true → e.2.ns ≠ argN m 0)) := by decide +kernel
theorem wit_NamespaceMailbox_3a :
    let n : Ns := { nsZ with owner := none, hints := [] }
    let s : State := { mediaS with tenants := [(1023, { st := .enabled })] }
    let m := latB 0x0303 (req [1, 1023]) s
    issuable 0x0303 (req [1, 1023]) s = true ∧ 1 ≤ argN m 0 ∧ argN m 0 ≤ 4096 ∧ (argN m 1 ≤ 1023 ∨ argN m 1 = 0xFFFF) ∧
     nsOf s (argN m 0) = some n ∧ (argN m 1 ≠ 0xFFFF → (tnOf s (argN m 1)).st ≠ .none ∧ (tnOf s (argN m 1)).st ≠ .frozen ∧
       ((tnOf s (argN m 1)).st = .enabled → 0 < ctxFree s)) ∧ r25Fails s n (argN m 1) = false := by decide +kernel
theorem wit_NamespaceMailbox_3b :
    let n : Ns := { nsZ with owner := none, hints := [] }
    let s : State := { mediaS with tenants := [(1023, { st := .enabled })] }
    let m := latB 0x0303 (req [1, 0xFFFF]) s
    issuable 0x0303 (req [1, 0xFFFF]) s = true ∧ 1 ≤ argN m 0 ∧ argN m 0 ≤ 4096 ∧ (argN m 1 ≤ 1023 ∨ argN m 1 = 0xFFFF) ∧
     nsOf s (argN m 0) = some n ∧ (argN m 1 ≠ 0xFFFF → (tnOf s (argN m 1)).st ≠ .none ∧ (tnOf s (argN m 1)).st ≠ .frozen ∧
       ((tnOf s (argN m 1)).st = .enabled → 0 < ctxFree s)) ∧ r25Fails s n (argN m 1) = false := by decide +kernel
theorem wit_NamespaceMailbox_4 :
    (let m := latB 0x0304 (req [2]) mediaS
     issuable 0x0304 (req [2]) mediaS = true ∧ 1 ≤ argN m 0 ∧ argN m 0 ≤ 4096 ∧ nsOf mediaS (argN m 0) = some nsC ∧ nsC.owner = some 0xFFFF ∧
      ownerEnabled mediaS 0xFFFF = false) := by decide +kernel
theorem wit_NamespaceMailbox_5 :
    (let r := reqB [1022] 256 []
     let m := latB 0x0305 r mediaS
     issuable 0x0305 r mediaS = true ∧ bufFits m 256 0x4000000 = true ∧ argN m 0 ≤ 1023 ∧ (profOf mediaS (argN m 0)).enabled = false) := by decide +kernel
theorem wit_NamespaceMailbox_6 :
    (let m := latB 0x0306 (req [0, 1]) mediaS
     issuable 0x0306 (req [0, 1]) mediaS = true ∧ argN m 1 = 1 ∧ (profOf mediaS (argN m 0)).enabled = false ∧
      firstM (enableChecks mediaS (argN m 0) (profOf mediaS (argN m 0))) = none) := by decide +kernel
theorem wit_NamespaceMailbox_7 :
    (∀ z ∈ [([] : Table Zone), [(zkey 1 0, { openZ with prof := some 1023 })]],
     let s : State := { mediaS with zones := z }
     let m := latB 0x0306 (req [1023, 0]) s
     issuable 0x0306 (req [1023, 0]) s = true ∧ argN m 0 ≤ 1023 ∧ argN m 1 = 0 ∧ (profOf s (argN m 0)).enabled = true ∧
      (0 < boundOf s (argN m 0) ↔ z.length = 1)) := by decide +kernel
theorem wit_NamespaceMailbox_8 :
    (let n : Ns := { nsZ with owner := none, hints := [] }
     let m := latB 0x0307 (req [1023, 1, 63]) mediaS
     issuable 0x0307 (req [1023, 1, 63]) mediaS = true ∧ argN m 0 ≤ 1023 ∧ 1 ≤ argN m 1 ∧ argN m 1 ≤ 4096 ∧ argN m 2 ≤ 63 ∧
      (profOf mediaS (argN m 0)).enabled = true ∧ nsOf mediaS (argN m 1) = some n ∧ hintProf n (argN m 2) = none ∧ n.hints.length < 64 ∧
      profSlot (profOf mediaS (argN m 0)) = none) := by decide +kernel


/-- A device with a KEK whose Crypto Officer is logged in, slot 2,047 loaded. -/
def kekS : State :=
  { runS with vault := { live := { kek := some [], slots := [(2047, { cur := some ⟨1, []⟩, last := 1 })] } }, co := { role := true } }

/-- Whether wrapped bytes unwrap is a run of AES, which the kernel does not evaluate in reasonable time; the bytes and the key stand open here. -/
theorem wit_KeyLoadWrapped : let m := latB 0x0401 (reqB [0, 0xFFFF] 40 []) kekS
    issuable 0x0401 (reqB [0, 0xFFFF] 40 []) kekS = true ∧ bufFits m 40 0x4000000 = true ∧ keyEntryBarred kekS = false ∧ kekS.co.role = true ∧
    argN m 0 ≤ 2047 ∧ slotCheck kekS (argN m 0) (argN m 1) m.force = 0 ∧ kekS.vault.live.kek.isSome = true := by decide +kernel
theorem wit_FleetLoadMigrationKey : let m := latB 0x0703 (reqB [] 56 []) kekS
    issuable 0x0703 (reqB [] 56 []) kekS = true ∧ bufFits m 56 0x4000000 = true ∧ keyEntryBarred kekS = false ∧ kekS.co.role = true ∧
    kekS.vault.live.kek.isSome = true := by decide +kernel
theorem wit_KeyZeroizeSlot : let m := latB 0x0402 (req [2047]) kekS
    issuable 0x0402 (req [2047]) kekS = true ∧ argN m 0 ≤ 2047 ∧ issuable 0x0403 (req []) kekS = true := by decide +kernel
theorem wit_KeySetCeiling : let m := latB 0x0404 (req [2047, 0, 0x10000]) kekS
    issuable 0x0404 (req [2047, 0, 0x10000]) kekS = true ∧ argN m 0 ≤ 2047 ∧ 1 ≤ arg64 m 1 ∧ arg64 m 1 ≤ 2 ^ 48 ∧
    (slotOf kekS (argN m 0)).cur.isSome = true ∧ (slotOf kekS (argN m 0)).hwm < arg64 m 1 := by decide +kernel

/-- `nvS` with lock range 255 over the first 16 blocks of namespace 1. -/
def lockR : LockRange := { ns := 1, start := 0, len := 16, defined := true }
def lockS (l : LockRange) : State := { nvS with locks := [(255, l)] }

theorem wit_LockDefine_remove : let m := latB 0x0405 (req [255]) nvS
    issuable 0x0405 (req [255]) nvS = true ∧ argN m 0 ≤ 255 ∧ (lockOf nvS (argN m 0)).locked = false ∧ arg64 m 4 = 0 := by decide +kernel
theorem wit_LockDefine : let m := latB 0x0405 (reqB [254, 1, 16, 0, 16] 64 []) (lockS lockR)
    let s := lockS lockR
    issuable 0x0405 (reqB [254, 1, 16, 0, 16] 64 []) s = true ∧ argN m 0 ≤ 255 ∧ (lockOf s (argN m 0)).locked = false ∧
    bufFits m 64 0x4000000 = true ∧ 1 ≤ argN m 1 ∧ argN m 1 ≤ 4096 ∧ nsOf s (argN m 1) = some nsZ ∧ 0 < arg64 m 4 ∧ arg64 m 2 % 16 = 0 ∧
    arg64 m 4 % 16 = 0 ∧ arg64 m 2 + arg64 m 4 ≤ nsBlocks nsZ ∧
    (∀ e ∈ s.locks, e.1 ≠ argN m 0 → e.2.defined = true → e.2.ns = argN m 1 → meets e.2.start e.2.len (arg64 m 2) (arg64 m 4) = false) := by
  decide +kernel
theorem wit_LockSet_lock : let s := lockS lockR
    let m := latB 0x0406 (req [255, 1]) s
    issuable 0x0406 (req [255, 1]) s = true ∧ argN m 0 ≤ 255 ∧ (lockOf s (argN m 0)).defined = true ∧ argN m 1 = 1 ∧
    ∀ c ∈ s.cmds, cmdTouches s (lockOf s (argN m 0)) c = false := by decide +kernel
/-- A locked range whose password is the byte 7, its verifier made as R306 says. -/
def lockW (v : List Byte) : LockRange := { lockR with salt := [1], verifier := v, locked := true, attempts := 1 }
def lockL : LockRange := lockW (sha384 ([1] ++ [7]))
theorem lockW_verifier (v : List Byte) : (lockW v).verifier = v := rfl
theorem wit_LockSet_unlock : let s := lockS lockL
    let m := latB 0x0406 (reqB [255, 0] 1 [7]) s
    (issuable 0x0406 (reqB [255, 0] 1 [7]) s = true ∧ argN m 0 = 255 ∧ argN m 1 = 0 ∧ bufFits m 1 64 = true ∧ bufBytes m (bufLen m) = [7] ∧
      (lockOf s 255).defined = true ∧ 0 < (lockOf s 255).attempts) ∧ sha384 (lockL.salt ++ [7]) = lockL.verifier ∧
    ∀ c ∈ s.cmds, cmdTouches s (lockOf s 255) c = false :=
  ⟨by decide +kernel, (lockW_verifier (sha384 ([1] ++ [7]))).symm, fun c h => nomatch h⟩
theorem wit_LockSet_wrong :
    let l : LockRange := { lockR with verifier := [], locked := true, attempts := 1 }
    let s := lockS l
    let m := latB 0x0406 (reqB [255, 0] 1 [7]) s
    (issuable 0x0406 (reqB [255, 0] 1 [7]) s = true ∧ argN m 1 = 0 ∧ bufFits m 1 64 = true ∧ 0 < l.attempts) ∧
    sha384 (l.salt ++ bufBytes m (bufLen m)) ≠ l.verifier := by
  refine ⟨by decide +kernel, fun h => ?_⟩
  have := congrArg List.length h
  rw [sha384_length] at this; cases this
theorem wit_LockSet_spent : let s := lockS { lockR with locked := true, attempts := 0 }
    let m := latB 0x0406 (reqB [255, 0] 1 [7]) s
    issuable 0x0406 (reqB [255, 0] 1 [7]) s = true ∧ argN m 0 = 255 ∧ argN m 1 = 0 ∧ bufFits m 1 64 = true ∧
    (lockOf s 255).defined = true ∧ (lockOf s 255).attempts = 0 := by decide +kernel
theorem wit_Sanitize : let m := latB 0x0407 (req [2, 0xFFFFFFFF]) mediaS
    issuable 0x0407 (req [2, 0xFFFFFFFF]) mediaS = true ∧ argN m 0 = 2 ∧ argN m 1 = 0xFFFFFFFF ∧ ownerEnabled mediaS 0xFFFF = false ∧
    (let m := latB 0x0407 (req [1, 2]) mediaS
     issuable 0x0407 (req [1, 2]) mediaS = true ∧ argN m 0 = 1 ∧ 1 ≤ argN m 1 ∧ argN m 1 ≤ 4096 ∧ (nsOf mediaS (argN m 1)).isSome = true) := by
  decide +kernel

theorem wit_PowerStateSet :
    issuable 0x0501 (req [4]) runS = true ∧ argN (latB 0x0501 (req [4]) runS) 0 ≤ 4 ∧ runS.pwr.trans = none ∧ runS.pwr.waiters = [] ∧
    (issuable 0x0501 (req [2]) runS = true ∧ argN (latB 0x0501 (req [2]) runS) 0 = 2 ∧ runS.pwr.cur = 0) ∧
    (issuable 0x0501 (req [0]) runS = true ∧ argN (latB 0x0501 (req [0]) runS) 0 = runS.pwr.cur) := by decide +kernel
theorem wit_HoldupSet : let m := latB 0x0502 (req [65535, 16000]) runS
    issuable 0x0502 (req [65535, 16000]) runS = true ∧ argN m 0 ≤ 65535 ∧ argN m 1 ≤ 16000 ∧
    dDump runS ≤ ceilOf { runS with hold := { runS.hold with cap := argN m 0, vmin := argN m 1 } } * 2 ^ 20 ∧
    (let s : State := { runS with mbx := { run := some m }, hold := { waitHoldup := true }, clk := { edge := true, ticks := 1638 } }
     m.opc = 0x0502 ∧ m.paused = false ∧ s.hold.waitHoldup = true ∧ s.clk.edge = true ∧ s.hk.roundAt + 1638 ≤ s.clk.ticks) := by decide +kernel
theorem wit_VentTest : let s : State := { nvS with hold := { cap := 65535 }, hk := { holdup := [16000] } }
    let m := latB 0x0503 (req [4096]) s
    issuable 0x0503 (req [4096]) s = true ∧ 1 ≤ argN m 0 ∧ argN m 0 ≤ 4096 ∧ s.pwr.cur = 0 ∧ ventTestTooMuch s (argN m 0) = false ∧ goodLuns s ≠ [] ∧
    ventTestTooMuch { s with hold := { s.hold with testRun := true } } (argN m 0) = false := by decide +kernel
theorem wit_WatchConfig : let m := latB 0x0504 (req [60000, 0xFEF]) runS
    issuable 0x0504 (req [60000, 0xFEF]) runS = true ∧ 10 ≤ argN m 0 ∧ argN m 0 ≤ 60000 ∧ argN m 1 ≤ 4095 ∧ (argN m 1).testBit 4 = false ∧
    (∀ c, c < 12 → chVal c (wakeRegs runS c).1 ≤ chVal c (wakeRegs runS c).2) := by decide +kernel
theorem wit_Scrub : let m := latB 0x0601 (req [0, 1151, 1]) runS
    issuable 0x0601 (req [0, 1151, 1]) runS = true ∧ argN m 0 ≤ argN m 1 ∧ argN m 1 ≤ 1151 ∧ argN m 2 ≤ 1 := by decide +kernel
theorem wit_RankMigrate : let s : State := { nvS with dram := { ranks := [(12, { st := 1 }), (15, { st := 2 })] } }
    let m := latB 0x0602 (req [3, 0]) s
    issuable 0x0602 (req [3, 0]) s = true ∧ argN m 0 ≤ 3 ∧ argN m 1 ≤ 3 ∧ (rankOf s (4 * argN m 0 + argN m 1)).st = 1 ∧
    freeSpare s (argN m 0) = true := by decide +kernel
theorem wit_RepairAdd_row : let s : State := { runS with sram := { repairs := List.replicate 63 ⟨0, false, 0⟩ } }
    let m := latB 0x0603 (req [1151, 0, 4095]) s
    issuable 0x0603 (req [1151, 0, 4095]) s = true ∧ argN m 0 ≤ 1151 ∧ (argN m 1 = 0 ∧ argN m 2 ≤ 4095) ∧
    (⟨argN m 0, decide (argN m 1 = 1), argN m 2⟩ : Repair) ∉ s.sram.repairs ∧ s.sram.repairs.length = 63 := by decide +kernel
theorem wit_RepairAdd_column : let m := latB 0x0603 (req [0, 1, 296]) runS
    issuable 0x0603 (req [0, 1, 296]) runS = true ∧ (argN m 1 = 1 ∧ argN m 2 ≤ 296) ∧ runS.sram.repairs = [] := by decide +kernel
theorem wit_FleetSetId : let m := latB 0x0701 (req [1, 2, 16383]) runS
    issuable 0x0701 (req [1, 2, 16383]) runS = true ∧ argN m 2 ≤ 16383 ∧ issuable 0x0702 (req [1, 2, 3, 4, 5]) runS = true := by decide +kernel

theorem wit_TenantFreeze : let s := tenS .enabled
    issuable 0x0801 (req [1023]) s = true ∧ argN (latB 0x0801 (req [1023]) s) 0 ≤ 1023 ∧
    (tnOf s (argN (latB 0x0801 (req [1023]) s) 0)).st = .enabled := by decide +kernel
theorem wit_TenantSave : let s : State := { tenS .frozen with vault := { live := { mig := some [] } } }
    let m := latB 0x0802 (reqB [1023] 65536 []) s
    issuable 0x0802 (reqB [1023] 65536 []) s = true ∧ bufFits m 65536 0x4000000 = true ∧ argN m 0 ≤ 1023 ∧
    (tnOf s (argN m 0)).st = .frozen ∧ (tenantNss s (argN m 0)).length ≤ 512 ∧ s.vault.live.mig = some [] := by decide +kernel
theorem wit_TenantThaw : let s := tenS .frozen
    issuable 0x0804 (req [1023]) s = true ∧ (tnOf s (argN (latB 0x0804 (req [1023]) s) 0)).st = .frozen := by decide +kernel
theorem wit_DirtyLogCtrl : let s : State := { runS with mig := { dlog := [(0, { on := true })] } }
    let m := latB 0x0805 (reqB [1023, 2] 8192 []) s
    (issuable 0x0805 (reqB [1023, 2] 8192 []) s = true ∧ argN m 0 ≤ 1023 ∧ argN m 1 = 2 ∧ (dlogOf s (argN m 0)).on = false ∧
      bufFits m 1 0x4000000 = true ∧ bufLen m % 8192 = 0) ∧
    (issuable 0x0805 (req [0, 0]) s = true ∧ argN (latB 0x0805 (req [0, 0]) s) 1 = 0 ∧ (dlogOf s 0).on = true) ∧
    (issuable 0x0806 (req [0]) s = true ∧ (dlogOf s (argN (latB 0x0806 (req [0]) s) 0)).on = true) := by decide +kernel
theorem wit_LogRead : let m := latB 0x0901 (reqB [0xC0] 4096 []) runS
    issuable 0x0901 (reqB [0xC0] 4096 []) runS = true ∧ bufFits m 0 0x4000000 = true ∧ logReadable 0 (argN m 0) = true ∧ argN m 0 ≠ 0xBF := by
  decide +kernel
theorem wit_Selftest : Issued 0x0902 (req []) [] (some goodTests) runS (mbxAccept 0x0902 (req []) [] (some goodTests) runS)
    (mbxLatch 0x0902 (req []) [] (some goodTests) ((reqWrites 0x0902 (req [])).foldl (fun s w => regPut s (0x20000 + w.1) w.2) runS)) :=
  ⟨by decide, by decide, by decide, by decide, (by intro h; cases h), by decide, rfl, rfl⟩

/-- A blob that a device saved of a frozen tenant, before its seal, and a device that may take it. -/
def savedS : State := { tenS .frozen with tenants := [(1023, { st := .frozen, qp := 1, vec := 2 })] }
def takerS : State := { tenS .created with vault := { live := { mig := some [] } } }
def blobBody : List Byte := (blobOf savedS 1023 []).take 800

theorem blob_is : blobOf savedS 1023 [] = blobBody ++ hmac384 [] blobBody := by
  have h : (blobHead savedS 1023 848 0 0 ++ blobCtrl savedS 1023 ++ ((List.range 2).map (blobQueue savedS 1024)).flatten ++
      bytesAt (((fnOf savedS 1024).aers.map (leBytes 4)).flatten) 0 32 ++ [] ++ []).length = 800 := by decide +kernel
  have e : ∃ x : List Byte, x.length = 800 ∧ blobOf savedS 1023 [] = x ++ hmac384 [] x := ⟨_, h, rfl⟩
  obtain ⟨x, hx, hb⟩ := e
  have : blobBody = x := by rw [blobBody, hb, ← hx, List.take_left]
  rw [this, hb]

theorem wit_TenantRestore :
    firstM (restoreChecks takerS 1023 (blobOf savedS 1023 []) 848) = none := by
  have len : blobBody.length = 800 := by decide +kernel
  have sealedOk : blobSealed takerS (blobOf savedS 1023 []) = true := by
    have l : leAt (blobOf savedS 1023 []) 4 4 = 848 := by decide +kernel
    have v : leAt (blobOf savedS 1023 []) 0 1 = 1 := by decide +kernel
    have t : (blobOf savedS 1023 []).take 800 = blobBody := rfl
    have u : bytesAt (blobOf savedS 1023 []) 800 48 = hmac384 [] blobBody := by
      rw [blob_is, bytesAt_eq _ _ _ (by simp [len]), ← len, List.drop_left, List.take_of_length_le (by simp)]
    unfold blobSealed
    simp only [l, v, t, u, Nat.reduceSub, takerS, Option.any_some, decide_true, Bool.and_self]
  unfold restoreChecks
  rw [sealedOk]
  decide +kernel
theorem wit_TenantRestore_issue : let m := latB 0x0803 (reqB [1023] 848 []) takerS
    issuable 0x0803 (reqB [1023] 848 []) takerS = true ∧ bufFits m 0 0x4000000 = true ∧ argN m 0 = 1023 ∧ bufLen m = 848 := by decide +kernel
theorem wit_TenantRestore_bytes (b : List Byte) (h : b.length = 848) : bufBytes (latB 0x0803 (reqB [1023] 848 b) takerS) 848 = b := by
  show bytesAt b 0 848 = b
  rw [bytesAt_eq b 0 848 (by omega), List.drop_zero, List.take_of_length_le (by omega)]

/-! ### Worked examples of the manual, and values reckoned by hand -/

/-- Chapter 01, channel and LUN numbering: channel 45, local index 35. -/
theorem test_numbering : lunNo 45 35 = 5795 ∧ chuBase 45 = 0x690000 ∧ chanSec 45 = 5 := by decide

/-- Chapter 02, raising the target: at 700 mV, pace 880, target 1,000, step 5, the action writes 705 mV. -/
theorem test_pace_step :
    let s : State := { paceS with pace := { vset := 700, effTarget := 880, meters := (List.range 9).map fun i => (i, ⟨880, 880, false, 0⟩) } }
    let t := after (.paceLoopAction 0) s
    t.pace.avsOut = some 705 ∧ t.pace.effTarget = 1000 ∧ (after .avsbusAcknowledge t).pace.vset = 705 := by decide +kernel

/-- Chapter 03, thresholds refused: AON_REFUSE reads 3000_420Eh and ENABLE stays 0. -/
theorem test_thresholds_refused :
    let s : State := { regPut (regPut (regPut gateS 0x30100 (0x2802F8)) 0x30104 (0x280348)) 0x30108 (0x280320) with
      refuse := [(0x30000, { seq := 2 })] }
    let t := after (.thermalEnable .setBits 0x80000000) s
    refuseWord t 0x30000 = 0x3000420E ∧ regFld t 0x3010C 31 31 = 0 ∧ t.therm = s.therm := by decide +kernel

/-- Chapter 05, busy rejects: MBX_CMD, ARG_0 to ARG_5 and the doorbell of 0203h are 8 ignored writes. -/
theorem test_busy_rejects :
    let t := after (.tenantSetShare (req [18, 500, 20, 1500, 0, 0])) { runS with mbx := { st := .busy, seq := 41 } }
    t.mbx.rejects = 8 ∧ t.mbx.seq = 41 ∧ t.mbx.st = .busy ∧ t.regs = [] := by decide +kernel

/-- Chapter 05, a refused share: 9,700 and 500 points pass 10,000: CODE 0Bh, RESULT_0 1, RESULT_1 18, SEQ 42. -/
theorem test_refused_share :
    let s : State := { runS with mbx := { seq := 41 }, tenants := [(0, { st := .enabled, stored := { min := 9700 } }), (18, { st := .configured })] }
    let t := after (.tenantSetShare (req [18, 500, 20, 1500, 0, 0])) s
    t.mbx.st = .error ∧ t.mbx.code = 0x0B ∧ tget 0 t.mbx.results 0 = 1 ∧ tget 0 t.mbx.results 1 = 18 ∧ t.mbx.seq = 42 := by decide +kernel

/-- Chapter 05, creating a tenant: steps 1 to 4 of tenant 17. -/
theorem test_create_tenant :
    let s1 := after (.vfEnableSet 18) runS
    let s2 := after (.tenantCreate (req [17])) s1
    let s3 := after (.tenantConfigure (req [17, 8, 9])) s2
    (tnOf s2 17).st = .created ∧ (tnOf s3 17).st = .configured ∧ (tnOf s3 17).qp = 8 ∧ (tnOf s3 17).vec = 9 := by decide +kernel

/-- Chapter 06, cutting a share: the allowance is 2,048 at cap 2,000 and 1,311 at cap 100. -/
theorem test_allowance :
    allowOf { runS with tenants := [(5, { qp := 64, inForce := { cap := 2000 } })] } 5 = 2048 ∧
    allowOf { runS with tenants := [(5, { qp := 64, inForce := { cap := 100 } })] } 5 = 1311 := by decide

/-- Chapter 08, one epoch under kerfs: minimum and cap credits of tenants A and B at factor 800. -/
theorem test_epoch_credits :
    let s : State := { runS with tenants := [(0, { inForce := { min := 3000 } }), (1, { inForce := { min := 1000, cap := 2000 } })],
                                 qos := { factorR := 800 } }
    (contEpoch s 0 0).mincR = 26880000 ∧ (contEpoch s 1 0).mincR = 8960000 ∧ (contEpoch s 1 0).capcR = 22400000 := by decide

/-- Chapter 08: a fifth of the epoch under kerfs gives factor 800 and source 2h (R153). -/
theorem test_kerf_factor :
    let s : State := { runS with qos := { kerfNs := 200000 }, pace := { meters := (List.range 9).map fun i => (i, ⟨1000, 0, false, 0⟩) } }
    (setFactors s).qos.factorR = 800 ∧ (setFactors s).qos.srcR = 2 := by decide +kernel

/-- Chapter 09, one capture zone: ZCAP for dcap 9,361,125,376, and the worst case of a 2 MiB append to new frames. -/
theorem test_capture_zone :
    zcapOf 9361125376 65536 { nsZ with zcode := 4 } = 2283184 ∧ worstOf {} 65536 0 2097152 = 2099200 ∧
    124 * 75497472 - ceilDiv (zszeBytes { nsZ with zcode := 4 } / 65536) 1920 * 4096 = 9361125376 := by decide +kernel

/-- Chapter 07, a hinted zone append: profile 7 of hint 5 is bound, the zone opens, and the assigned LBA stands in dword 0. -/
theorem test_hinted_append :
    let n : Ns := { nsZ with hints := [(5, 7)] }
    let c := cmd1 idQ { ent 0x7D 42 0 0 0x00F0000F 0x00050000 with data := zeros 65536 }
    let s : State := { nvS with
      nss := [(42, some n)], cmds := [c], fns := [(0, { en := true, rdy := true, dirEn := [42] })]
      profiles := [(7, { desc := putAll (zeros 256) [(0, [1]), (16, [1]), (24, [1])], enabled := true })], chans := [(0, { gated := false })] }
    let t := after (.zoneAppend idQ) s
    (zoneOf t 42 0).prof = some 7 ∧ (zoneOf t 42 0).st = .implOpen ∧ (zoneOf t 42 0).wp = 16 ∧
    (cmdOf t idQ).map (fun d => (d.phase, d.lba)) = some (.fetching, 0) := by decide +kernel

/-- Chapter 10, geometry of a detector frame: frames 1 and 2 of an image of 1,536 × 1,024 packed 12-bit samples. -/
theorem test_detector_geometry :
    let d := putAll (zeros 256) [(1, [2]), (2, [2]), (3, [2]), (4, [12]), (8, leBytes 4 1536), (48, leBytes 8 2359296)]
    geomOf d 65536 65536 = { cont := 2, sig := 12, linelen := 1536, head := 2, startCol := 684, startRow := 0, brk := 0, img := 2359296 } ∧
    geomOf d 131072 65536 = { cont := 2, sig := 12, linelen := 1536, head := 1, startCol := 1366, startRow := 0, brk := 0, img := 2359296 } ∧
    (geomOf d 196608 65536).head = 0 ∧ (geomOf d 196608 65536).startCol = 512 := by decide +kernel

/-- Chapter 11, the 4 × 4 mosaic patch: descriptor and the 24 packed bytes. -/
def patchDesc : List Byte := putAll (zeros 256) [(0, [1]), (1, [1]), (3, [2]), (4, [12]), (5, [3]), (8, leBytes 4 4)]
def patchIn : List Byte :=
  [0x0C, 0x88, 0x7F, 0x14, 0xC8, 0x7F, 0xF6, 0x47, 0x83, 0xFB, 0xD7, 0x83, 0x08, 0x38, 0x7F, 0x16, 0x98, 0x7F, 0xF4, 0x07, 0x83, 0xF7, 0x87, 0x83]

/-- Its coded payload. -/
theorem test_patch_payload :
    codedPayload (geomOf patchDesc 0 24) patchIn =
      [0xA1, 0xF0, 0x22, 0x3F, 0xD0, 0xA2, 0x47, 0x4B, 0x08, 0x31, 0xC6, 0x08, 0x00, 0x00, 0x00, 0x00] := by decide +kernel

/-- Its header but for the check word of the input, and the frame's 80 bytes. -/
theorem test_patch_header :
    let f := offloadFrame 12 patchDesc 0 false patchIn
    f.take 12 = [0x01, 0x02, 0x0C, 0x00, 0x18, 0x00, 0x00, 0x00, 0x05, 0x00, 0x0C, 0x0E] ∧
    (f.drop 16).take 8 = [0x03, 0, 0, 0, 0, 0, 0, 0] ∧ f.length = 80 := by decide +kernel

/-- Chapter 11: the payload decodes to the first two rows of samples, newest first. -/
theorem test_patch_decodes :
    (decodeElems (geomOf patchDesc 0 24) ((walk (geomOf patchDesc 0 24) 24).take 8) (ctx0 (geomOf patchDesc 0 24)) []
      (unpackBits [0xA1, 0xF0, 0x22, 0x3F, 0xD0, 0xA2, 0x47, 0x4B, 0x08, 0x31, 0xC6, 0x08, 0x00, 0x00, 0x00, 0x00])).map
      (fun r => r.1.map (·.2.2)) = some [2109, 2043, 2100, 2038, 2044, 2068, 2040, 2060] := by decide +kernel

/-- R218: CRC-32C of the nine digits is E306_9283h, the check value of the polynomial. -/
theorem test_crc32c : crc32c [0x31, 0x32, 0x33, 0x34, 0x35, 0x36, 0x37, 0x38, 0x39] = 0xE3069283 := by decide +kernel

/-- Chapter 12, IV and AAD of one frame. -/
theorem test_iv_and_aad :
    let h : Hdr := { raw := true, short := false, resealed := false, enc := true, zone := true, fsize := 2, prof := 3, origLen := 65536,
                     stored16 := 4100, geom := {}, crc := 0, wseq := 0, counter := 0x123456789, epoch := 8 }
    (hdrBytes h).drop 36 = [0x89, 0x67, 0x45, 0x23, 0x01, 0, 0, 0, 0x08, 0, 0, 0] ∧
    (aadOf 42 17 0x3000000 0x3000050 (hdrBytes h)).take 24 =
      [0x2A, 0, 0, 0, 0x11, 0, 0, 0, 0, 0, 0, 0x03, 0, 0, 0, 0, 0x50, 0, 0, 0x03, 0, 0, 0, 0] := by decide +kernel

/-- Chapter 12, rotation and zeroize: after epoch 8, 0402h leaves the slot Empty with mark 9, and the next load takes epoch 9. -/
theorem test_rotation :
    let s : State := { runS with vault := { live := { slots := [(100, { cur := some ⟨8, []⟩, prev := some ⟨7, []⟩, last := 8, owner := 17 })] } } }
    let t := after (.keyZeroizeSlot (req [100])) s
    (slotOf t 100).cur = none ∧ (slotOf t 100).prev = none ∧ (slotOf t 100).zmark = 9 ∧
    (slotOf (loadKey 100 17 [] t) 100).cur = some ⟨9, []⟩ := by decide +kernel

/-- FIPS 197, C.3: AES-256 of the example block. -/
theorem test_aes256 :
    aesEnc (roundKeys ((List.range 32).map (BitVec.ofNat 8))) ((List.range 16).map fun i => BitVec.ofNat 8 (0x11 * i)) =
      [0x8E, 0xA2, 0xB7, 0xCA, 0x51, 0x67, 0x45, 0xBF, 0xEA, 0xFC, 0x49, 0x90, 0x4B, 0x49, 0x60, 0x89] := by decide +kernel

/-- FIPS 180-4: the first bytes of SHA-384 of "abc". -/
theorem test_sha384 : (sha384 [0x61, 0x62, 0x63]).take 6 = [0xCB, 0x00, 0x75, 0x3F, 0x45, 0xA3] := by decide +kernel

/-- Chapter 13, a half-erased block: its erase is followed by a probe; 410 zero bits leave it suspect and erase it again; 3 make it
allocatable. -/
theorem test_half_erased :
    let x := runOf (.erase 0 812) (.lun 0)
    let s : State := { nvS with runs := [x], luns := [(0, { reason := 0, blk := [(812, { st := .intent, probes := 1 })] })] }
    let t := after (.eraseComplete 0 false 0) s
    let u : State := { t with ops := [], runs := [runOf (.probe 812) (.lun 0)] }
    (blkOf (lunOf t 0) 812).st = .intent ∧ (blkOf (lunOf t 0) 812).erases = 1 ∧ t.ops.map Op.work = [.probe 812] ∧
    (blkOf (lunOf (after (.eraseComplete 0 false 410) u) 0) 812).st = .suspect ∧
    (after (.eraseComplete 0 false 410) u).ops.map Op.work = [.erase 0 812] ∧
    (blkOf (lunOf (after (.eraseComplete 0 false 3) u) 0) 812).st = .erased := by decide +kernel

/-- Chapter 14, a native map: MASK_1 and MASK_2 are accepted, and with MASK_2 = 00_02A0_0080h the gate names word 8, bit 6, code 0Dh. -/
theorem test_native_map :
    let s := regPut (regPut gateS 0x80018 0x01500080) 0x80020 0x02A00100
    let u := regPut s 0x80020 0x02A00080
    refuseWord (after (.dramMapArm .normal 0x100) s) 0x80000 = 0x10000000 ∧
    regFld (after (.dramMapArm .normal 0x100) s) 0x80004 8 8 = 1 ∧
    refuseWord (after (.dramMapArm .normal 0x100) u) 0x80000 = 0x1060080D := by decide +kernel

/-- Chapter 14, an uncorrectable error with a ready spare: rank 6 migrates (state 4h, cause 1h) to rank 7 of channel 1. -/
theorem test_rank_migrates :
    let s : State := { nvS with dram := { density := 2, ranks := [(4, { st := 1 }), (5, { st := 1 }), (6, { st := 1 }), (7, { st := 2 })] } }
    let t := after (.patrolScrub 6 [badLine]) s
    (rankOf t 6).st = 4 ∧ (rankOf t 6).cause = 1 ∧ (migOf t 1).active = true ∧ (migOf t 1).src = 2 ∧ (migOf t 1).dst = 3 ∧
    t.dram.poison.length = 1 := by
  have e : ∀ s : State, s.dram.poison = [] → (rankOf s 6).st ≠ 2 → lineFault 6 s badLine = lineLost 6 badLine s := fun s h q => by
    unfold lineFault
    rw [(faults_read s 6 h q).2]
    rfl
  intro s t
  have a : t = lineLost 6 badLine s := by
    rw [← e s rfl (by decide)]
    have g : ¬(¬rankServes s 6 ∨ regFld s 0x80070 7 0 = 0) := by decide +kernel
    have h : accessRanks s 6 badLine.line false = [6] := by decide +kernel
    simp only [t, after, exec, execPatrolScrub, if_neg g, List.foldl, h, List.headD]
  rw [a]
  decide +kernel

/-- Chapter 15, locating a bad bit: bit 19 of word 5 is column 184; with bit 19 of word 2 too the row is uncorrectable. -/
theorem test_bad_bit :
    rowCheck (flipBit 0 (33 * 5 + 19)) = .bad 184 ∧ rowCheck (flipBit (flipBit 0 184) (33 * 2 + 19)) = .uncorrectable ∧
    rowCheck 0 = .clean := by decide +kernel

/-- Chapter 16, three requests collapse: PS4 asked during the entry into PS3 is pending, and a later doorbell asks for PS0 instead. -/
theorem test_requests_collapse :
    let s := psRequest 3 none runS
    let t := after (.powerStateSet (req [4])) s
    s.pwr.trans.isSome = true ∧ t.pwr.pend = 4 ∧ t.mbx.st = .busy ∧ (psRequest 0 none t).pwr.pend = 0 := by decide +kernel

/-- Chapter 17, a 1 F bank charged to 12 V: 21,082 MiB. -/
theorem test_dirty_ceiling : ceilFor 1000 12000 7000 3000 1700 524288 = 21082 := by decide

/-- R366: 980 mV lost in 100 ms at 1 A is 102 mF. -/
theorem test_cmeas : cmeasOf 12000 11020 = 102 ∧ cmeasOf 12000 12000 = 0xFFFF := by decide

/-- Chapter 17, a dip that becomes a Vent: at the debounce's end the mode is VENT. -/
theorem test_vent_begins :
    let s : State := { regPut nvS 0x30200 0x80320000 with clk := { time := 50000 } }
    let t := after .debounceExpiry { after (.vinWarning 10799) { s with clk := { time := 0 } } with clk := { time := 50000 } }
    t.md.cur = .vent ∧ t.hold.vents = 1 ∧ t.md.prev = .run := by decide +kernel

/-- Chapter 18, a rise into Throttle: kerf and target at 105.0, 107.375 and 109.125 °C. -/
theorem test_throttle :
    let at_ (x : Nat) := (after (.fastThermalSample (BitVec.ofNat 16 x)) { runS with therm := { fast := true }, clk := { edge := true, ticks := 32 } }).therm
    ((at_ 840).kerf, (at_ 840).ttarget) = (25, 850) ∧ ((at_ 859).kerf, (at_ 859).ttarget) = (75, 800) ∧
    ((at_ 873).kerf, (at_ 873).ttarget) = (125, 750) := by decide +kernel

/-- Chapter 18: Throttle stays in force at 104.0 °C and leaves it at 99.875 °C; Warning leaves below 90 °C. -/
theorem test_throttle_leaves :
    let s : State := { runS with therm := { fast := true, warnOn := true, throtOn := true }, clk := { edge := true, ticks := 32 } }
    let at_ (x : Nat) := (after (.fastThermalSample (BitVec.ofNat 16 x)) s).therm
    ((at_ 832).throtOn, (at_ 832).kerf, (at_ 832).ttarget) = (true, 25, 850) ∧
    ((at_ 799).throtOn, (at_ 799).warnOn, (at_ 799).kerf) = (false, true, 0) ∧ (at_ 718).warnOn = false := by decide +kernel

/-- Chapter 19, ZEROIZE_N in WATCH: PEND 1, COUNT +1, mode WATCH. -/
theorem test_zeroize_in_watch :
    let t := after .zeroizeNAssertion (inMode .watch)
    t.zer = ⟨true, true, 1⟩ ∧ t.md.cur = .watch := by decide +kernel

/-- Chapter 20, an engine fenced during capture: the third fault in 24 h fences S3, CAUSES 08h, FIRST 4. -/
theorem test_engine_fenced :
    let t := cipherFault 3 { nvS with cip := [(3, { faultTimes := [0, 0] })] }
    (cipOf t 3).fenced = true ∧ t.rep.causes = 0x08 ∧ t.rep.first = 4 := by decide +kernel

/-- Chapter 20: a capacitance of 480 mF against CAP 1,000 sets LOW and cause 5; the next, 510 mF, clears both. -/
theorem test_capacitance_low :
    let s : State := { runS with hold := { cap := 1000, testRun := true } }
    let t := after (.capacitanceTestEnd 12000 11792) s
    let u := after (.capacitanceTestEnd 12000 11804) { t with hold := { t.hold with testRun := true } }
    t.hold.cmeas = 480 ∧ t.hold.low = true ∧ t.rep.causes = 0x10 ∧ u.hold.cmeas = 510 ∧ u.hold.low = false ∧ u.rep.causes = 0 := by decide +kernel

/-- Chapter 22, a stale session: an enable tagged with epoch 41 while the system runs at 42 is refused with code 16h. -/
theorem test_stale_tag :
    let s : State := { regPut (regPut gateS 0xA0010 1) 0xA0014 41 with flt := { epoch := 42 } }
    let t := after (.thermalEnable .setBits 0x80000000) s
    (refuseWord t 0x30000).toNat % 256 = 0x16 ∧ t.therm = s.therm := by decide +kernel

end Sys2Proof.Machine.Tests
end

/-!
PROOFS. The AVSBus write of the pace loop and its outcomes (R36), and the loop while ENABLE is 0 (R37).
-/
namespace Sys2Proof.Machine

open Sys2Proof

/-! ### A mailbox with nothing in progress, and the stages of START -/

/-- With no command in the mailbox there is none whose start waits (R71). -/
theorem mbxGo_of_no_run {s : State} (h : s.mbx.run = none) : mbxGo s = s := by
  rw [mbxGo, h]

@[simp] theorem toStage_pace (n : Nat) (s : State) : (toStage n s).pace = s.pace := rfl
@[simp] theorem toStage_regs (n : Nat) (s : State) : (toStage n s).regs = s.regs := rfl
@[simp] theorem toStage_mbx (n : Nat) (s : State) : (toStage n s).mbx = s.mbx := rfl

/-- A register field depends on the register file alone. -/
theorem regFld_congr {s t : State} (h : t.regs = s.regs) (off hi lo : Nat) : regFld t off hi lo = regFld s off hi lo := by
  simp only [regFld, regGet, h]

/-- The boot ROM has loaded image `i` of slot `n` and set the setpoint to 750 mV (R37, R73). -/
def imageLoaded (n : Nat) (i : Img) (s : State) : State :=
  { s with fw := { s.fw with running := some i }, md := { s.md with slot := n, loaded := true }, pace := { s.pace with vset := 750 } }

@[simp] theorem imageLoaded_pace (n : Nat) (i : Img) (s : State) : (imageLoaded n i s).pace = { s.pace with vset := 750 } := rfl
@[simp] theorem imageLoaded_regs (n : Nat) (i : Img) (s : State) : (imageLoaded n i s).regs = s.regs := rfl
@[simp] theorem imageLoaded_mbx (n : Nat) (i : Img) (s : State) : (imageLoaded n i s).mbx = s.mbx := rfl

/-- The first image that verifies is loaded and stage 4 begins. -/
theorem execImageAuthentication_of_image {s : State} {n : Nat} {i : Img} (hstage : atStage s 3 = true)
    (himg : (startImages s).find? (fun e => imgOk s e.2) = some (n, i)) :
    execImageAuthentication s = .next (mbxGo (toStage 4 (imageLoaded n i s))) := by
  simp only [execImageAuthentication, hstage, himg, not_true, if_false, imageLoaded]

/-! ### The outcomes of an AVSBus write -/

theorem execAvsAckTimeout_of_late {s : State} {v : Nat} (hout : s.pace.avsOut = some v) (hlate : s.pace.avsAt + 1000000 ≤ now s) :
    execAvsAckTimeout s = .next { s with pace := { s.pace with avsOut := none, avsFault := true } } := by
  simp only [execAvsAckTimeout, hout, hlate, Option.isSome_some, and_self, if_true]

theorem execAvsbusAcknowledge_of_write {s : State} {v : Nat} (hout : s.pace.avsOut = some v) :
    execAvsbusAcknowledge s = .next { s with pace := { s.pace with vset := v, avsOut := none, avsFault := false } } := by
  simp only [execAvsbusAcknowledge, hout]

/-! ### An action of the pace loop -/

/-- The controller power estimate of an action is recorded, not in WATCH. -/
def estRecorded (est : Nat) (s : State) : State :=
  if s.md.cur = .watch then s else { s with pwr := { s.pwr with est := min est 0xFFFF } }

/-- Only the estimate changes. -/
theorem estRecorded_frame (est : Nat) (s : State) :
    estRecorded est s = { s with pwr := { s.pwr with est := (estRecorded est s).pwr.est } } := by
  unfold estRecorded
  split <;> rfl

@[simp] theorem estRecorded_pace (est : Nat) (s : State) : (estRecorded est s).pace = s.pace := by
  rw [estRecorded_frame]
@[simp] theorem paceActs_estRecorded (est : Nat) (s : State) : paceActs (estRecorded est s) = paceActs s := by
  rw [estRecorded_frame]; rfl
@[simp] theorem now_estRecorded (est : Nat) (s : State) : now (estRecorded est s) = now s := by
  rw [estRecorded_frame]; rfl

/-- The pace state after an action that acts: the values in range are taken, the next setpoint is decided, and it goes out on
AVSBus when it differs from the acknowledged one or the last write failed (R33 to R36). -/
def paceActed (est : Nat) (s : State) : Pace :=
  let p := (paceLatch s).pace
  let eff := min p.target s.therm.ttarget
  let (v, l) := paceNext p (measuredPace s) eff est (powerCap s.pwr.cur) s.therm.ttarget
  let out := if v ≠ p.vset ∨ p.avsFault then some v else none
  { p with effTarget := eff, limit := l, avsOut := out, actAt := now s, avsAt := if out.isSome then now s else p.avsAt }

@[simp] theorem paceActed_vset (est : Nat) (s : State) : (paceActed est s).vset = s.pace.vset := rfl
@[simp] theorem paceActed_avsFault (est : Nat) (s : State) : (paceActed est s).avsFault = s.pace.avsFault := rfl

/-- After a failed write an action writes whatever the setpoint it decides (R36). -/
theorem paceActed_writes_of_fault {s : State} (est : Nat) (h : s.pace.avsFault = true) : (paceActed est s).avsOut.isSome = true := by
  have hlatch : (paceLatch s).pace.avsFault = true := h
  simp only [paceActed, hlatch, or_true, if_true, Option.isSome_some]

/-- An action of a loop that does not act records the estimate alone (R37). -/
theorem execPaceLoopAction_of_idle {s : State} (est : Nat) (h : paceActs s = false) :
    execPaceLoopAction est s = .next (estRecorded est s) := by
  have hidle : ¬ paceActs (estRecorded est s) := by simp [h]
  exact if_pos (.inl hidle)

/-- An action that is due and finds no write in progress acts. -/
theorem execPaceLoopAction_of_acts {s : State} (est : Nat) (hacts : paceActs s = true) (hout : s.pace.avsOut = none)
    (hdue : s.pace.actAt + 1000000 ≤ now s) :
    execPaceLoopAction est s = .next { estRecorded est s with pace := paceActed est (estRecorded est s) } := by
  have hgo : ¬ (¬ paceActs (estRecorded est s) ∨ (estRecorded est s).pace.avsOut.isSome ∨
      now (estRecorded est s) < (estRecorded est s).pace.actAt + 1000000) := by
    simp [hacts, hout, hdue]
  exact if_neg hgo

/-- The loop acts only while ENABLE is 1 (R37). -/
theorem paceActs_of_disabled {s : State} (h : regFld s 0x10200 16 16 = 0) : paceActs s = false := by
  simp [paceActs, h]

/-! ### R36 and R37 -/

/-- Settles O38: a write not acknowledged leaves the setpoint and sets the fault, under which every action that acts writes again. -/
theorem avsTimeout : Obligations.AvsTimeout := by
  refine ⟨fun s v hout hlate => ?timeout, fun est s hacts hdue hout hfault => ?retry, fun s v hout => ?acknowledge⟩
  case timeout => exact ⟨_, execAvsAckTimeout_of_late hout hlate, rfl, rfl⟩
  case acknowledge => exact ⟨_, execAvsbusAcknowledge_of_write hout, rfl, rfl⟩
  case retry =>
    have hfault' : (estRecorded est s).pace.avsFault = true := by rw [estRecorded_pace, hfault]
    refine ⟨_, execPaceLoopAction_of_acts est hacts hout hdue, paceActed_writes_of_fault est hfault', ?_, hfault', ?_⟩
    · simp
    · rw [estRecorded_frame]

/-- Settles O39: a disabled loop does not act, and loading the image in START sets 750 mV and no register. -/
theorem paceLoopOff : Obligations.PaceLoopOff := by
  refine ⟨fun est s hoff => ?disabled, fun s n i hstage hrun himg => ?start⟩
  case disabled =>
    exact ⟨_, execPaceLoopAction_of_idle est (paceActs_of_disabled hoff), estRecorded_pace est s, estRecorded_frame est s⟩
  case start =>
    have hgo : mbxGo (toStage 4 (imageLoaded n i s)) = toStage 4 (imageLoaded n i s) := mbxGo_of_no_run (by simp [hrun])
    refine ⟨_, (execImageAuthentication_of_image hstage himg).trans (congrArg _ hgo), by simp, by simp, ?_⟩
    exact regFld_congr (by simp) 0x10200 16 16

end Sys2Proof.Machine

/-!
PROOFS. The record of gated accesses (R63, R64), and the snapshots of a tenant's wide-value window (R54 to R56).
-/
namespace Sys2Proof.Machine

open Sys2Proof

/-! ### The record of gated accesses -/

/-- While VALID is 1 an access changes only the count. -/
theorem gatedRecord_gat_of_valid {s : State} (who : Requester) (w : Bool) (off : Nat) (h : s.gat.valid = true) :
    (gatedRecord who w off s).gat = { s.gat with count := satInc 0xFFFFFFFF s.gat.count } := by
  simp only [gatedRecord, h, if_true]

/-- While VALID is 0 an access is recorded and counted. -/
theorem gatedRecord_gat_of_armed {s : State} (who : Requester) (w : Bool) (off : Nat) (h : s.gat.valid = false) :
    (gatedRecord who w off s).gat =
      { valid := true, dir := w, source := reqCode who, block := off / 0x10000 % 512, offset := off % 0x10000 / 4,
        count := satInc 0xFFFFFFFF s.gat.count } := by
  simp only [gatedRecord, h, Bool.false_eq_true, if_false]

/-- A gated access changes only the record. -/
theorem gatedRecord_frame (who : Requester) (w : Bool) (off : Nat) (s : State) :
    gatedRecord who w off s = { s with gat := (gatedRecord who w off s).gat } := rfl

/-- The answer to a gated access: a bus error to firmware, an error to the sideband, none to the host (R63). -/
def gatedAnswered (who : Requester) (s : State) : State :=
  match who with
  | .host => s
  | .firmware => emit .busError s
  | .sideband => emit .sidebandError s

@[simp] theorem gatedAnswered_gat (who : Requester) (s : State) : (gatedAnswered who s).gat = s.gat := by
  cases who <;> rfl

/-- The answer is all that is sent. -/
theorem gatedAnswered_frame (who : Requester) (s : State) : gatedAnswered who s = { s with sent := (gatedAnswered who s).sent } := by
  cases who <;> rfl

/-- An access to a gated block is recorded and answered. -/
theorem execGatedBlockAccess_of_gated {s : State} {off : Nat} (who : Requester) (w : Bool) (h : blockGated s off = true) :
    execGatedBlockAccess who w off s = .next (gatedAnswered who (gatedRecord who w off s)) :=
  if_neg (not_not_intro h)

/-- Settles O48: by the record before and after VALID, and the answer of each requester. -/
theorem gatedAccesses : Obligations.GatedAccesses := by
  refine ⟨fun who w off s hgated => ?access, fun s => ⟨_, rfl, rfl⟩⟩
  case access =>
    refine ⟨_, execGatedBlockAccess_of_gated who w hgated, ?record, ?answer, ?frame⟩
    case record =>
      rw [gatedAnswered_gat]
      split
      next hvalid => exact gatedRecord_gat_of_valid who w off hvalid
      next harmed => exact gatedRecord_gat_of_armed who w off (eq_false_of_ne_true harmed)
    case answer => cases who <;> rfl
    case frame => rw [gatedAnswered_gat, gatedAnswered_frame, gatedRecord_frame]

/-! ### Wide-value windows -/

@[simp] theorem wvOf_modWv_same (w : WvView) (g : WvWin → WvWin) (s : State) : wvOf (modWv w g s) w = g (wvOf s w) := by
  cases w with
  | top => rfl
  | vf v => exact tget_tset_same _ _ _

/-- Only the tenants' windows change where one of them is written. -/
theorem modWv_vf_frame (v : Nat) (g : WvWin → WvWin) (s : State) :
    modWv (.vf v) g s = { s with wvVf := (modWv (.vf v) g s).wvVf } := rfl

/-- A snapshot of selector 0001h bounds the later values of device time (R40). -/
def snapNoted (sel : Nat) (s : State) : State :=
  if sel = 1 then { s with clk := { s.clk with lastRead := now s } } else s

theorem snapNoted_of_ne {sel : Nat} (s : State) (h : sel ≠ 1) : snapNoted sel s = s := if_neg h

/-- The value that a snapshot takes does not depend on that bound. -/
@[simp] theorem wvValue_snapNoted (k : Nat) (s : State) (w : WvView) (sel : Nat) : wvValue (snapNoted k s) w sel = wvValue s w sel := by
  unfold snapNoted
  split <;> rfl

/-- A snapshot of a selector that names a core-domain value holds the value, with ERR 0. -/
theorem wvSnap_of_value {s : State} {w : WvView} {d : Nat} (hvalue : wvValue s w (wvOf s w).sel.toNat = some d)
    (hcore : (wvOf s w).sel.toNat ≠ 4) :
    wvSnap w s = modWv w (fun x => { x with valid := true, err := false, seq := x.seq + 1, data := BitVec.ofNat 128 d, waitEdge := false })
      (snapNoted (wvOf s w).sel.toNat s) := by
  have hnoted := wvValue_snapNoted (wvOf s w).sel.toNat s w (wvOf s w).sel.toNat
  rw [hvalue] at hnoted
  unfold snapNoted at hnoted ⊢
  simp only [wvSnap, hnoted, if_neg hcore]

/-- A snapshot of a selector that names no value holds zeros, with ERR 1. -/
theorem wvSnap_of_none {s : State} {w : WvView} (hvalue : wvValue s w (wvOf s w).sel.toNat = none) :
    wvSnap w s = modWv w (fun x => { x with valid := true, err := true, seq := x.seq + 1, data := 0, waitEdge := false })
      (snapNoted (wvOf s w).sel.toNat s) := by
  have hnoted := wvValue_snapNoted (wvOf s w).sel.toNat s w (wvOf s w).sel.toNat
  rw [hvalue] at hnoted
  unfold snapNoted at hnoted ⊢
  simp only [wvSnap, hnoted]

/-- A snapshot acts in a window that is there. -/
theorem execWvSnap_of_served {s : State} {w : WvView} (h : wvServed s w = true) : execWvSnap w s = .next (wvSnap w s) :=
  congrArg _ (if_pos h)

/-! ### The selectors of a tenant's view (R56) -/

/-- A tenant's view permits selectors 0001h and 0010h to 0013h only. -/
def tenantSel (sel : Nat) : Prop := sel = 1 ∨ (0x10 ≤ sel ∧ sel ≤ 0x13)

/-- A permitted selector names device time or a counter of the tenant's own contender. -/
theorem wvValue_vf_of_permitted (s : State) (v : Nat) {sel : Nat} (h : tenantSel sel) :
    wvValue s (.vf v) sel = some (if sel = 1 then now s else ctrSel (ctrOf s (v - 1)) (sel - 0x10)) := by
  unfold wvValue
  split
  next => rfl
  next hne => exact if_pos (h.resolve_left hne)

/-- No other selector names a value. -/
theorem wvValue_vf_of_not_permitted (s : State) (v : Nat) {sel : Nat} (h : ¬ tenantSel sel) : wvValue s (.vf v) sel = none := by
  obtain ⟨hne, hout⟩ := not_or.mp h
  simp only [wvValue, if_neg hne, if_neg hout]

/-- Settles O49: a tenant's snapshot holds the value of a permitted selector, and ERR with zeros for any other. -/
theorem tenantSelectors : Obligations.TenantSelectors := by
  refine fun v s hserved => ⟨fun hperm => ?permitted, fun hbarred => ?barred⟩
  case permitted =>
    have hcore : (wvOf s (.vf v)).sel.toNat ≠ 4 := by omega
    have hsnap := wvSnap_of_value (wvValue_vf_of_permitted s v hperm) hcore
    refine ⟨_, (execWvSnap_of_served hserved).trans (congrArg _ hsnap), ?_, ?_, ?_⟩ <;> rw [wvOf_modWv_same]
  case barred =>
    have hsnap := wvSnap_of_none (wvValue_vf_of_not_permitted s v hbarred)
    rw [snapNoted_of_ne s (not_or.mp hbarred).1] at hsnap
    refine ⟨_, (execWvSnap_of_served hserved).trans (congrArg _ hsnap), ?_, ?_, ?_, modWv_vf_frame ..⟩ <;> rw [wvOf_modWv_same]

end Sys2Proof.Machine

/-!
PROOFS. Feature C2h, the thermal level, kerf and effective pace target, in Get Features (R140).
-/
namespace Sys2Proof.Machine

open Sys2Proof

/-! ### The fields of a word -/

/-- A field of a word, by division. -/
theorem fld_eq_div_mod (w : W32) (hi lo : Nat) : fld w hi lo = w.toNat / 2 ^ lo % 2 ^ (hi + 1 - lo) := by
  rw [fld, Nat.shiftRight_eq_div_pow]

/-- A word of fields has the number that the fields add up to, modulo 2^32. -/
theorem toNat_word (fs : List (Nat × Nat)) : (word fs).toNat = fs.foldl (fun a f => a + f.2 * 2 ^ f.1) 0 % 2 ^ 32 :=
  BitVec.toNat_ofNat _ 32

/-- The encoding of THERM is 0 to 3 (R140). -/
theorem thermLevel_le (s : State) : thermLevel s ≤ 3 := by
  unfold thermLevel
  split
  next => decide
  next =>
    split
    next => decide
    next => split <;> decide

/-! ### Get Features -/

/-- An admin command that may run does what its handler says of it. -/
theorem admin_of_runs {s : State} {id : CmdId} {opc : Nat} {c : Cmd} (h : AdminRuns s id opc c) (k : Cmd → State) :
    admin id opc s k = k c := by
  obtain ⟨hcmd, hthawed⟩ := h
  simp only [admin, hcmd, hthawed, Bool.false_eq_true, if_false]

/-- Dword 0 of feature C2h: the effective pace target, the kerf and the thermal level (R140). -/
def thermalDword (s : State) : W32 := word [(16, s.pace.effTarget), (4, s.therm.kerf), (0, thermLevel s)]

/-- The value of feature C2h is that dword. -/
theorem featValue_thermal {c : Cmd} (s : State) (h : fld c.e.cdw10 7 0 = 0xC2) : featValue s c = some (thermalDword s) := by
  simp only [featValue, h, thermalDword]

/-- The current value of feature C2h, which has no namespace, is answered in dword 0 and nothing else changes. -/
theorem execGetFeatures_thermal {s : State} {id : CmdId} {c : Cmd} (hruns : AdminRuns s id 0x0A c) (hfid : fld c.e.cdw10 7 0 = 0xC2)
    (hsel : fld c.e.cdw10 10 8 = 0) : execGetFeatures id s = .next (finish id okSt (thermalDword s) 0 s) := by
  have hserved : ¬ (0xC2 ∉ features ∨ 3 < 0) := by decide
  have hcurrent : ¬ (0 = 3) := by decide
  have hglobal : ¬ (nsFeature 0xC2 ∧ (nsCheck s c).toOption.isNone) := fun h => absurd h.1 (by decide)
  have hinline : ¬ (0xC2 = 0x0E) := by decide
  have hqueues : ¬ (0xC2 = 0x07 ∧ queueLimit s id.func = 0) := fun h => absurd h.1 (by decide)
  rw [execGetFeatures, admin_of_runs hruns]
  simp only [hfid, hsel, featValue_thermal s hfid, if_neg hserved, if_neg hcurrent, if_neg hglobal, if_neg hinline, if_neg hqueues, if_true]

/-- The three fields of the dword lie apart, so each holds its value while it fits in its bits. -/
theorem thermalDword_fields {s : State} (hkerf : s.therm.kerf < 4096) (heff : s.pace.effTarget < 2048) :
    fld (thermalDword s) 2 0 = thermLevel s ∧ fld (thermalDword s) 15 4 = s.therm.kerf ∧
      fld (thermalDword s) 26 16 = s.pace.effTarget := by
  have hlevel := thermLevel_le s
  have hsum : (thermalDword s).toNat = s.pace.effTarget * 65536 + s.therm.kerf * 16 + thermLevel s := by
    rw [thermalDword, toNat_word]
    simp only [List.foldl]
    omega
  simp only [fld_eq_div_mod, hsum]
  omega

/-- Settles O17: the completion carries the dword of feature C2h, whose fields are read back apart. -/
theorem thermalFeature : Obligations.ThermalFeature := by
  intro id s c hruns hfid hsel hkerf heff
  exact ⟨thermalDword s, execGetFeatures_thermal hruns hfid hsel, thermalDword_fields (by omega) heff⟩

end Sys2Proof.Machine

/-!
PROOFS. The code of one sample: residue and zigzag (R242), the bits of a code and their decoding (R244).
-/
namespace Sys2Proof.Machine

open Sys2Proof

/-! ### Residue and zigzag (R242) -/

/-- The residue of two s-bit values takes one reduction, lies in the range of s-bit signed numbers, and gives x back
modulo 2^s. -/
theorem residue_spec {s x p : Nat} (hs : 0 < s) (hx : x < 2 ^ s) (hp : p < 2 ^ s) :
    (residue s x p = (x : Int) - p ∨ residue s x p = (x : Int) - p + (2 ^ s : Nat) ∨
      residue s x p = (x : Int) - p - (2 ^ s : Nat)) ∧
    -(2 ^ (s - 1) : Nat) ≤ residue s x p ∧ residue s x p < (2 ^ (s - 1) : Nat) := by
  have hhalf := Nat.two_pow_pred_add_two_pow_pred hs
  simp only [residue]
  generalize 2 ^ s = full at *
  generalize 2 ^ (s - 1) = half at *
  split
  next below => exact ⟨.inr (.inl rfl), by omega, by omega⟩
  next =>
    split
    next above => exact ⟨.inr (.inr rfl), by omega, by omega⟩
    next inside => exact ⟨.inl rfl, by omega, by omega⟩

/-- A decoder recovers the sample from the prediction and the residue. -/
theorem add_residue_emod {s x p : Nat} (hs : 0 < s) (hx : x < 2 ^ s) (hp : p < 2 ^ s) :
    (((p : Int) + residue s x p) % (2 ^ s : Nat)).toNat = x := by
  have hmod : ((x : Int) % (2 ^ s : Nat)).toNat = x := by rw [← Int.natCast_emod, Int.toNat_natCast, Nat.mod_eq_of_lt hx]
  obtain ⟨hsame | hadd | hsub, -⟩ := residue_spec hs hx hp
  · rw [hsame, Int.add_comm, Int.sub_add_cancel, hmod]
  · rw [hadd, ← Int.add_assoc, Int.add_comm p, Int.sub_add_cancel, Int.add_emod_right, hmod]
  · rw [hsub, ← Int.add_sub_assoc, Int.add_comm p, Int.sub_add_cancel, Int.sub_emod_right, hmod]

theorem zigzag_of_nonneg {e : Int} (h : 0 ≤ e) : (zigzag e : Int) = 2 * e := by
  rw [zigzag, if_pos h]
  omega

theorem zigzag_of_neg {e : Int} (h : e < 0) : (zigzag e : Int) = -2 * e - 1 := by
  rw [zigzag, if_neg (by omega)]
  omega

/-- Even images come from the residues at or above 0, odd ones from those below. -/
@[simp] theorem unzigzag_zigzag (e : Int) : unzigzag (zigzag e) = e := by
  rcases Int.lt_or_le e 0 with h | h
  · have hz := zigzag_of_neg h
    rw [unzigzag, if_neg (by omega)]
    omega
  · have hz := zigzag_of_nonneg h
    rw [unzigzag, if_pos (by omega)]
    omega

/-- The mapped residue of two s-bit values has s bits. -/
theorem zigzag_residue_lt {s x p : Nat} (hs : 0 < s) (hx : x < 2 ^ s) (hp : p < 2 ^ s) : zigzag (residue s x p) < 2 ^ s := by
  have hhalf := Nat.two_pow_pred_add_two_pow_pred hs
  obtain ⟨-, hlow, hhigh⟩ := residue_spec hs hx hp
  rcases Int.lt_or_le (residue s x p) 0 with h | h
  · have hz := zigzag_of_neg h
    omega
  · have hz := zigzag_of_nonneg h
    omega

/-! ### Bits of a number -/

@[simp] theorem length_bitsOf (n v : Nat) : (bitsOf n v).length = n := by
  rw [bitsOf, List.length_map, List.length_range]

/-- The most significant bit stands first. -/
theorem bitsOf_succ (n v : Nat) : bitsOf (n + 1) v = v.testBit n :: bitsOf n v := by
  have htail : ∀ i ∈ List.range n, v.testBit (n + 1 - 1 - (i + 1)) = v.testBit (n - 1 - i) := fun i _ => by
    rw [Nat.add_sub_cancel, Nat.sub_sub, Nat.add_comm]
  rw [bitsOf, List.range_succ_eq_map, List.map_cons, List.map_map]
  exact congrArg (v.testBit n :: ·) (List.map_congr_left htail)

/-- Reading the bits of `v` on after a number `a` shifts `a` up by them. -/
theorem foldl_bitsOf (n v a : Nat) : (bitsOf n v).foldl (fun a b => 2 * a + b2n b) a = a * 2 ^ n + v % 2 ^ n := by
  induction n generalizing a with
  | zero => simp [bitsOf, Nat.mod_one]
  | succ n ih =>
    have hbit : b2n (v.testBit n) = (v.testBit n).toNat := by cases v.testBit n <;> rfl
    have hshift : 2 * a * 2 ^ n = a * 2 ^ (n + 1) := by rw [Nat.mul_comm 2 a, Nat.mul_assoc, Nat.pow_succ']
    rw [bitsOf_succ, List.foldl_cons, ih, Nat.mod_pow_succ, hbit, Nat.toNat_testBit, Nat.add_mul, hshift, Nat.add_assoc,
      Nat.mul_comm (2 ^ n), Nat.add_comm (v % 2 ^ n)]

theorem bitsNat_bitsOf {n v : Nat} (h : v < 2 ^ n) : bitsNat (bitsOf n v) = v := by
  rw [bitsNat, foldl_bitsOf, Nat.zero_mul, Nat.zero_add, Nat.mod_eq_of_lt h]

/-! ### Writing a code (R244) -/

/-- A code of fewer than 24 ones: the ones, the 0 that ends them, and k bits. -/
theorem codeBits_run {s m x k : Nat} (h : m / 2 ^ k < 24) :
    codeBits s m x k = List.replicate (m / 2 ^ k) true ++ false :: bitsOf k (m % 2 ^ k) := by
  simp only [codeBits, if_neg (Nat.not_le.mpr h), List.append_assoc, List.singleton_append]

/-- The escape: 24 ones, then the sample itself. -/
theorem codeBits_escape {s m x k : Nat} (h : 24 ≤ m / 2 ^ k) : codeBits s m x k = List.replicate 24 true ++ bitsOf s x :=
  if_pos h

theorem length_codeBits_le {s k : Nat} (m x : Nat) (hk : k ≤ s) : (codeBits s m x k).length ≤ 24 + s := by
  rcases Nat.lt_or_ge (m / 2 ^ k) 24 with h | h
  · simp only [codeBits_run h, List.length_append, List.length_replicate, List.length_cons, length_bitsOf]
    omega
  · simp only [codeBits_escape h, List.length_append, List.length_replicate, length_bitsOf, Nat.le_refl]

/-! ### Reading a code (R244) -/

/-- The count of ones stops at its bound. -/
theorem countOnes_replicate (n : Nat) (t : List Bool) : countOnes n (List.replicate n true ++ t) = n := by
  induction n with
  | zero => rfl
  | succ n ih => rw [List.replicate_succ, List.cons_append, countOnes, ih]

/-- The count of ones stops at a 0. -/
theorem countOnes_replicate_false {q n : Nat} (h : q < n) (t : List Bool) :
    countOnes n (List.replicate q true ++ false :: t) = q := by
  obtain ⟨d, rfl⟩ := Nat.exists_eq_add_of_lt h
  induction q with
  | zero => rfl
  | succ q ih =>
    rw [List.replicate_succ, List.cons_append, Nat.add_right_comm q 1 d, countOnes, ih (by omega)]

/-- An escape is read back as its sample, with the residue that the sample has. -/
theorem readCode_escape {s x : Nat} (k p : Nat) (rest : List Bool) (hx : x < 2 ^ s) :
    readCode s k p (List.replicate 24 true ++ bitsOf s x ++ rest) = some (x, residue s x p, rest) := by
  have hdrop : (List.replicate 24 true ++ (bitsOf s x ++ rest)).drop 24 = bitsOf s x ++ rest :=
    List.drop_left' List.length_replicate
  have henough : ¬ (bitsOf s x ++ rest).length < s := by
    rw [List.length_append, length_bitsOf]
    omega
  simp only [readCode, List.append_assoc, countOnes_replicate, if_true, hdrop, if_neg henough,
    List.take_left' (length_bitsOf s x), List.drop_left' (length_bitsOf s x), bitsNat_bitsOf hx]

/-- A run of ones and k bits is read back as the mapped residue that it codes. -/
theorem readCode_run {s m k : Nat} (p : Nat) (rest : List Bool) (hq : m / 2 ^ k < 24) (hm : m < 2 ^ s) :
    readCode s k p (List.replicate (m / 2 ^ k) true ++ false :: bitsOf k (m % 2 ^ k) ++ rest) =
      some ((((p : Int) + unzigzag m) % (2 ^ s : Nat)).toNat, unzigzag m, rest) := by
  have hdrop : (List.replicate (m / 2 ^ k) true ++ false :: (bitsOf k (m % 2 ^ k) ++ rest)).drop (m / 2 ^ k + 1) =
      bitsOf k (m % 2 ^ k) ++ rest := by
    rw [← List.drop_drop, List.drop_left' List.length_replicate, List.drop_one, List.tail_cons]
  have henough : ¬ ((List.replicate (m / 2 ^ k) true ++ false :: (bitsOf k (m % 2 ^ k) ++ rest)).length < m / 2 ^ k + 1 ∨
      (bitsOf k (m % 2 ^ k) ++ rest).length < k) := by
    simp only [List.length_append, List.length_replicate, List.length_cons, length_bitsOf]
    omega
  have hlow : bitsNat (bitsOf k (m % 2 ^ k)) = m % 2 ^ k := bitsNat_bitsOf (Nat.mod_lt _ (Nat.two_pow_pos k))
  simp only [readCode, List.append_assoc, List.cons_append, countOnes_replicate_false hq, if_neg (Nat.ne_of_lt hq), hdrop,
    if_neg henough, List.take_left' (length_bitsOf _ _), List.drop_left' (length_bitsOf _ _), hlow, Nat.div_add_mod',
    if_neg (Nat.not_le.mpr hm)]

/-- Decoding the code of a sample gives the sample, its residue and the bits that follow. -/
theorem readCode_codeBits {s x p : Nat} (k : Nat) (rest : List Bool) (hs : 0 < s) (hx : x < 2 ^ s) (hp : p < 2 ^ s) :
    readCode s k p (codeBits s (zigzag (residue s x p)) x k ++ rest) = some (x, residue s x p, rest) := by
  rcases Nat.lt_or_ge (zigzag (residue s x p) / 2 ^ k) 24 with hrun | hescape
  · rw [codeBits_run hrun, readCode_run p rest hrun (zigzag_residue_lt hs hx hp), unzigzag_zigzag, add_residue_emod hs hx hp]
  · rw [codeBits_escape hescape, readCode_escape k p rest hx]

/-- Settles O25: residue and zigzag by their ranges, the code by its two forms, and the round trip by reading each form. -/
theorem sampleCodes : Obligations.SampleCodes := by
  refine ⟨fun s x p hs hx hp => ?residues, fun e => ⟨zigzag_of_nonneg, zigzag_of_neg⟩,
    fun s m x k => ⟨codeBits_run, codeBits_escape, length_codeBits_le m x⟩,
    fun s x p k rest hs hx hp => readCode_codeBits k rest hs hx hp⟩
  case residues =>
    obtain ⟨hreduced, hlow, hhigh⟩ := residue_spec hs hx hp
    exact ⟨hreduced, hlow, hhigh, zigzag_residue_lt hs hx hp, unzigzag_zigzag _, add_residue_emod hs hx hp⟩

end Sys2Proof.Machine

/-!
PROOFS. A commit to a Loaded key slot (R260): the commit gate over its checks, and the slot that is rewritten.
-/
namespace Sys2Proof.Machine

open Sys2Proof

/-! ### An enable gate that accepts (R58, R60) -/

/-- Checks that all pass leave no failure. -/
theorem firstFail_eq_none {l : List GateFail} (h : ∀ f ∈ l, f = none) : firstFail l = none := by
  induction l with
  | nil => rfl
  | cons f l ih =>
    obtain ⟨rfl, hl⟩ := List.forall_mem_cons.mp h
    exact ih hl

/-- A register with no reserved bit written passes its check. -/
theorem rsvFail_eq_none {s : State} {off : Nat} (h : tget 0 s.rsv off = 0) : rsvFail s off = none := if_pos h

/-- A gate with the tag right, no owned object and every check passed records the acceptance and runs its action. -/
theorem gateRun_of_accepts {base off bit obj : Nat} {owned : Bool} {checks : GateFail} {s : State} (ok : State → State)
    (htag : tagRefuses s = false) (howned : owned = false) (hchecks : checks = none) :
    gateRun base off bit obj owned checks ok s = ok (gateRecord s base 0 0 0 obj) := by
  subst howned hchecks
  simp only [gateRun, htag, Bool.false_eq_true, if_false]

/-! ### The slots of the vault -/

/-- A slot after its change. -/
theorem slotOf_modSlot_same (k : Nat) (g : Slot → Slot) (s : State) : slotOf (modSlot k g s) k = g (slotOf s k) :=
  tget_tset_same _ k _

/-- Another slot is untouched. -/
theorem slotOf_modSlot_ne {k j : Nat} (g : Slot → Slot) (s : State) (h : k ≠ j) : slotOf (modSlot k g s) j = slotOf s j :=
  tget_tset_ne _ _ h

@[simp] theorem slotOf_gateRecord (s : State) (base off bit code obj k : Nat) :
    slotOf (gateRecord s base off bit code obj) k = slotOf s k := rfl
@[simp] theorem stagedKey_gateRecord (s : State) (base off bit code obj : Nat) :
    stagedKey (gateRecord s base off bit code obj) = stagedKey s := rfl
@[simp] theorem slotOf_unstage (s : State) (k : Nat) : slotOf (unstage s) k = slotOf s k := rfl
@[simp] theorem slotOf_recordVault (s : State) (k : Nat) : slotOf (recordVault s) k = slotOf s k := rfl

/-! ### The commit checks (R258) -/

/-- A Loaded slot with epochs left takes a commit for its owner, unless one without FORCE would erase a previous epoch that is
referenced. -/
theorem slotCheck_of_loaded {s : State} {k owner : Nat} {force : Bool} (hk : k ≤ 2047) (howner : owner ≤ 1023 ∨ owner = 0xFFFF)
    (hlast : (slotOf s k).last ≠ 0xFFFFFFFF) (hcur : (slotOf s k).cur.isSome = true) (hsame : (slotOf s k).owner = owner)
    (hprev : (slotOf s k).prev = none ∨ prevReferenced s k = false ∨ force = true) : slotCheck s k owner force = 0 := by
  have hkek : k ≠ 0x800 := by omega
  have hrange : ¬ (2047 < k ∨ (1023 < owner ∧ owner ≠ 0xFFFF) ∨ (slotOf s k).last = 0xFFFFFFFF) := by omega
  have hother : ¬ ((slotOf s k).cur.isSome ∧ (slotOf s k).owner ≠ owner) := fun h => h.2 hsame
  have hempty : ¬ ((slotOf s k).cur.isNone ∧ ownerClash s k owner) := by simp [Option.isSome_iff_ne_none.mp hcur]
  have hfree : ¬ ((slotOf s k).cur.isSome ∧ (slotOf s k).prev.isSome ∧ prevReferenced s k ∧ ¬ force) := by
    rintro ⟨-, hsome, href, hplain⟩
    obtain hnone | hunref | hforce := hprev
    · simp [hnone] at hsome
    · simp [hunref] at href
    · exact hplain hforce
  simp only [slotCheck, if_neg hkek, if_neg hrange, if_neg hother, if_neg hempty, if_neg hfree]

/-- A ready commit fails only at the checks of its slot and owner. -/
theorem commitChecks_of_ready {s : State} {force : Bool} (h : CommitReady s)
    (hslot : slotCheck s (selSlot s) (selOwner s) force = 0) : commitChecks force s = none := by
  obtain ⟨-, -, -, hbarred, hrole, -, -, -, hwords, hrsv⟩ := h
  have hmissing : (List.range 8).find? (fun i => (tget none s.vault.words i).isNone) = none := by
    refine List.find?_eq_none.mpr fun i hi => ?_
    simp [Option.isSome_iff_ne_none.mp (hwords i (List.mem_range.mp hi))]
  refine firstFail_eq_none ?_
  simp [hslot, hbarred, hrole, hmissing, rsvFail_eq_none hrsv]

/-! ### The key is loaded -/

/-- A Loaded slot with a new key: the next epoch is current, the former current one is previous, the counter is at 0 (R260). -/
def rekeyed (key : List Byte) (sl : Slot) : Slot :=
  { sl with cur := some ⟨sl.last + 1, key⟩, prev := sl.cur, last := sl.last + 1, hwm := 0 }

/-- Loading a key into a Loaded slot rewrites the slot, whatever owner is given, and records the vault. -/
theorem loadKey_of_loaded {s : State} {k : Nat} (owner : Nat) (key : List Byte) (hk : k ≠ 0x800)
    (hcur : (slotOf s k).cur.isSome = true) : loadKey k owner key s = recordVault (modSlot k (rekeyed key) s) := by
  simp only [loadKey, if_neg hk, modSlot, rekeyed, hcur, if_true]

/-- An accepted commit loads the staged key under the selected slot and owner, and erases the staged words. -/
theorem keyCommitOp_of_accepts {s : State} {force : Bool} (htag : tagRefuses s = false) (hfree : ownsSlot s (selSlot s) = false)
    (hchecks : commitChecks force s = none) : keyCommitOp force s =
      unstage (loadKey (selSlot s) (selOwner s) (stagedKey s) (gateRecord s 0x40000 0 0 0 (selSlot s))) := by
  rw [keyCommitOp, gateRun_of_accepts _ htag hfree hchecks, stagedKey_gateRecord]

/-- COMMIT, with FORCE or without, acts where KEYV is served. -/
theorem exec_keyCommit_of_served {s : State} (force : Bool) (h : blockGated s 0x40000 = false) :
    exec (if force then .keyCommitForce else .keyCommit) s = .next (keyCommitOp force s) := by
  have hserved : ¬ blockGated s 0x40000 = true := by simp [h]
  cases force
  case false => exact congrArg _ (if_neg hserved)
  case true => exact congrArg _ (if_neg hserved)

/-- Settles O53: the gate accepts a ready commit to a Loaded slot, which is then rewritten and recorded. -/
theorem recommitEpochs : Obligations.RecommitEpochs := by
  intro force s e hready hcur howner hprev
  have ⟨hserved, htag, hfree, _, _, hk, hrange, hlast, _, _⟩ := hready
  have hloaded : (slotOf s (selSlot s)).cur.isSome = true := by rw [hcur]; rfl
  have hchecks := commitChecks_of_ready hready (slotCheck_of_loaded hk hrange hlast hloaded howner hprev)
  have hcommit := keyCommitOp_of_accepts htag hfree hchecks
  rw [loadKey_of_loaded _ _ (by omega) (by rw [slotOf_gateRecord, hloaded])] at hcommit
  have hslot : slotOf (keyCommitOp force s) (selSlot s) = rekeyed (stagedKey s) (slotOf s (selSlot s)) := by
    rw [hcommit, slotOf_unstage, slotOf_recordVault, slotOf_modSlot_same, slotOf_gateRecord]
  refine ⟨_, exec_keyCommit_of_served force hserved, ?rewritten, fun j hj => ?others, ?journal, ?mirror, ?ceiling, ?owner⟩
  case rewritten => rw [hslot, rekeyed, hcur]
  case others => rw [hcommit, slotOf_unstage, slotOf_recordVault, slotOf_modSlot_ne _ _ hj.symm, slotOf_gateRecord]
  case journal => rw [hcommit]; rfl
  case mirror => rw [hcommit]; rfl
  case ceiling => rw [hslot]; rfl
  case owner => rw [hslot]; rfl

end Sys2Proof.Machine

/-!
PROOFS. The DRAM code (R322): XORs of picked columns, the check columns and the fold constants, and the syndrome, which is
linear in the codeword and in the address.
-/
namespace Sys2Proof.Machine

open Sys2Proof

/-! ### The weight of a byte -/

/-- The XOR of two bytes has odd weight where just one of them has. -/
theorem oddByte_xor (a b : Byte) : oddByte (a ^^^ b) = (oddByte a ^^ oddByte b) := by
  have hsum : ∀ (l : List Nat) (p q : Bool), l.foldl (fun r i => r ^^ (a ^^^ b).getLsbD i) (p ^^ q) =
      (l.foldl (fun r i => r ^^ a.getLsbD i) p ^^ l.foldl (fun r i => r ^^ b.getLsbD i) q) := by
    intro l
    induction l with
    | nil => exact fun _ _ => rfl
    | cons i l ih =>
      intro p q
      rw [List.foldl_cons, List.foldl_cons, List.foldl_cons, ← ih, BitVec.getLsbD_xor]
      simp only [Bool.xor_assoc, Bool.xor_left_comm]
  exact hsum (List.range 8) false false

/-! ### The XOR of picked entries -/

@[simp] theorem xorPicked_nil (p : Nat → Bool) : xorPicked [] p = 0 := rfl

/-- The start value of a sum of picked bytes stands apart. -/
theorem foldl_pick_start (is : List Nat) (p : Nat → Bool) (f : Nat → Byte) (x : Byte) :
    is.foldl (fun x i => if p i then x ^^^ f i else x) x = x ^^^ is.foldl (fun x i => if p i then x ^^^ f i else x) 0 := by
  induction is generalizing x with
  | nil => simp
  | cons i is ih =>
    simp only [List.foldl_cons]
    split
    next => rw [ih (x ^^^ f i), ih (0 ^^^ f i), BitVec.ofNat_eq_ofNat, BitVec.zero_xor, BitVec.xor_assoc]
    next => exact ih x

/-- The first entry, if picked, and the picked ones of the rest. -/
theorem xorPicked_cons (c : Byte) (l : List Byte) (p : Nat → Bool) :
    xorPicked (c :: l) p = (if p 0 then c else 0) ^^^ xorPicked l (fun i => p (i + 1)) := by
  have hfirst : (if p 0 then (0 : Byte) ^^^ (c :: l).getD 0 0 else 0) = if p 0 then c else 0 := by simp
  rw [xorPicked, List.length_cons, List.range_succ_eq_map, List.foldl_cons, List.foldl_map, hfirst]
  exact foldl_pick_start _ (fun i => p (i + 1)) (fun i => l.getD i 0) _

/-- Only the picks at indices of the list count. -/
theorem xorPicked_congr {l : List Byte} {p q : Nat → Bool} (h : ∀ i, i < l.length → p i = q i) :
    xorPicked l p = xorPicked l q := by
  induction l generalizing p q with
  | nil => rfl
  | cons c l ih =>
    have hrest : ∀ i, i < l.length → p (i + 1) = q (i + 1) := fun i hi => h (i + 1) (Nat.succ_lt_succ hi)
    rw [xorPicked_cons, xorPicked_cons, h 0 (Nat.zero_lt_succ _), ih hrest]

/-- An entry picked twice drops out. -/
theorem xorPicked_xor (l : List Byte) (p q : Nat → Bool) :
    xorPicked l (fun i => p i ^^ q i) = xorPicked l p ^^^ xorPicked l q := by
  induction l generalizing p q with
  | nil => simp
  | cons c l ih =>
    have hfirst : (if p 0 ^^ q 0 then c else 0) = (if p 0 then c else 0) ^^^ (if q 0 then c else 0) := by
      cases p 0 <;> cases q 0 <;> simp
    rw [xorPicked_cons, xorPicked_cons, xorPicked_cons, ih, hfirst]
    ac_rfl

@[simp] theorem xorPicked_none (l : List Byte) : xorPicked l (fun _ => false) = 0 := by
  simpa using xorPicked_xor l (fun _ => false) (fun _ => false)

theorem xorPicked_append (l m : List Byte) (p : Nat → Bool) :
    xorPicked (l ++ m) p = xorPicked l p ^^^ xorPicked m (fun i => p (l.length + i)) := by
  induction l generalizing p with
  | nil => simp
  | cons c l ih =>
    have hshift : ∀ i, p (l.length + i + 1) = p ((c :: l).length + i) := fun i => by rw [List.length_cons, Nat.add_right_comm]
    rw [List.cons_append, xorPicked_cons, xorPicked_cons, ih, BitVec.xor_assoc]
    simp only [hshift]

/-- Picking one index gives its entry. -/
theorem xorPicked_single (l : List Byte) (i : Nat) : xorPicked l (fun j => decide (i = j)) = l.getD i 0 := by
  induction l generalizing i with
  | nil => simp
  | cons c l ih =>
    rw [xorPicked_cons]
    cases i with
    | zero => simp
    | succ i => simpa using ih i

theorem xorPicked_getLsbD_xor {w : Nat} (l : List Byte) (x y : BitVec w) :
    xorPicked l (x ^^^ y).getLsbD = xorPicked l x.getLsbD ^^^ xorPicked l y.getLsbD := by
  rw [← xorPicked_xor]
  exact xorPicked_congr fun _ _ => BitVec.getLsbD_xor

theorem xorPicked_twoPow {w i : Nat} (l : List Byte) (h : i < w) : xorPicked l (BitVec.twoPow w i).getLsbD = l.getD i 0 := by
  rw [← xorPicked_single]
  exact xorPicked_congr fun j _ => by simp [BitVec.getLsbD_twoPow, h]

/-- The unit columns picked by a byte's bits give the byte. -/
theorem xorPicked_units (b : Byte) : xorPicked ((List.range 8).map (BitVec.twoPow 8)) b.getLsbD = b := by
  revert b
  decide +kernel

/-- Two entries of a list without duplicates differ. -/
theorem getD_xor_getD_ne_zero {l : List Byte} (hl : l.Nodup) {i j : Nat} (hi : i < l.length) (hj : j < l.length) (hne : i ≠ j) :
    l.getD i 0 ^^^ l.getD j 0 ≠ 0 :=
  fun h => hne ((List.getD_inj hi hj hl).mp (BitVec.xor_eq_zero_iff.mp h))

theorem getD_mem {l : List Byte} {i : Nat} (h : i < l.length) : l.getD i 0 ∈ l :=
  List.getElem_eq_getD (h := h) 0 ▸ List.getElem_mem h

/-! ### The columns and the fold constants -/

/-- The device's own columns are taken where they form the code, and the others do. -/
theorem dataColsOk_dataCols : dataColsOk dataCols = true := by
  simp only [dataCols]
  split
  next hown => exact hown
  next => decide +kernel

/-- The device's own constants are taken where they are as R322 asks, and the others are. -/
theorem foldOk_foldConsts : foldOk foldConsts = true := by
  simp only [foldConsts]
  split
  next hown => exact hown
  next => decide +kernel

theorem dataCols_spec : dataCols.length = 32 ∧ dataCols.Nodup ∧
    ∀ c ∈ dataCols, oddByte c = true ∧ c ∉ (List.range 8).map (BitVec.twoPow 8) := by
  have hok := dataColsOk_dataCols
  simp only [dataColsOk, Bool.and_eq_true, decide_eq_true_eq, List.all_eq_true, Bool.not_eq_true', List.any_eq_false] at hok
  obtain ⟨⟨hlen, hcols⟩, hnodup⟩ := hok
  refine ⟨hlen, hnodup, fun c hc => ⟨(hcols c hc).1, fun hmem => ?_⟩⟩
  obtain ⟨i, hi, hunit⟩ := List.mem_map.mp hmem
  exact (hcols c hc).2 i hi hunit.symm

@[simp] theorem length_dataCols : dataCols.length = 32 := dataCols_spec.1

@[simp] theorem length_checkCols : checkCols.length = 40 := by simp [checkCols]

theorem nodup_checkCols : checkCols.Nodup := by
  obtain ⟨-, hnodup, hcols⟩ := dataCols_spec
  exact List.nodup_append.mpr ⟨hnodup, by decide, fun c hc u hu heq => (hcols c hc).2 (heq ▸ hu)⟩

theorem oddByte_of_mem_checkCols {c : Byte} (h : c ∈ checkCols) : oddByte c = true := by
  obtain ⟨-, -, hcols⟩ := dataCols_spec
  have hunits : ∀ c ∈ (List.range 8).map (BitVec.twoPow 8), oddByte c = true := by decide
  exact (List.mem_append.mp h).elim (fun hdata => (hcols c hdata).1) (hunits c)

/-- An even byte is no column. -/
theorem not_mem_checkCols_of_even {c : Byte} (h : oddByte c = false) : c ∉ checkCols := fun hmem =>
  Bool.false_ne_true (h.symm.trans (oddByte_of_mem_checkCols hmem))

/-- The part of the check on the constants that does not concern the poison mark. -/
theorem foldConsts_spec : foldConsts.length = 34 ∧ foldConsts.Nodup ∧ ∀ c ∈ foldConsts, c ≠ 0 ∧ oddByte c = false := by
  have hok := foldOk_foldConsts
  simp only [foldOk, Bool.and_eq_true, decide_eq_true_eq, List.all_eq_true, Bool.not_eq_true'] at hok
  obtain ⟨⟨hlen, hconsts⟩, hnodup⟩ := hok
  refine ⟨hlen, hnodup, fun c hc => ?_⟩
  obtain ⟨⟨⟨heven, hne⟩, -⟩, -⟩ := hconsts c hc
  exact ⟨hne, heven⟩

/-! ### The fold and the syndrome -/

theorem addrFold_xor (a b : BitVec 34) : addrFold (a ^^^ b) = addrFold a ^^^ addrFold b := xorPicked_getLsbD_xor _ a b

theorem addrFold_twoPow {i : Nat} (h : i < 34) : addrFold (BitVec.twoPow 34 i) = foldConsts.getD i 0 := xorPicked_twoPow _ h

/-- Bad bits add their columns to the syndrome. -/
theorem syndrome_xor_bits (w e : BitVec 40) (a : BitVec 34) :
    syndrome (w ^^^ e) a = syndrome w a ^^^ xorPicked checkCols e.getLsbD := by
  rw [syndrome, syndrome, xorPicked_getLsbD_xor]
  ac_rfl

/-- Address bits that differ add their fold to the syndrome. -/
theorem syndrome_xor_addr (w : BitVec 40) (a e : BitVec 34) : syndrome w (a ^^^ e) = syndrome w a ^^^ addrFold e := by
  rw [syndrome, syndrome, addrFold_xor, BitVec.xor_assoc]

/-- The check bits of a codeword add up to the check byte, the data bits to their columns. -/
theorem xorPicked_checkCols_append (c : Byte) (d : W32) :
    xorPicked checkCols (c ++ d : BitVec 40).getLsbD = xorPicked dataCols d.getLsbD ^^^ c := by
  have hdata : xorPicked dataCols (c ++ d : BitVec 40).getLsbD = xorPicked dataCols d.getLsbD :=
    xorPicked_congr fun i hi => by
      rw [length_dataCols] at hi
      rw [BitVec.getLsbD_append, if_pos hi]
  have hcheck : (fun i => (c ++ d : BitVec 40).getLsbD (dataCols.length + i)) = c.getLsbD := funext fun i => by
    rw [length_dataCols, BitVec.getLsbD_append, if_neg (by omega), Nat.add_sub_cancel_left]
  rw [checkCols, xorPicked_append, hdata, hcheck, xorPicked_units]

/-- What is written reads clean at its own address. -/
theorem syndrome_written (d : W32) (a : BitVec 34) : syndrome (checkByte d a ++ d) a = 0 := by
  rw [syndrome, xorPicked_checkCols_append, checkByte, BitVec.xor_assoc, BitVec.xor_assoc, BitVec.xor_self, BitVec.xor_zero,
    BitVec.xor_self]
  rfl

/-- Of a written line the columns of its bad bits remain. -/
theorem syndrome_written_bits (d : W32) (a : BitVec 34) (e : BitVec 40) :
    syndrome ((checkByte d a ++ d : BitVec 40) ^^^ e) a = xorPicked checkCols e.getLsbD := by
  rw [syndrome_xor_bits, syndrome_written, BitVec.ofNat_eq_ofNat, BitVec.zero_xor]

/-- Of a written line the fold of the address bits that differ remains. -/
theorem syndrome_written_addr (d : W32) (a e : BitVec 34) : syndrome (checkByte d a ++ d) (a ^^^ e) = addrFold e := by
  rw [syndrome_xor_addr, syndrome_written, BitVec.ofNat_eq_ofNat, BitVec.zero_xor]

theorem checkByte_xor_checkByte (d : W32) (a b : BitVec 34) : checkByte d a ^^^ checkByte d b = addrFold a ^^^ addrFold b := by
  have hswap : checkByte d a ^^^ checkByte d b =
      xorPicked dataCols d.getLsbD ^^^ xorPicked dataCols d.getLsbD ^^^ (addrFold a ^^^ addrFold b) := by
    rw [checkByte, checkByte]
    ac_rfl
  rw [hswap, BitVec.xor_self, BitVec.zero_xor]

/-! ### Faults that are detected -/

/-- Two columns, both odd, leave an even syndrome; it is not zero, as the columns differ. -/
theorem two_columns_uncorrectable {i j : Nat} (hi : i < 40) (hj : j < 40) (hne : i ≠ j) :
    checkCols.getD i 0 ^^^ checkCols.getD j 0 ≠ 0 ∧ checkCols.getD i 0 ^^^ checkCols.getD j 0 ∉ checkCols := by
  rw [← length_checkCols] at hi hj
  refine ⟨getD_xor_getD_ne_zero nodup_checkCols hi hj hne, not_mem_checkCols_of_even ?_⟩
  rw [oddByte_xor, oddByte_of_mem_checkCols (getD_mem hi), oddByte_of_mem_checkCols (getD_mem hj), Bool.xor_self]

/-- The fold of one address bit is even and not zero. -/
theorem addrFold_one_bit {i : Nat} (h : i < 34) :
    addrFold (BitVec.twoPow 34 i) ≠ 0 ∧ oddByte (addrFold (BitVec.twoPow 34 i)) = false := by
  obtain ⟨hlen, -, hconsts⟩ := foldConsts_spec
  rw [addrFold_twoPow h]
  exact hconsts _ (getD_mem (hlen.symm ▸ h))

/-- The fold of two address bits is even, and not zero, as the constants differ. -/
theorem addrFold_two_bits {i j : Nat} (hi : i < 34) (hj : j < 34) (hne : i ≠ j) :
    addrFold (BitVec.twoPow 34 i ^^^ BitVec.twoPow 34 j) ≠ 0 ∧
      oddByte (addrFold (BitVec.twoPow 34 i ^^^ BitVec.twoPow 34 j)) = false := by
  obtain ⟨hlen, hnodup, -⟩ := foldConsts_spec
  rw [addrFold_xor]
  constructor
  · rw [addrFold_twoPow hi, addrFold_twoPow hj]
    exact getD_xor_getD_ne_zero hnodup (hlen.symm ▸ hi) (hlen.symm ▸ hj) hne
  · rw [oddByte_xor, (addrFold_one_bit hi).2, (addrFold_one_bit hj).2, Bool.xor_self]

/-- A written line read where the fold of the address differs by an even non-zero byte is uncorrectable. -/
theorem syndrome_written_elsewhere (d : W32) (a e : BitVec 34) (h : addrFold e ≠ 0 ∧ oddByte (addrFold e) = false) :
    syndrome (checkByte d a ++ d) (a ^^^ e) ≠ 0 ∧ oddByte (syndrome (checkByte d a ++ d) (a ^^^ e)) = false ∧
      syndrome (checkByte d a ++ d) (a ^^^ e) ∉ checkCols := by
  rw [syndrome_written_addr]
  exact ⟨h.1, h.2, not_mem_checkCols_of_even h.2⟩

/-- Settles O36: the syndrome is linear, so of a written line only the columns of the bad bits and the fold of the address bits that
differ remain; columns are odd, and two of them or one or two constants leave an even byte that is not zero. -/
theorem dramCode : Obligations.DramCode := by
  obtain ⟨hlen, hnodup, hconsts⟩ := foldConsts_spec
  refine ⟨length_checkCols, nodup_checkCols, fun _ => oddByte_of_mem_checkCols, hlen, hnodup, hconsts,
    fun _ => addrFold_twoPow, addrFold_xor, checkByte_xor_checkByte,
    fun d a => ⟨syndrome_written d a, fun i hi => ?one_bit, fun i j hi hj hne => ?two_bits, fun i hi => ?one_address_bit,
      fun i j hi hj hne => ?two_address_bits⟩⟩
  case one_bit => rw [syndrome_written_bits, xorPicked_twoPow _ hi]
  case two_bits =>
    rw [BitVec.xor_assoc, syndrome_written_bits, xorPicked_getLsbD_xor, xorPicked_twoPow _ hi, xorPicked_twoPow _ hj]
    exact two_columns_uncorrectable hi hj hne
  case one_address_bit => exact syndrome_written_elsewhere d a _ (addrFold_one_bit hi)
  case two_address_bits =>
    rw [BitVec.xor_assoc]
    exact syndrome_written_elsewhere d a _ (addrFold_two_bits hi hj hne)

end Sys2Proof.Machine

/-!
PROOFS. What every step keeps: the queue behind the command, the register table's canonical form, the recovery image, the bound of the
fused counter and the size of the repair bank.
-/
namespace Sys2Proof.Machine

open Sys2Proof

/-- Every command keeps what `Keeps` speaks of. -/
theorem keeps_exec {o0 : State} (c : Instr) (s : State) (h : Keeps o0 s) {t : State} (ht : exec c s = .next t) : Keeps o0 t := by
  cases c with
  | por => exact keeps_execPor s h ht
  | porstNAssertion => exact keeps_execPorstNAssertion s h ht
  | porstNDeassertion => exact keeps_execPorstNDeassertion s h ht
  | perstNAssertion port => exact keeps_execPerstNAssertion port s h ht
  | perstNDeassertion port => exact keeps_execPerstNDeassertion port s h ht
  | linkDownHotReset port => exact keeps_execLinkDownHotReset port s h ht
  | servingPortChange => exact keeps_execServingPortChange s h ht
  | pfFlr => exact keeps_execPfFlr s h ht
  | vfFlr v => exact keeps_execVfFlr v s h ht
  | controllerReset f => exact keeps_execControllerReset f s h ht
  | controllerEnable f ams => exact keeps_execControllerEnable f ams s h ht
  | nvmSubsystemReset => exact keeps_execNvmSubsystemReset s h ht
  | vfEnableClear => exact keeps_execVfEnableClear s h ht
  | vfEnableSet numVfs => exact keeps_execVfEnableSet numVfs s h ht
  | resetDrainDone f => exact keeps_execResetDrainDone f s h ht
  | zeroizeNAssertion => exact keeps_execZeroizeNAssertion s h ht
  | zeroizeRecordStored => exact keeps_execZeroizeRecordStored s h ht
  | startBegin => exact keeps_execStartBegin s h ht
  | linkTrained port => exact keeps_execLinkTrained port s h ht
  | powerOnSelfTests t => exact keeps_execPowerOnSelfTests t s h ht
  | imageAuthentication => exact keeps_execImageAuthentication s h ht
  | dramTraining p => exact keeps_execDramTraining p s h ht
  | flashDiscovery p => exact keeps_execFlashDiscovery p s h ht
  | metadataReplay readable => exact keeps_execMetadataReplay readable s h ht
  | ventPoolRestore unreadable => exact keeps_execVentPoolRestore unreadable s h ht
  | startComplete => exact keeps_execStartComplete s h ht
  | deleteIoSubmissionQueue id => exact keeps_execDeleteIoSubmissionQueue id s h ht
  | createIoSubmissionQueue id => exact keeps_execCreateIoSubmissionQueue id s h ht
  | getLogPage id => exact keeps_execGetLogPage id s h ht
  | deleteIoCompletionQueue id => exact keeps_execDeleteIoCompletionQueue id s h ht
  | createIoCompletionQueue id => exact keeps_execCreateIoCompletionQueue id s h ht
  | identify id => exact keeps_execIdentify id s h ht
  | abort id => exact keeps_execAbort id s h ht
  | setFeatures id => exact keeps_execSetFeatures id s h ht
  | getFeatures id => exact keeps_execGetFeatures id s h ht
  | asynchronousEventRequest id => exact keeps_execAsynchronousEventRequest id s h ht
  | firmwareImageDownload id => exact keeps_execFirmwareImageDownload id s h ht
  | firmwareCommit id => exact keeps_execFirmwareCommit id s h ht
  | activationDrainEnd => exact keeps_execActivationDrainEnd s h ht
  | imageSwitchComplete => exact keeps_execImageSwitchComplete s h ht
  | activationDrainTimeout => exact keeps_execActivationDrainTimeout s h ht
  | directiveSend id => exact keeps_execDirectiveSend id s h ht
  | directiveReceive id => exact keeps_execDirectiveReceive id s h ht
  | flush id => exact keeps_execFlush id s h ht
  | flushComplete id => exact keeps_execFlushComplete id s h ht
  | write id => exact keeps_execWrite id s h ht
  | zoneAppend id => exact keeps_execZoneAppend id s h ht
  | read id => exact keeps_execRead id s h ht
  | writeZeroes id => exact keeps_execWriteZeroes id s h ht
  | datasetManagement id => exact keeps_execDatasetManagement id s h ht
  | zoneClose id => exact keeps_execZoneClose id s h ht
  | zoneFinish id => exact keeps_execZoneFinish id s h ht
  | zoneOpen id => exact keeps_execZoneOpen id s h ht
  | zoneReset id => exact keeps_execZoneReset id s h ht
  | zoneOffline id => exact keeps_execZoneOffline id s h ht
  | reportZones id => exact keeps_execReportZones id s h ht
  | extendedReportZones id => exact keeps_execExtendedReportZones id s h ht
  | codecEncode id => exact keeps_execCodecEncode id s h ht
  | codecDecode id => exact keeps_execCodecDecode id s h ht
  | sqTailDoorbell f q tail entries => exact keeps_execSqTailDoorbell f q tail entries s h ht
  | cqHeadDoorbell f q head => exact keeps_execCqHeadDoorbell f q head s h ht
  | admission => exact keeps_execAdmission s h ht
  | dispatch r => exact keeps_execDispatch r s h ht
  | kerfExpiry r => exact keeps_execKerfExpiry r s h ht
  | geyserOverAge id => exact keeps_execGeyserOverAge id s h ht
  | writeDataCached id => exact keeps_execWriteDataCached id s h ht
  | encodeComplete sec lane c verifyOk => exact keeps_execEncodeComplete sec lane c verifyOk s h ht
  | cipherOperationComplete sec checkOk tagOk => exact keeps_execCipherOperationComplete sec checkOk tagOk s h ht
  | leaseGrant sec slot => exact keeps_execLeaseGrant sec slot s h ht
  | decodeComplete sec lane c faulty retryFaulty => exact keeps_execDecodeComplete sec lane c faulty retryFaulty s h ht
  | lunReadComplete lun cws => exact keeps_execLunReadComplete lun cws s h ht
  | suspendMinRun lun => exact keeps_execSuspendMinRun lun s h ht
  | lunSuspended lun => exact keeps_execLunSuspended lun s h ht
  | programComplete lun fail => exact keeps_execProgramComplete lun fail s h ht
  | eraseComplete lun fail zeros => exact keeps_execEraseComplete lun fail zeros s h ht
  | flashOperationTimeout lun => exact keeps_execFlashOperationTimeout lun s h ht
  | flashDriftCheck ch eye => exact keeps_execFlashDriftCheck ch eye s h ht
  | channelRetrain ch => exact keeps_execChannelRetrain ch s h ht
  | dramDriftCheck rank driftPs => exact keeps_execDramDriftCheck rank driftPs s h ht
  | dramRetrain => exact keeps_execDramRetrain s h ht
  | mr4Poll hot => exact keeps_execMr4Poll hot s h ht
  | refreshDue rank busy => exact keeps_execRefreshDue rank busy s h ht
  | dramCaParityAlert rank => exact keeps_execDramCaParityAlert rank s h ht
  | patrolScrub rank faults => exact keeps_execPatrolScrub rank faults s h ht
  | spareFillComplete rank => exact keeps_execSpareFillComplete rank s h ht
  | rankMigrationComplete ch faults => exact keeps_execRankMigrationComplete ch faults s h ht
  | paceWindowEnd meter reading => exact keeps_execPaceWindowEnd meter reading s h ht
  | paceLoopAction est => exact keeps_execPaceLoopAction est s h ht
  | avsAckTimeout => exact keeps_execAvsAckTimeout s h ht
  | shareEpochBoundary => exact keeps_execShareEpochBoundary s h ht
  | coalescingTimerExpiry f vec => exact keeps_execCoalescingTimerExpiry f vec s h ht
  | vectorUnmask f vec => exact keeps_execVectorUnmask f vec s h ht
  | housekeepingRound r => exact keeps_execHousekeepingRound r s h ht
  | fastThermalSample reading => exact keeps_execFastThermalSample reading s h ht
  | capacitanceTestDue => exact keeps_execCapacitanceTestDue s h ht
  | holdupTestRun => exact keeps_execHoldupTestRun s h ht
  | capacitanceTestEnd v0 v1 => exact keeps_execCapacitanceTestEnd v0 v1 s h ht
  | vinWarning mv => exact keeps_execVinWarning mv s h ht
  | dipEnd mv => exact keeps_execDipEnd mv s h ht
  | debounceExpiry => exact keeps_execDebounceExpiry s h ht
  | ventEnd vinMv => exact keeps_execVentEnd vinMv s h ht
  | ventRecovery vinMv => exact keeps_execVentRecovery vinMv s h ht
  | powerEntryDrainEnd => exact keeps_execPowerEntryDrainEnd s h ht
  | powerTransitionEnd => exact keeps_execPowerTransitionEnd s h ht
  | watchCycle r => exact keeps_execWatchCycle r s h ht
  | wakeTimerExpiry => exact keeps_execWakeTimerExpiry s h ht
  | hostL12Exit => exact keeps_execHostL12Exit s h ht
  | sidebandWakePacket => exact keeps_execSidebandWakePacket s h ht
  | vcoreGood p => exact keeps_execVcoreGood p s h ht
  | aonPostedWrite => exact keeps_execAonPostedWrite s h ht
  | pWriteStore ok => exact keeps_execPWriteStore ok s h ht
  | tenantCounterJournal => exact keeps_execTenantCounterJournal s h ht
  | witnessRecompute => exact keeps_execWitnessRecompute s h ht
  | witnessSettleExpiry => exact keeps_execWitnessSettleExpiry s h ht
  | noiseSample bit => exact keeps_execNoiseSample bit s h ht
  | drbgReseed => exact keeps_execDrbgReseed s h ht
  | coLockoutExpiry => exact keeps_execCoLockoutExpiry s h ht
  | freezeComplete => exact keeps_execFreezeComplete s h ht
  | freezeAbortTimeout => exact keeps_execFreezeAbortTimeout s h ht
  | spdmHeartbeatTimeout session => exact keeps_execSpdmHeartbeatTimeout session s h ht
  | smbusClockLowTimeout => exact keeps_execSmbusClockLowTimeout s h ht
  | gatedBlockAccess who isWrite off => exact keeps_execGatedBlockAccess who isWrite off s h ht
  | registerWrite w al off v => exact keeps_execRegisterWrite w al off v s h ht
  | gatedAccessClear => exact keeps_execGatedAccessClear s h ht
  | wvSelWrite view sel => exact keeps_execWvSelWrite view sel s h ht
  | wvSnap view => exact keeps_execWvSnap view s h ht
  | secPaceClr k => exact keeps_execSecPaceClr k s h ht
  | topPaceDevClr => exact keeps_execTopPaceDevClr s h ht
  | paceEnable al v => exact keeps_execPaceEnable al v s h ht
  | thermalEnable al v => exact keeps_execThermalEnable al v s h ht
  | ventEnable al v => exact keeps_execVentEnable al v s h ht
  | dramMapArm al v => exact keeps_execDramMapArm al v s h ht
  | keySlotSelect al v => exact keeps_execKeySlotSelect al v s h ht
  | keyWordWrite j v => exact keeps_execKeyWordWrite j v s h ht
  | keyCommit => exact keeps_execKeyCommit s h ht
  | keyCommitForce => exact keeps_execKeyCommitForce s h ht
  | coSubmit => exact keeps_execCoSubmit s h ht
  | coLogout => exact keeps_execCoLogout s h ht
  | coSetkey => exact keeps_execCoSetkey s h ht
  | rejClr => exact keeps_execRejClr s h ht
  | cdcReserveWrite k al v => exact keeps_execCdcReserveWrite k al v s h ht
  | fltcSizeWrite al v => exact keeps_execFltcSizeWrite al v s h ht
  | devIdentify r => exact keeps_execDevIdentify r s h ht
  | devState r => exact keeps_execDevState r s h ht
  | fwWriteSlot r => exact keeps_execFwWriteSlot r s h ht
  | fwSlotQuery r => exact keeps_execFwSlotQuery r s h ht
  | fwActivate r => exact keeps_execFwActivate r s h ht
  | tenantCreate r => exact keeps_execTenantCreate r s h ht
  | tenantConfigure r => exact keeps_execTenantConfigure r s h ht
  | tenantSetShare r => exact keeps_execTenantSetShare r s h ht
  | tenantEnable r => exact keeps_execTenantEnable r s h ht
  | tenantReset r => exact keeps_execTenantReset r s h ht
  | tenantDestroy r => exact keeps_execTenantDestroy r s h ht
  | tenantQuery r => exact keeps_execTenantQuery r s h ht
  | nsCreate r => exact keeps_execNsCreate r s h ht
  | nsDelete r => exact keeps_execNsDelete r s h ht
  | nsAttach r => exact keeps_execNsAttach r s h ht
  | nsDetach r => exact keeps_execNsDetach r s h ht
  | profileWrite r => exact keeps_execProfileWrite r s h ht
  | profileEnable r => exact keeps_execProfileEnable r s h ht
  | profileAttach r => exact keeps_execProfileAttach r s h ht
  | keyLoadWrapped r => exact keeps_execKeyLoadWrapped r s h ht
  | keyZeroizeSlot r => exact keeps_execKeyZeroizeSlot r s h ht
  | keyZeroizeAll r => exact keeps_execKeyZeroizeAll r s h ht
  | keySetCeiling r => exact keeps_execKeySetCeiling r s h ht
  | lockDefine r => exact keeps_execLockDefine r s h ht
  | lockSet r => exact keeps_execLockSet r s h ht
  | sanitize r => exact keeps_execSanitize r s h ht
  | powerStateSet r => exact keeps_execPowerStateSet r s h ht
  | holdupSet r => exact keeps_execHoldupSet r s h ht
  | ventTest r => exact keeps_execVentTest r s h ht
  | watchConfig r => exact keeps_execWatchConfig r s h ht
  | scrub r met => exact keeps_execScrub r met s h ht
  | rankMigrate r => exact keeps_execRankMigrate r s h ht
  | repairAdd r => exact keeps_execRepairAdd r s h ht
  | fleetSetId r => exact keeps_execFleetSetId r s h ht
  | fleetSetExpected r => exact keeps_execFleetSetExpected r s h ht
  | fleetLoadMigrationKey r => exact keeps_execFleetLoadMigrationKey r s h ht
  | tenantFreeze r => exact keeps_execTenantFreeze r s h ht
  | tenantSave r => exact keeps_execTenantSave r s h ht
  | tenantRestore r => exact keeps_execTenantRestore r s h ht
  | tenantThaw r => exact keeps_execTenantThaw r s h ht
  | dirtyLogCtrl r => exact keeps_execDirtyLogCtrl r s h ht
  | dirtyLogHarvest r => exact keeps_execDirtyLogHarvest r s h ht
  | logRead r => exact keeps_execLogRead r s h ht
  | selftest r t => exact keeps_execSelftest r t s h ht
  | nvmeMiBasicManagement => exact keeps_execNvmeMiBasicManagement s h ht
  | fleetWitnessRead => exact keeps_execFleetWitnessRead s h ht
  | getVersion => exact keeps_execGetVersion s h ht
  | getCapabilities => exact keeps_execGetCapabilities s h ht
  | negotiateAlgorithms => exact keeps_execNegotiateAlgorithms s h ht
  | getCertificate => exact keeps_execGetCertificate s h ht
  | challenge nonce => exact keeps_execChallenge nonce s h ht
  | getMeasurements nonce => exact keeps_execGetMeasurements nonce s h ht
  | keyExchange peer pairOk => exact keeps_execKeyExchange peer pairOk s h ht
  | heartbeat session => exact keeps_execHeartbeat session s h ht
  | keyUpdate session => exact keeps_execKeyUpdate session s h ht
  | endSession session => exact keeps_execEndSession session s h ht
  | zeroizeNRelease => exact keeps_execZeroizeNRelease s h ht
  | referenceClockLoss => exact keeps_execReferenceClockLoss s h ht
  | referenceClockReturn => exact keeps_execReferenceClockReturn s h ht
  | linkUp port => exact keeps_execLinkUp port s h ht
  | channelRetrainComplete p => exact keeps_execChannelRetrainComplete p s h ht
  | rankRetrainComplete rank => exact keeps_execRankRetrainComplete rank s h ht
  | scrubComplete => exact keeps_execScrubComplete s h ht
  | avsbusAcknowledge => exact keeps_execAvsbusAcknowledge s h ht
  | cleanShutdown => exact keeps_execCleanShutdown s h ht
  | unsupportedCommand id => exact keeps_execUnsupportedCommand id s h ht
  | undefinedMailboxOpcode opc r => exact keeps_execUndefinedMailboxOpcode opc r s h ht
  | sidebandHealthRequest => exact keeps_execSidebandHealthRequest s h ht
  | activationWithResetComplete => exact keeps_execActivationWithResetComplete s h ht

/-- A step keeps what `Keeps` speaks of, but for the queue that it shortens. -/
theorem keeps_step {s t : State} (ht : step s = .next t) : Keeps { s with pending := s.pending.tail } t := by
  rw [step] at ht
  split at ht
  · next hq =>
    injection ht with ht
    exact ht ▸ keeps_idle s (by rw [hq]; exact ⟨hq, rfl, id, id, id⟩)
  · next c q hq => exact keeps_exec c _ (by rw [hq]; exact Keeps.refl _) ht

/-- Settles O4: the register table is among what every step keeps. -/
theorem stepKeepsRegisterTable : Obligations.StepKeepsRegisterTable := by
  intro s t hs ht
  obtain ⟨-, -, hregs, -⟩ := keeps_step ht
  exact hregs hs

/-- Settles O5: the recovery image, the bound of the fused counter and the size of the repair bank are among what every step keeps. -/
theorem stepKeepsFusesAndRepairs : Obligations.StepKeepsFusesAndRepairs := by
  refine ⟨fun s t hs ht => ?fuses, fun s t hs ht => ?repairs⟩
  case fuses =>
    obtain ⟨-, himg, -, hfused, -⟩ := keeps_step ht
    refine ⟨himg, ?_⟩
    rw [FusesBounded, himg]
    exact hfused hs
  case repairs =>
    obtain ⟨-, -, -, -, hbank⟩ := keeps_step ht
    exact hbank hs

/-! ### Every command has a next state -/

theorem execPerstNAssertion_answers (p : Nat) (s : State) : ∃ t', execPerstNAssertion p s = .next t' := by
  unfold execPerstNAssertion
  dsimp only
  (repeat' split) <;> exact ⟨_, rfl⟩

theorem execNoiseSample_answers (bit : Bool) (s : State) : ∃ t', execNoiseSample bit s = .next t' := by
  unfold execNoiseSample
  dsimp only
  (repeat' split) <;> exact ⟨_, rfl⟩

theorem execMetadataReplay_answers (readable : Bool) (s : State) : ∃ t', execMetadataReplay readable s = .next t' := by
  unfold execMetadataReplay
  dsimp only
  (repeat' split) <;> exact ⟨_, rfl⟩

theorem execPerstNDeassertion_answers (p : Nat) (s : State) : ∃ t', execPerstNDeassertion p s = .next t' := by
  unfold execPerstNDeassertion
  dsimp only
  (repeat' split) <;> exact ⟨_, rfl⟩

theorem execVcoreGood_answers (p : WakeProbe) (s : State) : ∃ t', execVcoreGood p s = .next t' := by
  unfold execVcoreGood
  dsimp only
  (repeat' split) <;> exact ⟨_, rfl⟩

theorem execVentEnd_answers (vinMv : Nat) (s : State) : ∃ t', execVentEnd vinMv s = .next t' := by
  unfold execVentEnd
  dsimp only
  (repeat' split) <;> exact ⟨_, rfl⟩

theorem execPaceLoopAction_answers (est : Nat) (s : State) : ∃ t', execPaceLoopAction est s = .next t' := by
  unfold execPaceLoopAction
  dsimp only
  (repeat' split) <;> exact ⟨_, rfl⟩

theorem execDramTraining_answers (p : DramProbe) (s : State) : ∃ t', execDramTraining p s = .next t' := by
  unfold execDramTraining
  dsimp only
  (repeat' split) <;> exact ⟨_, rfl⟩

/-- The commands whose meaning begins with a choice answer a next state on each of its branches; the others answer one outright. -/
theorem exec_answers (c : Instr) (s : State) : ∃ t, exec c s = .next t := by
  cases c
  case perstNAssertion port => exact execPerstNAssertion_answers port s
  case perstNDeassertion port => exact execPerstNDeassertion_answers port s
  case dramTraining p => exact execDramTraining_answers p s
  case metadataReplay readable => exact execMetadataReplay_answers readable s
  case paceLoopAction est => exact execPaceLoopAction_answers est s
  case ventEnd vinMv => exact execVentEnd_answers vinMv s
  case vcoreGood p => exact execVcoreGood_answers p s
  case noiseSample bit => exact execNoiseSample_answers bit s
  case porstNAssertion | porstNDeassertion | linkDownHotReset | vfEnableClear | resetDrainDone | startBegin | linkTrained |
    powerOnSelfTests | imageAuthentication | flashDiscovery | ventPoolRestore | startComplete | asynchronousEventRequest |
    activationDrainEnd | imageSwitchComplete | activationDrainTimeout | flush | flushComplete | write | zoneAppend | read |
    writeZeroes | datasetManagement | codecEncode | codecDecode | admission | dispatch | geyserOverAge | writeDataCached |
    encodeComplete | cipherOperationComplete | decodeComplete | lunReadComplete | suspendMinRun | programComplete |
    eraseComplete | flashOperationTimeout | flashDriftCheck | dramDriftCheck | spareFillComplete | rankMigrationComplete |
    paceWindowEnd | shareEpochBoundary | coalescingTimerExpiry | housekeepingRound | fastThermalSample | capacitanceTestDue |
    capacitanceTestEnd | vinWarning | dipEnd | debounceExpiry | ventRecovery | powerEntryDrainEnd | powerTransitionEnd |
    watchCycle | witnessSettleExpiry | coLockoutExpiry | freezeComplete | freezeAbortTimeout | gatedBlockAccess |
    registerWrite | selftest | linkUp | channelRetrainComplete | scrubComplete | cleanShutdown | unsupportedCommand |
    undefinedMailboxOpcode | activationWithResetComplete =>
    simp only [exec, execPorstNAssertion, execPorstNDeassertion, execLinkDownHotReset, execVfEnableClear, execResetDrainDone,
      execStartBegin, execLinkTrained, execPowerOnSelfTests, execImageAuthentication, execFlashDiscovery, execVentPoolRestore,
      execStartComplete, execAsynchronousEventRequest, execActivationDrainEnd, execImageSwitchComplete,
      execActivationDrainTimeout, execFlush, execFlushComplete, execWrite, execZoneAppend, execRead, execWriteZeroes,
      execDatasetManagement, execCodecEncode, execCodecDecode, execAdmission, execDispatch, execGeyserOverAge,
      execWriteDataCached, execEncodeComplete, execCipherOperationComplete, execDecodeComplete, execLunReadComplete,
      execSuspendMinRun, execProgramComplete, execEraseComplete, execFlashOperationTimeout, execFlashDriftCheck,
      execDramDriftCheck, execSpareFillComplete, execRankMigrationComplete, execPaceWindowEnd, execShareEpochBoundary,
      execCoalescingTimerExpiry, execHousekeepingRound, execFastThermalSample, execCapacitanceTestDue, execCapacitanceTestEnd,
      execVinWarning, execDipEnd, execDebounceExpiry, execVentRecovery, execPowerEntryDrainEnd, execPowerTransitionEnd,
      execWatchCycle, execWitnessSettleExpiry, execCoLockoutExpiry, execFreezeComplete, execFreezeAbortTimeout,
      execGatedBlockAccess, execRegisterWrite, execSelftest, execLinkUp, execChannelRetrainComplete, execScrubComplete,
      execCleanShutdown, execUnsupportedCommand, execUndefinedMailboxOpcode, execActivationWithResetComplete]
    (repeat' split) <;> exact ⟨_, rfl⟩
  all_goals exact ⟨_, rfl⟩

/-- Settles O3: every meaning ends in a next state, and the queue behind is among what a command keeps. -/
theorem everyCommandAnswers : Obligations.EveryCommandAnswers := by
  intro c s
  obtain ⟨t, ht⟩ := exec_answers c s
  obtain ⟨hqueue, -⟩ := keeps_exec c s (Keeps.refl s) ht
  exact ⟨t, ht, hqueue⟩

end Sys2Proof.Machine

/-!
PROOFS. A raw frame of Codec Encode (R227, R236): its header read back, the walk of Codec Decode over it, and its payload decoded.
-/
namespace Sys2Proof.Machine

open Sys2Proof

/-! ### Reading numbers out of concatenated bytes -/

theorem leAt_append_right {a : List Byte} {o : Nat} (l : List Byte) (n : Nat) (h : a.length ≤ o) :
    leAt (a ++ l) o n = leAt l (o - a.length) n := by
  simp only [leAt, bytesAt, List.drop_append, List.drop_eq_nil_of_le h, List.nil_append]

theorem leAt_append_left {a : List Byte} {n : Nat} (l : List Byte) (h : a.length = n) : leAt (a ++ l) 0 n = leNat a := by
  subst h
  simp [leAt, bytesAt]

theorem zeros_length (n : Nat) : (zeros n).length = n := List.length_replicate

theorem leNat_zeros (n : Nat) : leNat (zeros n) = 0 := by
  induction n with
  | zero => rfl
  | succ n ih =>
    change 0 + 256 * leNat (zeros n) = 0
    rw [ih]

/-- Bytes within a run of zeros read 0. -/
theorem leAt_zeros_append {k o n : Nat} (l : List Byte) (h : o + n ≤ k) : leAt (zeros k ++ l) o n = 0 := by
  have hz : bytesAt (zeros k ++ l) o n = zeros n := by
    simp only [bytesAt, zeros]
    rw [List.drop_append_of_le_length (by simp; omega), List.take_append_of_le_length (by simp; omega)]
    rw [List.drop_replicate, List.take_replicate, Nat.min_eq_left (by omega)]
    simp
  rw [leAt, hz, leNat_zeros]

theorem leAt_zeros (k o n : Nat) : leAt (zeros k) o n = 0 := by
  have hz : bytesAt (zeros k) o n = zeros n := by
    simp only [bytesAt, zeros, List.drop_replicate, List.take_replicate, List.length_replicate, List.replicate_append_replicate]
    congr 1
    omega
  rw [leAt, hz, leNat_zeros]

/-! ### The header of a raw frame in clear outside a zone (R233, R236) -/

/-- The header bytes of a raw frame with FLAGS `fl`, PROFILE `p`, ORIG_LEN `n`, STORED `s16` and CRC `crc`. -/
def rawHdr (fl p n s16 : Nat) (crc : W32) : List Byte :=
  [1, BitVec.ofNat 8 fl] ++ (leBytes 2 p ++ (leBytes 4 n ++ (leBytes 2 s16 ++ (zeros 2 ++ (leBytes 4 crc.toNat ++ zeros 32)))))

theorem rawHdr_length (fl p n s16 : Nat) (crc : W32) : (rawHdr fl p n s16 crc).length = 48 := by
  simp [rawHdr, zeros]

/-- The header of a raw frame in clear outside a zone has no geometry, write sequence, counter or epoch. -/
theorem hdrBytes_raw {h : Hdr} (hraw : h.raw = true) (hw : h.wseq = 0) (hc : h.counter = 0) (he : h.epoch = 0) :
    hdrBytes h = rawHdr (flagsOf h) h.prof h.origLen h.stored16 h.crc := by
  simp only [hdrBytes, rawHdr, hraw, hw, hc, he, if_true, List.append_assoc]
  rfl

/-- What the fields of a raw frame's header read. -/
theorem rawHdr_fields {fl p n s16 : Nat} {crc : W32} (hfl : fl < 256) (hn : n < 2 ^ 32) (hs : s16 < 65536) :
    let h := rawHdr fl p n s16 crc
    leAt h 0 1 = 1 ∧ leAt h 1 1 = fl ∧ leAt h 4 4 = n ∧ leAt h 8 2 = s16 ∧ leAt h 12 4 = crc.toNat ∧
    leAt h 10 2 = 0 ∧ leAt h 11 1 = 0 ∧ ∀ o k, 16 ≤ o → leAt h o k = 0 := by
  have hcrc := crc.isLt
  refine ⟨rfl, ?flags, ?len, ?stored, ?crc, ?geom, ?geom', fun o k ho => ?rest⟩
  case flags => simp [rawHdr, leAt, bytesAt, leNat]; omega
  all_goals
    simp (disch := simp [zeros_length]; try omega) only [rawHdr, leAt_append_right, leAt_append_left, leAt_zeros_append, leAt_zeros, leNat_leBytes,
      leBytes_length, zeros_length, List.length_cons, List.length_nil, Nat.reduceSub, Nat.reduceAdd, leNat_zeros]
  all_goals omega

/-- A frame size of a profile is at most 64 KiB. -/
theorem fsizeBytes_le {fs : Nat} (h : fs < 3) : fsizeBytes fs ≤ 65536 :=
  match fs, h with
  | 0, _ => by decide
  | 1, _ => by decide
  | 2, _ => by decide

theorem malformed_rawHdr {fs p n s16 : Nat} {crc : W32} (hfs : fs < 3) (h0 : 0 < n) (hn : n ≤ fsizeBytes fs)
    (hs : 16 * s16 = 64 + roundUp n 16) : malformed (rawHdr (1 + 2 * b2n (n < fsizeBytes fs) + 32 * fs) p n s16 crc) = false := by
  have hb : b2n (n < fsizeBytes fs) < 2 := by unfold b2n; split <;> omega
  have hsize : fsizeBytes fs ≤ 65536 := fsizeBytes_le hfs
  have hup : n ≤ roundUp n 16 ∧ roundUp n 16 < n + 16 := by unfold roundUp; omega
  have hfl : (1 + 2 * b2n (n < fsizeBytes fs) + 32 * fs) < 128 := by omega
  obtain ⟨hver, hflags, hlen, hstored, -, hgeom, hgeom', hrest⟩ := rawHdr_fields (fl := 1 + 2 * b2n (n < fsizeBytes fs) + 32 * fs) (p := p) (n := n)
    (s16 := s16) (crc := crc) (by omega) (by omega) (by omega)
  generalize rawHdr (1 + 2 * b2n (n < fsizeBytes fs) + 32 * fs) p n s16 crc = h at *
  generalize hfldef : 1 + 2 * b2n (n < fsizeBytes fs) + 32 * fs = fl at *
  have hraw : fl % 2 = 1 := by omega
  have hshort : fl / 2 % 2 = b2n (n < fsizeBytes fs) := by omega
  have henc : fl / 8 % 2 = 0 := by omega
  have hzone : fl / 16 % 2 = 0 := by omega
  have hreseal : fl / 4 % 2 = 0 := by omega
  have hcode : fl / 32 % 4 = fs := by omega
  have hb1 : b2n (n < fsizeBytes fs) = 1 ↔ n < fsizeBytes fs := by unfold b2n; split <;> simp_all
  simp [malformed, hver, hflags, hlen, hstored, hgeom, hgeom', hrest, hraw, hshort, henc, hzone, hreseal, hcode, hb1, hs]
  omega

/-- The check word trailer has 16 bytes. -/
theorem checkTrailer_length (h p : List Byte) : (checkTrailer h p).length = 16 := by
  simp [checkTrailer, zeros_length]

/-- The parts that decoding takes a frame apart into. -/
theorem frame_parts {h : List Byte} (pay : List Byte) (hh : h.length = 48) :
    let f := h ++ pay ++ checkTrailer h pay
    f.take 48 = h ∧ (f.take (f.length - 16)).drop 48 = pay ∧ f.drop (f.length - 16) = checkTrailer h pay := by
  intro f
  have hlen : f.length - 16 = (h ++ pay).length := by simp [f, checkTrailer_length]; omega
  refine ⟨?_, ?_, ?_⟩
  · rw [show f = h ++ (pay ++ checkTrailer h pay) from List.append_assoc ..]
    exact List.take_left' hh
  · rw [hlen, List.take_left' rfl]
    exact List.drop_left' hh
  · rw [hlen, List.drop_left' rfl]

/-- A raw frame that is stored whole is taken whole by the frame walk of Codec Decode (R228). -/
theorem decFrames_rawFrame {fl p n s16 k : Nat} {crc : W32} {pay : List Byte} (hfl : fl < 128) (hclear : fl / 8 % 2 = 0)
    (hn : n ≤ 65536) (h0 : 0 < n) (hs : 16 * s16 = 64 + pay.length) (hs' : s16 < 65536)
    (hok : malformed (rawHdr fl p n s16 crc) = false) :
    let h := rawHdr fl p n s16 crc
    let f := h ++ pay ++ checkTrailer h pay
    decFrames 0 0 f n (k + 1) 0 0 = ([(0, f.length)], okSt) := by
  intro h f
  have hlen : f.length = 16 * s16 := by simp [f, h, rawHdr_length, checkTrailer_length]; omega
  obtain ⟨-, hflags, hlen', hstored, -⟩ := rawHdr_fields (fl := fl) (p := p) (n := n) (s16 := s16) (crc := crc) (by omega) (by omega) hs'
  have hend : decFrames 0 0 f n k f.length n = ([], okSt) := by
    cases k <;> simp [decFrames]
  obtain ⟨htake, hpay, htrail⟩ := frame_parts pay (h := h) (rawHdr_length ..)
  have hhdr : bytesAt f 0 48 = h := by rw [bytesAt_eq _ _ _ (by omega), List.drop_zero, htake]
  have hbit : bitOf (w32 fl) 3 = false := by
    have : fl.testBit 3 = false := by rw [Nat.testBit_eq_decide_div_mod_eq]; simp [hclear]
    rw [bitOf, w32, BitVec.getLsbD_ofNat, this, Bool.and_false]
  have hne : f ≠ [] := List.ne_nil_of_length_pos (by omega)
  rw [decFrames]
  simp only [List.drop_zero, hhdr, h, hflags, hlen', hstored, hok, hbit]
  rw [← hlen, if_neg (by simp [hne]), if_neg (by simp; omega), if_neg (by
    rw [List.take_length, htrail, hpay]; simp [h])]
  simp [hend]

/-- The raw payload of a raw frame decodes to the original bytes (R221, R236). -/
theorem decodePayload_raw {fl p s16 : Nat} {bs : List Byte} (hfl : fl < 256) (hraw : fl % 2 = 1) (hn : bs.length < 2 ^ 32) (hs : s16 < 65536) :
    decodePayload (rawHdr fl p bs.length s16 (crc32c bs)) (rawPayload bs) = .ok bs := by
  obtain ⟨-, hflags, hlen, -, hcrc, -⟩ := rawHdr_fields (p := p) (crc := crc32c bs) hfl hn hs
  simp [decodePayload, hflags, hraw, hlen, hcrc, rawPayload, pad16, zeros]

theorem offloadFrame_raw {p z : Nat} {d : List Byte} {force : Bool} {bs : List Byte}
    (hraw : force = true ∨
      storedCoded (leAt d 1 1) (geomOf d z bs.length) bs (if leAt d 1 1 = 0 then [] else codedPayload (geomOf d z bs.length) bs) = false) :
    offloadFrame p d z force bs =
      let h := rawHdr (1 + 2 * b2n (bs.length < fsizeBytes (leAt d 2 1)) + 32 * leAt d 2 1) p bs.length
        ((64 + (rawPayload bs).length) / 16) (crc32c bs)
      h ++ rawPayload bs ++ checkTrailer h (rawPayload bs) := by
  have hcoded : (storedCoded (leAt d 1 1) (geomOf d z bs.length) bs
      (if leAt d 1 1 = 0 then [] else codedPayload (geomOf d z bs.length) bs) && !force) = false := by
    rcases hraw with h | h <;> simp [h]
  simp only [offloadFrame, hcoded]
  simp only [Bool.false_eq_true, if_false]
  rw [hdrBytes_raw rfl rfl rfl rfl]
  simp [flagsOf, b2n]

/-- Settles O26: the frame is a raw header, the padded bytes and the check word; the walk takes it whole, and the padding is cut off. -/
theorem rawFrameRoundTrip : Obligations.RawFrameRoundTrip := by
  intro p d z force bs k hp hfs h0 hn hraw
  have hpay : (rawPayload bs).length = roundUp bs.length 16 := by
    have : bs.length ≤ roundUp bs.length 16 := by unfold roundUp; omega
    simp [rawPayload, pad16, zeros_length]; omega
  have hsize : fsizeBytes (leAt d 2 1) ≤ 65536 := fsizeBytes_le hfs
  have hflags : b2n (bs.length < fsizeBytes (leAt d 2 1)) < 2 := by unfold b2n; split <;> omega
  have hs : 16 * ((64 + (rawPayload bs).length) / 16) = 64 + (rawPayload bs).length := by rw [hpay, roundUp]; omega
  have hup : (rawPayload bs).length < bs.length + 16 := by rw [hpay, roundUp]; omega
  simp only [offloadFrame_raw hraw]
  obtain ⟨htake, hdrop, -⟩ := frame_parts (rawPayload bs) (rawHdr_length (1 + 2 * b2n (bs.length < fsizeBytes (leAt d 2 1)) + 32 * leAt d 2 1) p
    bs.length ((64 + (rawPayload bs).length) / 16) (crc32c bs))
  refine ⟨decFrames_rawFrame (by omega) (by omega) (by omega) h0 hs (by omega) (malformed_rawHdr hfs h0 hn (by rw [hs, hpay])), ?decode⟩
  case decode =>
    rw [htake, hdrop]
    exact decodePayload_raw (by omega) (by omega) (by omega) (by omega)

end Sys2Proof.Machine

/-!
PROOFS. The step (assumption log 3): the command at the front, the tick of an empty queue, and what a power-on reset leaves.
-/
namespace Sys2Proof.Machine

open Sys2Proof

/-- Settles O1. -/
theorem stepRunsFront : Obligations.StepRunsFront := by
  intro c q s hq
  rw [step, hq]

/-! ### Nothing is due -/

/-- Nothing waits at a function that is not listed, so no reset waits where none is listed as waiting. -/
theorem fnOf_waitRst_of_none {s : State} (h : ∀ e ∈ s.fns, e.2.waitRst = none) (f : Nat) : (fnOf s f).waitRst = none := by
  unfold fnOf
  generalize s.fns = t at h
  induction t with
  | nil => rfl
  | cons e t ih =>
    rw [tget_cons]
    split
    · exact h e List.mem_cons_self
    · exact ih fun x hx => h x (List.mem_cons_of_mem _ hx)

theorem retryResets_of_none {s : State} (h : ∀ e ∈ s.fns, e.2.waitRst = none) : retryResets s = s := by
  have hlist : (s.fns.filterMap fun e => e.2.waitRst.map fun k => (e.1, k)) = [] := by
    rw [List.filterMap_eq_nil_iff]
    intro e he
    simp [h e he]
  simp [retryResets, fnOf_waitRst_of_none h, hlist]

theorem ventTick_of_none {s : State} (h : s.hold.vent = none) : ventTick s = s := by rw [ventTick, h]

theorem scrubTick_of_none {s : State} (h : scrubRun s = none) : scrubTick s = s := by rw [scrubTick, h]

/-- With no admitted command no FUA write becomes durable. -/
theorem fuaCheck_of_no_cmds {s : State} (h : s.cmds = []) : fuaCheck s = s := by
  simp [fuaCheck, h, coverZones]

theorem upkeep_of_idle {s : State} (h : ioServes s = false ∨ (s.luns = [] ∧ s.zones = [] ∧ s.cmds = [])) : upkeep s = s := by
  rw [upkeep]
  split
  · rfl
  · next hserves =>
    obtain ⟨hluns, hzones, hcmds⟩ := h.resolve_left (by simp only [not_or, Decidable.not_not] at hserves; simp [hserves.1])
    simp [hluns, hzones, fuaCheck_of_no_cmds hcmds]

/-- The DRAM controller's tick changes the DRAM alone. -/
theorem dramTick_frame (dt : Nat) (s : State) : dramTick dt s = { s with dram := (dramTick dt s).dram } := by
  rw [dramTick]
  split <;> rfl

/-- Where nothing is due a tick is the clock's alone, and what the DRAM controller does in it. -/
theorem idle_of_nothing_due {s : State} (h : NothingDue s) (hfns : (tick s).fns = s.fns) (hvent : (tick s).hold.vent = s.hold.vent)
    (hmbx : (tick s).mbx = s.mbx) (hmd : (tick s).md = s.md) (hmedia : ((tick s).luns, (tick s).zones, (tick s).cmds) = (s.luns, s.zones, s.cmds)) :
    idle s = dramTick (now (tick s) - now s) (tick s) := by
  obtain ⟨hwait, hv, hscrub, hserves⟩ := h
  simp only [Prod.mk.injEq] at hmedia
  obtain ⟨hluns, hzones, hcmds⟩ := hmedia
  rw [idle]
  rw [ventTick_of_none (by rw [hvent, hv]), retryResets_of_none (by rw [hfns]; exact hwait), dramTick_frame, scrubTick_of_none, upkeep_of_idle]
  · simpa [ioServes, hmd, hluns, hzones, hcmds] using hserves
  · simpa [scrubRun, hmbx] using hscrub

/-! ### The copies of the always-on registers (R51) -/

/-- A table of the values of a function at listed keys, the defaults left out, reads the function at each of them. -/
theorem tget_map_filter (f : Nat → W32) (l : List Nat) (o : Nat) :
    tget 0 ((l.map fun k => (k, f k)).filter fun e => e.2 ≠ 0) o = if o ∈ l then f o else 0 := by
  induction l with
  | nil => rfl
  | cons k l ih =>
    by_cases hk : f k = 0
    · rw [List.map_cons, List.filter_cons_of_neg (by simp [hk]), ih]
      by_cases ho : o = k
      · subst ho; simp [hk]
      · simp [ho]
    · rw [List.map_cons, List.filter_cons_of_pos (by simpa using hk), tget_cons, ih]
      by_cases ho : o = k
      · subst ho; simp
      · simp [ho, Ne.symm ho]

theorem readAon_aonRefresh (s : State) {o : Nat} (h : o ∈ aonOffs) : readAon (aonRefresh s) o = aonWord s o := by
  have ho : o ≠ 0x10 := by rintro rfl; exact absurd h (by decide)
  rw [readAon, if_neg ho, if_pos h, aonRefresh]
  simp only
  rw [tget_map_filter, if_pos h, BitVec.xor_assoc, BitVec.xor_self, BitVec.xor_zero]

theorem aonWord_of_copies (s : State) (t : Table W32) (o : Nat) : aonWord { s with hk := { s.hk with copies := t } } o = aonWord s o := rfl

theorem aonWord_aonRefresh (s : State) (o : Nat) : aonWord (aonRefresh s) o = aonWord s o := aonWord_of_copies s _ o

theorem readAon_dramTick (dt : Nat) (s : State) (o : Nat) : readAon (dramTick dt s) o = readAon s o := by
  rw [dramTick_frame]
  rfl

theorem aonWord_dramTick (dt : Nat) (s : State) (o : Nat) : aonWord (dramTick dt s) o = aonWord s o := by
  rw [dramTick_frame]
  rfl

/-- A slow edge with nothing posted refreshes the copies, and completes the snapshots that wait. -/
theorem aonEdge_of_nothing_posted {s : State} (hq : s.aonQ = []) (hheld : s.aonHeld = []) :
    aonEdge s = aonRefresh (wvEdge s) := by
  have hs : { s with aonQ := s.aonHeld.take 8, aonHeld := s.aonHeld.drop 8 } = s := by
    cases s
    dsimp only at hq hheld
    subst hq hheld
    rfl
  rw [aonEdge, hs, hq, List.foldl_nil]

/-- Settles O2: a tick changes the clock; without the reference clock it is an edge, which refreshes the copies. -/
theorem idleTick : Obligations.IdleTick := by
  intro s hq hdue
  have hstep : step s = .next (idle s) := by rw [step, hq]
  refine ⟨fun href hedge => ?present, fun href haonQ haonHeld => ?lost⟩
  case present =>
    have htick : tick s = { s with clk := { s.clk with time := s.clk.time + 10, edge := false } } := by
      simp [tick, href, hedge, b2n]
    have hidle := idle_of_nothing_due hdue (by rw [htick]) (by rw [htick]) (by rw [htick]) (by rw [htick]) (by rw [htick])
    rw [htick] at hidle
    refine ⟨_, hstep, ?_, ?_, fun hoff => ?_⟩
    · rw [hidle, dramTick_frame]
      simp [now, href]
    · rw [hidle, dramTick_frame]
    · rw [hidle, dramTick, if_pos]
      simpa [dramOn, exitRuns] using hoff
  case lost =>
    have htick : tick s = aonRefresh (wvEdge { s with clk := { s.clk with lossTicks := s.clk.lossTicks + 1, ticks := s.clk.ticks + 1, edge := true } }) := by
      rw [tick, if_neg (by simp [href]), aonEdge_of_nothing_posted (by exact haonQ) (by exact haonHeld)]
    have hidle := idle_of_nothing_due hdue (by rw [htick]; rfl) (by rw [htick]; rfl) (by rw [htick]; rfl) (by rw [htick]; rfl) (by rw [htick]; rfl)
    refine ⟨_, hstep, ?_, ?_, fun o ho => ?_⟩
    · rw [hidle, dramTick_frame, htick]
      simp [now, href, aonRefresh, wvEdge]
    · rw [hidle, dramTick_frame, htick]
      rfl
    · rw [hidle, readAon_dramTick, aonWord_dramTick, htick, readAon_aonRefresh _ ho, aonWord_aonRefresh]

/-! ### Reset (R67, R74, R397) -/

/-- At reset every register reads its default, as none is listed as differing. -/
theorem regGet_reset (off : Nat) : regGet State.reset off = regDefault off := BitVec.zero_xor

/-- Settles O6: the defaults of the fields are read from the register tables; the tables of the reset state are empty. -/
theorem resetState : Obligations.ResetState := by
  refine ⟨?left, rfl, Nat.zero_le _, Nat.zero_le _⟩
  case left =>
    have hempty : QueuesGone State.reset := ⟨rfl, rfl, rfl⟩
    refine ⟨rfl, rfl, rfl, rfl, rfl, rfl, hempty, rfl, rfl, rfl, rfl, rfl, regGet_reset, ?_⟩
    decide +kernel

end Sys2Proof.Machine

/-!
PROOFS. What the write path can change when a zone settles and when a write's data becomes durable (R170, R191 to R194): the zones,
the write path's jobs and operations, the LUNs, and what posting an event or deciding a command changes.
-/
namespace Sys2Proof.Machine

open Sys2Proof

/-! ### The migration engine's state: a completion entry changes the dirty-page logs alone (R437) -/

theorem mig_trans {a b c : Mig} (h1 : b = { a with dlog := b.dlog }) (h2 : c = { b with dlog := c.dlog }) :
    c = { a with dlog := c.dlog } :=
  h2.trans (by rw [h1])

theorem dirtyMark_mig (t n g : Nat) (s : State) : (dirtyMark t n g s).mig = { s.mig with dlog := (dirtyMark t n g s).mig.dlog } := by
  induction n generalizing g s with
  | zero => rfl
  | succ n ih =>
    unfold dirtyMark
    dsimp only
    refine mig_trans ?_ (ih ..)
    by_cases h : (tget {} s.mig.dlog t).cover ≤ g ∨ g ∈ (if (tget {} s.mig.dlog t).half then (tget {} s.mig.dlog t).set1
      else (tget {} s.mig.dlog t).set0)
    · rw [if_pos h]
    · rw [if_neg h]
      rfl

theorem dirtyLog_mig (f a l : Nat) (s : State) : (dirtyLog f a l s).mig = { s.mig with dlog := (dirtyLog f a l s).mig.dlog } := by
  unfold dirtyLog
  split
  · rfl
  · dsimp only
    split
    · rfl
    · exact dirtyMark_mig ..

theorem cqWrite_mig (f q : Nat) (c : Cq) (e : Cqe) (u : Bool) (s : State) :
    (cqWrite f q c e u s).mig = { s.mig with dlog := (cqWrite f q c e u s).mig.dlog } := by
  have h : (cqWrite f q c e u s).mig = (dirtyLog f (c.base + 16 * c.tail) 16 (emit (.cqe f q c.phase e) s)).mig := by
    unfold cqWrite
    dsimp only
    split
    · rw [msiEntry_frame]
      rfl
    · rfl
  rw [h]
  exact dirtyLog_mig ..

theorem postEvent_mig (typ info log f : Nat) (s : State) :
    (postEvent typ info log f s).mig = { s.mig with dlog := (postEvent typ info log f s).mig.dlog } := by
  unfold postEvent
  dsimp only
  split
  · rfl
  · split
    · unfold aerComplete aerPost
      dsimp only
      split
      · rfl
      · split
        · exact cqWrite_mig ..
        · rfl
    · split <;> rfl

theorem post_mig (id : CmdId) (s : State) : (post id s).mig = { s.mig with dlog := (post id s).mig.dlog } := by
  unfold post
  split
  · rfl
  · split
    · rw [freeSlot_frame]
    · split
      · split
        · rw [freeSlot_frame]
        · dsimp only
          split
          · rw [countDone_frame, freeSlot_frame]
            exact cqWrite_mig ..
          · rfl
      · rw [freeSlot_frame]

theorem finish_mig (id : CmdId) (st : Status) (d0 d1 : W32) (s : State) : (finish id st d0 d1 s).mig =
    { s.mig with dlog := (finish id st d0 d1 s).mig.dlog, drained := (finish id st d0 d1 s).mig.drained } := by
  have h : ∀ f u, (frzCount f u).mig = { u.mig with drained := (frzCount f u).mig.drained } := by
    intro f u
    unfold frzCount
    split <;> rfl
  unfold finish
  rw [h, lockSetEnd_frame, post_mig]
  rfl

/-! ### Settling a zone -/

/-- What settling a zone changes. -/
def SettleFrame (s t : State) : Prop :=
  t = { s with zones := t.zones, jobs := t.jobs, nextJob := t.nextJob, ops := t.ops, luns := t.luns, fns := t.fns, cqs := t.cqs,
               sent := t.sent, mig := { s.mig with dlog := t.mig.dlog } }

namespace SettleFrame

theorem refl (s : State) : SettleFrame s s := rfl

theorem trans {s t u : State} (h1 : SettleFrame s t) (h2 : SettleFrame t u) : SettleFrame s u :=
  Eq.trans h2 (by rw [h1])

/-- `trans` with the later part first, which names the state between. -/
theorem after {s t u : State} (h2 : SettleFrame t u) (h1 : SettleFrame s t) : SettleFrame s u := h1.trans h2

theorem foldl {α : Type} {g : State → α → State} (hg : ∀ s x, SettleFrame s (g s x)) (l : List α) (s : State) :
    SettleFrame s (l.foldl g s) := by
  induction l generalizing s with
  | nil => rfl
  | cons x l ih => exact (hg s x).trans (ih _)

end SettleFrame

theorem queueProg_settleFrame (w : Work) (ns l : Nat) (js : List Job) (s : State) : SettleFrame s (queueProg w ns l js s) := rfl

theorem issuePage_settleFrame (ns z ready : Nat) (force : Bool) (k : Nat) (s : State) : SettleFrame s (issuePage ns z ready force k s) := by
  unfold issuePage
  split
  · rfl
  · dsimp only
    split
    · exact (queueProg_settleFrame ..).after rfl
    · rfl

theorem issueParity_settleFrame (ns z ready : Nat) (force : Bool) (u : Nat) (s : State) :
    SettleFrame s (issueParity ns z ready force u s) := by
  unfold issueParity
  split
  · rfl
  · dsimp only
    split
    · rfl
    · exact (queueProg_settleFrame ..).after rfl

theorem issueZone_settleFrame (ns z : Nat) (s : State) : SettleFrame s (issueZone ns z s) := by
  unfold issueZone
  split
  · rfl
  · exact (SettleFrame.foldl (fun _ _ => issueParity_settleFrame ..) _ _).after
      ((SettleFrame.foldl (fun _ _ => issuePage_settleFrame ..) _ _).after rfl)

theorem storeReady_settleFrame (js : List (Nat × Job)) (s : State) : SettleFrame s (storeReady js s) := by
  induction js generalizing s with
  | nil => rfl
  | cons e js ih =>
    obtain ⟨n, j⟩ := e
    unfold storeReady
    refine .trans ?_ (ih _)
    split <;> rfl

theorem placeFrame_settleFrame (n : Nat) (b : List Byte) (s : State) : SettleFrame s (placeFrame n b s) := by
  unfold placeFrame
  split
  · rfl
  · exact (issueZone_settleFrame ..).after ((storeReady_settleFrame ..).after rfl)

theorem orderJob_settleFrame (n : Nat) (j : Job) (s : State) : SettleFrame s (orderJob n j s) := by
  unfold orderJob
  dsimp only
  split
  · exact (placeFrame_settleFrame ..).after rfl
  · split
    · rfl
    · exact (placeFrame_settleFrame ..).after rfl

theorem orderJobs_settleFrame (js : List (Nat × Job)) (s : State) : SettleFrame s (orderJobs js s) := by
  induction js generalizing s with
  | nil => rfl
  | cons e js ih =>
    obtain ⟨n, j⟩ := e
    unfold orderJobs
    split
    · exact (orderJob_settleFrame ..).trans (ih _)
    · exact ih _

theorem cutFrame_settleFrame (ns z f n : Nat) (final redo : Bool) (s : State) : SettleFrame s (cutFrame ns z f n final redo s) := by
  unfold cutFrame
  dsimp only
  split
  · rfl
  · split
    · rfl
    · exact (orderJobs_settleFrame ..).after rfl

theorem cutFull_settleFrame (ns z : Nat) (s : State) : SettleFrame s (cutFull ns z s) :=
  .foldl (fun _ _ => cutFrame_settleFrame ..) _ _

theorem sealZone_settleFrame (ns z : Nat) (final : Bool) (s : State) : SettleFrame s (sealZone ns z final s) := by
  unfold sealZone
  split
  · rfl
  · exact .foldl (fun _ _ => cutFrame_settleFrame ..) _ _

theorem copyIndex_settleFrame (ns z : Nat) (s : State) : SettleFrame s (copyIndex ns z s) := by
  unfold copyIndex
  split <;> rfl

theorem writeIndex_settleFrame (ns z : Nat) (s : State) : SettleFrame s (writeIndex ns z s) := by
  unfold writeIndex
  split
  · rfl
  · split
    · rfl
    · exact (copyIndex_settleFrame ..).after rfl

theorem finishAcct_settleFrame (ns z : Nat) (s : State) : SettleFrame s (finishAcct ns z s) := by
  unfold finishAcct
  split
  · rfl
  · refine (sealZone_settleFrame ns z true s).trans ?_
    dsimp only
    split
    · rfl
    · exact (writeIndex_settleFrame ..).after rfl

theorem finishData_settleFrame (ns z : Nat) (s : State) : SettleFrame s (finishData ns z s) :=
  (issueZone_settleFrame ..).after ((finishAcct_settleFrame ..).after (SettleFrame.trans (sealZone_settleFrame ..) rfl))

theorem postEvent_settleFrame (typ info log f : Nat) (s : State) : SettleFrame s (postEvent typ info log f s) := by
  unfold SettleFrame
  rw [← postEvent_mig]
  rw [postEvent_frame]

theorem zoneChanged_settleFrame (ns z : Nat) (s : State) : SettleFrame s (zoneChanged ns z s) := by
  unfold zoneChanged
  split
  · split
    · exact (postEvent_settleFrame ..).after rfl
    · rfl
  · rfl

theorem autoFinish_settleFrame (ns z : Nat) (s : State) : SettleFrame s (autoFinish ns z s) := by
  unfold autoFinish
  dsimp only
  split
  · rfl
  · split
    · rfl
    · exact (zoneChanged_settleFrame ..).after ((finishData_settleFrame ..).after rfl)

theorem warnCheck_settleFrame (ns z : Nat) (s : State) : SettleFrame s (warnCheck ns z s) := by
  unfold warnCheck
  dsimp only
  split
  · split
    · split
      · exact (postEvent_settleFrame ..).after ((zoneChanged_settleFrame ..).after rfl)
      · rfl
    · rfl
  · rfl

theorem zoneSettle_settleFrame (ns z : Nat) (s : State) : SettleFrame s (zoneSettle ns z s) :=
  (((cutFull_settleFrame ..).trans (autoFinish_settleFrame ..)).trans (finishAcct_settleFrame ..)).trans
    ((issueZone_settleFrame ..).trans (warnCheck_settleFrame ..))

theorem zoneSettle_frame (ns z : Nat) (s : State) : zoneSettle ns z s = { s with
    zones := (zoneSettle ns z s).zones, jobs := (zoneSettle ns z s).jobs, nextJob := (zoneSettle ns z s).nextJob,
    ops := (zoneSettle ns z s).ops, luns := (zoneSettle ns z s).luns, fns := (zoneSettle ns z s).fns, cqs := (zoneSettle ns z s).cqs,
    sent := (zoneSettle ns z s).sent, mig := { s.mig with dlog := (zoneSettle ns z s).mig.dlog } } :=
  zoneSettle_settleFrame ns z s

/-- What deciding commands changes with the settling of their zones: a command's slot and queue, its counters and messages, admission's
tokens and counts, and a LOCK_SET that waited. -/
def DecideFrame (s t : State) : Prop :=
  t = { s with zones := t.zones, jobs := t.jobs, nextJob := t.nextJob, ops := t.ops, luns := t.luns, fns := t.fns, cqs := t.cqs,
               sent := t.sent, mig := { s.mig with dlog := t.mig.dlog, drained := t.mig.drained }, cmds := t.cmds, qos := t.qos, ctr := t.ctr, locks := t.locks, mbx := t.mbx,
               cache := t.cache }

namespace DecideFrame

theorem refl (s : State) : DecideFrame s s := rfl

theorem trans {s t u : State} (h1 : DecideFrame s t) (h2 : DecideFrame t u) : DecideFrame s u :=
  Eq.trans h2 (by rw [h1])

/-- `trans` with the later part first, which names the state between. -/
theorem after {s t u : State} (h2 : DecideFrame t u) (h1 : DecideFrame s t) : DecideFrame s u := h1.trans h2

theorem foldl {α : Type} {g : State → α → State} (hg : ∀ s x, DecideFrame s (g s x)) (l : List α) (s : State) :
    DecideFrame s (l.foldl g s) := by
  induction l generalizing s with
  | nil => rfl
  | cons x l ih => exact (hg s x).trans (ih _)

theorem of_settle {s t : State} (h : SettleFrame s t) : DecideFrame s t := by
  unfold DecideFrame
  rw [h]

end DecideFrame

theorem finish_decideFrame (id : CmdId) (st : Status) (d0 d1 : W32) (s : State) : DecideFrame s (finish id st d0 d1 s) := by
  unfold DecideFrame
  rw [← finish_mig]
  rw [finish_frame]

theorem fuaCheck_decideFrame (s : State) : DecideFrame s (fuaCheck s) := by
  unfold fuaCheck
  refine .trans (.foldl (fun _ _ => ?_) _ _) (.foldl (fun _ _ => .of_settle (zoneSettle_settleFrame ..)) _ _)
  exact (finish_decideFrame ..).after rfl

/-! ### Entries that wait, and aborts that wait for them -/

theorem cqWrite_decideFrame (f q : Nat) (c : Cq) (e : Cqe) (u : Bool) (s : State) : DecideFrame s (cqWrite f q c e u s) := by
  unfold DecideFrame
  have hm : (cqWrite f q c e u s).mig.drained = s.mig.drained := by rw [cqWrite_mig]
  rw [hm, ← cqWrite_mig, cqWrite_frame]

theorem freeSlot_decideFrame (id : CmdId) (s : State) : DecideFrame s (freeSlot id s) := by
  unfold DecideFrame
  rw [freeSlot_frame]

theorem countDone_decideFrame (c : Cmd) (s : State) : DecideFrame s (countDone c s) := by
  unfold DecideFrame
  rw [countDone_frame]

/-- A written entry's command leaves its slot and is counted. -/
theorem entryDone_decideFrame (id : CmdId) (s : State) : DecideFrame s
    (match cmdOf s id with | some c => countDone c (freeSlot id (countBytes c s)) | none => s) := by
  split
  · exact (countDone_decideFrame ..).after ((freeSlot_decideFrame ..).after rfl)
  · exact .refl s

theorem cqDrain_decideFrame (n f q : Nat) (s : State) : DecideFrame s (cqDrain n f q s) := by
  induction n generalizing s with
  | zero => exact .refl s
  | succ n ih =>
    unfold cqDrain
    split
    · exact .refl s
    · split
      · exact .refl s
      · dsimp only
        split
        · exact .refl s
        · refine (ih _).after ?_
          split
          · exact (cqWrite_decideFrame ..).after rfl
          · exact (entryDone_decideFrame ..).after ((cqWrite_decideFrame ..).after rfl)

theorem abortsGo_decideFrame (s : State) : DecideFrame s (abortsGo s) := by
  refine .foldl (fun u c => ?_) _ _
  split
  · exact .refl u
  · exact finish_decideFrame ..

theorem msiBudget_decideFrame (f v : Nat) (s : State) : DecideFrame s (msiBudget f v s) := by
  unfold DecideFrame
  rw [msiBudget_frame]

theorem aerComplete_decideFrame (f cid : Nat) (e : Ev) (s : State) : DecideFrame s (aerComplete f cid e s) := by
  unfold aerComplete aerPost
  dsimp only
  split
  · rfl
  · split
    · exact (cqWrite_decideFrame ..).after rfl
    · rfl

theorem aerReport_decideFrame (f : Nat) (s : State) : DecideFrame s (aerReport f s) := by
  unfold aerReport
  dsimp only
  split
  · exact .refl s
  · split
    · exact (aerComplete_decideFrame ..).after rfl
    · exact .refl s

end Sys2Proof.Machine

/-!
PROOFS. The mailbox protocol (chapter 05): what the doorbell stores and latches, the checks before a command's body, and the
command's end. The rules of a command's own checks, which every mailbox command's proof uses, stand first.
-/
namespace Sys2Proof.Machine

open Sys2Proof

/-! ### Checks of a command -/

/-- A check fails nothing exactly when its condition is false. -/
@[simp] theorem mfail_eq_none (c : Bool) (code arg obj : Nat) : mfail c code arg obj = none ↔ c = false := by
  cases c <;> simp [mfail]

/-- The condition under which a check fails with its code. -/
theorem mfail_of_fails {c : Bool} (h : c = true) (code arg obj : Nat) : mfail c code arg obj = some (code, arg, obj) := by
  rw [h]; rfl

@[simp] theorem firstM_nil : firstM [] = none := rfl
@[simp] theorem firstM_cons_some (f : Nat × Nat × Nat) (l : List MFail) : firstM (some f :: l) = some f := rfl
@[simp] theorem firstM_cons_eq_none (f : MFail) (l : List MFail) : firstM (f :: l) = none ↔ f = none ∧ firstM l = none := by
  cases f <;> simp [firstM]

theorem mbxDo_of_pass {checks : List MFail} (h : firstM checks = none) (act : State → State) (s : State) :
    mbxDo checks act s = act s := by
  simp only [mbxDo, h]

theorem mbxDo_of_fail {checks : List MFail} {code arg obj : Nat} (h : firstM checks = some (code, arg, obj))
    (act : State → State) (s : State) : mbxDo checks act s = mbxFail code arg obj s := by
  simp only [mbxDo, h]

/-! ### The registers that an issue writes (R89) -/

/-- A register that no write of a list names keeps its value. -/
theorem regGet_foldl_regPut_of_not_mem {o : Nat} {l : List (Nat × W32)} (h : ∀ w ∈ l, 0x20000 + w.1 ≠ o) (s : State) :
    regGet (l.foldl (fun s w => regPut s (0x20000 + w.1) w.2) s) o = regGet s o := by
  induction l generalizing s with
  | nil => rfl
  | cons w l ih =>
    rw [List.foldl_cons, ih (fun x hx => h x (List.mem_cons_of_mem _ hx)), regGet_regPut_ne _ _ (h w List.mem_cons_self)]

/-- The writes of consecutive argument registers, from register `k` on. -/
def argWrites (k : Nat) (l : List W32) : List (Nat × W32) := (l.zipIdx k).map fun (a, i) => (0x10 + 4 * i, a)

theorem argWrites_cons (k : Nat) (v : W32) (l : List W32) : argWrites k (v :: l) = (0x10 + 4 * k, v) :: argWrites (k + 1) l := rfl

/-- Every write of `argWrites` is to an argument register of its range. -/
theorem argWrites_range {k : Nat} {l : List W32} {w : Nat × W32} (h : w ∈ argWrites k l) :
    ∃ i, k ≤ i ∧ i < k + l.length ∧ w.1 = 0x10 + 4 * i := by
  obtain ⟨⟨v, i⟩, hm, rfl⟩ := List.mem_map.mp h
  obtain ⟨h1, h2, -⟩ := List.mem_zipIdx hm
  exact ⟨i, h1, h2, rfl⟩

/-- An argument's register holds the argument after the writes. -/
theorem regGet_argWrites {l : List W32} {i : Nat} {v : W32} (h : l[i]? = some v) (k : Nat) (s : State) :
    regGet ((argWrites k l).foldl (fun s w => regPut s (0x20000 + w.1) w.2) s) (0x20010 + 4 * (k + i)) = v := by
  induction l generalizing k i s with
  | nil => cases h
  | cons x l ih =>
    rw [argWrites_cons, List.foldl_cons]
    cases i with
    | zero =>
      cases h
      rw [regGet_foldl_regPut_of_not_mem, show 0x20000 + (0x10 + 4 * k) = 0x20010 + 4 * (k + 0) by omega, regGet_regPut_same]
      intro w hw
      obtain ⟨j, hj, -, hw⟩ := argWrites_range hw
      omega
    | succ i => rw [show 0x20010 + 4 * (k + (i + 1)) = 0x20010 + 4 * (k + 1 + i) by omega, ih h]

/-- The writes of an issue after those of the arguments: the buffer and the command. -/
def tailWrites (opc : Nat) (r : MbxReq) : List (Nat × W32) :=
  (match r.buf with
   | some b => [(0x50, b.addr.setWidth 32), (0x54, w32 (b.addr.toNat / 2 ^ 32)), (0x58, w32 b.len)]
   | none => []) ++
  [(0, w32 (opc + 2 ^ 16 * b2n r.force + 2 ^ 17 * b2n r.epoch + 2 ^ 18 * b2n r.notify))]

theorem reqWrites_eq (opc : Nat) (r : MbxReq) : reqWrites opc r = argWrites 0 (r.args.take 16) ++ tailWrites opc r :=
  List.append_assoc ..

/-- No write of the buffer or the command is to an argument register. -/
theorem tailWrites_range {opc : Nat} {r : MbxReq} {w : Nat × W32} (h : w ∈ tailWrites opc r) :
    w.1 = 0 ∨ w.1 = 0x50 ∨ w.1 = 0x54 ∨ w.1 = 0x58 := by
  unfold tailWrites at h
  cases hb : r.buf <;> simp only [hb, List.mem_append, List.mem_cons, List.not_mem_nil, or_false, false_or] at h
  · exact .inl (by rw [h])
  · rcases h with (rfl | rfl | rfl) | rfl <;> simp

/-- An issue writes no register outside MBX_CMD to MBX_BUF_LEN. -/
theorem reqWrites_range {opc : Nat} {r : MbxReq} {w : Nat × W32} (h : w ∈ reqWrites opc r) : w.1 ≤ 0x58 := by
  rw [reqWrites_eq, List.mem_append] at h
  rcases h with h | h
  · obtain ⟨i, -, hi, hw⟩ := argWrites_range h
    rw [List.length_take] at hi
    omega
  · have := tailWrites_range h
    omega

/-- The state after the register writes of an issue. -/
def reqDone (opc : Nat) (r : MbxReq) (s : State) : State :=
  (reqWrites opc r).foldl (fun s w => regPut s (0x20000 + w.1) w.2) s

theorem regGet_reqDone_arg {opc : Nat} {r : MbxReq} {i : Nat} {v : W32} (hi : i < 16) (h : r.args[i]? = some v) (s : State) :
    regGet (reqDone opc r s) (0x20010 + 4 * i) = v := by
  have ht : (r.args.take 16)[i]? = some v := by rw [List.getElem?_take_of_lt hi, h]
  rw [reqDone, reqWrites_eq, List.foldl_append, regGet_foldl_regPut_of_not_mem]
  · have hw := regGet_argWrites ht 0 s
    rwa [Nat.zero_add] at hw
  · intro w hw
    have := tailWrites_range hw
    omega

theorem regGet_reqDone_arg_absent {opc : Nat} {r : MbxReq} {i : Nat} (hi : i < 16) (h : r.args.length ≤ i) (s : State) :
    regGet (reqDone opc r s) (0x20010 + 4 * i) = regGet s (0x20010 + 4 * i) := by
  refine regGet_foldl_regPut_of_not_mem (fun w hw => ?_) s
  rw [reqWrites_eq, List.mem_append] at hw
  rcases hw with hw | hw
  · obtain ⟨j, -, hj, hw⟩ := argWrites_range hw
    rw [List.length_take] at hj
    omega
  · have := tailWrites_range hw
    omega

theorem regGet_reqDone_outside {opc : Nat} {r : MbxReq} {o : Nat} (h : o < 0x20000 ∨ 0x20058 < o) (s : State) :
    regGet (reqDone opc r s) o = regGet s o := by
  refine regGet_foldl_regPut_of_not_mem (fun w hw => ?_) s
  have := reqWrites_range hw
  omega

/-! ### The doorbell -/

/-- What an accepted doorbell latches: the request's fields, and the argument registers as the issue left them. -/
theorem mbxAccept_run (opc : Nat) (r : MbxReq) (met : List SramMet) (test : Option SelfTest) (s : State) :
    (mbxAccept opc r met test s).mbx.run = some (mbxLatch opc r met test (reqDone opc r s)) := rfl

theorem regGet_mbxAccept (opc : Nat) (r : MbxReq) (met : List SramMet) (test : Option SelfTest) (s : State) (o : Nat) :
    regGet (mbxAccept opc r met test s) o = regGet (reqDone opc r s) o := by
  have hr : (mbxAccept opc r met test s).regs = (reqDone opc r s).regs := by
    unfold mbxAccept reqDone
    dsimp only
  unfold regGet
  exact congrArg (fun t => tget 0 t o ^^^ regDefault o) hr

theorem mbxLatch_arg (opc : Nat) (r : MbxReq) (met : List SramMet) (test : Option SelfTest) (s : State) {i : Nat} (hi : i < 16) :
    (mbxLatch opc r met test s).args.getD i 0 = regGet s (0x20010 + 4 * i) := by
  unfold mbxLatch
  simp [List.getD_eq_getElem?_getD, hi]

theorem mbxAccept_seq (opc : Nat) (r : MbxReq) (met : List SramMet) (test : Option SelfTest) (s : State) :
    (mbxAccept opc r met test s).mbx.seq = s.mbx.seq + 1 := by
  unfold mbxAccept; dsimp only
  rw [foldl_reqWrites_frame]

theorem mbxLatch_start (opc : Nat) (r : MbxReq) (met : List SramMet) (test : Option SelfTest) (s : State) :
    (mbxLatch opc r met test (reqDone opc r s)).start = now s := by
  rw [reqDone, foldl_reqWrites_frame]
  rfl

/-- An accepted doorbell runs the checks of R91's steps 1 to 4 on the state that the issue left. -/
theorem ring_of_accepted {opc : Nat} {r : MbxReq} {met : List SramMet} {test : Option SelfTest} {s : State} {m : MbxRun}
    (body : MbxRun → State → State) (hr : mbxReached s = true) (hw : s.md.cur ≠ .watch) (hb : s.mbx.st ≠ .busy)
    (hm : (mbxAccept opc r met test s).mbx.run = some m) :
    ring opc r met test body s = mbxDo (preChecks s opc r (m.args.getD 15 0)) (fun u =>
      if mbxLater u opc then { u with mbx := { u.mbx with run := some { m with waitStart := true } } } else body m u)
      (mbxAccept opc r met test s) := by
  have hf : preChecks (mbxAccept opc r met test s) opc r (m.args.getD 15 0) = preChecks s opc r (m.args.getD 15 0) := by
    rw [mbxAccept_frame]; rfl
  unfold ring
  simp only [hr, not_true_eq_false, if_false, hw, hb, hm, hf]

/-- While a command runs, every write of an issue is counted as rejected and does nothing else (R90). -/
theorem ring_of_busy {s : State} (opc : Nat) (r : MbxReq) (met : List SramMet) (test : Option SelfTest)
    (body : MbxRun → State → State) (hr : mbxReached s = true) (hw : s.md.cur ≠ .watch) (hb : s.mbx.st = .busy) :
    ring opc r met test body s =
      { s with mbx := { s.mbx with rejects := satAdd 0xFFFFFFFF s.mbx.rejects ((reqWrites opc r).length + 1) } } := by
  simp only [ring, hr, not_true_eq_false, if_false, hw, hb, if_true]

/-- An opcode outside the catalogue, or a reserved bit, makes the row's doorbell an undefined command. -/
theorem exec_undefinedMailboxOpcode {opc : BitVec 16} {r : MbxReq} (h : ¬ (mbxDefined opc.toNat = true ∧ r.rsvd = 0)) (s : State) :
    exec (.undefinedMailboxOpcode opc r) s = .next (ring opc.toNat r [] none mbxBody s) :=
  if_neg h

/-! ### The order of the checks of R91's steps 1 to 4 -/

theorem firstM_preChecks_rsvd {r : MbxReq} (h : r.rsvd ≠ 0) (s : State) (opc : Nat) (e : W32) :
    firstM (preChecks s opc r e) = some (2, 0x11, 0) := by
  simp only [preChecks, mfail_of_fails (decide_eq_true h), firstM_cons_some]

theorem firstM_preChecks_undefined {r : MbxReq} (h : r.rsvd = 0) {opc : Nat} (hd : mbxDefined opc = false) (s : State) (e : W32) :
    firstM (preChecks s opc r e) = some (1, 0x11, 0) := by
  simp [preChecks, mfail, firstM, h, hd]

theorem firstM_preChecks_epoch {r : MbxReq} (h : r.rsvd = 0) {opc : Nat} (hd : mbxDefined opc = true) (he : r.epoch = true)
    {s : State} {e : W32} (hf : e ≠ s.flt.epoch) : firstM (preChecks s opc r e) = some (0x16, 15, 0) := by
  simp [preChecks, mfail, firstM, h, hd, he, hf]

theorem firstM_preChecks_mode {r : MbxReq} (h : r.rsvd = 0) {opc : Nat} (hd : mbxDefined opc = true) (he : r.epoch = false)
    {s : State} {code : Nat} (hm : modeRefuses s opc = some code) (e : W32) :
    firstM (preChecks s opc r e) = some (code, 0x11, 0) := by
  simp [preChecks, mfail, firstM, h, hd, he, hm]

/-! ### The end of a command (R92, R93, R99) -/

/-- The state in which a command has ended: status, code, results and progress set, no command running. -/
def mbxEnded (st : MbxSt) (code progress : Nat) (res : List (Nat × W32)) (u : State) : State :=
  { u with mbx := { u.mbx with
    st := st, code := code, run := none, progress := progress, results := res.foldl (fun t x => tset 0 t x.1 x.2) [] } }

theorem mbxStop_of_run {u : State} {r : MbxRun} (hr : u.mbx.run = some r) (st : MbxSt) (code : Nat) (res : List (Nat × W32)) :
    mbxStop st code res u =
      let d := mbxEnded st code (if st = .done then 1000 else u.mbx.progress) res u
      if r.notify ∧ (0 ∈ (fnOf u 0).unmasked ∨ (fnOf u 0).msixOn) then msiOwe 0 0 false d else d := by
  unfold mbxStop
  simp only [hr]
  rfl

theorem mbxDone_of_running {u : State} {r : MbxRun} (hr : u.mbx.run = some r) (hl : u.mbx.long = false) (hp : r.paused = false)
    (res : List (Nat × W32)) : mbxDone res u = mbxStop .done 0 res u := by
  unfold mbxDone
  simp only [hr, Option.any_some, hp, hl]
  rfl

theorem mbxFail_of_running {u : State} {r : MbxRun} (hr : u.mbx.run = some r) (hl : u.mbx.long = false) (hp : r.paused = false)
    (c x o : Nat) : mbxFail c x o u = mbxStop .error c [(0, w32 x), (1, w32 o)] u := by
  unfold mbxFail mbxKill
  simp only [hr, Option.any_some, hp, hl]
  rfl

/-- A command that a Vent pauses keeps the end for after the Vent (R90). -/
theorem mbxDone_of_paused {u : State} {r : MbxRun} (hr : u.mbx.run = some r) (hp : r.paused = true) (res : List (Nat × W32)) :
    mbxDone res u = { u with mbx := { u.mbx with run := some { r with fin := some res } } } := by
  simp [mbxDone, hr, hp]

theorem mbxFail_of_paused {u : State} {r : MbxRun} (hr : u.mbx.run = some r) (hp : r.paused = true) (c x o : Nat) :
    mbxFail c x o u = { u with mbx := { u.mbx with run := some { r with finErr := some (c, x, o) } } } := by
  simp [mbxFail, hr, hp]

/-- Settles O55: the doorbell's writes and latch, the order of the checks before a command's body, and the end of a command. -/
theorem mailboxProtocol : Obligations.MailboxProtocol := by
  unfold Obligations.MailboxProtocol
  refine ⟨?accept, ?busy, ?refused, ?done, ?paused, ?failed⟩
  case accept =>
    intro opc r met test s
    refine ⟨rfl, mbxAccept_seq .., rfl, rfl, rfl, rfl, ⟨_, mbxAccept_run .., rfl, rfl, rfl, rfl, mbxLatch_start .., ?_, ?_, ?_⟩,
      mbxAccept_frame .., fun o h => (regGet_mbxAccept ..).trans (regGet_reqDone_outside h s)⟩
    · exact fun i hi => (mbxLatch_arg _ _ _ _ _ hi).trans (regGet_mbxAccept ..).symm
    · exact fun i v hi hv => (mbxLatch_arg _ _ _ _ _ hi).trans (regGet_reqDone_arg hi hv s)
    · exact fun i hi hl => (mbxLatch_arg _ _ _ _ _ hi).trans (regGet_reqDone_arg_absent hi hl s)
  case busy => exact fun opc r met test body s hr hw hb => ring_of_busy opc r met test body hr hw hb
  case refused =>
    intro opc r s hr hw hb
    have ring_eq : ∀ {m}, (mbxAccept opc.toNat r [] none s).mbx.run = some m → ring opc.toNat r [] none mbxBody s = _ :=
      fun hm => ring_of_accepted mbxBody hr hw hb hm
    refine ⟨fun h => ?_, fun h hd => ?_, fun h hd he m hm hf => ?_, fun code h hd he hm => ?_⟩
    · rw [exec_undefinedMailboxOpcode (fun x => h x.2), ring_eq (mbxAccept_run ..), mbxDo_of_fail (firstM_preChecks_rsvd h ..)]
    · rw [exec_undefinedMailboxOpcode (by simp [hd]), ring_eq (mbxAccept_run ..), mbxDo_of_fail (firstM_preChecks_undefined h hd ..)]
    · rw [ring_eq hm, mbxDo_of_fail (firstM_preChecks_epoch h hd he hf)]
    · rw [ring_eq (mbxAccept_run ..), mbxDo_of_fail (firstM_preChecks_mode h hd he hm _)]
  case done => exact fun res u r hr hl hp => (mbxDone_of_running hr hl hp res).trans (mbxStop_of_run hr ..)
  case paused => exact fun res c x o u r hr hp => ⟨mbxDone_of_paused hr hp res, mbxFail_of_paused hr hp c x o⟩
  case failed => exact fun c x o u r hr hl hp => (mbxFail_of_running hr hl hp c x o).trans (mbxStop_of_run hr ..)

end Sys2Proof.Machine

/-!
PROOFS. O56 fails: a TENANT_DESTROY also ends a function level reset that its function still reports (R83, R86), which the statement's
next state leaves as it is.
-/
namespace Sys2Proof.Machine

open Sys2Proof

/-- A mailbox request of the given arguments, with no buffer and no option. -/
def plainReq (args : List W32) : MbxReq := ⟨args, none, false, false, false, 0⟩

/-- A plain request of a state in RUN with an idle mailbox and no activation is issued. -/
theorem issued_plainReq {s : State} (opc : Nat) (args : List W32) (hm : s.md.cur = .run) (hv : s.hold.vent = none)
    (hb : s.mbx.st ≠ .busy) (hf : s.fw.act = none) :
    Issued opc (plainReq args) [] none s (mbxAccept opc (plainReq args) [] none s)
      (mbxLatch opc (plainReq args) [] none (reqDone opc (plainReq args) s)) := by
  refine ⟨?_, hm, hb, rfl, fun h => (nomatch h), hf, rfl, mbxAccept_run ..⟩
  simp [mbxReached, hm, hv]

/-- Tenant 0 is Created, and its function still reports a function level reset with none in progress. -/
def flrLeft : State :=
  { ({} : State) with md := { cur := .run }, tenants := [(0, { st := .created })], fns := [(1, { flr := true })] }

/-- Refutes O56: with the function's FLR still reported, TENANT_DESTROY 0 clears that report, and the statement's next state keeps it. -/
theorem not_deviceAndTenantMailbox : ¬ Obligations.DeviceAndTenantMailbox := by
  unfold Obligations.DeviceAndTenantMailbox
  intro h
  obtain ⟨-, -, -, -, -, -, hdestroy, -⟩ := h
  have hi : Issued 0x0206 (plainReq []) [] none flrLeft _ _ := issued_plainReq 0x0206 [] rfl rfl (by decide) rfl
  obtain ⟨hnow, -⟩ := hdestroy _ _ _ _ hi (by decide) (.inl (by decide)) (by decide) (by decide)
  obtain ⟨t, ht, hp⟩ := hnow (by decide)
  have hdone : (fnOf t 1).flr = false := by
    cases ht
    decide
  have hkept : (fnOf t 1).flr = true := by
    rw [hp]
    decide
  exact Bool.false_ne_true (hdone.symm.trans hkept)

end Sys2Proof.Machine

/-!
PROOFS. An issued mailbox command runs its own function on the state that the doorbell left, which differs from the state before in
the registers and the mailbox alone; and the namespace and profile commands.
-/
namespace Sys2Proof.Machine

open Sys2Proof

/-- An issued command is its own function of the latched run, on a state that differs in the registers and the mailbox alone. -/
theorem exec_issued {opc : Nat} {r : MbxReq} {met : List SramMet} {test : Option SelfTest} {s a : State} {m : MbxRun} (c : Instr)
    (f : MbxRun → State → State) (h : Issued opc r met test s a m) (hd : mbxDefined opc = true := by rfl)
    (hc : exec c s = .next (ring opc r met test mbxBody s) := by rfl)
    (hf : ∀ m u, m.opc = opc → mbxBody m u = f m u := by intro m u h; unfold mbxBody; simp only [h]) :
    ∃ g v x, a = { s with regs := g, rsv := v, mbx := x } ∧ exec c s = .next (f m a) :=
  ⟨_, _, _, issued_frame _ _ _ _ _ _ _ h, by rw [hc, ring_issued _ _ _ _ _ _ _ h hd, hf _ _ (issued_opc _ _ _ _ _ _ _ h)]⟩

theorem mbNsCreate_of_room {m : MbxRun} {u : State} {n : Ns} (h1 : 1 ≤ argN m 0) (h2 : argN m 0 ≤ 4096) (h3 : argN m 1 ≤ 1)
    (h4 : argN m 1 = 1 → argN m 2 ≤ 4) (h5 : argN m 3 ≠ 0) (h6 : nsOf u (argN m 0) = none)
    (hn : n = { zoned := argN m 1 = 1, zcode := if argN m 1 = 1 then argN m 2 else 0, size := argN m 3 })
    (h7 : nssBytes u (fun _ => true) + nsBytes n ≤ rawBytes u)
    (h8 : n.zoned = false → 100 * (nssBytes u (fun x => !x.zoned) + nsBytes n) ≤ rawBytes u) :
    mbNsCreate m u = mbxDone [(0, w32 (nsBlocks n)), (1, w32 (nsBlocks n / 2 ^ 32))] (setNs (argN m 0) (some n) u) := by
  have hz : n.zoned = decide (argN m 1 = 1) := by rw [hn]
  have hs : n.size = argN m 3 := by rw [hn]
  unfold mbNsCreate
  rw [← hn]
  refine mbxDo_of_pass ?_ _ _
  have hraw : (decide (rawBytes u < nssBytes u (fun _ => true) + nsBytes n) || (!n.zoned && decide (rawBytes u <
      100 * (nssBytes u (fun m => !m.zoned) + (if n.zoned then 0 else nsBytes n))))) = false := by
    cases hz' : n.zoned
    · have := h8 hz'
      simp; omega
    · simp; omega
  simp only [hraw]
  have hlow : (argN m 0 = 0) = False := eq_false (by omega)
  simpa [badNs, hz, hs, h2, h3, h5, h6, hlow] using h4

theorem mbNsDelete_of_detached {m : MbxRun} {u : State} {n : Ns} (h1 : 1 ≤ argN m 0) (h2 : argN m 0 ≤ 4096)
    (h3 : nsOf u (argN m 0) = some n) (h4 : n.owner = none) (h5 : ∀ e ∈ u.locks, e.2.defined = true → e.2.ns ≠ argN m 0) :
    mbNsDelete m u = mbxDone [] (witness (nsDrop (argN m 0) u)) := by
  have hlow : (argN m 0 = 0) = False := eq_false (by omega)
  have hlock : (u.locks.any fun e => e.2.defined && e.2.ns = argN m 0) = false := by simpa using h5
  unfold mbNsDelete
  simp only [hlock]
  refine mbxDo_of_pass ?_ _ _
  simp [badNs, noNs, h2, h3, h4, hlow]

theorem mbNsAttach_of_detached {m : MbxRun} {u : State} {n : Ns} (h1 : 1 ≤ argN m 0) (h2 : argN m 0 ≤ 4096)
    (h3 : argN m 1 ≤ 1023 ∨ argN m 1 = 0xFFFF) (h4 : nsOf u (argN m 0) = some n) (h5 : n.owner = none)
    (h6 : argN m 1 ≠ 0xFFFF → (tnOf u (argN m 1)).st ≠ .none ∧ (tnOf u (argN m 1)).st ≠ .frozen ∧
      ((tnOf u (argN m 1)).st = .enabled → 0 < ctxFree u)) (h7 : r25Fails u n (argN m 1) = false) :
    mbNsAttach m u = mbxDone [] (nsNotice (argN m 0) (ownerFn (argN m 1))
      (setNs (argN m 0) (some { n with owner := some (argN m 1) }) u)) := by
  have hlow : (argN m 0 = 0) = False := eq_false (by omega)
  have hmine : ((nsOf u (argN m 0)).any fun n => n.owner = some (argN m 1)) = false := by simp [h4, h5]
  unfold mbNsAttach
  simp only [hmine]
  rw [mbxDo_of_pass]
  · simp [h4]
  · by_cases ho : argN m 1 = 0xFFFF
    · simp [badNs, noNs, h2, h4, h5, hlow, ho, ho ▸ h7]
    · obtain ⟨hst, hfr, hctx⟩ := h6 ho
      have hsmall : argN m 1 ≤ 1023 := h3.resolve_right ho
      have hfree : (tnOf u (argN m 1)).st = .enabled → ¬ ctxFree u = 0 := fun he => Nat.pos_iff_ne_zero.mp (hctx he)
      simp +contextual [badNs, noNs, h2, h4, h5, h7, hlow, ho, hst, hfr, hsmall, hfree]

theorem mbNsDetach_of_attached {m : MbxRun} {u : State} {n : Ns} {o : Nat} (h1 : 1 ≤ argN m 0) (h2 : argN m 0 ≤ 4096)
    (h3 : nsOf u (argN m 0) = some n) (h4 : n.owner = some o) (h5 : ownerEnabled u o = false)
    (h6 : o = 0xFFFF ∨ (tnOf u o).st ≠ .frozen) :
    mbNsDetach m u = mbxDone [] (nsNotice (argN m 0) (ownerFn o) (setNs (argN m 0) (some { n with owner := none }) u)) := by
  have hlow : (argN m 0 = 0) = False := eq_false (by omega)
  have ho : (nsOf u (argN m 0)).bind (·.owner) = some o := by rw [h3, Option.bind_some, h4]
  unfold mbNsDetach
  simp only [ho]
  rw [mbxDo_of_pass]
  · simp [h3]
  · rcases h6 with rfl | h6 <;> simp [badNs, *]

theorem mbProfileWrite_of_disabled {m : MbxRun} {u : State} (hb : BufOk m 256 0x4000000) (h1 : argN m 0 ≤ 1023)
    (h2 : (profOf u (argN m 0)).enabled = false) :
    mbProfileWrite m u = mbxDone [] (modProf (argN m 0) (fun x => { x with desc := bufBytes m 256 }) u) := by
  unfold mbProfileWrite
  refine mbxDo_of_pass ?_ _ _
  rw [bufChecks_ok _ _ _ hb, bufLong_ok _ _ _ hb]
  simp [badProf, h1, h2]

/-- What enabling or disabling a profile does once its checks have passed (R179, R180). -/
def profileSet (on : Bool) (no : Nat) (u : State) : State :=
  mbxDone [] (lunCheck (spareCheck (witness (modProf no (fun x => { x with enabled := on }) u))))

/-- PROFILE_ENABLE of a profile that is to change: its own checks, then the change. -/
theorem mbProfileEnable_of_change {m : MbxRun} {u : State} {on : Bool} (h1 : argN m 0 ≤ 1023) (h2 : argN m 1 = if on then 1 else 0)
    (h3 : (profOf u (argN m 0)).enabled = !on) :
    mbProfileEnable m u = mbxDo (if on then enableChecks u (argN m 0) (profOf u (argN m 0))
      else [mfail (0 < boundOf u (argN m 0)) 4 0 (argN m 0)]) (profileSet on (argN m 0)) u := by
  have hpass : firstM [badProf m, mfail (1 < argN m 1) 1 1 (argN m 0)] = none := by
    cases on <;> simp [badProf, h1, h2]
  unfold mbProfileEnable
  rw [mbxDo_of_pass hpass]
  cases on <;> simp [h2, h3] <;> rfl

theorem mbProfileEnable_of_enables {m : MbxRun} {u : State} (h1 : argN m 0 ≤ 1023) (h2 : argN m 1 = 1)
    (h3 : (profOf u (argN m 0)).enabled = false) (h4 : firstM (enableChecks u (argN m 0) (profOf u (argN m 0))) = none) :
    mbProfileEnable m u = profileSet true (argN m 0) u :=
  (mbProfileEnable_of_change (on := true) h1 h2 h3).trans (mbxDo_of_pass h4 _ _)

theorem mbProfileEnable_of_disables {m : MbxRun} {u : State} (h1 : argN m 0 ≤ 1023) (h2 : argN m 1 = 0)
    (h3 : (profOf u (argN m 0)).enabled = true) (h4 : boundOf u (argN m 0) = 0) :
    mbProfileEnable m u = profileSet false (argN m 0) u :=
  (mbProfileEnable_of_change (on := false) h1 h2 h3).trans (mbxDo_of_pass (by simp [h4]) _ _)

/-- A profile that a zone is bound to is not disabled. -/
theorem mbProfileEnable_of_bound {m : MbxRun} {u : State} (h1 : argN m 0 ≤ 1023) (h2 : argN m 1 = 0)
    (h3 : (profOf u (argN m 0)).enabled = true) (h4 : 0 < boundOf u (argN m 0)) :
    mbProfileEnable m u = mbxFail 4 0 (argN m 0) u :=
  (mbProfileEnable_of_change (on := false) h1 h2 h3).trans (mbxDo_of_fail (by
    rw [if_neg Bool.false_ne_true, mfail_of_fails (decide_eq_true h4), firstM_cons_some]) _ _)

theorem mbProfileAttach_of_free {m : MbxRun} {u : State} {n : Ns} (h1 : argN m 0 ≤ 1023) (h2 : 1 ≤ argN m 1) (h3 : argN m 1 ≤ 4096)
    (h4 : argN m 2 ≤ 63) (h5 : (profOf u (argN m 0)).enabled = true) (h6 : nsOf u (argN m 1) = some n)
    (h7 : hintProf n (argN m 2) = none) (h8 : n.hints.length < 64)
    (h9 : ∀ k o, profSlot (profOf u (argN m 0)) = some k → (slotOf u k).cur.isSome = true → n.owner = some o → o = (slotOf u k).owner) :
    mbProfileAttach m u = mbxDone [] (witness (setNs (argN m 1) (some { n with hints := n.hints ++ [(argN m 2, argN m 0)] }) u)) := by
  have hlow : (argN m 1 = 0) = False := eq_false (by omega)
  have hclash : ((profSlot (profOf u (argN m 0))).any fun k => (slotOf u k).cur.isSome &&
      (nsOf u (argN m 1)).any fun n => n.owner.any (· ≠ (slotOf u k).owner)) = false := by
    rw [h6, Bool.eq_false_iff]
    intro hc
    obtain ⟨k, hk, hc⟩ := (Option.any_eq_true ..).mp hc
    obtain ⟨hs, hc⟩ := Bool.and_eq_true_iff.mp hc
    rw [Option.any_some] at hc
    obtain ⟨o, ho, hne⟩ := (Option.any_eq_true ..).mp hc
    exact of_decide_eq_true hne (h9 k o hk hs ho)
  unfold mbProfileAttach
  simp only [hclash]
  rw [mbxDo_of_pass]
  · simp [h6]
  · simp [badProf, badNs, noNs, h1, h3, h4, h5, h6, h7, hlow]
    omega

/-- Settles O57: each command passes its checks on the state that the doorbell left, and acts. -/
theorem namespaceMailbox : Obligations.NamespaceMailbox := by
  unfold Obligations.NamespaceMailbox
  refine ⟨?create, ?delete, ?attach, ?detach, ?write, ?enable, ?profileAttach⟩
  case create =>
    intro r s a m h h1 h2 h3 h4 h5 h6 n h7 h8
    obtain ⟨g, v, x, rfl, e⟩ := exec_issued (.nsCreate r) mbNsCreate h
    exact e.trans (congrArg _ (mbNsCreate_of_room h1 h2 h3 h4 h5 h6 rfl h7 h8))
  case delete =>
    intro r s a m n h h1 h2 h3 h4 h5
    obtain ⟨g, v, x, rfl, e⟩ := exec_issued (.nsDelete r) mbNsDelete h
    exact e.trans (congrArg _ (mbNsDelete_of_detached h1 h2 h3 h4 h5))
  case attach =>
    intro r s a m n h h1 h2 h3 h4 h5 h6 h7
    obtain ⟨g, v, x, rfl, e⟩ := exec_issued (.nsAttach r) mbNsAttach h
    exact e.trans (congrArg _ (mbNsAttach_of_detached h1 h2 h3 h4 h5 h6 h7))
  case detach =>
    intro r s a m n o h h1 h2 h3 h4 h5 h6
    obtain ⟨g, v, x, rfl, e⟩ := exec_issued (.nsDetach r) mbNsDetach h
    exact e.trans (congrArg _ (mbNsDetach_of_attached h1 h2 h3 h4 h5 h6))
  case write =>
    intro r s a m h hb h1 h2
    obtain ⟨g, v, x, rfl, e⟩ := exec_issued (.profileWrite r) mbProfileWrite h
    exact e.trans (congrArg _ (mbProfileWrite_of_disabled hb h1 h2))
  case enable =>
    intro r s a m h h1 p
    obtain ⟨g, v, x, rfl, e⟩ := exec_issued (.profileEnable r) mbProfileEnable h
    exact ⟨fun h2 h3 h4 => e.trans (congrArg _ (mbProfileEnable_of_enables h1 h2 h3 h4)),
      fun h2 h3 h4 => e.trans (congrArg _ (mbProfileEnable_of_disables h1 h2 h3 h4)),
      fun h2 h3 h4 => e.trans (congrArg _ (mbProfileEnable_of_bound h1 h2 h3 h4))⟩
  case profileAttach =>
    intro r s a m n h h1 h2 h3 h4 h5 h6 h7 h8 h9
    obtain ⟨g, v, x, rfl, e⟩ := exec_issued (.profileAttach r) mbProfileAttach h
    exact e.trans (congrArg _ (mbProfileAttach_of_free h1 h2 h3 h4 h5 h6 h7 h8 h9))

end Sys2Proof.Machine

/-!
PROOFS. The mailbox commands of keys, lock ranges and sanitize (chapters 12 and 13).
-/
namespace Sys2Proof.Machine

open Sys2Proof

/-- Mapping a table leaves at a key its default or the image of some value. -/
theorem tget_tmap_cases {α : Type} [DecidableEq α] (d : α) (f : Nat → α → α) (t : Table α) (i : Nat) :
    tget d (tmap d f t) i = d ∨ ∃ x, tget d (tmap d f t) i = f i x := by
  induction t with
  | nil => exact .inl rfl
  | cons p t ih =>
    obtain ⟨k, v⟩ := p
    unfold tmap at ih ⊢
    rw [List.map_cons, List.filter_cons]
    split
    · rw [tget_cons]
      split
      · next hk => exact .inr ⟨v, by rw [hk]⟩
      · exact ih
    · exact ih

/-- The epochs of a zeroized slot are gone (R267). -/
theorem slotOf_zeroizeSlots {ks : Nat → Bool} {k : Nat} (h : ks k = true) (s : State) :
    (slotOf (zeroizeSlots ks s) k).cur = none ∧ (slotOf (zeroizeSlots ks s) k).prev = none := by
  unfold zeroizeSlots slotOf
  dsimp only
  generalize (fuaCheck _).vault.live.slots = t
  rcases tget_tmap_cases {} (fun k sl => if ks k then emptied sl else sl) t k with ht | ⟨x, ht⟩
  · rw [ht]; exact ⟨rfl, rfl⟩
  · rw [ht, if_pos h]; exact ⟨rfl, rfl⟩

/-- What a doorbell latches is not paused and starts at once. -/
theorem issued_latch {opc : Nat} {r : MbxReq} {met : List SramMet} {test : Option SelfTest} {s a : State} {m : MbxRun}
    (h : Issued opc r met test s a m) :
    m.opc = opc ∧ m.paused = false ∧ m.waitStart = false ∧ m.met = met ∧ m.test = test ∧ a.mbx.run = some m ∧
      a.mbx.long = mbxLong opc := by
  obtain ⟨-, -, -, -, -, -, rfl, hm⟩ := h
  rw [mbxAccept_run, Option.some.injEq] at hm
  subst hm
  exact ⟨rfl, rfl, rfl, rfl, rfl, mbxAccept_run .., rfl⟩

/-- The end in DONE of a command that is not long and that no Vent pauses. -/
theorem mbxDone_of_short {u : State} {m : MbxRun} (hr : u.mbx.run = some m) (hp : m.paused = false) (hl : u.mbx.long = false)
    (res : List (Nat × W32)) : mbxDone res u = mbxStop .done 0 res u :=
  mbxDone_of_running hr hl hp res

theorem mbKeyLoadWrapped_of_unwraps {m : MbxRun} {u : State} {key : List Byte} (hb : BufOk m 40 0x4000000)
    (h1 : keyEntryBarred u = false) (h2 : u.co.role = true) (h3 : argN m 0 ≤ 2047) (h4 : slotCheck u (argN m 0) (argN m 1) m.force = 0)
    (h5 : u.vault.live.kek.isSome = true) (h6 : unwrapKey u (bufBytes m 40) 32 = some key) :
    mbKeyLoadWrapped m u = let v := loadKey (argN m 0) (argN m 1) key u
      mbxDone [(0, w32 (((slotOf v (argN m 0)).cur.map KeyEp.epoch).getD 0))] v := by
  have hk : u.vault.live.kek.isNone = false := by rw [← Option.not_isSome, h5]; rfl
  unfold mbKeyLoadWrapped
  simp only [h6]
  refine mbxDo_of_pass ?_ _ _
  rw [bufChecks_ok _ _ _ hb, bufLong_ok _ _ _ hb]
  simp [keyBarred, badSlot, slotCheckFail, h1, h2, h3, h4, hk]

theorem mbKeyZeroizeSlot_of_slot {m : MbxRun} {u : State} (h : argN m 0 ≤ 2047) :
    mbKeyZeroizeSlot m u = let v := zeroizeSlots (fun i => i = argN m 0) u
      mbxDone [] (recordAs (fun k => { k with slots := tset {} k.slots (argN m 0) (wrapSlot (slotOf v (argN m 0))) }) v) := by
  unfold mbKeyZeroizeSlot
  exact mbxDo_of_pass (by simp [badSlot, h]) _ _

theorem mbKeySetCeiling_of_above {m : MbxRun} {u : State} (h1 : argN m 0 ≤ 2047) (h2 : 1 ≤ arg64 m 1) (h3 : arg64 m 1 ≤ 2 ^ 48)
    (h4 : (slotOf u (argN m 0)).cur.isSome = true) (h5 : (slotOf u (argN m 0)).hwm < arg64 m 1) :
    mbKeySetCeiling m u = mbxDone [] (recordVault (modSlot (argN m 0) (fun x => { x with ceiling := arg64 m 1 }) u)) := by
  have hs : (slotOf u (argN m 0)).cur.isNone = false := by rw [← Option.not_isSome, h4]; rfl
  have hc : (decide (arg64 m 1 = 0) || decide (2 ^ 48 < arg64 m 1)) = false := by simp; omega
  unfold mbKeySetCeiling
  refine mbxDo_of_pass ?_ _ _
  simp only [hc, hs]
  simp [badSlot, h1, h5]

/-- A length of 0 removes the range (log 35). -/
theorem mbLockDefine_of_empty {m : MbxRun} {u : State} (h1 : argN m 0 ≤ 255) (h2 : (lockOf u (argN m 0)).locked = false)
    (h3 : arg64 m 4 = 0) : mbLockDefine m u = mbxDone [] (witness (setLock (argN m 0) {} u)) := by
  unfold mbLockDefine
  simp only [h3, if_true]
  exact mbxDo_of_pass (by simp [h1, h2]) _ _

theorem mbLockDefine_of_free {m : MbxRun} {u : State} {n : Ns} (h1 : argN m 0 ≤ 255) (h2 : (lockOf u (argN m 0)).locked = false)
    (hb : BufOk m 64 0x4000000) (h3 : 1 ≤ argN m 1) (h4 : argN m 1 ≤ 4096) (h5 : nsOf u (argN m 1) = some n) (h6 : 0 < arg64 m 4)
    (h7 : arg64 m 2 % 16 = 0) (h8 : arg64 m 4 % 16 = 0) (h9 : arg64 m 2 + arg64 m 4 ≤ nsBlocks n)
    (h10 : ∀ e ∈ u.locks, e.1 ≠ argN m 0 → e.2.defined = true → e.2.ns = argN m 1 →
      meets e.2.start e.2.len (arg64 m 2) (arg64 m 4) = false) :
    mbLockDefine m u = mbxDone [] (witness (setLock (argN m 0)
      ⟨argN m 1, arg64 m 2, arg64 m 4, (bufBytes m 64).take 16, (bufBytes m 64).drop 16, true, false, 0, 5⟩ u)) := by
  have hlen : ¬ arg64 m 4 = 0 := Nat.pos_iff_ne_zero.mp h6
  have hns : (argN m 1 = 0) = False := eq_false (Nat.pos_iff_ne_zero.mp h3)
  have hother : (u.locks.any fun e => e.1 ≠ argN m 0 && e.2.defined && e.2.ns = argN m 1 &&
      meets e.2.start e.2.len (arg64 m 2) (arg64 m 4)) = false := by
    rw [Bool.eq_false_iff]
    intro h
    obtain ⟨e, he, hm⟩ := List.any_eq_true.mp h
    simp only [Bool.and_eq_true, decide_eq_true_eq] at hm
    obtain ⟨⟨⟨hi, hd⟩, hn⟩, hm⟩ := hm
    exact Bool.false_ne_true ((h10 e he hi hd hn).symm.trans hm)
  have hcap : arg64 m 2 < nsBlocks n := by omega
  unfold mbLockDefine
  simp only [hlen, if_false, hother]
  refine mbxDo_of_pass ?_ _ _
  rw [bufChecks_ok _ _ _ hb, bufLong_ok _ _ _ hb]
  simp [badNs, noNs, h1, h2, h4, h5, h7, h8, h9, hns, hcap]

/-! ### LOCK_SET (R307, R308) -/

/-- With no command left to wait for, the end of LOCK_SET is at once. -/
theorem lockSetEnd_of_no_wait {u : State} {m : MbxRun} (hr : u.mbx.run = some m) (ho : m.opc = 0x0406) (hp : m.paused = false)
    (hs : m.waitStart = false) (hw : m.wait = []) :
    lockSetEnd u =
      let v := if m.aux = 0 then u else
        { u with locks := tset {} u.locks (argN m 0) { (tget {} u.locks (argN m 0)) with locked := false, attempts := 5 } }
      mbxStop .done 0 [(2, lockLeft v (argN m 0))] v := by
  have hno : (u.cmds.any fun c => c.id ∈ ([] : List CmdId) && c.phase ≠ .decided) = false := by simp
  unfold lockSetEnd
  simp only [hr, hw, hno, ho, hp, hs]
  rfl

/-- The end of a command depends on what runs in its request for a message alone. -/
theorem mbxStop_run (u : State) (m m' : MbxRun) (hr : u.mbx.run = some m) (hn : m'.notify = m.notify) (st : MbxSt) (code : Nat)
    (res : List (Nat × W32)) : mbxStop st code res { u with mbx := { u.mbx with run := some m' } } = mbxStop st code res u := by
  unfold mbxStop
  simp only [hr, Option.any_some, hn]

/-- The state in which an accepted LOCK_SET waits for the commands that touch its range. -/
def lockGo (m : MbxRun) (wait : List CmdId) (u : State) : State :=
  lockSetEnd { u with mbx := { u.mbx with run := some { m with wait := wait, aux := b2n (decide (argN m 1 = 0)) } } }

/-- What LOCK_SET does once its checks have passed. -/
theorem mbLockSet_of_pass {m : MbxRun} {u : State} (h1 : argN m 0 ≤ 255) (h2 : argN m 1 ≤ 1)
    (hb : argN m 1 = 0 → BufOk m 1 64) (h3 : (lockOf u (argN m 0)).defined = true) :
    mbLockSet m u =
      let l := lockOf u (argN m 0)
      let wait := (u.cmds.filter (cmdTouches u l)).map Cmd.id
      if ¬ argN m 1 = 0 then
        lockGo m wait (setLock (argN m 0) { l with locked := true, since := if l.locked then l.since else u.nextOrd } u)
      else if l.attempts = 0 then mbxStop .error 7 [(0, w32 0), (1, w32 (argN m 0)), (2, lockLeft u (argN m 0))] u
      else if sha384 (l.salt ++ bufBytes m (bufLen m)) = l.verifier then lockGo m wait u
      else
        let v := setLock (argN m 0) { l with attempts := l.attempts - 1 } u
        mbxStop .error 7 [(0, w32 0x10), (1, w32 (argN m 0)), (2, lockLeft v (argN m 0))] v := by
  unfold mbLockSet
  refine (mbxDo_of_pass ?_ _ _).trans ?_
  · by_cases h : argN m 1 = 0
    · simp only [h, if_true]
      rw [bufChecks_ok _ _ _ (hb h), bufLong_ok _ _ _ (hb h)]
      simp [h1, h3]
    · simp [h, h1, h2, h3]
  · rfl

@[simp] theorem lockLeft_setLock (i : Nat) (l : LockRange) (u : State) : lockLeft (setLock i l u) i = w32 l.attempts := by
  unfold lockLeft setLock
  rw [tget_tset_same]

/-- A lock that waits for no command ends at once. -/
theorem lockGo_of_lock {u : State} {m : MbxRun} (hr : u.mbx.run = some m) (ho : m.opc = 0x0406) (hp : m.paused = false)
    (hs : m.waitStart = false) (h : ¬ argN m 1 = 0) :
    lockGo m [] u = mbxStop .done 0 [(2, lockLeft u (argN m 0))] u := by
  unfold lockGo
  rw [decide_eq_false h]
  exact (lockSetEnd_of_no_wait (m := { m with wait := [], aux := 0 }) rfl ho hp hs rfl).trans (mbxStop_run u m _ hr rfl ..)

/-- An unlock that waits for no command takes effect and ends at once. -/
theorem lockGo_of_unlock {u : State} {m : MbxRun} (hr : u.mbx.run = some m) (ho : m.opc = 0x0406) (hp : m.paused = false)
    (hs : m.waitStart = false) (h : argN m 1 = 0) :
    lockGo m [] u = mbxStop .done 0 [(2, 5)] (setLock (argN m 0) { lockOf u (argN m 0) with locked := false, attempts := 5 } u) := by
  have hleft := lockLeft_setLock (argN m 0) { lockOf u (argN m 0) with locked := false, attempts := 5 } u
  unfold lockGo
  rw [decide_eq_true h, show (5 : W32) = w32 5 from rfl, ← hleft]
  exact (lockSetEnd_of_no_wait (m := { m with wait := [], aux := 1 }) rfl ho hp hs rfl).trans (mbxStop_run (setLock ..) m _ hr rfl ..)

section
variable {m : MbxRun} {u : State} (hr : u.mbx.run = some m) (ho : m.opc = 0x0406) (hp : m.paused = false)
  (hs : m.waitStart = false) (hl : u.mbx.long = false) (h1 : argN m 0 ≤ 255) (h2 : (lockOf u (argN m 0)).defined = true)
include hr ho hp hs hl h1 h2

theorem mbLockSet_of_lock (h3 : argN m 1 = 1) (h4 : ∀ c ∈ u.cmds, cmdTouches u (lockOf u (argN m 0)) c = false) :
    mbLockSet m u = let l := lockOf u (argN m 0)
      mbxDone [(2, w32 l.attempts)] (setLock (argN m 0) { l with locked := true, since := if l.locked then l.since else u.nextOrd } u) := by
  have hne : ¬ argN m 1 = 0 := by omega
  have hwait : u.cmds.filter (cmdTouches u (lockOf u (argN m 0))) = [] := List.filter_eq_nil_iff.mpr (by simpa using h4)
  rw [mbLockSet_of_pass h1 (by omega) (fun h => absurd h hne) h2]
  simp only [hne, not_false_eq_true, if_true, hwait, List.map_nil]
  refine (lockGo_of_lock (by exact hr) ho hp hs hne).trans ?_
  rw [lockLeft_setLock]
  exact (mbxDone_of_running (u := setLock ..) hr hl hp _).symm

theorem mbLockSet_of_password (h3 : argN m 1 = 0) (hb : BufOk m 1 64) (h4 : 0 < (lockOf u (argN m 0)).attempts)
    (h5 : sha384 ((lockOf u (argN m 0)).salt ++ bufBytes m (bufLen m)) = (lockOf u (argN m 0)).verifier)
    (h6 : ∀ c ∈ u.cmds, cmdTouches u (lockOf u (argN m 0)) c = false) :
    mbLockSet m u = mbxDone [(2, 5)] (setLock (argN m 0) { lockOf u (argN m 0) with locked := false, attempts := 5 } u) := by
  have hwait : u.cmds.filter (cmdTouches u (lockOf u (argN m 0))) = [] := List.filter_eq_nil_iff.mpr (by simpa using h6)
  have hleft : ¬ (lockOf u (argN m 0)).attempts = 0 := by omega
  rw [mbLockSet_of_pass h1 (by omega) (fun _ => hb) h2]
  simp only [h3, not_true_eq_false, if_false, hleft, h5, if_true, hwait, List.map_nil]
  refine (lockGo_of_unlock hr ho hp hs h3).trans ?_
  exact (mbxDone_of_running (u := setLock ..) hr hl hp _).symm

end

/-- A wrong password costs one attempt. -/
theorem mbLockSet_of_wrong_password {m : MbxRun} {u : State} (h1 : argN m 0 ≤ 255)
    (h2 : (lockOf u (argN m 0)).defined = true) (h3 : argN m 1 = 0) (hb : BufOk m 1 64) (h4 : 0 < (lockOf u (argN m 0)).attempts)
    (h5 : sha384 ((lockOf u (argN m 0)).salt ++ bufBytes m (bufLen m)) ≠ (lockOf u (argN m 0)).verifier) :
    mbLockSet m u = let l := lockOf u (argN m 0)
      mbxStop .error 7 [(0, 0x10), (1, w32 (argN m 0)), (2, w32 (l.attempts - 1))]
        (setLock (argN m 0) { l with attempts := l.attempts - 1 } u) := by
  have hleft : ¬ (lockOf u (argN m 0)).attempts = 0 := by omega
  rw [mbLockSet_of_pass h1 (by omega) (fun _ => hb) h2]
  simp only [h3, not_true_eq_false, if_false, hleft, h5, lockLeft_setLock]
  rfl

theorem mbLockSet_of_no_attempts {m : MbxRun} {u : State} (h1 : argN m 0 ≤ 255)
    (h2 : (lockOf u (argN m 0)).defined = true) (h3 : argN m 1 = 0) (hb : BufOk m 1 64) (h4 : (lockOf u (argN m 0)).attempts = 0) :
    mbLockSet m u = mbxStop .error 7 [(0, 0), (1, w32 (argN m 0)), (2, 0)] u := by
  have hleft : lockLeft u (argN m 0) = 0 := congrArg w32 h4
  rw [mbLockSet_of_pass h1 (by omega) (fun _ => hb) h2]
  simp only [h3, not_true_eq_false, if_false, h4, if_true, hleft]
  rfl

theorem mbSanitize_of_free {m : MbxRun} {u : State} (h1 : argN m 0 = 1 ∨ argN m 0 = 2)
    (h2 : argN m 1 = 0xFFFFFFFF ∨ (1 ≤ argN m 1 ∧ argN m 1 ≤ 4096 ∧ (nsOf u (argN m 1)).isSome = true))
    (h3 : ∀ e ∈ u.nss, sanHits (argN m 1) e.1 = true → ∀ n o, e.2 = some n → n.owner = some o → ownerEnabled u o = false) :
    mbSanitize m u = sanStart (argN m 0) (argN m 1) u := by
  have hfind : (u.nss.find? fun e => sanHits (argN m 1) e.1 && e.2.any fun n => n.owner.any (ownerEnabled u)) = none := by
    rw [List.find?_eq_none]
    intro e he hc
    obtain ⟨hh, hc⟩ := Bool.and_eq_true_iff.mp hc
    obtain ⟨n, hn, hc⟩ := (Option.any_eq_true ..).mp hc
    obtain ⟨o, ho, hc⟩ := (Option.any_eq_true ..).mp hc
    exact Bool.false_ne_true ((h3 e he hh n o hn ho).symm.trans hc)
  have hact : (argN m 0 ≠ 1 && argN m 0 ≠ 2) = false := by rcases h1 with h | h <;> rw [h] <;> rfl
  have hns : (argN m 1 ≠ 0xFFFFFFFF && (argN m 1 = 0 || 4096 < argN m 1)) = false ∧
      (argN m 1 ≠ 0xFFFFFFFF && (nsOf u (argN m 1)).isNone) = false := by
    rcases h2 with h | ⟨hl, hu, hs⟩
    · simp [h]
    · have hno : (nsOf u (argN m 1)).isNone = false := by rw [← Option.not_isSome, hs]; rfl
      simp [hno]
      omega
  unfold mbSanitize
  refine mbxDo_of_pass ?_ _ _
  simp only [hfind, hact, hns]
  rfl

/-- Settles O58: each command passes its checks on the state that the doorbell left, and acts. -/
theorem keyAndLockMailbox : Obligations.KeyAndLockMailbox := by
  unfold Obligations.KeyAndLockMailbox
  refine ⟨?load, ?zeroize, ?zeroizeAll, ?ceiling, ?define, ?lock, ?sanitize⟩
  case load =>
    intro r s a m key h hb h1 h2 h3 h4 h5 h6
    obtain ⟨g, v, x, rfl, e⟩ := exec_issued (.keyLoadWrapped r) mbKeyLoadWrapped h
    exact e.trans (congrArg _ (mbKeyLoadWrapped_of_unwraps hb h1 h2 h3 h4 h5 h6))
  case zeroize =>
    intro r s a m h h1
    obtain ⟨g, v, x, -, e⟩ := exec_issued (.keyZeroizeSlot r) mbKeyZeroizeSlot h
    exact ⟨e.trans (congrArg _ (mbKeyZeroizeSlot_of_slot h1)), slotOf_zeroizeSlots (decide_eq_true rfl) a⟩
  case zeroizeAll =>
    intro r s a m h
    obtain ⟨g, v, x, -, e⟩ := exec_issued (.keyZeroizeAll r) (fun _ => mbKeyZeroizeAll) h
    exact e
  case ceiling =>
    intro r s a m h h1 h2 h3 h4 h5
    obtain ⟨g, v, x, rfl, e⟩ := exec_issued (.keySetCeiling r) mbKeySetCeiling h
    exact e.trans (congrArg _ (mbKeySetCeiling_of_above h1 h2 h3 h4 h5))
  case define =>
    intro r s a m h h1 h2
    obtain ⟨g, v, x, rfl, e⟩ := exec_issued (.lockDefine r) mbLockDefine h
    exact ⟨fun h3 => e.trans (congrArg _ (mbLockDefine_of_empty h1 h2 h3)), fun n hb h3 h4 h5 h6 h7 h8 h9 h10 =>
      e.trans (congrArg _ (mbLockDefine_of_free h1 h2 hb h3 h4 h5 h6 h7 h8 h9 h10))⟩
  case lock =>
    intro r s a m h h1 l h2
    obtain ⟨ho, hp, hs, -, -, hr, hl⟩ := issued_latch h
    obtain ⟨g, v, x, rfl, e⟩ := exec_issued (.lockSet r) mbLockSet h
    exact ⟨fun h3 h4 => e.trans (congrArg _ (mbLockSet_of_lock hr ho hp hs hl h1 h2 h3 h4)),
      fun h3 hb h4 h5 h6 => e.trans (congrArg _ (mbLockSet_of_password hr ho hp hs hl h1 h2 h3 hb h4 h5 h6)),
      fun h3 hb h4 h5 => e.trans (congrArg _ (mbLockSet_of_wrong_password h1 h2 h3 hb h4 h5)),
      fun h3 hb h4 => e.trans (congrArg _ (mbLockSet_of_no_attempts h1 h2 h3 hb h4))⟩
  case sanitize =>
    intro r s a m h h1 h2 h3
    obtain ⟨g, v, x, rfl, e⟩ := exec_issued (.sanitize r) mbSanitize h
    exact e.trans (congrArg _ (mbSanitize_of_free h1 h2 h3))

end Sys2Proof.Machine

/-!
PROOFS. The management sideband: NVMe-MI requests, and the SPDM responder.
-/
namespace Sys2Proof.Machine

open Sys2Proof

/-! ### Packets (R353, R412) -/

/-- Equal next states are equal outcomes. -/
theorem next_congr {s t : State} (h : s = t) : (.next s : Outcome State Fault Refusal) = .next t := by
  rw [h]

/-- With the core domain on, a packet is answered. -/
theorem mctp_of_on {s : State} (h : coreOn s = true) (reply : State → State) : mctp reply s = reply s := by
  simp [mctp, h]

/-- With the core domain off, a packet wakes the device instead. -/
theorem mctp_of_off {s : State} (h : coreOn s = false) (reply : State → State) : mctp reply s = wakeWatch 5 0 s := by
  simp [mctp, h]

theorem watch_of_coreOff {s : State} (h : coreOn s = false) : s.md.cur = .watch := by
  unfold coreOn at h
  simpa using (Bool.or_eq_false_iff.mp h).1

theorem spdmServed_of_ok {s : State} (h : coreOn s = true) (hst : s.sec.st ≠ 2) {ok : Bool} (hok : ok = true) (reply : State → State) :
    spdmServed ok reply s = reply s := by
  rw [spdmServed, mctp_of_on h]
  simp [hst, hok]

/-- The cryptographic error state answers with ERROR. -/
theorem spdmServed_of_error {s : State} (h : coreOn s = true) (hst : s.sec.st = 2) (ok : Bool) (reply : State → State) :
    spdmServed ok reply s = emit .spdmError s := by
  rw [spdmServed, mctp_of_on h]
  simp [hst]

/-- A wake from WATCH asks for the core supply, unless one runs or PERST_N is low (R357 to R359). -/
theorem wakeWatch_of_asleep {s : State} (h : s.md.cur = .watch) (ht : s.pwr.trans = none) (hp : perstLow s = false) (src ch : Nat) :
    wakeWatch src ch s = { wakeRecord src ch 4 s.pwr.cyclesNow s with
      pwr := { (wakeRecord src ch 4 s.pwr.cyclesNow s).pwr with trans := some ⟨s.pwr.lastOp, true, true, none⟩ },
      pace := { s.pace with avsOut := some 750, avsAt := now s } } := by
  unfold wakeWatch
  rw [if_pos ⟨h, ht, hp⟩]
  rfl

theorem wakeWatch_of_waking {s : State} (h : s.pwr.trans ≠ none ∨ perstLow s = true) (src ch : Nat) : wakeWatch src ch s = s := by
  unfold wakeWatch
  rw [if_neg]
  rintro ⟨-, ht, hp⟩
  rcases h with h | h
  · exact h ht
  · exact Bool.false_ne_true (hp.symm.trans h)

/-- The sideband requests that wake the device from WATCH all do the same there. -/
theorem exec_of_coreOff {s : State} (h : coreOn s = false) {c : Instr}
    (hc : c ∈ [Instr.fleetWitnessRead, .sidebandHealthRequest, .getVersion, .getCapabilities]) : exec c s = .next (wakeWatch 5 0 s) := by
  simp only [List.mem_cons, List.not_mem_nil, or_false] at hc
  rcases hc with rfl | rfl | rfl | rfl <;> exact next_congr (mctp_of_off h _)

theorem witnessData_length (s : State) : (witnessData s).length = 56 := by
  simp [witnessData, zeros_length]

/-- Settles O46: what each request answers, and the wake from WATCH that it asks for instead. -/
theorem sidebandAnswers : Obligations.SidebandAnswers := by
  unfold Obligations.SidebandAnswers
  refine ⟨fun s => ⟨_, rfl, ⟨_, leBytes_length 8 _, rfl⟩, rfl⟩, fun s h => ?_, fun s h => ?_, fun c s hc h => ⟨fun ht hp => ?_, ?_, ?_⟩⟩
  · exact ⟨_, next_congr (mctp_of_on h _), rfl, witnessData_length s⟩
  · exact ⟨_, next_congr (mctp_of_on h _), ⟨_, _, leBytes_length 1 _, leBytes_length 6 _, rfl⟩, rfl⟩
  · exact ⟨_, (exec_of_coreOff h hc).trans (next_congr (wakeWatch_of_asleep (watch_of_coreOff h) ht hp 5 0)), rfl, rfl, rfl, rfl, rfl⟩
  · exact fun ht => (exec_of_coreOff h hc).trans (next_congr (wakeWatch_of_waking (.inl ht) 5 0))
  · exact fun hp => (exec_of_coreOff h hc).trans (next_congr (wakeWatch_of_waking (.inr hp) 5 0))

/-! ### Requests that draw on the DRBG (R408 to R411) -/

/-- With samples at hand a request that draws on the DRBG is answered. -/
theorem drawn_of_ready {s : State} (h1 : s.sec.startUp = 0) (h2 : s.sec.fill = 0) (w : SpdmWait) : drawn w s = spdmAnswer w s := by
  unfold drawn
  rw [if_pos ⟨h1, h2⟩]

theorem drawn_of_filling {s : State} (h : s.sec.startUp ≠ 0 ∨ s.sec.fill ≠ 0) (w : SpdmWait) :
    drawn w s = { s with sec := { s.sec with waits := s.sec.waits ++ [w] } } := by
  unfold drawn
  rw [if_neg]
  exact fun hc => h.elim (· hc.1) (· hc.2)

/-- The state after `k` generate requests. -/
def drawnReqs (k : Nat) (s : State) : State :=
  { s with sec := { s.sec with drbgReqs := s.sec.drbgReqs + k }, freeCtr := s.freeCtr + k }

/-- A generate request gives as many bytes as it asks for (R408). -/
theorem drbgBytes_shape (n : Nat) (s : State) : ∃ b : List Byte, b.length = n ∧ drbgBytes n s = (b, drawnReqs 1 s) :=
  ⟨_, leBytes_length n _, rfl⟩

/-- A signed reply: its nonce and its signature are two generate requests. -/
theorem signed_shape (body : List Byte) (s : State) : ∃ n g : List Byte, n.length = 32 ∧ g.length = 96 ∧
    signed body s = emit (.spdm (body ++ n ++ zeros 2 ++ g)) (drawnReqs 2 s) := by
  obtain ⟨n, hn, e⟩ := drbgBytes_shape 32 s
  obtain ⟨g, hg, e'⟩ := drbgBytes_shape 96 (drawnReqs 1 s)
  refine ⟨n, g, hn, hg, ?_⟩
  unfold signed
  rw [e]
  dsimp only
  rw [e']
  rfl

/-- A key exchange whose pair passes opens a session with a key of the DRBG. -/
theorem exchanged_of_ok {s : State} (h : s.sec.sessions.length < 4) : ∃ k b : List Byte, k.length = 48 ∧
    exchanged true s = emit (.spdm b) { drawnReqs 4 s with sec := { (drawnReqs 4 s).sec with
      sessions := s.sec.sessions ++ [{ id := s.sec.sessNext, key := k }], sessNext := (s.sec.sessNext + 1) % 65536 } } := by
  obtain ⟨k, hk, ek⟩ := drbgBytes_shape 48 s
  obtain ⟨x, -, ex⟩ := drbgBytes_shape 96 (drawnReqs 1 s)
  obtain ⟨n, g, -, -, es⟩ := signed_shape (spdmHead 0x64 0 0 ++ leBytes 2 s.sec.sessNext ++ zeros 2 ++ x)
    { drawnReqs 2 s with sec := { (drawnReqs 2 s).sec with
      sessions := s.sec.sessions ++ [{ id := s.sec.sessNext, key := k }], sessNext := (s.sec.sessNext + 1) % 65536 } }
  refine ⟨k, _, hk, Eq.trans ?_ es⟩
  unfold exchanged
  rw [if_neg (by omega), if_neg (by simp), ek]
  dsimp only
  rw [ex]
  rfl

/-- A pair that fails its test is the cryptographic error state. -/
theorem exchanged_of_failed {s : State} (h : s.sec.sessions.length < 4) :
    exchanged false s = emit .spdmError (keysEnd (cryptoError 0x0D 0 (katPass s) (freeNext s))) := by
  unfold exchanged
  rw [if_neg (by omega), if_pos (by simp)]

theorem foldl_encrypts_frame (l : List Run) (s : State) (g : State → Run → State)
    (hg : ∀ s x, g s x = { s with jobs := (g s x).jobs, ops := (g s x).ops }) :
    l.foldl g s = { s with jobs := (l.foldl g s).jobs, ops := (l.foldl g s).ops } := by
  induction l generalizing s with
  | nil => rfl
  | cons x l ih => rw [List.foldl_cons, ih, hg]

/-- With no frame read under way, the end of the key copies changes jobs, runs and queued operations alone. -/
theorem keysEnd_frame_of_no_reads {s : State} (h : s.rjobs = []) :
    keysEnd s = { s with jobs := (keysEnd s).jobs, ops := (keysEnd s).ops, runs := (keysEnd s).runs } := by
  unfold keysEnd
  split
  · rfl
  · dsimp only
    rw [foldl_encrypts_frame]
    · simp only [h]
      rfl
    · intro u x
      split <;> rfl

/-- The cryptographic error state is entered from RUN in HALT, with no session, no waiting request and no Crypto Officer (R402, R412). -/
theorem cryptoError_of_run {s : State} (h : s.md.cur = .run) (hw : s.sec.waits = []) (fail engine : Nat) (pass : List Nat) :
    let t := cryptoError fail engine pass s
    t.sec.st = 2 ∧ t.sec.fail = fail ∧ t.sec.sessions = [] ∧ t.co.role = false ∧ t.md.cur = .halt ∧ t.md.haltWhy = 1 ∧
      t.sent = s.sent ∧ t.rjobs = s.rjobs := by
  unfold cryptoError waitsEnd coEnd sessionsEnd
  simp only [h, hw, List.foldl_nil]
  rw [capTestCut_frame]
  unfold enterHalt setMode
  simp [h]

/-- Settles O47: each request's answer, the wait for the DRBG, and the answers of the error state. -/
theorem spdmRequests : Obligations.SpdmRequests := by
  unfold Obligations.SpdmRequests
  refine ⟨fun s h => ⟨?_, ?_, ?_⟩, fun s h hst hn => ⟨?_, ?_⟩, fun s h hst hn h1 h2 => ⟨?_, ?_, ?_, ?_⟩, fun n s h hst ho => ⟨?_, ?_, ?_⟩, ?_⟩
  · exact ⟨_, next_congr (mctp_of_on h _), rfl, _, rfl⟩
  · exact ⟨_, next_congr (mctp_of_on h _), _, rfl, rfl⟩
  · exact ⟨_, next_congr (mctp_of_on h _), rfl, _, rfl⟩
  · exact ⟨_, next_congr (spdmServed_of_ok h hst hn _), rfl⟩
  · intro x y c w hc hf
    simp only [List.mem_cons, List.not_mem_nil, or_false, Prod.mk.injEq] at hc
    rcases hc with (⟨rfl, rfl⟩ | ⟨rfl, rfl⟩) | ⟨hl, rfl, rfl⟩
    · exact next_congr ((spdmServed_of_ok h hst hn _).trans (drawn_of_filling hf _))
    · exact next_congr ((spdmServed_of_ok h hst hn _).trans (drawn_of_filling hf _))
    · exact next_congr ((spdmServed_of_ok h hst (by simp [hn, hl]) _).trans (drawn_of_filling hf _))
  · intro x
    obtain ⟨n, g, hln, hlg, hs⟩ := signed_shape (spdmHead 0x03 0 1 ++ sha384 certChain) s
    exact ⟨_, next_congr (((spdmServed_of_ok h hst hn _).trans (drawn_of_ready h1 h2 _)).trans hs), ⟨n, g, hln, hlg, rfl⟩, rfl⟩
  · intro x
    obtain ⟨n, g, hln, hlg, hs⟩ := signed_shape (spdmHead 0x60 0 0 ++ leBytes 1 7 ++ leBytes 3 (measRecord s).length ++ measRecord s) s
    exact ⟨_, next_congr (((spdmServed_of_ok h hst hn _).trans (drawn_of_ready h1 h2 _)).trans hs), ⟨n, g, hln, hlg, rfl⟩, rfl⟩
  · intro x hl
    obtain ⟨k, b, hk, he⟩ := exchanged_of_ok hl
    refine ⟨_, next_congr (((spdmServed_of_ok h hst (by simp [hn, hl]) _).trans (drawn_of_ready h1 h2 _)).trans he),
      ⟨k, hk, rfl⟩, rfl, rfl, ⟨_, rfl⟩, rfl⟩
  · intro x hl hr hj hw
    refine ⟨_, next_congr (((spdmServed_of_ok h hst (by simp [hn, hl]) _).trans (drawn_of_ready h1 h2 _)).trans (exchanged_of_failed hl)), ?_⟩
    obtain ⟨e1, e2, e3, e4, e5, e6, e7, e8⟩ := cryptoError_of_run (s := freeNext s) hr hw 0x0D 0 (katPass s)
    rw [keysEnd_frame_of_no_reads (e8.trans hj)]
    exact ⟨e1, e2, e3, e4, e5, e6, congrArg (Xfer.spdmError :: ·) e7⟩
  · exact ⟨_, next_congr (spdmServed_of_ok h hst ho _), rfl, ⟨_, rfl⟩, rfl⟩
  · exact ⟨_, next_congr (spdmServed_of_ok h hst ho _), ⟨_, leBytes_length 48 _, rfl⟩, ⟨_, rfl⟩, rfl⟩
  · exact ⟨_, next_congr (spdmServed_of_ok h hst ho _), rfl, ⟨_, rfl⟩, rfl⟩
  · intro s x n p h hst c hc
    simp only [List.mem_cons, List.not_mem_nil, or_false] at hc
    rcases hc with rfl | rfl | rfl | rfl | rfl | rfl | rfl <;> exact next_congr (spdmServed_of_error h hst _ _)

end Sys2Proof.Machine

/-!
PROOFS. The migration, log and self-test commands of the mailbox, and the events that end a freeze and a scrub.
-/
namespace Sys2Proof.Machine

open Sys2Proof

/-! ### Ending commands before their status is decided -/

/-- What ending commands keeps: the tenants and the abort counts; and of the commands left, each was there, and is decided where it was. -/
def StopKeeps (s t : State) : Prop :=
  t.tenants = s.tenants ∧ t.mig.aborted = s.mig.aborted ∧
    ∀ d ∈ t.cmds, ∃ c ∈ s.cmds, c.id = d.id ∧ (c.phase = .decided → d.phase = .decided)

namespace StopKeeps

theorem of_eq {s t : State} (h1 : t.tenants = s.tenants) (h2 : t.mig.aborted = s.mig.aborted) (h3 : t.cmds = s.cmds) : StopKeeps s t :=
  ⟨h1, h2, fun d hd => ⟨d, h3 ▸ hd, rfl, fun h => h⟩⟩

theorem refl (s : State) : StopKeeps s s := of_eq rfl rfl rfl

theorem trans {s t u : State} (h1 : StopKeeps s t) (h2 : StopKeeps t u) : StopKeeps s u := by
  refine ⟨h2.1.trans h1.1, h2.2.1.trans h1.2.1, fun d hd => ?_⟩
  obtain ⟨c, hc, hid, hp⟩ := h2.2.2 d hd
  obtain ⟨b, hb, hid', hp'⟩ := h1.2.2 c hc
  exact ⟨b, hb, hid'.trans hid, hp ∘ hp'⟩

theorem foldl {α : Type} {g : State → α → State} (hg : ∀ s x, StopKeeps s (g s x)) (l : List α) (s : State) :
    StopKeeps s (l.foldl g s) := by
  induction l generalizing s with
  | nil => exact refl s
  | cons x l ih => exact (hg s x).trans (ih _)

theorem of_settle {s t : State} (h : SettleFrame s t) : StopKeeps s t := by
  rw [h]
  exact of_eq rfl rfl rfl

/-- A command that is decided stays so while it is there. -/
theorem decided {s t : State} (h : StopKeeps s t) {i : CmdId} (hs : ∀ d ∈ s.cmds, d.id = i → d.phase = .decided) :
    ∀ d ∈ t.cmds, d.id = i → d.phase = .decided := by
  intro d hd hi
  obtain ⟨c, hc, hid, hp⟩ := h.2.2 d hd
  exact hp (hs c hc (hid.trans hi))

end StopKeeps

theorem mem_passToken {f : Nat} {s : State} {d : Cmd} (h : d ∈ (passToken f s).cmds) :
    ∃ c ∈ s.cmds, c.id = d.id ∧ (c.phase = .decided → d.phase = .decided) := by
  unfold passToken at h
  split at h
  · obtain ⟨c, hc, rfl⟩ := List.mem_map.mp h
    refine ⟨c, hc, ?_⟩
    split <;> exact ⟨rfl, fun h => h⟩
  · exact ⟨d, h, rfl, fun h => h⟩

theorem freeSlot_stopKeeps (id : CmdId) (s : State) : StopKeeps s (freeSlot id s) := by
  refine ⟨by rw [freeSlot_frame], by rw [freeSlot_frame], fun d hd => ?_⟩
  unfold freeSlot at hd
  split at hd
  · exact ⟨d, hd, rfl, fun h => h⟩
  · dsimp only at hd
    split at hd
    · obtain ⟨c, hc, hid, hp⟩ := mem_passToken hd
      exact ⟨c, (List.mem_filter.mp hc).1, hid, hp⟩
    · exact ⟨d, (List.mem_filter.mp hd).1, rfl, fun h => h⟩

theorem post_stopKeeps (id : CmdId) (s : State) : StopKeeps s (post id s) := by
  have hm : (post id s).mig.aborted = s.mig.aborted := by rw [post_mig]
  have ht : (post id s).tenants = s.tenants := by rw [post_frame]
  refine ⟨ht, hm, fun d hd => ?_⟩
  unfold post at hd
  split at hd
  · exact ⟨d, hd, rfl, fun h => h⟩
  · split at hd
    · exact (freeSlot_stopKeeps id s).2.2 d hd
    · split at hd
      · split at hd
        · exact (freeSlot_stopKeeps id s).2.2 d hd
        · dsimp only at hd
          split at hd
          · rw [countDone_frame] at hd
            obtain ⟨c, hc, h⟩ := (freeSlot_stopKeeps id _).2.2 d hd
            refine ⟨c, ?_, h⟩
            rwa [countBytes_frame, cqWrite_frame] at hc
          · exact ⟨d, hd, rfl, fun h => h⟩
      · exact (freeSlot_stopKeeps id s).2.2 d hd


theorem finish_cmds (id : CmdId) (st : Status) (d0 d1 : W32) (s : State) : (finish id st d0 d1 s).cmds =
    (post id (modCmd id (fun c => { c with phase := .decided, status := some st, dw0 := d0, dw1 := d1 }) s)).cmds := by
  unfold finish
  rw [frzCount_frame, lockSetEnd_frame]

theorem modCmd_decided_stopKeeps (id : CmdId) (g : Cmd → Cmd) (hg : ∀ c, (g c).id = c.id ∧ (g c).phase = .decided) (s : State) :
    StopKeeps s (modCmd id g s) := by
  refine ⟨rfl, rfl, fun d hd => ?_⟩
  obtain ⟨c, hc, rfl⟩ := List.mem_map.mp hd
  refine ⟨c, hc, ?_⟩
  split
  · exact ⟨(hg c).1.symm, fun _ => (hg c).2⟩
  · exact ⟨rfl, fun h => h⟩

theorem finish_stopKeeps (id : CmdId) (st : Status) (d0 d1 : W32) (s : State) : StopKeeps s (finish id st d0 d1 s) := by
  have hm := (modCmd_decided_stopKeeps id (fun c => { c with phase := .decided, status := some st, dw0 := d0, dw1 := d1 })
    (fun c => ⟨rfl, rfl⟩) s).trans (post_stopKeeps id _)
  refine ⟨by rw [finish_frame], by rw [finish_mig], ?_⟩
  rw [finish_cmds]
  exact hm.2.2

/-- A command whose status was decided is decided, or gone. -/
theorem finish_decides (id : CmdId) (st : Status) (d0 d1 : W32) (s : State) :
    ∀ d ∈ (finish id st d0 d1 s).cmds, d.id = id → d.phase = .decided := by
  rw [finish_cmds]
  refine (post_stopKeeps id _).decided fun d hd hi => ?_
  obtain ⟨c, hc, rfl⟩ := List.mem_map.mp hd
  split
  · rfl
  · next hne =>
    rw [if_neg hne] at hi
    exact absurd hi hne

theorem fuaCheck_stopKeeps (s : State) : StopKeeps s (fuaCheck s) := by
  unfold fuaCheck
  refine .trans (.foldl (fun u c => ?_) _ _) (.foldl (fun _ _ => .of_settle (zoneSettle_settleFrame ..)) _ _)
  exact .trans (t := markCovered c.cover u) (.of_eq rfl rfl rfl) (finish_stopKeeps ..)

theorem discardStored_stopKeeps (c : Cmd) (s : State) : StopKeeps s (discardStored c s) := by
  unfold discardStored
  split
  · exact .refl s
  · dsimp only
    split <;> exact .of_eq rfl rfl rfl

theorem settleWrite_stopKeeps (c : Cmd) (s : State) : StopKeeps s (settleWrite c s) := by
  unfold settleWrite
  split
  · split
    · exact .of_settle (zoneSettle_settleFrame ..)
    · exact .refl s
  · exact .refl s

/-- A write's data is given up before the write ends (R168). -/
def dropWrite (c : Cmd) (s : State) : State :=
  if c.id.sq = 0 ∨ ¬ isWrite c.e then s else if c.phase = .durable then discardStored c s else discardWrite c s

theorem dropWrite_stopKeeps (c : Cmd) (s : State) : StopKeeps s (dropWrite c s) := by
  unfold dropWrite
  split
  · exact .refl s
  · split
    · exact discardStored_stopKeeps c s
    · rw [discardWrite_frame]
      exact .of_eq rfl rfl rfl

theorem wbUpdate_stopKeeps (s : State) : StopKeeps s (wbUpdate s) := by
  unfold wbUpdate
  exact .of_eq rfl rfl rfl

theorem dropDead_stopKeeps (s : State) : StopKeeps s (dropDead s) := .of_eq rfl rfl rfl
theorem unwait_stopKeeps (id : CmdId) (s : State) : StopKeeps s (unwait id s) := .of_eq rfl rfl rfl

/-- The last step of ending a command: a write's zone settles. -/
theorem settled_stopKeeps (c : Cmd) (s : State) :
    StopKeeps s (if c.id.sq ≠ 0 ∧ isWrite c.e then wbUpdate (fuaCheck (settleWrite c s)) else s) := by
  split
  · exact ((settleWrite_stopKeeps c s).trans (fuaCheck_stopKeeps _)).trans (wbUpdate_stopKeeps _)
  · exact .refl _

theorem stopCmd_keeps_and_decides (st : Status) (c : Cmd) (s : State) :
    StopKeeps s (stopCmd st c s) ∧ ∀ d ∈ (stopCmd st c s).cmds, d.id = c.id → d.phase = .decided := by
  unfold stopCmd
  extract_lets s1 s2 s3
  have h1 : StopKeeps s s1 := dropWrite_stopKeeps c s
  have h2 : StopKeeps s1 s2 := .trans (.of_eq rfl rfl rfl) (dropDead_stopKeeps _)
  clear_value s1 s2
  have h3 : StopKeeps s2 s3 := (unwait_stopKeeps c.id s2).trans (finish_stopKeeps ..)
  have h4 : ∀ d ∈ s3.cmds, d.id = c.id → d.phase = .decided := finish_decides c.id st 0 0 _
  clear_value s3
  have h5 := settled_stopKeeps c s3
  exact ⟨((h1.trans h2).trans h3).trans h5, h5.decided h4⟩

theorem stopCmd_stopKeeps (st : Status) (c : Cmd) (s : State) : StopKeeps s (stopCmd st c s) := (stopCmd_keeps_and_decides st c s).1

/-- Ending commands decides each, or they are gone. -/
theorem stopCmds_decide (st : Status) (l : List Cmd) (s : State) :
    ∀ c ∈ l, ∀ d ∈ (l.foldl (fun s c => stopCmd st c s) s).cmds, d.id = c.id → d.phase = .decided := by
  induction l generalizing s with
  | nil => exact fun c hc => nomatch hc
  | cons x l ih =>
    intro c hc
    rcases List.mem_cons.mp hc with rfl | hc
    · exact (StopKeeps.foldl (fun s c => stopCmd_stopKeeps st c s) l _).decided (stopCmd_keeps_and_decides st c s).2
    · exact ih _ c hc

/-! ### Restoring and thawing -/

theorem thawMsgs_decideFrame (f : Nat) (s : State) : DecideFrame s (thawMsgs f s) := by
  refine .foldl (fun u v => ?_) _ _
  split
  · rfl
  · split
    · exact msiBudget_decideFrame ..
    · exact .refl u

theorem thaw_tenants (t : Nat) (s : State) : (thaw t s).tenants = (modTn t (fun n => { n with st := .enabled }) s).tenants := by
  have h : DecideFrame (modTn t (fun n => { n with st := .enabled }) s) (thaw t s) :=
    (aerReport_decideFrame ..).after ((thawMsgs_decideFrame ..).after
      ((abortsGo_decideFrame _).after (.foldl (fun _ _ => cqDrain_decideFrame ..) _ _)))
  rw [h]

theorem restoreDo_tenants (t : Nat) (b : List Byte) (s : State) : (restoreDo t b s).tenants =
    (modTn t (fun n => { n with
      st := .frozen, qp := blobNq b, vec := leAt b 23 1, pend := true,
      stored := ⟨leAt b 224 2, leAt b 226 2, leAt b 228 2, leAt b 230 2, leAt b 232 2⟩ }) s).tenants := by
  unfold restoreDo
  rw [mbxDone_frame]
  rfl

theorem tnOf_congr {s u : State} (h : s.tenants = u.tenants) (t : Nat) : tnOf s t = tnOf u t := by
  unfold tnOf
  rw [h]

/-! ### The commands -/

theorem mbTenantFreeze_of_enabled {m : MbxRun} {u : State} (h1 : argN m 0 ≤ 1023) (h2 : (tnOf u (argN m 0)).st = .enabled) :
    mbTenantFreeze m u = { u with mig := { u.mig with
      freeze := some (argN m 0), frzStart := now u, drained := 0, aborted := tset 0 u.mig.aborted (argN m 0) 0 } } := by
  unfold mbTenantFreeze
  exact mbxDo_of_pass (by simp [badTenant, h1, h2]) _ _

theorem mbTenantSave_of_frozen {m : MbxRun} {u : State} {key : List Byte} (hb : BufOk m 65536 0x4000000) (h1 : argN m 0 ≤ 1023)
    (h2 : (tnOf u (argN m 0)).st = .frozen) (h3 : (tenantNss u (argN m 0)).length ≤ 512) (h4 : u.vault.live.mig = some key) :
    mbTenantSave m u = let v : State := { u with mig := { u.mig with saveSeq := u.mig.saveSeq + 1 } }
      mbxDone [(0, w32 (blobOf v (argN m 0) key).length)] (emit (.mbxBuf (blobOf v (argN m 0) key)) v) := by
  unfold mbTenantSave
  rw [mbxDo_of_pass]
  · dsimp only
    rw [h4]
    rfl
  · rw [bufChecks_ok _ _ _ hb, bufLong_ok _ _ _ hb]
    simp [badTenant, h1, h2, h3, h4]

theorem mbTenantRestore_of_checked {m : MbxRun} {u : State} (hb : BufOk m 0 0x4000000) (h1 : argN m 0 ≤ 1023)
    (h2 : firstM (restoreChecks u (argN m 0) (bufBytes m (bufLen m)) (bufLen m)) = none) :
    mbTenantRestore m u = restoreDo (argN m 0) (bufBytes m (bufLen m)) u := by
  unfold mbTenantRestore
  refine mbxDo_of_pass ?_ _ _
  rw [List.append_assoc, bufChecks_ok _ _ _ hb, bufLong_ok _ _ _ hb]
  simpa [badTenant, h1] using h2

theorem mbTenantThaw_of_frozen {m : MbxRun} {u : State} (h1 : argN m 0 ≤ 1023) (h2 : (tnOf u (argN m 0)).st = .frozen) :
    mbTenantThaw m u = mbxDone [] (thaw (argN m 0) u) := by
  unfold mbTenantThaw
  exact mbxDo_of_pass (by simp [badTenant, h1, h2]) _ _

theorem mbDirtyLogCtrl_of_start {m : MbxRun} {u : State} (h1 : argN m 0 ≤ 1023) (h2 : argN m 1 = 1 ∨ argN m 1 = 2)
    (h3 : (dlogOf u (argN m 0)).on = false) (hb : BufOk m 1 0x4000000) (h4 : bufLen m % 8192 = 0) :
    mbDirtyLogCtrl m u = mbxDone [] (setDlog (argN m 0) {
      on := true, big := argN m 1 = 2, half := false,
      ovf := (dlogOf u (argN m 0)).ovf, pages := 0, cover := bufLen m / 2 * 8, set0 := [], set1 := [] } u) := by
  have hne : ¬ argN m 1 = 0 := by omega
  have hle : argN m 1 ≤ 2 := by omega
  unfold mbDirtyLogCtrl
  rw [mbxDo_of_pass]
  · rw [if_neg hne]
  · simp only [hne, if_false]
    rw [bufChecks_ok _ _ _ hb, bufLong_ok _ _ _ hb]
    simp [badTenant, h1, h3, h4, hle]

theorem mbDirtyLogCtrl_of_stop {m : MbxRun} {u : State} (h1 : argN m 0 ≤ 1023) (h2 : argN m 1 = 0)
    (h3 : (dlogOf u (argN m 0)).on = true) :
    mbDirtyLogCtrl m u = mbxDone [] (setDlog (argN m 0) { dlogTurn (dlogOf u (argN m 0)) with on := false } u) := by
  unfold mbDirtyLogCtrl
  rw [mbxDo_of_pass]
  · rw [if_pos h2, if_pos h3]
  · simp [badTenant, h1, h2]

theorem mbDirtyLogHarvest_of_on {m : MbxRun} {u : State} (h1 : argN m 0 ≤ 1023) (h2 : (dlogOf u (argN m 0)).on = true) :
    mbDirtyLogHarvest m u =
      mbxDone [(0, w32 (dlogOf u (argN m 0)).pages)] (setDlog (argN m 0) (dlogTurn (dlogOf u (argN m 0))) u) := by
  unfold mbDirtyLogHarvest
  exact mbxDo_of_pass (by simp [badTenant, h1, h2]) _ _

theorem mbLogRead_of_readable {m : MbxRun} {u : State} (hb : BufOk m 0 0x4000000) (h1 : logReadable 0 (argN m 0) = true)
    (h2 : argN m 0 ≠ 0xBF) : mbLogRead m u =
      let b := ((logPage u 0 (argN m 0)).drop (arg64 m 1)).take (bufLen m)
      mbxDone [(0, w32 b.length)] (emit (.mbxBuf b) u) := by
  unfold mbLogRead
  refine mbxDo_of_pass ?_ _ _
  rw [bufChecks_ok _ _ _ hb, bufLong_ok _ _ _ hb]
  simp [h1, h2]

theorem mbSelftest_of_run {m : MbxRun} {u : State} {x : SelfTest} (ht : m.test = some x) (hr : u.md.cur = .run) :
    mbSelftest m u = mbxDone [(0, w32 (firstFailed x))] (keysEnd (runTests x u)) := by
  unfold mbSelftest
  rw [ht]
  dsimp only
  rw [if_neg (by simp [hr])]

/-! ### The scrub (R340 to R342) -/

/-- With nothing stored in the SRAM and nothing in its way, the scrub of a memory finds nothing. -/
theorem scrubMacro_of_clean {r : MbxRun} {s : State} (hc : s.sram.cells = []) (hb : s.sram.bad = []) (hm : r.met = []) :
    scrubMacro r s = { s with sram := { s.sram with
      errs := tset 0 s.sram.errs s.sram.scan 0, scan := s.sram.scan + 1, scanAt := now s } } := by
  unfold scrubMacro scrubRows
  simp only [hc, hb, hm, List.filter_nil, List.map_nil, List.append_nil]
  rfl

/-- The macros that a scrub of a clean SRAM has passed have no row found. -/
def ScrubbedTo (s u : State) (n : Nat) : Prop :=
  u = { s with sram := { s.sram with errs := u.sram.errs, scan := u.sram.scan, scanAt := u.sram.scanAt } } ∧
    ∀ m, s.sram.scan ≤ m → m < s.sram.scan + n → tget 0 u.sram.errs m = 0

theorem scrubMacros_of_clean {r : MbxRun} (hm : r.met = []) (n : Nat) {s : State} (hc : s.sram.cells = []) (hb : s.sram.bad = []) :
    ScrubbedTo s (scrubMacros r n s) n ∧
      ∀ m, m < s.sram.scan → tget 0 (scrubMacros r n s).sram.errs m = tget 0 s.sram.errs m := by
  induction n generalizing s with
  | zero => exact ⟨⟨rfl, fun m h1 h2 => by omega⟩, fun m _ => rfl⟩
  | succ n ih =>
    have hs := scrubMacro_of_clean (r := r) hc hb hm
    obtain ⟨⟨hf, hz⟩, hk⟩ := ih (s := scrubMacro r s) (by rw [hs]; exact hc) (by rw [hs]; exact hb)
    have hscan : (scrubMacro r s).sram.scan = s.sram.scan + 1 := by rw [hs]
    have herrs : (scrubMacro r s).sram.errs = tset 0 s.sram.errs s.sram.scan 0 := by rw [hs]
    rw [hscan] at hz hk
    change ScrubbedTo s (scrubMacros r n (scrubMacro r s)) (n + 1) ∧ ∀ m, m < s.sram.scan → _
    refine ⟨⟨?_, fun m h1 h2 => ?_⟩, fun m h => ?_⟩
    · refine Eq.trans hf ?_
      rw [hs]
    · by_cases he : m = s.sram.scan
      · subst he
        rw [hk _ (by omega), herrs, tget_tset_same]
      · exact hz m (by omega) (by omega)
    · rw [show (scrubMacros r (n + 1) s) = scrubMacros r n (scrubMacro r s) from rfl, hk m (by omega), herrs,
        tget_tset_ne _ _ (by omega)]

/-- A range in which no row was found has no worst memory. -/
theorem worstMacro_eq_none {s : State} {a b : Nat} (h : ∀ m, a ≤ m → m ≤ b → tget 0 s.sram.errs m = 0) : worstMacro s a b = none := by
  have hf : (((List.range (b + 1 - a)).map (· + a)).filter fun m => tget 0 s.sram.errs m ≠ 0) = [] := by
    rw [List.filter_eq_nil_iff]
    intro m hm
    obtain ⟨i, hi, rfl⟩ := List.mem_map.mp hm
    have := List.mem_range.mp hi
    simp [h (i + a) (by omega) (by omega)]
  unfold worstMacro
  rw [hf]
  rfl

theorem scrubEnd_of_clean {r : MbxRun} {s : State} (hc : s.sram.cells = []) (hb : s.sram.bad = []) (hm : r.met = [])
    (ha : s.sram.scan = argN r 0) (h1 : s.sram.scanCe = 0) (h2 : s.sram.scanUe = 0) :
    let u := scrubMacros r (argN r 1 + 1 - argN r 0) s
    scrubEnd r s = mbxDone [(0, 0), (1, 0), (2, 0xFFFFFFFF)] u ∧
      u = { s with sram := { s.sram with errs := u.sram.errs, scan := u.sram.scan, scanAt := u.sram.scanAt } } := by
  obtain ⟨⟨hf, hz⟩, -⟩ := scrubMacros_of_clean hm (argN r 1 + 1 - argN r 0) hc hb
  refine ⟨?_, hf⟩
  have hworst := worstMacro_eq_none (s := scrubMacros r (argN r 1 + 1 - argN r 0) s) (a := argN r 0) (b := argN r 1)
    fun m hl hu => hz m (by omega) (by omega)
  have hce : (scrubMacros r (argN r 1 + 1 - argN r 0) s).sram.scanCe = 0 := by rw [hf]; exact h1
  have hue : (scrubMacros r (argN r 1 + 1 - argN r 0) s).sram.scanUe = 0 := by rw [hf]; exact h2
  unfold scrubEnd
  dsimp only
  rw [ha, hworst, hce, hue]
  rfl

/-! ### The events that end a freeze and a scrub -/

theorem exec_freezeComplete_of_drained {s : State} {n : Nat} (h1 : freezing s = some n) (h2 : undecided s n = []) :
    exec .freezeComplete s = .next (mbxDone [(0, w32 s.mig.drained)]
      { modTn n (fun x => { x with st := .frozen }) s with mig := { s.mig with freeze := none } }) := by
  change execFreezeComplete s = _
  unfold execFreezeComplete
  rw [h1]
  dsimp only
  rw [if_neg (by simp [h2])]

theorem exec_freezeAbortTimeout_of_late {s : State} {n : Nat} (h1 : freezing s = some n) (h2 : s.mig.frzStart + 450000000 ≤ now s) :
    let u := (undecided s n).foldl (fun s c => stopCmd abortSt c s) s
    exec .freezeAbortTimeout s = .next { u with mig := { u.mig with
      aborted := tset 0 u.mig.aborted n (satAdd 0xFFFF (tget 0 u.mig.aborted n) (undecided s n).length) } } := by
  change execFreezeAbortTimeout s = _
  unfold execFreezeAbortTimeout
  rw [h1]
  dsimp only
  rw [if_neg (by omega)]

theorem scrubRun_of_running {s : State} {r : MbxRun} (h1 : s.mbx.run = some r) (h2 : r.opc = 0x0601) (h3 : r.paused = false)
    (h4 : r.waitStart = false) : scrubRun s = some r := by
  simp [scrubRun, h1, h2, h3, h4]

/-- Settles O60: each command passes its checks and acts, and a freeze's and a scrub's end. -/
theorem migrationAndLogs : Obligations.MigrationAndLogs := by
  unfold Obligations.MigrationAndLogs
  refine ⟨⟨?freeze, ?save, ?restore, ?restored, ?thaw, ?dlog, ?harvest, ?log, ?selftest⟩, ?complete, ?timeout, ?scrub, ?clean⟩
  case freeze =>
    intro r s a m h h1 h2
    obtain ⟨g, v, x, rfl, e⟩ := exec_issued (.tenantFreeze r) mbTenantFreeze h
    exact e.trans (next_congr (mbTenantFreeze_of_enabled h1 h2))
  case save =>
    intro r s a m key h hb h1 h2 h3 h4
    obtain ⟨g, v, x, rfl, e⟩ := exec_issued (.tenantSave r) mbTenantSave h
    exact ⟨_, e.trans (next_congr (mbTenantSave_of_frozen hb h1 h2 h3 h4)), rfl⟩
  case restore =>
    intro r s a m h hb h1 h2
    obtain ⟨g, v, x, rfl, e⟩ := exec_issued (.tenantRestore r) mbTenantRestore h
    exact e.trans (next_congr (mbTenantRestore_of_checked hb h1 h2))
  case restored =>
    intro t b s
    have h := tnOf_congr (restoreDo_tenants t b s)
    refine ⟨?_, ?_, fun k hk => ?_⟩
    · rw [h, tnOf_modTn_same]
    · rw [h, tnOf_modTn_same]
    · rw [h, tnOf_modTn_ne _ _ (Ne.symm hk)]
  case thaw =>
    intro r s a m h h1 h2
    obtain ⟨g, v, x, rfl, e⟩ := exec_issued (.tenantThaw r) mbTenantThaw h
    refine ⟨e.trans (next_congr (mbTenantThaw_of_frozen h1 h2)), ?_⟩
    rw [tnOf_congr (thaw_tenants _ _), tnOf_modTn_same]
  case dlog =>
    intro r s a m h h1 d
    obtain ⟨g, v, x, rfl, e⟩ := exec_issued (.dirtyLogCtrl r) mbDirtyLogCtrl h
    exact ⟨fun h2 h3 hb h4 => e.trans (next_congr (mbDirtyLogCtrl_of_start h1 h2 h3 hb h4)),
      fun h2 h3 => e.trans (next_congr (mbDirtyLogCtrl_of_stop h1 h2 h3))⟩
  case harvest =>
    intro r s a m h h1 h2
    obtain ⟨g, v, x, rfl, e⟩ := exec_issued (.dirtyLogHarvest r) mbDirtyLogHarvest h
    exact e.trans (next_congr (mbDirtyLogHarvest_of_on h1 h2))
  case log =>
    intro r s a m h hb h1 h2
    obtain ⟨g, v, x, -, e⟩ := exec_issued (.logRead r) mbLogRead h
    exact e.trans (next_congr (mbLogRead_of_readable hb h1 h2))
  case selftest =>
    intro r x s a m h
    obtain ⟨-, -, -, -, ht, -, -⟩ := issued_latch h
    have hr : s.md.cur = .run := h.2.1
    obtain ⟨g, v, y, rfl, e⟩ := exec_issued (.selftest r x) mbSelftest h
    exact e.trans (next_congr (mbSelftest_of_run ht hr))
  case complete => exact fun s n h1 h2 => exec_freezeComplete_of_drained h1 h2
  case timeout =>
    intro s n h1 h2
    obtain ⟨ht, ha, -⟩ := StopKeeps.foldl (fun s c => stopCmd_stopKeeps abortSt c s) (undecided s n) s
    refine ⟨_, exec_freezeAbortTimeout_of_late h1 h2, ?_, stopCmds_decide abortSt (undecided s n) s, ht⟩
    exact (tget_tset_same ..).trans (by rw [ha])
  case scrub =>
    intro s r h1 h2 h3 h4
    change execScrubComplete s = _
    rw [execScrubComplete, scrubRun_of_running h1 h2 h3 h4]
  case clean => exact fun r s hc hb hm ha h1 h2 => scrubEnd_of_clean hc hb hm ha h1 h2

end Sys2Proof.Machine

/-!
PROOFS. The register file (chapter 03): the bits and fields of a word after a store, what a register write leaves of every other
register, and the writes of R41 to R52 that only store, post, discard or are recorded.
-/
namespace Sys2Proof.Machine

open Sys2Proof

/-! ### The bits of a word after a field is put in -/

theorem getLsbD_maskOf (hi lo i : Nat) : (maskOf hi lo).getLsbD i = (decide (i < 32) && decide (lo ≤ i) && decide (i - lo < hi + 1 - lo)) := by
  rw [maskOf, BitVec.getLsbD_ofNat, Nat.testBit_shiftLeft, Nat.testBit_two_pow_sub_one, Bool.and_assoc]

/-- The bits of a field come from the value, the others stay. -/
theorem getLsbD_putFld {hi lo : Nat} (h : lo ≤ hi) (h32 : hi < 32) (w : W32) (v i : Nat) :
    (putFld w hi lo v).getLsbD i = if lo ≤ i ∧ i ≤ hi then v.testBit (i - lo) else w.getLsbD i := by
  rw [putFld, BitVec.getLsbD_or, BitVec.getLsbD_and, BitVec.getLsbD_not, getLsbD_maskOf, BitVec.getLsbD_ofNat, Nat.testBit_shiftLeft,
    Nat.testBit_mod_two_pow]
  split
  next hin =>
    have hi32 : i < 32 := by omega
    have hwidth : i - lo < hi + 1 - lo := by omega
    simp [hin.1, hi32, hwidth]
  next hout =>
    by_cases hi32 : i < 32
    · by_cases hlo : lo ≤ i
      · simp [hi32, hlo, show ¬ i - lo < hi + 1 - lo by omega]
      · simp [hi32, hlo]
    · simp [hi32, BitVec.getLsbD_of_ge w i (by omega)]

/-- The bits of a field's value. -/
theorem testBit_fld (w : W32) (hi lo i : Nat) : (fld w hi lo).testBit i = (decide (i < hi + 1 - lo) && w.getLsbD (lo + i)) := by
  rw [fld, Nat.testBit_mod_two_pow, Nat.testBit_shiftRight]
  rfl

theorem fld_lt (w : W32) (hi lo : Nat) : fld w hi lo < 2 ^ (hi + 1 - lo) := Nat.mod_lt _ (Nat.two_pow_pos _)

/-- A field just put in. -/
theorem fld_putFld_same {hi lo : Nat} (h : lo ≤ hi) (h32 : hi < 32) (w : W32) (v : Nat) :
    fld (putFld w hi lo v) hi lo = v % 2 ^ (hi + 1 - lo) := by
  refine Nat.eq_of_testBit_eq fun i => ?_
  rw [testBit_fld, getLsbD_putFld h h32, Nat.testBit_mod_two_pow]
  by_cases hi' : i < hi + 1 - lo
  · simp [hi', show lo + i ≤ hi by omega]
  · simp [hi']

/-- A field apart from the one put in. -/
theorem fld_putFld_apart {hi lo a b : Nat} (h : lo ≤ hi) (h32 : hi < 32) (w : W32) (v : Nat) (hapart : a < lo ∨ hi < b) :
    fld (putFld w hi lo v) a b = fld w a b := by
  refine Nat.eq_of_testBit_eq fun i => ?_
  rw [testBit_fld, testBit_fld, getLsbD_putFld h h32]
  by_cases hi' : i < a + 1 - b
  · rw [if_neg (by omega)]
  · simp [hi']

/-- One bit is a field of one bit. -/
theorem fld_bit (w : W32) (i : Nat) : fld w i i = b2n (bitOf w i) := by
  have hbit : bitOf w i = w.toNat.testBit i := rfl
  rw [fld, Nat.add_sub_cancel_left, Nat.pow_one, Nat.shiftRight_eq_div_pow, ← Nat.toNat_testBit, hbit]
  cases w.toNat.testBit i <;> rfl

/-! ### A written word as it is stored (R41, R45) -/

/-- Fields that do not overlap, each within the word. -/
def FldsApart (l : List RwF) : Prop :=
  l.Pairwise (fun f g => f.hi < g.lo ∨ g.hi < f.lo) ∧ ∀ f ∈ l, f.lo ≤ f.hi ∧ f.hi < 32

/-- What a field holds after a write: a gate bit its old value, another the nearest within its limits. -/
def fldStored (old new : W32) (f : RwF) : Nat :=
  if f.gate then fld old f.hi f.lo else clampN f.min f.max (fld new f.hi f.lo)

theorem storeWord_eq (off : Nat) (old new : W32) :
    storeWord off old new = (rwFields off).foldl (fun w f => putFld w f.hi f.lo (fldStored old new f)) old := rfl

/-- Putting in fields apart from one leaves it. -/
theorem fld_foldl_putFld_apart {l : List RwF} {a b : Nat} (g : RwF → Nat) (hl : ∀ f ∈ l, f.lo ≤ f.hi ∧ f.hi < 32)
    (hapart : ∀ f ∈ l, a < f.lo ∨ f.hi < b) (w : W32) : fld (l.foldl (fun w f => putFld w f.hi f.lo (g f)) w) a b = fld w a b := by
  induction l generalizing w with
  | nil => rfl
  | cons f l ih =>
    obtain ⟨hf, hl⟩ := List.forall_mem_cons.mp hl
    obtain ⟨ha, hapart⟩ := List.forall_mem_cons.mp hapart
    rw [List.foldl_cons, ih hl hapart, fld_putFld_apart hf.1 hf.2 _ _ ha]

/-- Every field put in reads its value. -/
theorem fld_foldl_putFld_mem {l : List RwF} {f : RwF} (g : RwF → Nat) (hl : FldsApart l) (hf : f ∈ l) (w : W32) :
    fld (l.foldl (fun w f => putFld w f.hi f.lo (g f)) w) f.hi f.lo = g f % 2 ^ (f.hi + 1 - f.lo) := by
  induction l generalizing w with
  | nil => exact absurd hf List.not_mem_nil
  | cons e l ih =>
    obtain ⟨hpair, hfit⟩ := hl
    obtain ⟨hhead, hpair⟩ := List.pairwise_cons.mp hpair
    have he := hfit e List.mem_cons_self
    rw [List.foldl_cons]
    by_cases hmem : f ∈ l
    · exact ih ⟨hpair, fun x hx => hfit x (List.mem_cons_of_mem _ hx)⟩ hmem _
    · obtain rfl : f = e := (List.mem_cons.mp hf).resolve_right hmem
      rw [fld_foldl_putFld_apart g (fun x hx => hfit x (List.mem_cons_of_mem _ hx)) hhead, fld_putFld_same he.1 he.2]

/-- A field of a register reads what a write stores in it, where that fits. -/
theorem fld_storeWord {off : Nat} {f : RwF} (old new : W32) (hl : FldsApart (rwFields off)) (hf : f ∈ rwFields off)
    (hfit : fldStored old new f < 2 ^ (f.hi + 1 - f.lo)) : fld (storeWord off old new) f.hi f.lo = fldStored old new f := by
  rw [storeWord_eq, fld_foldl_putFld_mem _ hl hf, Nat.mod_eq_of_lt hfit]

/-- A field without limits holds what is written. -/
theorem fldStored_of_wide {f : RwF} (old new : W32) (hgate : f.gate = false) (hmin : f.min = 0) (hmax : f.max = 0xFFFFFFFF)
    (h32 : f.hi < 32) : fldStored old new f = fld new f.hi f.lo := by
  have hlt := fld_lt new f.hi f.lo
  have hpow : 2 ^ (f.hi + 1 - f.lo) ≤ 2 ^ 32 := Nat.pow_le_pow_right (by decide) (by omega)
  rw [fldStored, hgate, hmin, hmax, clampN, if_neg Bool.false_ne_true, if_neg (Nat.not_lt_zero _), if_neg (by omega)]

/-- A gate bit keeps its value. -/
theorem fldStored_of_gate {f : RwF} (old new : W32) (hgate : f.gate = true) : fldStored old new f = fld old f.hi f.lo := if_pos hgate

/-! ### A register write changes one register (R45, R67) -/

@[simp] theorem regGet_markP (s : State) (off o : Nat) : regGet (markP s off) o = regGet s o := by
  unfold markP
  split <;> rfl

theorem markP_frame (s : State) (off : Nat) : markP s off = { s with pPend := (markP s off).pPend } := by
  unfold markP
  split <;> rfl

/-- The register holds the word as it is stored. -/
theorem regGet_regWrite_same (s : State) (al : RegAlias) (off : Nat) (v : W32) :
    regGet (regWrite s al off v) off = storeWord off (regGet s off) (aliasWord al (regGet s off) v) := by
  have hstored : regGet (markP (regPut s off (storeWord off (regGet s off) (aliasWord al (regGet s off) v))) off) off =
      storeWord off (regGet s off) (aliasWord al (regGet s off) v) := by rw [regGet_markP, regGet_regPut_same]
  unfold regWrite
  split
  · exact hstored
  · exact hstored

/-- Every other register is untouched. -/
theorem regGet_regWrite_ne (s : State) (al : RegAlias) {off o : Nat} (v : W32) (h : o ≠ off) : regGet (regWrite s al off v) o = regGet s o := by
  have hother : regGet (markP (regPut s off (storeWord off (regGet s off) (aliasWord al (regGet s off) v))) off) o = regGet s o := by
    rw [regGet_markP, regGet_regPut_ne _ _ h.symm]
  unfold regWrite
  split
  · exact hother
  · exact hother

theorem regWrite_frame (s : State) (al : RegAlias) (off : Nat) (v : W32) :
    regWrite s al off v = { s with
      regs := (regWrite s al off v).regs, pPend := (regWrite s al off v).pPend, rsv := (regWrite s al off v).rsv } := by
  unfold regWrite
  split
  · rw [markP_frame]; rfl
  · rw [markP_frame]; rfl

theorem regFrame_regWrite (s : State) (al : RegAlias) (off : Nat) (v : W32) : RegFrame s (regWrite s al off v) := by
  unfold RegFrame
  rw [regWrite_frame]

/-- A field of a register after a write of it. -/
theorem regFld_regWrite {f : RwF} (s : State) (al : RegAlias) {off : Nat} (v : W32) (hl : FldsApart (rwFields off)) (hf : f ∈ rwFields off)
    (hfit : fldStored (regGet s off) (aliasWord al (regGet s off) v) f < 2 ^ (f.hi + 1 - f.lo)) :
    regFld (regWrite s al off v) off f.hi f.lo = fldStored (regGet s off) (aliasWord al (regGet s off) v) f := by
  rw [regFld, regGet_regWrite_same, fld_storeWord _ _ hl hf hfit]

/-- A field without limits after a write of its register. -/
theorem regFld_regWrite_wide {f : RwF} (s : State) (al : RegAlias) {off : Nat} (v : W32) (hl : FldsApart (rwFields off)) (hf : f ∈ rwFields off)
    (hgate : f.gate = false) (hmin : f.min = 0) (hmax : f.max = 0xFFFFFFFF) :
    regFld (regWrite s al off v) off f.hi f.lo = fld (aliasWord al (regGet s off) v) f.hi f.lo := by
  have hwide := fldStored_of_wide (regGet s off) (aliasWord al (regGet s off) v) hgate hmin hmax (hl.2 f hf).2
  rw [regFld_regWrite s al v hl hf (by rw [hwide]; exact fld_lt _ _ _), hwide]

/-- A gate bit after a write of its register. -/
theorem regFld_regWrite_gate {f : RwF} (s : State) (al : RegAlias) {off : Nat} (v : W32) (hl : FldsApart (rwFields off)) (hf : f ∈ rwFields off)
    (hgate : f.gate = true) : regFld (regWrite s al off v) off f.hi f.lo = regFld s off f.hi f.lo := by
  have hkept := fldStored_of_gate (regGet s off) (aliasWord al (regGet s off) v) hgate
  rw [regFld_regWrite s al v hl hf (by rw [hkept]; exact fld_lt _ _ _), hkept]
  rfl

/-- A class P register that is written is one to be stored (R67). -/
theorem mem_insNat (x : Nat) (l : List Nat) : x ∈ insNat x l := by
  induction l with
  | nil => exact List.mem_singleton.mpr rfl
  | cons y l ih =>
    unfold insNat
    split
    · exact List.mem_cons_self
    · split
      next h => rw [h]; exact List.mem_cons_self
      next => exact List.mem_cons_of_mem _ ih

theorem mem_pPend_regWrite (s : State) (al : RegAlias) {off : Nat} (v : W32) (h : (rwFields off).any (·.cls = .p) = true) :
    off ∈ (regWrite s al off v).pPend := by
  unfold regWrite markP
  rw [if_pos h]
  split <;> exact mem_insNat _ _

/-! ### Where a write goes (R41 to R48) -/

/-- While TOP is served the core domain is on. -/
theorem coreOn_of_topServed {s : State} (h : topServed s = true) : coreOn s = true := by
  rw [topServed, Bool.and_eq_true] at h
  exact h.1

/-- Out of WATCH the core domain is on. -/
theorem coreOn_of_ne_watch {s : State} (h : s.md.cur ≠ .watch) : coreOn s = true := by simp [coreOn, h]

/-- A write in the Control window where TOP is served, past the NVMe block. -/
theorem controlWrite_of_served {s : State} {off : Nat} (al : RegAlias) (v : W32) (htop : topServed s = true) (hoff : 0x10000 ≤ off) :
    controlWrite al off v s = if blockGated s off then gatedRecord .host true (aliasOff al off) s
      else if 0x30000 ≤ off ∧ off < 0x40000 then (if aonHas (off - 0x30000) then aonPost ⟨off, al, v⟩ s else s)
      else if al = .normal then strobe off v (rwEffect al off v s)
      else if al = .clearBits then flagClear off v (rwEffect al off v s) else rwEffect al off v s := by
  rw [controlWrite, if_neg (not_not_intro (coreOn_of_topServed htop)), if_neg (not_not_intro htop), if_neg (Nat.not_lt.mpr hoff)]

/-- A plain register's block is served once an image is loaded, and its write only stores. -/
theorem controlWrite_plain {s : State} {al : RegAlias} {off hi m : Nat} {v : W32} (h : (off, hi, m) ∈ plainRegs) (htop : topServed s = true)
    (hloaded : s.md.loaded = true) : controlWrite al off v s = regWrite s al off v := by
  have hcore := coreOn_of_topServed htop
  have hlow : 0x10000 ≤ off := (by decide : ∀ p ∈ plainRegs, 0x10000 ≤ p.1) _ h
  rw [controlWrite_of_served al v htop hlow]
  simp only [plainRegs, List.mem_cons, List.not_mem_nil, or_false, Prod.mk.injEq] at h
  obtain ⟨rfl, -, -⟩ | ⟨rfl, -, -⟩ | ⟨rfl, -, -⟩ | ⟨rfl, -, -⟩ | ⟨rfl, -, -⟩ | ⟨rfl, -, -⟩ | ⟨rfl, -, -⟩ | ⟨rfl, -, -⟩ := h <;>
    simp [blockGated, hcore, hloaded, rwEffect, strobe, flagClear]

/-- A plain register is one field from bit 0, with its lower limit 0. -/
theorem plain_field {off hi m : Nat} (h : (off, hi, m) ∈ plainRegs) :
    ∃ f, rwFields off = [f] ∧ f.hi = hi ∧ f.lo = 0 ∧ f.min = 0 ∧ f.gate = false ∧ hi < 32 ∧ min f.max (2 ^ (hi + 1) - 1) = m := by
  simp only [plainRegs, List.mem_cons, List.not_mem_nil, or_false, Prod.mk.injEq] at h
  obtain ⟨rfl, rfl, rfl⟩ | ⟨rfl, rfl, rfl⟩ | ⟨rfl, rfl, rfl⟩ | ⟨rfl, rfl, rfl⟩ | ⟨rfl, rfl, rfl⟩ | ⟨rfl, rfl, rfl⟩ | ⟨rfl, rfl, rfl⟩ |
    ⟨rfl, rfl, rfl⟩ := h <;> exact ⟨_, rfl, rfl, rfl, rfl, rfl, by decide, by decide⟩

theorem fldsApart_singleton {f : RwF} (hlo : f.lo ≤ f.hi) (hhi : f.hi < 32) : FldsApart [f] :=
  ⟨List.pairwise_singleton _ _, fun _ h => by rw [List.mem_singleton.mp h]; exact ⟨hlo, hhi⟩⟩

/-- A plain register holds what is written, at its upper limit at most. -/
theorem regFld_regWrite_plain {s : State} {al : RegAlias} {off hi m : Nat} {v : W32} (h : (off, hi, m) ∈ plainRegs) :
    regFld (regWrite s al off v) off hi 0 = min m (fld (aliasWord al (regGet s off) v) hi 0) := by
  obtain ⟨f, hf, rfl, hlo, hmin, hgate, h32, rfl⟩ := plain_field h
  have hlt := fld_lt (aliasWord al (regGet s off) v) f.hi 0
  have hval : fldStored (regGet s off) (aliasWord al (regGet s off) v) f = min f.max (fld (aliasWord al (regGet s off) v) f.hi 0) := by
    rw [fldStored, if_neg (by simp [hgate]), hmin, hlo, clampN, if_neg (Nat.not_lt_zero _)]
    split <;> omega
  have hapart : FldsApart (rwFields off) := hf ▸ fldsApart_singleton (by omega) h32
  have hst := regFld_regWrite s al v hapart (hf ▸ List.mem_singleton.mpr rfl)
    (by rw [hval, hlo]; exact Nat.lt_of_le_of_lt (Nat.min_le_right _ _) hlt)
  rw [hlo] at hst
  rw [hst, hval]
  rw [Nat.sub_zero] at hlt
  omega

/-- The NVMe block and TOP are gated by nothing. -/
theorem not_blockGated_top {s : State} {off : Nat} (h : off < 0x20000) : blockGated s off = false := by simp [blockGated, h]

/-! ### O50 -/

/-- A gated access by the host sets VALID and is counted. -/
theorem gatedRecord_counts (who : Requester) (w : Bool) (off : Nat) (s : State) :
    (gatedRecord who w off s).gat.valid = true ∧ (gatedRecord who w off s).gat.count = satInc 0xFFFFFFFF s.gat.count := by
  by_cases hvalid : s.gat.valid = true
  · rw [gatedRecord_gat_of_valid who w off hvalid]
    exact ⟨hvalid, rfl⟩
  · rw [gatedRecord_gat_of_armed who w off (eq_false_of_ne_true hvalid)]
    exact ⟨rfl, rfl⟩

/-- The AON block is served once an image is loaded. -/
theorem blockGated_aon {s : State} {off : Nat} (hcore : coreOn s = true) (hloaded : s.md.loaded = true) (hlo : 0x30000 ≤ off)
    (hhi : off < 0x40000) : blockGated s off = false := by
  rw [blockGated]
  simp [hcore, hloaded, show ¬ off < 0x20000 by omega, show ¬ off < 0x30000 by omega, show off < 0x80000 by omega]

/-- A write of VF f's WV_SEL. -/
theorem tenantWrite_sel {s : State} {f : Nat} (v : W32) (h : wvServed s (.vf f) = true) :
    tenantWrite f 0x8100 v s = wvSelect (.vf f) (v.setWidth 16) s := by
  rw [tenantWrite, if_neg (not_not_intro h)]
  simp

/-- The fields of CDC_CTRL. -/
theorem rwFields_cdc {k : Nat} (hk : k < 8) :
    rwFields (cdcBase k) = [{ hi := 8, lo := 8 }, { hi := 3, lo := 0, dflt := 4, min := 2, max := 12 }] :=
  match k, hk with
  | 0, _ | 1, _ | 2, _ | 3, _ | 4, _ | 5, _ | 6, _ | 7, _ => rfl

theorem clampN_lt {lo hi x n : Nat} (hlo : lo < n) (hhi : hi < n) : clampN lo hi x < n := by
  unfold clampN
  split
  · exact hlo
  · split <;> omega

/-- The size of the table cache acts on the cache, not on the registers. -/
theorem regGet_fltcWrite (al : RegAlias) (v : W32) (s : State) (o : Nat) : regGet (fltcWrite al v s) o = regGet (regWrite s al 0x70120 v) o := by
  unfold regGet fltcWrite
  rfl

/-- Settles O50: each write is traced to the store, the post, the record or the window that it acts on. -/
theorem registerWrites : Obligations.RegisterWrites := by
  refine ⟨fun al off hi m v s hplain htop hloaded => ?plain, fun al off v s htop hloaded hlo hhi => ?posted, fun al off v s htop hoff hgated => ?gated,
    fun al off v s hmode htop => ?unserved, fun al off v s hmode hgated => ?watch, fun f v s hserved => ?window,
    fun f n v s hpresent hn hlow hcore hmask => ?mask, fun k al v s hk hgated => ?reserve, fun al v s hgated => ?cache⟩
  case plain =>
    refine ⟨_, next_congr (controlWrite_plain hplain htop hloaded), regFld_regWrite_plain hplain, fun o ho => regGet_regWrite_ne s al v ho,
      regFrame_regWrite s al off v, fun hcls => ?_⟩
    subst hcls
    exact mem_pPend_regWrite s al v (by decide)
  case posted =>
    have hserved := blockGated_aon (coreOn_of_topServed htop) hloaded hlo hhi
    have hwrite : controlWrite al off v s = if aonHas (off - 0x30000) then aonPost ⟨off, al, v⟩ s else s := by
      rw [controlWrite_of_served al v htop (by omega), if_neg (by simp [hserved]), if_pos ⟨hlo, hhi⟩]
    refine ⟨fun hhas hheld hroom => next_congr ?_, fun hhas => next_congr ?_⟩
    · rw [hwrite, if_pos hhas, aonPost, if_pos ⟨hheld, hroom⟩]
    · rw [hwrite, if_neg (by simp [hhas])]
  case gated =>
    have hwrite := controlWrite_of_served al v htop hoff
    rw [if_pos hgated] at hwrite
    exact ⟨_, next_congr hwrite, rfl, gatedRecord_counts _ _ _ _⟩
  case unserved =>
    refine next_congr ?_
    rw [controlWrite, if_neg (not_not_intro (coreOn_of_ne_watch hmode)), if_pos (by simp [htop])]
  case watch =>
    have hwrite : controlWrite al off v s = gatedRecord .host true (aliasOff al off) s := by
      by_cases hcore : coreOn s = true
      · have htop : topServed s = true := by simp [topServed, hcore, hmode]
        have hoff : 0x10000 ≤ off := by
          refine Decidable.byContradiction fun hlow => ?_
          rw [not_blockGated_top (by omega)] at hgated
          exact Bool.false_ne_true hgated
        rw [controlWrite_of_served al v htop hoff, if_pos hgated]
      · rw [controlWrite, if_pos hcore, if_pos hgated]
    exact ⟨_, next_congr hwrite, rfl, gatedRecord_counts _ _ _ _⟩
  case window =>
    refine ⟨_, next_congr (tenantWrite_sel v hserved), ?_, ?_, fun g hg => tget_tset_ne _ _ hg.symm, rfl⟩
    · rw [wvSelect, wvOf_modWv_same]
    · rw [wvSelect, wvOf_modWv_same]
  case mask =>
    have hentry : (16 * n + 12) / 16 = n := by omega
    have hwrite : msixWrite f (16 * n + 12) v s = modFn f (fun fn => { fn with unmasked := rmNat n fn.unmasked, msixOn := true }) s := by
      rw [msixWrite, hentry, if_neg (by simp [hpresent, hcore]; omega), if_neg (by omega), if_pos hmask]
    refine ⟨_, next_congr hwrite, ?_, rfl⟩
    rw [fnOf_modFn_same]
    simp [rmNat]
  case reserve =>
    have hwrite : (if 8 ≤ k then s else if blockGated s (cdcBase k) then gatedRecord .host true (aliasOff al (cdcBase k)) s
        else regWrite s al (cdcBase k) v) = regWrite s al (cdcBase k) v := by
      rw [if_neg (by omega), if_neg (by simp [hgated])]
    have hapart : FldsApart (rwFields (cdcBase k)) := by
      rw [rwFields_cdc hk]
      unfold FldsApart
      decide
    have hwait : ({ hi := 8, lo := 8 } : RwF) ∈ rwFields (cdcBase k) := by rw [rwFields_cdc hk]; decide
    have hres : ({ hi := 3, lo := 0, dflt := 4, min := 2, max := 12 } : RwF) ∈ rwFields (cdcBase k) := by rw [rwFields_cdc hk]; decide
    refine ⟨_, next_congr hwrite, regFld_regWrite s al v hapart hres (clampN_lt (by decide) (by decide)),
      regFld_regWrite_wide s al v hapart hwait rfl rfl rfl, fun o ho => regGet_regWrite_ne s al v ho, regFrame_regWrite s al _ v⟩
  case cache =>
    have hwrite : (if blockGated s 0x70000 then gatedRecord .host true (aliasOff al 0x70120) s else fltcWrite al v s) = fltcWrite al v s :=
      if_neg (by simp [hgated])
    have hapart : FldsApart (rwFields 0x70120) := by
      unfold FldsApart
      decide
    have hsize : ({ hi := 6, lo := 0, dflt := 8, min := 1, max := 64 } : RwF) ∈ rwFields 0x70120 := by decide
    have hstored : regFld (fltcWrite al v s) 0x70120 6 0 = clampN 1 64 (fld (aliasWord al (regGet s 0x70120) v) 6 0) := by
      rw [regFld, regGet_fltcWrite]
      exact regFld_regWrite s al v hapart hsize (clampN_lt (by decide) (by decide))
    refine ⟨_, next_congr hwrite, hstored, ?_, fun o ho => (regGet_fltcWrite al v s o).trans (regGet_regWrite_ne s al v ho), ?_⟩
    · have hkept : (regWrite s al 0x70120 v).fltc = s.fltc := by rw [regWrite_frame]
      rw [regFld, regGet_fltcWrite, Nat.mul_comm, ← hkept]
      rfl
    · unfold RegFrame fltcWrite
      rw [regWrite_frame]

end Sys2Proof.Machine

/-!
PROOFS. Key entry through KEYV and the Crypto Officer (R253, R256 to R259, R394 to R396): the select and the staged words, the commit to
an Empty slot and the refused one, and the strobes of TOP_CO_AUTH.
-/
namespace Sys2Proof.Machine

open Sys2Proof

/-! ### The gate's record -/

/-- An acceptance is recorded with no code. -/
theorem gateSays_accepted (s : State) (base obj : Nat) : GateSays s (gateRecord s base 0 0 0 obj) base 0 0 0 obj :=
  ⟨tget_tset_same _ _ _, fun _ h => tget_tset_ne _ _ h.symm⟩

/-- A failed check is recorded with its register's word, bit and code. -/
theorem gateSays_refused (s : State) (base off bit obj : Nat) {code : Nat} (h : code ≠ 0) :
    GateSays s (gateRecord s base off bit code obj) base bit (off / 4) code obj := by
  refine ⟨?_, fun _ hb => tget_tset_ne _ _ hb.symm⟩
  rw [gateRecord, if_neg h]
  exact tget_tset_same _ _ _

/-- The record is read in the state's refuse table alone. -/
theorem gateSays_congr {s t u : State} {base bit word code obj : Nat} (h : GateSays s t base bit word code obj) (hu : u.refuse = t.refuse) :
    GateSays s u base bit word code obj := by
  unfold GateSays
  rw [hu]
  exact h

/-- A gate with the tag right and no owned object records the first check that fails. -/
theorem gateRun_of_fails {base off bit obj : Nat} {owned : Bool} {checks : GateFail} {s : State} {o b c : Nat} (ok : State → State)
    (htag : tagRefuses s = false) (howned : owned = false) (hchecks : checks = some (o, b, c)) :
    gateRun base off bit obj owned checks ok s = gateRecord s base (o - base) b c obj := by
  subst howned hchecks
  simp only [gateRun, htag, Bool.false_eq_true, if_false]

/-- A gate whose object a long command owns is refused with code 10h. -/
theorem gateRun_of_owned {base off bit obj : Nat} {owned : Bool} {checks : GateFail} {s : State} (ok : State → State)
    (htag : tagRefuses s = false) (howned : owned = true) :
    gateRun base off bit obj owned checks ok s = gateRecord s base (off - base) bit 0x10 obj := by
  subst howned
  simp only [gateRun, htag, Bool.false_eq_true, if_false, if_true]

/-- A gate with a wrong tag is refused with code 16h. -/
theorem gateRun_of_wrong_tag {base off bit obj : Nat} {owned : Bool} {checks : GateFail} {s : State} (ok : State → State)
    (htag : tagRefuses s = true) : gateRun base off bit obj owned checks ok s = gateRecord s base (off - base) bit 0x16 obj := by
  simp only [gateRun, htag, if_true]

/-! ### Select and stage -/

theorem rwFields_keyv : rwFields 0x40000 = [{ hi := 31, lo := 16, dflt := 0xFFFF, cls := .v }, { hi := 11, lo := 0, cls := .v }] := rfl

theorem fldsApart_keyv : FldsApart (rwFields 0x40000) := by
  rw [rwFields_keyv]
  unfold FldsApart
  decide

/-- A select stores slot and owner. -/
theorem selSlot_keySelect (al : RegAlias) (v : W32) (s : State) :
    selSlot (keySelect al v s) = fld (aliasWord al (regGet s 0x40000) v) 11 0 :=
  regFld_regWrite_wide (f := { hi := 11, lo := 0, cls := .v }) s al v fldsApart_keyv (rwFields_keyv ▸ by decide) rfl rfl rfl

theorem selOwner_keySelect (al : RegAlias) (v : W32) (s : State) :
    selOwner (keySelect al v s) = fld (aliasWord al (regGet s 0x40000) v) 31 16 :=
  regFld_regWrite_wide (f := { hi := 31, lo := 16, dflt := 0xFFFF, cls := .v }) s al v fldsApart_keyv (rwFields_keyv ▸ by decide) rfl rfl rfl

/-- A select discards what is staged, and leaves the vault's keys. -/
theorem keySelect_vault (al : RegAlias) (v : W32) (s : State) : (keySelect al v s).vault = { s.vault with staged := none, words := [] } := by
  unfold keySelect
  rw [regWrite_frame]
  rfl

/-! ### The commit -/

/-- An Empty slot with epochs left takes a commit for an owner that no namespace contradicts. -/
theorem slotCheck_of_empty {s : State} {k owner : Nat} (force : Bool) (hk : k ≤ 2047) (howner : owner ≤ 1023 ∨ owner = 0xFFFF)
    (hlast : (slotOf s k).last ≠ 0xFFFFFFFF) (hcur : (slotOf s k).cur = none) (hclash : ownerClash s k owner = false) :
    slotCheck s k owner force = 0 := by
  have hkek : k ≠ 0x800 := by omega
  have hrange : ¬ (2047 < k ∨ (1023 < owner ∧ owner ≠ 0xFFFF) ∨ (slotOf s k).last = 0xFFFFFFFF) := by omega
  simp [slotCheck, hkek, hrange, hcur, hclash]

/-- An Empty slot with its first key since: an epoch above the last and not below the zeroize mark (R253). -/
def keyedAnew (owner : Nat) (key : List Byte) (sl : Slot) : Slot :=
  let e := max sl.zmark (sl.last + 1)
  { sl with cur := some ⟨e, key⟩, prev := none, last := e, hwm := 0, owner := owner }

/-- Loading a key into an Empty slot. -/
theorem loadKey_of_empty {s : State} {k : Nat} (owner : Nat) (key : List Byte) (hk : k ≠ 0x800) (hcur : (slotOf s k).cur = none) :
    loadKey k owner key s = recordVault (modSlot k (keyedAnew owner key) s) := by
  rw [loadKey, if_neg hk, modSlot, modSlot, hcur]
  rfl

/-- A commit that nothing but key entry by the Crypto Officer bars is refused with code 07h. -/
theorem commitChecks_of_barred {s : State} (force : Bool) (h : keyEntryBarred s = true ∨ s.co.role = false) :
    commitChecks force s = some (0x40040, 0, 7) := by
  have hbar : keyEntryBarred s = true ∨ ¬ s.co.role = true := h.imp (fun h => h) (fun h => by simp [h])
  rw [commitChecks, if_pos hbar]
  rfl

/-- The refused commit records its code and erases the staged words. -/
theorem keyCommitOp_of_barred {s : State} (force : Bool) (htag : tagRefuses s = false) (hfree : ownsSlot s (selSlot s) = false)
    (h : keyEntryBarred s = true ∨ s.co.role = false) : keyCommitOp force s = unstage (gateRecord s 0x40000 0x40 0 7 (selSlot s)) := by
  rw [keyCommitOp, gateRun_of_fails _ htag hfree (commitChecks_of_barred force h)]

/-! ### The strobes of TOP_CO_AUTH (R394, R395) -/

/-- A right response takes the role. -/
theorem coSubmitOp_of_right {s : State} {k : List Byte} (hopen : coIgnored s = false) (hkey : s.vault.live.co = some k)
    (hresp : coResp s = coExpected k s.co.count) : coSubmitOp s = coUsed { s with co := { s.co with role := true, fails := 0 } } := by
  simp only [coSubmitOp, hopen, hkey, Bool.false_eq_true, if_false, if_pos hresp]

/-- A wrong one is counted as a failure. -/
theorem coSubmitOp_of_wrong {s : State} {k : List Byte} (hopen : coIgnored s = false) (hkey : s.vault.live.co = some k)
    (hresp : coResp s ≠ coExpected k s.co.count) : coSubmitOp s = coUsed (coFailed s) := by
  simp only [coSubmitOp, hopen, hkey, Bool.false_eq_true, if_false, if_neg hresp]

/-- The fifth failure in a row begins the lockout. -/
theorem coFailed_lockout {s : State} (hlo : 4 ≤ s.co.fails) (hhi : s.co.fails ≤ 5) :
    (coFailed s).co.lockedUntil = some (now s + 60000000000) := by
  have hfive : satInc 5 s.co.fails = 5 := by
    unfold satInc
    split <;> omega
  simp only [coFailed, hfive, if_true]

/-- K_co is stored, live and wrapped, and the role taken, by one who holds it or while none is set. -/
theorem coSetkeyOp_of_allowed {s : State} (hopen : coIgnored s = false) (h : s.vault.live.co = none ∨ s.co.role = true) :
    coSetkeyOp s = { s with
      vault := { s.vault with
        live := { s.vault.live with co := some (coResp s) }
        recd := { s.vault.recd with co := some (wrapKey (coResp s)) }
        nor := { s.vault.nor with co := some (wrapKey (coResp s)) } }
      co := { s.co with role := true, count := s.co.count + 1, resp := [] } } := by
  have hallowed : s.vault.live.co.isNone = true ∨ s.co.role = true := h.imp (fun h => by rw [h]; rfl) (fun h => h)
  rw [coSetkeyOp, if_neg (by simp [hopen]), if_pos hallowed]
  rfl

theorem coSetkeyOp_of_ignored {s : State} (h : coIgnored s = true) : coSetkeyOp s = s := if_pos h

theorem coSubmitOp_of_ignored {s : State} (h : coIgnored s = true) : coSubmitOp s = s := if_pos h

/-- Settles O54: by what each write of KEYV and each strobe of TOP_CO_AUTH does. -/
theorem keyEntryAndOfficer : Obligations.KeyEntryAndOfficer := by
  refine ⟨fun al v s hserved => ?select, fun i v s hi hserved => ?stage, fun s hready hempty hclash => ?commit,
    fun c s hc hserved htag hfree hbar => ?refused, fun s k hopen hkey => ⟨fun hresp => ?right, fun hresp => ?wrong⟩,
    fun s hign => ⟨next_congr (coSubmitOp_of_ignored hign), next_congr (coSetkeyOp_of_ignored hign)⟩, fun s hopen hallowed => ?setkey,
    fun s => ⟨fun htop => next_congr (if_pos htop), fun htop => next_congr (if_neg (by simp [htop]))⟩⟩
  case select =>
    have hwrite : (if blockGated s 0x40000 then gatedRecord .host true (aliasOff al 0x40000) s else keySelect al v s) = keySelect al v s :=
      if_neg (by simp [hserved])
    refine ⟨_, next_congr hwrite, selSlot_keySelect al v s, selOwner_keySelect al v s, keySelect_vault al v s,
      fun o ho => regGet_regWrite_ne s al v ho, ?_⟩
    unfold RegFrame keySelect
    rw [regWrite_frame]
    rfl
  case stage =>
    have hwrite : (if 8 ≤ i then s else if blockGated s 0x40000 then gatedRecord .host true (0x40010 + 4 * i) s else keyWord i v s) =
        keyWord i v s := by
      rw [if_neg (by omega), if_neg (by simp [hserved])]
    exact ⟨_, next_congr hwrite, tget_tset_same s.vault.words i (some v), rfl, fun k hk => tget_tset_ne s.vault.words (some v) hk.symm, rfl⟩
  case commit =>
    have ⟨hserved, htag, hfree, _, _, hk, hrange, hlast, _, _⟩ := hready
    have hcommit := keyCommitOp_of_accepts htag hfree
      (commitChecks_of_ready hready (slotCheck_of_empty false hk hrange hlast hempty hclash))
    rw [loadKey_of_empty _ _ (by omega) (by rw [slotOf_gateRecord, hempty])] at hcommit
    have hslot : slotOf (keyCommitOp false s) (selSlot s) = keyedAnew (selOwner s) (stagedKey s) (slotOf s (selSlot s)) := by
      rw [hcommit, slotOf_unstage, slotOf_recordVault, slotOf_modSlot_same, slotOf_gateRecord]
    refine ⟨_, exec_keyCommit_of_served false hserved, ?_, ?_, ?_, ?_, ?_, ?_, ?_, ?_, ?_, ?_⟩
    · rw [hslot]; rfl
    · rw [hslot]; rfl
    · rw [hslot, keyedAnew]
      exact Nat.lt_of_lt_of_le (Nat.lt_succ_self _) (Nat.le_max_right _ _)
    · rw [hslot]
      exact Nat.le_max_left _ _
    · rw [hslot]; rfl
    · rw [hcommit]; rfl
    · rw [hcommit]; rfl
    · rw [hcommit]; rfl
    · rw [hcommit]
      exact gateSays_congr (gateSays_accepted s 0x40000 (selSlot s)) rfl
    · rw [hcommit]; rfl
  case refused =>
    have hexec : ∃ force, exec c s = .next (keyCommitOp force s) := by
      obtain rfl | rfl := hc
      · exact ⟨false, exec_keyCommit_of_served false hserved⟩
      · exact ⟨true, exec_keyCommit_of_served true hserved⟩
    obtain ⟨force, hexec⟩ := hexec
    rw [keyCommitOp_of_barred force htag hfree hbar] at hexec
    exact ⟨_, hexec, gateSays_congr (gateSays_refused s 0x40000 0x40 0 (selSlot s) (by decide)) rfl, rfl⟩
  case right => exact ⟨_, next_congr (coSubmitOp_of_right hopen hkey hresp), rfl⟩
  case wrong =>
    exact ⟨_, next_congr (coSubmitOp_of_wrong hopen hkey hresp), rfl, rfl, rfl, rfl, coFailed_lockout, rfl⟩
  case setkey => exact ⟨_, next_congr (coSetkeyOp_of_allowed hopen hallowed), rfl, rfl, rfl, rfl, rfl, rfl, rfl, rfl⟩

end Sys2Proof.Machine

/-!
PROOFS. Strobes, snapshots, posted and persistent writes (R32, R40, R52 to R57, R67, R90, R366).
-/
namespace Sys2Proof.Machine

open Sys2Proof

/-! ### Snapshots of the TOP window -/

/-- A snapshot of the always-on value waits for the slow edge. -/
theorem wvSnap_top_of_edge {s : State} (h : s.wvTop.sel.toNat = 4) :
    wvSnap .top s = modWv .top (fun x => { x with valid := false, err := false, seq := x.seq + 1, waitEdge := true }) s := by
  have hvalue : wvValue s .top 4 = some s.pwr.wakeTime := rfl
  simp [wvSnap, wvOf, h, hvalue]

/-- A snapshot of the TOP window, where its selector names the value `d` of the core domain. -/
theorem wvSnap_top_of_value {s : State} {d : Nat} (h1 : s.wvTop.sel.toNat ≠ 1) (h4 : s.wvTop.sel.toNat ≠ 4)
    (hvalue : wvValue s .top s.wvTop.sel.toNat = some d) :
    wvSnap .top s = { s with
      wvTop := { s.wvTop with valid := true, err := false, seq := s.wvTop.seq + 1, data := BitVec.ofNat 128 d, waitEdge := false } } := by
  have hsnap := wvSnap_of_value (s := s) (w := .top) hvalue h4
  rw [show (wvOf s .top).sel.toNat = s.wvTop.sel.toNat from rfl, snapNoted_of_ne s h1] at hsnap
  exact hsnap

/-- A snapshot of device time notes it as read. -/
theorem wvSnap_top_of_time {s : State} (h : s.wvTop.sel.toNat = 1) :
    wvSnap .top s = { s with
      clk := { s.clk with lastRead := now s }
      wvTop := { s.wvTop with valid := true, err := false, seq := s.wvTop.seq + 1, data := BitVec.ofNat 128 (now s), waitEdge := false } } := by
  have hsel : (wvOf s .top).sel.toNat = 1 := h
  have hvalue : wvValue s .top (wvOf s .top).sel.toNat = some (now s) := by rw [hsel]; rfl
  have hsnap := wvSnap_of_value hvalue (by rw [hsel]; decide)
  rw [hsel] at hsnap
  exact hsnap

/-- The selectors that name nothing in the TOP window. -/
theorem wvValue_top_of_undefined {s : State} {sel : Nat} (h : sel = 0 ∨ (4 < sel ∧ sel < 0x1000) ∨ (0x2000 ≤ sel ∧ sel < 0x4000) ∨ 0x4800 ≤ sel) :
    wvValue s .top sel = none := by
  unfold wvValue
  rw [if_neg (by omega)]
  dsimp only
  rw [if_neg (by omega), if_neg (by omega), if_neg (by omega), if_neg (by omega), if_neg (by omega)]

/-- A slot's counter. -/
theorem wvValue_top_of_slot {s : State} {sel : Nat} (hlo : 0x4000 ≤ sel) (hhi : sel < 0x4800) :
    wvValue s .top sel = some (slotOf s (sel - 0x4000)).hwm := by
  unfold wvValue
  rw [if_neg (by omega)]
  dsimp only
  rw [if_neg (by omega), if_neg (by omega), if_neg (by omega), if_neg (by omega), if_pos ⟨hlo, hhi⟩]

/-! ### A slow edge -/

/-- A snapshot that waits completes with the always-on value. -/
def edgeDone (s : State) (x : WvWin) : WvWin :=
  if x.waitEdge then { x with valid := true, data := BitVec.ofNat 128 s.pwr.wakeTime, waitEdge := false } else x

theorem wvEdge_eq (s : State) : wvEdge s = { s with wvTop := edgeDone s s.wvTop, wvVf := tmap {} (fun _ x => edgeDone s x) s.wvVf } := rfl

/-- A refresh changes the copies only. -/
theorem aonRefresh_frame (s : State) : aonRefresh s = { s with hk := { s.hk with copies := (aonRefresh s).hk.copies } } := rfl

/-- Of a posted write of 30034h the register alone is touched: it is no gate, of class A, and no gate checks it. -/
theorem aonApply_wakeSet (s : State) (v : W32) :
    aonApply ⟨0x30034, .normal, v⟩ s = regPut s 0x30034 (storeWord 0x30034 (regGet s 0x30034) v) := by
  have hchecked : gateChecked 0x30034 = false := by decide
  have hclass : (rwFields 0x30034).any (·.cls = .p) = false := by decide
  simp only [aonApply, regWrite, markP, hchecked, hclass, aliasWord, Bool.false_eq_true, if_false, Nat.reduceEqDiff]

/-- A field of 32 bits holds the word written. -/
theorem storeWord_wakeSet (old v : W32) : fld (storeWord 0x30034 old v) 31 0 = v.toNat := by
  have hfields : rwFields 0x30034 = [{ hi := 31, lo := 0, cls := .a }] := rfl
  have hapart : FldsApart (rwFields 0x30034) := by
    rw [hfields]
    exact fldsApart_singleton (by decide) (by decide)
  have hwide := fldStored_of_wide (f := { hi := 31, lo := 0, cls := .a }) old v rfl rfl rfl (by decide)
  have hst := fld_storeWord (f := { hi := 31, lo := 0, cls := .a }) old v hapart (hfields ▸ by decide) (by rw [hwide]; exact fld_lt _ _ _)
  rw [hst, hwide, fld, Nat.shiftRight_zero]
  exact Nat.mod_eq_of_lt v.isLt

/-- The state after an edge with two register writes `x` and `y`. -/
def edgeAfter (u : State) (o p : Nat) (x y : W32) : State := aonRefresh (regPut (regPut (wvEdge u) o x) p y)

theorem edgeAfter_frame (u : State) (o p : Nat) (x y : W32) :
    edgeAfter u o p x y = { u with
      regs := (edgeAfter u o p x y).regs, wvTop := edgeDone u u.wvTop, wvVf := (edgeAfter u o p x y).wvVf
      hk := { u.hk with copies := (edgeAfter u o p x y).hk.copies } } := by
  obtain ⟨c, hcopies⟩ : ∃ c, edgeAfter u o p x y =
      { regPut (regPut (wvEdge u) o x) p y with hk := { (regPut (regPut (wvEdge u) o x) p y).hk with copies := c } } :=
    ⟨_, aonRefresh_frame _⟩
  rw [hcopies]
  rfl

theorem regGet_edgeAfter (u : State) (o p : Nat) (x y : W32) : regGet (edgeAfter u o p x y) p = y := by
  have hput := regGet_regPut_same (regPut (wvEdge u) o x) p y
  have hregs : (edgeAfter u o p x y).regs = (regPut (regPut (wvEdge u) o x) p y).regs := rfl
  rw [regGet, hregs]
  exact hput

/-! ### The persistent writes (R67) -/

/-- Stored registers read as they stood; the others are kept. -/
theorem tget_foldl_store (g : Nat → W32) (l : List Nat) (t : Table W32) (o : Nat) :
    tget 0 (l.foldl (fun t off => tset 0 t off (g off)) t) o = if o ∈ l then g o else tget 0 t o := by
  induction l generalizing t with
  | nil => rfl
  | cons k l ih =>
    rw [List.foldl_cons, ih]
    by_cases hl : o ∈ l
    · rw [if_pos hl, if_pos (List.mem_cons_of_mem _ hl)]
    · by_cases hk : o = k
      · subst hk
        rw [if_neg hl, if_pos List.mem_cons_self, tget_tset_same]
      · rw [if_neg hl, if_neg (by simp [hk, hl]), tget_tset_ne _ _ (Ne.symm hk)]

theorem norGet_storeP (s : State) (o : Nat) : norGet (storeP s) o = if o ∈ s.pPend then regGet s o else norGet s o := by
  have hread := tget_foldl_store (fun off => regGet s off ^^^ regDefault off) s.pPend s.nor o
  unfold norGet storeP
  rw [hread]
  split
  · rw [BitVec.xor_assoc, BitVec.xor_self, BitVec.xor_zero]
  · rfl

theorem pOwed_storeP (s : State) : pOwed (storeP s) = false := by
  have hcfg : cfgOf (storeP s) = (storeP s).norCfg := rfl
  rw [pOwed, hcfg]
  simp [storeP]

/-! ### The capacitance test (R366) -/

/-- A state with nothing posted. -/
theorem nothing_posted_eq {s : State} (hq : s.aonQ = []) (hheld : s.aonHeld = []) : { s with aonQ := [], aonHeld := [] } = s := by
  cases s
  dsimp only at hq hheld
  subst hq hheld
  rfl

/-- An always-on write with its edge, where nothing is posted before it. -/
theorem aonWriteEdge_of_nothing_posted {s : State} (w : AonWrite) (hq : s.aonQ = []) (hheld : s.aonHeld = []) :
    aonWriteEdge w s = aonRefresh (aonApply w (wvEdge s)) := by
  rw [aonWriteEdge, nothing_posted_eq hq hheld, hq, hheld]
  rfl

theorem aonApply_capTest (s : State) : aonApply ⟨0x30210, .normal, 1⟩ s = capTest s := by
  have hbit : bitOf (1 : W32) 0 = true := by decide
  rw [aonApply, if_neg (by decide), if_neg (by decide), if_pos rfl, if_pos ⟨rfl, hbit⟩]

/-- MIN of meter `m` cleared; the others, and its pace, stay. -/
theorem paceClr_spec (m : Nat) (s : State) :
    (tget {} (paceClr m s).pace.meters m).min = 0x7FF ∧ (tget {} (paceClr m s).pace.meters m).pace = (tget {} s.pace.meters m).pace ∧
    (∀ k, k ≠ m → tget {} (paceClr m s).pace.meters k = tget {} s.pace.meters k) ∧
    paceClr m s = { s with pace := { s.pace with meters := (paceClr m s).pace.meters } } := by
  have hread : tget {} (paceClr m s).pace.meters m = { tget {} s.pace.meters m with min := 0x7FF, fresh := true } := tget_tset_same _ _ _
  refine ⟨by rw [hread], by rw [hread], fun k hk => ?_, rfl⟩
  exact tget_tset_ne s.pace.meters _ hk.symm

/-- Settles O51: by what each strobe, each snapshot, the edge and the store do. -/
theorem strobesAndStores : Obligations.StrobesAndStores := by
  refine ⟨fun k s hk hserved => ?section_, fun s htop => ⟨_, next_congr (if_pos htop), paceClr_spec 8 s⟩, fun s hmode => ?rejects,
    fun view sel s hserved => ?select, fun s htop => ⟨fun hsel => ?time, fun hsel => ?mark, fun hlo hhi hfits => ?slot, fun hsel => ?edge,
      fun hsel => ?undefined⟩, fun s a b hq => ?posted, fun s howed hcore => ⟨?stored, ?failed⟩,
    fun s hserved hq hheld hidle => ⟨fun hmode hvent => ?test, fun hmode => ?due⟩⟩
  case section_ =>
    have hclear : (if 8 ≤ k then s else if blockGated s (secBase k) then gatedRecord .host true (secBase k + 0x44) s else paceClr k s) =
        paceClr k s := by
      rw [if_neg (by omega), if_neg (by simp [hserved])]
    exact ⟨_, next_congr hclear, paceClr_spec k s⟩
  case rejects =>
    have hserved : ¬ blockGated s 0x20000 = true := by simp [blockGated, hmode]
    exact ⟨_, next_congr (if_neg hserved), rfl⟩
  case select =>
    refine ⟨_, next_congr (if_pos hserved), wvOf_modWv_same _ _ _, ?_⟩
    cases view <;> rfl
  case time => exact ⟨_, (execWvSnap_of_served (w := .top) htop).trans (next_congr (wvSnap_top_of_time hsel)), rfl, rfl, rfl, rfl, rfl, rfl⟩
  case mark =>
    have hvalue : wvValue s .top s.wvTop.sel.toNat = some s.flt.computed.toNat := by rw [hsel]; rfl
    have hsnap := wvSnap_top_of_value (by omega) (by omega) hvalue
    exact ⟨_, (execWvSnap_of_served (w := .top) htop).trans (next_congr hsnap), BitVec.ofNat_toNat _ _, rfl, rfl⟩
  case slot =>
    have hsnap := wvSnap_top_of_value (by omega) (by omega) (wvValue_top_of_slot hlo hhi)
    exact ⟨_, (execWvSnap_of_served (w := .top) htop).trans (next_congr hsnap), Nat.mod_eq_of_lt hfits, rfl, rfl⟩
  case edge => exact ⟨_, (execWvSnap_of_served (w := .top) htop).trans (next_congr (wvSnap_top_of_edge hsel)), rfl, rfl, rfl⟩
  case undefined =>
    have hsnap := wvSnap_of_none (s := s) (w := .top) (wvValue_top_of_undefined hsel)
    rw [show (wvOf s .top).sel.toNat = s.wvTop.sel.toNat from rfl, snapNoted_of_ne s (by omega)] at hsnap
    exact ⟨_, (execWvSnap_of_served (w := .top) htop).trans (next_congr hsnap), rfl, rfl, rfl⟩
  case posted =>
    have hedge : ∃ x y, fld y 31 0 = b.toNat ∧
        aonEdge s = edgeAfter { s with aonQ := s.aonHeld.take 8, aonHeld := s.aonHeld.drop 8 } 0x30034 0x30034 x y := by
      simp only [aonEdge, hq, List.foldl_cons, List.foldl_nil]
      rw [aonApply_wakeSet, aonApply_wakeSet]
      exact ⟨_, _, storeWord_wakeSet _ b, rfl⟩
    obtain ⟨x, y, hy, hedge⟩ := hedge
    have hframe := edgeAfter_frame { s with aonQ := s.aonHeld.take 8, aonHeld := s.aonHeld.drop 8 } 0x30034 0x30034 x y
    refine ⟨_, next_congr hedge, ?_, by rw [hframe], by rw [hframe], fun hwait => ?_, by rw [hframe]⟩
    · rw [regFld, regGet_edgeAfter, hy]
    · rw [hframe]
      dsimp only
      rw [edgeDone, if_pos hwait]
      exact ⟨rfl, rfl⟩
  case stored =>
    have hstore : (if ¬ pOwed s ∨ ¬ coreOn s then s else if true = true then storeP s else { s with psaveFail := true }) = storeP s := by
      rw [if_neg (by simp [howed, hcore]), if_pos rfl]
    refine ⟨_, next_congr hstore, fun off hoff => ?_, fun off hoff => ?_, rfl, pOwed_storeP s, rfl⟩
    · rw [norGet_storeP, if_pos hoff]
    · rw [norGet_storeP, if_neg hoff]
  case failed =>
    have hfail : (if ¬ pOwed s ∨ ¬ coreOn s then s else if false = true then storeP s else { s with psaveFail := true }) =
        { s with psaveFail := true } := by
      rw [if_neg (by simp [howed, hcore]), if_neg Bool.false_ne_true]
    exact ⟨_, next_congr hfail, rfl⟩
  case test =>
    have hrun : (if blockGated s 0x30000 then gatedRecord .host true 0x30210 s else aonWriteEdge ⟨0x30210, .normal, 1⟩ s) =
        aonRefresh (capTest (wvEdge s)) := by
      rw [if_neg (by simp [hserved]), aonWriteEdge_of_nothing_posted _ hq hheld, aonApply_capTest]
    have htest : capTest (wvEdge s) = { wvEdge s with
        hold := { s.hold with testRun := true, testDue := false }, pin := { s.pin with holdupTest := true } } := by
      have hidle' : ¬ (wvEdge s).hold.testRun = true := by simp [wvEdge_eq, hidle]
      rw [capTest, if_neg hidle', if_pos (by simpa [wvEdge_eq, ventTesting] using ⟨hmode, hvent⟩)]
      rfl
    rw [htest] at hrun
    exact ⟨_, next_congr hrun, rfl, rfl, rfl⟩
  case due =>
    have hrun : (if blockGated s 0x30000 then gatedRecord .host true 0x30210 s else aonWriteEdge ⟨0x30210, .normal, 1⟩ s) =
        aonRefresh (capTest (wvEdge s)) := by
      rw [if_neg (by simp [hserved]), aonWriteEdge_of_nothing_posted _ hq hheld, aonApply_capTest]
    have htest : capTest (wvEdge s) = { wvEdge s with hold := { s.hold with testDue := true } } := by
      have hidle' : ¬ (wvEdge s).hold.testRun = true := by simp [wvEdge_eq, hidle]
      rw [capTest, if_neg hidle', if_neg (by simp [wvEdge_eq, hmode])]
      rfl
    rw [htest] at hrun
    exact ⟨_, next_congr hrun, rfl⟩

end Sys2Proof.Machine

/-!
PROOFS. The enable gates (R34, R58 to R61, R314, R316, R371, R381, R382, R447): the write that runs a gate, the checks by the registers
that they read, and the four gates.
-/
namespace Sys2Proof.Machine

open Sys2Proof

/-! ### Failing checks have a code -/

/-- A failing check names a code other than 0. -/
def Coded (g : GateFail) : Prop := ∀ o b c, g = some (o, b, c) → c ≠ 0

theorem coded_none : Coded none := fun _ _ _ h => nomatch h

theorem coded_some {o b c : Nat} (h : c ≠ 0) : Coded (some (o, b, c)) := fun o' b' c' heq => by
  obtain ⟨rfl, rfl, rfl⟩ : o = o' ∧ b = b' ∧ c = c' := by simpa using heq
  exact h

theorem coded_ite {p : Prop} [Decidable p] {o b c : Nat} (h : c ≠ 0) : Coded (if p then some (o, b, c) else none) := by
  split
  · exact coded_some h
  · exact coded_none

theorem coded_map {α : Type} {c : Nat} (x : Option α) (o b : α → Nat) (h : c ≠ 0) : Coded (x.map fun i => (o i, b i, c)) := by
  cases x with
  | none => exact coded_none
  | some i => exact coded_some h

theorem coded_rsvFail (s : State) (off : Nat) : Coded (rsvFail s off) := by
  unfold rsvFail
  dsimp only
  split
  · exact coded_none
  · exact coded_some (by decide)

theorem coded_rangeFail (s : State) (off hi lo mn mx : Nat) : Coded (rangeFail s off hi lo mn mx) := coded_ite (by decide)

/-- The first failing check of a list has a code where each has. -/
theorem coded_firstFail {l : List GateFail} (h : ∀ g ∈ l, Coded g) : Coded (firstFail l) := by
  induction l with
  | nil => exact coded_none
  | cons g l ih =>
    obtain ⟨hg, hl⟩ := List.forall_mem_cons.mp h
    cases g with
    | none => exact ih hl
    | some f => exact hg

theorem coded_thermChecks (s : State) : Coded (thermChecks s) := by
  have hlevel (o : Nat) : Coded (firstFail [if thrLevel s o < 400 ∨ 1000 < thrLevel s o then some (o, 0, 1) else none,
      if thrHyst s o < 4 ∨ 160 < thrHyst s o then some (o, 16, 1) else none]) := by
    refine coded_firstFail ?_
    simp only [List.forall_mem_cons]
    exact ⟨coded_ite (by decide), coded_ite (by decide), fun _ h => absurd h List.not_mem_nil⟩
  refine coded_firstFail ?_
  simp only [List.map_cons, List.map_nil, List.cons_append, List.nil_append, List.forall_mem_cons]
  exact ⟨coded_rsvFail _ _, coded_rsvFail _ _, coded_rsvFail _ _, coded_rsvFail _ _, hlevel _, hlevel _, hlevel _, coded_rangeFail _ _ _ _ _ _,
    coded_ite (by decide), coded_ite (by decide), coded_ite (by decide), coded_ite (by decide), fun _ h => absurd h List.not_mem_nil⟩

theorem coded_ventChecks (s : State) : Coded (ventChecks s) := by
  refine coded_firstFail ?_
  simp only [List.forall_mem_cons]
  exact ⟨coded_rsvFail _ _, coded_rsvFail _ _, coded_rangeFail _ _ _ _ _ _, coded_rangeFail _ _ _ _ _ _, coded_rangeFail _ _ _ _ _ _, coded_ite (by decide),
    fun _ h => absurd h List.not_mem_nil⟩

theorem coded_mapChecks (s : State) : Coded (mapChecks s) := by
  refine coded_firstFail fun g hg => ?_
  rw [List.mem_append] at hg
  obtain hrsv | hmap := hg
  · obtain ⟨o, -, rfl⟩ := List.mem_map.mp hrsv
    exact coded_rsvFail _ _
  · simp only [List.mem_cons, List.not_mem_nil, or_false] at hmap
    obtain rfl | rfl | rfl | rfl := hmap
    · exact coded_ite (by decide)
    · exact coded_map _ _ _ (by decide)
    · exact coded_map _ _ _ (by decide)
    · split
      · exact coded_map _ _ _ (by decide)
      · exact coded_none

/-! ### Checks that all pass -/

/-- Of a list that reports no failure each check passed. -/
theorem eq_none_of_firstFail {l : List GateFail} (h : firstFail l = none) : ∀ g ∈ l, g = none := by
  induction l with
  | nil => exact fun _ hg => absurd hg List.not_mem_nil
  | cons g l ih =>
    cases g with
    | none => exact List.forall_mem_cons.mpr ⟨rfl, ih h⟩
    | some f => exact nomatch h

theorem rangeFail_eq_none {s : State} {off hi lo mn mx : Nat} (h : mn ≤ regFld s off hi lo ∧ regFld s off hi lo ≤ mx) :
    rangeFail s off hi lo mn mx = none := if_neg (by omega)

theorem range_of_rangeFail {s : State} {off hi lo mn mx : Nat} (h : rangeFail s off hi lo mn mx = none) :
    mn ≤ regFld s off hi lo ∧ regFld s off hi lo ≤ mx := by
  refine Decidable.byContradiction fun hout => ?_
  rw [rangeFail, if_pos (by omega)] at h
  exact nomatch h

theorem not_of_ite_none {p : Prop} [Decidable p] {f : Nat × Nat × Nat} (h : (if p then some f else none) = none) : ¬ p := fun hp => by
  rw [if_pos hp] at h
  exact nomatch h

/-- The checks of R381 passed: levels in range and in order, with room for the hysteresis. -/
theorem levels_of_thermChecks {s : State} (h : thermChecks s = none) :
    400 ≤ thrLevel s 0x30100 ∧ thrLevel s 0x30108 ≤ 1000 ∧ thrLevel s 0x30100 + thrHyst s 0x30104 ≤ thrLevel s 0x30104 ∧
    thrLevel s 0x30104 + thrHyst s 0x30108 ≤ thrLevel s 0x30108 ∧ thrLevel s 0x30100 < thrLevel s 0x30104 ∧
    thrLevel s 0x30104 < thrLevel s 0x30108 := by
  have hall := eq_none_of_firstFail h
  simp only [List.map_cons, List.map_nil, List.cons_append, List.nil_append, List.forall_mem_cons] at hall
  obtain ⟨-, -, -, -, hwarn, -, hshut, -, hthrot, hover, hroom, hroom', -⟩ := hall
  have hwarn := not_of_ite_none (eq_none_of_firstFail hwarn _ List.mem_cons_self)
  have hshut := not_of_ite_none (eq_none_of_firstFail hshut _ List.mem_cons_self)
  have hthrot := not_of_ite_none hthrot
  have hover := not_of_ite_none hover
  have hroom := not_of_ite_none hroom
  have hroom' := not_of_ite_none hroom'
  omega

/-- The checks of chapter 17 passed. -/
theorem levels_of_ventChecks {s : State} (h : ventChecks s = none) :
    20 ≤ regFld s 0x30200 24 16 ∧ regFld s 0x30200 24 16 ≤ 500 ∧ 1000 ≤ regFld s 0x30204 15 0 ∧
    regFld s 0x30204 15 0 < regFld s 0x30204 31 16 ∧ regFld s 0x30204 31 16 ≤ 16000 := by
  have hall := eq_none_of_firstFail h
  simp only [List.forall_mem_cons] at hall
  obtain ⟨-, -, hdeb, hwarn, hrec, horder, -⟩ := hall
  have hdeb := range_of_rangeFail hdeb
  have hwarn := range_of_rangeFail hwarn
  have hrec := range_of_rangeFail hrec
  have horder := not_of_ite_none horder
  omega

/-! ### What the checks read -/

/-- A state with the registers of `s`, as far as a gate reads them. -/
def gateView (s : State) : State := { regs := s.regs, rsv := s.rsv }

theorem gateView_congr {s t : State} (hregs : s.regs = t.regs) (hrsv : s.rsv = t.rsv) : gateView s = gateView t := by
  rw [gateView, gateView, hregs, hrsv]

theorem thermChecks_view (s : State) : thermChecks s = thermChecks (gateView s) := rfl
theorem ventChecks_view (s : State) : ventChecks s = ventChecks (gateView s) := rfl

/-- Completed snapshots touch no register. -/
theorem gateView_regWrite_wvEdge (s : State) (al : RegAlias) (off : Nat) (v : W32) :
    gateView (regWrite (wvEdge s) al off v) = gateView (regWrite s al off v) := by
  refine gateView_congr ?_ ?_
  · unfold regWrite markP
    split <;> split <;> rfl
  · unfold regWrite markP
    split <;> split <;> rfl

/-- The tag check reads the tag registers and the epoch. -/
theorem tagRefuses_congr {s t : State} (hctrl : regGet t 0xA0010 = regGet s 0xA0010) (hexp : regGet t 0xA0014 = regGet s 0xA0014)
    (hepoch : t.flt.epoch = s.flt.epoch) : tagRefuses t = tagRefuses s := by
  rw [tagRefuses, regFld, hctrl, hexp, hepoch]
  rfl

theorem tagRefuses_regWrite (s : State) (al : RegAlias) {off : Nat} (v : W32) (h : off ≠ 0xA0010) (h' : off ≠ 0xA0014) :
    tagRefuses (regWrite s al off v) = tagRefuses s :=
  tagRefuses_congr (regGet_regWrite_ne s al v h.symm) (regGet_regWrite_ne s al v h'.symm) (by rw [regWrite_frame])

theorem tagRefuses_wvEdge (s : State) : tagRefuses (wvEdge s) = tagRefuses s := rfl

/-! ### A write that runs a gate (R58, R61) -/

/-- A bit that becomes 1 runs its gate over the registers as written. -/
theorem gatedWrite_of_raised {s : State} {al : RegAlias} {off bit : Nat} {v : W32} (gate : State → State)
    (hold : bitOf (regGet s off) bit = false) (hnew : bitOf (aliasWord al (regGet s off) v) bit = true) :
    gatedWrite al off bit v gate s = gate (regWrite s al off v) := by
  simp [gatedWrite, hold, hnew]

/-- A gate bit that a write would raise is still 0 before its gate has run. -/
theorem regFld_regWrite_lowered {s : State} (al : RegAlias) {off : Nat} {f : RwF} {b : Nat} (v : W32) (hl : FldsApart (rwFields off))
    (hf : f ∈ rwFields off) (hgate : f.gate = true) (hhi : f.hi = b) (hlo : f.lo = b) (hold : bitOf (regGet s off) b = false) :
    regFld (regWrite s al off v) off b b = 0 := by
  have hkept := regFld_regWrite_gate s al v hl hf hgate
  rw [hhi, hlo] at hkept
  rw [hkept, regFld, fld_bit, hold]
  rfl

@[simp] theorem regGet_gateRecord (s : State) (base off bit code obj o : Nat) : regGet (gateRecord s base off bit code obj) o = regGet s o := rfl

theorem regSetFld_frame (s : State) (off hi lo v : Nat) :
    regSetFld s off hi lo v = { s with regs := (regSetFld s off hi lo v).regs, pPend := (regSetFld s off hi lo v).pPend } := by
  unfold regSetFld
  rw [markP_frame]
  rfl

theorem regGet_regSetFld_ne (s : State) {off o : Nat} (hi lo v : Nat) (h : o ≠ off) : regGet (regSetFld s off hi lo v) o = regGet s o := by
  rw [regSetFld, regGet_markP, regGet_regPut_ne _ _ h.symm]

/-- A field just set. -/
theorem regFld_regSetFld_same (s : State) (off : Nat) {hi lo : Nat} (v : Nat) (h : lo ≤ hi) (h32 : hi < 32) :
    regFld (regSetFld s off hi lo v) off hi lo = v % 2 ^ (hi + 1 - lo) := by
  rw [regFld, regSetFld, regGet_markP, regGet_regPut_same, fld_putFld_same h h32]

/-- A field apart from the one set. -/
theorem regFld_regSetFld_apart (s : State) (off : Nat) {hi lo a b : Nat} (v : Nat) (h : lo ≤ hi) (h32 : hi < 32) (hapart : a < lo ∨ hi < b) :
    regFld (regSetFld s off hi lo v) off a b = regFld s off a b := by
  rw [regFld, regSetFld, regGet_markP, regGet_regPut_same, fld_putFld_apart h h32 _ _ hapart]
  rfl

theorem regWrite_refuse (s : State) (al : RegAlias) (off : Nat) (v : W32) : (regWrite s al off v).refuse = s.refuse := by
  rw [regWrite_frame]

/-- What a gate says of the state before, where only the refuse table counts. -/
theorem gateSays_from {s s' t : State} {base bit word code obj : Nat} (h : GateSays s' t base bit word code obj) (hs : s'.refuse = s.refuse) :
    GateSays s t base bit word code obj := by
  unfold GateSays at h ⊢
  rw [← hs]
  exact h

/-! ### The pace gate (R34) -/

theorem rwFields_pace : rwFields 0x10200 =
    [{ hi := 16, lo := 16, dflt := 1, gate := true }, { hi := 11, lo := 8, dflt := 5 }, { hi := 7, lo := 0, dflt := 20 }] := rfl

theorem fldsApart_pace : FldsApart (rwFields 0x10200) := by
  rw [rwFields_pace]
  unfold FldsApart
  decide

/-- STEP and HYST are stored as written. -/
theorem pace_step_written (s : State) (al : RegAlias) (v : W32) :
    regFld (regWrite s al 0x10200 v) 0x10200 11 8 = fld (aliasWord al (regGet s 0x10200) v) 11 8 :=
  regFld_regWrite_wide (f := { hi := 11, lo := 8, dflt := 5 }) s al v fldsApart_pace (rwFields_pace ▸ by decide) rfl rfl rfl

theorem pace_hyst_written (s : State) (al : RegAlias) (v : W32) :
    regFld (regWrite s al 0x10200 v) 0x10200 7 0 = fld (aliasWord al (regGet s 0x10200) v) 7 0 :=
  regFld_regWrite_wide (f := { hi := 7, lo := 0, dflt := 20 }) s al v fldsApart_pace (rwFields_pace ▸ by decide) rfl rfl rfl

/-- Values in range are taken by the loop. -/
theorem paceLatch_of_in_range {s : State} (htarget : 100 ≤ regFld s 0x10204 10 0 ∧ regFld s 0x10204 10 0 ≤ 1250)
    (hceil : 600 ≤ regFld s 0x10208 9 0 ∧ regFld s 0x10208 9 0 ≤ 850) (hstep : 1 ≤ regFld s 0x10200 11 8 ∧ regFld s 0x10200 11 8 ≤ 10)
    (hhyst : 5 ≤ regFld s 0x10200 7 0 ∧ regFld s 0x10200 7 0 ≤ 200) :
    paceLatch s = { s with pace := { s.pace with
      target := regFld s 0x10204 10 0, ceil := regFld s 0x10208 9 0, step := regFld s 0x10200 11 8, hyst := regFld s 0x10200 7 0 } } := by
  simp only [paceLatch, if_pos htarget, if_pos hceil, if_pos hstep, if_pos hhyst]

/-- The reserved bits that a write of a gate register leaves remembered. -/
theorem rsv_regWrite_same {s : State} {al : RegAlias} {off : Nat} {v : W32} (h : gateChecked off = true) :
    tget 0 (regWrite s al off v).rsv off = aliasWord al (tget 0 s.rsv off) (v &&& ~~~(rwMask off)) := by
  rw [regWrite, if_pos h]
  exact tget_tset_same _ _ _

theorem rsv_regWrite_ne {s : State} (al : RegAlias) {off o : Nat} (v : W32) (h : o ≠ off) :
    tget 0 (regWrite s al off v).rsv o = tget 0 s.rsv o := by
  have hkept : (markP (regPut s off (storeWord off (regGet s off) (aliasWord al (regGet s off) v))) off).rsv = s.rsv := by
    rw [markP_frame]
    rfl
  unfold regWrite
  split
  · exact (tget_tset_ne _ _ h.symm).trans (congrArg (tget 0 · o) hkept)
  · exact congrArg (tget 0 · o) hkept

/-- The pace gate with every check passed sets ENABLE. -/
theorem paceGate_of_accepts {s : State} (htag : tagRefuses s = false) (hrsv : tget 0 s.rsv 0x10200 = 0) (hrsv4 : tget 0 s.rsv 0x10204 = 0)
    (hrsv8 : tget 0 s.rsv 0x10208 = 0) (htarget : 100 ≤ regFld s 0x10204 10 0 ∧ regFld s 0x10204 10 0 ≤ 1250)
    (hceil : 600 ≤ regFld s 0x10208 9 0 ∧ regFld s 0x10208 9 0 ≤ 850) (hstep : 1 ≤ regFld s 0x10200 11 8 ∧ regFld s 0x10200 11 8 ≤ 10)
    (hhyst : 5 ≤ regFld s 0x10200 7 0 ∧ regFld s 0x10200 7 0 ≤ 200) :
    paceGate s = regSetFld (gateRecord s 0x10000 0 0 0 0) 0x10200 16 16 1 := by
  refine gateRun_of_accepts _ htag rfl (firstFail_eq_none ?_)
  simp only [List.forall_mem_cons]
  exact ⟨rsvFail_eq_none hrsv, rsvFail_eq_none hrsv4, rsvFail_eq_none hrsv8, rangeFail_eq_none htarget, rangeFail_eq_none hceil,
    rangeFail_eq_none hstep, rangeFail_eq_none hhyst, fun _ h => absurd h List.not_mem_nil⟩

/-! ### The gates of the always-on domain -/

theorem regGet_aonRefresh (s : State) (o : Nat) : regGet (aonRefresh s) o = regGet s o := by
  have hregs : (aonRefresh s).regs = s.regs := by rw [aonRefresh_frame]
  rw [regGet, hregs]
  rfl

theorem regFld_aonRefresh (s : State) (o hi lo : Nat) : regFld (aonRefresh s) o hi lo = regFld s o hi lo := by
  rw [regFld, regGet_aonRefresh, regFld]

theorem regGet_wvEdge (s : State) (o : Nat) : regGet (wvEdge s) o = regGet s o := rfl

/-- Events of the mark touch an NVMe front-end, the fleet state, nothing of the registers. -/
theorem witnessEval_frame (b : Bool) (s : State) :
    witnessEval b s = { s with
      flt := (witnessEval b s).flt, fns := (witnessEval b s).fns, cqs := (witnessEval b s).cqs
      sent := (witnessEval b s).sent, mig := (witnessEval b s).mig } := by
  unfold witnessEval mismatchPost
  dsimp only
  repeat' split
  · rfl
  · rfl
  · rfl
  · rw [postEvent_frame]
  · rfl

theorem witness_frame (s : State) :
    witness s = { s with
      flt := (witness s).flt, fns := (witness s).fns, cqs := (witness s).cqs, sent := (witness s).sent, mig := (witness s).mig } := by
  unfold witness
  split
  · rfl
  · extract_lets m
    rw [witnessEval_frame]

theorem regGet_witness (s : State) (o : Nat) : regGet (witness s) o = regGet s o := by
  have hregs : (witness s).regs = s.regs := by rw [witness_frame]
  rw [regGet, hregs]
  rfl

theorem rwFields_therm : rwFields 0x3010C = [{ hi := 31, lo := 31, dflt := 1, gate := true }, { hi := 10, lo := 0, dflt := 850 }] := rfl

theorem fldsApart_therm : FldsApart (rwFields 0x3010C) := by
  rw [rwFields_therm]
  unfold FldsApart
  decide

theorem rwFields_vent : rwFields 0x30200 = [{ hi := 31, lo := 31, dflt := 1, gate := true }, { hi := 24, lo := 16, dflt := 50 }] := rfl

theorem fldsApart_vent : FldsApart (rwFields 0x30200) := by
  rw [rwFields_vent]
  unfold FldsApart
  decide

/-- ENABLE of the thermal thresholds raised at its edge. -/
theorem thermalEnable_edge {s : State} {al : RegAlias} {v : W32} (hserved : blockGated s 0x30000 = false) (hq : s.aonQ = [])
    (hheld : s.aonHeld = []) (hold : bitOf (regGet s 0x3010C) 31 = false) (hnew : bitOf (aliasWord al (regGet s 0x3010C) v) 31 = true) :
    exec (.thermalEnable al v) s = .next (aonRefresh (thermGate (regWrite (wvEdge s) al 0x3010C v))) := by
  refine next_congr ?_
  rw [if_neg (by simp [hserved]), aonWriteEdge_of_nothing_posted _ hq hheld, aonApply, if_pos rfl, gatedWrite_of_raised]
  · exact hold
  · exact hnew

/-- ENABLE of the Vent raised at its edge. -/
theorem ventEnable_edge {s : State} {al : RegAlias} {v : W32} (hserved : blockGated s 0x30000 = false) (hq : s.aonQ = [])
    (hheld : s.aonHeld = []) (hold : bitOf (regGet s 0x30200) 31 = false) (hnew : bitOf (aliasWord al (regGet s 0x30200) v) 31 = true) :
    exec (.ventEnable al v) s = .next (aonRefresh (ventGate (regWrite (wvEdge s) al 0x30200 v))) := by
  refine next_congr ?_
  rw [if_neg (by simp [hserved]), aonWriteEdge_of_nothing_posted _ hq hheld, aonApply, if_neg (by exact (by decide : (0x30200 : Nat) ≠ 0x3010C)), if_pos rfl, gatedWrite_of_raised]
  · exact hold
  · exact hnew

/-- The state in which an always-on gate runs: snapshots complete, its register as written. -/
def gateState (s : State) (al : RegAlias) (off : Nat) (v : W32) : State := regWrite (wvEdge s) al off v

theorem gateState_frame (s : State) (al : RegAlias) (off : Nat) (v : W32) :
    gateState s al off v = { s with
      regs := (gateState s al off v).regs, pPend := (gateState s al off v).pPend, rsv := (gateState s al off v).rsv
      wvTop := (gateState s al off v).wvTop, wvVf := (gateState s al off v).wvVf } := by
  unfold gateState
  rw [regWrite_frame]
  rfl

/-- Another register than the one written, as before the edge. -/
theorem regFld_gateState_ne (s : State) (al : RegAlias) {off o : Nat} (v : W32) (hi lo : Nat) (h : o ≠ off) :
    regFld (gateState s al off v) o hi lo = regFld s o hi lo := by
  rw [regFld, gateState, regGet_regWrite_ne _ _ _ h, regGet_wvEdge]
  rfl

theorem tagRefuses_gateState {s : State} (al : RegAlias) {off : Nat} (v : W32) (htag : tagRefuses s = false) (h : off ≠ 0xA0010)
    (h' : off ≠ 0xA0014) : tagRefuses (gateState s al off v) = false := by
  rw [gateState, tagRefuses_regWrite _ _ _ h h', tagRefuses_wvEdge, htag]

theorem gateState_refuse (s : State) (al : RegAlias) (off : Nat) (v : W32) : (gateState s al off v).refuse = s.refuse := by
  rw [gateState_frame]

/-- A refusal recorded at the edge. -/
theorem gateSays_refused_at_edge (s : State) (al : RegAlias) (v : W32) (base r off bit obj : Nat) {code : Nat} (h : code ≠ 0) :
    GateSays s (aonRefresh (gateRecord (gateState s al r v) base off bit code obj)) base bit (off / 4) code obj :=
  gateSays_congr (gateSays_from (gateSays_refused (gateState s al r v) base off bit obj h) (gateState_refuse s al r v)) rfl

/-! ### The map gate (R314, R316) -/

theorem rwFields_map : rwFields 0x80004 = [{ hi := 8, lo := 8, dflt := 1, gate := true }, { hi := 2, lo := 0 }] := rfl

theorem fldsApart_map : FldsApart (rwFields 0x80004) := by
  rw [rwFields_map]
  unfold FldsApart
  decide

/-! ### O52 -/

/-- The pace gate with every check passed. -/
theorem paceEnable_accepted {al : RegAlias} {v : W32} {s : State} (htop : topServed s = true) (hold : bitOf (regGet s 0x10200) 16 = false)
    (hnew : bitOf (aliasWord al (regGet s 0x10200) v) 16 = true) (htag : tagRefuses s = false)
    (hrsv : aliasWord al (tget 0 s.rsv 0x10200) (v &&& ~~~(rwMask 0x10200)) = 0) (hrsv4 : tget 0 s.rsv 0x10204 = 0)
    (hrsv8 : tget 0 s.rsv 0x10208 = 0) (htarget : 100 ≤ regFld s 0x10204 10 0 ∧ regFld s 0x10204 10 0 ≤ 1250)
    (hceil : 600 ≤ regFld s 0x10208 9 0 ∧ regFld s 0x10208 9 0 ≤ 850)
    (hstep : 1 ≤ fld (aliasWord al (regGet s 0x10200) v) 11 8 ∧ fld (aliasWord al (regGet s 0x10200) v) 11 8 ≤ 10)
    (hhyst : 5 ≤ fld (aliasWord al (regGet s 0x10200) v) 7 0 ∧ fld (aliasWord al (regGet s 0x10200) v) 7 0 ≤ 200) :
    Answers (.paceEnable al v) s fun t =>
      regFld t 0x10200 16 16 = 1 ∧ t.pace.target = regFld s 0x10204 10 0 ∧ t.pace.ceil = regFld s 0x10208 9 0 ∧
      t.pace.step = fld (aliasWord al (regGet s 0x10200) v) 11 8 ∧ t.pace.hyst = fld (aliasWord al (regGet s 0x10200) v) 7 0 ∧
      GateSays s t 0x10000 0 0 0 0 ∧
      t = { s with regs := t.regs, rsv := t.rsv, pPend := t.pPend, refuse := t.refuse, pace := t.pace } := by
  have hstepw := pace_step_written s al v
  have hhystw := pace_hyst_written s al v
  have htargetw : regFld (regWrite s al 0x10200 v) 0x10204 10 0 = regFld s 0x10204 10 0 := by
    rw [regFld, regGet_regWrite_ne s al v (by decide), regFld]
  have hceilw : regFld (regWrite s al 0x10200 v) 0x10208 9 0 = regFld s 0x10208 9 0 := by
    rw [regFld, regGet_regWrite_ne s al v (by decide), regFld]
  have hgate : paceGate (regWrite s al 0x10200 v) = regSetFld (gateRecord (regWrite s al 0x10200 v) 0x10000 0 0 0 0) 0x10200 16 16 1 :=
    paceGate_of_accepts (by rw [tagRefuses_regWrite s al v (by decide) (by decide), htag]) (by rw [rsv_regWrite_same rfl, hrsv])
      (by rw [rsv_regWrite_ne al v (by decide), hrsv4]) (by rw [rsv_regWrite_ne al v (by decide), hrsv8]) (by rw [htargetw]; exact htarget)
      (by rw [hceilw]; exact hceil) (by rw [hstepw]; exact hstep) (by rw [hhystw]; exact hhyst)
  have hwritten : gatedWrite al 0x10200 16 v paceGate s = regSetFld (gateRecord (regWrite s al 0x10200 v) 0x10000 0 0 0 0) 0x10200 16 16 1 := by
    rw [gatedWrite_of_raised _ hold hnew, hgate]
  obtain ⟨w, hw⟩ : ∃ w, w = regSetFld (gateRecord (regWrite s al 0x10200 v) 0x10000 0 0 0 0) 0x10200 16 16 1 := ⟨_, rfl⟩
  have hbit : regFld w 0x10200 16 16 = 1 := by
    rw [hw]
    exact regFld_regSetFld_same _ 0x10200 1 (by decide) (by decide)
  have htw : regFld w 0x10204 10 0 = regFld s 0x10204 10 0 := by
    rw [hw, regFld, regGet_regSetFld_ne _ _ _ _ (by decide), ← htargetw]
    rfl
  have hcw : regFld w 0x10208 9 0 = regFld s 0x10208 9 0 := by
    rw [hw, regFld, regGet_regSetFld_ne _ _ _ _ (by decide), ← hceilw]
    rfl
  have hsw : regFld w 0x10200 11 8 = fld (aliasWord al (regGet s 0x10200) v) 11 8 := by
    rw [hw, regFld_regSetFld_apart _ _ _ (by decide) (by decide) (by decide), ← hstepw]
    rfl
  have hyw : regFld w 0x10200 7 0 = fld (aliasWord al (regGet s 0x10200) v) 7 0 := by
    rw [hw, regFld_regSetFld_apart _ _ _ (by decide) (by decide) (by decide), ← hhystw]
    rfl
  have hframe : w = { s with regs := w.regs, rsv := w.rsv, pPend := w.pPend, refuse := w.refuse } := by
    rw [hw, regSetFld_frame, regWrite_frame]
    rfl
  have hsays : GateSays s w 0x10000 0 0 0 0 := by
    rw [hw, regSetFld_frame]
    exact gateSays_congr (gateSays_from (gateSays_accepted (regWrite s al 0x10200 v) 0x10000 0) (regWrite_refuse s al 0x10200 v)) rfl
  have hlatch := paceLatch_of_in_range (s := w) (by rw [htw]; exact htarget) (by rw [hcw]; exact hceil) (by rw [hsw]; exact hstep)
    (by rw [hyw]; exact hhyst)
  rw [htw, hcw, hsw, hyw] at hlatch
  have hexec : exec (.paceEnable al v) s = .next (paceLatch w) := by
    refine next_congr ?_
    rw [if_pos htop, paceCtrlWrite, hwritten, hw]
  rw [hlatch] at hexec
  refine ⟨_, hexec, hbit, rfl, rfl, rfl, rfl, gateSays_congr hsays rfl, ?_⟩
  rw [hframe]

/-- The pace gate with a wrong tag. -/
theorem paceEnable_wrong_tag {al : RegAlias} {v : W32} {s : State} (htop : topServed s = true) (hold : bitOf (regGet s 0x10200) 16 = false)
    (hnew : bitOf (aliasWord al (regGet s 0x10200) v) 16 = true) (htag : tagRefuses s = true) :
    Answers (.paceEnable al v) s fun t => regFld t 0x10200 16 16 = 0 ∧ GateSays s t 0x10000 16 0x80 0x16 0 := by
  have hwritten : gatedWrite al 0x10200 16 v paceGate s = gateRecord (regWrite s al 0x10200 v) 0x10000 0x200 16 0x16 0 := by
    rw [gatedWrite_of_raised _ hold hnew]
    exact gateRun_of_wrong_tag _ (by rw [tagRefuses_regWrite s al v (by decide) (by decide), htag])
  have hbit := regFld_regWrite_lowered (f := { hi := 16, lo := 16, dflt := 1, gate := true }) al v fldsApart_pace (rwFields_pace ▸ by decide) rfl rfl
    rfl hold
  have hexec : exec (.paceEnable al v) s = .next (paceLatch (gateRecord (regWrite s al 0x10200 v) 0x10000 0x200 16 0x16 0)) := by
    refine next_congr ?_
    rw [if_pos htop, paceCtrlWrite, hwritten]
  refine ⟨_, hexec, hbit, ?_⟩
  exact gateSays_congr (gateSays_from (gateSays_refused (regWrite s al 0x10200 v) 0x10000 0x200 16 0 (by decide)) (regWrite_refuse s al 0x10200 v)) rfl

/-- The thermal gate with every check passed. -/
theorem thermalEnable_accepted {al : RegAlias} {v : W32} {s : State} (hserved : blockGated s 0x30000 = false) (hq : s.aonQ = [])
    (hheld : s.aonHeld = []) (hold : bitOf (regGet s 0x3010C) 31 = false) (hnew : bitOf (aliasWord al (regGet s 0x3010C) v) 31 = true)
    (htag : tagRefuses s = false) (hchecks : thermChecks (regWrite s al 0x3010C v) = none) :
    Answers (.thermalEnable al v) s fun t =>
      regFld t 0x3010C 31 31 = 1 ∧ t.therm = { s.therm with
        warn := ⟨thrLevel s 0x30100, thrHyst s 0x30100⟩, throt := ⟨thrLevel s 0x30104, thrHyst s 0x30104⟩,
        shut := ⟨thrLevel s 0x30108, thrHyst s 0x30108⟩, thrPace := fld (aliasWord al (regGet s 0x3010C) v) 10 0 } ∧
      GateSays s t 0x30000 0 0 0 0 ∧ t.hold = s.hold ∧ t.pace = s.pace := by
  have hview : thermChecks (gateState s al 0x3010C v) = none := by
    rw [thermChecks_view, gateState, gateView_regWrite_wvEdge, ← thermChecks_view, hchecks]
  have hrun : thermGate (gateState s al 0x3010C v) = thermAccept (gateRecord (gateState s al 0x3010C v) 0x30000 0 0 0 0) :=
    gateRun_of_accepts _ (tagRefuses_gateState al v htag (by decide) (by decide)) rfl hview
  have hlevel (o : Nat) (h : o ≠ 0x3010C) : thrLevel (gateState s al 0x3010C v) o = thrLevel s o := by
    rw [thrLevel, regFld_gateState_ne s al v 15 0 h, thrLevel]
  have hhyst (o : Nat) (h : o ≠ 0x3010C) : thrHyst (gateState s al 0x3010C v) o = thrHyst s o := by
    rw [thrHyst, regFld_gateState_ne s al v 23 16 h, thrHyst]
  have hpace : regFld (gateState s al 0x3010C v) 0x3010C 10 0 = fld (aliasWord al (regGet s 0x3010C) v) 10 0 :=
    regFld_regWrite_wide (f := { hi := 10, lo := 0, dflt := 850 }) (wvEdge s) al v fldsApart_therm (rwFields_therm ▸ by decide) rfl rfl rfl
  have hexec : exec (.thermalEnable al v) s = .next (aonRefresh (thermAccept (gateRecord (gateState s al 0x3010C v) 0x30000 0 0 0 0))) := by
    rw [thermalEnable_edge hserved hq hheld hold hnew, ← hrun, gateState]
  obtain ⟨w, hw⟩ : ∃ w, w = { gateRecord (gateState s al 0x3010C v) 0x30000 0 0 0 0 with therm := { s.therm with
      warn := ⟨thrLevel s 0x30100, thrHyst s 0x30100⟩, throt := ⟨thrLevel s 0x30104, thrHyst s 0x30104⟩
      shut := ⟨thrLevel s 0x30108, thrHyst s 0x30108⟩, thrPace := fld (aliasWord al (regGet s 0x3010C) v) 10 0 } } := ⟨_, rfl⟩
  have hacc : thermAccept (gateRecord (gateState s al 0x3010C v) 0x30000 0 0 0 0) = witness (regSetFld w 0x3010C 31 31 1) := by
    have htherm : (gateState s al 0x3010C v).therm = s.therm := by rw [gateState_frame]
    rw [hw, ← hpace, ← hlevel 0x30100 (by decide), ← hlevel 0x30104 (by decide), ← hlevel 0x30108 (by decide), ← hhyst 0x30100 (by decide),
      ← hhyst 0x30104 (by decide), ← hhyst 0x30108 (by decide), ← htherm]
    rfl
  rw [hacc] at hexec
  have hframe : aonRefresh (witness (regSetFld w 0x3010C 31 31 1)) = { w with
      regs := (regSetFld w 0x3010C 31 31 1).regs, pPend := (regSetFld w 0x3010C 31 31 1).pPend
      flt := (witness (regSetFld w 0x3010C 31 31 1)).flt, fns := (witness (regSetFld w 0x3010C 31 31 1)).fns
      cqs := (witness (regSetFld w 0x3010C 31 31 1)).cqs, sent := (witness (regSetFld w 0x3010C 31 31 1)).sent
      mig := (witness (regSetFld w 0x3010C 31 31 1)).mig
      hk := { w.hk with copies := (aonRefresh (witness (regSetFld w 0x3010C 31 31 1))).hk.copies } } := by
    rw [aonRefresh_frame, witness_frame, regSetFld_frame]
  have hkept : w.hold = s.hold ∧ w.pace = s.pace := by
    rw [hw]
    exact ⟨by rw [gateState_frame]; rfl, by rw [gateState_frame]; rfl⟩
  have hsays : GateSays s w 0x30000 0 0 0 0 := by
    rw [hw]
    exact gateSays_congr (gateSays_from (gateSays_accepted (gateState s al 0x3010C v) 0x30000 0) (gateState_refuse s al 0x3010C v)) rfl
  refine ⟨_, hexec, ?_, ?_, gateSays_congr hsays ?_, ?_, ?_⟩
  · rw [regFld_aonRefresh, regFld, regGet_witness]
    exact regFld_regSetFld_same w 0x3010C 1 (by decide) (by decide)
  · rw [hframe, hw]
  · rw [hframe]
  · rw [hframe]
    exact hkept.1
  · rw [hframe]
    exact hkept.2

/-- Deciding commands touches no register, no gate record, no level. -/
theorem DecideFrame.keeps_gates {s t : State} (h : DecideFrame s t) :
    t.regs = s.regs ∧ t.refuse = s.refuse ∧ t.hold = s.hold ∧ t.therm = s.therm := by
  unfold DecideFrame at h
  rw [h]
  exact ⟨rfl, rfl, rfl, rfl⟩

/-- A refresh of the copies touches none of these. -/
theorem aonRefresh_keeps (s : State) :
    (aonRefresh s).regs = s.regs ∧ (aonRefresh s).refuse = s.refuse ∧ (aonRefresh s).hold = s.hold ∧ (aonRefresh s).therm = s.therm := by
  rw [aonRefresh_frame]
  exact ⟨rfl, rfl, rfl, rfl⟩

/-- The Vent gate with every check passed. -/
theorem ventEnable_accepted {al : RegAlias} {v : W32} {s : State} (hserved : blockGated s 0x30000 = false) (hq : s.aonQ = [])
    (hheld : s.aonHeld = []) (hold : bitOf (regGet s 0x30200) 31 = false) (hnew : bitOf (aliasWord al (regGet s 0x30200) v) 31 = true)
    (htag : tagRefuses s = false) (hidle : ventTesting s = false) (hchecks : ventChecks (regWrite s al 0x30200 v) = none) :
    Answers (.ventEnable al v) s fun t =>
      regFld t 0x30200 31 31 = 1 ∧ t.hold = { s.hold with
        deb := fld (aliasWord al (regGet s 0x30200) v) 24 16, warn := regFld s 0x30204 15 0, recover := regFld s 0x30204 31 16 } ∧
      GateSays s t 0x30000 0 0 0 0 ∧ t.therm = s.therm := by
  have hview : ventChecks (gateState s al 0x30200 v) = none := by
    rw [ventChecks_view, gateState, gateView_regWrite_wvEdge, ← ventChecks_view, hchecks]
  have hown : ventTesting (gateState s al 0x30200 v) = false := by
    rw [gateState_frame]
    exact hidle
  have hrun : ventGate (gateState s al 0x30200 v) = ventAccept (gateRecord (gateState s al 0x30200 v) 0x30000 0 0 0 0) :=
    gateRun_of_accepts _ (tagRefuses_gateState al v htag (by decide) (by decide)) hown hview
  have hdeb : regFld (gateState s al 0x30200 v) 0x30200 24 16 = fld (aliasWord al (regGet s 0x30200) v) 24 16 :=
    regFld_regWrite_wide (f := { hi := 24, lo := 16, dflt := 50 }) (wvEdge s) al v fldsApart_vent (rwFields_vent ▸ by decide) rfl rfl rfl
  have hlevel (hi lo : Nat) : regFld (gateState s al 0x30200 v) 0x30204 hi lo = regFld s 0x30204 hi lo :=
    regFld_gateState_ne s al v hi lo (by decide)
  have hexec : exec (.ventEnable al v) s = .next (aonRefresh (ventAccept (gateRecord (gateState s al 0x30200 v) 0x30000 0 0 0 0))) := by
    rw [ventEnable_edge hserved hq hheld hold hnew, ← hrun, gateState]
  obtain ⟨w, hw⟩ : ∃ w, w = { gateRecord (gateState s al 0x30200 v) 0x30000 0 0 0 0 with hold := { s.hold with
      deb := fld (aliasWord al (regGet s 0x30200) v) 24 16, warn := regFld s 0x30204 15 0, recover := regFld s 0x30204 31 16 } } := ⟨_, rfl⟩
  have hacc : ventAccept (gateRecord (gateState s al 0x30200 v) 0x30000 0 0 0 0) = fuaCheck (regSetFld w 0x30200 31 31 1) := by
    have hholdup : (gateState s al 0x30200 v).hold = s.hold := by rw [gateState_frame]
    rw [hw, ← hdeb, ← hlevel, ← hlevel, ← hholdup]
    rfl
  rw [hacc] at hexec
  obtain ⟨hregs, hrefuse, hholdup, htherm⟩ := aonRefresh_keeps (fuaCheck (regSetFld w 0x30200 31 31 1))
  obtain ⟨hregs', hrefuse', hholdup', htherm'⟩ := (fuaCheck_decideFrame (regSetFld w 0x30200 31 31 1)).keeps_gates
  have hsays : GateSays s w 0x30000 0 0 0 0 := by
    rw [hw]
    exact gateSays_congr (gateSays_from (gateSays_accepted (gateState s al 0x30200 v) 0x30000 0) (gateState_refuse s al 0x30200 v)) rfl
  refine ⟨_, hexec, ?_, ?_, gateSays_congr hsays ?_, ?_⟩
  · rw [regFld, regGet, hregs, hregs']
    exact regFld_regSetFld_same w 0x30200 1 (by decide : 31 ≤ 31) (by decide)
  · rw [hholdup, hholdup', regSetFld_frame, hw]
  · rw [hrefuse, hrefuse', regSetFld_frame]
  · rw [htherm, htherm', regSetFld_frame, hw, gateState_frame]
    rfl

/-- The map gate with every check passed sets ARM. -/
theorem dramMapArm_accepted {al : RegAlias} {v : W32} {s : State} (hserved : blockGated s 0x80000 = false)
    (hold : bitOf (regGet s 0x80004) 8 = false) (hnew : bitOf (aliasWord al (regGet s 0x80004) v) 8 = true)
    (htag : tagRefuses s = false) (hchecks : mapChecks (regWrite s al 0x80004 v) = none) :
    Answers (.dramMapArm al v) s fun t => regFld t 0x80004 8 8 = 1 ∧
      regFld t 0x80004 2 0 = fld (aliasWord al (regGet s 0x80004) v) 2 0 ∧ GateSays s t 0x80000 0 0 0 0 ∧ t.dram = s.dram ∧ t.therm = s.therm := by
  have hrun : mapGate (regWrite s al 0x80004 v) = regSetFld (gateRecord (regWrite s al 0x80004 v) 0x80000 0 0 0 0) 0x80004 8 8 1 :=
    gateRun_of_accepts _ (by rw [tagRefuses_regWrite s al v (by decide) (by decide), htag]) rfl hchecks
  have hexec : exec (.dramMapArm al v) s = .next (regSetFld (gateRecord (regWrite s al 0x80004 v) 0x80000 0 0 0 0) 0x80004 8 8 1) := by
    refine next_congr ?_
    rw [if_neg (by simp [hserved]), mapCtrlWrite, gatedWrite_of_raised _ hold hnew, hrun]
  have hchan : regFld (regWrite s al 0x80004 v) 0x80004 2 0 = fld (aliasWord al (regGet s 0x80004) v) 2 0 :=
    regFld_regWrite_wide (f := { hi := 2, lo := 0 }) s al v fldsApart_map (rwFields_map ▸ by decide) rfl rfl rfl
  refine ⟨_, hexec, ?_, ?_, ?_, ?_, ?_⟩
  · exact regFld_regSetFld_same _ 0x80004 1 (by decide) (by decide)
  · rw [regFld_regSetFld_apart _ _ _ (by decide) (by decide) (by decide), ← hchan]
    rfl
  · rw [regSetFld_frame]
    exact gateSays_congr (gateSays_from (gateSays_accepted (regWrite s al 0x80004 v) 0x80000 0) (regWrite_refuse s al 0x80004 v)) rfl
  · rw [regSetFld_frame, regWrite_frame]
    rfl
  · rw [regSetFld_frame, regWrite_frame]
    rfl

/-- Settles O52: each gate accepts with its checks passed, and else records the first that fails. -/
theorem enableGates : Obligations.EnableGates := by
  refine ⟨fun al v s htop hold hnew => ⟨fun htag hrsv hrsv4 hrsv8 h1 h2 h3 h4 h5 h6 h7 h8 =>
      paceEnable_accepted htop hold hnew htag hrsv hrsv4 hrsv8 ⟨h1, h2⟩ ⟨h3, h4⟩ ⟨h5, h6⟩ ⟨h7, h8⟩,
      paceEnable_wrong_tag htop hold hnew⟩,
    fun al v s hserved hq hheld hold hnew htag => ⟨thermalEnable_accepted hserved hq hheld hold hnew htag, fun o b c hfail => ?therm⟩,
    fun s => levels_of_thermChecks,
    fun al v s hserved hq hheld hold hnew htag => ⟨ventEnable_accepted hserved hq hheld hold hnew htag, fun hown => ?owned,
      fun o b c hidle hfail => ?vent⟩,
    fun s => levels_of_ventChecks,
    fun al v s hserved hold hnew htag => ⟨dramMapArm_accepted hserved hold hnew htag, fun o b c hfail => ?map⟩⟩
  case therm =>
    have hview : thermChecks (gateState s al 0x3010C v) = some (o, b, c) := by
      rw [thermChecks_view, gateState, gateView_regWrite_wvEdge, ← thermChecks_view, hfail]
    have hrun : thermGate (gateState s al 0x3010C v) = gateRecord (gateState s al 0x3010C v) 0x30000 (o - 0x30000) b c 0 :=
      gateRun_of_fails _ (tagRefuses_gateState al v htag (by decide) (by decide)) rfl hview
    have hexec := thermalEnable_edge hserved hq hheld hold hnew
    rw [← gateState, hrun] at hexec
    refine ⟨_, hexec, ?_, ?_, gateSays_refused_at_edge s al v _ _ _ _ _ (coded_thermChecks _ _ _ _ hfail)⟩
    · rw [regFld_aonRefresh]
      exact regFld_regWrite_lowered (f := { hi := 31, lo := 31, dflt := 1, gate := true }) al v fldsApart_therm (rwFields_therm ▸ by decide) rfl
        rfl rfl (s := wvEdge s) hold
    · rw [aonRefresh_frame, gateState_frame]
      rfl
  case owned =>
    have hown' : ventTesting (gateState s al 0x30200 v) = true := by
      rw [gateState_frame]
      exact hown
    have hrun : ventGate (gateState s al 0x30200 v) = gateRecord (gateState s al 0x30200 v) 0x30000 (0x30200 - 0x30000) 31 0x10 0 :=
      gateRun_of_owned _ (tagRefuses_gateState al v htag (by decide) (by decide)) hown'
    have hexec := ventEnable_edge hserved hq hheld hold hnew
    rw [← gateState, hrun] at hexec
    refine ⟨_, hexec, ?_, ?_, gateSays_refused_at_edge s al v _ _ 0x200 _ _ (by decide)⟩
    · rw [regFld_aonRefresh]
      exact regFld_regWrite_lowered (f := { hi := 31, lo := 31, dflt := 1, gate := true }) al v fldsApart_vent (rwFields_vent ▸ by decide) rfl
        rfl rfl (s := wvEdge s) hold
    · rw [aonRefresh_frame, gateState_frame]
      rfl
  case vent =>
    have hview : ventChecks (gateState s al 0x30200 v) = some (o, b, c) := by
      rw [ventChecks_view, gateState, gateView_regWrite_wvEdge, ← ventChecks_view, hfail]
    have hown : ventTesting (gateState s al 0x30200 v) = false := by
      rw [gateState_frame]
      exact hidle
    have hrun : ventGate (gateState s al 0x30200 v) = gateRecord (gateState s al 0x30200 v) 0x30000 (o - 0x30000) b c 0 :=
      gateRun_of_fails _ (tagRefuses_gateState al v htag (by decide) (by decide)) hown hview
    have hexec := ventEnable_edge hserved hq hheld hold hnew
    rw [← gateState, hrun] at hexec
    refine ⟨_, hexec, ?_, ?_, gateSays_refused_at_edge s al v _ _ _ _ _ (coded_ventChecks _ _ _ _ hfail)⟩
    · rw [regFld_aonRefresh]
      exact regFld_regWrite_lowered (f := { hi := 31, lo := 31, dflt := 1, gate := true }) al v fldsApart_vent (rwFields_vent ▸ by decide) rfl
        rfl rfl (s := wvEdge s) hold
    · rw [aonRefresh_frame, gateState_frame]
      rfl
  case map =>
    have hrun : mapGate (regWrite s al 0x80004 v) = gateRecord (regWrite s al 0x80004 v) 0x80000 (o - 0x80000) b c 0 :=
      gateRun_of_fails _ (by rw [tagRefuses_regWrite s al v (by decide) (by decide), htag]) rfl hfail
    have hexec : exec (.dramMapArm al v) s = .next (gateRecord (regWrite s al 0x80004 v) 0x80000 (o - 0x80000) b c 0) := by
      refine next_congr ?_
      rw [if_neg (by simp [hserved]), mapCtrlWrite, gatedWrite_of_raised _ hold hnew, hrun]
    refine ⟨_, hexec, ?_, ?_, ?_⟩
    · exact regFld_regWrite_lowered (f := { hi := 8, lo := 8, dflt := 1, gate := true }) al v fldsApart_map (rwFields_map ▸ by decide) rfl rfl rfl hold
    · exact gateSays_from (gateSays_refused (regWrite s al 0x80004 v) 0x80000 _ b 0 (coded_mapChecks _ _ _ _ hfail)) (regWrite_refuse s al 0x80004 v)
    · rw [regWrite_frame]
      rfl

end Sys2Proof.Machine

/-!
PROOFS. The pace meters and the pace loop (R32 to R35).
-/
namespace Sys2Proof.Machine

open Sys2Proof

/-- Of two candidates the lower setpoint. -/
theorem lowerCand_fst (a b : Nat × Nat) : (lowerCand a b).1 = min a.1 b.1 := by
  unfold lowerCand
  split <;> omega

/-- The setpoint that the loop tracks to. -/
def trackOf (p : Pace) (measured eff : Nat) : Nat :=
  if measured < eff then p.vset + p.step else if eff + p.hyst < measured then p.vset - p.step else p.vset

/-- The candidate after the power cap. -/
def capCand (p : Pace) (measured eff est cap : Nat) : Nat × Nat :=
  if cap ≤ est then lowerCand (trackOf p measured eff, 0) (p.vset - p.step, 2) else (trackOf p measured eff, 0)

/-- The candidate after the ceiling. -/
def ceilCand (p : Pace) (measured eff est cap : Nat) : Nat × Nat :=
  if p.ceil < p.vset then lowerCand (capCand p measured eff est cap) (max (p.vset - p.step) p.ceil, 1)
  else if p.ceil < trackOf p measured eff then lowerCand (capCand p measured eff est cap) (p.ceil, 1) else capCand p measured eff est cap

/-- The loop's setpoint is the last candidate, at the floor at least. -/
theorem paceNext_eq (p : Pace) (measured eff est cap tt : Nat) :
    paceNext p measured eff est cap tt =
      let c := ceilCand p measured eff est cap
      let nl : Nat × Nat := if c.1 < 600 then (600, if c.2 = 0 then 3 else c.2) else c
      (nl.1, if nl.2 = 0 ∧ tt < p.target then 4 else nl.2) := rfl

theorem paceNext_fst (p : Pace) (measured eff est cap tt : Nat) :
    (paceNext p measured eff est cap tt).1 = max 600 (ceilCand p measured eff est cap).1 := by
  rw [paceNext_eq]
  dsimp only
  split <;> omega

/-- The power cap takes the setpoint a step down at least. -/
theorem capCand_fst (p : Pace) (measured eff est cap : Nat) :
    (capCand p measured eff est cap).1 = if cap ≤ est then min (trackOf p measured eff) (p.vset - p.step) else trackOf p measured eff := by
  unfold capCand
  split
  · rw [lowerCand_fst]
  · rfl

theorem ceilCand_fst (p : Pace) (measured eff est cap : Nat) :
    (ceilCand p measured eff est cap).1 =
      if p.ceil < p.vset then min (capCand p measured eff est cap).1 (max (p.vset - p.step) p.ceil)
      else if p.ceil < trackOf p measured eff then min (capCand p measured eff est cap).1 p.ceil else (capCand p measured eff est cap).1 := by
  unfold ceilCand
  split
  · rw [lowerCand_fst]
  · split
    · rw [lowerCand_fst]
    · rfl

/-- The bounds of a setpoint: the floor, the ceiling, a step at the power cap. -/
theorem paceNext_bounds (p : Pace) (measured eff est cap tt : Nat) (hceil : 600 ≤ p.ceil) :
    let n := (paceNext p measured eff est cap tt).1
    600 ≤ n ∧ (p.vset ≤ p.ceil → n ≤ p.ceil) ∧ (p.ceil < p.vset → n ≤ max (p.vset - p.step) p.ceil) ∧
    (cap ≤ est → n ≤ max 600 (p.vset - p.step)) := by
  dsimp only
  have hcap : (capCand p measured eff est cap).1 ≤ trackOf p measured eff ∧ (cap ≤ est → (capCand p measured eff est cap).1 ≤ p.vset - p.step) := by
    rw [capCand_fst]
    split <;> omega
  rw [paceNext_fst, ceilCand_fst]
  refine ⟨by omega, fun h => ?_, fun h => ?_, fun h => ?_⟩
  · rw [if_neg (by omega)]
    split <;> omega
  · rw [if_pos h]
    omega
  · have hdown := hcap.2 h
    split
    · omega
    · split <;> omega

/-- Below the cap, the ceiling a step away, the floor too: the loop tracks. -/
theorem paceNext_tracks {p : Pace} {measured eff est cap : Nat} (tt : Nat) (hcap : est < cap) (hceil : p.vset + p.step ≤ p.ceil)
    (hfloor : 600 + p.step ≤ p.vset) :
    paceNext p measured eff est cap tt = (trackOf p measured eff, if tt < p.target then 4 else 0) := by
  have htrack : 600 ≤ trackOf p measured eff ∧ trackOf p measured eff ≤ p.ceil := by
    unfold trackOf
    repeat' split
    all_goals omega
  have hcand : ceilCand p measured eff est cap = (trackOf p measured eff, 0) := by
    rw [ceilCand, if_neg (by omega), if_neg (by omega), capCand, if_neg (by omega)]
  rw [paceNext_eq, hcand]
  dsimp only
  rw [if_neg (by omega)]
  simp only [true_and]

/-- A meter's record at the end of its window. -/
def meterDone (m reading : Nat) (s : State) : Meter :=
  let x := tget {} s.pace.meters m
  if meterGated s m then { x with pace := 0, endAt := now s }
  else { pace := min reading 2000, min := if x.fresh then min reading 2000 else min x.min (min reading 2000), fresh := false, endAt := now s }

theorem execPaceWindowEnd_of_due {m reading : Nat} {s : State} (hm : m ≤ 8) (hdue : (tget {} s.pace.meters m).endAt + 1000000 ≤ now s) :
    execPaceWindowEnd m reading s = .next { s with pace := { s.pace with meters := tset {} s.pace.meters m (meterDone m reading s) } } :=
  if_neg (by omega)

/-- The pace state after an action that tracks. -/
theorem paceActed_tracks {est : Nat} {s : State} {p : Pace} {eff : Nat} (hp : (paceLatch s).pace = p) (heff : min p.target s.therm.ttarget = eff)
    (hfault : p.avsFault = false) (hcap : est < powerCap s.pwr.cur) (hceil : p.vset + p.step ≤ p.ceil) (hfloor : 600 + p.step ≤ p.vset) :
    (paceActed est s).effTarget = eff ∧ (paceActed est s).limit = (if s.therm.ttarget < p.target then 4 else 0) ∧
    (paceActed est s).avsOut = if trackOf p (measuredPace s) eff = p.vset then none else some (trackOf p (measuredPace s) eff) := by
  unfold paceActed
  rw [hp]
  dsimp only
  rw [heff, paceNext_tracks _ hcap hceil hfloor, hfault]
  refine ⟨rfl, rfl, ?_⟩
  by_cases h : trackOf p (measuredPace s) eff = p.vset <;> simp [h]

/-- Settles O40: a meter's record at the window's end, the loop where it tracks, and the bounds of its setpoint. -/
theorem paceLoop : Obligations.PaceLoop := by
  refine ⟨fun m reading s hm hdue => ?meter, fun est s hacts hdue hidle hfault => ?acts,
    fun p measured eff est cap tt hceil => paceNext_bounds p measured eff est cap tt hceil⟩
  case meter =>
    refine ⟨_, execPaceWindowEnd_of_due hm hdue, fun hgated => ?_, fun hon => ?_, rfl⟩
    · dsimp only
      rw [tget_tset_same, meterDone, if_pos hgated]
      exact ⟨rfl, rfl⟩
    · dsimp only
      rw [tget_tset_same, meterDone, if_neg (by simp [hon])]
      refine ⟨rfl, rfl, ?_⟩
      dsimp only
      split <;> omega
  case acts =>
    intro p eff hcap hceil hfloor hstep
    have hsame : (paceLatch (estRecorded est s)).pace = p := by rw [estRecorded_frame]; rfl
    have htherm : (estRecorded est s).therm = s.therm := by rw [estRecorded_frame]
    have hmeas : measuredPace (estRecorded est s) = measuredPace s := by rw [estRecorded_frame]; rfl
    have hcur : (estRecorded est s).pwr.cur = s.pwr.cur := by rw [estRecorded_frame]
    have hvset : p.vset = s.pace.vset := rfl
    obtain ⟨hefft, hlimit, hout⟩ := paceActed_tracks (est := est) hsame (by rw [htherm]) hfault (by rw [hcur]; exact hcap) hceil hfloor
    rw [htherm] at hlimit
    rw [hmeas] at hout
    refine ⟨_, execPaceLoopAction_of_acts est hacts hidle hdue, hefft, hlimit, fun hlow => hout.trans ?_, fun hhigh => hout.trans ?_,
      fun hge hle => hout.trans ?_, by rw [paceActed_vset, estRecorded_pace]⟩
    · have htrack : trackOf p (measuredPace s) eff = s.pace.vset + p.step := if_pos hlow
      rw [htrack, hvset, if_neg (by omega)]
    · have htrack : trackOf p (measuredPace s) eff = s.pace.vset - p.step := by
        rw [trackOf, if_neg (by omega), if_pos hhigh, hvset]
      rw [htrack, hvset, if_neg (by omega)]
    · have htrack : trackOf p (measuredPace s) eff = p.vset := by rw [trackOf, if_neg (by omega), if_neg (by omega)]
      exact if_pos htrack

end Sys2Proof.Machine

/-!
PROOFS. The noise source and the DRBG (R407 to R409): what an answer to a waiting request leaves of the health tests, and a sample in each
outcome of the tests.
-/
namespace Sys2Proof.Machine

open Sys2Proof

/-! ### What the answers leave of the health tests -/

/-- The counts of the health tests are kept, and with no request waiting none waits. -/
def NoiseKept (s t : State) : Prop :=
  t.sec.lastBit = s.sec.lastBit ∧ t.sec.rep = s.sec.rep ∧ t.sec.winCount = s.sec.winCount ∧ t.sec.winPos = s.sec.winPos ∧
  t.sec.startUp = s.sec.startUp ∧ t.sec.fill = s.sec.fill ∧ (s.sec.waits = [] → t.sec.waits = [])

namespace NoiseKept

theorem refl (s : State) : NoiseKept s s := ⟨rfl, rfl, rfl, rfl, rfl, rfl, fun h => h⟩

theorem trans {s t u : State} (h1 : NoiseKept s t) (h2 : NoiseKept t u) : NoiseKept s u := by
  obtain ⟨a, b, c, d, e, f, g⟩ := h1
  obtain ⟨a', b', c', d', e', f', g'⟩ := h2
  exact ⟨a'.trans a, b'.trans b, c'.trans c, d'.trans d, e'.trans e, f'.trans f, fun h => g' (g h)⟩

theorem of_sec {s t : State} (h : t.sec = s.sec) : NoiseKept s t := by
  unfold NoiseKept
  rw [h]
  exact ⟨rfl, rfl, rfl, rfl, rfl, rfl, fun h => h⟩

end NoiseKept

theorem keysEnd_sec (s : State) : (keysEnd s).sec = s.sec := by
  unfold keysEnd
  split
  · rfl
  · dsimp only
    rw [foldl_failR_frame, foldl_encrypts_frame]
    intro u x
    split <;> rfl

theorem dozeLeave_sec (src : Nat) (s : State) : (dozeLeave src s).sec = s.sec := by
  unfold dozeLeave
  split
  · rfl
  · dsimp only
    rw [psBegin_frame]
    split <;> rfl

/-- Requests that wait are answered with an ERROR each, the last first. -/
theorem foldl_spdmError (l : List SpdmWait) (s : State) :
    l.foldl (fun s _ => emit .spdmError s) s = { s with sent := l.map (fun _ => .spdmError) ++ s.sent } := by
  induction l generalizing s with
  | nil => rfl
  | cons w l ih =>
    rw [List.foldl_cons, ih, List.map_const', List.map_const', List.length_cons, List.replicate_succ', List.append_assoc]
    rfl

theorem waitsEnd_eq (s : State) :
    waitsEnd s = { s with sent := s.sec.waits.map (fun _ => .spdmError) ++ s.sent, sec := { s.sec with waits := [] } } :=
  foldl_spdmError _ _

/-- The security state after entry to the cryptographic error state: the noise source goes on, no request waits. -/
theorem cryptoError_sec (fail engine : Nat) (pass : List Nat) (s : State) :
    (cryptoError fail engine pass s).sec = { s.sec with
      sessions := [], waits := [], st := 2, fail := fail, engine := engine, passEng := pass
      drbgFailed := fail = 0x0A || fail = 0x0B || fail = 0x0C } := by
  have henter (why : Nat) (u : State) : (enterHalt why u).sec = u.sec := by rw [enterHalt_frame]
  unfold cryptoError
  rw [waitsEnd_eq]
  extract_lets a b c u
  have hu : u.sec = { s.sec with
      sessions := [], waits := [], st := 2, fail := fail, engine := engine, passEng := pass
      drbgFailed := fail = 0x0A || fail = 0x0B || fail = 0x0C } := rfl
  clear_value u
  rw [← hu]
  split
  · rfl
  · rfl
  · split
    · exact henter _ _
    · rfl
  · rw [henter]
    split
    · rfl
    · exact dozeLeave_sec _ _
  · rfl
  · rw [henter, capTestCut_frame]
  · exact henter _ _
  · exact henter _ _

/-- From RUN the error state is entered in HALT, with an ERROR for each request that waited. -/
theorem cryptoError_halts {s : State} (h : s.md.cur = .run) (fail engine : Nat) (pass : List Nat) :
    let t := cryptoError fail engine pass s
    t.md.cur = .halt ∧ t.md.haltWhy = 1 ∧ t.sent = s.sec.waits.map (fun _ => .spdmError) ++ s.sent ∧ t.vault = s.vault ∧ t.rjobs = s.rjobs ∧
      t.co.role = false := by
  unfold cryptoError
  rw [waitsEnd_eq]
  unfold coEnd sessionsEnd
  simp only [h]
  rw [capTestCut_frame]
  unfold enterHalt setMode
  simp [h]

theorem noiseKept_cryptoError (fail engine : Nat) (pass : List Nat) (s : State) : NoiseKept s (cryptoError fail engine pass s) := by
  unfold NoiseKept
  rw [cryptoError_sec]
  exact ⟨rfl, rfl, rfl, rfl, rfl, rfl, fun _ => rfl⟩

theorem noiseKept_signed (body : List Byte) (s : State) : NoiseKept s (signed body s) :=
  ⟨rfl, rfl, rfl, rfl, rfl, rfl, fun h => h⟩

theorem noiseKept_exchanged (ok : Bool) (s : State) : NoiseKept s (exchanged ok s) := by
  unfold exchanged
  split
  · exact .refl s
  · split
    · exact .trans (s := s) (t := cryptoError 0x0D 0 (katPass s) (freeNext s)) (noiseKept_cryptoError _ _ _ (freeNext s)) (.of_sec (keysEnd_sec _))
    · exact ⟨rfl, rfl, rfl, rfl, rfl, rfl, fun h => h⟩

theorem noiseKept_spdmAnswer (w : SpdmWait) (s : State) : NoiseKept s (spdmAnswer w s) := by
  cases w with
  | challenge => exact noiseKept_signed _ s
  | measure => exact noiseKept_signed _ s
  | exchange ok => exact noiseKept_exchanged ok s

/-- Answering a list of requests leaves the tests as they are. -/
theorem noiseKept_answers (l : List SpdmWait) (s : State) :
    NoiseKept s (l.foldl (fun s w => if s.sec.st = 2 then emit .spdmError s else spdmAnswer w s) s) := by
  induction l generalizing s with
  | nil => exact .refl s
  | cons w l ih =>
    refine .trans ?_ (ih _)
    dsimp only
    split
    · exact .of_sec rfl
    · exact noiseKept_spdmAnswer w s

/-! ### A sample -/

/-- The state after a sample has moved the tests on. -/
def sampled (bit : Bool) (s : State) : State :=
  { s with sec := { s.sec with
      lastBit := some bit, rep := if s.sec.lastBit = some bit then s.sec.rep + 1 else 1
      winFirst := if s.sec.winPos = 0 then bit else s.sec.winFirst
      winCount := if s.sec.winPos = 0 then 1 else if bit = s.sec.winFirst then s.sec.winCount + 1 else s.sec.winCount
      winPos := (s.sec.winPos + 1) % 1024, startUp := s.sec.startUp - 1
      fill := if s.sec.startUp = 0 then s.sec.fill - 1 else s.sec.fill } }

/-- A sample is judged by the counts that it brings. -/
theorem exec_noiseSample {bit : Bool} {s : State} (hdrbg : s.sec.drbg = true) (hst : s.sec.st ≠ 2) (hcore : coreOn s = true) :
    exec (.noiseSample bit) s = .next (if 41 ≤ (sampled bit s).sec.rep ∨ 800 ≤ (sampled bit s).sec.winCount then noiseFail (sampled bit s)
      else waitsServed (sampled bit s)) := by
  have hcount : (if s.sec.winPos = 0 then 1 else if bit = (if s.sec.winPos = 0 then bit else s.sec.winFirst) then s.sec.winCount + 1
      else s.sec.winCount) = (sampled bit s).sec.winCount := by
    unfold sampled
    dsimp only
    by_cases h : s.sec.winPos = 0
    · rw [if_pos h, if_pos h]
    · rw [if_neg h, if_neg h, if_neg h]
  change execNoiseSample bit s = _
  rw [execNoiseSample, if_neg (by simp [hdrbg, hst, hcore])]
  dsimp only
  rw [hcount]
  rfl

/-- While the source tests or fills, or with none waiting, no answer goes out. -/
theorem waitsServed_of_idle {s : State} (h : s.sec.waits = [] ∨ s.sec.startUp ≠ 0 ∨ s.sec.fill ≠ 0) : waitsServed s = s := by
  unfold waitsServed
  split
  next hready =>
    have hnone : s.sec.waits = [] := h.resolve_right fun hbusy => hbusy.elim (· hready.1) (· hready.2)
    rw [hnone, List.foldl_nil, ← hnone]
  next => rfl

/-- The requests that wait are answered once samples are at hand. -/
theorem waitsServed_of_ready {s : State} (hup : s.sec.startUp = 0) (hfill : s.sec.fill = 0) :
    waitsServed s = s.sec.waits.foldl (fun s w => if s.sec.st = 2 then emit .spdmError s else spdmAnswer w s)
      { s with sec := { s.sec with waits := [] } } := if_pos ⟨hup, hfill⟩

/-- Answering what waits leaves the tests as they are. -/
theorem noiseKept_waitsServed (s : State) : NoiseKept s (waitsServed s) := by
  unfold waitsServed
  split
  · refine .trans (t := { s with sec := { s.sec with waits := [] } }) ⟨rfl, rfl, rfl, rfl, rfl, rfl, fun _ => rfl⟩ (noiseKept_answers _ _)
  · exact .refl s

/-- The window discarded at a failure. -/
def windowEnded (s : State) : State :=
  { s with sec := { s.sec with
      lastBit := none, rep := 0, winPos := 0, winCount := 0, startUp := 1024
      fill := if s.sec.fill = 0 ∨ s.sec.startUp ≠ 0 then s.sec.fill else min 1536 (s.sec.fill + (s.sec.winPos + 1023) % 1024 + 1)
      failTimes := (now s :: s.sec.failTimes.filter fun x => now s ≤ x + 1000000000).take 3 } }

/-- A failure counts those within the last second (R409). -/
theorem noiseFail_eq (s : State) :
    noiseFail s = if 2 ≤ (s.sec.failTimes.filter fun x => now s ≤ x + 1000000000).length
      then keysEnd (cryptoError 0x0C 0 (katPass (windowEnded s)) (freeNext (windowEnded s))) else windowEnded s := by
  have hself : (now s :: s.sec.failTimes).filter (fun x => decide (now s ≤ x + 1000000000)) =
      now s :: s.sec.failTimes.filter fun x => now s ≤ x + 1000000000 :=
    List.filter_cons_of_pos (by simp)
  unfold noiseFail
  rw [hself]
  dsimp only
  rw [List.length_cons]
  by_cases h : 2 ≤ (s.sec.failTimes.filter fun x => now s ≤ x + 1000000000).length
  · rw [if_pos h, if_pos (by omega)]
    rfl
  · rw [if_neg h, if_neg (by omega)]
    rfl

theorem windowEnded_frame (s : State) : windowEnded s = { s with sec := (windowEnded s).sec } := rfl

theorem sampled_frame (bit : Bool) (s : State) : sampled bit s = { s with sec := (sampled bit s).sec } := rfl

/-- A sample and a discarded window touch only the tests. -/
theorem windowEnded_sampled_keeps (bit : Bool) (s : State) :
    let u := freeNext (windowEnded (sampled bit s))
    u.md = s.md ∧ u.rjobs = s.rjobs ∧ u.vault = s.vault ∧ u.sent = s.sent ∧ u.sec.waits = s.sec.waits := by
  have hwaits : (windowEnded (sampled bit s)).sec.waits = s.sec.waits := rfl
  dsimp only
  rw [← hwaits, windowEnded_frame, sampled_frame]
  exact ⟨rfl, rfl, rfl, rfl, rfl⟩

/-- Settles O42: by the tests' outcome at the sample, and the reseed by its guard. -/
theorem noiseAndReseed : Obligations.NoiseAndReseed := by
  refine ⟨fun bit s hdrbg hst hcore => ⟨fun hrep hcnt => ?passed, fun hfail hfew => ?failed, fun hfail hmany hrun hreads => ?third⟩,
    fun s hdrbg hst hup hdue => ?reseed⟩
  case passed =>
    have hexec := exec_noiseSample (bit := bit) hdrbg hst hcore
    have hpass : ¬ (41 ≤ (sampled bit s).sec.rep ∨ 800 ≤ (sampled bit s).sec.winCount) := not_or.mpr ⟨Nat.not_le.mpr hrep, Nat.not_le.mpr hcnt⟩
    rw [if_neg hpass] at hexec
    obtain ⟨hlast, hrepk, hcntk, hposk, hupk, hfillk, -⟩ := noiseKept_waitsServed (sampled bit s)
    refine ⟨_, hexec, hlast, hrepk, hcntk, hposk, hupk, hfillk, fun hidle => ?_, fun hup hfill => ⟨?_, fun hone => ?_⟩⟩
    · rw [waitsServed_of_idle (s := sampled bit s) hidle]
      exact ⟨rfl, rfl, rfl⟩
    · rw [waitsServed_of_ready (s := sampled bit s) hup hfill]
      exact (noiseKept_answers _ _).2.2.2.2.2.2 rfl
    · obtain ⟨n, g, hn, hg, hsigned⟩ := signed_shape (spdmHead 0x03 0 1 ++ sha384 certChain)
        { sampled bit s with sec := { (sampled bit s).sec with waits := [] } }
      have hwaits : (sampled bit s).sec.waits = [.challenge] := hone
      have hserved : waitsServed (sampled bit s) = signed (spdmHead 0x03 0 1 ++ sha384 certChain)
          { sampled bit s with sec := { (sampled bit s).sec with waits := [] } } := by
        rw [waitsServed_of_ready (s := sampled bit s) hup hfill, hwaits, List.foldl_cons, List.foldl_nil]
        exact if_neg hst
      rw [hserved, hsigned]
      exact ⟨rfl, rfl, n, g, hn, hg, rfl⟩
  case failed =>
    have hexec := exec_noiseSample (bit := bit) hdrbg hst hcore
    have hfail' : 41 ≤ (sampled bit s).sec.rep ∨ 800 ≤ (sampled bit s).sec.winCount := hfail
    have hfew' : ¬ 2 ≤ ((sampled bit s).sec.failTimes.filter fun x => now (sampled bit s) ≤ x + 1000000000).length := Nat.not_le.mpr hfew
    rw [if_pos hfail', noiseFail_eq, if_neg hfew'] at hexec
    exact ⟨_, hexec, rfl, rfl, rfl, rfl, rfl, rfl⟩
  case third =>
    have hexec := exec_noiseSample (bit := bit) hdrbg hst hcore
    have hfail' : 41 ≤ (sampled bit s).sec.rep ∨ 800 ≤ (sampled bit s).sec.winCount := hfail
    have hmany' : 2 ≤ ((sampled bit s).sec.failTimes.filter fun x => now (sampled bit s) ≤ x + 1000000000).length := hmany
    rw [if_pos hfail', noiseFail_eq, if_pos hmany'] at hexec
    obtain ⟨u, hu⟩ : ∃ u, u = freeNext (windowEnded (sampled bit s)) := ⟨_, rfl⟩
    obtain ⟨hmd, hreadsk, hvault, hout, hwaits⟩ := windowEnded_sampled_keeps bit s
    rw [← hu] at hexec hmd hreadsk hvault hout hwaits
    have hmode : u.md.cur = .run := by rw [hmd, hrun]
    have hsent : u.sec.waits.map (fun _ => Xfer.spdmError) ++ u.sent = s.sec.waits.map (fun _ => Xfer.spdmError) ++ s.sent := by
      rw [hwaits, hout]
    clear hu
    obtain ⟨hcur, hwhy, hanswers, hkeys, hrjobs, hrole⟩ := cryptoError_halts hmode 0x0C 0 (katPass (windowEnded (sampled bit s)))
    have hsec := cryptoError_sec 0x0C 0 (katPass (windowEnded (sampled bit s))) u
    rw [keysEnd_frame_of_no_reads (hrjobs.trans (hreadsk.trans hreads))] at hexec
    refine ⟨_, hexec, ?_, ?_, ?_, ?_, ?_, hrole, hcur, hwhy, hkeys.trans hvault, hanswers.trans hsent⟩
    all_goals
      dsimp only
      rw [hsec]
    rfl
  case reseed =>
    refine ⟨_, next_congr (if_pos ⟨hdrbg, hst, hup, ?_⟩), rfl⟩
    simpa using hdue

end Sys2Proof.Machine

/-!
PROOFS. The reference clock (R40) and the rows that a timer brings (R394, R412, R444, R446, R466, R470).
-/
namespace Sys2Proof.Machine

open Sys2Proof

/-- A mark's evaluation leaves the marks and their count. -/
theorem witnessEval_flt (b : Bool) (s : State) :
    (witnessEval b s).flt.computed = s.flt.computed ∧ (witnessEval b s).flt.seq = s.flt.seq ∧ (witnessEval b s).flt.expected = s.flt.expected := by
  unfold witnessEval mismatchPost
  dsimp only
  repeat' split
  · exact ⟨rfl, rfl, rfl⟩
  · exact ⟨rfl, rfl, rfl⟩
  · exact ⟨rfl, rfl, rfl⟩
  · rw [postEvent_frame]
    exact ⟨rfl, rfl, rfl⟩
  · exact ⟨rfl, rfl, rfl⟩

/-- With the core domain on the mark is recomputed and counted. -/
theorem witness_flt {s : State} (h : coreOn s = true) :
    (witness s).flt.computed = witnessMark s ∧ (witness s).flt.seq = s.flt.seq + 1 ∧ (witness s).flt.expected = s.flt.expected := by
  rw [witness, if_neg (not_not_intro h)]
  exact witnessEval_flt _ _

theorem coreOn_of_coreRuns {s : State} (h : coreRuns s = true) : coreOn s = true := by
  rw [coreRuns, Bool.and_eq_true] at h
  exact h.2

/-- A mismatch is marked, and told of at the front-end only. -/
theorem mismatchPost_eq (s : State) :
    (mismatchPost s).flt = { s.flt with mismatch := true, posted := true, settle := none } ∧
    mismatchPost s = { s with
      flt := (mismatchPost s).flt, fns := (mismatchPost s).fns, cqs := (mismatchPost s).cqs, sent := (mismatchPost s).sent
      mig := (mismatchPost s).mig } := by
  unfold mismatchPost
  dsimp only
  split
  · exact ⟨rfl, rfl⟩
  · rw [postEvent_frame]
    exact ⟨rfl, rfl⟩

/-- Settles O41: each row of the clock and of a timer by its guard and its one update. -/
theorem clockAndTimers : Obligations.ClockAndTimers := by
  refine ⟨⟨fun s href => ?loss, fun s href hon => ?back, fun s hoff => ?held, fun n => ?ticks⟩,
    fun s hruns => ?mark, fun s t0 hsettle hruns hdue => ?settle, fun s t0 hlock hdue => ?lockout, fun n s => ?heartbeat,
    fun s => ⟨_, rfl, rfl, rfl⟩, fun s hruns => ⟨_, next_congr (if_pos hruns), rfl⟩⟩
  case loss =>
    refine ⟨_, next_congr (if_pos href), ?_, rfl, rfl, rfl, rfl, rfl⟩
    simp [now, href, ticksNs]
  case back =>
    have hback : (if s.pwr.coreOff then { s with clk := { s.clk with refPin := true } } else timeBack { s with clk := { s.clk with refPin := true } }) =
        { s with clk := { s.clk with refPin := true, refOn := true, time := max (now s) s.clk.lastRead } } := by
      rw [if_neg (by simp [hon]), timeBack, if_neg (by simp [href])]
      rfl
    refine ⟨_, next_congr hback, rfl, rfl, ?_, rfl⟩
    simp [now, href]
  case held => exact ⟨_, next_congr (if_pos hoff), rfl, rfl⟩
  case ticks =>
    unfold ticksNs
    omega
  case mark =>
    have hexec : exec .witnessRecompute s = .next (witness s) := next_congr (if_pos hruns)
    obtain ⟨hmark, hseq, hexp⟩ := witness_flt (coreOn_of_coreRuns hruns)
    refine ⟨_, hexec, hmark, hseq, hexp, ?_, ?_⟩
    · rw [witness_frame]
    · rw [witness_frame]
  case settle =>
    have hexec : exec .witnessSettleExpiry s = .next (mismatchPost s) := by
      change execWitnessSettleExpiry s = _
      rw [execWitnessSettleExpiry, hsettle]
      exact next_congr (if_pos ⟨hruns, hdue⟩)
    exact ⟨_, hexec, mismatchPost_eq s⟩
  case lockout =>
    have hexec : exec .coLockoutExpiry s = .next { s with co := { s.co with lockedUntil := none } } := by
      change execCoLockoutExpiry s = _
      rw [execCoLockoutExpiry, hlock]
      exact next_congr (if_pos hdue)
    exact ⟨_, hexec, rfl⟩
  case heartbeat =>
    refine ⟨_, rfl, fun x hx => ?_, fun x hx hne => List.mem_filter.mpr ⟨hx, by simpa using hne⟩, rfl⟩
    simpa using (List.mem_filter.mp hx).2

end Sys2Proof.Machine

/-!
PROOFS. The DRAM controller's training and refresh (R318 to R321), and its errors, retirements, spares and migrations (R322 to R330).
-/
namespace Sys2Proof.Machine

open Sys2Proof

/-! ### Ranks and migrations -/

theorem rankOf_modRank_same (r : Nat) (g : Rank → Rank) (s : State) : rankOf (modRank r g s) r = g (rankOf s r) := tget_tset_same _ _ _

theorem rankOf_modRank_ne {r k : Nat} (g : Rank → Rank) (s : State) (h : r ≠ k) : rankOf (modRank r g s) k = rankOf s k := tget_tset_ne _ _ h

theorem migOf_setMig_same (c : Nat) (m : MigCh) (s : State) : migOf (setMig c m s) c = m := tget_tset_same _ _ _

/-- A rank is one of its channel's. -/
theorem mem_chanRanks (r : Nat) : r ∈ chanRanks (rankChan r) := by
  simp only [chanRanks, rankChan, List.mem_cons, List.not_mem_nil, or_false]
  omega

theorem modRank_frame (r : Nat) (g : Rank → Rank) (s : State) : modRank r g s = { s with dram := (modRank r g s).dram } := rfl

/-- The DRAM controller alone changes. -/
def DramOnly (s t : State) : Prop := t = { s with dram := t.dram }

theorem DramOnly.trans {s t u : State} (h1 : DramOnly s t) (h2 : DramOnly t u) : DramOnly s u := by
  unfold DramOnly at h1 h2 ⊢
  rw [h2, h1]

theorem dramOnly_modRank (r : Nat) (g : Rank → Rank) (s : State) : DramOnly s (modRank r g s) := rfl

/-! ### Retraining (R318) -/

theorem rankTrainNext_frame (c : Nat) (s : State) : rankTrainNext c s = { s with dram := (rankTrainNext c s).dram } := by
  unfold rankTrainNext
  split
  · rfl
  · split <;> rfl

theorem rankTrain_frame (r : Nat) (s : State) : rankTrain r s = { s with dram := (rankTrain r s).dram } := by
  unfold rankTrain
  rw [rankTrainNext_frame]
  rfl

/-- With no rank of the channel waiting none is started. -/
theorem rankTrainNext_of_none {c : Nat} {s : State} (h : ∀ k ∈ chanRanks c, (rankOf s k).wantRetrain = false) : rankTrainNext c s = s := by
  have hnone : (chanRanks c).find? (fun r => (rankOf s r).wantRetrain) = none :=
    List.find?_eq_none.mpr fun k hk => by simp [h k hk]
  unfold rankTrainNext
  rw [hnone]
  split <;> rfl

/-- A channel with no rank retraining starts the only one that waits. -/
theorem rankTrainNext_of_only {c r : Nat} {s : State} (hr : r ∈ chanRanks c) (hidle : ∀ k ∈ chanRanks c, (rankOf s k).retraining = false)
    (hwant : (rankOf s r).wantRetrain = true) (honly : ∀ k ∈ chanRanks c, k ≠ r → (rankOf s k).wantRetrain = false) :
    rankTrainNext c s = modRank r (fun k => { k with wantRetrain := false, retraining := true }) s := by
  have hnot : ¬ (chanRanks c).any (fun r => (rankOf s r).retraining) = true := by
    simp only [List.any_eq_true, not_exists, not_and, Bool.not_eq_true]
    exact hidle
  unfold rankTrainNext
  rw [if_neg hnot]
  obtain ⟨k, hfind⟩ : ∃ k, (chanRanks c).find? (fun r => (rankOf s r).wantRetrain) = some k :=
    Option.isSome_iff_exists.mp (List.find?_isSome.mpr ⟨r, hr, hwant⟩)
  have hk : k = r := by
    refine Decidable.byContradiction fun hne => ?_
    have hwaits := List.find?_some hfind
    rw [honly k (List.mem_of_find?_eq_some hfind) hne] at hwaits
    exact Bool.false_ne_true hwaits
  rw [hfind, hk]

/-- Whether a rank retrains or waits for it. -/
def trains (s : State) (r : Nat) : Prop := (rankOf s r).retraining = true ∨ (rankOf s r).wantRetrain = true

/-- A rank that waits and is started retrains: nothing is forgotten. -/
theorem trains_rankTrainNext {c k : Nat} {s : State} (h : trains s k) : trains (rankTrainNext c s) k := by
  unfold rankTrainNext
  split
  · exact h
  · split
    next r hfind =>
      by_cases hr : r = k
      · subst hr
        left
        rw [rankOf_modRank_same]
      · unfold trains
        rw [rankOf_modRank_ne _ _ hr]
        exact h
    next => exact h

/-- A rank that is to retrain does or waits. -/
theorem trains_rankTrain_same (r : Nat) (s : State) : trains (rankTrain r s) r := by
  refine trains_rankTrainNext ?_
  unfold trains
  rw [rankOf_modRank_same]
  cases (rankOf s r).retraining <;> simp

theorem trains_rankTrain {r k : Nat} {s : State} (h : trains s k) : trains (rankTrain r s) k := by
  by_cases hr : r = k
  · subst hr
    exact trains_rankTrain_same r s
  · refine trains_rankTrainNext ?_
    unfold trains
    rw [rankOf_modRank_ne _ _ hr]
    exact h

/-- Asked of a list of ranks, each retrains or waits. -/
theorem trains_foldl_rankTrain {l : List Nat} {k : Nat} {s : State} (h : k ∈ l ∨ trains s k) :
    trains (l.foldl (fun s r => rankTrain r s) s) k := by
  induction l generalizing s with
  | nil => exact h.resolve_left List.not_mem_nil
  | cons r l ih =>
    rw [List.foldl_cons]
    refine ih ?_
    obtain hmem | htrains := h
    · obtain rfl | hmem := List.mem_cons.mp hmem
      · exact .inr (trains_rankTrain_same k s)
      · exact .inl hmem
    · exact .inr (trains_rankTrain htrains)

theorem foldl_rankTrain_frame (l : List Nat) (s : State) :
    l.foldl (fun s r => rankTrain r s) s = { s with dram := (l.foldl (fun s r => rankTrain r s) s).dram } := by
  induction l generalizing s with
  | nil => rfl
  | cons r l ih => rw [List.foldl_cons, ih, rankTrain_frame]

/-! ### MR4 (R319) -/

/-- Each rank of a list without repeats is changed once, by its own function. -/
theorem rankOf_foldl_modRank {l : List Nat} (hl : l.Nodup) (g : Nat → Rank → Rank) (s : State) (k : Nat) :
    rankOf (l.foldl (fun s r => modRank r (g r) s) s) k = if k ∈ l then g k (rankOf s k) else rankOf s k := by
  induction l generalizing s with
  | nil => rfl
  | cons r l ih =>
    obtain ⟨hr, hl⟩ := List.nodup_cons.mp hl
    rw [List.foldl_cons, ih hl]
    by_cases hk : k = r
    · subst hk
      rw [if_neg hr, if_pos List.mem_cons_self, rankOf_modRank_same]
    · rw [rankOf_modRank_ne _ _ (Ne.symm hk)]
      simp [hk]

theorem foldl_modRank_frame (l : List Nat) (g : Nat → Rank → Rank) (s : State) :
    l.foldl (fun s r => modRank r (g r) s) s = { s with dram := { s.dram with ranks := (l.foldl (fun s r => modRank r (g r) s) s).dram.ranks } } := by
  induction l generalizing s with
  | nil => rfl
  | cons r l ih =>
    rw [List.foldl_cons, ih]
    rfl

/-- The MR4 readings: the field read in each round is that of the state before. -/
theorem execMr4Poll_of_due {hot : BitVec 16} {s : State} (hon : dramOn s = true) (hdue : s.dram.mr4At + 1000000 ≤ now s) :
    execMr4Poll hot s = .next (((List.range 16).filter fun r => rankLive (rankOf s r).st).foldl
      (fun u r => modRank r (fun k => { k with hot := hot.getLsbD r, doubled := hot.getLsbD r && decide (regFld s 0x80060 9 9 = 1) }) u)
      { s with dram := { s.dram with mr4At := now s } }) := by
  have hfold (l : List Nat) (u : State) (hu : regGet u 0x80060 = regGet s 0x80060) :
      l.foldl (fun s r => modRank r (fun k => { k with hot := hot.getLsbD r, doubled := hot.getLsbD r && regFld s 0x80060 9 9 = 1 }) s) u =
      l.foldl (fun u r => modRank r (fun k => { k with hot := hot.getLsbD r, doubled := hot.getLsbD r && decide (regFld s 0x80060 9 9 = 1) }) u) u := by
    induction l generalizing u with
    | nil => rw [List.foldl_nil, List.foldl_nil]
    | cons r l ih =>
      rw [List.foldl_cons, List.foldl_cons, regFld, hu]
      exact ih _ hu
  refine next_congr ?_
  rw [if_neg (by simp [hon, hdue])]
  exact hfold _ _ rfl

/-- Settles O35: by what each row of training and refresh does to its ranks. -/
theorem dramTrainingAndRefresh : Obligations.DramTrainingAndRefresh := by
  refine ⟨fun r drift s hon hlive hdrift hdue hidle => ?drift, fun s hon => ?retrain, fun r s hruns hwant => ?done, fun hot s hon hdue => ?mr4,
    fun r busy s hon hlive hdue => ?refresh⟩
  case drift =>
    obtain ⟨hstill, hunasked⟩ := hidle r (mem_chanRanks r)
    have hcheck : rankDriftDue s r = true := by
      unfold rankDriftDue
      simpa [or_assoc] using hdue
    have hexec : exec (.dramDriftCheck r drift) s = .next (rankTrain r (modRank r (fun k => { k with lastCheck := now s, checkDue := false }) s)) := by
      change execDramDriftCheck r drift s = _
      rw [execDramDriftCheck, if_neg (by simp [hon, hlive, hstill, hcheck])]
      exact next_congr (if_pos hdrift)
    obtain ⟨u, hu⟩ : ∃ u, u = modRank r (fun k => { k with wantRetrain := !k.retraining || k.wantRetrain })
        (modRank r (fun k => { k with lastCheck := now s, checkDue := false }) s) := ⟨_, rfl⟩
    have hself : rankOf u r = { rankOf s r with lastCheck := now s, checkDue := false, wantRetrain := true } := by
      have hasked : (!(rankOf s r).retraining || (rankOf s r).wantRetrain) = true := by rw [hstill]; rfl
      rw [hu, rankOf_modRank_same, rankOf_modRank_same]
      dsimp only
      rw [hasked]
    have hothers (k : Nat) (hk : k ≠ r) : rankOf u k = rankOf s k := by
      rw [hu, rankOf_modRank_ne _ _ hk.symm, rankOf_modRank_ne _ _ hk.symm]
    have hnext := rankTrainNext_of_only (s := u) (mem_chanRanks r)
      (fun k hk => by
        by_cases h : k = r
        · rw [h, hself]
          exact hstill
        · rw [hothers k h, (hidle k hk).1])
      (by rw [hself]) (fun k hk h => by rw [hothers k h, (hidle k hk).2])
    rw [rankTrain, ← hu, hnext] at hexec
    refine ⟨_, hexec, ?_, ?_, ?_⟩
    · rw [rankOf_modRank_same]
    · rw [rankOf_modRank_same, hself]
    · have hbefore : DramOnly s u := by
        rw [hu]
        exact (dramOnly_modRank _ _ s).trans (dramOnly_modRank _ _ _)
      exact hbefore.trans (dramOnly_modRank _ _ u)
  case retrain =>
    have hexec : exec .dramRetrain s = .next (((List.range 16).filter fun r => rankLive (rankOf s r).st).foldl (fun s r => rankTrain r s) s) :=
      next_congr (if_neg (by simp [hon]))
    refine ⟨_, hexec, fun r hr hlive => trains_foldl_rankTrain (.inl ?_), foldl_rankTrain_frame _ s⟩
    exact List.mem_filter.mpr ⟨List.mem_range.mpr hr, hlive⟩
  case done =>
    obtain ⟨u, hu⟩ : ∃ u, u = modRank r (fun k => { k with retraining := false, lastTj := s.therm.last, lastCheck := now s, checkDue := false }) s :=
      ⟨_, rfl⟩
    have hself : rankOf u r = { rankOf s r with retraining := false, lastTj := s.therm.last, lastCheck := now s, checkDue := false } := by
      rw [hu, rankOf_modRank_same]
    have hnext : rankTrainNext (rankChan r) u = u := rankTrainNext_of_none fun k hk => by
      by_cases h : k = r
      · rw [h, hself]
        exact hwant r (mem_chanRanks r)
      · rw [hu, rankOf_modRank_ne _ _ (Ne.symm h), hwant k hk]
    have hexec : exec (.rankRetrainComplete r) s = .next u := by
      refine next_congr ?_
      rw [if_neg (not_not_intro hruns), ← hu, hnext]
    refine ⟨_, hexec, ?_, ?_, ?_, ?_⟩
    · rw [hself]
    · rw [hself]
    · rw [hself]
    · rw [hu]
      rfl
  case mr4 =>
    obtain ⟨g, hg⟩ : ∃ g : Nat → Rank → Rank, g = fun r k =>
        { k with hot := hot.getLsbD r, doubled := hot.getLsbD r && decide (regFld s 0x80060 9 9 = 1) } := ⟨_, rfl⟩
    obtain ⟨l, hl⟩ : ∃ l, l = (List.range 16).filter fun r => rankLive (rankOf s r).st := ⟨_, rfl⟩
    obtain ⟨u, hu⟩ : ∃ u, u = { s with dram := { s.dram with mr4At := now s } } := ⟨_, rfl⟩
    have hexec : exec (.mr4Poll hot) s = .next (l.foldl (fun u r => modRank r (g r) u) u) := by
      rw [hg, hl, hu]
      exact execMr4Poll_of_due hon hdue
    have hframe := foldl_modRank_frame l g u
    refine ⟨_, hexec, fun r hr hlive => ?_, ?_, ?_⟩
    · have hmem : r ∈ l := hl ▸ List.mem_filter.mpr ⟨List.mem_range.mpr hr, hlive⟩
      have hnodup : l.Nodup := hl ▸ List.nodup_range.filter _
      rw [rankOf_foldl_modRank hnodup, if_pos hmem, hg, hu]
      exact ⟨rfl, rfl, rfl⟩
    · rw [hframe, hu]
    · rw [hframe, hu]
  case refresh =>
    obtain ⟨m, hm⟩ : ∃ m, m = if busy = 0 ∨ regFld s 0x80060 8 8 = 0 then 0
        else if (refreshFree s (rankOf s r)).outstanding < regFld s 0x80060 3 0 then (refreshFree s (rankOf s r)).outstanding + 1 else 1 := ⟨_, rfl⟩
    have hwait : ¬ (¬ dramOn s ∨ ¬ rankLive (rankOf s r).st ∨ now s < (rankOf s r).refAt + refInterval (rankOf s r)) := by
      simp only [hon, hlive, not_true, false_or, Nat.not_lt]
      exact hdue
    have hexec : exec (.refreshDue r busy) s = .next (modRank r (fun k => { k with outstanding := m, refAt := now s, freeAt := now s + busy }) s) := by
      refine next_congr ?_
      rw [if_neg hwait, hm]
    have hfree : (refreshFree s (rankOf s r)).outstanding = if (rankOf s r).freeAt ≤ now s then 0 else (rankOf s r).outstanding := by
      unfold refreshFree
      split <;> rfl
    rw [hfree] at hm
    refine ⟨_, hexec, fun h => ?_, fun h h' hn => ?_, fun h h' hn => ?_, ?_, ?_, rfl⟩
    · rw [rankOf_modRank_same]
      exact hm.trans (if_pos h)
    · rw [rankOf_modRank_same]
      exact hm.trans ((if_neg (by simp [h, h'])).trans (if_pos hn))
    · rw [rankOf_modRank_same]
      exact hm.trans ((if_neg (by simp [h, h'])).trans (if_neg (Nat.not_lt.mpr hn)))
    · rw [rankOf_modRank_same]
    · rw [rankOf_modRank_same]

end Sys2Proof.Machine

/-!
PROOFS. DRAM errors, spares and migrations (R322 to R330).
-/
namespace Sys2Proof.Machine

open Sys2Proof

/-! ### What keeps the ranks, their migrations and the poisoned lines -/

/-- The ranks and their migrations are kept. -/
def RanksKept (s t : State) : Prop := t.dram.ranks = s.dram.ranks ∧ t.dram.mig = s.dram.mig ∧ t.regs = s.regs

theorem RanksKept.rankOf {s t : State} (h : RanksKept s t) (r : Nat) : Machine.rankOf t r = Machine.rankOf s r := congrArg (tget ({} : Rank) · r) h.1

theorem RanksKept.migOf {s t : State} (h : RanksKept s t) (c : Nat) : Machine.migOf t c = Machine.migOf s c := congrArg (tget ({} : MigCh) · c) h.2.1

theorem RanksKept.freeSpare {s t : State} (h : RanksKept s t) (c : Nat) : Machine.freeSpare t c = Machine.freeSpare s c := by
  unfold Machine.freeSpare Machine.migOf Machine.rankOf
  rw [h.1, h.2.1]

/-! ### A cause of Replace Request raised -/

theorem healthLog_causes (e : HEnt) (s : State) : (healthLog e s).rep.causes = s.rep.causes := rfl

/-- A raised cause is on. -/
theorem causeOn_on (n : Nat) (h : n - 1 < 6) (s : State) : (causeOn n s).rep.causes.getLsbD (n - 1) = true := by
  unfold causeOn
  split
  next hon => exact hon
  next =>
    extract_lets a b u
    rw [postEventAll_frame]
    have hcauses : u.rep.causes = s.rep.causes ||| (1#6 <<< (n - 1)) := rfl
    dsimp only
    rw [healthLog_causes, hcauses, BitVec.getLsbD_or, BitVec.getLsbD_shiftLeft]
    simp [h]

/-! ### Retirement in place (R325, R329) -/

theorem setRetired_frame (r : Nat) (s : State) : setRetired r s = { s with regs := (setRetired r s).regs, nor := (setRetired r s).nor } := rfl

/-- The bit of DRMC_RETIRED is set. -/
theorem regFld_setRetired {r : Nat} (hr : r < 32) (s : State) : regFld (setRetired r s) 0x8008C r r = 1 := by
  have hget : regGet (setRetired r s) 0x8008C = putFld (regGet s 0x8008C) r r 1 := regGet_regPut_same s 0x8008C _
  have hfld := fld_putFld_same (Nat.le_refl r) hr (regGet s 0x8008C) 1
  rw [Nat.add_sub_cancel_left] at hfld
  rw [regFld, hget]
  exact hfld

/-- A data rank marked as retired, with its cause. -/
def retireMarked (r cause : Nat) (s : State) : State :=
  healthLog { time := now s, typ := 9, cause := cause, subj := r } (setRetired r (modRank r (fun k => { k with cause := cause }) s))

theorem retireMarked_frame (r cause : Nat) (s : State) :
    retireMarked r cause s = { s with
      regs := (retireMarked r cause s).regs, nor := (retireMarked r cause s).nor, dram := (retireMarked r cause s).dram
      rep := (retireMarked r cause s).rep } := by
  unfold retireMarked
  rw [healthLog_frame, setRetired_frame, modRank_frame]

theorem rankOf_retireMarked (r cause : Nat) (s : State) (k : Nat) :
    rankOf (retireMarked r cause s) k = rankOf (modRank r (fun k => { k with cause := cause }) s) k := rfl

theorem migOf_retireMarked (r cause : Nat) (s : State) (c : Nat) : migOf (retireMarked r cause s) c = migOf s c := rfl

/-- Changes of ranks that leave their states leave the spares. -/
theorem freeSpare_of_same_states {s t : State} {c : Nat} (hst : ∀ k, (rankOf t k).st = (rankOf s k).st) (hmig : migOf t c = migOf s c) :
    freeSpare t c = freeSpare s c := by
  unfold freeSpare
  rw [hmig]
  simp only [hst]

theorem freeSpare_retireMarked (r cause : Nat) (s : State) (c : Nat) : freeSpare (retireMarked r cause s) c = freeSpare s c := by
  refine freeSpare_of_same_states (fun k => ?_) rfl
  rw [rankOf_retireMarked]
  by_cases hk : r = k
  · subst hk
    rw [rankOf_modRank_same]
  · rw [rankOf_modRank_ne _ _ hk]

/-- A data rank leaves service: migrated with a spare, else retired in place. -/
theorem retireRank_of_data {r cause : Nat} {s : State} (hst : (rankOf s r).st = 1) :
    retireRank r cause s = if freeSpare (retireMarked r cause s) (rankChan r)
      then migNext (rankChan r) (modRank r (fun k => { k with st := 4 }) (retireMarked r cause s)) else retireInPlace r (retireMarked r cause s) :=
  if_neg (not_not_intro hst)

/-- A data rank whose channel has no spare is retired in place. -/
theorem retireRank_of_no_spare {r cause : Nat} {s : State} (hst : (rankOf s r).st = 1) (hspare : freeSpare s (rankChan r) = false) :
    retireRank r cause s = causeOn 1 (modRank r (fun k => { k with st := 6 }) (retireMarked r cause s)) := by
  rw [retireRank_of_data hst, freeSpare_retireMarked, if_neg (by simp [hspare]), retireInPlace]

/-- A rank retired in place: its state, its cause, its bit, the cause of Replace Request; its counts are kept. -/
theorem retiredInPlace {r cause : Nat} {s : State} (hr : r < 32) (hst : (rankOf s r).st = 1) (hspare : freeSpare s (rankChan r) = false) :
    rankOf (retireRank r cause s) r = { rankOf s r with st := 6, cause := cause } ∧ regFld (retireRank r cause s) 0x8008C r r = 1 ∧
    (retireRank r cause s).rep.causes.getLsbD 0 = true ∧ (retireRank r cause s).dram.poison = s.dram.poison := by
  have hret := retireRank_of_no_spare (cause := cause) hst hspare
  obtain ⟨u, hu⟩ : ∃ u, u = modRank r (fun k => { k with st := 6 }) (retireMarked r cause s) := ⟨_, rfl⟩
  have hrank : rankOf u r = { rankOf s r with st := 6, cause := cause } := by
    rw [hu, rankOf_modRank_same, rankOf_retireMarked, rankOf_modRank_same]
  have hbit : regFld u 0x8008C r r = 1 := by
    rw [hu, ← regFld_setRetired hr (modRank r (fun k => { k with cause := cause }) s)]
    rfl
  have hpoison : u.dram.poison = s.dram.poison := by rw [hu]; rfl
  rw [hret, ← hu]
  have hon := causeOn_on 1 (by decide) u
  refine ⟨?_, ?_, hon, ?_⟩
  · rw [causeOn_frame]
    exact hrank
  · rw [causeOn_frame]
    exact hbit
  · rw [causeOn_frame]
    exact hpoison

/-- Retirement in place leaves namespaces, zones, vault, commands and cache. -/
theorem retiredInPlace_frame {r cause : Nat} {s : State} (hst : (rankOf s r).st = 1) (hspare : freeSpare s (rankChan r) = false) :
    (retireRank r cause s).nss = s.nss ∧ (retireRank r cause s).zones = s.zones ∧ (retireRank r cause s).vault = s.vault ∧
    (retireRank r cause s).cmds = s.cmds ∧ (retireRank r cause s).cache = s.cache := by
  rw [retireRank_of_no_spare hst hspare, causeOn_frame, modRank_frame, retireMarked_frame]
  exact ⟨rfl, rfl, rfl, rfl, rfl⟩

/-! ### A poisoned line (R328) -/

/-- Poisoning a line's data leaves the ranks, the registers and what the device stores. -/
def PoisonKept (s t : State) : Prop :=
  t.dram.ranks = s.dram.ranks ∧ t.dram.mig = s.dram.mig ∧ t.regs = s.regs ∧ t.nss = s.nss ∧ t.zones = s.zones ∧ t.vault = s.vault

theorem PoisonKept.refl (s : State) : PoisonKept s s := ⟨rfl, rfl, rfl, rfl, rfl, rfl⟩

theorem PoisonKept.trans {s t u : State} (h1 : PoisonKept s t) (h2 : PoisonKept t u) : PoisonKept s u := by
  obtain ⟨a, b, c, d, e, f⟩ := h1
  obtain ⟨a', b', c', d', e', f'⟩ := h2
  exact ⟨a'.trans a, b'.trans b, c'.trans c, d'.trans d, e'.trans e, f'.trans f⟩

theorem failLbas_poisonKept (id : CmdId) (st : Status) (l : List Nat) (s : State) :
    PoisonKept s (failLbas id st l s) ∧ (failLbas id st l s).dram.poison = s.dram.poison := by
  rw [failLbas_frame]
  exact ⟨⟨rfl, rfl, rfl, rfl, rfl, rfl⟩, rfl⟩

theorem foldl_failLbas_poisonKept (l : List Cmd) (st : Status) (lbas : List Nat) (s : State) :
    PoisonKept s (l.foldl (fun s c => failLbas c.id st lbas s) s) ∧
    (l.foldl (fun s c => failLbas c.id st lbas s) s).dram.poison = s.dram.poison := by
  induction l generalizing s with
  | nil => exact ⟨.refl s, rfl⟩
  | cons c l ih =>
    obtain ⟨hkept, hpoison⟩ := ih (failLbas c.id st lbas s)
    obtain ⟨hkept', hpoison'⟩ := failLbas_poisonKept c.id st lbas s
    exact ⟨hkept'.trans hkept, hpoison.trans hpoison'⟩

/-- What a poisoned line does to its data; the line stays poisoned unless it held what is written whole again. -/
theorem poisonData_kept (held : LineData) (s : State) : PoisonKept s (poisonData held s) ∧
    ((∀ p, held ≠ .tableCache p) → (∀ b, held ≠ .working b) → (poisonData held s).dram.poison = s.dram.poison) := by
  cases held with
  | dirty ns lba => exact ⟨⟨rfl, rfl, rfl, rfl, rfl, rfl⟩, fun _ _ => rfl⟩
  | clean ns lba =>
    obtain ⟨hkept, hpoison⟩ := foldl_failLbas_poisonKept
      (s.cmds.filter fun c => c.phase = .reading && c.e.nsid = ns && c.lba ≤ lba && lba < c.lba + cmdBlocks c.e) (vendorSt 0x0B) [lba] s
    exact ⟨hkept, fun _ _ => hpoison⟩
  | job id =>
    unfold poisonData
    dsimp only
    split
    · split
      · exact ⟨.refl s, fun _ _ => rfl⟩
      · rw [finishSt_frame]
        exact ⟨⟨rfl, rfl, rfl, rfl, rfl, rfl⟩, fun _ _ => rfl⟩
    · exact ⟨.refl s, fun _ _ => rfl⟩
  | tableCache page => exact ⟨⟨rfl, rfl, rfl, rfl, rfl, rfl⟩, fun h => absurd rfl (h page)⟩
  | zoneTable ns z => exact ⟨⟨rfl, rfl, rfl, rfl, rfl, rfl⟩, fun _ _ => rfl⟩
  | working copied =>
    refine ⟨?_, fun _ h => absurd rfl (h copied)⟩
    unfold poisonData clearPoison
    cases copied <;> exact ⟨rfl, rfl, rfl, rfl, rfl, rfl⟩
  | nothing => exact ⟨.refl s, fun _ _ => rfl⟩

/-- A line poisoned at once. -/
theorem poisonLine_kept (r : Nat) (f : LineFault) (s : State) : PoisonKept s (poisonLine r f s) ∧
    ((∀ p, f.held ≠ .tableCache p) → (∀ b, f.held ≠ .working b) → (r, f.line) ∈ (poisonLine r f s).dram.poison) := by
  obtain ⟨hkept, hpoison⟩ := poisonData_kept f.held { s with dram := { s.dram with
    poison := if (r, f.line) ∈ s.dram.poison then s.dram.poison else (r, f.line) :: s.dram.poison
    holds := ((r, f.line), f.held) :: s.dram.holds.filter fun e => e.1 ≠ (r, f.line) } }
  refine ⟨.trans ⟨rfl, rfl, rfl, rfl, rfl, rfl⟩ hkept, fun h h' => ?_⟩
  rw [poisonLine, hpoison h h']
  dsimp only
  split
  next hmem => exact hmem
  next => exact List.mem_cons_self

/-! ### A patrol (R323) -/

/-- A write-back queues the line for every rank that a write of it goes to. -/
theorem writeBack_frame (r : Nat) (f : LineFault) (s : State) : writeBack r f s = { s with dram := { s.dram with backs := (writeBack r f s).dram.backs } } := by
  unfold writeBack
  split <;> rfl

theorem mem_backs_writeBack {r k : Nat} {f : LineFault} {s : State} (hq : f.queued = false) (hk : k ∈ accessRanks s r f.line true) :
    (k, f.line) ∈ (writeBack r f s).dram.backs := by
  rw [writeBack, if_neg (by simp [hq])]
  by_cases h : (k, f.line) ∈ s.dram.backs
  · exact List.mem_append_left _ h
  · exact List.mem_append_right _ (List.mem_filterMap.mpr ⟨k, hk, if_neg h⟩)

/-- A rank that a read of a line goes to gets the write of it too. -/
theorem accessRanks_write_of_read {s : State} {r line : Nat} (h : accessRanks s r line false = [r]) : r ∈ accessRanks s r line true := by
  unfold accessRanks at h ⊢
  dsimp only at h ⊢
  split at h
  · rw [if_pos ‹_›]
    exact List.mem_singleton.mpr rfl
  · rw [if_neg ‹_›]
    split at h
    · rw [if_pos ‹_›, h]
      exact List.mem_singleton.mpr rfl
    · rw [if_neg ‹_›, if_pos rfl]
      exact List.mem_cons_self

/-- With no limit set a corrected codeword is only counted. -/
theorem countCe_of_no_limit {r : Nat} {s : State} (h : regFld s 0x80070 31 16 = 0) :
    countCe r s = modRank r (fun k => { k with
      ce := satInc 0xFFFFFFFF k.ce, ceHour := now s :: k.ceHour.filter fun t => now s < t + 3600000000000 }) s := by
  refine if_neg fun hlim => hlim.1 ?_
  exact h

/-- A patrol that reads one faulty line of a rank that serves itself. -/
theorem exec_patrolScrub_one {r : Nat} {f : LineFault} {s : State} (hserves : rankServes s r = true) (hread : accessRanks s r f.line false = [r])
    (hon : regFld s 0x80070 7 0 ≠ 0) : exec (.patrolScrub r [f]) s = .next (lineFault r s f) := by
  refine next_congr ?_
  rw [if_neg (by simp [hserves, hon]), List.foldl_cons, List.foldl_nil, hread]
  rfl

/-! ### Power requests that a migration held (R330) -/

/-- The mode just set. -/
theorem setMode_cur (m : Mode) (s : State) : (setMode m s).md.cur = m := by
  unfold setMode
  split
  next h => exact h
  next => rfl

/-- Where DOZE is not left, or a transition runs, the requests that go on leave the DRAM alone. -/
theorem afterLong_dram {s : State} (h : s.md.cur ≠ .doze ∨ s.pwr.trans.isSome = true) : (afterLong s).dram = s.dram := by
  have hmd : (capTestKept s).md = s.md := by rw [capTestKept_frame]
  have hpwr : (capTestKept s).pwr = s.pwr := by rw [capTestKept_frame]
  have hdram : (capTestKept s).dram = s.dram := by rw [capTestKept_frame]
  unfold afterLong
  dsimp only
  generalize capTestKept s = u at hmd hpwr hdram
  rw [← hmd, ← hpwr] at h
  rw [← hdram]
  split
  next hmay =>
    have hidle : u.pwr.trans.isSome = false := by
      simp only [psMay, Bool.and_eq_true, Option.isNone_iff_eq_none] at hmay
      simp [hmay.1.1.2]
    have hmode : u.md.cur ≠ .doze := h.resolve_right (by simp [hidle])
    unfold psTake psBegin
    dsimp only
    by_cases hrun : 3 ≤ u.pwr.pend ∧ u.md.cur = .run
    · rw [if_pos hrun]
      have hleave (v : State) : (leaveRun .quiesce v).dram = v.dram := by rw [leaveRun_frame]
      rw [if_neg (fun hd => by rw [leaveRun, setMode_cur] at hd; exact absurd hd.1 (by decide))]
      exact hleave _
    · rw [if_neg hrun, if_neg (fun hd => hmode hd.1)]
  next => rfl

/-! ### O37 -/

/-- One correctable codeword: the line is written back and the codeword counted. -/
theorem lineFault_of_corrected {r : Nat} {s : State} {f : LineFault} (h : faultRes s r f = .read 1 false) :
    lineFault r s f = countCe r (writeBack r f s) := by
  unfold lineFault
  rw [h]
  rfl

/-- An uncorrectable codeword of a data rank: the line is poisoned and the rank retired. -/
theorem lineFault_of_lost {r : Nat} {s : State} {f : LineFault} (h : faultRes s r f = .read 0 true) (hst : (rankOf s r).st = 1) :
    lineFault r s f = retireRank r 1 (poisonLine r f s) := by
  unfold lineFault
  rw [h]
  change lineLost r f s = _
  rw [lineLost, if_neg (by omega)]

theorem migNext_of_active {c : Nat} {s : State} (h : (migOf s c).active = true) : migNext c s = s := if_pos h

/-- With no rank of the channel in state 4h no migration begins. -/
theorem migNext_of_none {c : Nat} {s : State} (h : ∀ k ∈ chanRanks c, (rankOf s k).st ≠ 4) : migNext c s = s := by
  have hnone : rankIn s c 4 = none := List.find?_eq_none.mpr fun k hk => by simp [h k hk]
  unfold migNext
  rw [hnone]
  split <;> rfl

theorem migMbx_of_no_run {s : State} (h : s.mbx.run = none) (r code lines : Nat) : migMbx r code lines s = s := by
  rw [migMbx, h]

/-- The DRAM is kept where the requests that a migration held go on, but in an exit from DOZE that they begin. -/
theorem migReleased_dram {s : State} (h : s.md.cur ≠ .doze ∨ s.pwr.trans.isSome = true) : (migReleased s).dram = s.dram := by
  unfold migReleased
  split
  · rfl
  · exact afterLong_dram h

theorem migReleased_frame (s : State) : migReleased s = { s with
    md := (migReleased s).md, pwr := (migReleased s).pwr, hold := (migReleased s).hold, pin := (migReleased s).pin
    chans := (migReleased s).chans, dram := (migReleased s).dram } := by
  unfold migReleased
  split
  · rfl
  · rw [afterLong_frame]

/-- In DOZE the DRAM is on only in a transition. -/
theorem trans_of_dramOn {s : State} (h : dramOn s = true) : s.md.cur ≠ .doze ∨ s.pwr.trans.isSome = true := by
  by_cases hd : s.md.cur = .doze
  · right
    simp only [dramOn, hd, exitRuns, Bool.or_eq_true, Bool.and_eq_true] at h
    cases htrans : s.pwr.trans with
    | none => simp [htrans] at h
    | some x => rfl
  · exact .inl hd

/-- The poisoned lines of a migrated rank move to its spare. -/
def poisonMoved (src dst : Nat) (s : State) : State :=
  let moved (p : Nat × Nat) : Nat × Nat := if p.1 = src ∧ ¬ ([] : List LineFault).any (fun f => f.line = p.2 && f.spareClean) then (dst, p.2) else p
  { s with dram := { s.dram with
    poison := (s.dram.poison.map moved).filter fun p => p.1 ≠ src,
    holds := (s.dram.holds.map fun e => (moved e.1, e.2)).filter fun e => e.1.1 ≠ src,
    backs := s.dram.backs.filter fun p => p.1 ≠ src } }

theorem poisonMoved_ne {src dst : Nat} {s : State} : ∀ p ∈ (poisonMoved src dst s).dram.poison, p.1 ≠ src := fun p hp => by
  simpa using (List.mem_filter.mp hp).2

theorem mem_poisonMoved {src dst l : Nat} {s : State} (hne : src ≠ dst) (h : (src, l) ∈ s.dram.poison) :
    (dst, l) ∈ (poisonMoved src dst s).dram.poison := by
  refine List.mem_filter.mpr ⟨List.mem_map.mpr ⟨(src, l), h, ?_⟩, by simpa using hne.symm⟩
  simp

/-- The ranks and the migration of a channel once a copy has ended. -/
def migEnded (c : Nat) (m : MigCh) (s : State) : State :=
  setMig c { src := m.src, dst := m.dst, frontier := rankGib s.dram.density * 262144 }
    (modRank (4 * c + m.dst) (fun k => { k with st := 1 }) (modRank (4 * c + m.src) (fun k => { k with st := 5 })
      (poisonMoved (4 * c + m.src) (4 * c + m.dst) s)))

theorem dramOnly_setMig (c : Nat) (m : MigCh) (s : State) : DramOnly s (setMig c m s) := rfl

theorem dramOnly_poisonMoved (src dst : Nat) (s : State) : DramOnly s (poisonMoved src dst s) := rfl

theorem dramOnly_migEnded (c : Nat) (m : MigCh) (s : State) : DramOnly s (migEnded c m s) :=
  (((dramOnly_poisonMoved _ _ s).trans (dramOnly_modRank _ _ _)).trans (dramOnly_modRank _ _ _)).trans (dramOnly_setMig _ _ _)

theorem rankOf_setMig (c : Nat) (m : MigCh) (s : State) (k : Nat) : rankOf (setMig c m s) k = rankOf s k := rfl

theorem rankOf_poisonMoved (src dst : Nat) (s : State) (k : Nat) : rankOf (poisonMoved src dst s) k = rankOf s k := rfl

theorem poison_migEnded (c : Nat) (m : MigCh) (s : State) :
    (migEnded c m s).dram.poison = (poisonMoved (4 * c + m.src) (4 * c + m.dst) s).dram.poison := by
  have hmig (x : MigCh) (u : State) : (setMig c x u).dram.poison = u.dram.poison := rfl
  have hrank (r : Nat) (g : Rank → Rank) (u : State) : (modRank r g u).dram.poison = u.dram.poison := rfl
  rw [migEnded, hmig, hrank, hrank]

/-- The states of the ranks after a copy. -/
theorem rankOf_migEnded (c : Nat) (m : MigCh) (hne : m.src ≠ m.dst) (s : State) :
    (rankOf (migEnded c m s) (4 * c + m.dst)).st = 1 ∧ (rankOf (migEnded c m s) (4 * c + m.src)).st = 5 ∧
    ∀ k, k ≠ 4 * c + m.dst → k ≠ 4 * c + m.src → rankOf (migEnded c m s) k = rankOf s k := by
  have hdist : 4 * c + m.src ≠ 4 * c + m.dst := by omega
  unfold migEnded
  refine ⟨?_, ?_, fun k h h' => ?_⟩
  · rw [rankOf_setMig, rankOf_modRank_same]
  · rw [rankOf_setMig, rankOf_modRank_ne _ _ hdist.symm, rankOf_modRank_same]
  · rw [rankOf_setMig, rankOf_modRank_ne _ _ h.symm, rankOf_modRank_ne _ _ h'.symm, rankOf_poisonMoved]

/-- A migration whose copy reaches the end, with no faulty line. -/
theorem exec_rankMigrationComplete {c : Nat} {s : State} (hactive : (migOf s c).active = true) (hfilled : (migOf s c).waitFill = false)
    (hsrc : rankServes s (4 * c + (migOf s c).src) = true) (hdst : rankServes s (4 * c + (migOf s c).dst) = true) (hvent : s.md.cur ≠ .vent) :
    exec (.rankMigrationComplete c []) s =
      .next (migReleased (migMbx (4 * c + (migOf s c).src) 0 0 (migNext c (migEnded c (migOf s c) s)))) := by
  refine if_neg ?_
  simp [hactive, hfilled, hsrc, hdst, hvent]

/-- Settles O37: by the patrol's outcomes, the retirement in place, the filled spare and the end of a copy. -/
theorem dramErrorsAndSpares : Obligations.DramErrorsAndSpares := by
  refine ⟨⟨fun r f s hserves hread hon hres hlim => ?corrected, fun r f s hr hserves hread hst hon hres hspare => ?lost,
    fun r fs s hoff => ?stopped, fun r s hr hon hst hspare => ?parity⟩, fun r s hst => ?filled,
    fun c s => ?migrated, fun r cause s hr hst hspare hactive => ?queued⟩
  case corrected =>
    have hexec := exec_patrolScrub_one hserves hread hon
    have hlim' : regFld (writeBack r f s) 0x80070 31 16 = 0 := by
      rw [writeBack_frame]
      exact hlim
    have hrank : rankOf (writeBack r f s) r = rankOf s r := by
      rw [writeBack_frame]
      rfl
    rw [lineFault_of_corrected hres, countCe_of_no_limit hlim'] at hexec
    refine ⟨_, hexec, ?_, ?_, fun hq => ?_, fun hq => mem_backs_writeBack hq (accessRanks_write_of_read hread), ?_⟩
    · rw [rankOf_modRank_same, hrank]
    · rw [rankOf_modRank_same, hrank]
    · have hkept : writeBack r f s = s := if_pos hq
      rw [hkept]
      rfl
    · have hback : DramOnly s (writeBack r f s) := by
        unfold DramOnly
        rw [writeBack_frame]
      exact hback.trans (dramOnly_modRank _ _ _)
  case lost =>
    have hexec := exec_patrolScrub_one hserves hread hon
    rw [lineFault_of_lost hres hst] at hexec
    obtain ⟨⟨hranks, hmig, hregs, hnss, hzones, hvault⟩, hpoison⟩ := poisonLine_kept r f s
    have hkept : RanksKept s (poisonLine r f s) := ⟨hranks, hmig, hregs⟩
    generalize poisonLine r f s = u at *
    have hst' : (rankOf u r).st = 1 := by rw [hkept.rankOf, hst]
    have hspare' : freeSpare u (rankChan r) = false := by rw [hkept.freeSpare, hspare]
    obtain ⟨hrank, hbit, hcause, hmarked⟩ := retiredInPlace (cause := 1) (by omega) hst' hspare'
    obtain ⟨hnss', hzones', hvault', -, -⟩ := retiredInPlace_frame (cause := 1) hst' hspare'
    refine ⟨_, hexec, by rw [hrank], by rw [hrank], fun h h' => ?_, hbit, hcause, hnss'.trans hnss, hzones'.trans hzones, hvault'.trans hvault⟩
    rw [hmarked]
    exact hpoison h h'
  case stopped =>
    refine next_congr (if_pos ?_)
    simpa using hoff
  case parity =>
    have hlive : rankLive (rankOf s r).st = true := by rw [hst]; rfl
    have hexec : exec (.dramCaParityAlert r) s = .next (retireRank r 2 (modRank r (fun k => { k with replays := k.replays + 1 }) s)) :=
      next_congr (if_neg (by simp [hon, hlive]))
    have hself : rankOf (modRank r (fun k => { k with replays := k.replays + 1 }) s) r = { rankOf s r with replays := (rankOf s r).replays + 1 } :=
      rankOf_modRank_same _ _ _
    have hspare' : freeSpare (modRank r (fun k => { k with replays := k.replays + 1 }) s) (rankChan r) = false := by
      rw [← hspare]
      refine freeSpare_of_same_states (fun k => ?_) rfl
      by_cases hk : r = k
      · rw [← hk, hself]
      · rw [rankOf_modRank_ne _ _ hk]
    have hst' : (rankOf (modRank r (fun k => { k with replays := k.replays + 1 }) s) r).st = 1 := by rw [hself, ← hst]
    obtain ⟨hrank, hbit, -, hpoison⟩ := retiredInPlace (cause := 2) (by omega) hst' hspare'
    obtain ⟨-, -, -, hcmds, hcache⟩ := retiredInPlace_frame (cause := 2) hst' hspare'
    rw [hself] at hrank
    exact ⟨_, hexec, by rw [hrank], by rw [hrank], by rw [hrank], hpoison, hbit, hcmds, hcache⟩
  case filled =>
    have hself : (rankOf (modRank r (fun k => { k with st := 2 }) s) r).st = 2 := by rw [rankOf_modRank_same]
    have hexec : exec (.spareFillComplete r) s = .next (if (migOf s (rankChan r)).active ∧ (migOf s (rankChan r)).dst = r % 4 then
        setMig (rankChan r) { migOf s (rankChan r) with waitFill := false } (modRank r (fun k => { k with st := 2 }) s)
        else modRank r (fun k => { k with st := 2 }) s) := if_neg (not_not_intro hst)
    by_cases h : (migOf s (rankChan r)).active = true ∧ (migOf s (rankChan r)).dst = r % 4
    · rw [if_pos h] at hexec
      exact ⟨_, hexec, hself, fun _ _ => migOf_setMig_same _ _ _, rfl⟩
    · rw [if_neg h] at hexec
      exact ⟨_, hexec, hself, fun ha hd => absurd ⟨ha, hd⟩ h, rfl⟩
  case migrated =>
    intro m hactive hfilled hsrc4 hdst4 hne hsrc hdst hvent hnone hrun
    have hexec := exec_rankMigrationComplete hactive hfilled hsrc hdst hvent
    have hdist : 4 * c + m.src ≠ 4 * c + m.dst := by omega
    obtain ⟨u, hu⟩ : ∃ u, u = migEnded c m s := ⟨_, rfl⟩
    obtain ⟨hnew, hold, hothers⟩ := rankOf_migEnded c m hne s
    rw [← hu] at hnew hold hothers
    have hnext : migNext c u = u := migNext_of_none fun k hk => by
      by_cases h1 : k = 4 * c + m.src
      · rw [h1, hold]
        decide
      · by_cases h2 : k = 4 * c + m.dst
        · rw [h2, hnew]
          decide
        · rw [hothers k h2 h1]
          exact hnone k hk h1
    have hframe : u = { s with dram := u.dram } := hu ▸ dramOnly_migEnded c m s
    have hmig : migOf u c = { src := m.src, dst := m.dst, frontier := rankGib s.dram.density * 262144 } := by
      rw [hu]
      exact migOf_setMig_same _ _ _
    have hpoison : u.dram.poison = (poisonMoved (4 * c + m.src) (4 * c + m.dst) s).dram.poison := by rw [hu, poison_migEnded]
    rw [show migEnded c (migOf s c) s = u from hu.symm, hnext, migMbx_of_no_run (by rw [hframe]; exact hrun)] at hexec
    have hon : dramOn s = true := by
      simp only [rankServes, Bool.and_eq_true] at hsrc
      exact hsrc.1.1
    have hdram : (migReleased u).dram = u.dram := migReleased_dram (by rw [hframe]; exact trans_of_dramOn hon)
    have hrank (k : Nat) : rankOf (migReleased u) k = rankOf u k := by rw [rankOf, hdram, rankOf]
    have hmig' : migOf (migReleased u) c = migOf u c := by rw [migOf, hdram, migOf]
    refine ⟨_, hexec, by rw [hrank, hnew], by rw [hrank, hold], by rw [hmig', hmig], by rw [hmig', hmig], ?_, fun l hl => ?_, ?_, ?_⟩
    · rw [hdram, hpoison]
      exact poisonMoved_ne
    · rw [hdram, hpoison]
      exact mem_poisonMoved hdist hl
    · rw [migReleased_frame, hframe]
    · rw [migReleased_frame, hframe]
  case queued =>
    obtain ⟨u, hu⟩ : ∃ u, u = modRank r (fun k => { k with st := 4 }) (retireMarked r cause s) := ⟨_, rfl⟩
    have hmig : migOf u (rankChan r) = migOf s (rankChan r) := by
      rw [hu, ← migOf_retireMarked r cause s (rankChan r)]
      rfl
    have hret : retireRank r cause s = u := by
      rw [retireRank_of_data hst, freeSpare_retireMarked, if_pos hspare, ← hu]
      exact migNext_of_active (by rw [hmig, hactive])
    have hself : rankOf u r = { rankOf s r with st := 4, cause := cause } := by
      rw [hu, rankOf_modRank_same, rankOf_retireMarked, rankOf_modRank_same]
    rw [hret]
    exact ⟨by rw [hself], by rw [hself], hmig⟩

end Sys2Proof.Machine

/-!
PROOFS. Deciding a command's status (R119, R150): the tables of commands and queues after a change, the messages that go out beside
completion entries, and the entry written, waiting or dropped.
-/
namespace Sys2Proof.Machine

open Sys2Proof

/-! ### Commands and queues by identity -/

theorem find?_map_of_hit {α : Type} {p : α → Bool} {g : α → α} (hg : ∀ x, p x = true → p (g x) = true) {l : List α} {a : α}
    (h : l.find? p = some a) : (l.map fun x => if p x then g x else x).find? p = some (g a) := by
  induction l with
  | nil => exact nomatch h
  | cons x l ih =>
    rw [List.map_cons]
    by_cases hx : p x = true
    · rw [List.find?_cons_of_pos hx] at h
      obtain rfl := Option.some.inj h
      rw [if_pos hx, List.find?_cons_of_pos (hg x hx)]
    · rw [List.find?_cons_of_neg hx] at h
      rw [if_neg hx, List.find?_cons_of_neg hx]
      exact ih h

/-- A command after its change. -/
theorem cmdOf_modCmd_same {id : CmdId} {s : State} {c : Cmd} {g : Cmd → Cmd} (hg : ∀ c, (g c).id = c.id) (h : cmdOf s id = some c) :
    cmdOf (modCmd id g s) id = some (g c) := by
  have hmap := find?_map_of_hit (p := fun c : Cmd => decide (c.id = id)) (g := g) (fun x hx => by simpa [hg] using hx) h
  simpa [cmdOf, modCmd] using hmap

/-- A completion queue after its change. -/
theorem cqOf_modCq_same {f q : Nat} {s : State} {c : Cq} {g : Cq → Cq} (hg : ∀ c, (g c).func = c.func ∧ (g c).id = c.id)
    (h : cqOf s f q = some c) : cqOf (modCq f q g s) f q = some (g c) := by
  have hmap := find?_map_of_hit (p := fun c : Cq => decide (c.func = f ∧ c.id = q)) (g := g) (fun x hx => by simpa [hg] using hx) h
  simpa [cqOf, modCq] using hmap

/-- A command that has left its slot. -/
theorem cmdOf_eq_none_of_ids {s : State} {id : CmdId} (h : ∀ c ∈ s.cmds, c.id ≠ id) : cmdOf s id = none :=
  List.find?_eq_none.mpr fun c hc => by simp [h c hc]

/-- A token passed on leaves the identities. -/
theorem ids_passToken (f : Nat) (s : State) : ∀ c ∈ (passToken f s).cmds, ∃ d ∈ s.cmds, d.id = c.id := by
  unfold passToken
  split
  next k hk =>
    intro c hc
    obtain ⟨d, hd, rfl⟩ := List.mem_map.mp hc
    refine ⟨d, hd, ?_⟩
    split <;> rfl
  next => exact fun c hc => ⟨c, hc, rfl⟩

/-- A slot set free holds no command. -/
theorem cmdOf_freeSlot (id : CmdId) (s : State) : cmdOf (freeSlot id s) id = none := by
  unfold freeSlot
  split
  next h => exact h
  next c h =>
    dsimp only
    have hgone : ∀ c ∈ s.cmds.filter (fun c => decide (c.id ≠ id)), c.id ≠ id := fun c hc => by simpa using (List.mem_filter.mp hc).2
    split
    · refine cmdOf_eq_none_of_ids fun c hc => ?_
      obtain ⟨d, hd, hid⟩ := ids_passToken _ _ c hc
      rw [← hid]
      exact hgone d hd
    · exact cmdOf_eq_none_of_ids hgone

/-! ### Messages beside completion entries -/

/-- Something may go out, but no completion entry. -/
def Messages (s t : State) : Prop := (∀ x ∈ s.sent, x ∈ t.sent) ∧ ∀ f q p e, Xfer.cqe f q p e ∈ t.sent → Xfer.cqe f q p e ∈ s.sent

namespace Messages

theorem of_sent {s t : State} (h : t.sent = s.sent) : Messages s t := by
  unfold Messages
  rw [h]
  exact ⟨fun _ h => h, fun _ _ _ _ h => h⟩

theorem after {s t u : State} (h2 : Messages t u) (h1 : t.sent = s.sent) : Messages s u := by
  unfold Messages at h2 ⊢
  rw [← h1]
  exact h2

theorem ite {p : Prop} [Decidable p] {s t u : State} (ht : Messages s t) (hu : Messages s u) : Messages s (if p then t else u) := by
  split
  · exact ht
  · exact hu

theorem trans {s t u : State} (h1 : Messages s t) (h2 : Messages t u) : Messages s u :=
  ⟨fun x hx => h2.1 x (h1.1 x hx), fun f q p e h => h1.2 f q p e (h2.2 f q p e h)⟩

end Messages

theorem messages_msiSend (f v : Nat) (n : Bool) (s : State) : Messages s (msiSend f v n s) := by
  refine ⟨fun x hx => List.mem_cons_of_mem _ hx, fun f' q p e h => ?_⟩
  obtain heq | h := List.mem_cons.mp h
  · exact nomatch heq
  · exact h

theorem messages_msiBudget (f v : Nat) (s : State) : Messages s (msiBudget f v s) := by
  unfold msiBudget
  dsimp only
  split
  · exact messages_msiSend ..
  · split
    · exact messages_msiSend ..
    · split
      · exact .of_sent rfl
      · exact .of_sent rfl

theorem messages_msiOwe (f v : Nat) (u : Bool) (s : State) : Messages s (msiOwe f v u s) := by
  unfold msiOwe
  dsimp only
  split
  · exact .of_sent rfl
  · split
    · exact messages_msiSend ..
    · exact messages_msiBudget ..

theorem messages_msiEntry (f v : Nat) (u : Bool) (s : State) : Messages s (msiEntry f v u s) := by
  unfold msiEntry
  dsimp only
  split
  · exact messages_msiOwe ..
  · split
    · exact (messages_msiOwe ..).after rfl
    · exact .of_sent rfl

/-- A page marked in the dirty log goes out as a bit. -/
theorem messages_dirtyMark (t n g : Nat) (s : State) : Messages s (dirtyMark t n g s) := by
  induction n generalizing g s with
  | zero => exact .of_sent rfl
  | succ n ih =>
    unfold dirtyMark
    dsimp only
    refine .trans ?_ (ih _ _)
    refine .ite (.of_sent rfl) ⟨fun x hx => List.mem_cons_of_mem _ hx, fun f q p e h => ?_⟩
    obtain heq | h := List.mem_cons.mp h
    · exact nomatch heq
    · exact h

theorem messages_dirtyLog (f a l : Nat) (s : State) : Messages s (dirtyLog f a l s) := by
  unfold dirtyLog
  dsimp only
  exact .ite (.of_sent rfl) (.ite (.of_sent rfl) (messages_dirtyMark ..))

theorem messages_mbxStop (st : MbxSt) (code : Nat) (res : List (Nat × W32)) (s : State) : Messages s (mbxStop st code res s) := by
  unfold mbxStop
  exact .ite ((messages_msiOwe ..).after rfl) (.of_sent rfl)

theorem messages_lockSetEnd (s : State) : Messages s (lockSetEnd s) := by
  unfold lockSetEnd
  split
  · exact .of_sent rfl
  · split
    · exact .of_sent rfl
    · dsimp only
      refine (messages_mbxStop ..).after ?_
      split <;> rfl

theorem frzCount_sent (f : Nat) (s : State) : (frzCount f s).sent = s.sent := by rw [frzCount_frame]

/-- After its entry's fate a decided command changes nothing of commands and completion queues. -/
theorem finish_after_post (id : CmdId) (st : Status) (a b : W32) (s : State) :
    let u := post id (modCmd id (fun c => { c with phase := .decided, status := some st, dw0 := a, dw1 := b }) s)
    (finish id st a b s).cmds = u.cmds ∧ (finish id st a b s).cqs = u.cqs ∧ Messages u (finish id st a b s) := by
  dsimp only
  unfold finish
  generalize post id (modCmd id (fun c => { c with phase := .decided, status := some st, dw0 := a, dw1 := b }) s) = u
  refine ⟨?_, ?_, (messages_lockSetEnd u).trans (.of_sent (frzCount_sent _ _))⟩
  · rw [frzCount_frame, lockSetEnd_frame]
  · rw [frzCount_frame, lockSetEnd_frame]

/-! ### The three fates of an entry -/

section fates

variable {s : State} {id : CmdId} {c : Cmd} {st : Status} {sq : Sq} {cq : Cq}

/-- A stale command's slot is free, and nothing is posted. -/
theorem post_of_stale (hc : cmdOf s id = some c) (hgen : c.gen ≠ genOf s id.func) : post id s = freeSlot id s := by
  unfold post
  rw [hc]
  exact if_pos hgen

/-- With room the entry is written, the slot set free and the command counted. -/
theorem post_of_room (hc : cmdOf s id = some c) (hgen : c.gen = genOf s id.func) (hst : c.status = some st)
    (hsq : sqOf s id.func id.sq = some sq) (hcq : cqOf s id.func sq.cq = some cq) (hroom : cq.waiting = [] ∧ cqRoom cq = true) :
    post id s = countDone c (freeSlot id (countBytes c (cqWrite id.func sq.cq cq ⟨id.sq, id.cid, st, c.dw0, c.dw1⟩ (urgentSq s id.func id.sq) s))) := by
  unfold post
  simp only [hc, hsq, hst, hcq, hgen, ne_eq, not_true, if_false]
  exact if_pos hroom

/-- With no room it waits, and the slot stays held. -/
theorem post_of_full (hc : cmdOf s id = some c) (hgen : c.gen = genOf s id.func) (hst : c.status = some st)
    (hsq : sqOf s id.func id.sq = some sq) (hcq : cqOf s id.func sq.cq = some cq) (hfull : cqRoom cq = false) :
    post id s = modCq id.func sq.cq (fun q => { q with
      waiting := q.waiting ++ [{ e := ⟨id.sq, id.cid, st, c.dw0, c.dw1⟩, urgent := urgentSq s id.func id.sq }] }) s := by
  unfold post
  simp only [hc, hsq, hst, hcq, hgen, ne_eq, not_true, if_false]
  exact if_neg (by simp [hfull])

end fates

/-- A written entry has gone out with the queue's phase. -/
theorem cqe_mem_cqWrite (f q : Nat) (c : Cq) (e : Cqe) (u : Bool) (s : State) : Xfer.cqe f q c.phase e ∈ (cqWrite f q c e u s).sent := by
  have hout : Xfer.cqe f q c.phase e ∈ (dirtyLog f (c.base + 16 * c.tail) 16 (emit (.cqe f q c.phase e) s)).sent :=
    (messages_dirtyLog ..).1 _ List.mem_cons_self
  unfold cqWrite
  dsimp only
  split
  · refine (messages_msiEntry f _ u _).1 _ ?_
    rw [modCq_sent]
    exact hout
  · rw [modCq_sent]
    exact hout

/-- Its queue's tail has moved on. -/
theorem cqOf_cqWrite {f q : Nat} {c : Cq} {s : State} (h : cqOf s f q = some c) (e : Cqe) (u : Bool) :
    cqOf (cqWrite f q c e u s) f q =
      some { c with tail := (c.tail + 1) % c.size, phase := if c.tail + 1 = c.size then !c.phase else c.phase } := by
  have hbefore : cqOf (dirtyLog f (c.base + 16 * c.tail) 16 (emit (.cqe f q c.phase e) s)) f q = some c := by
    rw [dirtyLog_frame]
    exact h
  have hmoved := cqOf_modCq_same (g := fun c => { c with tail := (c.tail + 1) % c.size, phase := if c.tail + 1 = c.size then !c.phase else c.phase })
    (fun _ => ⟨rfl, rfl⟩) hbefore
  unfold cqWrite
  dsimp only
  split
  · rw [msiEntry_frame]
    exact hmoved
  · exact hmoved

theorem countDone_keeps (c : Cmd) (s : State) : (countDone c s).cmds = s.cmds ∧ (countDone c s).cqs = s.cqs ∧ (countDone c s).sent = s.sent := by
  rw [countDone_frame]
  exact ⟨rfl, rfl, rfl⟩

theorem freeSlot_keeps (id : CmdId) (s : State) : (freeSlot id s).cqs = s.cqs ∧ (freeSlot id s).sent = s.sent := by
  rw [freeSlot_frame]
  exact ⟨rfl, rfl⟩

theorem countBytes_keeps (c : Cmd) (s : State) : (countBytes c s).cqs = s.cqs ∧ (countBytes c s).sent = s.sent := by
  rw [countBytes_frame]
  exact ⟨rfl, rfl⟩

/-- Settles O13: by the three fates of the entry, after which only counters, messages and a waiting LOCK_SET follow. -/
theorem statusDecided : Obligations.StatusDecided := by
  refine ⟨fun id st a b s c sq cq hc hsq hcq => ?_, fun id st a b s => finish_frame id st a b s⟩
  intro t e
  obtain ⟨hcmds, hcqs, hmsgs⟩ := finish_after_post id st a b s
  obtain ⟨u, hu⟩ : ∃ u, u = modCmd id (fun c => { c with phase := .decided, status := some st, dw0 := a, dw1 := b }) s := ⟨_, rfl⟩
  have hcu : cmdOf u id = some { c with phase := .decided, status := some st, dw0 := a, dw1 := b } := hu ▸ cmdOf_modCmd_same (fun _ => rfl) hc
  have hsqu : sqOf u id.func id.sq = some sq := by rw [hu]; exact hsq
  have hcqu : cqOf u id.func sq.cq = some cq := by rw [hu]; exact hcq
  have hgenu : genOf u id.func = genOf s id.func := by rw [hu]; rfl
  have hurgent : urgentSq u id.func id.sq = urgentSq s id.func id.sq := by rw [hu]; rfl
  have hsentu : u.sent = s.sent := by rw [hu]; rfl
  have hcqsu : u.cqs = s.cqs := by rw [hu]; rfl
  rw [← hu] at hcmds hcqs hmsgs
  have hcmdOf : cmdOf t id = cmdOf (post id u) id := by rw [cmdOf, cmdOf, hcmds]
  have hcqOf : cqOf t id.func sq.cq = cqOf (post id u) id.func sq.cq := by rw [cqOf, cqOf, hcqs]
  refine ⟨fun hgen hwait hroom => ?room, fun hgen hroom => ?full, fun hgen => ?stale⟩
  case room =>
    have hpost := post_of_room hcu (hgen.trans hgenu.symm) rfl hsqu hcqu ⟨hwait, hroom⟩
    obtain ⟨v, hv⟩ : ∃ v, v = cqWrite id.func sq.cq cq ⟨id.sq, id.cid, st, a, b⟩ (urgentSq u id.func id.sq) u := ⟨_, rfl⟩
    rw [← hv] at hpost
    obtain ⟨hdoneCmds, hdoneCqs, hdoneSent⟩ := countDone_keeps { c with phase := .decided, status := some st, dw0 := a, dw1 := b }
      (freeSlot id (countBytes { c with phase := .decided, status := some st, dw0 := a, dw1 := b } v))
    obtain ⟨hfreeCqs, hfreeSent⟩ := freeSlot_keeps id (countBytes { c with phase := .decided, status := some st, dw0 := a, dw1 := b } v)
    obtain ⟨hbytesCqs, hbytesSent⟩ := countBytes_keeps { c with phase := .decided, status := some st, dw0 := a, dw1 := b } v
    rw [← hpost] at hdoneCmds hdoneCqs hdoneSent
    refine ⟨hmsgs.1 _ ?_, ?_, ?_⟩
    · rw [hdoneSent, hfreeSent, hbytesSent, hv]
      exact cqe_mem_cqWrite ..
    · rw [hcmdOf, cmdOf, hdoneCmds]
      exact cmdOf_freeSlot id _
    · have hmoved := cqOf_cqWrite hcqu ⟨id.sq, id.cid, st, a, b⟩ (urgentSq u id.func id.sq)
      rw [hcqOf, cqOf, hdoneCqs, hfreeCqs, hbytesCqs, hv]
      exact congrArg (Option.map fun q : Cq => (q.tail, q.head)) hmoved
  case full =>
    have hpost := post_of_full hcu (hgen.trans hgenu.symm) rfl hsqu hcqu hroom
    rw [hurgent] at hpost
    refine ⟨fun f q p x hx => ?_, ?_, ?_⟩
    · have hsent := hmsgs.2 f q p x hx
      rw [hpost, modCq_frame, hsentu] at hsent
      exact hsent
    · rw [hcqOf, hpost, cqOf_modCq_same (g := fun q => { q with
        waiting := q.waiting ++ [{ e := ⟨id.sq, id.cid, st, a, b⟩, urgent := urgentSq s id.func id.sq }] }) (fun _ => ⟨rfl, rfl⟩) hcqu]
      rfl
    · rw [hcmdOf, hpost]
      exact congrArg (Option.map fun d : Cmd => (d.phase, d.status)) hcu
  case stale =>
    have hpost := post_of_stale hcu (by rw [hgenu]; exact hgen)
    obtain ⟨hfreeCqs, hfreeSent⟩ := freeSlot_keeps id u
    refine ⟨fun f q p x hx => ?_, ?_, ?_⟩
    · have hsent := hmsgs.2 f q p x hx
      rw [hpost, hfreeSent, hsentu] at hsent
      exact hsent
    · rw [hcmdOf, hpost, cmdOf_freeSlot]
    · exact hcqs.trans ((congrArg State.cqs hpost).trans (hfreeCqs.trans hcqsu))

end Sys2Proof.Machine

/-!
PROOFS. Dispatch (R159, R22, R297, R384) and Geyser promotion (R163, R164): the order that `pickOp` follows, what the frame reads that a
dispatch turns to another copy leave alone, and what the start of an operation changes.
-/
namespace Sys2Proof.Machine

open Sys2Proof

/-! ### The order of dispatch -/

theorem before_total (s : State) (a b : Op) : before s a b = true ∨ before s b a = true := by
  simp only [before, Bool.or_eq_true, Bool.and_eq_true, decide_eq_true_eq]
  omega

theorem before_trans {s : State} {a b c : Op} (hab : before s a b = true) (hbc : before s b c = true) : before s a c = true := by
  simp only [before, Bool.or_eq_true, Bool.and_eq_true, decide_eq_true_eq] at hab hbc ⊢
  omega

theorem before_refl (s : State) (a : Op) : before s a a = true := (before_total s a a).elim (fun h => h) (fun h => h)

/-- Nothing is picked from an empty list alone. -/
theorem pickOp_eq_none (s : State) (l : List Op) : pickOp s l = none ↔ l = [] := by
  cases l with
  | nil => simp [pickOp]
  | cons a l =>
    rw [pickOp]
    split
    · simp
    · split <;> simp

/-- What is picked is in the list, and comes before all of it. -/
theorem pickOp_first (s : State) (l : List Op) (o : Op) (h : pickOp s l = some o) : o ∈ l ∧ ∀ p ∈ l, before s o p = true := by
  induction l generalizing o with
  | nil => exact nomatch h
  | cons a l ih =>
    rw [pickOp] at h
    split at h
    next hnone =>
      obtain rfl := Option.some.inj h
      obtain rfl := (pickOp_eq_none s l).mp hnone
      exact ⟨List.mem_singleton_self _, by simpa using before_refl s a⟩
    next p hp =>
      obtain ⟨hmem, hmin⟩ := ih p hp
      split at h
      next hfirst =>
        obtain rfl := Option.some.inj h
        exact ⟨List.mem_cons_self, List.forall_mem_cons.mpr ⟨before_refl s a, fun q hq => before_trans hfirst (hmin q hq)⟩⟩
      next hlater =>
        obtain rfl := Option.some.inj h
        exact ⟨List.mem_cons_of_mem _ hmem,
          List.forall_mem_cons.mpr ⟨(before_total s a p).resolve_left hlater, hmin⟩⟩

/-! ### What the reads of frames leave alone -/

/-- The clock, the mode and the thermal state are those of `o`. -/
def ReadKeeps (o s : State) : Prop := s.clk = o.clk ∧ s.md = o.md ∧ s.therm = o.therm

theorem ReadKeeps.refl (s : State) : ReadKeeps s s := ⟨rfl, rfl, rfl⟩

theorem readKeeps_foldl {α : Type} {o : State} {g : State → α → State} (hg : ∀ s x, ReadKeeps o s → ReadKeeps o (g s x)) (l : List α) {s : State}
    (h : ReadKeeps o s) : ReadKeeps o (l.foldl g s) := by
  induction l generalizing s with
  | nil => exact h
  | cons a l ih => exact ih (hg s a h)

section
variable {o s : State}

theorem readKeeps_failR (n : Nat) (st : Status) (h : ReadKeeps o s) : ReadKeeps o (failR n st s) := by
  rw [failR_frame]
  exact h

theorem readKeeps_endR (n : Nat) (ids : List CmdId) (h : ReadKeeps o s) : ReadKeeps o (endR n ids s) := by
  rw [endR_frame]
  exact h

theorem readKeeps_zoneOffline (ns z : Nat) (h : ReadKeeps o s) : ReadKeeps o (zoneOffline ns z s) := by
  unfold zoneOffline zoneChanged
  split
  · split
    · rw [postEvent_frame]
      exact h
    · exact h
  · exact h

theorem readKeeps_rowLost (ns z row p : Nat) (h : ReadKeeps o s) : ReadKeeps o (rowLost ns z row p s) := by
  unfold rowLost
  split
  next k _ =>
    have hlose : ReadKeeps o (losePages ns z (· = k) s) := by
      unfold losePages
      dsimp only
      split <;> exact h
    unfold offlineCheck
    dsimp only
    split
    · exact readKeeps_zoneOffline ns z hlose
    · exact hlose
  · exact h

theorem readKeeps_rebStart (ns z row p : Nat) (who : RebFor) (w : Op) (h : ReadKeeps o s) : ReadKeeps o (rebStart ns z row p who w s) := by
  unfold rebStart
  split
  · exact h
  · refine readKeeps_foldl (fun s q hs => ?_) _ h
    exact hs

theorem readKeeps_queueR (w : Work) (q : OpQueue) (r : RJob) (h : ReadKeeps o s) : ReadKeeps o (queueR w q r s) := h

theorem readKeeps_modR (n : Nat) (g : RJob → RJob) (h : ReadKeeps o s) : ReadKeeps o (modR n g s) := h

theorem readKeeps_deliverR (n : Nat) (bytes : List Byte) (h : ReadKeeps o s) : ReadKeeps o (deliverR n bytes s) := by
  unfold deliverR
  split
  · exact h
  · refine readKeeps_endR n _ (readKeeps_foldl (fun s id hs => ?_) _ h)
    split
    · exact readKeeps_foldl (g := fun s (b : Nat × Nat) => sendData _ _ _ s) (fun s b hs => by rw [sendData_frame]; exact hs) _ hs
    · exact hs

theorem readKeeps_payloadReady (n : Nat) (h : ReadKeeps o s) : ReadKeeps o (payloadReady n s) := by
  unfold payloadReady
  split
  · exact h
  · split
    · split
      · exact readKeeps_deliverR n _ h
      · exact readKeeps_failR n _ h
    · exact h

theorem readKeeps_bytesReady (n : Nat) (h : ReadKeeps o s) : ReadKeeps o (bytesReady n s) := by
  unfold bytesReady
  split
  · exact h
  · dsimp only
    split
    · exact readKeeps_failR n _ h
    split
    · exact readKeeps_failR n _ h
    split
    · exact h
    split
    · exact readKeeps_failR n _ h
    split
    · exact readKeeps_failR n _ h
    · exact readKeeps_payloadReady n h

theorem readKeeps_pagesDone (n : Nat) (h : ReadKeeps o s) : ReadKeeps o (pagesDone n s) := by
  unfold pagesDone
  split
  · exact h
  · split
    · exact readKeeps_queueR _ _ _ (readKeeps_modR n _ h)
    · exact readKeeps_bytesReady n h

theorem readKeeps_pageGot (n k : Nat) (h : ReadKeeps o s) : ReadKeeps o (pageGot n k s) := by
  have hmod : ReadKeeps o (modR n (fun r => { r with pages := r.pages.filter (· ≠ k) }) s) := readKeeps_modR n _ h
  unfold pageGot
  dsimp only
  split
  · exact readKeeps_pagesDone n hmod
  · exact hmod

theorem readKeeps_pageRebuilt (n k : Nat) (h : ReadKeeps o s) : ReadKeeps o (pageRebuilt n k s) :=
  readKeeps_pageGot n k (readKeeps_modR n _ h)

theorem readKeeps_pageLost (n : Nat) (h : ReadKeeps o s) : ReadKeeps o (pageLost n s) := by
  unfold pageLost
  split
  · exact h
  · split
    · unfold lostCheck
      dsimp only
      split
      · exact readKeeps_zoneOffline _ _ (readKeeps_failR n _ h)
      · exact readKeeps_failR n _ h
    · exact readKeeps_failR n _ h

theorem readKeeps_pageRead (n k : Nat) (h : ReadKeeps o s) : ReadKeeps o (pageRead n k s) := by
  unfold pageRead
  split
  · exact h
  · split
    · dsimp only
      split
      · exact h
      split
      · exact readKeeps_pageLost n (readKeeps_rowLost _ _ _ _ h)
      split
      · exact readKeeps_pageRebuilt n k h
      · exact readKeeps_rebStart _ _ _ _ _ _ h
    · exact readKeeps_pageLost n h

theorem readKeeps_readPages (n : Nat) (h : ReadKeeps o s) : ReadKeeps o (readPages n s) := by
  unfold readPages
  split
  · exact h
  · split
    · exact readKeeps_foldl (fun s k hs => readKeeps_pageRead n k hs) _ h
    · exact readKeeps_bytesReady n h

theorem readKeeps_idxHave (n i : Nat) (h : ReadKeeps o s) : ReadKeeps o (idxHave n i s) := by
  unfold idxHave
  split <;> exact h

end

theorem readKeeps_readIndexes {o s : State} (l : List Nat) (n : Nat) (copy : Bool) (h : ReadKeeps o s) :
    ReadKeeps o (readIndexes l n copy s) := by
  induction l generalizing copy s with
  | nil => exact readKeeps_readPages n h
  | cons i l ih =>
    unfold readIndexes
    split
    · exact h
    · dsimp only
      split
      · split
        · exact h
        · split
          · exact ih true (readKeeps_idxHave n i h)
          split
          · exact h
          split
          · exact readKeeps_failR n _ (readKeeps_rowLost _ _ _ _ h)
          split
          · exact ih true (readKeeps_idxHave n i h)
          · exact readKeeps_rebStart _ _ _ _ _ _ h
      · exact readKeeps_readPages n h

theorem readKeeps_internalEnd {o s : State} (w : Op) (h : ReadKeeps o s) : ReadKeeps o (internalEnd s w) := by
  unfold internalEnd
  split
  · exact h
  · dsimp only
    split
    · unfold readIndex
      split
      · exact h
      · exact readKeeps_readIndexes _ _ _ h
    · exact h

theorem readKeeps_endInternal {o s : State} (l : Nat) (h : ReadKeeps o s) : ReadKeeps o (endInternal l s) :=
  readKeeps_foldl (fun _ w hs => readKeeps_internalEnd w hs) _ h

theorem readKeeps_lunResume {o s : State} (l : Nat) (h : ReadKeeps o s) : ReadKeeps o (lunResume l s) := by
  unfold lunResume
  split
  · exact h
  · split
    · exact h
    · split <;> exact h

theorem readKeeps_rehome {o s : State} (h : ReadKeeps o s) : ReadKeeps o (rehome s) := by
  refine readKeeps_foldl (fun s k hs => ?_) _ h
  exact hs

/-! ### Starts -/

/-- With no section fenced, nothing moves. -/
theorem rehome_of_open {s : State} (h : ∀ k, k < 8 → (cipOf s k).fenced = false) : rehome s = s := by
  have hnone : ((List.range 8).filter fun k => (cipOf s k).fenced) = [] :=
    List.filter_eq_nil_iff.mpr fun k hk => by simp [h k (List.mem_range.mp hk)]
  rw [rehome, hnone]
  rfl

/-- The state in which operation `w` runs on resource `r` from now on, bound in state `v`. -/
def runBegun (r : Resource) (w : Op) (u v : State) : State :=
  { v with
    ops := rmOp w u.ops
    runs := u.runs ++ [{ res := r, op := { w with cls := effCls u w }, kerf := u.therm.kerf ≠ 0, kerfUs := u.therm.kerf, since := now u }] }

/-- A coder starts with no binding. -/
theorem startOp_coder (k lane c : Nat) (w : Op) (u : State) : startOp (.coder k lane c) w u = runBegun (.coder k lane c) w u u := by
  by_cases hkerf : u.therm.kerf = 0 <;> simp [startOp, runBegun, startWork, hkerf, now]

/-- The state with the intent of an erase of block `b` of LUN `l` recorded. -/
def intentSet (l b : Nat) (s : State) : State :=
  modBlk l b (fun k => { k with st := .intent, probes := if k.st = .suspect then k.probes + 1 else k.probes }) s

/-- A block whose erase intent is recorded. -/
theorem blkOf_intentSet (l b : Nat) (s : State) : (blkOf (lunOf (intentSet l b s) l) b).st = .intent := by
  unfold intentSet modBlk
  rw [lunOf, modLun, tget_tset_same, blkOf, tget_tset_same]

/-- An erase starts on a LUN: its intent is recorded unless a kerf comes first. -/
theorem startOp_erase {l b : Nat} {w : Op} (u : State) (h : w.work = .erase l b) :
    startOp (.lun l) w u = runBegun (.lun l) w u (if u.therm.kerf = 0 then intentSet l b u else u) := by
  have hwork (v : State) : startWork (.lun l) w v = intentSet l b v := by
    unfold startWork
    rw [h]
    rfl
  unfold startOp
  dsimp only
  rw [hwork]
  by_cases hkerf : u.therm.kerf = 0
  · simp only [runBegun, hkerf]
    rfl
  · have hyes : decide (u.therm.kerf ≠ 0) = true := by simp [hkerf]
    simp only [hyes, Bool.true_and, if_true, runBegun, if_neg hkerf]
    rfl

/-! ### The clauses of dispatch -/

theorem ioServes_congr {s t : State} (h : t.md = s.md) : ioServes t = ioServes s := by rw [ioServes, ioServes, h]

/-- What `runBegun` records of the clock and the kerf is what the state dispatch began in has. -/
theorem runBegun_runs {s u : State} (h : ReadKeeps s u) (r : Resource) (w : Op) (v : State) :
    (runBegun r w u v).runs =
      u.runs ++ [{ res := r, op := { w with cls := effCls u w }, kerf := s.therm.kerf ≠ 0, kerfUs := s.therm.kerf, since := now s }] := by
  obtain ⟨hclk, -, htherm⟩ := h
  have hnow : now u = now s := by rw [now, now, hclk]
  rw [runBegun, htherm, hnow]

/-- A dispatch on a coder. -/
theorem exec_dispatch_coder {k lane c : Nat} {s : State} {w : Op}
    (hpick : pickOp (rehome s) ((rehome s).ops.filter (mayStart (rehome s) (.coder k lane c))) = some w)
    (hkey : decryptKeyless (rehome s) w.work = none) (herase : ∀ l b, w.work ≠ .erase l b) :
    exec (.dispatch (.coder k lane c)) s = .next (runBegun (.coder k lane c) w (rehome s) (rehome s)) := by
  change execDispatch (.coder k lane c) s = _
  unfold execDispatch
  dsimp only
  rw [hpick]
  dsimp only
  rw [hkey]
  dsimp only
  rw [startOp_coder]
  split
  next l b h => exact absurd h (herase l b)
  next => rfl

/-- A dispatch on a LUN that picks an erase. -/
theorem exec_dispatch_erase {l b : Nat} {s u : State} {w : Op} (hserves : ioServes s = true)
    (hu : u = lunResume l (endInternal l (rehome s))) (hpick : pickOp u (u.ops.filter (mayStart u (.lun l))) = some w) (herase : w.work = .erase l b) :
    exec (.dispatch (.lun l)) s =
      .next (endInternal l (runBegun (.lun l) w u (if u.therm.kerf = 0 then intentSet l b u else u))) := by
  have hrehome : ioServes (rehome s) = true := (ioServes_congr (readKeeps_rehome (.refl s)).2.1).trans hserves
  change execDispatch (.lun l) s = _
  unfold execDispatch
  dsimp only
  rw [if_pos hrehome, ← hu, hpick]
  dsimp only
  rw [herase]
  exact congrArg (fun v => Host.Outcome.next (endInternal l v)) (startOp_erase u herase)

/-! ### The end of a kerf -/

/-- A read-retry set is a value of the die. -/
theorem readSet_keeps (l : Nat) (w : Op) (s : State) : (readSet l w s).runs = s.runs ∧ (readSet l w s).clk = s.clk := by
  unfold readSet
  cases w.rung <;> dsimp only <;> split <;> exact ⟨rfl, rfl⟩

/-- A pulse limit is a value of the die. -/
theorem pulseSet_keeps (l : Nat) (s : State) : (pulseSet l s).runs = s.runs ∧ (pulseSet l s).clk = s.clk := by
  unfold pulseSet
  dsimp only
  split <;> exact ⟨rfl, rfl⟩

/-- The start of an operation leaves the runs and the clock. -/
theorem startWork_keeps (r : Resource) (w : Op) (s : State) : (startWork r w s).runs = s.runs ∧ (startWork r w s).clk = s.clk := by
  unfold startWork
  split
  case h_1 k n =>
    unfold bindJob
    split
    · exact ⟨rfl, rfl⟩
    · split
      · exact ⟨rfl, rfl⟩
      · split
        next e v t _ htake =>
          unfold takeValue at htake
          split at htake
          · exact nomatch htake
          · cases htake
            dsimp only [Option.getD]
            constructor <;> (split <;> rfl)
        next => exact ⟨rfl, rfl⟩
  case h_2 k n =>
    split
    · exact ⟨rfl, rfl⟩
    · dsimp only
      split <;> exact ⟨rfl, rfl⟩
  case h_3 => exact ⟨rfl, rfl⟩
  case h_4 l v =>
    split
    · exact readSet_keeps l w s
    · exact pulseSet_keeps l s
  case h_5 => exact ⟨rfl, rfl⟩

theorem foldl_startWork_keeps (r : Resource) (l : List Run) (s : State) :
    (l.foldl (fun s x => startWork r x.op s) s).runs = s.runs ∧ (l.foldl (fun s x => startWork r x.op s) s).clk = s.clk := by
  induction l generalizing s with
  | nil => exact ⟨rfl, rfl⟩
  | cons x l ih =>
    obtain ⟨hruns, hclk⟩ := startWork_keeps r x.op s
    obtain ⟨hruns', hclk'⟩ := ih (startWork r x.op s)
    exact ⟨hruns'.trans hruns, hclk'.trans hclk⟩

/-- The runs once the kerfs of resource `r` that have lasted their time are over. -/
def kerfsOver (s : State) (r : Resource) : List Run :=
  s.runs.map fun x => if kerfOver s r x then { x with kerf := false, since := now s } else x

/-- A kerf's end, while no image switch holds it. -/
theorem exec_kerfExpiry_of_go {r : Resource} {s : State} (hgo : ∀ l, r = .lun l → s.fw.act.any (·.switching) = false) :
    exec (.kerfExpiry r) s =
      .next { (s.runs.filter (kerfOver s r)).foldl (fun s x => startWork r x.op s) s with runs := kerfsOver s r } := by
  obtain ⟨hruns, hclk⟩ := foldl_startWork_keeps r (s.runs.filter (kerfOver s r)) s
  change execKerfExpiry r s = _
  unfold execKerfExpiry
  dsimp only
  rw [if_neg (by
    cases r with
    | lun l => simp [hgo l rfl]
    | coder => simp
    | cipher => simp)]
  have hnow (v : State) (hv : v.clk = s.clk) : kerfOver v r = kerfOver s r ∧ now v = now s := by
    have hn : now v = now s := by rw [now, now, hv]
    exact ⟨funext fun x => by rw [kerfOver, kerfOver, hn], hn⟩
  obtain ⟨hover, hn⟩ := hnow _ hclk
  rw [hruns, hover, hn]
  rfl

theorem kerfOver_iff (s : State) (r : Resource) (x : Run) :
    kerfOver s r x = true ↔ x.res = r ∧ x.kerf = true ∧ x.since + 1000 * x.kerfUs ≤ now s := by
  simp [kerfOver, and_assoc]

/-! ### Promotion -/

/-- A command becomes over-age. -/
theorem exec_geyserOverAge_of_due {id : CmdId} {s : State} {c : Cmd} {lim : Nat} (hcmd : cmdOf s id = some c) (hage : c.overAge = false)
    (hsq : c.id.sq ≠ 0) (hlim : ageLimit s id.func c.cls = some lim) (hdue : c.time + lim ≤ now s) :
    exec (.geyserOverAge id) s = .next (
      if (s.cmds.filter fun d => d.id.func = id.func && d.token).length < 4 then promote id (modCmd id (fun c => { c with overAge := true }) s)
      else modCmd id (fun c => { c with overAge := true }) s) := by
  have hsome : (cmdOf s id).filter (fun c => !c.overAge && c.id.sq ≠ 0 && (ageLimit s id.func c.cls).any fun l => c.time + l ≤ now s) =
      some c := by
    rw [hcmd, Option.filter_some, hlim]
    simp [hage, hsq, hdue]
  change execGeyserOverAge id s = _
  unfold execGeyserOverAge
  rw [hsome]

/-- Settles O31: the pick is the least of a total order on class and age; frame reads keep the clock and the kerf that a start records. -/
theorem dispatching : Obligations.Dispatching := by
  refine ⟨⟨pickOp_eq_none, fun s l o h => pickOp_first s l o h⟩, ⟨?_, fun s h => rehome_of_open h, ?_, ?_, ?_⟩, ?_⟩
  case refine_1 =>
    intro k lane c s w u hpick hkey herase
    rw [exec_dispatch_coder hpick hkey herase, ← runBegun_runs (readKeeps_rehome (.refl s)) _ w u]
    rfl
  case refine_2 =>
    intro l s w b hserves u hpick herase
    have hkeeps : ReadKeeps s u := readKeeps_lunResume l (readKeeps_endInternal l (readKeeps_rehome (.refl s)))
    refine ⟨_, exec_dispatch_erase hserves rfl hpick herase, fun hno => ?_, fun hkerf => ?_, rfl, runBegun_runs hkeeps _ w _, ?_⟩
    · rw [if_pos (hkeeps.2.2.symm ▸ hno)]
      exact blkOf_intentSet l b u
    · rw [if_neg (hkeeps.2.2.symm ▸ hkerf)]
      rfl
    · split <;> rfl
  case refine_3 =>
    intro r s hgo
    refine ⟨_, exec_kerfExpiry_of_go hgo, ?_, fun hnone => ?_, fun l b x hone hlun herase => ?_⟩
    · exact List.map_congr_left fun x _ => by simp only [kerfOver_iff]
    · have hruns : kerfsOver s r = s.runs := by
        refine (List.map_congr_left fun x hx => ?_).trans (List.map_id _)
        rw [hnone x hx]
        rfl
      rw [hruns, List.filter_eq_nil_iff.mpr fun x hx => by simp [hnone x hx]]
      rfl
    · subst hlun
      have hwork : startWork (.lun l) x.op s = intentSet l b s := by
        unfold startWork
        rw [herase]
        rfl
      rw [hone, List.foldl_cons, List.foldl_nil, hwork]
      exact ⟨blkOf_intentSet l b s, rfl⟩
  case refine_4 =>
    intro l s hswitching
    change execKerfExpiry (.lun l) s = _
    unfold execKerfExpiry
    rw [hswitching]
    rfl
  case refine_5 =>
    intro id s c lim hcmd hage hsq hlim hdue
    refine ⟨_, exec_geyserOverAge_of_due hcmd hage hsq hlim hdue, ?_⟩
    have hover := cmdOf_modCmd_same (g := fun c => { c with overAge := true }) (fun _ => rfl) hcmd
    by_cases hheld : (s.cmds.filter fun d => d.id.func = id.func && d.token).length < 4
    · rw [if_pos hheld]
      simp only [if_pos hheld]
      have htoken := cmdOf_modCmd_same (g := fun c => { c with token := true }) (fun _ => rfl) hover
      refine ⟨congrArg (Option.map _) htoken, ?_, rfl⟩
      unfold promote contOf modCont
      rw [tget_tset_same]
      rfl
    · rw [if_neg hheld]
      simp only [if_neg hheld]
      exact ⟨congrArg (Option.map _) hover, rfl, rfl⟩

end Sys2Proof.Machine

/-!
PROOFS. The NVMe admin commands (R127, R133 to R146): Identify and log pages, commands outside the tables, features, directives and
firmware.
-/
namespace Sys2Proof.Machine

open Sys2Proof

/-! ### The command that runs -/

/-- A command found by an identity has it. -/
theorem id_of_cmdOf {s : State} {id : CmdId} {c : Cmd} (h : cmdOf s id = some c) : c.id = id := by
  simpa using List.find?_some h

/-- What lets an admin command run. -/
theorem adminCmd_spec {s : State} {id : CmdId} {opc : Nat} {c : Cmd} (h : adminCmd s id opc = some c) :
    ioServes s = true ∧ cmdOf s id = some c ∧ c.phase = .admitted ∧ c.id.sq = 0 ∧ c.e.opc = opc ∧ c.id = id := by
  unfold adminCmd at h
  split at h
  next hserves =>
    obtain ⟨hcmd, hc⟩ := Option.filter_eq_some_iff.mp h
    simp only [Bool.and_eq_true, decide_eq_true_eq] at hc
    obtain ⟨⟨⟨hphase, hsq⟩, hopc⟩, -⟩ := hc
    exact ⟨hserves, hcmd, hphase, hsq, hopc, id_of_cmdOf hcmd⟩
  next => exact nomatch h

/-- An admin command that runs has its identity. -/
theorem AdminRuns.id_eq {s : State} {id : CmdId} {opc : Nat} {c : Cmd} (h : AdminRuns s id opc c) : c.id = id :=
  (adminCmd_spec h.1).2.2.2.2.2

/-! ### Identify, log pages, and commands outside the tables -/

/-- Identify sends the data and succeeds. -/
theorem exec_identify_of_data {s : State} {id : CmdId} {c : Cmd} {b : List Byte} (hruns : AdminRuns s id 0x06 c)
    (hdata : identData s c = .ok b) : exec (.identify id) s = .next (finishSt id okSt (sendData c 0 b s)) := by
  change execIdentify id s = _
  rw [execIdentify, admin_of_runs hruns, hdata]

/-- Identify controller. -/
theorem identData_ctrl {s : State} {c : Cmd} (h : fld c.e.cdw10 7 0 = 1) : identData s c = .ok (identCtrl s c.id.func) := by
  simp only [identData, h]

/-- A log page that is not the Changed Zone List is read. -/
theorem exec_getLogPage_of_page {s : State} {id : CmdId} {c : Cmd} {lid len off : Nat} (hruns : AdminRuns s id 0x02 c)
    (hlid : lid = fld c.e.cdw10 7 0) (hlen : len = 4 * (fld c.e.cdw10 31 16 + 65536 * fld c.e.cdw11 15 0 + 1))
    (hoff : off = c.e.cdw12.toNat + 2 ^ 32 * c.e.cdw13.toNat) (hzones : lid ≠ 0xBF) (hns : c.e.nsid = 0 ∨ c.e.nsid = 0xFFFFFFFF)
    (hreads : logReadable id.func lid = true) (hfits : len ≤ 2097152) (halign : off % 4 = 0) (hinside : off < (logPage s id.func lid).length) :
    exec (.getLogPage id) s = .next (finishSt id okSt
      (if bitOf c.e.cdw10 15 then sendData c 0 (((logPage s id.func lid).drop off).take len) s
       else logRead id.func lid c.e.nsid (sendData c 0 (((logPage s id.func lid).drop off).take len) s))) := by
  have hall : ¬ (c.e.nsid ≠ 0 ∧ c.e.nsid ≠ 0xFFFFFFFF) := fun h => hns.elim h.1 h.2
  have hbounds : ¬ (2097152 < len ∨ off % 4 ≠ 0) := by omega
  change execGetLogPage id s = _
  rw [execGetLogPage, admin_of_runs hruns]
  dsimp only
  rw [← hlid, ← hlen, ← hoff, if_neg hzones, if_neg hall, if_neg (not_not_intro hreads), if_neg hbounds]
  dsimp only
  rw [if_neg (Nat.not_le_of_lt hinside)]

/-- An admin opcode outside R127. -/
theorem exec_unsupportedCommand_of_admin {s : State} {id : CmdId} {c : Cmd} (hserves : ioServes s = true) (hcmd : cmdOf s id = some c)
    (hphase : c.phase = .admitted) (hsq : c.id.sq = 0) (hopc : c.e.opc ∉ adminOps 0) (hthawed : frozenFn s c.id.func = false) :
    exec (.unsupportedCommand id) s = .next (finishSt id invOpcode s) := by
  have hst : (if ioServes s then (cmdOf s id).filter (fun c => c.phase = .admitted) else none).bind (unsupported s) = some invOpcode := by
    rw [if_pos hserves, hcmd, Option.filter_some, if_pos (by simpa using hphase), Option.bind_some, unsupported, if_pos hsq, if_pos hopc, hthawed]
    rfl
  change execUnsupportedCommand id s = _
  unfold execUnsupportedCommand
  rw [hst]

/-- Settles O15: each command's checks pass, and what is left is the data sent and the status. -/
theorem adminData : Obligations.AdminData :=
  ⟨fun _ _ _ _ hruns hdata => exec_identify_of_data hruns hdata,
   fun _ _ _ hruns hcns => exec_identify_of_data hruns (hruns.id_eq ▸ identData_ctrl hcns),
   fun _ _ _ hruns hzones hns hreads hfits halign hinside =>
     exec_getLogPage_of_page hruns rfl rfl rfl hzones hns hreads hfits halign hinside,
   fun _ _ _ hserves hcmd hphase hsq hopc hthawed => exec_unsupportedCommand_of_admin hserves hcmd hphase hsq hopc hthawed⟩

/-! ### Features and directives -/

/-- Set Features of a feature that the function may change, without a save. -/
theorem exec_setFeatures_of_changeable {s : State} {id : CmdId} {c : Cmd} {fid : Nat} (hruns : AdminRuns s id 0x09 c)
    (hfid : fld c.e.cdw10 7 0 = fid) (hsave : bitOf c.e.cdw10 31 = false) (hknown : fid ∈ features) (hfan : fid ≠ 0x06)
    (hqueues : fid = 0x07 → id.func = 0) (hpower : fid = 0x02 → id.func = 0) (hmay : changeable id.func fid = true) :
    exec (.setFeatures id) s = .next (setFeature c s) := by
  change execSetFeatures id s = _
  rw [execSetFeatures, admin_of_runs hruns]
  dsimp only
  rw [hfid, if_neg (not_not_intro hknown), hsave, if_neg Bool.false_ne_true, if_neg hfan, if_neg (fun h => h.2 (hqueues h.1)),
    if_neg (fun h => h.2 (hpower h.1)), if_neg (not_not_intro hmay)]

/-- A feature after it is set. -/
theorem featGet_featSet_same (fid sub : Nat) (v : W32) (fn : Fn) : featGet (featSet fid sub v fn) fid sub = v := by
  rw [featGet, featSet, tget_tset_same, BitVec.xor_assoc, BitVec.xor_self, BitVec.xor_zero]

/-- The other features after one is set. -/
theorem featGet_featSet_ne {fid sub fid' sub' : Nat} (v : W32) (fn : Fn) (h : featKey fid' sub' ≠ featKey fid sub) :
    featGet (featSet fid sub v fn) fid' sub' = featGet fn fid' sub' := by
  rw [featGet, featSet, tget_tset_ne _ _ h.symm, featGet]

/-- Get Features of the interrupt coalescing in force. -/
theorem exec_getFeatures_coalescing {s : State} {id : CmdId} {c : Cmd} (hruns : AdminRuns s id 0x0A c) (hfid : fld c.e.cdw10 7 0 = 0x08)
    (hsel : fld c.e.cdw10 10 8 = 0) : exec (.getFeatures id) s = .next (finish id okSt (featGet (fnOf s c.id.func) 8 0) 0 s) := by
  have hvalue : featValue s c = some (featGet (fnOf s c.id.func) 8 0) := by
    simp only [featValue, hfid]
  have hserved : ¬ (0x08 ∉ features ∨ 3 < 0) := by decide
  have hglobal : ¬ (nsFeature 0x08 ∧ (nsCheck s c).toOption.isNone) := fun h => absurd h.1 (by decide)
  have hqueues : ¬ (0x08 = 0x07 ∧ queueLimit s id.func = 0) := fun h => absurd h.1 (by decide)
  change execGetFeatures id s = _
  rw [execGetFeatures, admin_of_runs hruns]
  dsimp only
  rw [hfid, hsel, hvalue, if_neg hserved, if_neg (by decide), if_neg hglobal]
  dsimp only
  rw [if_neg hqueues, if_neg (by decide), if_pos rfl]

/-- Features C1h with ages out of order. -/
theorem setFeature_of_bad_ages {s : State} {c : Cmd} (hfid : fld c.e.cdw10 7 0 = 0xC1)
    (hbad : fld c.e.cdw11 7 0 = 0 ∨ fld c.e.cdw11 15 8 < fld c.e.cdw11 7 0 ∨ fld c.e.cdw11 31 16 < fld c.e.cdw11 15 8) :
    setFeature c s = finishSt c.id invField s := by
  simp only [setFeature, hfid, if_pos hbad]

/-- The coalescing that is set. -/
theorem setFeature_coalescing {s : State} {c : Cmd} (hfid : fld c.e.cdw10 7 0 = 0x08) :
    setFeature c s = finishSt c.id okSt (modFn c.id.func (featSet 8 0 (c.e.cdw11 &&& 0xFFFF)) s) := by
  simp only [setFeature, hfid]

/-- A power state that is asked for. -/
theorem setFeature_power {s : State} {c : Cmd} (hfid : fld c.e.cdw10 7 0 = 0x02) (hps : fld c.e.cdw11 4 0 ≤ 4) :
    setFeature c s = psRequest (fld c.e.cdw11 4 0) (some (.cmd c.id)) (modCmd c.id (fun c => { c with phase := .held }) s) := by
  simp only [setFeature, hfid, if_neg (Nat.not_lt_of_le hps)]

/-- The PF changes every feature that a function may change. -/
theorem changeable_pf {fid : Nat} (h : fid ∈ [0x02, 0x07, 0xC1]) : changeable 0 fid = true := by
  rw [changeable, decide_eq_true h, Bool.or_eq_true]
  exact .inr rfl

/-- Directive Send of the placement directive for one namespace. -/
theorem exec_directiveSend_of_ok {s : State} {id : CmdId} {c : Cmd} {n : Ns} (hruns : AdminRuns s id 0x19 c) (hoper : fld c.e.cdw11 7 0 = 1)
    (htype : fld c.e.cdw11 15 8 = 0) (hdir : fld c.e.cdw12 15 8 = 0x0F) (hone : c.e.nsid ≠ 0xFFFFFFFF) (hns : nsCheck s c = .ok n) :
    exec (.directiveSend id) s = .next (finishSt id okSt (modFn id.func (fun fn => { fn with
      dirEn := if bitOf c.e.cdw12 0 then insNat c.e.nsid fn.dirEn else rmNat c.e.nsid fn.dirEn }) s)) := by
  have hnss : featNss s c = .ok [c.e.nsid] := by rw [featNss, if_neg hone, hns]; rfl
  have hchecks : ¬ (fld c.e.cdw11 7 0 ≠ 1 ∨ fld c.e.cdw11 15 8 ≠ 0 ∨ fld c.e.cdw12 15 8 ≠ 0x0F) := by simp [hoper, htype, hdir]
  change execDirectiveSend id s = _
  rw [execDirectiveSend, admin_of_runs hruns]
  dsimp only
  rw [if_neg hchecks, hnss]
  rfl

/-- Directive Receive of the return parameters. -/
theorem exec_directiveReceive_of_ok {s : State} {id : CmdId} {c : Cmd} {n : Ns} (hruns : AdminRuns s id 0x1A c) (hoper : fld c.e.cdw11 7 0 = 1)
    (htype : fld c.e.cdw11 15 8 = 0) (hns : nsCheck s c = .ok n) : exec (.directiveReceive id) s =
      .next (finishSt id okSt (sendData c 0 ((dirParams s id.func c.e.nsid).take (4 * (c.e.cdw10.toNat + 1))) s)) := by
  have hchecks : ¬ (fld c.e.cdw11 7 0 ≠ 1 ∨ fld c.e.cdw11 15 8 ≠ 0) := by simp [hoper, htype]
  change execDirectiveReceive id s = _
  rw [execDirectiveReceive, admin_of_runs hruns]
  dsimp only
  rw [if_neg hchecks, hns]

/-- Settles O16: a feature is kept as its difference from the default, so what is set is read back. -/
theorem featuresAndDirectives : Obligations.FeaturesAndDirectives := by
  refine ⟨⟨fun id s c hruns hfid hsave => ?_, fun f v s => ?_, fun id s c hruns hfid hsel => exec_getFeatures_coalescing hruns hfid hsel,
    fun id s c hruns hid hpf hfid hsave hps => ?_, fun id s c hruns hpf hid hfid hsave hbad => ?_⟩,
    fun id s c n hruns hoper htype hdir hone hns => exec_directiveSend_of_ok hruns hoper htype hdir hone hns,
    fun id s c n hruns hoper htype hns => exec_directiveReceive_of_ok hruns hoper htype hns⟩
  · rw [exec_setFeatures_of_changeable hruns hfid hsave (by decide) (by decide) (by simp) (by simp) rfl, setFeature_coalescing hfid,
      hruns.id_eq]
  · rw [fnOf_modFn_same]
    exact ⟨featGet_featSet_same 8 0 v _, fun fid sub h => featGet_featSet_ne v _ h⟩
  · rw [exec_setFeatures_of_changeable hruns hfid hsave (by decide) (by decide) (by simp) (fun _ => hpf) (hpf ▸ changeable_pf (by decide)),
      setFeature_power hfid hps, hid]
  · rw [exec_setFeatures_of_changeable hruns hfid hsave (by decide) (by decide) (by simp) (by simp) (hpf ▸ changeable_pf (by decide)),
      setFeature_of_bad_ages hfid hbad, hid]
    rfl

/-! ### Firmware -/

/-- A piece of an image joins what is downloaded. -/
theorem exec_firmwareImageDownload_of_piece {s : State} {id : CmdId} {c : Cmd} {len off : Nat} {old : List Byte} (hruns : AdminRuns s id 0x11 c)
    (hpf : id.func = 0) (hlen : len = 4 * (c.e.cdw10.toNat + 1)) (hoff : off = 4 * c.e.cdw11.toNat)
    (hold : old = if off = 0 then [] else (fnOf s 0).img) (halignLen : len % 4096 = 0) (halign : off % 4096 = 0) (hend : off + len ≤ 16777216)
    (hfits : old.length + len ≤ 16777216) : exec (.firmwareImageDownload id) s =
      .next (finishSt id okSt (modFn 0 (fun fn => { fn with img := old ++ bytesAt c.e.data 0 len }) s)) := by
  have hchecks : ¬ (len % 4096 ≠ 0 ∨ off % 4096 ≠ 0 ∨ 16777216 < off + len ∨ 16777216 < old.length + len) := by omega
  change execFirmwareImageDownload id s = _
  rw [execFirmwareImageDownload, admin_of_runs hruns]
  dsimp only
  rw [← hlen, ← hoff, ← hold, if_neg (not_not_intro hpf), if_neg hchecks]

/-- A commit that only stores the downloaded image. -/
theorem exec_firmwareCommit_of_store {s : State} {id : CmdId} {c : Cmd} {slot : Nat} (hruns : AdminRuns s id 0x10 c) (hpf : id.func = 0)
    (hca : fld c.e.cdw10 5 3 = 0) (hfs : fld c.e.cdw10 2 0 ≤ 4) (hslot : slot = commitSlot s (fld c.e.cdw10 2 0)) (hother : slot ≠ s.fw.active)
    (hidle : s.fw.act = none) (himg : (fnOf s 0).img ≠ []) :
    exec (.firmwareCommit id) s = .next (if imgOk s (imgOf (fnOf s 0).img) = true
      then finishSt id okSt (modFn 0 (fun fn => { fn with img := [] }) (putSlot slot (imgOf (fnOf s 0).img) s))
      else finishSt id (cmdSt 0x07) s) := by
  change execFirmwareCommit id s = _
  rw [execFirmwareCommit, admin_of_runs hruns]
  dsimp only
  rw [← hslot, hca, if_neg (not_not_intro hpf), if_neg (by decide), if_neg (by simp [hother, Nat.not_lt_of_le hfs]), hidle]
  simp only [Option.any_none, Bool.false_eq_true, if_false, himg, decide_eq_true (Nat.zero_le 1), Bool.true_or, if_true, ne_eq, not_true,
    false_and]
  split <;> simp_all [commitImg]

/-- A commit that activates a stored image without reset. -/
theorem exec_firmwareCommit_of_activation {s : State} {id : CmdId} {c : Cmd} {slot : Nat} {i : Img} (hruns : AdminRuns s id 0x10 c)
    (hpf : id.func = 0) (hca : fld c.e.cdw10 5 3 = 3) (himg : (fnOf s 0).img = []) (hslot : slot = commitSlot s (fld c.e.cdw10 2 0))
    (hnamed : fld c.e.cdw10 2 0 ≠ 0) (hfs : fld c.e.cdw10 2 0 ≤ 4) (hidle : s.fw.act = none) (hlong : s.mbx.long = false)
    (hstored : tget none s.fw.slots slot = some i) (hok : imgOk s i = true) (hlive : i.needsReset = false) (hrun : s.md.cur = .run) :
    exec (.firmwareCommit id) s = .next (actBegin slot false (some id) (modCmd id (fun c => { c with phase := .held }) s)) := by
  change execFirmwareCommit id s = _
  rw [execFirmwareCommit, admin_of_runs hruns]
  dsimp only
  rw [← hslot, hca, if_neg (not_not_intro hpf), if_neg (by decide), if_neg (by simp [hnamed, Nat.not_lt_of_le hfs]), hidle, hlong]
  simp [himg, hstored, hok, hlive, hrun, commitImg]

/-- The state that an activation without reset begins from RUN. -/
theorem actBegin_of_run {s : State} (slot : Nat) (mbx : Bool) (cmd : Option CmdId) (h : s.md.cur = .run) :
    (actBegin slot mbx cmd s).md.cur = .quiesce ∧ (actBegin slot mbx cmd s).cmds = s.cmds ∧
      (actBegin slot mbx cmd s).fw = { s.fw with act := some ⟨slot, mbx, cmd, false, false, now s⟩ } := by
  unfold actBegin
  dsimp only
  rw [if_pos h, postEventAll_frame, setMode, if_neg (by rw [h]; decide)]
  exact ⟨rfl, rfl, rfl⟩

/-- Settles O18: the checks of a download, of a store and of an activation pass in their order. -/
theorem firmwareCommands : Obligations.FirmwareCommands := by
  refine ⟨fun id s c hruns hpf halignLen halign hend hfits =>
      exec_firmwareImageDownload_of_piece hruns hpf rfl rfl rfl halignLen halign hend hfits,
    fun id s c hruns hpf hca hfs hother hidle himg => ?_, fun id s c i hruns hpf hca himg hnamed hfs hidle hlong hstored hok hlive hrun => ?_,
    fun n i s => ⟨tget_tset_same s.fw.slots n (some i), fun k hk => tget_tset_ne s.fw.slots (some i) hk.symm⟩⟩
  · have hstore := exec_firmwareCommit_of_store hruns hpf hca hfs rfl hother hidle himg
    refine ⟨fun hok => hstore.trans (next_congr (if_pos hok)), fun hbad => hstore.trans (next_congr ?_)⟩
    rw [if_neg (by rw [hbad]; exact Bool.false_ne_true)]
    rfl
  · have hcmd := (adminCmd_spec hruns.1).2.1
    have hheld := cmdOf_modCmd_same (g := fun c => { c with phase := .held }) (fun _ => rfl) hcmd
    obtain ⟨hmode, hcmds, hfw⟩ := actBegin_of_run (s := modCmd id (fun c => { c with phase := .held }) s)
      (commitSlot s (fld c.e.cdw10 2 0)) false (some id) hrun
    refine ⟨_, exec_firmwareCommit_of_activation hruns hpf hca himg rfl hnamed hfs hidle hlong hstored hok hlive hrun, hmode, ?_, ?_, ?_⟩
    · rw [hfw]
      rfl
    · rw [hfw]
      rfl
    · rw [cmdOf, hcmds]
      exact congrArg (Option.map _) hheld

end Sys2Proof.Machine

/-!
PROOFS. The NVMe queue commands, Abort and Asynchronous Event Request (R105 to R107, R125, R127, R143, R157, R166 to R168).
-/
namespace Sys2Proof.Machine

open Sys2Proof

/-! ### Queues -/

/-- A completion queue is created. -/
theorem exec_createIoCompletionQueue_of_ok {s : State} {id : CmdId} {c : Cmd} {q n v : Nat} (hruns : AdminRuns s id 0x05 c)
    (hpc : bitOf c.e.cdw11 0 = true) (hq : q = fld c.e.cdw10 15 0) (hn : n = fld c.e.cdw10 31 16) (hv : v = fld c.e.cdw11 31 16)
    (hadmin : q ≠ 0) (hlimit : q ≤ queueLimit s id.func) (hfree : cqOf s id.func q = none) (hsize : n ≠ 0) (hmqes : n ≤ 0xFFF)
    (hvector : v < fnVectors s id.func) :
    exec (.createIoCompletionQueue id) s = .next (finishSt id okSt { s with cqs := s.cqs ++
      [{ func := id.func, id := q, size := n + 1, vec := v, ien := bitOf c.e.cdw11 1, base := queueBase c.e }] }) := by
  have hnumber : ¬ (q = 0 ∨ queueLimit s id.func < q ∨ (cqOf s id.func q).isSome = true) := by simp [hadmin, hfree, hlimit]
  have hslots : ¬ (n = 0 ∨ 0xFFF < n) := by omega
  change execCreateIoCompletionQueue id s = _
  rw [execCreateIoCompletionQueue, admin_of_runs hruns]
  dsimp only
  rw [← hq, ← hn, ← hv, if_neg (not_not_intro hpc), if_neg hnumber, if_neg hslots, if_neg (Nat.not_le_of_lt hvector)]

/-- A submission queue is created. -/
theorem exec_createIoSubmissionQueue_of_ok {s : State} {id : CmdId} {c : Cmd} {q n cq : Nat} (hruns : AdminRuns s id 0x01 c)
    (hpc : bitOf c.e.cdw11 0 = true) (hq : q = fld c.e.cdw10 15 0) (hn : n = fld c.e.cdw10 31 16) (hcq : cq = fld c.e.cdw11 31 16)
    (hadmin : q ≠ 0) (hlimit : q ≤ queueLimit s id.func) (hfree : sqOf s id.func q = none) (hsize : n ≠ 0) (hmqes : n ≤ 0xFFF)
    (hcqAdmin : cq ≠ 0) (hcqThere : (cqOf s id.func cq).isSome = true) :
    exec (.createIoSubmissionQueue id) s = .next (finishSt id okSt { s with sqs := s.sqs ++
      [{ func := id.func, id := q, cq := cq, size := n + 1, prio := fld c.e.cdw11 2 1, base := queueBase c.e }] }) := by
  have hnumber : ¬ (q = 0 ∨ queueLimit s id.func < q ∨ (sqOf s id.func q).isSome = true) := by simp [hadmin, hfree, hlimit]
  have hslots : ¬ (n = 0 ∨ 0xFFF < n) := by omega
  have hpair : ¬ (cq = 0 ∨ (cqOf s id.func cq).isNone = true) := by simp [hcqAdmin, Option.isSome_iff_ne_none.mp hcqThere]
  change execCreateIoSubmissionQueue id s = _
  rw [execCreateIoSubmissionQueue, admin_of_runs hruns]
  dsimp only
  rw [← hq, ← hn, ← hcq, if_neg (not_not_intro hpc), if_neg hnumber, if_neg hslots, if_neg hpair]

/-- The undecided commands of a submission queue end with Command Aborted due to SQ Deletion. -/
def sqStopped (f q : Nat) (s : State) : State :=
  (s.cmds.filter fun d => d.id.func = f && d.id.sq = q && d.phase ≠ .decided).foldl (fun s d => stopCmd ⟨0, 8, false⟩ d s) s

/-- A queue whose commands are all decided has none to stop. -/
theorem sqStopped_of_decided {f q : Nat} {s : State} (h : ∀ d ∈ s.cmds, d.id.func = f → d.id.sq = q → d.phase = .decided) :
    sqStopped f q s = s := by
  have hnone : (s.cmds.filter fun d => d.id.func = f && d.id.sq = q && d.phase ≠ .decided) = [] :=
    List.filter_eq_nil_iff.mpr fun d hd => by simpa using h d hd
  rw [sqStopped, hnone]
  rfl

/-- A submission queue is deleted. -/
theorem exec_deleteIoSubmissionQueue_of_queue {s : State} {id : CmdId} {c : Cmd} {q : Nat} (hruns : AdminRuns s id 0x00 c)
    (hq : q = fld c.e.cdw10 15 0) (hadmin : q ≠ 0) (hthere : (sqOf s id.func q).isSome = true) :
    exec (.deleteIoSubmissionQueue id) s = .next (finishSt id okSt { sqStopped id.func q s with
      sqs := (sqStopped id.func q s).sqs.filter fun x => !(x.func = id.func && x.id = q) }) := by
  have hnumber : ¬ (q = 0 ∨ (sqOf s id.func q).isNone = true) := by simp [hadmin, Option.isSome_iff_ne_none.mp hthere]
  change execDeleteIoSubmissionQueue id s = _
  rw [execDeleteIoSubmissionQueue, admin_of_runs hruns]
  dsimp only
  rw [← hq, if_neg hnumber]
  rfl

/-- The slots of the entries that wait for a completion queue go free with it. -/
def waitersFreed (f : Nat) (x : Cq) (s : State) : State :=
  x.waiting.foldl (fun s e => if e.aer then s else freeSlot ⟨f, e.e.sq, e.e.cid⟩ s) s

/-- A completion queue is deleted unless a submission queue uses it. -/
theorem exec_deleteIoCompletionQueue_of_queue {s : State} {id : CmdId} {c : Cmd} {q : Nat} {x : Cq} (hruns : AdminRuns s id 0x04 c)
    (hq : q = fld c.e.cdw10 15 0) (hadmin : q ≠ 0) (hthere : cqOf s id.func q = some x) :
    exec (.deleteIoCompletionQueue id) s = .next (if (s.sqs.any fun y => y.func = id.func && y.cq = q) = true
      then finishSt id (cmdSt 0x0C) s
      else finishSt id okSt { waitersFreed id.func x s with
        cqs := (waitersFreed id.func x s).cqs.filter fun y => !(y.func = id.func && y.id = q) }) := by
  change execDeleteIoCompletionQueue id s = _
  rw [execDeleteIoCompletionQueue, admin_of_runs hruns]
  dsimp only
  rw [← hq, if_neg hadmin, hthere]
  rfl

/-! ### Abort and event requests -/

/-- The Aborts of a function that no earlier one precedes. -/
theorem no_earlier_abort {s : State} {f : Nat} {c : Cmd}
    (h : ∀ x ∈ s.cmds, x.id.func = f → x.id.sq = 0 → x.e.opc = 0x08 → c.ord ≤ x.ord) :
    (s.cmds.filter fun d => d.id.func = f && d.id.sq = 0 && d.e.opc = 0x08 && d.ord < c.ord) = [] :=
  List.filter_eq_nil_iff.mpr fun d hd => by
    simp only [Bool.and_eq_true, decide_eq_true_eq, not_and]
    exact fun hid => Nat.not_lt.mpr (h d hd hid.1.1 hid.1.2 hid.2)

/-- An Abort of an I/O command that is there and is not decided. -/
theorem exec_abort_of_open {s : State} {id : CmdId} {c d : Cmd} (hruns : AdminRuns s id 0x08 c)
    (hfirst : ∀ x ∈ s.cmds, x.id.func = id.func → x.id.sq = 0 → x.e.opc = 0x08 → c.ord ≤ x.ord) (hsq : fld c.e.cdw10 15 0 ≠ 0)
    (htarget : cmdOf s ⟨id.func, fld c.e.cdw10 15 0, fld c.e.cdw10 31 16⟩ = some d) (hopen : d.phase ≠ .decided) :
    exec (.abort id) s = .next (abortsGo (stopCmd abortSt d (modCmd id (fun c => { c with phase := .held, aux := 1 }) s))) := by
  have hother : ¬ ((⟨id.func, fld c.e.cdw10 15 0, fld c.e.cdw10 31 16⟩ : CmdId) = id ∨ d.phase = .decided) := by
    rintro (hself | hdecided)
    · obtain ⟨-, -, -, hadmin, -, hid⟩ := adminCmd_spec hruns.1
      rw [hid, ← hself] at hadmin
      exact hsq hadmin
    · exact hopen hdecided
  change execAbort id s = _
  rw [execAbort, admin_of_runs hruns]
  dsimp only
  rw [no_earlier_abort hfirst, if_neg (by decide), if_neg fun h => hsq h.1, htarget]
  dsimp only
  rw [if_neg hother]

/-- An Abort of an I/O command that is not there. -/
theorem exec_abort_of_none {s : State} {id : CmdId} {c : Cmd} (hruns : AdminRuns s id 0x08 c)
    (hfirst : ∀ x ∈ s.cmds, x.id.func = id.func → x.id.sq = 0 → x.e.opc = 0x08 → c.ord ≤ x.ord) (hsq : fld c.e.cdw10 15 0 ≠ 0)
    (htarget : cmdOf s ⟨id.func, fld c.e.cdw10 15 0, fld c.e.cdw10 31 16⟩ = none) :
    exec (.abort id) s = .next (finish id okSt 1 0 s) := by
  change execAbort id s = _
  rw [execAbort, admin_of_runs hruns]
  dsimp only
  rw [no_earlier_abort hfirst, if_neg (by decide), if_neg fun h => hsq h.1, htarget]

/-- An event request with no event stored is held outstanding. -/
theorem exec_asynchronousEventRequest_of_room {s : State} {id : CmdId} {c : Cmd} (hcmd : adminCmd s id 0x0C = some c)
    (hroom : (fnOf s id.func).aers.length < 8) (hnone : (fnOf s id.func).events = []) :
    exec (.asynchronousEventRequest id) s =
      .next (modFn id.func (fun fn => { fn with aers := fn.aers ++ [id.cid] }) { s with cmds := s.cmds.filter fun c => c.id ≠ id }) := by
  have hstays {v : State} (h : (fnOf v id.func).events = []) : aerReport id.func v = v := by
    unfold aerReport
    dsimp only
    rw [h]
    split
    · rfl
    · cases (fnOf v id.func).aers <;> rfl
  change execAsynchronousEventRequest id s = _
  rw [execAsynchronousEventRequest, hcmd]
  dsimp only
  rw [if_neg (Nat.not_le_of_lt hroom), hstays]
  rw [fnOf_modFn_same]
  exact hnone

/-- A ninth event request is refused. -/
theorem exec_asynchronousEventRequest_of_full {s : State} {id : CmdId} {c : Cmd} (hcmd : adminCmd s id 0x0C = some c)
    (hfull : 8 ≤ (fnOf s id.func).aers.length) : exec (.asynchronousEventRequest id) s = .next (finishSt id (cmdSt 0x05) s) := by
  change execAsynchronousEventRequest id s = _
  rw [execAsynchronousEventRequest, hcmd]
  dsimp only
  rw [if_pos hfull]

/-- Settles O14: each command's checks pass in their order; the target of an Abort is an I/O command, so it is not the Abort itself. -/
theorem queuesAbortsAndEvents : Obligations.QueuesAbortsAndEvents := by
  refine ⟨⟨fun id s c hruns hpc hadmin hlimit hfree hsize hmqes hvector =>
      exec_createIoCompletionQueue_of_ok hruns hpc rfl rfl rfl hadmin hlimit hfree hsize hmqes hvector,
    fun id s c hruns hpc hadmin hlimit hfree hsize hmqes hcqAdmin hcqThere =>
      exec_createIoSubmissionQueue_of_ok hruns hpc rfl rfl rfl hadmin hlimit hfree hsize hmqes hcqAdmin hcqThere,
    fun id s c hruns hadmin hthere =>
      ⟨exec_deleteIoSubmissionQueue_of_queue hruns rfl hadmin hthere, fun hdecided => sqStopped_of_decided hdecided⟩,
    fun id s c x hruns hadmin hthere => ?_⟩,
    fun id s c d hruns hfirst hsq htarget hopen => exec_abort_of_open hruns hfirst hsq htarget hopen,
    fun id s c hruns hfirst hsq hnone => exec_abort_of_none hruns hfirst hsq hnone,
    fun id s c hcmd hroom hnone => ?_, fun id s c hcmd hfull => exec_asynchronousEventRequest_of_full hcmd hfull⟩
  · have hdelete := exec_deleteIoCompletionQueue_of_queue hruns rfl hadmin hthere
    refine ⟨fun hunused => hdelete.trans (next_congr (if_neg ?_)), fun ⟨y, hy, hfunc, hcq⟩ => hdelete.trans (next_congr (if_pos ?_))⟩
    · simp only [List.any_eq_true, Bool.and_eq_true, decide_eq_true_eq, not_exists, not_and]
      exact fun y hy h => hunused y hy h
    · exact List.any_eq_true.mpr ⟨y, hy, by simp [hfunc, hcq]⟩
  · refine ⟨_, exec_asynchronousEventRequest_of_room hcmd hroom hnone, ?_, rfl, rfl, rfl⟩
    rw [fnOf_modFn_same]
    rfl

end Sys2Proof.Machine

/-!
PROOFS. Zone Management Send (R175, R195), refuted: the zone that a reset clears is not always left initial. Clearing lets the Flushes and
FUA writes that waited for its blocks complete, and completing them settles other zones (R194), whose jobs are then stored. In a state that
lists one job number twice, the job that is stored need not be of the zone that is settled; and zone 2^24 of namespace 1 has the key of zone
0 of namespace 2, so it is stored into the zone just reset. No reset state leads there: the statement asks it of every state.
-/
namespace Sys2Proof.Machine

open Sys2Proof

/-- A Zone Management Send, Reset, of zone 0 of namespace 2. -/
def aliasReset : Cmd where
  id := ⟨1, 1, 0⟩
  e := { cid := 0, opc := 0x79, nsid := 2, cdw10 := 0, cdw11 := 0, cdw12 := 0, cdw13 := 4, cdw14 := 0, cdw15 := 0, mptr := 0, segs := [], data := [] }
  gen := 0
  cls := .high
  time := 0
  ord := 0

/-- A FUA write that waits for block 0 of namespace 3, which is durable. -/
def aliasFua : Cmd where
  id := ⟨1, 1, 1⟩
  e := { cid := 1, opc := 1, nsid := 0, cdw10 := 0, cdw11 := 0, cdw12 := 0, cdw13 := 0, cdw14 := 0, cdw15 := 0, mptr := 0, segs := [], data := [] }
  gen := 0
  cls := .high
  time := 0
  ord := 1
  phase := .durable
  cover := [⟨3, 0, 0⟩]

/-- A zoned namespace of one zone. -/
def aliasNs : Ns := { zoned := true, zcode := 0, size := 1, owner := some 0 }

/-- Job 0 is listed for zone 2^24 of namespace 1 and again for zone 0 of namespace 3, which is being finished. -/
def aliasState : State where
  md := { cur := .run }
  nss := [(2, some aliasNs), (3, some aliasNs)]
  cmds := [aliasReset, aliasFua]
  zones := [(zkey 2 0, { st := .full }),
    (zkey 3 0, { prof := some 0, finishing := true, frames := [(0, { admitted := 1, arrived := 1 })] })]
  jobs := [(0, some { ns := 1, zone := 2 ^ 24, idx := 0, stage := .ready }), (0, some { ns := 3, zone := 0, idx := 0, stage := .order })]
  nextJob := 1
  luns := [(0, { reason := 0 })]

/-- The reset may run. -/
theorem sendRuns_aliasState : SendRuns aliasState aliasReset.id 4 aliasReset aliasNs 0 := by
  refine ⟨⟨?_, rfl⟩, ?_, rfl, ?_, ?_, ?_, ?_, ?_, rfl⟩ <;> decide +kernel

/-- The zone holds the frame that was stored into it. -/
theorem stored_zoneClear_aliasState : (zoneOf (zoneClear 2 0 aliasState) 2 0).stored = 64 := by decide +kernel

/-- Refutes O22: a reset zone is not initial where clearing it stores a job of a zone with the same key. -/
theorem not_zoneSends : ¬ Obligations.ZoneSends := by
  rintro ⟨-, -, -, hreset, -⟩
  obtain ⟨hclear, -⟩ := hreset aliasReset.id aliasState aliasReset aliasNs 0 sendRuns_aliasState
  obtain ⟨-, hempty⟩ := hclear (.inr (by decide +kernel))
  have hstored := stored_zoneClear_aliasState
  rw [show zoneOf (zoneClear 2 0 aliasState) 2 0 = {} from hempty] at hstored
  exact absurd hstored (by decide)

end Sys2Proof.Machine

/-!
PROOFS. Flush, Zone Management Receive, Read, Write Zeroes, Dataset Management and the writes of a conventional namespace (R129, R132,
R166, R169, R200, R202, R309, R370).
-/
namespace Sys2Proof.Machine

open Sys2Proof

/-! ### The command that runs -/

theorem id_of_ioCmd {s : State} {id : CmdId} {opc : Nat} {c : Cmd} (h : ioCmd s id opc = some c) : cmdOf s id = some c ∧ c.id = id := by
  unfold ioCmd at h
  split at h
  next =>
    have hcmd := (Option.filter_eq_some_iff.mp h).1
    exact ⟨hcmd, id_of_cmdOf hcmd⟩
  next => exact nomatch h

theorem wrCmd_spec {s : State} {id : CmdId} {opc : Nat} {c : Cmd} (h : wrCmd s id opc = some c) :
    cmdOf s id = some c ∧ c.id = id ∧ c.e.opc = opc := by
  unfold wrCmd at h
  split at h
  next =>
    obtain ⟨hcmd, hc⟩ := Option.filter_eq_some_iff.mp h
    simp only [Bool.and_eq_true, decide_eq_true_eq] at hc
    obtain ⟨⟨⟨-, hopc⟩, -⟩, -⟩ := hc
    exact ⟨hcmd, id_of_cmdOf hcmd, hopc⟩
  next => exact nomatch h

/-- A command whose namespace passes names one that exists. -/
theorem nsOf_of_nsCheck {s : State} {c : Cmd} {n : Ns} (h : nsCheck s c = .ok n) : nsOf s c.e.nsid = some n := by
  unfold nsCheck at h
  split at h
  · exact nomatch h
  · split at h
    next m hm =>
      split at h
      · rw [hm, Except.ok.inj h]
      · exact nomatch h
    next => exact nomatch h

/-! ### Flush -/

theorem exec_flush_of_ok {s : State} {id : CmdId} {c : Cmd} (hcmd : ioCmd s id 0 = some c)
    (hns : c.e.nsid = 0xFFFFFFFF ∨ ∃ n, nsCheck s c = .ok n) :
    exec (.flush id) s = .next (pushCover c.cover (modCmd id (fun c => { c with phase := .durable }) s)) := by
  change execFlush id s = _
  unfold execFlush
  rw [hcmd]
  dsimp only
  split
  · rfl
  next hone =>
    obtain ⟨n, hn⟩ := hns.resolve_left hone
    rw [hn]

/-- A block that neither the cache nor the write path holds as the covered write brought it is programmed. -/
theorem blkProgrammed_of_gone {s : State} {b : Cov} (hcache : ∀ x ∈ s.cache, x.ns = b.ns → x.lba = b.lba → x.ver ≠ b.ver)
    (hjobs : ∀ e ∈ s.jobs, ∀ j, e.2 = some j → j.ns = b.ns → (b.lba, b.ver) ∉ j.takes) : blkProgrammed s b = true := by
  have hc : s.cache.any (fun x => x.ns = b.ns && x.lba = b.lba && x.ver = b.ver) = false :=
    List.any_eq_false.mpr fun x hx => by simpa using hcache x hx
  have hj : (s.jobs.any fun e => e.2.any fun j => j.ns = b.ns && (b.lba, b.ver) ∈ j.takes) = false :=
    List.any_eq_false.mpr fun e he => by
      cases hje : e.2 with
      | none => simp
      | some j => simpa using hjobs e he j hje
  rw [blkProgrammed, hc, hj]
  rfl

theorem exec_flushComplete_of_done {s : State} {id : CmdId} {c : Cmd} (hcmd : cmdOf s id = some c) (hphase : c.phase = .durable)
    (hopc : c.e.opc = 0) (hsq : c.id.sq ≠ 0) (hdone : c.cover.all (if c.prog then blkProgrammed s else blkDurable s) = true) :
    exec (.flushComplete id) s = .next (finishSt id okSt (markCovered c.cover s)) := by
  have hfound : (cmdOf s id).filter (fun c => c.phase = .durable && c.e.opc = 0 && c.id.sq ≠ 0) = some c := by
    rw [hcmd, Option.filter_some, if_pos (by simp [hphase, hopc, hsq])]
  change execFlushComplete id s = _
  unfold execFlushComplete
  rw [hfound]
  dsimp only
  rw [if_pos hdone]

/-- Settles O20: a covered block is durable once it is programmed, and at once in a power-safe cache. -/
theorem flushCommands : Obligations.FlushCommands := by
  refine ⟨fun id s c hcmd hns => ⟨exec_flush_of_ok hcmd hns, ?_⟩, fun id s c hcmd hphase hopc hsq hgone => ?_⟩
  · exact congrArg (Option.map _) (cmdOf_modCmd_same (g := fun c => { c with phase := .durable }) (fun _ => rfl) (id_of_ioCmd hcmd).1)
  · refine exec_flushComplete_of_done hcmd hphase hopc hsq (List.all_eq_true.mpr fun b hb => ?_)
    rcases hgone with ⟨hsafe, hprog⟩ | hgone
    · rw [hprog, if_neg Bool.false_ne_true, blkDurable, hsafe, Bool.true_or]
    · obtain ⟨hcache, hjobs⟩ := hgone b hb
      have hprogrammed := blkProgrammed_of_gone hcache hjobs
      split
      · exact hprogrammed
      · rw [blkDurable, hprogrammed, Bool.or_true]

/-! ### Zone Management Receive -/

theorem zoneReceive_of_ok {s : State} {id : CmdId} {c : Cmd} {n : Ns} (act : Nat) (hruns : IoRuns s id 0x7A c n) (hzoned : n.zoned = true)
    (hopt : fld c.e.cdw13 15 8 ≤ 7) (hlen : 4 * (c.e.cdw12.toNat + 1) ≤ 2097152) (hinside : cmdSlba c.e < nsCap s n)
    (hact : fld c.e.cdw13 7 0 = act) : zoneReceive act id s = finishSt id okSt (sendData c 0 (reportData s c n) s) := by
  obtain ⟨hcmd, hns⟩ := hruns
  have hfound : (ioCmd s id 0x7A).filter (fun c => fld c.e.cdw13 7 0 = act) = some c := by
    rw [hcmd, Option.filter_some, if_pos (decide_eq_true hact)]
  have hfields : ¬ (7 < fld c.e.cdw13 15 8 ∨ 2097152 < 4 * (c.e.cdw12.toNat + 1)) := by omega
  unfold zoneReceive
  rw [hfound]
  dsimp only
  rw [hns]
  dsimp only
  rw [if_neg (not_not_intro hzoned), if_neg hfields, if_neg (Nat.not_le_of_lt hinside)]

/-- The bytes of a zone descriptor before its extension, grouped from the right. -/
theorem zoneDesc_eq (s : State) (ns : Nat) (n : Ns) (z : Nat) : zoneDesc s ns n z =
    leBytes 1 2 ++ (leBytes 1 (16 * zstCode (zoneOf s ns z).st) ++ (leBytes 1 (0x80 + b2n (zoneOf s ns z).autofin) ++ (zeros 5 ++
      (leBytes 8 (zoneCap s n (zoneOf s ns z)) ++ (leBytes 8 (zoneStart n z) ++ (leBytes 8 (zoneStart n z + (zoneOf s ns z).wp) ++
        (zeros 32 ++ zoneExt s n (zoneOf s ns z)))))))) := by
  simp only [zoneDesc, List.append_assoc]

theorem zoneExt_length (s : State) (n : Ns) (zn : Zone) : (zoneExt s n zn).length = 64 := by
  simp only [zoneExt, List.length_append, leBytes_length, zeros_length]

theorem zstCode_lt (st : ZState) : 16 * zstCode st < 256 := by cases st <;> decide

/-- The fields of a zone descriptor. -/
theorem zoneDesc_fields (s : State) (ns : Nat) (n : Ns) (z : Nat) :
    (zoneDesc s ns n z).length = 128 ∧ leAt (zoneDesc s ns n z) 1 1 = 16 * zstCode (zoneOf s ns z).st ∧
    leAt (zoneDesc s ns n z) 8 8 = zoneCap s n (zoneOf s ns z) % 2 ^ 64 ∧ leAt (zoneDesc s ns n z) 16 8 = zoneStart n z % 2 ^ 64 ∧
    leAt (zoneDesc s ns n z) 24 8 = (zoneStart n z + (zoneOf s ns z).wp) % 2 ^ 64 := by
  have hcode := zstCode_lt (zoneOf s ns z).st
  rw [zoneDesc_eq]
  refine ⟨by simp only [List.length_append, leBytes_length, zeros_length, zoneExt_length], ?_, ?_, ?_, ?_⟩
  · rw [leAt_append_right _ _ (Nat.le_of_eq (leBytes_length ..)), leBytes_length, leAt_append_left _ (leBytes_length _ _), leNat_leBytes]
    omega
  all_goals
    simp only [leAt_append_right, leAt_append_left, leBytes_length, zeros_length, Nat.reduceLeDiff, Nat.reduceSub, leNat_leBytes] <;> rfl

/-- Settles O23: the checks pass; a descriptor's fields are read back out of its bytes. -/
theorem zoneReports : Obligations.ZoneReports :=
  ⟨fun _ _ _ _ hruns hzoned hopt hlen hinside =>
    ⟨fun hact => next_congr (zoneReceive_of_ok 0 hruns hzoned hopt hlen hinside hact),
     fun hact => next_congr (zoneReceive_of_ok 1 hruns hzoned hopt hlen hinside hact)⟩,
   zoneDesc_fields⟩

end Sys2Proof.Machine

/-!
PROOFS. Read, Write Zeroes, Dataset Management and the writes of a conventional namespace (R129, R132, R202, R309): what settling zones leaves
of conventional blocks and of the cache, and what a deallocation leaves.
-/
namespace Sys2Proof.Machine

open Sys2Proof

/-! ### What the settling of zones leaves -/

/-- The blocks that the cache holds. -/
def cacheKeys (s : State) : List (Nat × Nat) := s.cache.map fun b => (b.ns, b.lba)

/-- Conventional blocks, the blocks that the cache holds, and namespaces are those of `o`. -/
def BlocksKept (o s : State) : Prop := s.conv = o.conv ∧ cacheKeys s = cacheKeys o ∧ s.nss = o.nss

theorem BlocksKept.refl (s : State) : BlocksKept s s := ⟨rfl, rfl, rfl⟩

theorem blocksKept_foldl {α : Type} {o : State} {g : State → α → State} (hg : ∀ s x, BlocksKept o s → BlocksKept o (g s x)) (l : List α)
    {s : State} (h : BlocksKept o s) : BlocksKept o (l.foldl g s) := by
  induction l generalizing s with
  | nil => exact h
  | cons a l ih => exact ih (hg s a h)

section
variable {o s : State}

theorem blocksKept_zoneSettle (ns z : Nat) (h : BlocksKept o s) : BlocksKept o (zoneSettle ns z s) := by
  rw [zoneSettle_frame]
  exact h

/-- A covered block stays in the cache. -/
theorem blocksKept_markCovered (bs : List Cov) (h : BlocksKept o s) : BlocksKept o (markCovered bs s) := by
  obtain ⟨hconv, hkeys, hnss⟩ := h
  refine ⟨hconv, Eq.trans ?_ hkeys, hnss⟩
  simp only [cacheKeys, markCovered, List.map_map]
  refine List.map_congr_left fun b _ => ?_
  simp only [Function.comp_apply]
  split <;> rfl

theorem blocksKept_finish (id : CmdId) (st : Status) (a b : W32) (h : BlocksKept o s) : BlocksKept o (finish id st a b s) := by
  rw [finish_frame]
  exact h

/-- The class of write-back work is admission's alone. -/
theorem wbUpdate_shape (s : State) : ∃ q, wbUpdate s = { s with qos := q } := ⟨_, rfl⟩

theorem blocksKept_wbUpdate (h : BlocksKept o s) : BlocksKept o (wbUpdate s) := by
  obtain ⟨q, hq⟩ := wbUpdate_shape s
  rw [hq]
  exact h

/-- What the completion of FUA writes and Flushes leaves. -/
theorem blocksKept_fuaCheck (h : BlocksKept o s) : BlocksKept o (fuaCheck s) := by
  unfold fuaCheck
  exact blocksKept_foldl (fun s z hs => blocksKept_zoneSettle _ _ hs) _
    (blocksKept_foldl (fun s c hs => blocksKept_finish _ _ _ _ (blocksKept_markCovered _ hs)) _ h)

end

/-- With no command waiting for blocks to be durable, nothing completes. -/
theorem fuaCheck_of_none {s : State} (h : ∀ c ∈ s.cmds, c.phase ≠ .durable) : fuaCheck s = s := by
  have hnone : (s.cmds.filter fun c => c.phase = .durable && c.id.sq ≠ 0 && isWrite c.e && c.cover.all (blkDurable s)) = [] :=
    List.filter_eq_nil_iff.mpr fun c hc => by simp [h c hc]
  unfold fuaCheck
  rw [hnone]
  rfl

/-! ### Deallocation -/

/-- A block is not in the cache when its key is not. -/
theorem cachedBlk_eq_none_iff (s : State) (ns lba : Nat) : cachedBlk s ns lba = none ↔ (ns, lba) ∉ cacheKeys s := by
  simp only [cachedBlk, List.find?_eq_none, cacheKeys, List.mem_map, Prod.mk.injEq, not_exists, not_and, decide_eq_true_eq]

/-- A table without the keys that `p` drops. -/
theorem tget_filter_of_keeps {α : Type} (d : α) {p : Nat → Bool} {k : Nat} (h : p k = true) (t : Table α) :
    tget d (t.filter fun e => p e.1) k = tget d t k := by
  induction t with
  | nil => rfl
  | cons e t ih =>
    by_cases hkey : e.1 = k
    · rw [List.filter_cons_of_pos (p := fun e : Nat × α => p e.1) (by rw [hkey]; exact h), tget, tget, if_pos hkey, if_pos hkey]
    · by_cases hkeep : p e.1 = true
      · rw [List.filter_cons_of_pos (p := fun e : Nat × α => p e.1) hkeep, tget, tget, if_neg hkey, if_neg hkey, ih]
      · rw [List.filter_cons_of_neg (p := fun e : Nat × α => p e.1) hkeep, ih, tget, if_neg hkey]

theorem tget_filter_of_drops {α : Type} (d : α) {p : Nat → Bool} {k : Nat} (h : p k = false) (t : Table α) :
    tget d (t.filter fun e => p e.1) k = d := by
  induction t with
  | nil => rfl
  | cons e t ih =>
    by_cases hkeep : p e.1 = true
    · have hkey : e.1 ≠ k := fun heq => by rw [heq, h] at hkeep; exact Bool.false_ne_true hkeep
      rw [List.filter_cons_of_pos (p := fun e : Nat × α => p e.1) hkeep, tget, if_neg hkey, ih]
    · rw [List.filter_cons_of_neg (p := fun e : Nat × α => p e.1) hkeep, ih]

/-- Whether block `k` of the keys of conventional blocks stays when blocks [lba, lba + nb) of `ns` are deallocated. -/
def convStays (ns lba nb k : Nat) : Bool := !(k / 2 ^ 32 = ns && (lba ≤ k % 2 ^ 32 && k % 2 ^ 32 < lba + nb))

/-- The state with the blocks dropped, before what waited for them completes. -/
def blocksDropped (ns lba nb : Nat) (s : State) : State :=
  let hit (l : Nat) : Bool := lba ≤ l && l < lba + nb
  let u := cacheDrop ns lba nb s
  dropDead { u with
    jobs := u.jobs.filter fun e => !e.2.any fun j => j.conv && j.ns = ns && hit j.idx
    conv := u.conv.filter fun e => !(e.1 / 2 ^ 32 = ns && hit (e.1 % 2 ^ 32))
    hold := { u.hold with pool := u.hold.pool.filter fun r => !(r.ns = ns && hit r.lba) } }

theorem deallocate_eq (ns lba nb : Nat) (s : State) : deallocate ns lba nb s = wbUpdate (fuaCheck (blocksDropped ns lba nb s)) := by
  unfold deallocate blocksDropped
  dsimp only

/-- The page map with the blocks dropped. -/
theorem blocksDropped_conv (ns lba nb : Nat) (s : State) :
    (blocksDropped ns lba nb s).conv = s.conv.filter fun e => convStays ns lba nb e.1 := rfl

/-- The cache with the blocks dropped. -/
theorem blocksDropped_cache (ns lba nb : Nat) (s : State) :
    (blocksDropped ns lba nb s).cache = s.cache.filter fun b => ¬ (b.ns = ns ∧ lba ≤ b.lba ∧ b.lba < lba + nb) := rfl

theorem ckey_div {ns l : Nat} (h : l < 2 ^ 32) : ckey ns l / 2 ^ 32 = ns ∧ ckey ns l % 2 ^ 32 = l := by
  unfold ckey
  omega

/-- What a deallocation leaves of the blocks. -/
theorem deallocate_blocks (ns lba nb : Nat) (s : State) : BlocksKept (blocksDropped ns lba nb s) (deallocate ns lba nb s) := by
  rw [deallocate_eq]
  exact blocksKept_wbUpdate (blocksKept_fuaCheck (.refl _))

/-- A deallocated block is gone from the page map and from the cache. -/
theorem deallocate_hit {ns lba nb l : Nat} (s : State) (hlo : lba ≤ l) (hhi : l < lba + nb) (hl : l < 2 ^ 32) :
    convOf (deallocate ns lba nb s) ns l = {} ∧ cachedBlk (deallocate ns lba nb s) ns l = none := by
  obtain ⟨hconv, hkeys, -⟩ := deallocate_blocks ns lba nb s
  obtain ⟨hdiv, hmod⟩ := ckey_div (ns := ns) hl
  constructor
  · have hdrops : convStays ns lba nb (ckey ns l) = false := by
      rw [convStays, hdiv, hmod, decide_eq_true hlo, decide_eq_true hhi]
      simp
    rw [convOf, hconv, blocksDropped_conv]
    exact tget_filter_of_drops _ hdrops s.conv
  · rw [cachedBlk_eq_none_iff, hkeys, ← cachedBlk_eq_none_iff]
    refine List.find?_eq_none.mpr fun b hb => ?_
    rw [blocksDropped_cache] at hb
    have hkept := (List.mem_filter.mp hb).2
    simp only [decide_eq_true_eq] at hkept ⊢
    rintro ⟨hns, hlba⟩
    exact hkept ⟨hns, by omega, by omega⟩

/-- A block of another namespace stays. -/
theorem blocksDropped_other {ns m k : Nat} (lba nb : Nat) (s : State) (h : m ≠ ns) (hk : k < 2 ^ 32) :
    convOf (blocksDropped ns lba nb s) m k = convOf s m k ∧ cachedBlk (blocksDropped ns lba nb s) m k = cachedBlk s m k := by
  obtain ⟨hdiv, -⟩ := ckey_div (ns := m) hk
  have hstays : convStays ns lba nb (ckey m k) = true := by
    rw [convStays, hdiv, decide_eq_false h]
    rfl
  refine ⟨?_, ?_⟩
  · rw [convOf, blocksDropped_conv]
    exact tget_filter_of_keeps _ hstays s.conv
  rw [cachedBlk, blocksDropped_cache, List.find?_filter, cachedBlk]
  congr 1
  funext b
  by_cases hb : b.ns = m
  · simp [hb, h]
  · simp [hb]

/-- Settles O21: the checks of each command pass in their order; completing what a deallocation made durable changes no block. -/
theorem readAndDeallocate : Obligations.ReadAndDeallocate := by
  refine ⟨fun id s c n hruns hlen => ?_, fun id s c n p hcmd hns hconv hlen hrange hhint hlock hprof hslot => ?_,
    fun id s c n hruns hconv => ?_, fun id s c n hruns hconv => ?_, fun ns lba nb s l hlo hhi hl => ?_⟩
  case refine_1 =>
    obtain ⟨hcmd, hns⟩ := hruns
    have hmdts : tooLong c.e = false := decide_eq_false (Nat.not_lt_of_le hlen)
    have hread : exec (.read id) s = execRead id s := rfl
    rw [hread]
    unfold execRead rwCheck
    rw [hcmd]
    dsimp only
    rw [hns, hmdts]
    dsimp only
    rw [if_neg Bool.false_ne_true]
    refine ⟨fun hpast => ?_, fun hrange hst honline hbuilt => ?_, fun hrange hoff hlock => ?_⟩
    · rw [if_pos hpast]
    · rw [if_neg (Nat.not_lt_of_le hrange)]
      dsimp only
      rw [honline, if_neg fun h => Bool.false_ne_true h.1, if_neg fun h => hst h.1, hbuilt, if_neg Bool.false_ne_true]
    · rw [if_neg (Nat.not_lt_of_le hrange)]
      dsimp only
      rw [hoff, hlock, if_pos ⟨rfl, Bool.false_ne_true⟩]
  case refine_2 =>
    obtain ⟨hc, hid, -⟩ := wrCmd_spec hcmd
    have hmdts : tooLong c.e = false := decide_eq_false (Nat.not_lt_of_le hlen)
    have hwrite : exec (.write id) s = .next (modCmd id (fun d => { d with phase := .fetching, lba := cmdSlba d.e }) s) := by
      change execWrite id s = _
      unfold execWrite rwCheck
      rw [hcmd]
      dsimp only
      rw [hns, hmdts]
      dsimp only
      rw [if_neg Bool.false_ne_true, if_neg (Nat.not_lt_of_le hrange)]
      dsimp only
      rw [hconv, if_neg Bool.false_ne_true, convWrite, hhint]
      dsimp only
      rw [if_neg (not_not_intro rfl), hlock, if_neg Bool.false_ne_true, hprof]
      dsimp only
      rw [hslot]
      dsimp only [writeRes]
      rw [hid]
    exact ⟨_, hwrite, congrArg (Option.map _) (cmdOf_modCmd_same (g := fun d => { d with phase := .fetching, lba := cmdSlba d.e })
      (fun _ => rfl) hc), rfl⟩
  case refine_3 =>
    obtain ⟨hcmd, hns⟩ := hruns
    have hzeroes : exec (.writeZeroes id) s = execWriteZeroes id s := rfl
    rw [hzeroes]
    unfold execWriteZeroes
    rw [hcmd]
    dsimp only
    rw [hns]
    dsimp only
    rw [hconv, if_neg Bool.false_ne_true]
    exact ⟨fun hpast => by rw [if_pos hpast], fun hrange hlock => by
      rw [if_neg (Nat.not_lt_of_le hrange), hlock, if_neg Bool.false_ne_true]⟩
  case refine_4 =>
    obtain ⟨hcmd, hns⟩ := hruns
    have hdsm : exec (.datasetManagement id) s = execDatasetManagement id s := rfl
    rw [hdsm]
    unfold execDatasetManagement
    rw [hcmd]
    dsimp only
    rw [hns]
    dsimp only
    rw [hconv, if_neg Bool.false_ne_true]
    have hinside (h : ∀ r ∈ dsmRanges c.e, r.1 + r.2 ≤ nsCap s n) : ((dsmRanges c.e).any fun r => nsCap s n < r.1 + r.2) = false :=
      List.any_eq_false.mpr fun r hr => by simpa using h r hr
    have hopen (h : ∀ r ∈ dsmRanges c.e, rangeLocked s c.ord c.e.nsid r.1 r.2 = false) :
        ((dsmRanges c.e).any fun r => rangeLocked s c.ord c.e.nsid r.1 r.2) = false :=
      List.any_eq_false.mpr fun r hr => by simp [h r hr]
    refine ⟨fun hkeep hunlocked => ?_, fun hrange hlocked => ?_, fun hdealloc hall => ?_⟩
    · rw [hkeep, Bool.false_and, if_neg Bool.false_ne_true, hopen hunlocked, if_neg Bool.false_ne_true, if_pos Bool.false_ne_true]
    · obtain ⟨r, hr, hlock⟩ := hlocked
      rw [hinside hrange, Bool.and_false, if_neg Bool.false_ne_true, if_pos (List.any_eq_true.mpr ⟨r, hr, hlock⟩)]
    · rw [hinside fun r hr => (hall r hr).1, Bool.and_false, if_neg Bool.false_ne_true, hopen fun r hr => (hall r hr).2,
        if_neg Bool.false_ne_true, if_neg (not_not_intro hdealloc)]
  case refine_5 =>
    obtain ⟨hconv, hcached⟩ := deallocate_hit s hlo hhi hl
    refine ⟨hconv, hcached, (deallocate_blocks ns lba nb s).2.2, fun hnone => ?_⟩
    have hquiet : fuaCheck (blocksDropped ns lba nb s) = blocksDropped ns lba nb s := fuaCheck_of_none hnone
    obtain ⟨q, hq⟩ := wbUpdate_shape (blocksDropped ns lba nb s)
    rw [deallocate_eq, hquiet, hq]
    exact ⟨rfl, rfl, rfl, fun m k hm hk => blocksDropped_other lba nb s hm hk⟩

end Sys2Proof.Machine

/-!
PROOFS. Offload jobs (R208, R209, R225 to R229): Codec Encode and Codec Decode as they start, their frames, and how they end.
-/
namespace Sys2Proof.Machine

open Sys2Proof

/-! ### The start of a job -/

theorem offNs_of_ok {s : State} {c : Cmd} {n : Ns} (h : nsCheck s c = .ok n) : offNs s c = .ok n := by
  unfold offNs
  split
  next hbad =>
    rw [nsCheck, if_pos hbad] at h
    exact nomatch h
  next => exact h

/-- A Codec Encode whose fields pass. -/
theorem exec_codecEncode_of_ok {s : State} {id : CmdId} {c : Cmd} {n : Ns} {p : Nat} (hruns : IoRuns s id 0x83 c n)
    (hhint : hintEnabled s n (fld c.e.cdw13 5 0) = some p) (hfields : offloadBad c.e = false) (hlen : c.e.cdw10 ≠ 0) (h12 : c.e.cdw12 = 0)
    (hptr : c.e.mptr % 4 = 0) (hstart : c.e.cdw14.toNat % frameBytes (profOf s p) = 0) (h13 : fld c.e.cdw13 15 6 = 0)
    (h13' : fld c.e.cdw13 31 18 = 0) :
    exec (.codecEncode id) s = .next (offStart {
      id := id, gen := c.gen, dec := false, pno := p, desc := (profOf s p).desc
      frames := encFrames (frameBytes (profOf s p)) c.e.cdw10.toNat (bitOf c.e.cdw13 17), stop := okSt
      left := if leAt (profOf s p).desc 1 1 = 0 then [] else
        List.range (encFrames (frameBytes (profOf s p)) c.e.cdw10.toNat (bitOf c.e.cdw13 17)).length } c s) := by
  obtain ⟨hcmd, hns⟩ := hruns
  have hpass : ¬ (offloadBad c.e ∨ c.e.cdw10 = 0 ∨ c.e.cdw12 ≠ 0 ∨ c.e.mptr % 4 ≠ 0 ∨ c.e.cdw14.toNat % frameBytes (profOf s p) ≠ 0 ∨
      fld c.e.cdw13 15 6 ≠ 0 ∨ fld c.e.cdw13 31 18 ≠ 0) := by
    rintro (h | h | h | h | h | h | h)
    · exact Bool.false_ne_true (hfields.symm.trans h)
    · exact hlen h
    · exact h h12
    · exact h hptr
    · exact h hstart
    · exact h h13
    · exact h h13'
  change execCodecEncode id s = _
  unfold execCodecEncode
  rw [hcmd]
  dsimp only
  rw [offNs_of_ok hns]
  dsimp only
  rw [hhint]
  dsimp only
  rw [if_neg hpass]

/-- A Codec Decode whose fields pass. -/
theorem exec_codecDecode_of_ok {s : State} {id : CmdId} {c : Cmd} {n : Ns} (hruns : IoRuns s id 0x87 c n) (hfields : offloadBad c.e = false)
    (hlen : 16 ≤ c.e.cdw10.toNat) (halign : c.e.cdw10.toNat % 16 = 0) (hptr : c.e.mptr % 16 = 0) (hstart : c.e.cdw14.toNat % 16 = 0)
    (h13 : fld c.e.cdw13 15 0 = 0) (h13' : fld c.e.cdw13 31 17 = 0) {inp : List Byte} (hinp : inp = bytesAt c.e.data 0 c.e.cdw10.toNat)
    {r : List (Nat × Nat) × Status} (hr : r = decFrames c.e.cdw12.toNat c.e.cdw15.toNat inp c.e.cdw11.toNat 32769 0 0) :
    exec (.codecDecode id) s = .next (offStart {
      id := id, gen := c.gen, dec := true, frames := r.1, stop := r.2
      left := (List.range r.1.length).filter (fun i => leAt inp ((r.1.getD i (0, 0)).1 + 1) 1 % 2 = 0) } c s) := by
  obtain ⟨hcmd, hns⟩ := hruns
  have hpass : ¬ (offloadBad c.e ∨ c.e.cdw10.toNat < 16 ∨ c.e.cdw10.toNat % 16 ≠ 0 ∨ c.e.mptr % 16 ≠ 0 ∨ c.e.cdw14.toNat % 16 ≠ 0 ∨
      fld c.e.cdw13 15 0 ≠ 0 ∨ fld c.e.cdw13 31 17 ≠ 0) := by
    simp [hfields, hlen, halign, hptr, hstart, h13, h13']
  change execCodecDecode id s = _
  unfold execCodecDecode
  rw [hcmd]
  dsimp only
  rw [offNs_of_ok hns]
  dsimp only
  rw [if_neg hpass, ← hinp, ← hr]

/-- Frames handed out are operations, one for each. -/
theorem foldl_offHand (k : Nat) (o : Off) (c : Cmd) (l : List Nat) (s : State) :
    ∃ ops, ops.length = s.ops.length + l.length ∧ l.foldl (fun s i => offHand k o c i s) s = { s with ops := ops } := by
  induction l generalizing s with
  | nil => exact ⟨s.ops, rfl, rfl⟩
  | cons i l ih =>
    obtain ⟨ops, hlen, hstate⟩ := ih (offHand k o c i s)
    refine ⟨ops, ?_, hstate.trans rfl⟩
    rw [hlen, offHand, queueOp, List.length_append, List.length_cons, List.length_cons, List.length_nil]
    omega

/-- A job with frames for a coder waits for them. -/
theorem offStart_of_left {o : Off} {c : Cmd} {s : State} (hleft : o.left ≠ []) : ∃ ops, ops.length = s.ops.length + o.left.length ∧
    offStart o c s = { modCmd c.id (fun c => { c with phase := .reading }) s with
      nextJob := s.nextJob + 1, offs := tset none s.offs s.nextJob (some o), ops := ops } := by
  obtain ⟨ops, hlen, hstate⟩ := foldl_offHand s.nextJob o c o.left (modCmd c.id (fun c => { c with phase := .reading })
    { s with nextJob := s.nextJob + 1, offs := tset none s.offs s.nextJob (some o) })
  refine ⟨ops, hlen, ?_⟩
  unfold offStart
  dsimp only
  rw [hstate, offCheck]
  dsimp only
  rw [show (modCmd c.id (fun c => { c with phase := .reading })
    { s with nextJob := s.nextJob + 1, offs := tset none s.offs s.nextJob (some o) }).offs = tset none s.offs s.nextJob (some o) from rfl,
    tget_tset_same]
  dsimp only
  rw [if_pos hleft]
  rfl

/-! ### The frames of an encode job -/

theorem foldl_add_eq_sum (l : List Nat) (a : Nat) : l.foldl (· + ·) a = a + l.sum := by
  induction l generalizing a with
  | nil => rfl
  | cons x l ih => rw [List.foldl_cons, ih, List.sum_cons, Nat.add_assoc]

theorem encFrames_sum {fb : Nat} (len : Nat) (more : Bool) :
    ((encFrames fb len more).map Prod.snd).foldl (· + ·) 0 = if more then len / fb * fb else len := by
  have hwhole : (((List.range (len / fb)).map fun i => (i * fb, fb)).map Prod.snd).sum = len / fb * fb := by
    rw [List.map_map]
    change ((List.range (len / fb)).map fun _ => fb).sum = len / fb * fb
    rw [List.map_const', List.length_range, List.sum_replicate_nat]
  have hdiv := Nat.div_add_mod len fb
  rw [Nat.mul_comm] at hdiv
  rw [foldl_add_eq_sum, encFrames, List.map_append, List.sum_append, hwhole, Nat.zero_add]
  cases more with
  | true => simp
  | false =>
    by_cases hrest : len % fb = 0
    · simp only [hrest, or_true, if_true, Bool.false_eq_true, if_false, List.map_nil, List.sum_nil]
      omega
    · simp only [hrest, Bool.false_eq_true, or_false, if_false, List.map_cons, List.map_nil, List.sum_cons, List.sum_nil]
      omega

theorem encFrames_bounds {fb len : Nat} {more : Bool} (hfb : 0 < fb) :
    ∀ f ∈ encFrames fb len more, 0 < f.2 ∧ f.2 ≤ fb ∧ f.1 + f.2 ≤ len ∧ f.1 % fb = 0 := by
  have hdiv := Nat.div_add_mod len fb
  rw [Nat.mul_comm] at hdiv
  intro f hf
  rcases List.mem_append.mp hf with hwhole | hrest
  · obtain ⟨i, hi, rfl⟩ := List.mem_map.mp hwhole
    have hle := Nat.mul_le_mul_right fb (Nat.succ_le_of_lt (List.mem_range.mp hi))
    rw [Nat.succ_mul] at hle
    exact ⟨hfb, Nat.le_refl _, by dsimp only; omega, Nat.mul_mod_left i fb⟩
  · split at hrest
    next => exact absurd hrest List.not_mem_nil
    next hsome =>
      obtain rfl := List.mem_singleton.mp hrest
      have hpos : len % fb ≠ 0 := fun h => hsome (.inr h)
      have hlt := Nat.mod_lt len hfb
      exact ⟨Nat.pos_of_ne_zero hpos, Nat.le_of_lt hlt, by dsimp only; omega, Nat.mul_mod_left _ fb⟩

/-! ### The end of a job -/

/-- A job of one frame to encode. -/
theorem offRun_single {o : Off} {k : Nat} (c : Cmd) (space : Nat) (henc : o.dec = false) (hframes : o.frames = [(0, k)]) :
    offRun o c space [0] {} = if space < (offFrame o c 0).length then { st := jobPaused } else { st := o.stop, used := k, out := offFrame o c 0 } := by
  rw [offRun, henc, hframes]
  simp [offRun]

/-- The last frame of a job ends it. -/
theorem offCheck_of_done {k : Nat} {o : Off} {c : Cmd} {s : State} (hjob : tget none s.offs k = some o) (hleft : o.left = [])
    (hcmd : cmdOf s o.id = some c) (hgen : c.gen = o.gen) (hphase : c.phase = .reading) :
    offCheck k s = endJob c (offRun o c c.e.cdw11.toNat (List.range o.frames.length) {}) { s with offs := tset none s.offs k none } := by
  have hfound : (cmdOf { s with offs := tset none s.offs k none } o.id).filter (fun c => c.gen = o.gen && c.phase = .reading) = some c := by
    rw [show cmdOf { s with offs := tset none s.offs k none } o.id = cmdOf s o.id from rfl, hcmd, Option.filter_some,
      if_pos (by simp [hgen, hphase])]
  unfold offCheck
  rw [hjob]
  dsimp only
  rw [if_neg (not_not_intro hleft), hfound]

/-- Settles O24: a job's fields pass and its frames are handed out; its outcome is read off the run over its frames. -/
theorem offloadJobs : Obligations.OffloadJobs := by
  refine ⟨fun id s c n p hruns hhint hfields hlen h12 hptr hstart h13 h13' => ?_,
    fun id s c n hruns hfields hlen halign hptr hstart h13 h13' =>
      exec_codecDecode_of_ok hruns hfields hlen halign hptr hstart h13 h13' rfl rfl,
    fun fb len more hfb => ⟨encFrames_sum len more, encFrames_bounds hfb⟩, fun o c space k henc hframes => ?_,
    fun k o c s hjob hleft hcmd hgen hphase => offCheck_of_done hjob hleft hcmd hgen hphase, fun c r s hreports => if_pos hreports⟩
  · refine ⟨exec_codecEncode_of_ok hruns hhint hfields hlen h12 hptr hstart h13 h13', fun hcoded hsome => ?_⟩
    intro t
    obtain ⟨hcmd, hid⟩ := id_of_ioCmd hruns.1
    have hrange : ∀ l : List (Nat × Nat), l ≠ [] → List.range l.length ≠ [] := fun l hl => by simpa using hl
    have hleft : (if leAt (profOf s p).desc 1 1 = 0 then [] else
        List.range (encFrames (frameBytes (profOf s p)) c.e.cdw10.toNat (bitOf c.e.cdw13 17)).length) =
        List.range (encFrames (frameBytes (profOf s p)) c.e.cdw10.toNat (bitOf c.e.cdw13 17)).length := if_neg hcoded
    obtain ⟨ops, hlen, hstate⟩ := offStart_of_left (c := c) (s := s) (o := {
      id := id, gen := c.gen, dec := false, pno := p, desc := (profOf s p).desc
      frames := encFrames (frameBytes (profOf s p)) c.e.cdw10.toNat (bitOf c.e.cdw13 17), stop := okSt
      left := if leAt (profOf s p).desc 1 1 = 0 then [] else
        List.range (encFrames (frameBytes (profOf s p)) c.e.cdw10.toNat (bitOf c.e.cdw13 17)).length }) (by
        dsimp only
        rw [hleft]
        exact hrange _ hsome)
    dsimp only at hlen
    rw [hleft, List.length_range] at hlen
    rw [show t = _ from hstate, hid]
    exact ⟨congrArg (Option.map _) (cmdOf_modCmd_same (g := fun c => { c with phase := .reading }) (fun _ => rfl) hcmd),
      tget_tset_same (d := (none : Option Off)) s.offs s.nextJob (some _), hlen, rfl⟩
  · rw [offRun_single c space henc hframes]
    exact ⟨fun hfits => by rw [if_neg (Nat.not_lt_of_le hfits)]; exact ⟨rfl, rfl, rfl⟩,
      fun hpaused => by rw [if_pos hpaused]; exact ⟨rfl, rfl, rfl⟩⟩

end Sys2Proof.Machine

/-!
PROOFS. Writes and appends at the zone engine (R132, R134, R175, R181, R182, R187, R194, R290): what admitting their blocks does to the zone
and to the command, and the outcomes before it.
-/
namespace Sys2Proof.Machine

open Sys2Proof

/-! ### Admitting blocks -/

theorem zoneOf_modZone_same (ns z : Nat) (g : Zone → Zone) (s : State) : zoneOf (modZone ns z g s) ns z = g (zoneOf s ns z) :=
  tget_tset_same s.zones (zkey ns z) (g (zoneOf s ns z))

/-- A changed zone is told of at the front-end. -/
theorem zoneChanged_front (ns z : Nat) (s : State) : FrontFrame (zoneChanged ns z s) s := by
  unfold zoneChanged
  split
  · split
    · rw [postEvent_frame]
      rfl
    · rfl
  · rfl

/-- The headroom warning marks the zone at most, and tells the front-end. -/
theorem warnCheck_front (ns z : Nat) (s : State) :
    ∃ u, (u = s ∨ u = modZone ns z (fun zn => { zn with warned := true }) s) ∧ FrontFrame (warnCheck ns z s) u := by
  unfold warnCheck
  dsimp only
  split
  · split
    · split
      · refine ⟨_, .inr rfl, ?_⟩
        rw [postEvent_frame, zoneChanged_front]
        rfl
      · exact ⟨s, .inl rfl, rfl⟩
    · exact ⟨s, .inl rfl, rfl⟩
  · exact ⟨s, .inl rfl, rfl⟩

/-- A zone that has admitted `nb` blocks at `off` (R175, R187). -/
def zoneAdmitted (fb off nb size : Nat) (zn : Zone) : Zone :=
  let zn := reserveFor fb (4096 * off) (4096 * nb) zn
  let zn := setOpen (if zn.st = .explOpen then .explOpen else .implOpen) zn
  let zn := { zn with wp := off + nb }
  if zn.wp = size then { zn with st := .full, finishing := true } else zn

/-- A reservation leaves all but the reserved bytes and the frames. -/
theorem reserveFor_frame (fb b n : Nat) (zn : Zone) :
    reserveFor fb b n zn = { zn with reserved := zn.reserved + worstOf zn fb b n, frames := (reserveFor fb b n zn).frames } := by
  have hfold (l : List Nat) (y : Zone) : l.foldl (fun z f => modFr f (fun r => { r with admitted := r.admitted + overlap fb f b n }) z) y =
      { y with frames := (l.foldl (fun z f => modFr f (fun r => { r with admitted := r.admitted + overlap fb f b n }) z) y).frames } := by
    induction l generalizing y with
    | nil => rfl
    | cons f l ih =>
      rw [List.foldl_cons, ih]
      rfl
  rw [reserveFor]
  exact hfold _ _

/-- What admission leaves of a zone. -/
theorem zoneAdmitted_fields (fb off nb size : Nat) (zn : Zone) :
    (zoneAdmitted fb off nb size zn).wp = off + nb ∧
    (zoneAdmitted fb off nb size zn).reserved = zn.reserved + worstOf zn fb (4096 * off) (4096 * nb) ∧
    (zoneAdmitted fb off nb size zn).stored = zn.stored ∧ (zoneAdmitted fb off nb size zn).prof = zn.prof ∧
    (zoneAdmitted fb off nb size zn).band = zn.band ∧
    (zoneAdmitted fb off nb size zn).st = if off + nb = size then .full else if zn.st = .explOpen then .explOpen else .implOpen := by
  unfold zoneAdmitted
  rw [reserveFor_frame]
  dsimp only [setOpen]
  split <;> exact ⟨rfl, rfl, rfl, rfl, rfl, rfl⟩

/-- The completion dword of a write: an append's carries its LBA. -/
def appendDw (c : Cmd) (v : Nat) : W32 := if c.e.opc = 0x7D then w32 v else 0

/-- A command that waits for its data at LBA `lba`. -/
def fetchingAt (lba : Nat) (c : Cmd) : Cmd :=
  { c with phase := .fetching, lba := lba, dw0 := appendDw c lba, dw1 := appendDw c (lba / 2 ^ 32) }

/-- The state with blocks admitted to a zone, before the headroom warning. -/
def blocksAdmitted (id : CmdId) (ns z off nb : Nat) (n : Ns) (s : State) : State :=
  modCmd id (fetchingAt (zoneStart n z + off)) (modZone ns z (fun zn => zoneAdmitted (zoneFb s zn) off nb (zszeBlocks n) zn) s)

theorem admitBlocks_eq (id : CmdId) (ns z off nb : Nat) (n : Ns) (s : State) :
    admitBlocks id ns z off nb n s = warnCheck ns z (blocksAdmitted id ns z off nb n s) := rfl

theorem zoneOf_blocksAdmitted (id : CmdId) (ns z off nb : Nat) (n : Ns) (s : State) :
    zoneOf (blocksAdmitted id ns z off nb n s) ns z = zoneAdmitted (zoneFb s (zoneOf s ns z)) off nb (zszeBlocks n) (zoneOf s ns z) :=
  zoneOf_modZone_same ns z (fun zn => zoneAdmitted (zoneFb s zn) off nb (zszeBlocks n) zn) s

theorem cmdOf_blocksAdmitted {id : CmdId} {s : State} {c : Cmd} (ns z off nb : Nat) (n : Ns) (h : cmdOf s id = some c) :
    cmdOf (blocksAdmitted id ns z off nb n s) id = some (fetchingAt (zoneStart n z + off) c) :=
  cmdOf_modCmd_same (s := modZone ns z (fun zn => zoneAdmitted (zoneFb s zn) off nb (zszeBlocks n) zn) s)
    (g := fetchingAt (zoneStart n z + off)) (fun _ => rfl) h

theorem blocksAdmitted_frame (id : CmdId) (ns z off nb : Nat) (n : Ns) (s : State) : blocksAdmitted id ns z off nb n s = { s with
    zones := (blocksAdmitted id ns z off nb n s).zones, cmds := (blocksAdmitted id ns z off nb n s).cmds } := rfl

/-- What the headroom warning leaves of what was admitted before it. -/
theorem warnCheck_spec (ns z : Nat) (v : State) : (∃ w, zoneOf (warnCheck ns z v) ns z = { zoneOf v ns z with warned := w }) ∧
    (∀ id, cmdOf (warnCheck ns z v) id = cmdOf v id) ∧ FrontFrame (warnCheck ns z v) { v with zones := (warnCheck ns z v).zones } := by
  obtain ⟨u, hu, hfront⟩ := warnCheck_front ns z v
  unfold FrontFrame at hfront ⊢
  rw [hfront]
  rcases hu with rfl | rfl
  · exact ⟨⟨_, rfl⟩, fun _ => rfl, rfl⟩
  · exact ⟨⟨true, zoneOf_modZone_same ns z (fun zn => { zn with warned := true }) v⟩, fun _ => rfl, rfl⟩

/-- What admission of blocks leaves: the zone admitted them, the command fetches its data, the front-end may be told. -/
theorem admitBlocks_spec {id : CmdId} {s : State} {c : Cmd} (ns z off nb : Nat) (n : Ns) (hcmd : cmdOf s id = some c) :
    let t := admitBlocks id ns z off nb n s
    (∃ w, zoneOf t ns z = { zoneAdmitted (zoneFb s (zoneOf s ns z)) off nb (zszeBlocks n) (zoneOf s ns z) with warned := w }) ∧
    cmdOf t id = some (fetchingAt (zoneStart n z + off) c) ∧ FrontFrame t { s with zones := t.zones, cmds := t.cmds } := by
  have hzone := zoneOf_blocksAdmitted id ns z off nb n s
  have hfetch := cmdOf_blocksAdmitted ns z off nb n hcmd
  have hframe := blocksAdmitted_frame id ns z off nb n s
  rw [admitBlocks_eq]
  generalize blocksAdmitted id ns z off nb n s = v at hzone hfetch hframe
  obtain ⟨hwarn, hcmds, hfront⟩ := warnCheck_spec ns z v
  rw [hzone] at hwarn
  refine ⟨hwarn, (hcmds id).trans hfetch, ?_⟩
  unfold FrontFrame at hfront ⊢
  rw [hfront, hframe]

/-- The state of a zone that has admitted blocks, and its fields. -/
theorem admitBlocks_zone {id : CmdId} {s : State} {c : Cmd} (ns z off nb : Nat) (n : Ns) (hcmd : cmdOf s id = some c) :
    let zn := zoneOf s ns z
    let y := zoneOf (admitBlocks id ns z off nb n s) ns z
    y.wp = off + nb ∧ y.reserved = zn.reserved + worstOf zn (zoneFb s zn) (4096 * off) (4096 * nb) ∧ y.stored = zn.stored ∧
    y.prof = zn.prof ∧ y.band = zn.band ∧
    y.st = if off + nb = zszeBlocks n then .full else if zn.st = .explOpen then .explOpen else .implOpen := by
  obtain ⟨⟨w, hw⟩, -, -⟩ := admitBlocks_spec ns z off nb n hcmd
  dsimp only at hw ⊢
  rw [hw]
  exact zoneAdmitted_fields _ off nb _ _

/-! ### The outcome of a write -/

/-- What a write that the zone engine looks at is: in range, at its turn, in a zoned namespace. -/
theorem exec_write_of_zoned {s : State} {id : CmdId} {c : Cmd} {n : Ns} (h : WriteRuns s id 1 c n) :
    exec (.write id) s = .next (writeRes c s (zonedWrite c n s)) := by
  obtain ⟨hcmd, hns, hzoned, hlen, hrange⟩ := h
  have hmdts : tooLong c.e = false := decide_eq_false (Nat.not_lt_of_le hlen)
  change execWrite id s = _
  unfold execWrite rwCheck
  rw [hcmd]
  dsimp only
  rw [hns, hmdts]
  dsimp only
  rw [if_neg Bool.false_ne_true, if_neg (Nat.not_lt_of_le hrange)]
  dsimp only
  rw [if_pos hzoned]

theorem exec_zoneAppend_of_zoned {s : State} {id : CmdId} {c : Cmd} {n : Ns} (h : WriteRuns s id 0x7D c n) :
    exec (.zoneAppend id) s = .next (writeRes c s (zonedWrite c n s)) := by
  obtain ⟨hcmd, hns, hzoned, hlen, hrange⟩ := h
  have hmdts : tooLong c.e = false := decide_eq_false (Nat.not_lt_of_le hlen)
  have hstart : ¬ nsCap s n ≤ cmdSlba c.e := by
    have hblocks : 1 ≤ cmdBlocks c.e := Nat.succ_le_succ (Nat.zero_le _)
    omega
  change execZoneAppend id s = _
  unfold execZoneAppend
  rw [hcmd]
  dsimp only
  rw [hns]
  dsimp only
  rw [if_neg (not_not_intro hzoned), hmdts, if_neg Bool.false_ne_true, if_neg hstart]

/-- The block of its zone that a write or append of zone `z` addresses. -/
def writeOff (s : State) (c : Cmd) (n : Ns) (z : Nat) : Nat :=
  if c.e.opc = 0x7D then (zoneOf s c.e.nsid z).wp else cmdSlba c.e - zoneStart n z

/-- What the zone engine asks of a write before it looks at the write pointer: an append names the start of its zone, no range of it is
locked, and the zone takes data. -/
def ZoneOpens (s : State) (c : Cmd) (n : Ns) (z h : Nat) : Prop :=
  writeHint s c = some h ∧ (zoneOf s c.e.nsid z).zeroized = false ∧ (c.e.opc = 0x7D → cmdSlba c.e = zoneStart n z) ∧
  rangeLocked s c.ord c.e.nsid (if c.e.opc = 0x7D then zoneStart n z else cmdSlba c.e)
    (if c.e.opc = 0x7D then zszeBlocks n else cmdBlocks c.e) = false ∧
  ((zoneOf s c.e.nsid z).st = .empty ∨ activeSt (zoneOf s c.e.nsid z).st = true) ∧ writeOff s c n z + cmdBlocks c.e ≤ zszeBlocks n

/-- Past these checks the write pointer decides. -/
theorem zonedWrite_of_open {s : State} {c : Cmd} {n : Ns} {z h : Nat} (hz : z = lbaZone n (cmdSlba c.e)) (hopen : ZoneOpens s c n z h) :
    zonedWrite c n s = if writeOff s c n z ≠ (zoneOf s c.e.nsid z).wp then .refuse ⟨1, 0xBC, true⟩
      else takeWrite c c.e.nsid z (writeOff s c n z) (cmdBlocks c.e) h n s := by
  obtain ⟨hhint, hkey, hstart, hlock, hst, hfits⟩ := hopen
  have htakes : (zoneOf s c.e.nsid z).st ≠ .full ∧ (zoneOf s c.e.nsid z).st ≠ .readOnly ∧ (zoneOf s c.e.nsid z).st ≠ .offline := by
    rcases hst with hempty | hactive
    · rw [hempty]
      decide
    · refine ⟨?_, ?_, ?_⟩ <;> (intro heq; rw [heq] at hactive; exact Bool.false_ne_true hactive)
  have hoff : (if c.e.opc = 0x7D then (zoneOf s c.e.nsid z).wp else cmdSlba c.e - zoneStart n z) = writeOff s c n z := rfl
  unfold zonedWrite
  dsimp only
  rw [hhint, ← hz]
  dsimp only
  rw [hoff, hkey, if_neg Bool.false_ne_true, if_neg fun h => h.2 (hstart h.1), hlock, if_neg Bool.false_ne_true, if_neg htakes.1,
    if_neg htakes.2.1, if_neg htakes.2.2, if_neg (Nat.not_lt_of_le hfits)]

/-- What `ZoneTakes` asks comes after these checks. -/
theorem ZoneTakes.opens {s : State} {c : Cmd} {n : Ns} {z off p : Nat} (h : ZoneTakes s c n z off p) (hoff : writeOff s c n z = off)
    (hstart : c.e.opc = 0x7D → cmdSlba c.e = zoneStart n z)
    (hlock : rangeLocked s c.ord c.e.nsid (if c.e.opc = 0x7D then zoneStart n z else cmdSlba c.e)
      (if c.e.opc = 0x7D then zszeBlocks n else cmdBlocks c.e) = false) : ∃ h, ZoneOpens s c n z h := by
  obtain ⟨hhint, -, hkey, -, hst, -, hfits⟩ := h
  obtain ⟨h, hh⟩ := Option.isSome_iff_exists.mp hhint
  exact ⟨h, hh, hkey, hstart, hlock, hst.symm.imp (fun he => he.1) (fun ha => ha), hoff.symm ▸ hfits⟩

/-- A write that its zone takes, up to the headroom, to copies still made and to a band that is lost. -/
theorem takeWrite_of_takes {s : State} {c : Cmd} {n : Ns} {z off p : Nat} (hid : Nat) (h : ZoneTakes s c n z off p) :
    takeWrite c c.e.nsid z off (cmdBlocks c.e) hid n s =
      if headroom s (zoneOf s c.e.nsid z) < (worstAt s c z off p : Nat) then .refuse (vendorSt 1)
      else if zoneRestarts s c.e.nsid z = true ∨ (zoneOf s c.e.nsid z).band.isNone = true then .wait
      else .take (admitBlocks c.id c.e.nsid z off (cmdBlocks c.e) n s) := by
  obtain ⟨-, hprof, -, hslot, hst, -, -⟩ := h
  have hclaim : ¬ (¬ activeSt (zoneOf s c.e.nsid z).st = true ∧ ¬ canClaim s c.e.nsid = true) := fun hno =>
    hst.elim hno.1 fun he => hno.2 he.2
  unfold takeWrite
  dsimp only
  rw [hprof, Option.some_or]
  dsimp only
  rw [hslot]
  dsimp only
  rw [if_neg hclaim, Option.isSome_some, if_pos rfl, if_pos rfl, worstAt]
  simp only [true_and]

/-- A refused write settles its zone and lets what waited for the cache complete. -/
theorem writeRes_refuse {s : State} {c : Cmd} {n : Ns} (st : Status) (hns : nsCheck s c = .ok n) (hzoned : n.zoned = true) :
    writeRes c s (.refuse st) = fuaCheck (zoneSettle c.e.nsid (lbaZone n (cmdSlba c.e)) (finishSt c.id st s)) := by
  have hsame : nsOf (finishSt c.id st s) c.e.nsid = some n := by
    rw [finishSt_frame]
    exact nsOf_of_nsCheck hns
  unfold writeRes
  dsimp only
  rw [settleWrite, hsame]
  dsimp only
  rw [if_pos hzoned]

/-- A zone whose band the first write takes. -/
theorem takeWrite_of_first {s u : State} {c : Cmd} {n : Ns} {z off p h : Nat} {pos : List (Nat × Nat)}
    (hhint : hintEnabled s n h = some p) (hprof : (zoneOf s c.e.nsid z).prof = none) (hslot : slotRefuses s (profOf s p) = none)
    (hclaim : canClaim s c.e.nsid = true)
    (hroom : (worstOf (boundZone s n (zoneOf s c.e.nsid z) p) (frameBytes (profOf s p)) (4096 * off) (4096 * cmdBlocks c.e) : Nat) ≤
      headroom s (boundZone s n (zoneOf s c.e.nsid z) p))
    (hcopied : zoneRestarts s c.e.nsid z = false) (hband : takeBand (leAt (profOf s p).desc 7 1 = 3) (laneSet (profOf s p)) s = some (pos, u)) :
    takeWrite c c.e.nsid z off (cmdBlocks c.e) h n s = .take (zoneChanged c.e.nsid z (admitBlocks c.id c.e.nsid z off (cmdBlocks c.e) n
      (modZone c.e.nsid z (fun zn => { zn with
        prof := some p, band := some (newBand u (profOf s p) pos), dcap := dcapOf u (profOf s p) n }) u))) := by
  have hmay : ¬ (¬ activeSt (zoneOf s c.e.nsid z).st = true ∧ ¬ canClaim s c.e.nsid = true) := fun hno => hno.2 hclaim
  unfold takeWrite
  dsimp only
  rw [hprof, Option.none_or, hhint]
  dsimp only
  rw [hslot]
  dsimp only
  rw [if_neg hmay, Option.isSome_none, if_neg Bool.false_ne_true, if_neg (Int.not_lt.mpr hroom), hcopied,
    if_neg (by simp), if_neg Bool.false_ne_true, bindZone, hband]

/-- Blocks taken from LUNs for a band change LUNs only. -/
theorem takeBand_frame {arch : Bool} {l : List Nat} {s u : State} {pos : List (Nat × Nat)} (h : takeBand arch l s = some (pos, u)) :
    u = { s with luns := u.luns } := by
  induction l generalizing s pos with
  | nil =>
    obtain ⟨-, rfl⟩ := Prod.mk.inj (Option.some.inj h)
    rfl
  | cons a l ih =>
    rw [takeBand] at h
    split at h
    · exact nomatch h
    · split at h
      · exact nomatch h
      next ps v hv =>
        obtain ⟨-, rfl⟩ := Prod.mk.inj (Option.some.inj h)
        exact (ih hv).trans rfl

/-- A write or append that its zone takes. -/
theorem zonedWrite_of_takes {s : State} {c : Cmd} {n : Ns} {z off p : Nat} (hz : z = lbaZone n (cmdSlba c.e)) (htakes : ZoneTakes s c n z off p)
    (hoff : writeOff s c n z = off) (hstart : c.e.opc = 0x7D → cmdSlba c.e = zoneStart n z)
    (hlock : rangeLocked s c.ord c.e.nsid (if c.e.opc = 0x7D then zoneStart n z else cmdSlba c.e)
      (if c.e.opc = 0x7D then zszeBlocks n else cmdBlocks c.e) = false) :
    zonedWrite c n s =
      if headroom s (zoneOf s c.e.nsid z) < (worstAt s c z off p : Nat) then .refuse (vendorSt 1)
      else if zoneRestarts s c.e.nsid z = true ∨ (zoneOf s c.e.nsid z).band.isNone = true then .wait
      else .take (admitBlocks c.id c.e.nsid z off (cmdBlocks c.e) n s) := by
  obtain ⟨h, hopens⟩ := htakes.opens hoff hstart hlock
  have hwp : off = (zoneOf s c.e.nsid z).wp := htakes.2.2.2.2.2.1
  rw [zonedWrite_of_open hz hopens, hoff, if_neg (not_not_intro hwp), takeWrite_of_takes h htakes]

/-- The worst case that a taken write reserves is that of its zone's frames. -/
theorem worstAt_eq {s : State} {c : Cmd} {n : Ns} {z off p : Nat} (h : ZoneTakes s c n z off p) :
    worstAt s c z off p = worstOf (zoneOf s c.e.nsid z) (zoneFb s (zoneOf s c.e.nsid z)) (4096 * off) (4096 * cmdBlocks c.e) := by
  obtain ⟨-, hprof, -⟩ := h
  rw [worstAt, zoneFb, hprof]

/-- A zone starts at or below the blocks in it. -/
theorem zoneStart_le (n : Ns) (lba : Nat) : zoneStart n (lbaZone n lba) ≤ lba := Nat.div_mul_le_self lba (zszeBlocks n)

/-- The first write of a zone binds its profile and takes its band. -/
theorem admitBlocks_of_first {s u : State} {c : Cmd} {n : Ns} {z p : Nat} {b : Band} {dcap : Nat} (hcmd : cmdOf u c.id = some c)
    (hsame : u = { s with luns := u.luns }) (hfits : cmdBlocks c.e ≤ zszeBlocks n)
    (hstart : cmdSlba c.e = zoneStart n z) :
    let t := zoneChanged c.e.nsid z (admitBlocks c.id c.e.nsid z 0 (cmdBlocks c.e) n
      (modZone c.e.nsid z (fun zn => { zn with prof := some p, band := some b, dcap := dcap }) u))
    (zoneOf t c.e.nsid z).prof = some p ∧ (zoneOf t c.e.nsid z).band = some b ∧ (zoneOf t c.e.nsid z).wp = cmdBlocks c.e ∧
      activeSt (zoneOf t c.e.nsid z).st = decide (cmdBlocks c.e < zszeBlocks n) ∧
      (cmdOf t c.id).map (fun d => (d.phase, d.lba)) = some (Phase.fetching, cmdSlba c.e) ∧ t.cache = s.cache := by
  have hbound := zoneOf_modZone_same c.e.nsid z (fun zn => { zn with prof := some p, band := some b, dcap := dcap }) u
  have hcmd' : cmdOf (modZone c.e.nsid z (fun zn => { zn with prof := some p, band := some b, dcap := dcap }) u) c.id = some c := hcmd
  have hcache : (modZone c.e.nsid z (fun zn => { zn with prof := some p, band := some b, dcap := dcap }) u).cache = s.cache := by
    rw [hsame]
    rfl
  generalize modZone c.e.nsid z (fun zn => { zn with prof := some p, band := some b, dcap := dcap }) u = v at hbound hcmd' hcache
  obtain ⟨hwp', -, -, hprof, hband, hst⟩ := admitBlocks_zone c.e.nsid z 0 (cmdBlocks c.e) n hcmd'
  obtain ⟨-, hfetch, hfront⟩ := admitBlocks_spec c.e.nsid z 0 (cmdBlocks c.e) n hcmd'
  rw [hbound] at hprof hband hst
  intro t
  have ht : FrontFrame t (admitBlocks c.id c.e.nsid z 0 (cmdBlocks c.e) n v) := zoneChanged_front _ _ _
  unfold FrontFrame at ht hfront
  have hcacheT : (admitBlocks c.id c.e.nsid z 0 (cmdBlocks c.e) n v).cache = v.cache := by rw [hfront]
  generalize admitBlocks c.id c.e.nsid z 0 (cmdBlocks c.e) n v = w at *
  rw [ht]
  refine ⟨hprof, hband, hwp'.trans (Nat.zero_add _), ?_, ?_, hcacheT.trans hcache⟩
  · change activeSt (zoneOf w c.e.nsid z).st = _
    rw [hst, Nat.zero_add]
    split
    next hfull => rw [hfull, decide_eq_false (Nat.lt_irrefl _)]; rfl
    next hpart =>
      rw [decide_eq_true (Nat.lt_of_le_of_ne hfits hpart)]
      split <;> rfl
  · change (cmdOf w c.id).map _ = _
    rw [hfetch]
    exact congrArg (fun l => some (Phase.fetching, l)) (Nat.add_zero _ |>.trans hstart.symm)

/-- Settles O19: past the checks of the zone engine a write is admitted to its zone, waits or is refused; a first write binds the zone first. -/
theorem zonedWrites : Obligations.ZonedWrites := by
  refine ⟨?_, ?_, ?_, ?_⟩
  case refine_1 =>
    intro id s c n p hruns z off zn hlock htakes
    obtain ⟨hcmd, hid, hopc⟩ := wrCmd_spec hruns.1
    have hwrite : ¬ c.e.opc = 0x7D := by rw [hopc]; decide
    have hout := zonedWrite_of_takes (z := z) rfl htakes (if_neg hwrite) (fun h => absurd h hwrite) (by rw [if_neg hwrite, if_neg hwrite]; exact hlock)
    have hexec := exec_write_of_zoned hruns
    refine ⟨fun hroom hcopied hband => ?_, fun hroom hcopying => ?_, fun hfull => ?_⟩
    · have hgo : ¬ (zoneRestarts s c.e.nsid z = true ∨ (zoneOf s c.e.nsid z).band.isNone = true) := by
        rw [hcopied, Option.isNone_eq_false_iff.mpr hband]
        simp
      rw [if_neg (Int.not_lt.mpr hroom), if_neg hgo] at hout
      rw [hout] at hexec
      have hcmd' : cmdOf s c.id = some c := by rw [hid]; exact hcmd
      obtain ⟨hwp, hreserved, hstored, -, -, hst⟩ := admitBlocks_zone c.e.nsid z off (cmdBlocks c.e) n hcmd'
      obtain ⟨-, hfetch, hfront⟩ := admitBlocks_spec c.e.nsid z off (cmdBlocks c.e) n hcmd'
      refine ⟨_, hexec, hwp, hreserved.trans (by rw [worstAt_eq htakes]), hstored, hst, ?_, hfront⟩
      rw [← hid]
      refine (congrArg (Option.map _) hfetch).trans ?_
      exact congrArg (fun l => some (Phase.fetching, l)) (Nat.add_sub_cancel' (zoneStart_le n (cmdSlba c.e)))
    · rw [if_neg (Int.not_lt.mpr hroom), if_pos (.inl hcopying)] at hout
      rw [hexec, hout]
      rfl
    · rw [if_pos hfull] at hout
      rw [hexec, hout, writeRes_refuse _ hruns.2.1 hruns.2.2.1, hid]
  case refine_2 =>
    intro id s c n h hruns z off hlock hhint hfits hkey hst hwp
    obtain ⟨hcmd, hid, hopc⟩ := wrCmd_spec hruns.1
    have hwrite : ¬ c.e.opc = 0x7D := by rw [hopc]; decide
    have hoff : writeOff s c n z = off := if_neg hwrite
    have hopens : ZoneOpens s c n z h := ⟨hhint, hkey, fun h => absurd h hwrite, by rw [if_neg hwrite, if_neg hwrite]; exact hlock, hst,
      by rw [hoff]; exact hfits⟩
    rw [exec_write_of_zoned hruns, zonedWrite_of_open rfl hopens, hoff, if_pos hwp, writeRes_refuse _ hruns.2.1 hruns.2.2.1, hid]
  case refine_3 =>
    intro id s c n p hruns z zn hstart hlock htakes hroom hcopied hband
    obtain ⟨hcmd, hid, hopc⟩ := wrCmd_spec hruns.1
    have hout := zonedWrite_of_takes (z := z) rfl htakes (if_pos hopc) (fun _ => hstart) (by rw [if_pos hopc, if_pos hopc]; exact hlock)
    have hexec := exec_zoneAppend_of_zoned hruns
    have hgo : ¬ (zoneRestarts s c.e.nsid z = true ∨ (zoneOf s c.e.nsid z).band.isNone = true) := by
      rw [hcopied, Option.isNone_eq_false_iff.mpr hband]
      simp
    rw [if_neg (Int.not_lt.mpr hroom), if_neg hgo] at hout
    rw [hout] at hexec
    have hcmd' : cmdOf s c.id = some c := by rw [hid]; exact hcmd
    obtain ⟨hwp, hreserved, -, -, -, -⟩ := admitBlocks_zone c.e.nsid z zn.wp (cmdBlocks c.e) n hcmd'
    obtain ⟨-, hfetch, hfront⟩ := admitBlocks_spec c.e.nsid z zn.wp (cmdBlocks c.e) n hcmd'
    refine ⟨_, hexec, hwp, hreserved.trans (by rw [worstAt_eq htakes]), ?_, hfront⟩
    rw [← hid]
    refine (congrArg (Option.map _) hfetch).trans ?_
    exact congrArg (fun d => some (Phase.fetching, zoneStart n z + zn.wp, d)) (if_pos hopc)
  case refine_4 =>
    intro id s c n h p pos u op hop hruns z zn hstart hlock hhint hprof hunbound hkey hslot hst hwp hclaim hcopied hfits hroom hband
    obtain ⟨hcmd, hid, hopc⟩ := wrCmd_spec hruns.1
    subst hopc
    have hsame := takeBand_frame hband
    have hoff : writeOff s c n z = 0 := by
      unfold writeOff
      split
      · exact hwp
      · exact Nat.sub_eq_zero_of_le (Nat.le_of_eq hstart)
    have hlock' : rangeLocked s c.ord c.e.nsid (if c.e.opc = 0x7D then zoneStart n z else cmdSlba c.e)
        (if c.e.opc = 0x7D then zszeBlocks n else cmdBlocks c.e) = false := by
      rcases List.mem_cons.mp hop with hone | happend
      · rw [hone, if_pos rfl] at hlock
        rw [if_neg (by rw [hone]; decide), if_neg (by rw [hone]; decide), hstart]
        exact hlock
      · obtain happend := List.mem_singleton.mp happend
        rw [happend, if_neg (by decide)] at hlock
        rw [if_pos happend, if_pos happend]
        exact hlock
    have hopens : ZoneOpens s c n z h := ⟨hhint, hkey, fun _ => hstart, hlock', .inl hst, by rw [hoff, Nat.zero_add]; exact hfits⟩
    have hout := zonedWrite_of_open rfl hopens
    rw [hoff, if_neg (not_not_intro hwp.symm), takeWrite_of_first (off := 0) hprof hunbound hslot hclaim hroom hcopied hband] at hout
    have hcmds : u.cmds = s.cmds := by rw [hsame]
    have hcmd' : cmdOf u c.id = some c := by rw [cmdOf, hcmds, hid]; exact hcmd
    have hspec := admitBlocks_of_first (s := s) (p := p) (b := newBand u (profOf s p) pos) (dcap := dcapOf u (profOf s p) n) hcmd' hsame
      hfits hstart
    rw [hid] at hspec
    obtain ⟨hp, hb, hrest⟩ := hspec
    have hexec : exec (if c.e.opc = 1 then .write id else .zoneAppend id) s = .next (writeRes c s (zonedWrite c n s)) := by
      rcases List.mem_cons.mp hop with hone | happend
      · rw [if_pos hone]
        exact exec_write_of_zoned (hone ▸ hruns)
      · obtain happend := List.mem_singleton.mp happend
        rw [if_neg (by rw [happend]; decide)]
        exact exec_zoneAppend_of_zoned (happend ▸ hruns)
    rw [hout, hid] at hexec
    exact ⟨_, hexec, hp, congrArg (Option.map Band.pos) hb, hrest⟩

end Sys2Proof.Machine

/-!
PROOFS. Doorbells, the unmasking of a vector and the coalescing timer (R49, R108, R111, R150, R151, R351).
-/
namespace Sys2Proof.Machine

open Sys2Proof

/-! ### Doorbells -/

/-- With no power transition, nothing but DOZE is woken. -/
theorem dozeWake_of_awake {s : State} (htrans : s.pwr.trans = none) (hmode : s.md.cur ≠ .doze) : dozeWake s = s := by
  unfold dozeWake wakeDoze
  rw [htrans]
  exact if_neg fun h => hmode h.1

/-- A submission queue after its change. -/
theorem sqOf_modSq_same {f q : Nat} {s : State} {c : Sq} {g : Sq → Sq} (hg : ∀ c, (g c).func = c.func ∧ (g c).id = c.id)
    (h : sqOf s f q = some c) : sqOf (modSq f q g s) f q = some (g c) := by
  have hmap := find?_map_of_hit (p := fun c : Sq => decide (c.func = f ∧ c.id = q)) (g := g) (fun x hx => by simpa [hg] using hx) h
  simpa [sqOf, modSq] using hmap

/-- A tail doorbell that hands over the entries it names. -/
theorem sqTail_of_entries {f q tail : Nat} {entries : List Sqe} {s : State} {sq : Sq} (hreaches : doorbellReaches s f = true)
    (htrans : s.pwr.trans = none) (hmode : s.md.cur ≠ .doze) (hsq : sqOf s f q = some sq) (htail : tail < sq.size)
    (hcount : (tail + sq.size - (sq.head + sq.subs.length) % sq.size) % sq.size = entries.length) :
    sqTail f q tail entries s = modSq f q (fun x => { x with tail := tail, subs := x.subs ++ entries }) s := by
  unfold sqTail
  rw [if_neg (not_not_intro hreaches), hsq]
  dsimp only
  rw [if_neg (by omega), dozeWake_of_awake]
  · exact htrans
  · exact hmode

/-- With no Abort held, none goes on. -/
theorem abortsGo_of_none {s : State} (h : ∀ c ∈ s.cmds, c.phase ≠ .held) : abortsGo s = s := by
  have hnone : (s.cmds.filter fun c => c.phase = .held && c.id.sq = 0 && c.e.opc = 0x08 && c.aux = 1) = [] :=
    List.filter_eq_nil_iff.mpr fun c hc => by simp [h c hc]
  unfold abortsGo
  rw [hnone]
  rfl

/-- A head doorbell of a queue in which nothing waits. -/
theorem cqHead_of_idle {f q head : Nat} {s : State} {cq : Cq} (hreaches : doorbellReaches s f = true) (htrans : s.pwr.trans = none)
    (hmode : s.md.cur ≠ .doze) (hcq : cqOf s f q = some cq) (hhead : head < cq.size)
    (hfits : (head + cq.size - cq.head) % cq.size ≤ (cq.tail + cq.size - cq.head) % cq.size) (hidle : cq.waiting = [])
    (hheld : ∀ c ∈ s.cmds, c.phase ≠ .held) : cqHead f q head s = modCq f q (fun x => { x with head := head }) s := by
  have hquiet : ∀ c ∈ (modCq f q (fun x => { x with head := head }) s).cmds, c.phase ≠ .held := hheld
  unfold cqHead
  rw [if_neg (not_not_intro hreaches), hcq]
  dsimp only
  rw [if_neg (by omega), hidle, List.length_nil, cqDrain, abortsGo_of_none hquiet, ite_self, dozeWake_of_awake]
  · exact htrans
  · exact hmode

/-! ### Vectors -/

/-- A message sent leaves the mask. -/
theorem unmasked_msiSend (f v : Nat) (count : Bool) (s : State) : (fnOf (msiSend f v count s) f).unmasked = (fnOf s f).unmasked := by
  have hemit (x : Xfer) (u : State) : fnOf (emit x u) f = fnOf u f := rfl
  rw [msiSend, hemit, fnOf_modFn_same]

theorem unmasked_msiBudget (f v : Nat) (s : State) : (fnOf (msiBudget f v s) f).unmasked = (fnOf s f).unmasked := by
  unfold msiBudget
  dsimp only
  split
  · exact unmasked_msiSend f v false s
  split
  · exact unmasked_msiSend f v true s
  split
  · rfl
  · rw [fnOf_modFn_same]

/-- A vector that is unmasked stays so while the message it owes goes out. -/
theorem mem_unmasked_msiUnmask (f v : Nat) (s : State) : v ∈ (fnOf (msiUnmask f v s) f).unmasked := by
  have hmem : v ∈ (fnOf (modFn f (fun fn => { fn with unmasked := insNat v fn.unmasked, msixOn := true }) s) f).unmasked := by
    rw [fnOf_modFn_same]
    exact mem_insNat v _
  unfold msiUnmask
  dsimp only
  split
  · exact hmem
  split
  · rw [unmasked_msiSend]
    exact hmem
  split
  · exact hmem
  · rw [unmasked_msiBudget, fnOf_modFn_same]
    exact hmem

/-- The coalescing time of a vector is over. -/
theorem exec_coalescingTimerExpiry_of_due {f v t0 : Nat} {s : State} (hsince : (tget {} (fnOf s f).coal v).since = some t0)
    (hdue : t0 + 100000 * fld (featGet (fnOf s f) 8 0) 15 8 ≤ now s) : exec (.coalescingTimerExpiry f v) s =
      .next (msiOwe f v false (modFn f (fun fn => { fn with coal := tset {} fn.coal v {} }) s)) := by
  change execCoalescingTimerExpiry f v s = _
  unfold execCoalescingTimerExpiry
  dsimp only
  rw [hsince]
  dsimp only
  rw [if_neg (Nat.not_lt_of_le hdue)]

/-- Settles O28: outside DOZE a doorbell changes its queue alone; an unmasked vector is listed before its message goes out. -/
theorem doorbellsAndVectors : Obligations.DoorbellsAndVectors := by
  refine ⟨fun f q tail entries s sq hreaches htrans hmode hsq htail hcount => ?_,
    fun f q head s cq hreaches htrans hmode hcq hhead hfits hidle hheld => ?_, fun f v s hpresent hvector hmode => ⟨?_, ?_, fun hpba => ?_⟩,
    fun f v s t0 hsince hdue => exec_coalescingTimerExpiry_of_due hsince hdue⟩
  · refine ⟨_, next_congr (sqTail_of_entries hreaches htrans hmode hsq htail hcount), ?_, rfl⟩
    exact sqOf_modSq_same (g := fun x => { x with tail := tail, subs := x.subs ++ entries }) (fun _ => ⟨rfl, rfl⟩) hsq
  · refine ⟨_, next_congr (cqHead_of_idle hreaches htrans hmode hcq hhead hfits hidle hheld), ?_, rfl⟩
    exact cqOf_modCq_same (g := fun x => { x with head := head }) (fun _ => ⟨rfl, rfl⟩) hcq
  · exact next_congr (if_pos ⟨hpresent, hvector, coreOn_of_ne_watch hmode⟩)
  · exact mem_unmasked_msiUnmask f v s
  · exact if_pos (.inr (.inl hpba))

end Sys2Proof.Machine

/-!
PROOFS. Firmware activation (R86, R172 to R174): the end of its drain, the switch of the image, the timeout, and the end of one with reset.
-/
namespace Sys2Proof.Machine

open Sys2Proof

/-! ### The end of an activation -/

/-- With no mailbox command, deciding a status leaves the mailbox. -/
theorem mbx_finish_of_no_run {s : State} (h : s.mbx.run = none) (id : CmdId) (st : Status) (a b : W32) : (finish id st a b s).mbx = s.mbx := by
  have hpost : (post id (modCmd id (fun c => { c with phase := .decided, status := some st, dw0 := a, dw1 := b }) s)).mbx = s.mbx := by
    rw [post_frame]
    rfl
  rw [finish, frzCount_frame]
  change (lockSetEnd _).mbx = s.mbx
  rw [lockSetEnd_none _ (by rw [hpost]; exact h), hpost]

/-- What the end of an activation from QUIESCE leaves alone, but for its command. -/
structure ActEnded (s t : State) : Prop where
  fw : t.fw = { s.fw with act := none }
  mode : t.md.cur = .run
  slot : t.md.slot = s.md.slot
  last : t.md.rlKind = s.md.rlKind
  nss : t.nss = s.nss
  vault : t.vault = s.vault
  cache : t.cache = s.cache

/-- A device that goes on in RUN. -/
theorem enterRun_spec (s : State) : (enterRun s).md.cur = .run ∧ (enterRun s).md.slot = s.md.slot ∧ (enterRun s).md.rlKind = s.md.rlKind ∧
    enterRun s = { s with md := (enterRun s).md, hold := (enterRun s).hold, pin := (enterRun s).pin } := by
  have hmode : (setMode .run s).md.cur = .run ∧ (setMode .run s).md.slot = s.md.slot ∧ (setMode .run s).md.rlKind = s.md.rlKind := by
    unfold setMode
    split
    next h => exact ⟨h, rfl, rfl⟩
    next => exact ⟨rfl, rfl, rfl⟩
  obtain ⟨hcur, hslot, hlast⟩ := hmode
  rw [enterRun, capTestKept_frame]
  refine ⟨hcur, hslot, hlast, ?_⟩
  rw [setMode_frame]

/-- An activation that a command asked for, or none, ends in RUN. -/
theorem actEnd_of_quiesce {s : State} {a : Act} (st : Status) (hmbx : a.mbx = false) (hidle : s.mbx.run = none) (hmode : s.md.cur = .quiesce)
    (hshallow : ∀ u, s.pwr.trans = some u → u.target < 3) : ActEnded s (actEnd a st s) := by
  have hdeep : s.pwr.trans.any (fun t => 3 ≤ t.target) = false := by
    cases htrans : s.pwr.trans with
    | none => rfl
    | some u => simpa using hshallow u htrans
  have hrun (u : State) (hu : u.mbx.run = none) (hframe : ActEnded s u) :
      ActEnded s (mbxGo ((a.cmd.map fun id => finishSt id st u).getD u)) := by
    cases a.cmd with
    | none =>
      rw [Option.map_none, Option.getD_none, mbxGo_of_no_run hu]
      exact hframe
    | some id =>
      rw [Option.map_some, Option.getD_some, mbxGo_of_no_run (by rw [finishSt, mbx_finish_of_no_run hu]; exact hu), finishSt_frame]
      exact ⟨hframe.fw, hframe.mode, hframe.slot, hframe.last, hframe.nss, hframe.vault, hframe.cache⟩
  unfold actEnd
  dsimp only
  rw [hmbx, if_neg Bool.false_ne_true, if_pos ⟨hmode, by rw [hdeep]; exact Bool.false_ne_true⟩]
  obtain ⟨hcur, hslot, hlast, hframe⟩ := enterRun_spec { s with
    fw := { s.fw with act := none }, fns := tmap {} (fun _ fn => { fn with pp := false }) s.fns }
  generalize enterRun _ = v at hcur hslot hlast hframe ⊢
  exact hrun v (by rw [hframe]; exact hidle) ⟨by rw [hframe], hcur, hslot, hlast, by rw [hframe], by rw [hframe], by rw [hframe]⟩

/-! ### The rows of an activation -/

/-- The state with the activated slot's image running. -/
theorem runSlot_setActive_fw (n : Nat) (s : State) :
    ∃ f p, (fuseRaise (runSlot n (setActive n s))).fw =
      { s.fw with active := n, running := tget none s.fw.slots n, fused := f, prevActive := p } ∧
    fuseRaise (runSlot n (setActive n s)) = { s with
      fw := (fuseRaise (runSlot n (setActive n s))).fw, md := { s.md with slot := n } } := by
  have hactive : ∃ p, setActive n s = { s with fw := { s.fw with active := n, prevActive := p } } := by
    unfold setActive
    split
    next h => exact ⟨s.fw.prevActive, by rw [← h]⟩
    next => exact ⟨_, rfl⟩
  obtain ⟨p, hp⟩ := hactive
  rw [hp]
  unfold fuseRaise
  split
  · split
    · exact ⟨_, _, rfl, rfl⟩
    · exact ⟨_, _, rfl, rfl⟩
  · exact ⟨_, _, rfl, rfl⟩

/-- The drain has ended when the activating command alone is left. -/
theorem actDrained_of_only {s : State} {a : Act} (hcmds : ∀ c ∈ s.cmds, some c.id = a.cmd)
    (hmbx : ∀ r, s.mbx.run = some r → r.opc = 0x0105 ∨ r.waitStart = true) : actDrained a s = true := by
  rw [actDrained, Bool.and_eq_true]
  refine ⟨List.all_eq_true.mpr fun c hc => decide_eq_true (hcmds c hc), ?_⟩
  cases hrun : s.mbx.run with
  | none => rfl
  | some r => rcases hmbx r hrun with h | h <;> simp [h]

/-- Settles O27: each row's hold conditions fail; the end of an activation keeps all but its command, the mode and the slot's image. -/
theorem firmwareActivation : Obligations.FirmwareActivation := by
  refine ⟨fun s a hact hsw hrst hmode hcmds hmbx htime => ?_, fun s a hact hsw hmbx hidle hmode hshallow => ?_,
    fun s a hact hsw hrst hlate hmbx hidle hmode hshallow => ?_, fun s a hact hrst hidle hwait hheld => ?_⟩
  case refine_1 =>
    change execActivationDrainEnd s = _
    unfold execActivationDrainEnd
    rw [hact]
    dsimp only
    rw [if_neg]
    rw [hsw, hrst, hmode, actDrained_of_only hcmds hmbx]
    simpa [actLimit] using htime
  case refine_2 =>
    have hexec : exec .imageSwitchComplete s =
        .next (witness (actEnd a okSt (resetLast 10 0 (fuseRaise (runSlot a.slot (setActive a.slot s)))))) := by
      change execImageSwitchComplete s = _
      unfold execImageSwitchComplete
      rw [hact]
      dsimp only
      rw [if_neg]
      rw [hsw, hmode]
      simp
    obtain ⟨f, p, hfw, hframe⟩ := runSlot_setActive_fw a.slot s
    generalize fuseRaise (runSlot a.slot (setActive a.slot s)) = u at hexec hfw hframe
    have hended := actEnd_of_quiesce (s := resetLast 10 0 u) okSt hmbx (by rw [hframe]; exact hidle) (by rw [hframe]; exact hmode)
      (by rw [hframe]; exact hshallow)
    rw [witness_frame] at hexec
    refine ⟨_, hexec, ?_, ?_, ?_, ?_, hended.mode, hended.last, ?_, ?_, ?_, ?_⟩
    · exact (congrArg Fw.active hended.fw).trans (congrArg Fw.active hfw)
    · exact (congrArg Fw.running hended.fw).trans (congrArg Fw.running hfw)
    · exact hended.slot.trans (by rw [hframe]; rfl)
    · exact congrArg Fw.act hended.fw
    · have hslots : u.fw.slots = s.fw.slots := by rw [hfw]
      exact (congrArg Fw.slots hended.fw).trans hslots
    · exact hended.nss.trans (by rw [hframe]; rfl)
    · exact hended.vault.trans (by rw [hframe]; rfl)
    · exact hended.cache.trans (by rw [hframe]; rfl)
  case refine_3 =>
    have hexec : exec .activationDrainTimeout s = .next (actEnd a (cmdSt 0x13) s) := by
      change execActivationDrainTimeout s = _
      unfold execActivationDrainTimeout
      rw [hact]
      dsimp only
      rw [if_neg]
      rw [hsw, hrst, hmode, actLimit]
      rcases hlate with hpast | ⟨hnow, c, hc, hother⟩
      · simp only [Bool.false_eq_true, reduceCtorEq, false_or]
        omega
      · have hundrained : actDrained a s = false := by
          rw [actDrained, List.all_eq_false.mpr ⟨c, hc, by simpa using hother⟩]
          rfl
        rw [hundrained]
        simp only [Bool.false_eq_true, reduceCtorEq, false_or, false_and, or_false]
        omega
    have hended := actEnd_of_quiesce (cmdSt 0x13) hmbx hidle hmode hshallow
    exact ⟨_, hexec, hended.fw, hended.mode, hended.slot, hended.nss, hended.vault, hended.cache⟩
  case refine_4 =>
    have hnone : s.fns.filter (fun e => e.2.enHeld) = [] := List.filter_eq_nil_iff.mpr fun e he => by simp [hheld e he]
    have hexec : exec .activationWithResetComplete s = .next (witness (runSlot a.slot { s with fw := { s.fw with act := none } })) := by
      change execActivationWithResetComplete s = _
      unfold execActivationWithResetComplete
      rw [hact]
      dsimp only
      rw [if_neg (by rw [hrst, hwait]; simp)]
      change Host.Outcome.next (mbxGo (witness ((s.fns.filter fun e => e.2.enHeld).foldl _ _))) = _
      rw [hnone, List.foldl_nil, mbxGo_of_no_run]
      rw [witness_frame]
      exact hidle
    rw [witness_frame] at hexec
    exact ⟨_, hexec, rfl, rfl, rfl, rfl, rfl, rfl⟩

end Sys2Proof.Machine

/-!
PROOFS. The end of a reset's drain, controllers that become ready, and links that come up (R71, R101, R121, R157, R386, R455).
-/
namespace Sys2Proof.Machine

open Sys2Proof

/-! ### The end of a drain -/

/-- With no mailbox command, the end of a drain is the function's alone. -/
theorem exec_resetDrainDone_of_no_run {f k : Nat} {s : State} (hdrain : (fnOf s f).drain = some k) (hidle : s.mbx.run = none) :
    exec (.resetDrainDone f) s = .next (drainDone f s) := by
  have hidle' : (drainDone f s).mbx.run = none := by
    unfold drainDone
    rw [hdrain]
    dsimp only
    split <;> exact hidle
  change execResetDrainDone f s = _
  unfold execResetDrainDone
  rw [hdrain]
  dsimp only
  rw [hidle']

/-- The end of a drain leaves the mailbox, the generations and the clock. -/
theorem drainDone_frame (f : Nat) (s : State) : drainDone f s = { s with fns := (drainDone f s).fns } := by
  unfold drainDone
  split
  · rfl
  · split <;> rfl

/-- A TENANT_RESET that waits for the end of its drain ends with it. -/
theorem exec_resetDrainDone_of_tenantReset {f k : Nat} {s : State} {r : MbxRun} (hdrain : (fnOf s f).drain = some k) (hrun : s.mbx.run = some r)
    (hopc : r.opc = 0x0205) (hpaused : r.paused = false) (hstart : r.waitStart = false) (hmine : (r.args.getD 0 0).toNat + 1 = f) :
    exec (.resetDrainDone f) s = .next (mbxDone [(0, w32 (genOf s f).toNat)] (drainDone f s)) := by
  have hframe := drainDone_frame f s
  have hrun' : (drainDone f s).mbx.run = some r := by rw [hframe]; exact hrun
  have hgen : genOf (drainDone f s) f = genOf s f := by
    rw [hframe]
    rfl
  have hwaits : (r.opc = 0x0205 ∨ r.opc = 0x0204) ∧ ¬ r.waitStart = true ∧ (16 ≤ k ∨ (r.args.getD 0 0).toNat + 1 = f) :=
    ⟨.inl hopc, by rw [hstart]; exact Bool.false_ne_true, .inr hmine⟩
  change execResetDrainDone f s = _
  unfold execResetDrainDone
  rw [hdrain]
  dsimp only
  rw [hrun']
  dsimp only
  rw [if_neg (not_not_intro hwaits), hpaused, if_neg Bool.false_ne_true]
  unfold tenantResetEnd
  rw [hrun']
  dsimp only
  rw [if_neg (by rw [hopc]; decide), hmine, hgen]

/-- Every function's reset reports done. -/
theorem fnOf_drainDone_all {f k : Nat} {s : State} (hdrain : (fnOf s f).drain = some k) (hall : 16 ≤ k) (g : Nat) :
    (fnOf (drainDone f s) g).rdy = false ∧ (fnOf (drainDone f s) g).drain = none ∧ (fnOf (drainDone f s) g).ats = false := by
  unfold drainDone
  rw [hdrain]
  dsimp only
  rw [if_neg (Nat.not_lt_of_le hall)]
  change (tget {} (tmap {} (fun _ fn => fnDone fn) s.fns) g).rdy = false ∧ (tget {} (tmap {} (fun _ fn => fnDone fn) s.fns) g).drain = none ∧
    (tget {} (tmap {} (fun _ fn => fnDone fn) s.fns) g).ats = false
  rcases tget_tmap_cases {} (fun _ fn => fnDone fn) s.fns g with hno | ⟨fn, hfn⟩
  · rw [hno]
    exact ⟨rfl, rfl, rfl⟩
  · rw [hfn]
    exact ⟨rfl, rfl, rfl⟩

/-! ### Controllers -/

/-- Raising the fused counter is the firmware's alone. -/
theorem fuseRaise_frame (s : State) : fuseRaise s = { s with fw := (fuseRaise s).fw } := by
  unfold fuseRaise
  split
  · split <;> rfl
  · rfl

/-- A queue put at the end, where none of its identity stands before it. -/
theorem find?_filter_not_append {α : Type} {p : α → Bool} {a : α} (h : p a = true) (l : List α) :
    (l.filter (fun x => !p x) ++ [a]).find? p = some a := by
  have hnone : (l.filter fun x => !p x).find? p = none := List.find?_eq_none.mpr fun x hx => by
    simpa using (List.mem_filter.mp hx).2
  rw [List.find?_append, hnone, Option.none_or, List.find?_cons_of_pos h]

/-- A controller that becomes ready. -/
theorem fnReady_spec (f : Nat) (s : State) :
    (fnOf (fnReady f s) f) = { fnOf s f with rdy := true, cfs := false, pp := false, cfgReset := false } ∧
    sqOf (fnReady f s) f 0 =
      some { func := f, id := 0, cq := 0, size := fld (fnOf s f).aqa 11 0 + 1, prio := 0, base := (fnOf s f).asq.toNat } ∧
    cqOf (fnReady f s) f 0 =
      some { func := f, id := 0, size := fld (fnOf s f).aqa 27 16 + 1, vec := 0, ien := true, base := (fnOf s f).acq.toNat } ∧
    fnReady f s = { s with fns := (fnReady f s).fns, sqs := (fnReady f s).sqs, cqs := (fnReady f s).cqs, fw := (fnReady f s).fw } := by
  have hfuse := fuseRaise_frame s
  have hfn : fnOf (fuseRaise s) f = fnOf s f := by rw [hfuse]; rfl
  unfold fnReady
  generalize fuseRaise s = u at hfuse hfn
  dsimp only
  rw [hfn]
  refine ⟨(fnOf_modFn_same u f (fun fn => { fn with rdy := true, cfs := false, pp := false, cfgReset := false })).trans (by rw [hfn]), ?_, ?_, ?_⟩
  · have hlast := find?_filter_not_append (p := fun q : Sq => decide (q.func = f ∧ q.id = 0))
      (a := { func := f, id := 0, cq := 0, size := fld (fnOf s f).aqa 11 0 + 1, prio := 0, base := (fnOf s f).asq.toNat })
      (by simp) u.sqs
    simpa [sqOf] using hlast
  · have hlast := find?_filter_not_append (p := fun q : Cq => decide (q.func = f ∧ q.id = 0))
      (a := { func := f, id := 0, size := fld (fnOf s f).aqa 27 16 + 1, vec := 0, ien := true, base := (fnOf s f).acq.toNat })
      (by simp) u.cqs
    simpa [cqOf] using hlast
  · rw [hfuse]
    rfl

/-- A CC.EN written that takes effect. -/
theorem ctrlEnable_of_served {f : Nat} {ams : BitVec 3} {s : State} (hen : (fnOf s f).en = false) (hpresent : fnPresent s f = true)
    (hdrain : (fnOf s f).drain = none) (hserved : served s = true) (hact : s.fw.act = none) : ctrlEnable f ams s = enableFn f ams.toNat s := by
  have hstage : s.md.stage = 8 := by
    simp only [served, Bool.and_eq_true, decide_eq_true_eq] at hserved
    exact hserved.1.1
  unfold ctrlEnable
  dsimp only
  rw [if_neg (by simp [hen, hpresent, hdrain]), if_neg (by simp [hstage, hact]), if_neg (not_not_intro hserved)]

/-- CC.EN with an arbitration mechanism that CAP reports, of the PF or of an Enabled tenant. -/
theorem enableFn_of_ok {f ams : Nat} {s : State} (hams : ams ≤ 1) (howner : f = 0 ∨ (tnOf s (f - 1)).st = .enabled) :
    enableFn f ams s = fnReady f (modFn f (fun fn => { fn with en := true, ams := ams, enHeld := false }) s) := by
  unfold enableFn
  rw [if_neg (Nat.not_lt_of_le hams)]
  dsimp only
  rw [if_pos (howner.imp_right .inl)]

/-- During START the write is held. -/
theorem ctrlEnable_of_start {f : Nat} {ams : BitVec 3} {s : State} (hen : (fnOf s f).en = false) (hpresent : fnPresent s f = true)
    (hdrain : (fnOf s f).drain = none) (hstart : s.md.stage ≠ 8) :
    ctrlEnable f ams s = modFn f (fun fn => { fn with enHeld := true, ams := ams.toNat }) s := by
  unfold ctrlEnable
  dsimp only
  rw [if_neg (by simp [hen, hpresent, hdrain]), if_pos (.inl hstart)]

/-! ### Links -/

/-- A link that comes up without a change of the serving port. -/
theorem exec_linkUp_of_settled {p : Nat} {s : State} (hperst : (if p = 0 then s.pin.perst else s.pin.perst1) = false)
    (hport : p = 1 → s.pin.dual = true) (hphys : physOff s = false) (hserving : servingOf (setLink p true s) = (setLink p true s).pin.serving) :
    exec (.linkUp p) s = .next (setLink p true s) := by
  have hgo : ¬ ((if p = 0 then s.pin.perst else s.pin.perst1) = true ∨ (p = 1 ∧ ¬ s.pin.dual = true) ∨ physOff s = true) := by
    rw [hperst, hphys]
    rintro (h | ⟨hone, hdual⟩ | h)
    · exact Bool.false_ne_true h
    · exact hdual (hport hone)
    · exact Bool.false_ne_true h
  change execLinkUp p s = _
  unfold execLinkUp
  rw [if_neg hgo, portSettle]
  dsimp only
  rw [if_pos hserving]

/-- Settles O10: a drain's end acts on the functions alone; a controller becomes ready past the checks of CC.EN; a link that comes up beside
port 0 changes no serving port. -/
theorem drainsAndEnabling : Obligations.DrainsAndEnabling := by
  refine ⟨⟨fun f k s hdrain hone hidle => ?_, fun f k s hdrain hall hidle => ?_,
    fun f k s r hdrain hrun hopc hpaused hstart hmine => exec_resetDrainDone_of_tenantReset hdrain hrun hopc hpaused hstart hmine⟩,
    fun f ams s hen hpresent hdrain hserved hact => ⟨fun hams howner => ?_, fun hams => ?_⟩,
    fun f ams s hen hpresent hdrain hstart => ?_, fun s hperst hserving hphys => ?_, fun s hperst hdual hup hserving hphys => ?_, fun p s hphys => ?_⟩
  · refine ⟨_, exec_resetDrainDone_of_no_run hdrain hidle, ?_⟩
    unfold drainDone
    rw [hdrain]
    dsimp only
    rw [if_pos hone]
    rfl
  · exact ⟨_, exec_resetDrainDone_of_no_run hdrain hidle, fnOf_drainDone_all hdrain hall, drainDone_frame f s⟩
  · have hexec : exec (.controllerEnable f ams) s =
        .next (fnReady f (modFn f (fun fn => { fn with en := true, ams := ams.toNat, enHeld := false }) s)) :=
      next_congr ((ctrlEnable_of_served hen hpresent hdrain hserved hact).trans (enableFn_of_ok hams howner))
    have hmod := fnOf_modFn_same s f (fun fn => { fn with en := true, ams := ams.toNat, enHeld := false })
    obtain ⟨hfn, hsq, hcq, hframe⟩ := fnReady_spec f (modFn f (fun fn => { fn with en := true, ams := ams.toNat, enHeld := false }) s)
    rw [hmod] at hfn hsq hcq
    refine ⟨_, hexec, by rw [hfn], by rw [hfn], by rw [hfn], hsq, hcq, hframe⟩
  · have hexec : exec (.controllerEnable f ams) s = .next (modFn f (fun fn => { fn with cfs := true }) s) :=
      next_congr ((ctrlEnable_of_served hen hpresent hdrain hserved hact).trans (if_pos hams))
    refine ⟨_, hexec, ?_, ?_, rfl⟩
    · rw [fnOf_modFn_same]
    · rw [fnOf_modFn_same]
      exact hen
  · refine ⟨_, next_congr (ctrlEnable_of_start hen hpresent hdrain hstart), ?_, ?_, rfl⟩
    · rw [fnOf_modFn_same]
    · rw [fnOf_modFn_same]
  · refine exec_linkUp_of_settled hperst (fun h => absurd h (by decide)) hphys ?_
    change (if (s.pin.dual && !true) = true then 1 else 0) = s.pin.serving
    rw [hserving, Bool.not_true, Bool.and_false]
    rfl
  · refine exec_linkUp_of_settled hperst (fun _ => hdual) hphys ?_
    change (if (s.pin.dual && !s.pin.p0Up) = true then 1 else 0) = s.pin.serving
    rw [hserving, hup, Bool.not_true, Bool.and_false]
    rfl
  · change execLinkUp p s = _
    unfold execLinkUp
    rw [if_pos (.inr (.inr hphys))]

end Sys2Proof.Machine


/-!
PROOFS. Resets of functions: what a wake from DOZE, an abandon and a reset of every function change (O8).
-/
namespace Sys2Proof.Machine

open Sys2Proof

/-! ### A wake from DOZE -/

/-- While a transition runs, a request only waits. -/
theorem psRequest_of_trans {n : Nat} {s : State} {t : Trans} (h : s.pwr.trans = some t) :
    psRequest n none s = { s with pwr := (psRequest n none s).pwr } := by
  unfold psRequest
  simp only [h]

/-- In DOZE a transition leaves the mode, the pins and the hold-up bank. -/
theorem psBegin_of_doze {n : Nat} {w : Option PsWaiter} {s : State} (h : s.md.cur = .doze) :
    psBegin n w s = { s with pwr := (psBegin n w s).pwr, chans := (psBegin n w s).chans, dram := (psBegin n w s).dram } := by
  have hrun : ¬ (3 ≤ n ∧ s.md.cur = .run) := by simp [h]
  unfold psBegin
  dsimp only
  rw [if_neg hrun]
  split <;> rfl

/-- In DOZE taking the pending state leaves the mode, the pins and the hold-up bank. -/
theorem psTake_of_doze {s : State} (h : s.md.cur = .doze) :
    psTake s = { s with pwr := (psTake s).pwr, chans := (psTake s).chans, dram := (psTake s).dram } := by
  unfold psTake
  dsimp only
  rw [psBegin_of_doze (by exact h)]

/-- In DOZE a request for another state touches no waiting completion. -/
theorem psRequest_of_doze {n : Nat} {s : State} (h : s.md.cur = .doze) (htrans : s.pwr.trans = none) (hn : n ≠ s.pwr.cur) :
    psRequest n none s = { s with pwr := (psRequest n none s).pwr, chans := (psRequest n none s).chans, dram := (psRequest n none s).dram } := by
  unfold psRequest
  simp only [htrans, if_neg hn]
  split
  · rw [psTake_of_doze (by exact h)]
  · rfl

/-- A reset that wakes the device from DOZE changes the power manager, the channels and the DRAM ranks alone. -/
theorem dozeWake_shape (s : State) : dozeWake s = { s with pwr := (dozeWake s).pwr, chans := (dozeWake s).chans, dram := (dozeWake s).dram } := by
  unfold dozeWake wakeDoze
  split
  · next t ht =>
    split
    · dsimp only
      rw [psRequest_of_trans ht]
    · split
      · rw [psRequest_of_trans ht]
      · rfl
  · next ht =>
    split
    · next hd => rw [psRequest_of_doze (by exact hd.1) (by exact ht) (by exact Ne.symm hd.2)]
    · rfl

/-! ### What an abandon keeps -/

/-- An abandon notes at most that a cached block is kept. -/
theorem cacheKept_abandon (fs : Nat → Bool) (s : State) : CacheKept s (abandon fs s) := by
  unfold abandon
  extract_lets mine s1 s2
  have h1 : s1.cache = s.cache := by
    simp only [s1]
    rw [foldl_discard_frame]
  have h2 : (lockSetEnd { s2 with
      cmds := s2.cmds.filter fun c => !fs c.id.func,
      rjobs := s2.rjobs.map fun e => (e.1, e.2.map fun r => { r with ids := r.ids.filter fun i => !fs i.func }) }).cache = s2.cache := by
    rw [lockSetEnd_frame]
  unfold CacheKept
  rw [h2, ← h1]
  change (s1.cache.map _).map _ = _
  rw [List.map_map]
  refine List.map_congr_left fun b _ => ?_
  simp only [Function.comp_apply]
  split <;> rfl

/-- The cache after a step that keeps it. -/
theorem cacheKept_of_eq {s t u : State} (h : CacheKept s t) (e : u.cache = t.cache) : CacheKept s u := by
  unfold CacheKept at *
  rw [e]
  exact h

/-! ### A reset of every function -/

/-- A function's record at a reset of all. -/
def fnAllReset (kind : Nat) (fn : Fn) : Fn :=
  { fnClear true (kind ≤ 4) fn with drain := none, waitRst := fn.waitRst.filter (· = destroyKind) }

/-- What a reset of every function does to the queues and the generations. -/
def allResetDrop (w : State) : State := dropQueues (fun _ => true) (opsOld (fun _ => true) (genStepAll w))

/-- What a reset of every function does to the class defaults. -/
def allResetFields (kind : Nat) (v : State) : State :=
  let s := vDefaults (regsDefault [.c] v)
  { s with fns := tmap {} (fun _ fn => fnAllReset kind fn) s.fns }

/-- What a reset of every function does once the commands are abandoned. -/
def allResetRest (kind : Nat) (w : State) : State :=
  let s := pfMerge kind (allResetFields kind (allResetDrop w))
  let s := modFn 0 (fun fn => { fn with drain := some (16 + kind), nssro := if kind = 7 then true else fn.nssro }) s
  coEnd (resetLast kind 0 s)

theorem pfMerge_frame (kind : Nat) (s : State) :
    pfMerge kind s = { s with fns := (pfMerge kind s).fns, vfEnable := (pfMerge kind s).vfEnable } := by
  unfold pfMerge
  split <;> rfl

/-- A reset of every function that neither waits nor merges. -/
theorem allReset_of_free {kind : Nat} {s : State} (hwaits : resetWaits s = false)
    (hfree : kind = 4 ∨ kind = 6 → (fnOf s 0).drain = none ∧ (fnOf s 0).waitRst = none) :
    allReset kind s = allResetRest kind (abandon (fun _ => true) s) := by
  unfold allReset
  rw [if_neg, if_neg]
  · rfl
  · simp [hwaits]
  · rintro ⟨hkind, hbusy⟩
    obtain ⟨hdrain, hwait⟩ := hfree hkind
    rw [hdrain, hwait] at hbusy
    simp at hbusy

/-- A function with no controller enabled and nothing owed to the host. -/
def FnQuiet (fn : Fn) : Prop := fn.en = false ∧ fn.aers = [] ∧ fn.events = [] ∧ fn.pba = []

theorem fnQuiet_fnFlr {fn : Fn} (h : FnQuiet fn) : FnQuiet (fnFlr fn) := h

/-- A table whose entries are quiet reads a quiet record everywhere. -/
theorem fnQuiet_tget {t : Table Fn} (h : ∀ p ∈ t, FnQuiet p.2) (i : Nat) : FnQuiet (tget {} t i) := by
  induction t with
  | nil => exact ⟨rfl, rfl, rfl, rfl⟩
  | cons p t ih =>
    rw [tget_cons]
    split
    · exact h p (List.mem_cons_self ..)
    · exact ih fun q hq => h q (List.mem_cons_of_mem _ hq)

/-- The entries of a rewritten table are rewritten entries. -/
theorem mem_tmap {α : Type} [DecidableEq α] {d : α} {F : Nat → α → α} {t : Table α} {p : Nat × α} (h : p ∈ tmap d F t) :
    ∃ q ∈ t, p.2 = F q.1 q.2 := by
  obtain ⟨q, hq, rfl⟩ := List.mem_map.mp (List.mem_filter.mp h).1
  exact ⟨q, hq, rfl⟩

/-- The entries after a reset of every function are quiet, whatever PCIe resets with it. -/
theorem fnQuiet_pfMerge {kind : Nat} {s : State} (h : ∀ p ∈ s.fns, FnQuiet p.2) : ∀ p ∈ (pfMerge kind s).fns, FnQuiet p.2 := by
  unfold pfMerge
  split
  · intro p hp
    obtain ⟨q, hq, hpq⟩ := mem_tmap (F := fun _ fn => fnFlr fn) hp
    rw [hpq]
    exact fnQuiet_fnFlr (h q hq)
  · exact h

/-- Every function is quiet after a reset of all. -/
theorem fnQuiet_allResetRest (kind : Nat) (w : State) (f : Nat) : FnQuiet (fnOf (allResetRest kind w) f) := by
  unfold allResetRest
  extract_lets s4 s5
  have h3 : ∀ p ∈ (allResetFields kind (allResetDrop w)).fns, FnQuiet p.2 := by
    intro p hp
    obtain ⟨q, -, hpq⟩ := mem_tmap (F := fun _ fn => fnAllReset kind fn) hp
    rw [hpq]
    exact ⟨rfl, rfl, rfl, rfl⟩
  have h4 : ∀ f, FnQuiet (fnOf s4 f) := fnQuiet_tget (fnQuiet_pfMerge h3)
  change FnQuiet (fnOf s5 f)
  by_cases hf : 0 = f
  · subst hf
    simp only [s5]
    rw [fnOf_modFn_same]
    exact h4 0
  · simp only [s5]
    rw [fnOf_modFn_ne _ _ hf]
    exact h4 f

/-- The PF drains after a reset of all. -/
theorem fnOf_zero_allResetRest (kind : Nat) (w : State) :
    (fnOf (allResetRest kind w) 0).drain = some (16 + kind) ∧ (kind = 7 → (fnOf (allResetRest kind w) 0).nssro = true) := by
  unfold allResetRest
  extract_lets s4 s5
  change (fnOf s5 0).drain = _ ∧ (_ → (fnOf s5 0).nssro = true)
  simp only [s5]
  rw [fnOf_modFn_same]
  exact ⟨rfl, fun h => if_pos h⟩

theorem opsOld_frame (fs : Nat → Bool) (s : State) : opsOld fs s = { s with ops := (opsOld fs s).ops } := rfl

/-- A reset of all steps every generation and deletes the queues. -/
theorem allResetDrop_frame (w : State) : allResetDrop w =
    { w with gens := tgen 0 1025 (fun f => genOf w f + 1), sqs := w.sqs.filter (fun _ => false),
             cqs := w.cqs.filter (fun _ => false), ops := (allResetDrop w).ops } := by
  have h := opsOld_frame (fun _ => true) (genStepAll w)
  unfold allResetDrop
  generalize opsOld (fun _ => true) (genStepAll w) = u at h ⊢
  generalize u.ops = o at h
  subst h
  unfold genStepAll dropQueues
  simp only [Bool.not_true]

theorem regsDefault_frame (cs : List Cls) (s : State) : regsDefault cs s = { s with regs := (regsDefault cs s).regs } := rfl

theorem vDefaults_frame (s : State) : vDefaults s =
    { s with
      regs := (vDefaults s).regs, rsv := (vDefaults s).rsv, wvTop := (vDefaults s).wvTop, wvVf := (vDefaults s).wvVf, fltcMiss := (vDefaults s).fltcMiss,
      cdc := (vDefaults s).cdc, suspCount := (vDefaults s).suspCount, suspExh := (vDefaults s).suspExh, cip := (vDefaults s).cip,
      chans := (vDefaults s).chans, dram := (vDefaults s).dram, sram := (vDefaults s).sram, pace := (vDefaults s).pace,
      fns := (vDefaults s).fns } := rfl

/-- The class defaults of a reset of all are of the registers, the counters and the functions' records. -/
theorem allResetFields_frame (kind : Nat) (v : State) : allResetFields kind v =
    { v with
      regs := (allResetFields kind v).regs, rsv := (allResetFields kind v).rsv, wvTop := (allResetFields kind v).wvTop,
      wvVf := (allResetFields kind v).wvVf, fltcMiss := (allResetFields kind v).fltcMiss,
      cdc := (allResetFields kind v).cdc, suspCount := (allResetFields kind v).suspCount, suspExh := (allResetFields kind v).suspExh,
      cip := (allResetFields kind v).cip,
      chans := (allResetFields kind v).chans, dram := (allResetFields kind v).dram, sram := (allResetFields kind v).sram,
      pace := (allResetFields kind v).pace, fns := (allResetFields kind v).fns } := by
  have h := vDefaults_frame (regsDefault [.c] v)
  unfold allResetFields
  dsimp only
  generalize vDefaults (regsDefault [.c] v) = u at h ⊢
  rw [h, regsDefault_frame]

/-- A reset of all changes nothing else but the record of the last reset, the Crypto Officer role and VF Enable. -/
theorem allResetRest_frame (kind : Nat) (w b : State) (hb : allResetFields kind (allResetDrop w) = b) : allResetRest kind w =
    { b with
      fns := (allResetRest kind w).fns, vfEnable := (pfMerge kind b).vfEnable,
      md := (resetLast kind 0 b).md, co := (coEnd b).co } := by
  unfold allResetRest
  rw [hb]
  dsimp only
  rw [pfMerge_frame]
  rfl

/-- VF Enable stays but at a PF FLR. -/
theorem pfMerge_vfEnable (kind : Nat) (s : State) : (pfMerge kind s).vfEnable = if kind = 4 then false else s.vfEnable := by
  unfold pfMerge
  split <;> rfl

/-- What a reset of every function leaves, the wake from DOZE with it. -/
theorem allResetDone_of_free {kind : Nat} {s u : State} (hwaits : resetWaits u = false)
    (hfree : kind = 4 ∨ kind = 6 → (fnOf u 0).drain = none ∧ (fnOf u 0).waitRst = none) (hu : u = { s with pin := u.pin }) :
    AllResetDone kind s (dozeWake (allReset kind u)) ∧
      (dozeWake (allReset kind u)).vfEnable = (if kind = 4 then false else s.vfEnable) ∧
      (kind = 7 → (fnOf (dozeWake (allReset kind u)) 0).nssro = true) ∧
      (dozeWake (allReset kind u)).pin = u.pin := by
  rw [dozeWake_shape, allReset_of_free hwaits hfree]
  have hframe := abandon_frame (fun _ => true) u
  have hcmds := abandon_cmds (fun _ => true) u
  have hcache : CacheKept s (abandon (fun _ => true) u) := by
    have h := cacheKept_abandon (fun _ => true) u
    unfold CacheKept at h ⊢
    rw [h, hu]
  have hmbx : s.mbx.run = none → (abandon (fun _ => true) u).mbx = s.mbx := fun h => by
    rw [(abandon_norun _ u (by rw [hu]; exact h)).1, hu]
  generalize abandon (fun _ => true) u = w at *
  obtain ⟨hdrain, hnssro⟩ := fnOf_zero_allResetRest kind w
  have hquiet := fnQuiet_allResetRest kind w
  have hdrop := allResetDrop_frame w
  have hfields := allResetFields_frame kind (allResetDrop w)
  have hrest := allResetRest_frame kind w _ rfl
  rw [pfMerge_vfEnable] at hrest
  generalize allResetRest kind w = t at *
  generalize allResetFields kind (allResetDrop w) = b at *
  generalize allResetDrop w = v at *
  have hgens : t.gens = tgen 0 1025 (fun f => genOf w f + 1) := by rw [hrest, hfields, hdrop]
  have hcmd : t.cmds = w.cmds := by rw [hrest, hfields, hdrop]
  have hsq : t.sqs = w.sqs.filter (fun _ => false) := by rw [hrest, hfields, hdrop]
  have hcq : t.cqs = w.cqs.filter (fun _ => false) := by rw [hrest, hfields, hdrop]
  have hmd : t.md = (resetLast kind 0 w).md := by
    rw [hrest, hfields, hdrop]
    rfl
  have hco : t.co.role = false := by
    rw [hrest]
    rfl
  have hca : t.cache = w.cache := by rw [hrest, hfields, hdrop]
  have hnss : t.nss = w.nss := by rw [hrest, hfields, hdrop]
  have htn : t.tenants = w.tenants := by rw [hrest, hfields, hdrop]
  have hvault : t.vault = w.vault := by rw [hrest, hfields, hdrop]
  have hm : t.mbx = w.mbx := by rw [hrest, hfields, hdrop]
  have hpin : t.pin = w.pin := by rw [hrest, hfields, hdrop]
  have hvf : t.vfEnable = if kind = 4 then false else w.vfEnable := by rw [hrest, hfields, hdrop]
  refine ⟨⟨?_, ⟨?_, ?_, ?_⟩, hquiet, hdrain, ?_, ?_, ?_, hco, ?_, ?_, ?_, ?_, ?_⟩, ?_, hnssro, ?_⟩
  · intro f hf
    change tget 0 t.gens f = _
    rw [hgens, tget_tgen, if_pos (by omega), hframe, hu]
    rfl
  · change t.cmds = []
    rw [hcmd, hcmds]
    simp
  · change t.sqs = []
    rw [hsq]
    simp
  · change t.cqs = []
    rw [hcq]
    simp
  · change t.md.rlKind = kind
    rw [hmd]
    rfl
  · change t.md.rlFunc = 0
    rw [hmd]
    rfl
  · change t.md.rlCount = _
    rw [hmd, hframe, hu]
    rfl
  · exact cacheKept_of_eq hcache hca
  · change t.nss = _
    rw [hnss, hframe, hu]
  · change t.tenants = _
    rw [htn, hframe, hu]
  · change t.vault = _
    rw [hvault, hframe, hu]
  · intro hrun
    exact hm.trans (hmbx hrun)
  · change t.vfEnable = _
    rw [hvf, hframe, hu]
  · change t.pin = _
    rw [hpin, hframe]

/-! ### O8 -/

/-- A PF FLR that meets a reset of every function not yet done merges with it. -/
theorem allReset_of_merge {s : State} (hdrain : (fnOf s 0).drain.isSome = true) : allReset 4 s = pfMerge 4 s := by
  unfold allReset
  exact if_pos ⟨.inl rfl, .inl hdrain⟩

/-- A hot reset while functions are served. -/
theorem hotReset_of_served {s : State} (h : served s = true) : hotReset s = dozeWake (allReset 3 s) := if_pos h

/-- Settles O8: the commands are abandoned, every function's record is rebuilt quiet, and a wake from DOZE touches the power manager
alone. -/
theorem allFunctionResets : Obligations.AllFunctionResets := by
  unfold Obligations.AllFunctionResets
  intro s hserved hwaits
  have hstage : s.md.stage = 8 := by
    simp only [served, Bool.and_eq_true, decide_eq_true_eq] at hserved
    exact hserved.1.1
  refine ⟨?_, ?_, ?_, ?_, ?_, ?_⟩
  · intro hdrain hwait
    obtain ⟨hdone, hvf, -, -⟩ := allResetDone_of_free (kind := 4) hwaits (fun _ => ⟨hdrain, hwait⟩) rfl
    refine ⟨_, next_congr (if_pos hserved), hdone, hvf⟩
  · intro hdrain
    refine ⟨_, next_congr (if_pos hserved), ?_⟩
    rw [dozeWake_shape, allReset_of_merge hdrain]
    exact ⟨rfl, rfl, rfl, rfl, rfl, rfl, rfl⟩
  · obtain ⟨hdone, hvf, hnssro, -⟩ := allResetDone_of_free (kind := 7) hwaits (by simp) rfl
    exact ⟨_, next_congr (if_pos hserved), hdone, hvf, hnssro rfl⟩
  · intro hdrain hwait hen
    obtain ⟨hdone, hvf, -, -⟩ := allResetDone_of_free (kind := 6) hwaits (fun _ => ⟨hdrain, hwait⟩) rfl
    refine ⟨_, next_congr ?_, hdone, hvf⟩
    unfold ctrlReset
    rw [if_neg (not_not_intro hstage), if_neg (by simp [hserved, hen, fnPresent]), if_pos rfl]
  · intro p hp
    obtain ⟨hdone, -, -, hpin⟩ := allResetDone_of_free (kind := 3) (s := s)
      (u := { setLink p false s with pin := { (setLink p false s).pin with serving := servingOf (setLink p false s) } })
      (by rw [setLink_frame]; exact hwaits) (by simp) (by rw [setLink_frame])
    have hserved' : served { setLink p false s with pin := { (setLink p false s).pin with serving := servingOf (setLink p false s) } } = true := by
      rw [setLink_frame]
      exact hserved
    refine ⟨_, ?_, hdone, ?_⟩
    · change execLinkDownHotReset p s = _
      unfold execLinkDownHotReset
      dsimp only
      rw [if_neg (not_not_intro hp), hotReset_of_served hserved']
    · rw [hpin]
      unfold setLink
      split <;> rfl
  · intro hport
    obtain ⟨hdone, -, -, hpin⟩ := allResetDone_of_free (kind := 3) (s := s)
      (u := { s with pin := { s.pin with serving := servingOf s } }) hwaits (by simp) rfl
    refine ⟨_, next_congr ?_, hdone, congrArg Pin.serving hpin⟩
    unfold portSettle
    dsimp only
    rw [if_neg hport, hotReset_of_served (by exact hserved)]

end Sys2Proof.Machine


/-!
PROOFS. Resets of one VF, and VF Enable (O9).
-/
namespace Sys2Proof.Machine

open Sys2Proof

/-! ### What a message to the PF leaves of the functions -/

/-- Every function but the PF is as before, and no reset of the PF has begun or ended. -/
def PfMessaged (s t : State) : Prop :=
  (∀ g, g ≠ 0 → fnOf t g = fnOf s g) ∧ (fnOf t 0).drain = (fnOf s 0).drain ∧ (fnOf t 0).waitRst = (fnOf s 0).waitRst

theorem PfMessaged.of_fns {s t : State} (h : t.fns = s.fns) : PfMessaged s t := by
  unfold PfMessaged fnOf
  rw [h]
  exact ⟨fun _ _ => rfl, rfl, rfl⟩

/-- A change of the PF's record that keeps its resets. -/
theorem pfMessaged_modFn (g : Fn → Fn) (s : State) (hdrain : (g (fnOf s 0)).drain = (fnOf s 0).drain)
    (hwait : (g (fnOf s 0)).waitRst = (fnOf s 0).waitRst) : PfMessaged s (modFn 0 g s) := by
  refine ⟨fun f hf => fnOf_modFn_ne _ _ (Ne.symm hf), ?_, ?_⟩
  · rw [fnOf_modFn_same, hdrain]
  · rw [fnOf_modFn_same, hwait]

theorem PfMessaged.trans {s t u : State} (h : PfMessaged s t) (k : PfMessaged t u) : PfMessaged s u := by
  obtain ⟨h1, h2, h3⟩ := h
  obtain ⟨k1, k2, k3⟩ := k
  exact ⟨fun g hg => (k1 g hg).trans (h1 g hg), k2.trans h2, k3.trans h3⟩

theorem pfMessaged_emit (x : Xfer) {s t : State} (h : PfMessaged s t) : PfMessaged s (emit x t) := h.trans (.of_fns rfl)

theorem pfMessaged_msiSend (v : Nat) (c : Bool) (s : State) : PfMessaged s (msiSend 0 v c s) := by
  unfold msiSend
  exact pfMessaged_emit _ (pfMessaged_modFn _ s rfl rfl)

theorem pfMessaged_msiBudget (v : Nat) (s : State) : PfMessaged s (msiBudget 0 v s) := by
  unfold msiBudget
  extract_lets fn
  split
  · exact pfMessaged_msiSend ..
  · split
    · exact pfMessaged_msiSend ..
    · split
      · exact .of_fns rfl
      · exact pfMessaged_modFn _ s rfl rfl

theorem pfMessaged_msiOwe (v : Nat) (u : Bool) (s : State) : PfMessaged s (msiOwe 0 v u s) := by
  unfold msiOwe
  extract_lets fn
  split
  · exact pfMessaged_modFn _ s rfl rfl
  · split
    · exact pfMessaged_msiSend ..
    · exact pfMessaged_msiBudget v s

theorem pfMessaged_mbxStop (st : MbxSt) (code : Nat) (res : List (Nat × W32)) (s : State) : PfMessaged s (mbxStop st code res s) := by
  unfold mbxStop
  extract_lets notify m s1
  split
  · exact (PfMessaged.of_fns (t := s1) rfl).trans (pfMessaged_msiOwe 0 false s1)
  · exact .of_fns rfl

theorem pfMessaged_lockSetEnd (s : State) : PfMessaged s (lockSetEnd s) := by
  unfold lockSetEnd
  split
  · exact .of_fns rfl
  · split
    · exact .of_fns rfl
    · extract_lets i l s1
      exact (PfMessaged.of_fns (t := s1) (by simp only [s1]; split <;> rfl)).trans (pfMessaged_mbxStop ..)

/-- An abandon can end a lock request, whose message goes to the PF. -/
theorem pfMessaged_abandon (fs : Nat → Bool) (s : State) : PfMessaged s (abandon fs s) := by
  obtain ⟨v, hv, hframe⟩ := abandon_shape fs s
  rw [hv]
  exact (PfMessaged.of_fns (by rw [hframe])).trans (pfMessaged_lockSetEnd v)

/-! ### The reset of one VF -/

/-- What a reset of VF `f` does to its queues and its generation. -/
def vfResetDrop (f : Nat) (w : State) : State := dropQueues (fun g => g = f) (opsOld (fun g => g = f) (genStep f w))

/-- What a reset of VF `f` does to its record. -/
def vfResetRecord (kind f : Nat) (v : State) : State :=
  fnMerge kind f (modFn f (fun fn => { fnClear false (kind = 5) fn with drain := some kind, en := false }) v)

/-- What a reset of VF `f` does once its commands are abandoned. -/
def vfResetRest (kind f : Nat) (w : State) : State :=
  let s := vfResetRecord kind f (vfResetDrop f w)
  resetLast kind f { s with wvVf := tset {} s.wvVf f { (tget {} s.wvVf f) with sel := 1 } }

/-- A reset of a VF that neither waits nor merges. -/
theorem vfReset_of_free {kind f : Nat} {s : State} (hdrain : (fnOf s f).drain = none) (hwait : (fnOf s f).waitRst = none)
    (hpfDrain : (fnOf s 0).drain = none) (hpfWait : (fnOf s 0).waitRst = none) (hgen : genInUse s f (genOf s f + 1) = false) :
    vfReset kind f s = vfResetRest kind f (abandon (fun g => g = f) s) := by
  unfold vfReset
  rw [if_neg (by simp [hdrain, hwait, hpfDrain, hpfWait]), if_neg (by rw [hgen]; exact Bool.false_ne_true)]
  rfl

theorem fnMerge_frame (kind f : Nat) (s : State) : fnMerge kind f s = { s with fns := (fnMerge kind f s).fns } := by
  unfold fnMerge
  split <;> rfl

theorem vfResetRecord_frame (kind f : Nat) (s : State) : vfResetRecord kind f s = { s with fns := (vfResetRecord kind f s).fns } := by
  unfold vfResetRecord
  rw [fnMerge_frame, modFn_frame]

/-- A reset of VF `f` steps its generation and deletes its queues. -/
theorem vfResetDrop_frame (f : Nat) (w : State) : vfResetDrop f w =
    { w with
      gens := tset 0 w.gens f (genOf w f + 1), sqs := w.sqs.filter (fun q => !decide (q.func = f)),
      cqs := w.cqs.filter (fun q => !decide (q.func = f)), ops := (vfResetDrop f w).ops } := by
  have h := opsOld_frame (fun g => g = f) (genStep f w)
  unfold vfResetDrop
  generalize opsOld (fun g => g = f) (genStep f w) = u at h ⊢
  generalize u.ops = o at h
  subst h
  unfold genStep dropQueues
  dsimp only

/-- A reset of VF `f` is the last reset recorded. -/
theorem vfResetRest_frame (kind f : Nat) (w : State) : vfResetRest kind f w =
    { vfResetDrop f w with
      fns := (vfResetRest kind f w).fns, wvVf := (vfResetRest kind f w).wvVf, md := (resetLast kind f (vfResetDrop f w)).md } := by
  have h := vfResetRecord_frame kind f (vfResetDrop f w)
  unfold vfResetRest resetLast
  dsimp only
  generalize vfResetRecord kind f (vfResetDrop f w) = u at h ⊢
  generalize u.fns = x at h
  subst h
  rfl

/-- The functions' records after a reset of VF `f`. -/
theorem fnOf_vfResetRest (kind f g : Nat) (w : State) :
    fnOf (vfResetRest kind f w) g = fnOf (vfResetRecord kind f (vfResetDrop f w)) g := rfl

/-- The functions' records stay while queues are dropped. -/
theorem fnOf_vfResetDrop (f g : Nat) (w : State) : fnOf (vfResetDrop f w) g = fnOf w g := by
  unfold fnOf
  rw [vfResetDrop_frame]

/-- A reset of VF `f` changes its record alone. -/
theorem fnOf_vfResetRest_ne {kind f g : Nat} (w : State) (h : f ≠ g) : fnOf (vfResetRest kind f w) g = fnOf w g := by
  rw [fnOf_vfResetRest, ← fnOf_vfResetDrop f g w]
  generalize vfResetDrop f w = s
  unfold vfResetRecord fnMerge
  split
  · rw [fnOf_modFn_ne _ _ h, fnOf_modFn_ne _ _ h]
  · rw [fnOf_modFn_ne _ _ h]

/-- The record of a VF just reset. -/
theorem fnOf_vfResetRest_same (kind f : Nat) (w : State) :
    (fnOf (vfResetRest kind f w) f).en = false ∧ (fnOf (vfResetRest kind f w) f).aers = [] ∧
    (fnOf (vfResetRest kind f w) f).pba = [] ∧ (fnOf (vfResetRest kind f w) f).drain = some kind := by
  rw [fnOf_vfResetRest]
  generalize vfResetDrop f w = s
  unfold vfResetRecord fnMerge
  split
  · rw [fnOf_modFn_same, fnOf_modFn_same]
    exact ⟨rfl, rfl, rfl, rfl⟩
  · rw [fnOf_modFn_same]
    exact ⟨rfl, rfl, rfl, rfl⟩

/-- What a reset of one VF leaves. -/
theorem vfResetDone_of_free {kind v : Nat} {s : State} (hdrain : (fnOf s v).drain = none) (hwait : (fnOf s v).waitRst = none)
    (hpfDrain : (fnOf s 0).drain = none) (hpfWait : (fnOf s 0).waitRst = none) (hgen : genInUse s v (genOf s v + 1) = false) :
    VfResetDone kind v s (vfReset kind v s) := by
  rw [vfReset_of_free hdrain hwait hpfDrain hpfWait hgen]
  have hframe := abandon_frame (fun g => g = v) s
  have hcmds := abandon_cmds (fun g => g = v) s
  have hcache := cacheKept_abandon (fun g => g = v) s
  obtain ⟨hothers, -, -⟩ := pfMessaged_abandon (fun g => g = v) s
  generalize abandon (fun g => g = v) s = w at *
  obtain ⟨hen, haers, hpba, hdrain⟩ := fnOf_vfResetRest_same kind v w
  have hne := fun g (h : v ≠ g) => fnOf_vfResetRest_ne (kind := kind) w h
  have hrest := vfResetRest_frame kind v w
  have hdrop := vfResetDrop_frame v w
  generalize vfResetRest kind v w = t at *
  generalize vfResetDrop v w = d at *
  have hgens : t.gens = tset 0 s.gens v (genOf s v + 1) := by
    rw [hrest, hdrop, hframe]
    rfl
  have hcmd : t.cmds = w.cmds := by rw [hrest, hdrop]
  have hsq : t.sqs = s.sqs.filter (fun q => !decide (q.func = v)) := by rw [hrest, hdrop, hframe]
  have hcq : t.cqs = s.cqs.filter (fun q => !decide (q.func = v)) := by rw [hrest, hdrop, hframe]
  have hmd : t.md = (resetLast kind v w).md := by
    rw [hrest, hdrop]
    rfl
  have hca : t.cache = w.cache := by rw [hrest, hdrop]
  have hnss : t.nss = s.nss := by rw [hrest, hdrop, hframe]
  have htn : t.tenants = s.tenants := by rw [hrest, hdrop, hframe]
  have hvault : t.vault = s.vault := by rw [hrest, hdrop, hframe]
  refine ⟨?_, ?_, ?_, ?_, ?_, hen, haers, hpba, hdrain, ?_, ?_, ?_, cacheKept_of_eq hcache hca, hnss, htn, hvault⟩
  · change tget 0 t.gens v = _
    rw [hgens, tget_tset_same]
  · intro g hg
    change tget 0 t.gens g = _
    rw [hgens, tget_tset_ne _ _ (Ne.symm hg)]
    rfl
  · change t.cmds = _
    rw [hcmd, hcmds]
    simp
  · change t.sqs = _
    rw [hsq]
    simp
  · change t.cqs = _
    rw [hcq]
    simp
  · intro g hgv hg0
    exact (hne g (Ne.symm hgv)).trans (hothers g hg0)
  · change t.md.rlKind = kind
    rw [hmd]
    rfl
  · change t.md.rlFunc = v
    rw [hmd]
    rfl

/-- A wake from DOZE keeps what a reset of one VF leaves. -/
theorem vfResetDone_dozeWake {kind v : Nat} {s t : State} (h : VfResetDone kind v s t) : VfResetDone kind v s (dozeWake t) := by
  rw [dozeWake_shape]
  exact h

/-! ### The clearing of VF Enable -/

/-- No operation, run or job is in the device. -/
def Jobless (s : State) : Prop := s.ops = [] ∧ s.runs = [] ∧ s.rjobs = [] ∧ s.jobs = []

/-- An abandon brings no operation and no job. -/
theorem jobless_abandon {fs : Nat → Bool} {s : State} (h : Jobless s) : Jobless (abandon fs s) := by
  obtain ⟨hops, hruns, hrjobs, hjobs⟩ := h
  have hframe := abandon_frame fs s
  refine ⟨?_, ?_, ?_, ?_⟩
  · rw [hframe]
    exact hops
  · rw [hframe]
    exact hruns
  · unfold abandon
    extract_lets mine s1 s2
    have h1 : s1 = { s with zones := s1.zones } := foldl_discard_frame _ s
    have h2 : s2.rjobs = [] := by
      change s1.rjobs = []
      rw [h1]
      exact hrjobs
    rw [lockSetEnd_frame]
    change s2.rjobs.map _ = []
    rw [h2]
    rfl
  · unfold abandon
    extract_lets mine s1 s2
    have h1 : s1 = { s with zones := s1.zones } := foldl_discard_frame _ s
    rw [lockSetEnd_frame]
    change s1.jobs.map _ = []
    rw [h1]
    change s.jobs.map _ = []
    rw [hjobs]
    rfl

/-- The reset of a VF brings no operation and no job. -/
theorem jobless_vfResetRest {kind f : Nat} {w : State} (h : Jobless w) : Jobless (vfResetRest kind f w) := by
  obtain ⟨hops, hruns, hrjobs, hjobs⟩ := h
  have hdrop : (vfResetDrop f w).ops = [] := by
    change w.ops.map _ = []
    rw [hops]
    rfl
  have hframe := vfResetDrop_frame f w
  rw [vfResetRest_frame]
  refine ⟨hdrop, ?_, ?_, ?_⟩
  · rw [hframe]
    exact hruns
  · rw [hframe]
    exact hrjobs
  · rw [hframe]
    exact hjobs

/-- No generation is in use in a device without operations and jobs but by the cache. -/
theorem genInUse_of_jobless {s : State} {f : Nat} {g : BitVec 16} (h : Jobless s) (hcache : ∀ b ∈ s.cache, b.func = f → b.gen ≠ g) :
    genInUse s f g = false := by
  obtain ⟨hops, hruns, hrjobs, hjobs⟩ := h
  unfold genInUse
  rw [hops, hruns, hrjobs, hjobs]
  simpa using hcache

/-- A kept block has a block of the same function and generation before it. -/
theorem mem_of_cacheKept {s t : State} (h : CacheKept s t) {b : CBlk} (hb : b ∈ t.cache) :
    ∃ b' ∈ s.cache, b'.func = b.func ∧ b'.gen = b.gen := by
  unfold CacheKept at h
  have hmem : { b with kept := false } ∈ s.cache.map fun b => { b with kept := false } := by
    rw [← h]
    exact List.mem_map.mpr ⟨b, hb, rfl⟩
  obtain ⟨b', hb', he⟩ := List.mem_map.mp hmem
  exact ⟨b', hb', (congrArg CBlk.func he :), (congrArg CBlk.gen he :)⟩

/-- The state after VF FLRs of the VFs up to `n`. -/
structure VfsReset (n : Nat) (s t : State) : Prop where
  tenants : t.tenants = s.tenants
  cache : CacheKept s t
  done : ∀ v, v ≠ 0 → v ≤ n → (fnOf t v).drain = some 5 ∧ (fnOf t v).en = false
  pf : (fnOf t 0).drain = (fnOf s 0).drain ∧ (fnOf t 0).waitRst = (fnOf s 0).waitRst
  later : ∀ v, n < v → fnOf t v = fnOf s v ∧ genOf t v = genOf s v
  cmds : t.cmds = s.cmds.filter fun c => c.id.func = 0 ∨ n < c.id.func
  jobless : Jobless t

/-- One more VF FLR. -/
theorem VfsReset.succ {n : Nat} {s t : State} (h : VfsReset n s t)
    (hidle : ∀ v, v ≤ n + 1 → (fnOf s v).drain = none ∧ (fnOf s v).waitRst = none)
    (hcache : ∀ b ∈ s.cache, b.gen ≠ genOf s b.func + 1) : VfsReset (n + 1) s (vfReset 5 (n + 1) t) := by
  obtain ⟨htn, hca, hdone, ⟨hpfDrain, hpfWait⟩, hlater, hcmds, hjobless⟩ := h
  obtain ⟨hfn, hgen⟩ := hlater (n + 1) (by omega)
  obtain ⟨hdrain, hwait⟩ := hidle (n + 1) (Nat.le_refl _)
  obtain ⟨hdrain0, hwait0⟩ := hidle 0 (by omega)
  have huse : genInUse t (n + 1) (genOf t (n + 1) + 1) = false := by
    refine genInUse_of_jobless hjobless fun b hb hf hg => ?_
    obtain ⟨b', hb', hfunc, hbgen⟩ := mem_of_cacheKept hca hb
    refine hcache b' hb' ?_
    rw [hbgen, hg, hgen, hfunc, hf]
  rw [← hfn] at hdrain hwait
  rw [← hpfDrain] at hdrain0
  rw [← hpfWait] at hwait0
  have hreset := vfReset_of_free (kind := 5) hdrain hwait hdrain0 hwait0 huse
  obtain ⟨-, hgens, hcmd, -, -, hen, -, -, hdr, hothers, -, -, hca', -, htn', -⟩ :=
    vfResetDone_of_free (kind := 5) hdrain hwait hdrain0 hwait0 huse
  have hpf : (fnOf (vfReset 5 (n + 1) t) 0).drain = (fnOf t 0).drain ∧ (fnOf (vfReset 5 (n + 1) t) 0).waitRst = (fnOf t 0).waitRst := by
    rw [hreset, fnOf_vfResetRest_ne _ (by omega)]
    exact (pfMessaged_abandon (fun g => g = n + 1) t).2
  have hjob : Jobless (vfReset 5 (n + 1) t) := by
    rw [hreset]
    exact jobless_vfResetRest (jobless_abandon hjobless)
  refine ⟨htn'.trans htn, hca'.trans hca, ?_, ⟨hpf.1.trans hpfDrain, hpf.2.trans hpfWait⟩, ?_, ?_, hjob⟩
  · intro v hv0 hv
    by_cases hlast : v = n + 1
    · rw [hlast]
      exact ⟨hdr, hen⟩
    · rw [hothers v hlast hv0]
      exact hdone v hv0 (by omega)
  · intro v hv
    obtain ⟨h1, h2⟩ := hlater v (by omega)
    exact ⟨(hothers v (by omega) (by omega)).trans h1, (hgens v (by omega)).trans h2⟩
  · rw [hcmd, hcmds, List.filter_filter]
    refine List.filter_congr fun c _ => ?_
    have hiff : (c.id.func ≠ n + 1 ∧ (c.id.func = 0 ∨ n < c.id.func)) ↔ (c.id.func = 0 ∨ n + 1 < c.id.func) := by omega
    rw [Bool.eq_iff_iff]
    simpa using hiff

/-- VF FLRs of the VFs up to `n`, one after another. -/
theorem vfsReset_foldl {n : Nat} {s : State} (hidle : ∀ v, v ≤ n → (fnOf s v).drain = none ∧ (fnOf s v).waitRst = none)
    (hjobless : Jobless s) (hcache : ∀ b ∈ s.cache, b.gen ≠ genOf s b.func + 1) :
    VfsReset n s ((List.range n).foldl (fun s v => vfReset 5 (v + 1) s) s) := by
  induction n with
  | zero =>
    refine ⟨rfl, rfl, fun v hv0 hv => absurd (Nat.le_zero.mp hv) hv0, ⟨rfl, rfl⟩, fun v _ => ⟨rfl, rfl⟩, ?_, hjobless⟩
    exact (List.filter_eq_self.mpr fun c _ => by simp; omega).symm
  | succ n ih =>
    rw [List.range_succ, List.foldl_append]
    exact (ih fun v hv => hidle v (by omega)).succ hidle hcache

/-! ### O9 -/

/-- Settles O9: each reset of a VF abandons its commands and rebuilds its record, which the clearing of VF Enable does for every VF
in turn. -/
theorem vfResets : Obligations.VfResets := by
  unfold Obligations.VfResets
  refine ⟨?_, ?_, ?_, ?_⟩
  · intro s v hserved hv hpresent hdrain hpfDrain hwait hpfWait hgen
    have hstage : s.md.stage = 8 := by
      simp only [served, Bool.and_eq_true, decide_eq_true_eq] at hserved
      exact hserved.1.1
    have hdone := fun kind => vfResetDone_dozeWake (vfResetDone_of_free (kind := kind) hdrain hwait hpfDrain hpfWait hgen)
    refine ⟨⟨_, next_congr (if_pos ⟨hserved, hv, hpresent⟩), hdone 5⟩, fun hen => ⟨_, next_congr ?_, hdone 6⟩⟩
    unfold ctrlReset
    rw [if_neg (not_not_intro hstage), if_neg (by simp [hserved, hen, hpresent]), if_neg hv]
  · intro s hserved hvf hidle hops hruns hrjobs hjobs hcache
    have hon : coreOn s = true := by
      simp only [served, Bool.and_eq_true] at hserved
      exact hserved.1.2
    obtain ⟨htn, hca, hdone, -, -, hcmds, -⟩ := vfsReset_foldl hidle ⟨hops, hruns, hrjobs, hjobs⟩ hcache
    refine ⟨dozeWake { (List.range s.numVfs).foldl (fun s v => vfReset 5 (v + 1) s) s with vfEnable := false }, ?_, ?_⟩
    · change execVfEnableClear s = _
      unfold execVfEnableClear
      rw [if_neg (by simp [hon, hvf]), if_neg (not_not_intro hserved)]
    · rw [dozeWake_shape]
      exact ⟨rfl, htn, hca, hdone, hcmds⟩
  · intro s hserved hon hvf
    change execVfEnableClear s = _
    unfold execVfEnableClear
    rw [if_neg (by simp [hon, hvf]), if_pos (by simp [hserved])]
  · intro n s hvf hon
    exact ⟨{ s with numVfs := n, vfEnable := true }, next_congr (if_neg (by simp [hvf, hon])), rfl, rfl⟩

end Sys2Proof.Machine


/-!
PROOFS. What the operations that change the mode, the power state or a running mailbox command keep: the values of the hold-up bank, the
ZEROIZE_N pin, an idle mailbox, and everything outside their own fields.
-/
namespace Sys2Proof.Machine

open Sys2Proof

/-- What an operation on the mode or the power state keeps. -/
structure ModeKept (s t : State) : Prop where
  frame : t = { s with
    fns := t.fns, sent := t.sent, cmds := t.cmds, cqs := t.cqs, qos := t.qos, ctr := t.ctr, mig := t.mig, locks := t.locks, mbx := t.mbx,
    md := t.md, pwr := t.pwr, hold := t.hold, pin := t.pin, chans := t.chans, dram := t.dram, fw := t.fw, rep := t.rep, luns := t.luns,
    jobs := t.jobs, ops := t.ops, runs := t.runs }
  zeroize : t.pin.zeroize = s.pin.zeroize
  cap : t.hold.cap = s.hold.cap
  vmin : t.hold.vmin = s.hold.vmin
  ceil : t.hold.ceil = s.hold.ceil
  wait : s.hold.waitHoldup = false → t.hold.waitHoldup = false
  mbx : s.mbx.run = none → t.mbx = s.mbx

namespace ModeKept

theorem refl (s : State) : ModeKept s s := ⟨rfl, rfl, rfl, rfl, rfl, fun h => h, fun _ => rfl⟩

theorem trans {s t u : State} (h : ModeKept s t) (k : ModeKept t u) : ModeKept s u := by
  obtain ⟨h1, h2, h3, h4, h5, h6, h7⟩ := h
  obtain ⟨k1, k2, k3, k4, k5, k6, k7⟩ := k
  refine ⟨k1.trans (by rw [h1]), k2.trans h2, k3.trans h3, k4.trans h4, k5.trans h5, fun h => k6 (h6 h), fun h => ?_⟩
  have hm := h7 h
  exact (k7 (by rw [hm]; exact h)).trans hm

/-- `trans` with the later part first, which names the state between. -/
theorem after {s t u : State} (k : ModeKept t u) (h : ModeKept s t) : ModeKept s u := h.trans k

theorem foldl {α : Type} {g : State → α → State} (hg : ∀ s x, ModeKept s (g s x)) (l : List α) (s : State) : ModeKept s (l.foldl g s) := by
  induction l generalizing s with
  | nil => exact refl s
  | cons x l ih => exact (hg s x).trans (ih _)

/-- A conditional step. -/
theorem ite {c : Prop} [Decidable c] {s t : State} (h : ModeKept s t) : ModeKept s (if c then t else s) := by
  split
  · exact h
  · exact refl s

/-- A step that leaves the pins, the hold-up bank and the mailbox. -/
theorem of_frame {s t : State} (h : t = { s with
    fns := t.fns, sent := t.sent, cmds := t.cmds, cqs := t.cqs, qos := t.qos, ctr := t.ctr, mig := t.mig, locks := t.locks, mbx := s.mbx,
    md := t.md, pwr := t.pwr, hold := s.hold, pin := s.pin, chans := t.chans, dram := t.dram, fw := t.fw, rep := t.rep, luns := t.luns,
    jobs := t.jobs, ops := t.ops, runs := t.runs }) : ModeKept s t := by
  have hhold : t.hold = s.hold := (congrArg State.hold h :)
  have hpin : t.pin = s.pin := (congrArg State.pin h :)
  have hmbx : t.mbx = s.mbx := (congrArg State.mbx h :)
  refine ⟨?_, congrArg Pin.zeroize hpin, congrArg Hold.cap hhold, congrArg Hold.vmin hhold, congrArg Hold.ceil hhold, fun k => ?_, fun _ => hmbx⟩
  · rw [hhold, hpin, hmbx]
    exact h
  · rw [hhold]
    exact k

end ModeKept

/-! ### The capacitance test and the mode -/

theorem modeKept_capTest (s : State) : ModeKept s (capTest s) := by
  unfold capTest
  split
  · exact .refl s
  · split
    · exact ⟨rfl, rfl, rfl, rfl, rfl, fun h => h, fun _ => rfl⟩
    · exact ⟨rfl, rfl, rfl, rfl, rfl, fun h => h, fun _ => rfl⟩

theorem modeKept_capTestKept (s : State) : ModeKept s (capTestKept s) := (modeKept_capTest s).ite

theorem modeKept_capTestCut (s : State) : ModeKept s (capTestCut s) :=
  ModeKept.ite ⟨rfl, rfl, rfl, rfl, rfl, fun h => h, fun _ => rfl⟩

theorem modeKept_setMode (m : Mode) (s : State) : ModeKept s (setMode m s) := .of_frame (by rw [setMode_frame])

theorem modeKept_enterHalt (why : Nat) (s : State) : ModeKept s (enterHalt why s) := .of_frame (by rw [enterHalt_frame])

theorem modeKept_leaveRun (m : Mode) (s : State) : ModeKept s (leaveRun m s) :=
  (modeKept_setMode m _).after (modeKept_capTestCut s).ite

/-! ### Power transitions -/

theorem modeKept_psBegin (n : Nat) (w : Option PsWaiter) (s : State) : ModeKept s (psBegin n w s) := by
  unfold psBegin
  extract_lets deep u v
  have hu : ModeKept s u := (modeKept_leaveRun .quiesce s).ite
  have hv : ModeKept u v := ModeKept.ite (.of_frame rfl)
  exact hu.trans (hv.trans (.of_frame rfl))

theorem modeKept_psTake (s : State) : ModeKept s (psTake s) := by
  unfold psTake
  dsimp only
  exact (ModeKept.of_frame rfl).after ((modeKept_psBegin ..).after (.of_frame rfl))

theorem modeKept_afterLong (s : State) : ModeKept s (afterLong s) :=
  (modeKept_psTake _).ite.after (modeKept_capTestKept s)

theorem modeKept_dozeLeave (src : Nat) (s : State) : ModeKept s (dozeLeave src s) := by
  unfold dozeLeave
  split
  · exact .refl s
  · extract_lets p u
    have hu : ModeKept s u := .of_frame (by simp only [u]; split <;> rfl)
    exact hu.trans ((modeKept_psBegin ..).after (.of_frame rfl))

/-! ### Ends of mailbox commands -/

/-- With a command running, its end keeps what a step keeps. -/
theorem modeKept_of_running {s t : State} (hrun : s.mbx.run ≠ none) (h : t = { s with
    fns := t.fns, sent := t.sent, mbx := t.mbx }) : ModeKept s t := by
  have hhold : t.hold = s.hold := (congrArg State.hold h :)
  have hpin : t.pin = s.pin := (congrArg State.pin h :)
  refine ⟨?_, congrArg Pin.zeroize hpin, congrArg Hold.cap hhold, congrArg Hold.vmin hhold, congrArg Hold.ceil hhold, fun k => ?_,
    fun k => absurd k hrun⟩
  · generalize t.fns = a, t.sent = b, t.mbx = c at h
    subst h
    rfl
  · rw [hhold]
    exact k

theorem modeKept_mbxDone {s : State} (hrun : s.mbx.run ≠ none) (res : List (Nat × W32)) : ModeKept s (mbxDone res s) := by
  unfold mbxDone
  split
  · exact modeKept_of_running hrun rfl
  · exact (modeKept_afterLong _).ite.after (modeKept_of_running hrun (mbxStop_frame ..))

theorem modeKept_mbxKill {s : State} (hrun : s.mbx.run ≠ none) (c a o : Nat) : ModeKept s (mbxKill c a o s) :=
  (modeKept_afterLong _).ite.after (modeKept_of_running hrun (mbxStop_frame ..))

theorem modeKept_finish (id : CmdId) (st : Status) (a b : W32) (s : State) : ModeKept s (finish id st a b s) := by
  have h := finish_frame id st a b s
  have hm := fun hrun => mbx_finish_of_no_run (s := s) hrun id st a b
  generalize finish id st a b s = t at *
  have hhold : t.hold = s.hold := (congrArg State.hold h :)
  have hpin : t.pin = s.pin := (congrArg State.pin h :)
  refine ⟨?_, congrArg Pin.zeroize hpin, congrArg Hold.cap hhold, congrArg Hold.vmin hhold, congrArg Hold.ceil hhold, fun k => ?_, hm⟩
  · rw [h]
  · rw [hhold]
    exact k

theorem modeKept_psTell (w : PsWaiter) (s : State) : ModeKept s (psTell w s) := by
  unfold psTell psTellAs
  split
  · split
    · next h => exact modeKept_mbxDone (fun hrun => by simp [hrun] at h) _
    · exact .refl s
  · exact modeKept_finish ..

theorem modeKept_psTellAll (s : State) : ModeKept s (psTellAll s) :=
  (ModeKept.foldl (fun s w => modeKept_psTell w s) _ _).after (.of_frame rfl)

theorem modeKept_psRequest (n : Nat) (w : Option PsWaiter) (s : State) : ModeKept s (psRequest n w s) := by
  unfold psRequest
  dsimp only
  split
  · exact .of_frame rfl
  · split
    · exact (modeKept_psTellAll _).after (.of_frame rfl)
    · exact ((modeKept_psTake _).ite).after (.of_frame rfl)

theorem modeKept_wakeDoze (src : Nat) (s : State) : ModeKept s (wakeDoze src s) := by
  unfold wakeDoze
  split
  · split
    · exact (ModeKept.of_frame rfl).after (modeKept_psRequest ..)
    · exact (modeKept_psRequest ..).ite
  · split
    · exact (modeKept_psRequest ..).after (.of_frame rfl)
    · exact .refl s

theorem modeKept_psAbandon (s : State) : ModeKept s (psAbandon s) :=
  (modeKept_psTellAll _).after (.of_frame rfl)

/-! ### The Vent and the thermal shut-down -/

theorem modeKept_ventMbx (s : State) : ModeKept s (ventMbx s) := by
  unfold ventMbx
  split
  · exact .refl s
  · next r hr =>
    split
    · exact (modeKept_mbxKill (s := ventTestDrop s) (by simp [ventTestDrop, hr]) ..).after
        ⟨rfl, rfl, rfl, rfl, rfl, fun h => h, fun _ => rfl⟩
    · exact modeKept_of_running (by simp [hr]) rfl

theorem modeKept_shutHalt (s : State) : ModeKept s (shutHalt s) := by
  unfold shutHalt
  extract_lets p h u v
  have hu : ModeKept s u := ⟨rfl, rfl, rfl, rfl, rfl, fun h => h, fun _ => rfl⟩
  have hleave : ModeKept u (mbxLeave u) := ⟨rfl, rfl, rfl, rfl, rfl, fun _ => rfl, fun _ => rfl⟩
  have hv : ModeKept s v := hu.trans (hleave.trans ((modeKept_capTestCut _).trans ((modeKept_enterHalt 2 _).trans (modeKept_psAbandon _))))
  split
  · next r hr => exact hv.trans (modeKept_mbxKill (by simp [hr]) ..)
  · exact hv

theorem modeKept_ventLog (e : VEnt) (s : State) : ModeKept s (ventLog e s) := .of_frame rfl

/-- A note of the last cause of a dump's end. -/
theorem modeKept_last (n : Nat) (s : State) : ModeKept s { s with hold := { s.hold with last := n } } :=
  ⟨rfl, rfl, rfl, rfl, rfl, fun h => h, fun _ => rfl⟩

theorem modeKept_ventClose (v : VentRun) (s : State) : ModeKept s (ventClose v s) := by
  unfold ventClose
  dsimp only
  split
  · exact (modeKept_ventLog ..).after (modeKept_last 3 s)
  · split
    · exact (modeKept_shutHalt _).after ((modeKept_ventLog ..).after (modeKept_last 5 s))
    · exact .refl s

theorem modeKept_ventPower (s : State) : ModeKept s (ventPower s) := by
  unfold ventPower
  split
  · split
    · exact .of_frame rfl
    · exact .refl s
  · exact .refl s

theorem modeKept_ventOps (s : State) : ModeKept s (ventOps s) := .of_frame (by rw [ventOps_frame])

theorem modeKept_ventEnter (cause : Nat) (shut perst : Bool) (s : State) : ModeKept s (ventEnter cause shut perst s) := by
  unfold ventEnter
  split
  · dsimp only
    exact (modeKept_ventClose ..).ite.after ⟨rfl, rfl, rfl, rfl, rfl, fun h => h, fun _ => rfl⟩
  · extract_lets m why u
    have hu : ModeKept s u := (modeKept_leaveRun ..).after ((modeKept_ventOps _).after (modeKept_ventPower s))
    refine hu.trans ?_
    unfold holdupIso
    exact ModeKept.after ⟨rfl, rfl, rfl, rfl, rfl, fun h => h, fun _ => rfl⟩
      ((modeKept_ventMbx _).after ⟨rfl, rfl, rfl, rfl, rfl, fun h => h, fun _ => rfl⟩)

theorem modeKept_shutDown (s : State) : ModeKept s (shutDown s) := by
  unfold shutDown
  split
  · exact modeKept_ventEnter ..
  · exact modeKept_ventEnter ..
  · exact modeKept_ventEnter ..
  · dsimp only
    exact (ModeKept.of_frame rfl).after (modeKept_dozeLeave 8 s)
  · exact ⟨rfl, rfl, rfl, rfl, rfl, fun h => h, fun _ => rfl⟩
  · exact modeKept_shutHalt s
  · split
    · exact modeKept_ventEnter ..
    · exact ⟨rfl, rfl, rfl, rfl, rfl, fun h => h, fun _ => rfl⟩

end Sys2Proof.Machine


/-!
PROOFS. ZEROIZE_N (R415 to R418): what the zeroization of every slot leaves of the security functions, and the DRBG after it (O11).
-/
namespace Sys2Proof.Machine

open Sys2Proof

/-! ### What the loss of keys leaves of the security functions -/

/-- The security functions, the record of ZEROIZE_N and the pins are as before. -/
def SecKept (s t : State) : Prop := t.sec = s.sec ∧ t.zer = s.zer ∧ t.pin = s.pin

namespace SecKept

theorem refl (s : State) : SecKept s s := ⟨rfl, rfl, rfl⟩

theorem trans {s t u : State} (h : SecKept s t) (k : SecKept t u) : SecKept s u := by
  obtain ⟨h1, h2, h3⟩ := h
  obtain ⟨k1, k2, k3⟩ := k
  exact ⟨k1.trans h1, k2.trans h2, k3.trans h3⟩

/-- `trans` with the later part first, which names the state between. -/
theorem after {s t u : State} (k : SecKept t u) (h : SecKept s t) : SecKept s u := h.trans k

theorem foldl {α : Type} {g : State → α → State} (hg : ∀ s x, SecKept s (g s x)) (l : List α) (s : State) : SecKept s (l.foldl g s) := by
  induction l generalizing s with
  | nil => exact refl s
  | cons x l ih => exact (hg s x).trans (ih _)

theorem ite {c : Prop} [Decidable c] {s t : State} (h : SecKept s t) : SecKept s (if c then t else s) := by
  split
  · exact h
  · exact refl s

end SecKept

theorem secKept_discardWrite (c : Cmd) (s : State) : SecKept s (discardWrite c s) := by
  rw [discardWrite_frame]
  exact ⟨rfl, rfl, rfl⟩

theorem secKept_finishSt (id : CmdId) (st : Status) (s : State) : SecKept s (finishSt id st s) := by
  rw [finishSt_frame]
  exact ⟨rfl, rfl, rfl⟩

theorem secKept_failSlotWrites (ks : Nat → Bool) (s : State) : SecKept s (failSlotWrites ks s) := by
  unfold failSlotWrites
  dsimp only
  exact (SecKept.foldl (fun _ _ => secKept_finishSt ..) _ _).after (.foldl (fun _ _ => (secKept_discardWrite ..).ite) _ _)

theorem secKept_failR (n : Nat) (st : Status) (s : State) : SecKept s (failR n st s) := by
  rw [failR_frame]
  exact ⟨rfl, rfl, rfl⟩

theorem secKept_failBoundReads (ks : Nat → Bool) (s : State) : SecKept s (failBoundReads ks s) :=
  .foldl (fun _ _ => secKept_failR ..) _ _

theorem secKept_dropSlotData (ks : Nat → Bool) (s : State) : SecKept s (dropSlotData ks s) := by
  unfold dropSlotData
  extract_lets hit lose s1 s2 under jobHit gone loose
  have hlose : ∀ ns lba u, SecKept u (lose ns lba u) := fun ns lba u => by
    simp only [lose]
    exact SecKept.ite ⟨rfl, rfl, rfl⟩
  have h1 : SecKept s s1 := .foldl (fun _ _ => (hlose ..).ite) _ _
  have h2 : SecKept s1 s2 := .foldl (fun _ _ => (SecKept.foldl (fun _ _ => hlose ..) _ _).ite) _ _
  exact (h1.trans h2).trans ⟨rfl, rfl, rfl⟩

theorem secKept_fuaCheck (s : State) : SecKept s (fuaCheck s) := by
  have h := fuaCheck_decideFrame s
  exact ⟨(congrArg State.sec h :), (congrArg State.zer h :), (congrArg State.pin h :)⟩

theorem secKept_markZeroized (ks : Nat → Bool) (s : State) : SecKept s (markZeroized ks s) := ⟨rfl, rfl, rfl⟩

theorem secKept_dropDead (s : State) : SecKept s (dropDead s) := ⟨rfl, rfl, rfl⟩

theorem secKept_wbUpdate (s : State) : SecKept s (wbUpdate s) := by
  obtain ⟨q, hq⟩ := wbUpdate_shape s
  rw [hq]
  exact ⟨rfl, rfl, rfl⟩

/-- A change of the vault and of the cipher engines' keys. -/
theorem secKept_keys (v : Vault) (c : Table Cip) (s : State) : SecKept s { s with vault := v, cip := c } := ⟨rfl, rfl, rfl⟩

theorem secKept_zeroizeSlots (ks : Nat → Bool) (s : State) : SecKept s (zeroizeSlots ks s) := by
  have h1 := secKept_markZeroized ks s
  have h2 := secKept_failSlotWrites ks (markZeroized ks s)
  have h3 := secKept_failBoundReads ks (failSlotWrites ks (markZeroized ks s))
  unfold zeroizeSlots
  dsimp only
  generalize failBoundReads ks (failSlotWrites ks (markZeroized ks s)) = a at *
  have h4 := ((secKept_dropSlotData ks a).trans (secKept_dropDead _)).trans ((secKept_wbUpdate _).trans (secKept_fuaCheck _))
  generalize fuaCheck (wbUpdate (dropDead (dropSlotData ks a))) = b at *
  exact (((h1.trans h2).trans h3).trans h4).trans (secKept_keys ..)

/-! ### The error state -/

/-- The cryptographic error state keeps the vault, the record of ZEROIZE_N and its pin, and ends the Crypto Officer's role. -/
theorem cryptoError_kept (fail engine : Nat) (pass : List Nat) (s : State) : let t := cryptoError fail engine pass s
    t.vault = s.vault ∧ t.zer = s.zer ∧ t.pin.zeroize = s.pin.zeroize ∧ t.co.role = false := by
  have hkept : ∃ u : State, ModeKept u (cryptoError fail engine pass s) ∧ u.vault = s.vault ∧ u.zer = s.zer ∧
      u.pin.zeroize = s.pin.zeroize ∧ u.co.role = false := by
    unfold cryptoError
    rw [waitsEnd_eq]
    extract_lets a b c u
    refine ⟨u, ?_, rfl, rfl, rfl, rfl⟩
    split
    · exact .refl u
    · exact ⟨rfl, rfl, rfl, rfl, rfl, fun h => h, fun _ => rfl⟩
    · exact (modeKept_enterHalt 1 u).ite
    · refine (modeKept_enterHalt 1 _).after ?_
      split
      · exact .refl u
      · exact modeKept_dozeLeave 7 u
    · exact .refl u
    · exact (modeKept_enterHalt 1 _).after (modeKept_capTestCut u)
    · exact modeKept_enterHalt 1 u
    · exact modeKept_enterHalt 1 u
  obtain ⟨u, hu, hvault, hzer, hpin, hco⟩ := hkept
  have hframe := hu.frame
  have h1 : (cryptoError fail engine pass s).vault = u.vault := (congrArg State.vault hframe :)
  have h2 : (cryptoError fail engine pass s).zer = u.zer := (congrArg State.zer hframe :)
  have h3 : (cryptoError fail engine pass s).co = u.co := (congrArg State.co hframe :)
  exact ⟨h1.trans hvault, h2.trans hzer, hu.zeroize.trans hpin, h3 ▸ hco⟩

theorem keysEnd_kept (s : State) : (keysEnd s).vault = s.vault ∧ (keysEnd s).zer = s.zer ∧ (keysEnd s).pin = s.pin ∧ (keysEnd s).co = s.co := by
  unfold keysEnd
  split
  · exact ⟨rfl, rfl, rfl, rfl⟩
  · dsimp only
    rw [foldl_failR_frame, foldl_encrypts_frame]
    · exact ⟨rfl, rfl, rfl, rfl⟩
    · intro u x
      split <;> rfl

/-- The DRBG, erased, either fails its KAT or begins its instantiation. -/
theorem drbgAgain_cases {s : State} (hd : s.sec.drbg = true) (hst : s.sec.st ≠ 2) :
    drbgAgain s = keysEnd (cryptoError 0x0A 0 (katPass (freeNext s)) (freeNext (freeNext s))) ∨
    drbgAgain s = { freeNext s with sec := { s.sec with drbgReqs := 0, drbgSince := now s, fill := 1536 } } := by
  unfold drbgAgain
  rw [if_neg (by simp [hd, hst])]
  by_cases hpass : (freeBitsAt 1 s).getLsbD 0 = true
  · exact .inr (if_neg (not_not_intro hpass))
  · exact .inl (if_pos hpass)

/-- With no DRBG, or in the error state, nothing is instantiated. -/
theorem drbgAgain_of_idle {s : State} (h : ¬ (s.sec.drbg = true ∧ s.sec.st ≠ 2)) : drbgAgain s = s :=
  if_pos (by by_cases hd : s.sec.drbg = true <;> simp_all)

/-- What the erased DRBG leaves of the vault and the security functions. -/
theorem drbgAgain_spec (s : State) (hrole : s.co.role = false) (hsess : s.sec.sessions = []) :
    (drbgAgain s).vault = s.vault ∧ (drbgAgain s).zer = s.zer ∧ (drbgAgain s).pin.zeroize = s.pin.zeroize ∧ (drbgAgain s).co.role = false ∧
    (drbgAgain s).sec.sessions = [] ∧
    (s.sec.drbg = true → s.sec.st ≠ 2 →
      ((drbgAgain s).sec.drbgReqs = 0 ∧ (drbgAgain s).sec.fill = 1536 ∧ (drbgAgain s).sec.st = s.sec.st) ∨
      ((drbgAgain s).sec.st = 2 ∧ (drbgAgain s).sec.fail = 0x0A)) := by
  by_cases hlive : s.sec.drbg = true ∧ s.sec.st ≠ 2
  · obtain ⟨hd, hst⟩ := hlive
    rcases drbgAgain_cases hd hst with h | h
    · obtain ⟨k1, k2, k3, k4⟩ := keysEnd_kept (cryptoError 0x0A 0 (katPass (freeNext s)) (freeNext (freeNext s)))
      obtain ⟨c1, c2, c3, c4⟩ := cryptoError_kept 0x0A 0 (katPass (freeNext s)) (freeNext (freeNext s))
      rw [h, k1, k2, k3, k4, keysEnd_sec, cryptoError_sec]
      exact ⟨c1, c2, c3, c4, rfl, fun _ _ => .inr ⟨rfl, rfl⟩⟩
    · rw [h]
      exact ⟨rfl, rfl, rfl, hrole, hsess, fun _ _ => .inl ⟨rfl, rfl, rfl⟩⟩
  · rw [drbgAgain_of_idle hlive]
    exact ⟨rfl, rfl, rfl, hrole, hsess, fun hd hst => absurd ⟨hd, hst⟩ hlive⟩

/-! ### One assertion of ZEROIZE_N -/

theorem modeKept_mbxZeroize (s : State) : ModeKept s (mbxZeroize s) := by
  unfold mbxZeroize
  split
  · exact .refl s
  · next r hr =>
    extract_lets m u
    have hu : ModeKept s u := modeKept_of_running (by simp [hr]) rfl
    split
    · exact hu.trans (modeKept_mbxKill (s := u) (by simp [u, m, hr]) ..)
    · exact hu

/-- Every key gone from the vault in use (R415). -/
def keysZeroized (s : State) : State :=
  let s := zeroizeAll s
  { s with vault := { s.vault with live := { s.vault.live with co := none } } }

/-- The slots of the vault are those that the zeroization of every slot leaves. -/
theorem keysZeroized_frame (s : State) : keysZeroized s =
    { zeroizeSlots (fun _ => true) s with
      vault := { (zeroizeSlots (fun _ => true) s).vault with
        live := { (zeroizeSlots (fun _ => true) s).vault.live with kek := none, mig := none, co := none }, staged := none, words := [] } } := by
  unfold keysZeroized zeroizeAll
  dsimp only

theorem secKept_keysZeroized (s : State) : SecKept s (keysZeroized s) := by
  have h := secKept_zeroizeSlots (fun _ => true) s
  rw [keysZeroized_frame]
  generalize zeroizeSlots (fun _ => true) s = t at *
  exact h.trans ⟨rfl, rfl, rfl⟩

/-- The vault once every key is zeroized. -/
theorem vaultEmpty_of_zeroized {s t : State} (h : t.vault = (keysZeroized s).vault) : VaultEmpty t := by
  have hslots := fun k => slotOf_zeroizeSlots (ks := fun _ => true) (k := k) rfl s
  rw [keysZeroized_frame] at h
  generalize zeroizeSlots (fun _ => true) s = u at *
  have hslot : ∀ k, slotOf t k = slotOf u k := fun k => by
    unfold slotOf
    rw [h]
  refine ⟨fun k => ?_, ?_, ?_, ?_, ?_, ?_⟩
  · rw [hslot]
    exact hslots k
  all_goals rw [h]

/-- One zeroization while the core domain is on. -/
theorem zeroizeN_of_on {s : State} (hon : coreOn s = true) : zeroizeN s =
    drbgAgain (wakeDoze 6 (mbxZeroize (coEnd (sessionsEnd (keysZeroized { s with zer := ⟨true, true, satInc 0xFFFF s.zer.count⟩ }))))) :=
  if_neg (not_not_intro hon)

/-- What the zeroization of the keys ends of the security functions. -/
theorem zeroize_ends (s : State) : let t := wakeDoze 6 (mbxZeroize (coEnd (sessionsEnd s)))
    t.vault = s.vault ∧ t.sec = { s.sec with sessions := [] } ∧ t.zer = s.zer ∧ t.co.role = false ∧ t.pin.zeroize = s.pin.zeroize := by
  have hmode := (modeKept_wakeDoze 6 _).after (modeKept_mbxZeroize (coEnd (sessionsEnd s)))
  have hframe := hmode.frame
  exact ⟨(congrArg State.vault hframe :), (congrArg State.sec hframe :), (congrArg State.zer hframe :),
    (congrArg (fun s => s.co.role) hframe :), hmode.zeroize⟩

/-- What one zeroization leaves while the core domain is on. -/
theorem zeroizeN_spec {s t : State} (hon : coreOn s = true) (ht : zeroizeN s = t) :
    VaultEmpty t ∧ t.pin.zeroize = s.pin.zeroize ∧ t.zer = ⟨true, true, satInc 0xFFFF s.zer.count⟩ ∧ t.sec.sessions = [] ∧ t.co.role = false ∧
    (s.sec.drbg = true → s.sec.st ≠ 2 →
      (t.sec.drbgReqs = 0 ∧ t.sec.fill = 1536 ∧ t.sec.st = s.sec.st) ∨ (t.sec.st = 2 ∧ t.sec.fail = 0x0A)) := by
  rw [zeroizeN_of_on hon] at ht
  obtain ⟨hsec, hzer, hpin⟩ := secKept_keysZeroized { s with zer := ⟨true, true, satInc 0xFFFF s.zer.count⟩ }
  have hempty := fun t => vaultEmpty_of_zeroized (s := { s with zer := ⟨true, true, satInc 0xFFFF s.zer.count⟩ }) (t := t)
  generalize keysZeroized { s with zer := ⟨true, true, satInc 0xFFFF s.zer.count⟩ } = w at *
  obtain ⟨evault, esec, ezer, eco, epin⟩ := zeroize_ends w
  generalize wakeDoze 6 (mbxZeroize (coEnd (sessionsEnd w))) = x at *
  obtain ⟨d1, d2, d3, d4, d5, d6⟩ := drbgAgain_spec x eco (by rw [esec])
  rw [ht] at d1 d2 d3 d4 d5 d6
  refine ⟨hempty t (d1.trans evault), ?_, ?_, d5, d4, ?_⟩
  · rw [d3, epin, hpin]
  · rw [d2, ezer, hzer]
  · rw [esec, hsec] at d6
    exact d6

/-! ### O11 -/

/-- Settles O11: the slots are emptied before anything else ends, and nothing after it touches the vault. -/
theorem zeroization : Obligations.Zeroization := by
  unfold Obligations.Zeroization
  refine ⟨?_, ?_, ?_, ?_, ?_⟩
  · intro s hheld hon
    obtain ⟨hvault, hpin, hrest⟩ := zeroizeN_spec (s := { s with pin := { s.pin with zeroize := true } }) hon rfl
    exact ⟨_, next_congr (if_neg (by simp [hheld])), hvault, hpin, hrest⟩
  · intro s hheld hoff
    have hoff' : coreOn { s with pin := { s.pin with zeroize := true }, zer := ⟨true, true, satInc 0xFFFF s.zer.count⟩ } = false := hoff
    exact ⟨_, next_congr ((if_neg (by simp [hheld])).trans (if_pos (by simp [hoff']))), rfl, rfl⟩
  · intro s hheld
    exact ⟨_, next_congr (if_pos hheld), rfl⟩
  · intro s
    exact ⟨_, rfl, rfl⟩
  · intro s hpend
    refine ⟨_, next_congr (if_pos hpend), rfl, rfl, rfl, rfl, fun k => ?_, rfl, rfl, rfl⟩
    change (tget {} (tmap {} (fun _ sl => emptied sl) s.vault.recd.slots) k).cur = none
    rcases tget_tmap_cases {} (fun _ sl => emptied sl) s.vault.recd.slots k with h | ⟨x, h⟩
    · rw [h]
    · rw [h]
      rfl

end Sys2Proof.Machine


/-!
PROOFS. POR and the reset pins (R67, R68, R74, R78 to R88, R98, R455 to R462): what the loss of the core domain leaves (O7).
-/
namespace Sys2Proof.Machine

open Sys2Proof

/-! ### The loss of the core domain -/

theorem timeBack_frame (s : State) : timeBack s = { s with clk := (timeBack s).clk } := by
  unfold timeBack
  split <;> rfl

theorem timeBack_clk (s : State) : (timeBack s).clk =
    if s.clk.refOn ∨ ¬ s.clk.refPin then s.clk else { s.clk with refOn := true, time := max (now s) s.clk.lastRead } := by
  unfold timeBack
  split <;> rfl

/-- What is reloaded before the core domain is lost. -/
def coreReload (s : State) : State := timeBack (cfgReload (regsReloadP (regsDefault [.f, .c, .t, .v] s)))

theorem coreReload_frame (s : State) : coreReload s = { s with
    regs := (coreReload s).regs, rsv := (coreReload s).rsv, pPend := (coreReload s).pPend, profiles := s.norCfg.profiles,
    nss := (cfgReload s).nss, locks := (cfgReload s).locks, flt := (coreReload s).flt, pwr := (coreReload s).pwr,
    clk := (timeBack s).clk } := by
  have h := regsReloadP_frame (regsDefault [.f, .c, .t, .v] s)
  have hclk : (coreReload s).clk = (timeBack s).clk := by
    unfold coreReload
    generalize regsReloadP (regsDefault [.f, .c, .t, .v] s) = u at h ⊢
    rw [timeBack_clk, timeBack_clk, h]
    rfl
  rw [← hclk]
  unfold coreReload
  rw [timeBack_frame]
  generalize regsReloadP (regsDefault [.f, .c, .t, .v] s) = u at h ⊢
  unfold cfgReload
  rw [h]
  rfl

/-- What the loss of the core domain leaves of `s`. -/
structure CoreLost (s t : State) : Prop where
  mode : t.md = { s.md with
    cur := .start, prev := t.md.prev, haltWhy := 0, stage := 0, slot := 0, fail := false, lastShutdown := t.md.lastShutdown, loaded := false,
    ventCut := t.md.ventCut }
  fns : t.fns = []
  queues : QueuesGone t
  tenants : t.tenants = []
  gens : t.gens = []
  vfEnable : t.vfEnable = false
  cache : t.cache = []
  vault : t.vault = { live := {}, recd := s.vault.recd, nor := s.vault.nor, staged := none, words := [] }
  fw : t.fw = { s.fw with running := none, act := none }
  mbx : t.mbx = s.mbx
  role : t.co.role = false
  nor : t.nor = s.nor
  norCfg : t.norCfg = s.norCfg
  profiles : t.profiles = s.norCfg.profiles
  nss : t.nss = (cfgReload s).nss
  locks : t.locks = (cfgReload s).locks
  pin : t.pin = { s.pin with holdupTest := false, l12 := false }
  vent : t.hold.vent = none
  aonQ : t.aonQ = s.aonQ
  clk : t.clk = (timeBack s).clk

theorem coreLost_coreLost (s : State) : CoreLost s (coreLost s) := by
  have h := coreReload_frame s
  unfold coreLost
  rw [show timeBack (cfgReload (regsReloadP (regsDefault [.f, .c, .t, .v] s))) = coreReload s from rfl]
  dsimp only
  generalize coreReload s = u at h ⊢
  refine ⟨?_, rfl, ⟨rfl, rfl, rfl⟩, rfl, rfl, rfl, rfl, ?_, ?_, ?_, rfl, ?_, ?_, ?_, ?_, ?_, ?_, rfl, ?_, ?_⟩
  all_goals
    rw [h]

/-! ### What is cut before the core domain is lost -/

/-- The mailbox is emptied; a running command is recorded as interrupted. -/
structure MbxCutOff (k : Nat) (s t : State) : Prop where
  frame : t = { s with mbx := t.mbx, regs := t.regs, rsv := t.rsv, fw := { s.fw with act := none }, mig := t.mig,
                       hold := { s.hold with waitHoldup := false, testMib := 0 } }
  idle : t.mbx.st = .idle
  run : t.mbx.run = none
  interrupted : ∀ r, s.mbx.run = some r → t.mbx.intCause = k ∧ t.mbx.intOpc = r.opc ∧ t.mbx.intProgress = s.mbx.progress

theorem mbxCutOff_mbxCut (k : Nat) (s : State) : MbxCutOff k s (mbxCut k s) := by
  unfold mbxCut
  extract_lets u
  have hu : u.mbx = s.mbx := rfl
  split
  · next r hr =>
    refine ⟨rfl, rfl, rfl, fun r' hr' => ?_⟩
    rw [hu, hr'] at hr
    obtain rfl := Option.some.inj hr
    exact ⟨rfl, rfl, rfl⟩
  · next hr =>
    refine ⟨rfl, rfl, rfl, fun r' hr' => ?_⟩
    rw [hu, hr'] at hr
    exact absurd hr (by simp)

/-- What a reset pin or POR cuts before the core domain is lost. -/
def cutOff (k : Nat) (s : State) : State := abandon (fun _ => true) (mbxCut k (keyLossLog (ventCutLog s)))

/-- What is cut with the mailbox idle before it. -/
structure CutOff (k : Nat) (s t : State) : Prop where
  frame : t = { s with mbx := t.mbx, regs := t.regs, rsv := t.rsv, fw := { s.fw with act := none }, mig := t.mig, hold := t.hold, rep := t.rep,
                       zones := t.zones, cache := t.cache, jobs := t.jobs, cmds := [], rjobs := t.rjobs }
  idle : t.mbx.st = .idle
  run : t.mbx.run = none
  interrupted : ∀ r, s.mbx.run = some r → t.mbx.intCause = k ∧ t.mbx.intOpc = r.opc ∧ t.mbx.intProgress = s.mbx.progress

/-- With no command running, an abandon leaves the locks, the functions and the mailbox. -/
theorem abandon_all_frame {s : State} (h : s.mbx.run = none) : abandon (fun _ => true) s =
    { s with zones := (abandon (fun _ => true) s).zones, cache := (abandon (fun _ => true) s).cache, jobs := (abandon (fun _ => true) s).jobs,
             cmds := [], rjobs := (abandon (fun _ => true) s).rjobs } := by
  have hframe := abandon_frame (fun _ => true) s
  obtain ⟨hmbx, hlocks, hfns, hsent⟩ := abandon_norun (fun _ => true) s h
  have hcmds : (abandon (fun _ => true) s).cmds = [] := by simp
  rw [hmbx, hlocks, hfns, hsent, hcmds] at hframe
  exact hframe

theorem cutOff_cutOff (k : Nat) (s : State) : CutOff k s (cutOff k s) := by
  unfold cutOff
  have hlog : keyLossLog (ventCutLog s) = { s with rep := (keyLossLog (ventCutLog s)).rep } := by
    rw [keyLossLog_frame, ventCutLog_frame]
  generalize keyLossLog (ventCutLog s) = u at *
  obtain ⟨hframe, hidle, hrun, hint⟩ := mbxCutOff_mbxCut k u
  generalize mbxCut k u = v at *
  have habandon := abandon_all_frame hrun
  have hmbx := (abandon_norun (fun _ => true) v hrun).1
  generalize abandon (fun _ => true) v = w at *
  refine ⟨?_, hmbx ▸ hidle, hmbx ▸ hrun, fun r hr => ?_⟩
  · rw [habandon, hframe, hlog]
  · rw [hmbx]
    have hu : u.mbx = s.mbx := by rw [hlog]
    rw [← hu] at hr ⊢
    exact hint r hr

/-- The loss of the core domain after what is cut, seen from before it, with the outputs released and the links down. -/
theorem coreGone_of_cutOff {k : Nat} {s u c : State} (hcut : CutOff k s u) (hlost : CoreLost u c) :
    CoreGone s (linksDown (releaseOutputs c)) := by
  obtain ⟨hframe, hidle, hrun, -⟩ := hcut
  have hmode : c.md.cur = .start ∧ c.md.stage = 0 := by
    rw [hlost.mode]
    exact ⟨rfl, rfl⟩
  have hvault : c.vault.live = {} ∧ c.vault.recd = s.vault.recd ∧ c.vault.nor = s.vault.nor := by
    rw [hlost.vault, hframe]
    exact ⟨rfl, rfl, rfl⟩
  have hfw : c.fw.running = none ∧ c.fw.slots = s.fw.slots := by
    rw [hlost.fw, hframe]
    exact ⟨rfl, rfl⟩
  have hnor : c.nor = s.nor := by rw [hlost.nor, hframe]
  have hcfg : c.norCfg = s.norCfg := by rw [hlost.norCfg, hframe]
  have hprof : c.profiles = s.norCfg.profiles := by rw [hlost.profiles, hframe]
  have hnss : c.nss = (cfgReload s).nss := by
    rw [hlost.nss, hframe]
    rfl
  have hlocks : c.locks = (cfgReload s).locks := by
    rw [hlost.locks, hframe]
    rfl
  have hmbx := hlost.mbx
  exact ⟨hmode.1, hmode.2, hlost.fns, hlost.queues, hlost.tenants, hlost.gens, hlost.vfEnable, hlost.cache, hvault.1, hfw.1,
    (congrArg Mbx.st hmbx).trans hidle, (congrArg Mbx.run hmbx).trans hrun, hlost.role, rfl, rfl,
    hnor, hcfg, hprof, hnss, hlocks, hvault.2.1, hvault.2.2, hfw.2⟩

/-- The loss of VAON changes nothing that the loss of the core domain leaves. -/
theorem coreGone_aonLost {s c : State} (h : CoreGone s (linksDown (releaseOutputs c))) : CoreGone s (linksDown (releaseOutputs (aonLost c))) := h

/-! ### The reset pins -/

/-- Device time stands at 0 after the loss of VAON. -/
theorem now_aonLost (c : State) : now (linksDown (releaseOutputs (aonLost c))) = 0 := by
  change (if c.clk.refPin then 0 else 0 + ticksNs 0) = 0
  split <;> rfl

theorem execPor_spec (s : State) : Answers .por s fun t => CoreGone s t ∧ now t = 0 ∧ t.clk.refPin = s.clk.refPin ∧ t.aonQ = [] ∧
    t.md.rlCount = 0 ∧ t.md.rlKind = 0 ∧ t.mbx.intOpc = 0 := by
  have hcut := cutOff_cutOff 2 s
  refine ⟨linksDown (releaseOutputs (aonLost (coreLost (cutOff 2 s)))), rfl, ?_⟩
  have hlost := coreLost_coreLost (cutOff 2 s)
  have hclk : (coreLost (cutOff 2 s)).clk.refPin = s.clk.refPin := by
    rw [hlost.clk, timeBack_clk, hcut.frame]
    split <;> rfl
  generalize coreLost (cutOff 2 s) = c at *
  exact ⟨coreGone_aonLost (coreGone_of_cutOff hcut hlost), now_aonLost c, hclk, rfl, rfl, rfl, rfl⟩

theorem execPorstNAssertion_spec {s : State} (h : s.pin.porst = false) : Answers .porstNAssertion s fun t => CoreGone s t ∧ t.pin.porst = true ∧
    t.pin.dramReset = true ∧ (s.clk.refOn = true ∨ s.clk.refPin = false → t.clk = s.clk) ∧
    t.aonQ = s.aonQ ∧ t.md.rlKind = 1 ∧ t.md.rlFunc = 0 ∧ t.md.rlCount = satInc 0xFFF s.md.rlCount ∧
    ∀ r, s.mbx.run = some r → t.mbx.intCause = 2 ∧ t.mbx.intOpc = r.opc ∧ t.mbx.intProgress = s.mbx.progress := by
  have hcut := cutOff_cutOff 2 s
  have hlost := coreLost_coreLost (cutOff 2 s)
  have hexec : exec .porstNAssertion s = .next (linksDown (releaseOutputs { resetLast 1 0 (coreLost (cutOff 2 s)) with
      pin := { (resetLast 1 0 (coreLost (cutOff 2 s))).pin with porst := true, dramReset := true } })) := by
    change execPorstNAssertion s = _
    unfold execPorstNAssertion
    unfold cutOff
    exact if_neg (by simp [h])
  refine ⟨_, hexec, ?_⟩
  have hclk : s.clk.refOn = true ∨ s.clk.refPin = false → (coreLost (cutOff 2 s)).clk = s.clk := fun hon => by
    rw [hlost.clk, timeBack_clk, hcut.frame, if_pos (by simpa using hon)]
  have haonQ : (coreLost (cutOff 2 s)).aonQ = s.aonQ := by rw [hlost.aonQ, hcut.frame]
  have hcount : (coreLost (cutOff 2 s)).md.rlCount = s.md.rlCount := by rw [hlost.mode, hcut.frame]
  have hint : ∀ r, s.mbx.run = some r → (coreLost (cutOff 2 s)).mbx.intCause = 2 ∧ (coreLost (cutOff 2 s)).mbx.intOpc = r.opc ∧
      (coreLost (cutOff 2 s)).mbx.intProgress = s.mbx.progress := fun r hr => by
    rw [hlost.mbx]
    exact hcut.interrupted r hr
  have hgone := coreGone_of_cutOff hcut hlost
  generalize coreLost (cutOff 2 s) = c at *
  refine ⟨hgone, rfl, rfl, hclk, haonQ, rfl, rfl, ?_, hint⟩
  exact congrArg (satInc 0xFFF) hcount

theorem execPorstNDeassertion_spec {s : State} (hp : s.pin.porst = true) (hm : s.md.cur = .start) (hst : s.md.stage = 0) :
    Answers .porstNDeassertion s fun t => t.pin.porst = false ∧ t.pin.dual = s.pin.inDual ∧ t.pin.lpo = s.pin.inLpo ∧
      t.pin.smba = s.pin.inSmba ∧ t.md.cur = .start ∧ t.md.stage = 1 ∧ t = { s with pin := t.pin, md := t.md, co := t.co } := by
  have hexec : exec .porstNDeassertion s = .next (enterStage1 (sampleStraps { s with pin := { s.pin with porst := false } })) := by
    change execPorstNDeassertion s = _
    unfold execPorstNDeassertion
    rw [if_neg (by simp [hp])]
    exact next_congr (if_pos ⟨hm, hst⟩)
  refine ⟨_, hexec, ?_⟩
  unfold enterStage1
  rw [startLockout_frame]
  exact ⟨rfl, rfl, rfl, rfl, hm, rfl, rfl⟩

/-! ### PERST_N of the serving port -/

/-- What PERST_N of the serving port ends at once. -/
structure PerstDropped (s t : State) : Prop where
  fns : t.fns = []
  queues : QueuesGone t
  tenants : t.tenants = []
  gens : t.gens = []
  vfEnable : t.vfEnable = false
  mode : t.md.cur = s.md.cur
  kind : t.md.rlKind = 2
  func : t.md.rlFunc = 0
  cache : CacheKept s t
  nss : t.nss = s.nss
  idle : t.mbx.st = .idle
  run : t.mbx.run = none
  role : t.co.role = false
  vent : t.hold.vent = s.hold.vent

/-- What PERST_N ends beside the functions' records. -/
def perstEnds (w : State) : State := coEnd (sessionsEnd (psDrop (dropQueues (fun _ => true) w)))

theorem perstEnds_frame (w : State) : perstEnds w =
    { w with sqs := (perstEnds w).sqs, cqs := (perstEnds w).cqs, pwr := (perstEnds w).pwr, sec := (perstEnds w).sec, co := (perstEnds w).co } := rfl

theorem perstEnds_gone (w : State) : (perstEnds w).sqs = [] ∧ (perstEnds w).cqs = [] ∧ (perstEnds w).co.role = false := by
  have hsqs : w.sqs.filter (fun _ => false) = [] := by simp
  have hcqs : w.cqs.filter (fun _ => false) = [] := by simp
  exact ⟨hsqs, hcqs, rfl⟩

theorem perstDropped_perstDrop (s : State) : PerstDropped s (perstDrop s) := by
  obtain ⟨hframe, hidle, hrun, -⟩ := mbxCutOff_mbxCut 1 s
  have hcache := cacheKept_abandon (fun _ => true) (mbxCut 1 s)
  have heq : perstDrop s = resetLast 2 0 (unstage { perstEnds (abandon (fun _ => true) (mbxCut 1 s)) with
      fns := [], tenants := [], gens := [], numVfs := 0, vfEnable := false }) := rfl
  rw [heq]
  generalize mbxCut 1 s = v at *
  have habandon := abandon_all_frame hrun
  have hmbx := (abandon_norun (fun _ => true) v hrun).1
  generalize abandon (fun _ => true) v = w at *
  have hends := perstEnds_frame w
  obtain ⟨hsqs, hcqs, hrole⟩ := perstEnds_gone w
  generalize perstEnds w = x at *
  have hcmds : x.cmds = [] := by rw [hends, habandon]
  have hcur : x.md.cur = s.md.cur := by rw [hends, habandon, hframe]
  have hnss : x.nss = s.nss := by rw [hends, habandon, hframe]
  have hhold : x.hold.vent = s.hold.vent := by rw [hends, habandon, hframe]
  have hxmbx : x.mbx = v.mbx := by rw [hends, hmbx]
  have hkept : CacheKept s x := by
    have hx : x.cache = w.cache := by rw [hends]
    unfold CacheKept at hcache ⊢
    rw [hx, hcache, hframe]
  exact ⟨rfl, ⟨hcmds, hsqs, hcqs⟩, rfl, rfl, rfl, hcur, rfl, rfl, hkept, hnss,
    (congrArg Mbx.st hxmbx).trans hidle, (congrArg Mbx.run hxmbx).trans hrun, hrole, hhold⟩

/-- A device that leaves for another mode keeps what its last reset was. -/
theorem leaveRun_md (m : Mode) (s : State) : (leaveRun m s).md.cur = m ∧ (leaveRun m s).md.rlKind = s.md.rlKind ∧
    (leaveRun m s).md.rlFunc = s.md.rlFunc ∧ (leaveRun m s).md.stage = s.md.stage := by
  unfold leaveRun
  have h : (if s.md.cur = .run then capTestCut s else s).md = s.md := by
    split
    · rw [capTestCut_frame]
    · rfl
  generalize (if s.md.cur = .run then capTestCut s else s) = u at h ⊢
  unfold setMode
  rw [← h]
  split
  · next hm => exact ⟨hm, rfl, rfl, rfl⟩
  · exact ⟨rfl, rfl, rfl, rfl⟩

/-- What a Vent makes of the device before its dump. -/
def ventPrepare (s : State) : State := leaveRun .vent (ventOps (ventPower s))

theorem ventPower_frame (s : State) : ventPower s = { s with pwr := (ventPower s).pwr } := by
  unfold ventPower
  split
  · split <;> rfl
  · rfl

theorem ventPrepare_frame (s : State) : ventPrepare s = { s with
    pwr := (ventPrepare s).pwr, luns := (ventPrepare s).luns, jobs := (ventPrepare s).jobs, ops := (ventPrepare s).ops,
    runs := (ventPrepare s).runs, md := (ventPrepare s).md, hold := (ventPrepare s).hold, pin := (ventPrepare s).pin } := by
  unfold ventPrepare
  rw [leaveRun_frame, ventOps_frame, ventPower_frame]

/-- Entry to VENT with no Vent running and no mailbox command. -/
theorem ventEnter_of_idle {cause : Nat} {shut perst : Bool} {s : State} (hvent : s.hold.vent = none) (hrun : s.mbx.run = none) :
    ventEnter cause shut perst s = holdupIso true { ventPrepare s with hold := { (ventPrepare s).hold with
      vents := satInc 0xFF (ventPrepare s).hold.vents, debounce := none,
      vent := some ⟨cause, s.md.cur, s.md.haltWhy, shut, perst, false, now (ventPrepare s), 0, 0⟩ } } := by
  have hrun' : (ventPrepare s).mbx.run = none := by
    rw [ventPrepare_frame]
    exact hrun
  unfold ventEnter ventMbx
  simp only [hvent]
  rw [show leaveRun .vent (ventOps (ventPower s)) = ventPrepare s from rfl]
  simp only [hrun']

/-- Entry to VENT from what PERST_N drops. -/
theorem ventEnter_perstDropped {s u : State} (h : PerstDropped s u) (hvent : s.hold.vent = none) : let t := ventEnter 1 false true u
    t.md.cur = .vent ∧ t.fns = [] ∧ QueuesGone t ∧ t.tenants = [] ∧ t.gens = [] ∧ t.vfEnable = false ∧ t.md.rlKind = 2 ∧
    t.md.rlFunc = 0 ∧ CacheKept s t ∧ t.nss = s.nss ∧ t.mbx.st = .idle ∧ t.mbx.run = none ∧ t.co.role = false ∧
    (t.hold.vent.any fun v => v.perst && v.fromMode == s.md.cur) = true := by
  have hventu : u.hold.vent = none := h.vent.trans hvent
  rw [ventEnter_of_idle hventu h.run]
  obtain ⟨hcur, hkind, hfunc, -⟩ := leaveRun_md .vent (ventOps (ventPower u))
  have hmd : (ventOps (ventPower u)).md = u.md := by rw [ventOps_frame, ventPower_frame]
  rw [hmd, h.kind] at hkind
  rw [hmd, h.func] at hfunc
  have hframe := ventPrepare_frame u
  rw [show leaveRun .vent (ventOps (ventPower u)) = ventPrepare u from rfl] at hcur hkind hfunc
  generalize ventPrepare u = w at *
  have hfns : w.fns = [] := by rw [hframe, h.fns]
  have hqueues : QueuesGone w := by
    have hq := h.queues
    unfold QueuesGone at hq ⊢
    rw [hframe]
    exact hq
  have htn : w.tenants = [] := by rw [hframe, h.tenants]
  have hgens : w.gens = [] := by rw [hframe, h.gens]
  have hvf : w.vfEnable = false := by rw [hframe, h.vfEnable]
  have hcache : w.cache = u.cache := by rw [hframe]
  have hnss : w.nss = s.nss := by rw [hframe, h.nss]
  have hidle : w.mbx.st = .idle := by rw [hframe, h.idle]
  have hrun : w.mbx.run = none := by rw [hframe, h.run]
  have hrole : w.co.role = false := by rw [hframe, h.role]
  have hany : (some ⟨1, u.md.cur, u.md.haltWhy, false, true, false, now w, 0, 0⟩ : Option VentRun).any
      (fun v => v.perst && v.fromMode == s.md.cur) = true := by
    rw [h.mode]
    simp
  exact ⟨hcur, hfns, hqueues, htn, hgens, hvf, hkind, hfunc, cacheKept_of_eq h.cache hcache, hnss, hidle, hrun, hrole, hany⟩

/-- The pin of PERST_N is low and the port's link down. -/
def perstPinned (p : Nat) (s : State) : State :=
  setLink p false { s with pin := if p = 0 then { s.pin with perst := true } else { s.pin with perst1 := true } }

theorem perstPinned_frame (p : Nat) (s : State) : perstPinned p s = { s with pin := (perstPinned p s).pin } := by
  unfold perstPinned
  rw [setLink_frame]

/-- PERST_N in DOZE is recorded as a wake. -/
def perstWoken (s : State) : State :=
  if s.md.cur = .doze ∧ ¬ s.pwr.trans.any (fun t => t.target < 3) then wakeRecord 2 0 3 0 s else s

theorem perstWoken_frame (s : State) : perstWoken s = { s with pwr := (perstWoken s).pwr } := by
  unfold perstWoken
  split <;> rfl

/-- PERST_N of the serving port, asserted outside START and WATCH. -/
theorem execPerstNAssertion_spec {p : Nat} {s : State} (hwas : (if p = 0 then s.pin.perst else s.pin.perst1) = false)
    (hp : p = s.pin.serving) (hstart : s.md.cur ≠ .start) (hwatch : s.md.cur ≠ .watch) :
    ∃ u, exec (.perstNAssertion p) s = .next (ventEnter 1 false true (perstDrop u)) ∧ u = { s with pin := u.pin, pwr := u.pwr } := by
  have hmd : (perstPinned p s).md = s.md := by rw [perstPinned_frame]
  have hwas' : ¬ (if p = 0 then s.pin.perst else s.pin.perst1) = true := by
    rw [hwas]
    exact Bool.false_ne_true
  have hstart' : (perstPinned p s).md.cur ≠ .start := hmd ▸ hstart
  have hwatch' : (perstPinned p s).md.cur ≠ .watch := hmd ▸ hwatch
  refine ⟨perstWoken (perstPinned p s),
    (if_neg hwas').trans ((if_neg (not_not_intro hp)).trans ((if_neg hstart').trans ((if_neg hwatch').trans rfl))), ?_⟩
  rw [perstWoken_frame, perstPinned_frame]

/-- The pin of PERST_N is high. -/
def perstReleased (p : Nat) (s : State) : State :=
  { s with pin := if p = 0 then { s.pin with perst := false } else { s.pin with perst1 := false } }

/-- PERST_N of the serving port, released after the dump. -/
theorem execPerstNDeassertion_spec {p : Nat} {s : State} {v : VentRun} (hp : p = s.pin.serving) (hcur : s.md.cur = .vent)
    (hvent : s.hold.vent = some v) (hperst : v.perst = true) (hdumped : v.dumped = true) :
    Answers (.perstNDeassertion p) s fun t =>
      t.md.cur = .start ∧ t.md.stage = 1 ∧ t.cache = [] ∧ t.hold.vent = none ∧ t.nss = (cfgReload s).nss ∧ t.vault.recd = s.vault.recd ∧
      (if p = 0 then t.pin.perst else t.pin.perst1) = false := by
  have hserving : (perstReleased p s).pin.serving = s.pin.serving := by
    unfold perstReleased
    dsimp only
    split <;> rfl
  have hexec : exec (.perstNDeassertion p) s = .next (perstStart (perstReleased p s)) := by
    change execPerstNDeassertion p s = _
    unfold execPerstNDeassertion
    refine (if_neg (not_not_intro (hp.trans hserving.symm))).trans ((if_neg ?_).trans ?_)
    · exact fun h => absurd (hcur.symm.trans h.1) (by decide)
    · simp only [hvent, hperst, hdumped]
      rfl
  refine ⟨_, hexec, ?_⟩
  have hlost := coreLost_coreLost (perstReleased p s)
  have hpin : (if p = 0 then (perstReleased p s).pin.perst else (perstReleased p s).pin.perst1) = false := by
    unfold perstReleased
    dsimp only
    split <;> rfl
  unfold perstStart
  generalize coreLost (perstReleased p s) = c at *
  have hcur : c.md.cur = .start := by rw [hlost.mode]
  have hrecd : c.vault.recd = s.vault.recd := by
    rw [hlost.vault]
    rfl
  have hcpin : (if p = 0 then c.pin.perst else c.pin.perst1) = false := by
    rw [hlost.pin]
    exact hpin
  unfold enterStage1
  rw [startLockout_frame]
  exact ⟨hcur, rfl, hlost.cache, hlost.vent, hlost.nss, hrecd, hcpin⟩

/-! ### O7 -/

/-- Settles O7: the loss of the core domain is described once, after what POR and the pins cut. -/
theorem pinResets : Obligations.PinResets := by
  unfold Obligations.PinResets
  refine ⟨⟨execPor_spec, fun s h => execPorstNAssertion_spec h, fun s hp hm hst => execPorstNDeassertion_spec hp hm hst⟩, ?_, ?_, ?_⟩
  · intro p s hwas hp hstart hwatch hvent
    obtain ⟨u, hexec, hu⟩ := execPerstNAssertion_spec hwas hp hstart hwatch
    refine ⟨_, hexec, ?_⟩
    have hdrop := perstDropped_perstDrop u
    have hventu : u.hold.vent = none := by rw [hu, hvent]
    have h := ventEnter_perstDropped hdrop hventu
    have hcache : ∀ t, CacheKept u t → CacheKept s t := fun t h => by
      unfold CacheKept at h ⊢
      rw [h, hu]
    have hnss : u.nss = s.nss := by rw [hu]
    have hmd : u.md = s.md := by rw [hu]
    generalize ventEnter 1 false true (perstDrop u) = t at *
    rw [hnss, hmd] at h
    obtain ⟨h1, h2, h3, h4, h5, h6, h7, h8, h9, h10⟩ := h
    exact ⟨h1, h2, h3, h4, h5, h6, h7, h8, hcache t h9, h10⟩
  · intro p s hp
    by_cases hwas : (if p = 0 then s.pin.perst else s.pin.perst1) = true
    · exact ⟨s, if_pos hwas, hwas, rfl⟩
    · refine ⟨_, (if_neg hwas).trans (if_pos hp), ?_⟩
      unfold setLink
      split
      · exact ⟨by simp, rfl⟩
      · exact ⟨by simp, rfl⟩
  · intro p s v hp hcur hvent hperst hdumped
    exact execPerstNDeassertion_spec hp hcur hvent hperst hdumped

end Sys2Proof.Machine


/-!
PROOFS. Temperature readings and the rounds of housekeeping (R354, R367, R378 to R388; O43).
-/
namespace Sys2Proof.Machine

open Sys2Proof

/-! ### What a reading changes beside the thresholds -/

/-- All but the notes on a reading: its logs, its events and what follows from the thresholds outside chapter 18's registers. -/
def ThermFrame (s t : State) : Prop :=
  t = { s with
    therm := { s.therm with fast := t.therm.fast, held := t.therm.held, evOwed := t.therm.evOwed }, qos := t.qos, rep := t.rep,
    md := { s.md with hot := t.md.hot }, pin := { s.pin with pwrOff := t.pin.pwrOff }, cqs := t.cqs, fns := t.fns, sent := t.sent, mig := t.mig }

namespace ThermFrame

theorem refl (s : State) : ThermFrame s s := rfl

theorem trans {s t u : State} (h1 : ThermFrame s t) (h2 : ThermFrame t u) : ThermFrame s u :=
  Eq.trans h2 (by rw [h1])

/-- `trans` with the later part first, which names the state between. -/
theorem after {s t u : State} (h2 : ThermFrame t u) (h1 : ThermFrame s t) : ThermFrame s u := h1.trans h2

theorem foldl {α : Type} {g : State → α → State} (hg : ∀ s x, ThermFrame s (g s x)) (l : List α) (s : State) : ThermFrame s (l.foldl g s) := by
  induction l generalizing s with
  | nil => rfl
  | cons x l ih => exact (hg s x).trans (ih _)

end ThermFrame

theorem thermFrame_kerfMark (s : State) : ThermFrame s (kerfMark s) := by
  unfold kerfMark
  split
  · rfl
  · split <;> rfl

theorem thermFrame_fastSet (s : State) : ThermFrame s (fastSet s) := rfl

theorem thermFrame_crossLog (n : Nat) (was is : Bool) (x : Int) (k : Nat) (s : State) : ThermFrame s (crossLog n was is x k s) := by
  unfold crossLog
  split
  · rfl
  · split <;> rfl

theorem thermFrame_postEvent (ty i l f : Nat) (s : State) : ThermFrame s (postEvent ty i l f s) := by
  unfold ThermFrame
  rw [postEvent_frame]

theorem thermFrame_tempEvents (s0 s : State) : ThermFrame s (tempEvents s0 s) := by
  refine .foldl (fun u f => ?_) _ _
  split
  · rfl
  · split
    · exact thermFrame_postEvent ..
    · rfl

theorem thermFrame_tempOwe (s0 s : State) : ThermFrame s (tempOwe s0 s) := rfl

/-! ### One reading -/

/-- The temperature registers after a reading, its notes apart (R378 to R383). -/
def thermRead (x : Int) (s : State) : Therm :=
  let sh := thrStep s.therm.shutOn s.therm.shut x
  let th := thrStep s.therm.throtOn s.therm.throt x || sh
  let d := (x - s.therm.throt.level) / 8
  { (thermAccount s).therm with
    warnOn := thrStep s.therm.warnOn s.therm.warn x || th, throtOn := th, shutOn := sh, kerf := kerfOf th d,
    ttarget := targetOf th s.therm.thrPace d, max := max s.therm.max x, last := x }

/-- A reading puts its registers in force and notes it; then Shut-down follows where it came into force. -/
theorem thermStep_shape (x : Int) (s : State) : ∃ u, ThermFrame { s with therm := thermRead x s } u ∧
    (thermStep x s = shutDown u ∨ thermStep x s = u) := by
  unfold thermStep
  extract_lets s1 t sh th wa d k t' first s2 s3 m p s4 s5
  refine ⟨s5, ?_, ?_⟩
  · have h2 : ThermFrame { s with therm := thermRead x s } s2 := (thermFrame_fastSet _).after (thermFrame_kerfMark _)
    have h3 : ThermFrame s2 s3 := (thermFrame_crossLog ..).after ((thermFrame_crossLog ..).after (thermFrame_crossLog ..))
    have h4 : ThermFrame s3 s4 := rfl
    have h5 : ThermFrame s4 s5 := by
      simp only [s5]
      split
      · exact thermFrame_tempOwe ..
      · exact thermFrame_tempEvents ..
    exact ((h2.trans h3).trans h4).trans h5
  · split
    · exact .inl rfl
    · exact .inr rfl

/-- What a reading leaves, Shut-down with it. -/
structure Reading (x : Int) (s t : State) : Prop where
  therm : t.therm = { thermRead x s with fast := t.therm.fast, held := t.therm.held, evOwed := t.therm.evOwed }
  hk : t.hk = s.hk
  nss : t.nss = s.nss
  zones : t.zones = s.zones
  vault : t.vault = s.vault
  cap : t.hold.cap = s.hold.cap
  vmin : t.hold.vmin = s.hold.vmin
  ceil : t.hold.ceil = s.hold.ceil
  wait : s.hold.waitHoldup = false → t.hold.waitHoldup = false
  mbx : s.mbx.run = none → t.mbx = s.mbx

theorem reading_of_frame {x : Int} {s t : State} (h : ThermFrame { s with therm := thermRead x s } t) : Reading x s t := by
  have hhold : t.hold = s.hold := (congrArg State.hold h :)
  exact ⟨(congrArg State.therm h :), (congrArg State.hk h :), (congrArg State.nss h :), (congrArg State.zones h :), (congrArg State.vault h :),
    congrArg Hold.cap hhold, congrArg Hold.vmin hhold, congrArg Hold.ceil hhold, fun hw => (congrArg Hold.waitHoldup hhold).trans hw,
    fun _ => (congrArg State.mbx h :)⟩

theorem reading_modeKept {x : Int} {s u t : State} (h : Reading x s u) (k : ModeKept u t) : Reading x s t := by
  have hframe := k.frame
  have htherm : t.therm = u.therm := (congrArg State.therm hframe :)
  refine ⟨?_, (congrArg State.hk hframe :).trans h.hk, (congrArg State.nss hframe :).trans h.nss,
    (congrArg State.zones hframe :).trans h.zones, (congrArg State.vault hframe :).trans h.vault, k.cap.trans h.cap, k.vmin.trans h.vmin,
    k.ceil.trans h.ceil, fun hw => k.wait (h.wait hw), fun hrun => ?_⟩
  · rw [htherm]
    exact h.therm
  · have hm := h.mbx hrun
    exact (k.mbx (by rw [hm]; exact hrun)).trans hm

theorem reading_thermStep (x : Int) (s : State) : Reading x s (thermStep x s) := by
  obtain ⟨u, hu, h | h⟩ := thermStep_shape x s
  · rw [h]
    exact reading_modeKept (reading_of_frame hu) (modeKept_shutDown u)
  · rw [h]
    exact reading_of_frame hu

/-! ### A slow round -/

/-- CAP and VMIN of the HOLDUP_SET that waits. -/
def holdupNew (s : State) : State :=
  match s.mbx.run with
  | some r =>
    if s.hold.waitHoldup ∧ r.opc = 0x0502 ∧ ¬ r.paused then
      { s with hold := { s.hold with cap := (r.args.getD 0 0).toNat, vmin := (r.args.getD 1 0).toNat } }
    else s
  | none => s

/-- What the evaluation of LOW changes. -/
theorem lowEval_frame (s : State) : lowEval s = { s with
    hold := { s.hold with low := (lowEval s).hold.low }, cqs := (lowEval s).cqs, fns := (lowEval s).fns, sent := (lowEval s).sent,
    mig := (lowEval s).mig, rep := (lowEval s).rep } := by
  unfold lowEval
  extract_lets low h u
  have hu : u = { s with hold := { s.hold with low := low } } := rfl
  clear_value u
  split
  · rw [causeOn_frame, hu]
  · rw [causeOff_frame, hu]

/-- LOW is evaluated where CAP changes. -/
theorem holdupApply_cases (s : State) : holdupApply s = lowEval (holdupNew s) ∨ holdupApply s = holdupNew s := by
  unfold holdupApply holdupNew
  cases s.mbx.run with
  | none => exact .inr rfl
  | some r =>
    dsimp only
    split
    · split
      · exact .inl rfl
      · exact .inr rfl
    · exact .inr rfl

/-- HOLDUP_SET's values come into force; what else changes is LOW and its notes. -/
theorem holdupApply_frame (s : State) : holdupApply s = { holdupNew s with
    hold := { (holdupNew s).hold with low := (holdupApply s).hold.low }, cqs := (holdupApply s).cqs, fns := (holdupApply s).fns,
    sent := (holdupApply s).sent, mig := (holdupApply s).mig, rep := (holdupApply s).rep } := by
  rcases holdupApply_cases s with h | h
  · rw [h]
    exact lowEval_frame _
  · rw [h]

/-- The ceiling does not follow the notes on LOW. -/
theorem ceilOf_holdupApply (s : State) : ceilOf (holdupApply s) = ceilOf (holdupNew s) := by
  rw [holdupApply_frame]
  rfl

/-- The ceiling does not follow the time of the round. -/
theorem ceilOf_roundAt (n : Nat) (r : Readings) (s : State) :
    ceilOf (holdupApply (putReadings r { s with hk := { s.hk with roundAt := n } })) = ceilOf (holdupApply (putReadings r s)) := by
  rw [ceilOf_holdupApply, ceilOf_holdupApply]
  unfold holdupNew
  rw [show (putReadings r { s with hk := { s.hk with roundAt := n } }).mbx = s.mbx from rfl, show (putReadings r s).mbx = s.mbx from rfl]
  cases s.mbx.run with
  | none => rfl
  | some m =>
    dsimp only
    by_cases h : s.hold.waitHoldup = true ∧ m.opc = 0x0502 ∧ ¬ m.paused
    · rw [if_pos (by exact h), if_pos (by exact h)]
      rfl
    · rw [if_neg (by exact h), if_neg (by exact h)]
      rfl

/-- The ceiling of a round in force, before what follows it. -/
def ceilSet (s : State) : State := fuaCheck (wbUpdate (setCeil (holdupApply s)))

theorem ceilSet_frame (s : State) : DecideFrame (setCeil (holdupApply s)) (ceilSet s) := by
  unfold ceilSet
  have h := wbUpdate_shape (setCeil (holdupApply s))
  generalize setCeil (holdupApply s) = u at *
  obtain ⟨q, hq⟩ := h
  refine (fuaCheck_decideFrame _).after ?_
  rw [hq]
  rfl

/-- What a round keeps and sets beside the temperature. -/
structure CeilRound (s t : State) : Prop where
  hk : t.hk = s.hk
  nss : t.nss = s.nss
  vault : t.vault = s.vault
  ceil : t.hold.ceil = ceilOf (holdupApply s)

theorem ceilRound_ceilSet (s : State) : CeilRound s (ceilSet s) := by
  have h := ceilSet_frame s
  have happly : (holdupApply s).hk = s.hk ∧ (holdupApply s).nss = s.nss ∧ (holdupApply s).vault = s.vault := by
    have hnew : (holdupNew s).hk = s.hk ∧ (holdupNew s).nss = s.nss ∧ (holdupNew s).vault = s.vault := by
      unfold holdupNew
      split
      · split <;> exact ⟨rfl, rfl, rfl⟩
      · exact ⟨rfl, rfl, rfl⟩
    rw [holdupApply_frame]
    exact hnew
  obtain ⟨hhk, hnss, hvault⟩ := happly
  exact ⟨(congrArg State.hk h :).trans hhk, (congrArg State.nss h :).trans hnss, (congrArg State.vault h :).trans hvault,
    (congrArg (fun s => s.hold.ceil) h :)⟩

theorem ceilRound_ceilRound (s : State) : CeilRound s (ceilRound s) := by
  have h := ceilRound_ceilSet s
  unfold ceilRound
  rw [show fuaCheck (wbUpdate (setCeil (holdupApply s))) = ceilSet s from rfl]
  generalize ceilSet s = u at *
  obtain ⟨hhk, hnss, hvault, hceil⟩ := h
  dsimp only
  split
  · split
    · next hrun =>
      have hdone := modeKept_mbxDone (s := { u with hold := { u.hold with waitHoldup := false } })
        (fun hn => by simp [show u.mbx.run = none from hn] at hrun) [(0, w32 u.hold.ceil)]
      have hframe := hdone.frame
      exact ⟨(congrArg State.hk hframe :).trans hhk, (congrArg State.nss hframe :).trans hnss, (congrArg State.vault hframe :).trans hvault,
        hdone.ceil.trans hceil⟩
    · exact ⟨hhk, hnss, hvault, hceil⟩
  · exact ⟨hhk, hnss, hvault, hceil⟩

/-! ### O43 -/

/-- A table of the twelve channels filled in order. -/
theorem tget_channels (g : Nat → BitVec 16) (n : Nat) (t : Table (BitVec 16)) (c : Nat) (h : c < n) :
    tget 0 ((List.range n).foldl (fun t c => tset 0 t c (g c)) t) c = g c := by
  induction n with
  | zero => omega
  | succ n ih =>
    rw [List.range_succ, List.foldl_append]
    simp only [List.foldl_cons, List.foldl_nil]
    by_cases hc : n = c
    · rw [hc, tget_tset_same]
    · rw [tget_tset_ne _ _ hc]
      exact ih (by omega)

/-- A threshold comes into force at its level, leaves below level less hysteresis, and else stays. -/
theorem thrStep_spec (on : Bool) (t : Thr) (x : Int) : (t.level ≤ x → thrStep on t x = true) ∧ (x < t.level - t.hyst → thrStep on t x = false) ∧
    (t.level - t.hyst ≤ x → x < t.level → thrStep on t x = on) := by
  unfold thrStep
  cases on <;> simp <;> omega

/-- Settles O43: a reading puts its registers in force before anything that Shut-down does, and a round its ceiling before the reading. -/
theorem temperatureAndHousekeeping : Obligations.TemperatureAndHousekeeping := by
  unfold Obligations.TemperatureAndHousekeeping
  refine ⟨?_, ?_, thrStep_spec⟩
  · intro x s hfast hwatch hedge hdue
    refine ⟨thermStep x.toInt { s with hk := { s.hk with ch := tset 0 s.hk.ch 0 x }, therm := { s.therm with fastAt := s.clk.ticks } }, ?_, ?_⟩
    · change execFastThermalSample x s = _
      unfold execFastThermalSample ticksPast
      rw [if_neg (by simp [hfast, hwatch, hedge, hdue])]
    · have h := reading_thermStep x.toInt { s with hk := { s.hk with ch := tset 0 s.hk.ch 0 x }, therm := { s.therm with fastAt := s.clk.ticks } }
      obtain ⟨htherm, hhk, hnss, hzones, hvault, -⟩ := h
      generalize thermStep x.toInt _ = t at *
      dsimp only
      rw [htherm, hhk]
      exact ⟨rfl, rfl, rfl, rfl, rfl, rfl, rfl, tget_tset_same .., rfl, hnss, hzones, hvault⟩
  · intro r s hwatch hedge hdue
    refine ⟨thermStep (r.ch.getD 0 0).toInt (ceilRound (putReadings r { s with hk := { s.hk with roundAt := s.clk.ticks } })), ?_, ?_⟩
    · change execHousekeepingRound r s = _
      unfold execHousekeepingRound ticksPast
      rw [if_neg (by simp [hwatch, hedge, hdue])]
    · obtain ⟨chk, cnss, cvault, cceil⟩ := ceilRound_ceilRound (putReadings r { s with hk := { s.hk with roundAt := s.clk.ticks } })
      rw [ceilOf_roundAt] at cceil
      generalize ceilRound (putReadings r { s with hk := { s.hk with roundAt := s.clk.ticks } }) = u at *
      obtain ⟨htherm, hhk, hnss, -, hvault, -, -, hceil, -⟩ := reading_thermStep (r.ch.getD 0 0).toInt u
      generalize thermStep (r.ch.getD 0 0).toInt u = t at *
      rw [htherm, hhk, chk, hceil, cceil, hnss, cnss, hvault, cvault]
      exact ⟨fun c hc => tget_channels (fun c => r.ch.getD c 0) 12 s.hk.ch c hc, rfl, rfl, rfl, rfl, rfl, rfl, rfl⟩

end Sys2Proof.Machine


/-!
PROOFS. Power, memory and fleet commands of the mailbox, and the round that ends HOLDUP_SET (O59).
-/
namespace Sys2Proof.Machine

open Sys2Proof

/-! ### Rows under repair (R333 to R335, R343) -/

/-- A row's bits with one inverted. -/
theorem getLsbD_flipBit (v : BitVec 297) {c k : Nat} (hk : k < 297) : (flipBit v c).getLsbD k = (v.getLsbD k ^^ decide (c = k)) := by
  unfold flipBit
  rw [BitVec.getLsbD_xor, BitVec.getLsbD_ofNat, Nat.testBit_two_pow, decide_eq_true hk, Bool.true_and]

/-- The parity of a list of bits with one inverted. -/
theorem parity_flip (f : Nat → Bool) (c n : Nat) (p : Bool) :
    (List.range n).foldl (fun p k => p ^^ (f k ^^ decide (k = c))) p = ((List.range n).foldl (fun p k => p ^^ f k) p ^^ decide (c < n)) := by
  induction n with
  | zero => simp
  | succ n ih =>
    rw [List.range_succ, List.foldl_append, List.foldl_append, ih]
    have hstep : decide (c < n + 1) = (decide (c < n) ^^ decide (n = c)) := by
      rcases Nat.lt_trichotomy c n with h | h | h
      · rw [decide_eq_true h, decide_eq_true (Nat.lt_succ_of_lt h), decide_eq_false (Nat.ne_of_gt h)]
        rfl
      · rw [decide_eq_false (by omega : ¬ c < n), decide_eq_true (by omega : c < n + 1), decide_eq_true h.symm]
        rfl
      · rw [decide_eq_false (Nat.lt_asymm h), decide_eq_false (by omega : ¬ c < n + 1), decide_eq_false (Nat.ne_of_lt h)]
        rfl
    rw [hstep]
    simp only [List.foldl_cons, List.foldl_nil]
    rw [Bool.xor_assoc, Bool.xor_left_comm (decide (c < n)), Bool.xor_assoc]

/-- The parity of one of a row's 9 by 33 lines. -/
theorem parity_congr {f g : Nat → Bool} {n : Nat} (h : ∀ k < n, f k = g k) (p : Bool) :
    (List.range n).foldl (fun p k => p ^^ f k) p = (List.range n).foldl (fun p k => p ^^ g k) p := by
  induction n with
  | zero => rfl
  | succ n ih =>
    rw [List.range_succ, List.foldl_append, List.foldl_append, ih fun k hk => h k (by omega)]
    simp [h n (by omega)]

/-- A list of line numbers with odd parity is empty once its one line is inverted. -/
theorem filter_flip_nil {n i : Nat} {f g : Nat → Bool} (h : (List.range n).filter f = [i])
    (hg : ∀ k < n, g k = (f k ^^ decide (i = k))) : (List.range n).filter g = [] := by
  rw [List.filter_eq_nil_iff]
  intro k hk
  have hmem : f k = true ↔ k = i := by
    have hiff : k ∈ (List.range n).filter f ↔ k = i := by rw [h, List.mem_singleton]
    rw [List.mem_filter] at hiff
    exact ⟨fun hf => hiff.mp ⟨hk, hf⟩, fun hki => (hiff.mpr hki).2⟩
  rw [hg k (List.mem_range.mp hk)]
  by_cases hi : k = i
  · rw [hmem.mpr hi, hi]
    simp
  · have hf : f k = false := Bool.eq_false_iff.mpr fun hf => hi (hmem.mp hf)
    simp [hf, Ne.symm hi]

/-- The one column that a check names lies in the row. -/
theorem line_of_filter {n i : Nat} {f : Nat → Bool} (h : (List.range n).filter f = [i]) : i < n := by
  have hmem : i ∈ (List.range n).filter f := by simp [h]
  exact List.mem_range.mp (List.mem_filter.mp hmem).1

/-- A row whose one bad bit is inverted passes its check. -/
theorem rowCheck_flip {v : BitVec 297} {i j : Nat} (hi : synR v = [i]) (hj : synS v = [j]) : rowCheck (flipBit v (33 * i + j)) = .clean := by
  have hi9 := line_of_filter hi
  have hj33 := line_of_filter hj
  have hR : synR (flipBit v (33 * i + j)) = [] := by
    refine filter_flip_nil hi fun k hk => ?_
    rw [parity_congr (g := fun x => v.getLsbD (33 * k + x) ^^ decide (x = if i = k then j else 33)) fun x hx => ?_, parity_flip]
    · by_cases h : i = k
      · simp [h, hj33]
      · simp [h]
    · rw [getLsbD_flipBit v (by omega)]
      exact congrArg _ (decide_eq_decide.mpr (by split <;> omega))
  have hS : synS (flipBit v (33 * i + j)) = [] := by
    refine filter_flip_nil hj fun k hk => ?_
    rw [parity_congr (g := fun x => v.getLsbD (33 * x + k) ^^ decide (x = if j = k then i else 9)) fun x hx => ?_, parity_flip]
    · by_cases h : j = k
      · simp [h, hi9]
      · simp [h]
    · rw [getLsbD_flipBit v (by omega)]
      exact congrArg _ (decide_eq_decide.mpr (by split <;> omega))
  unfold rowCheck
  rw [hR, hS]

/-- Bits that are all clear have even parity. -/
theorem parity_of_clear {f : Nat → Bool} (h : ∀ k, f k = false) (n : Nat) : (List.range n).foldl (fun p k => p ^^ f k) false = false := by
  induction n with
  | zero => rfl
  | succ n ih =>
    rw [List.range_succ, List.foldl_append, ih]
    simp [h]

theorem rowCheck_zero {v : BitVec 297} (h : ∀ k, v.getLsbD k = false) : rowCheck v = .clean := by
  have hR : synR v = [] := List.filter_eq_nil_iff.mpr fun i _ => by rw [parity_of_clear fun k => h _]; exact Bool.false_ne_true
  have hS : synS v = [] := List.filter_eq_nil_iff.mpr fun i _ => by rw [parity_of_clear fun k => h _]; exact Bool.false_ne_true
  unfold rowCheck
  rw [hR, hS]

/-- A row that the check corrects passes it. -/
theorem rowCheck_corrected {v : BitVec 297} (h : rowCheck v ≠ .uncorrectable) : rowCheck (corrected v) = .clean := by
  unfold corrected
  cases hv : rowCheck v with
  | clean => exact hv
  | uncorrectable => exact absurd hv h
  | bad c =>
    unfold rowCheck at hv
    split at hv
    · simp at hv
    · next i j hi hj =>
      obtain rfl := RowRes.bad.inj hv
      exact rowCheck_flip hi hj
    · simp at hv

/-- A repair of a row changes the stored rows and the error counts alone. -/
theorem repairRow_frame (e : Repair) (k : Nat) (s : State) : repairRow e k s = { s with sram := (repairRow e k s).sram } := by
  unfold repairRow
  dsimp only
  split <;> rfl

/-- What is stored in the rows after a repair of row `k`. -/
theorem repairRow_cells (e : Repair) (k : Nat) (s : State) : ∃ v, (repairRow e k s).sram.cells = tset 0 s.sram.cells k v ∧
    (e.col = false → rowCheck v = .clean) := by
  unfold repairRow
  extract_lets put
  cases hv : rowCheck (rowRead s k) with
  | uncorrectable =>
    refine ⟨_, ?_, fun _ => rowCheck_zero fun k => BitVec.getLsbD_zero⟩
    dsimp only [setRow, sramUe]
    split <;> rfl
  | clean =>
    refine ⟨_, rfl, fun he => ?_⟩
    rw [if_neg (by simp [he])]
    exact rowCheck_corrected (by simp [hv])
  | bad c =>
    refine ⟨_, rfl, fun he => ?_⟩
    rw [if_neg (by simp [he])]
    exact rowCheck_corrected (by simp [hv])

/-! ### Power states -/

/-- Between the operational states a request with nothing pending begins its transition at once. -/
theorem psRequest_of_light {n : Nat} {w : PsWaiter} {s : State} (hmode : s.md.cur = .run) (htrans : s.pwr.trans = none)
    (hwait : s.pwr.waiters = []) (hn : n < 3) (hcur : s.pwr.cur < 3) (hne : n ≠ s.pwr.cur) :
    psRequest n (some w) s = { s with pwr := { s.pwr with pend := 7, trans := some ⟨n, true, false, some w⟩ } } := by
  have hdeep : ¬ 3 ≤ n := by omega
  have hcur3 : ¬ 3 ≤ s.pwr.cur := by omega
  have h7 : n ≠ 7 := by omega
  unfold psRequest
  simp only [htrans, hwait, if_neg hne]
  rw [if_pos (by simp [psMay, hmode, hne, hdeep, h7])]
  unfold psTake psBegin
  simp [hmode, hdeep, hcur3]

/-- A request for the state in force ends at once. -/
theorem psRequest_of_same {s : State} {r : MbxRun} (hrun : s.mbx.run = some r) (hopc : r.opc = 0x0501) (htrans : s.pwr.trans = none)
    (hwait : s.pwr.waiters = []) :
    psRequest s.pwr.cur (some .mbx) s = mbxDone [(0, w32 s.pwr.cur)] { s with pwr := { s.pwr with pend := 7, wakeReq := none } } := by
  unfold psRequest
  simp only [htrans, hwait, if_true]
  unfold psTellAll psTell psTellAs
  simp [hrun, hopc]

/-! ### Commands of the mailbox -/

theorem mbHoldupSet_of_fits {m : MbxRun} {u : State} (h1 : argN m 0 ≤ 65535) (h2 : argN m 1 ≤ 16000)
    (h3 : dDump u ≤ ceilOf { u with hold := { u.hold with cap := argN m 0, vmin := argN m 1 } } * 2 ^ 20) :
    mbHoldupSet m u = { u with hold := { u.hold with waitHoldup := true } } := by
  unfold mbHoldupSet
  exact mbxDo_of_pass (by simpa [h1, h2] using h3) _ _

/-- VENT_TEST waits for its operations. -/
theorem ventTestEnd_of_waiting {s : State} (h : s.ops.any (fun o => o.work = .ventTest) = true) : ventTestEnd s = s := by
  unfold ventTestEnd
  split
  · rfl
  · exact if_pos (.inr (.inl h))

/-- A state in which VENT_TEST runs. -/
def ventTesting0 (m : MbxRun) (u : State) : State :=
  { u with
    hold := { u.hold with testMib := argN m 0, testRun := false, testDue := u.hold.testRun || u.hold.testDue },
    pin := { u.pin with holdupIso := true, holdupTest := !u.hold.testRun && u.pin.holdupTest },
    mbx := { u.mbx with run := some { m with aux := u.hk.holdup.headD 0 } },
    ops := u.ops ++ (goodLuns u).map fun l => newOp .ventTest (.lun l) .urgent (now u) 0 (genOf u 0) u }

theorem mbVentTest_of_fits {m : MbxRun} {u : State} (h1 : 1 ≤ argN m 0) (h2 : argN m 0 ≤ 4096) (h3 : u.pwr.cur = 0)
    (h4 : ventTestTooMuch u (argN m 0) = false) (h5 : goodLuns u ≠ []) : mbVentTest m u = ventTesting0 m u := by
  have h0 : argN m 0 ≠ 0 := by omega
  obtain ⟨l, ls, hl⟩ := List.exists_cons_of_ne_nil h5
  have hcut : capTestCut u = { u with
      hold := { u.hold with testRun := false, testDue := u.hold.testRun || u.hold.testDue },
      pin := { u.pin with holdupTest := !u.hold.testRun && u.pin.holdupTest } } := by
    unfold capTestCut
    cases ht : u.hold.testRun with
    | true => simp
    | false =>
      have hhold : ({ u.hold with testRun := false } : Hold) = u.hold := by rw [← ht]
      simp only [Bool.false_or, Bool.not_false, Bool.true_and, Bool.false_eq_true, if_false]
      rw [hhold]
  unfold mbVentTest
  refine (mbxDo_of_pass (by simp [h0, h2, h3, h4]) _ _).trans ?_
  dsimp only
  rw [hcut]
  refine (ventTestEnd_of_waiting ?_).trans rfl
  change (u.ops ++ (goodLuns u).map _).any _ = true
  rw [List.any_append, hl]
  simp [newOp]

/-- WATCH_CONFIG's values. -/
def watchValues (m : MbxRun) (u : State) : Pwr :=
  { u.pwr with
    watchPeriod := argN m 0, watchMask := BitVec.ofNat 12 (argN m 1),
    thr := (List.range 12).foldl (fun t c => tset (thrDflt c) t c (wakeRegs u c)) u.pwr.thr }

theorem mbWatchConfig_of_ordered {m : MbxRun} {u : State} (h1 : 10 ≤ argN m 0) (h2 : argN m 0 ≤ 60000) (h3 : argN m 1 ≤ 4095)
    (h4 : (argN m 1).testBit 4 = false) (h5 : ∀ c, c < 12 → chVal c (wakeRegs u c).1 ≤ chVal c (wakeRegs u c).2) :
    mbWatchConfig m u = mbxDone [] { u with pwr := watchValues m u } := by
  have hnone : ((List.range 12).find? fun c => decide (chVal c (wakeRegs u c).2 < chVal c (wakeRegs u c).1)) = none :=
    List.find?_eq_none.mpr fun c hc => by simpa using h5 c (List.mem_range.mp hc)
  have h1' : ¬ argN m 0 < 10 := by omega
  unfold mbWatchConfig
  dsimp only
  rw [hnone]
  exact mbxDo_of_pass (by simp [h1', h2, h3, h4]) _ _

/-- A table written with another default reads as before elsewhere. -/
theorem tget_tset_ne_of {α : Type} [DecidableEq α] (d d' : α) (t : Table α) {i j : Nat} (v : α) (h : i ≠ j) :
    tget d' (tset d t i v) j = tget d' t j := by
  unfold tset
  split
  · exact tget_drop_ne t h
  · rw [tget_tins, if_neg h]

/-- The thresholds of WATCH, filled in order. -/
theorem tget_watchThr (g : Nat → Nat × Nat) (n : Nat) (t : Table (Nat × Nat)) {c : Nat} (h : c < n) :
    tget (thrDflt c) ((List.range n).foldl (fun t c => tset (thrDflt c) t c (g c)) t) c = g c := by
  induction n with
  | zero => omega
  | succ n ih =>
    rw [List.range_succ, List.foldl_append]
    simp only [List.foldl_cons, List.foldl_nil]
    by_cases hc : n = c
    · rw [hc, tget_tset_same]
    · rw [tget_tset_ne_of _ _ _ _ hc]
      exact ih (by omega)

theorem mbScrub_of_range {m : MbxRun} {u : State} (h1 : argN m 0 ≤ argN m 1) (h2 : argN m 1 ≤ 1151) (h3 : argN m 2 ≤ 1) :
    mbScrub m u = scrubStart m u := by
  have h0 : argN m 0 ≤ 1151 := by omega
  unfold mbScrub
  exact mbxDo_of_pass (by simp [h0, h1, h2, h3]) _ _

theorem mbRankMigrate_of_spare {m : MbxRun} {u : State} (h1 : argN m 0 ≤ 3) (h2 : argN m 1 ≤ 3)
    (h3 : (rankOf u (4 * argN m 0 + argN m 1)).st = 1) (h4 : freeSpare u (argN m 0) = true) :
    mbRankMigrate m u = retireRank (4 * argN m 0 + argN m 1) 4 u := by
  unfold mbRankMigrate
  exact mbxDo_of_pass (by simp [h1, h2, h3, h4]) _ _

/-- The bank after REPAIR_ADD. -/
def repairAdded (e : Repair) (u : State) : State :=
  { repairCopy e u with sram := { (repairCopy e u).sram with repairs := u.sram.repairs ++ [e] } }

theorem mbRepairAdd_of_new {m : MbxRun} {u : State} (h1 : argN m 0 ≤ 1151)
    (h2 : (argN m 1 = 0 ∧ argN m 2 ≤ 4095) ∨ (argN m 1 = 1 ∧ argN m 2 ≤ 296))
    (h3 : (⟨argN m 0, argN m 1 = 1, argN m 2⟩ : Repair) ∉ u.sram.repairs) (h4 : u.sram.repairs.length < 64) :
    mbRepairAdd m u = mbxDone [(0, w32 (u.sram.repairs.length + 1))]
      (if u.sram.repairs.length = 63 then causeOn 2 (repairAdded ⟨argN m 0, argN m 1 = 1, argN m 2⟩ u)
        else repairAdded ⟨argN m 0, argN m 1 = 1, argN m 2⟩ u) := by
  have h5 : ¬ 64 ≤ u.sram.repairs.length := by omega
  have hlen : (u.sram.repairs ++ [(⟨argN m 0, argN m 1 = 1, argN m 2⟩ : Repair)]).length = u.sram.repairs.length + 1 := by simp
  have hargs : argN m 1 ≤ 1 ∧ (if argN m 1 = 1 then argN m 2 ≤ 296 else argN m 2 ≤ 4095) := by
    rcases h2 with ⟨ha, hb⟩ | ⟨ha, hb⟩
    · rw [if_neg (by omega)]
      omega
    · rw [if_pos ha]
      omega
  unfold mbRepairAdd
  refine (mbxDo_of_pass ?_ _ _).trans ?_
  · simp [h1, hargs.1, h3, h5]
    simpa using hargs.2
  · dsimp only
    rw [hlen]
    simp only [Nat.reduceEqDiff]
    rfl

theorem mbFleetSetId_of_member {m : MbxRun} {u : State} (h : argN m 2 ≤ 16383) :
    mbFleetSetId m u = mbxDone [] { u with flt := { u.flt with sysid := BitVec.ofNat 64 (arg64 m 0), member := argN m 2 } } := by
  unfold mbFleetSetId
  exact mbxDo_of_pass (by simp [h]) _ _

theorem mbFleetLoadMigrationKey_of_unwraps {m : MbxRun} {u : State} {key : List Byte} (hb : BufOk m 56 0x4000000)
    (h1 : keyEntryBarred u = false) (h2 : u.co.role = true) (h3 : u.vault.live.kek.isSome = true)
    (h4 : unwrapKey u (bufBytes m 56) 48 = some key) :
    mbFleetLoadMigrationKey m u =
      mbxDone [] (recordVault { u with vault := { u.vault with live := { u.vault.live with mig := some key } } }) := by
  have hk : u.vault.live.kek.isNone = false := by rw [← Option.not_isSome, h3]; rfl
  unfold mbFleetLoadMigrationKey
  simp only [h4]
  refine mbxDo_of_pass ?_ _ _
  rw [bufChecks_ok _ _ _ hb, bufLong_ok _ _ _ hb]
  simp [keyBarred, h1, h2, hk]

/-! ### FLEET_SET_EXPECTED (R446) -/

/-- The mark does not follow what the shared configuration set does not hold. -/
theorem witnessMark_congr {s t : State} (hepoch : t.flt.epoch = s.flt.epoch) (hreg : regFld t 0x60028 7 0 = regFld s 0x60028 7 0)
    (h : t = { s with regs := t.regs, rsv := t.rsv, mbx := t.mbx, flt := t.flt }) : witnessMark t = witnessMark s := by
  unfold witnessMark sharedSet
  rw [hreg, hepoch]
  generalize t.regs = g, t.rsv = v, t.mbx = x, t.flt = f at h
  subst h
  rfl

theorem witnessEval_stored (b : Bool) (s : State) : (witnessEval b s).flt.expValid = s.flt.expValid ∧ (witnessEval b s).flt.epoch = s.flt.epoch := by
  unfold witnessEval mismatchPost
  dsimp only
  repeat' split
  · exact ⟨rfl, rfl⟩
  · exact ⟨rfl, rfl⟩
  · exact ⟨rfl, rfl⟩
  · rw [postEvent_frame]
    exact ⟨rfl, rfl⟩
  · exact ⟨rfl, rfl⟩

/-- The mailbox once a running command has ended. -/
theorem mbxStop_mbx (st : MbxSt) (code : Nat) (res : List (Nat × W32)) (s : State) : (mbxStop st code res s).mbx.run = none ∧
    (mbxStop st code res s).mbx.st = st ∧ (mbxStop st code res s).mbx.results = res.foldl (fun t r => tset 0 t r.1 r.2) [] := by
  unfold mbxStop
  extract_lets n m u
  have hu : u.mbx.run = none ∧ u.mbx.st = st ∧ u.mbx.results = res.foldl (fun t r => tset 0 t r.1 r.2) [] := ⟨rfl, rfl, rfl⟩
  clear_value u
  split
  · rw [msiOwe_frame]
    exact hu
  · exact hu

/-- The mailbox once a command that no Vent pauses is done, whatever goes on after a long one. -/
theorem mbxDone_mbx {s : State} {r : MbxRun} (hrun : s.mbx.run = some r) (hpaused : r.paused = false) (v : W32) :
    (mbxDone [(0, v)] s).mbx.run = none ∧ (mbxDone [(0, v)] s).mbx.st = .done ∧ tget 0 (mbxDone [(0, v)] s).mbx.results 0 = v := by
  have hstop := mbxStop_mbx .done 0 [(0, v)] s
  have hget : tget 0 (tset 0 ([] : Table W32) 0 v) 0 = v := tget_tset_same ..
  have hdone : mbxDone [(0, v)] s = if s.mbx.long then afterLong (mbxStop .done 0 [(0, v)] s) else mbxStop .done 0 [(0, v)] s := by
    unfold mbxDone
    rw [if_neg (by simp [hrun, hpaused])]
  rw [hdone]
  generalize mbxStop .done 0 [(0, v)] s = t at *
  obtain ⟨h1, h2, h3⟩ := hstop
  have h : t.mbx.run = none ∧ t.mbx.st = .done ∧ tget 0 t.mbx.results 0 = v := ⟨h1, h2, by rw [h3]; exact hget⟩
  split
  · rw [afterLong_frame]
    exact h
  · exact h

/-- The fleet values that the command sets, with the mark recomputed. -/
def fleetMarked (m : MbxRun) (u : State) : State :=
  let v : State := { u with flt := { u.flt with
    expected := BitVec.ofNat 128 (arg64 m 0 + 2 ^ 64 * arg64 m 2), expValid := true, epoch := w32 (argN m 4) } }
  { v with flt := { v.flt with computed := witnessMark v, seq := u.flt.seq + 1 } }

theorem mbFleetSetExpected_eq (m : MbxRun) (u : State) : ∃ b, mbFleetSetExpected m u =
    mbxDone [(0, w32 (b2n (witnessMatch (witnessEval b (fleetMarked m u)))))] (witnessEval b (fleetMarked m u)) := ⟨_, rfl⟩

/-- What FLEET_SET_EXPECTED leaves. -/
theorem mbFleetSetExpected_spec {m : MbxRun} {u : State} (hrun : u.mbx.run = some m) (hpaused : m.paused = false) :
    let t := mbFleetSetExpected m u
    t.flt.expected = BitVec.ofNat 128 (arg64 m 0 + 2 ^ 64 * arg64 m 2) ∧ t.flt.epoch = w32 (argN m 4) ∧ t.flt.expValid = true ∧
    t.flt.computed = (fleetMarked m u).flt.computed ∧ t.flt.seq = u.flt.seq + 1 ∧ t.mbx.st = .done ∧
    tget 0 t.mbx.results 0 = w32 (b2n (t.flt.computed = t.flt.expected)) ∧ t.nss = u.nss := by
  obtain ⟨b, hb⟩ := mbFleetSetExpected_eq m u
  have hfields : (fleetMarked m u).flt.expected = BitVec.ofNat 128 (arg64 m 0 + 2 ^ 64 * arg64 m 2) ∧
      (fleetMarked m u).flt.epoch = w32 (argN m 4) ∧ (fleetMarked m u).flt.expValid = true ∧ (fleetMarked m u).flt.seq = u.flt.seq + 1 ∧
      (fleetMarked m u).mbx = u.mbx ∧ (fleetMarked m u).nss = u.nss := ⟨rfl, rfl, rfl, rfl, rfl, rfl⟩
  rw [hb]
  generalize fleetMarked m u = f at *
  obtain ⟨hcomp, hseq, hexp⟩ := witnessEval_flt b f
  obtain ⟨hvalid, hepoch⟩ := witnessEval_stored b f
  have heval := witnessEval_frame b f
  obtain ⟨f1, f2, f3, f4, f5, f6⟩ := hfields
  generalize witnessEval b f = e at *
  have hmbx : e.mbx = u.mbx := by rw [heval, f5]
  have hnss : e.nss = u.nss := by rw [heval, f6]
  have hmatch : witnessMatch e = decide (e.flt.computed = e.flt.expected) := by
    unfold witnessMatch
    rw [hvalid, f3]
    rfl
  obtain ⟨-, hst, hres⟩ := mbxDone_mbx (s := e) (by rw [hmbx]; exact hrun) hpaused (w32 (b2n (witnessMatch e)))
  have hdone := mbxDone_frame [(0, w32 (b2n (witnessMatch e)))] e
  generalize mbxDone [(0, w32 (b2n (witnessMatch e)))] e = t at *
  have hflt : t.flt = e.flt := by rw [hdone]
  have hnss' : t.nss = u.nss := by rw [hdone, hnss]
  dsimp only
  rw [hflt]
  exact ⟨hexp.trans f1, hepoch.trans f2, hvalid.trans f3, hcomp, hseq.trans f4, hst, by rw [hres, hmatch], hnss'⟩

/-! ### The round that ends HOLDUP_SET (R367) -/

/-- With a command running that waits for no other, deciding a status leaves the mailbox. -/
theorem mbx_finish_of_other {s : State} {r : MbxRun} (hrun : s.mbx.run = some r) (hopc : r.opc ≠ 0x0406) (id : CmdId) (st : Status) (a b : W32) :
    (finish id st a b s).mbx = s.mbx := by
  have hpost : (post id (modCmd id (fun c => { c with phase := .decided, status := some st, dw0 := a, dw1 := b }) s)).mbx = s.mbx := by
    rw [post_frame]
    rfl
  rw [finish, frzCount_frame]
  generalize post id (modCmd id (fun c => { c with phase := .decided, status := some st, dw0 := a, dw1 := b }) s) = u at *
  change (lockSetEnd u).mbx = s.mbx
  unfold lockSetEnd
  simp only [hpost, hrun]
  rw [if_pos (.inl hopc), hpost]

/-- So does the completion of FUA writes. -/
theorem mbx_fuaCheck_of_other {s : State} {r : MbxRun} (hrun : s.mbx.run = some r) (hopc : r.opc ≠ 0x0406) : (fuaCheck s).mbx = s.mbx := by
  unfold fuaCheck
  extract_lets done u
  have hfold : ∀ (l : List Cmd) (v : State), v.mbx = s.mbx →
      (l.foldl (fun s c => finish c.id okSt c.dw0 c.dw1 (markCovered c.cover s)) v).mbx = s.mbx := by
    intro l
    induction l with
    | nil => exact fun v hv => hv
    | cons c l ih =>
      intro v hv
      refine ih _ ?_
      have hm : (markCovered c.cover v).mbx = s.mbx := hv
      rw [mbx_finish_of_other (r := r) (by rw [hm]; exact hrun) hopc, hm]
  have hu : u.mbx = s.mbx := hfold done s rfl
  have hsettle : SettleFrame u ((coverZones u ((done.map Cmd.cover).flatten)).foldl (fun s z => zoneSettle z.1 z.2 s) u) :=
    .foldl (fun _ _ => zoneSettle_settleFrame ..) _ _
  exact (congrArg State.mbx hsettle :).trans hu

/-- The round at which HOLDUP_SET's values come into force ends it. -/
theorem ceilRound_of_holdupSet {s : State} {r : MbxRun} (hrun : s.mbx.run = some r) (hopc : r.opc = 0x0502) (hpaused : r.paused = false)
    (hwait : s.hold.waitHoldup = true) : let t := ceilRound s
    t.hold.cap = argN r 0 ∧ t.hold.vmin = argN r 1 ∧ t.hold.waitHoldup = false ∧ t.mbx.run = none ∧ t.mbx.st = .done ∧
    tget 0 t.mbx.results 0 = w32 t.hold.ceil := by
  have hnew : holdupNew s = { s with hold := { s.hold with cap := argN r 0, vmin := argN r 1 } } := by
    unfold holdupNew
    simp only [hrun]
    exact if_pos ⟨hwait, hopc, by simp [hpaused]⟩
  have happly := holdupApply_frame s
  rw [hnew] at happly
  have hset := ceilSet_frame s
  have hmbx : (ceilSet s).mbx = s.mbx := by
    unfold ceilSet
    obtain ⟨q, hq⟩ := wbUpdate_shape (setCeil (holdupApply s))
    have hm : (wbUpdate (setCeil (holdupApply s))).mbx = s.mbx := by
      rw [hq]
      exact (congrArg State.mbx happly :)
    rw [mbx_fuaCheck_of_other (r := r) (by rw [hm]; exact hrun) (by rw [hopc]; decide), hm]
  have hhold : (ceilSet s).hold = { (holdupApply s).hold with ceil := ceilOf (holdupApply s) } := (congrArg State.hold hset :)
  have hcap : (ceilSet s).hold.cap = argN r 0 := by rw [hhold, happly]
  have hvmin : (ceilSet s).hold.vmin = argN r 1 := by rw [hhold, happly]
  have hw : (ceilSet s).hold.waitHoldup = true := by
    rw [hhold, happly]
    exact hwait
  unfold ceilRound
  rw [show fuaCheck (wbUpdate (setCeil (holdupApply s))) = ceilSet s from rfl]
  generalize ceilSet s = u at *
  dsimp only
  rw [if_pos (by simp [hw, hmbx, hrun, hpaused]), if_pos (by simp [hmbx, hrun, hopc])]
  have hrun' : ({ u with hold := { u.hold with waitHoldup := false } } : State).mbx.run = some r := by
    change u.mbx.run = some r
    rw [hmbx]
    exact hrun
  have hkept := modeKept_mbxDone (s := { u with hold := { u.hold with waitHoldup := false } }) (by rw [hrun']; simp) [(0, w32 u.hold.ceil)]
  obtain ⟨h1, h2, h3⟩ := mbxDone_mbx hrun' hpaused (w32 u.hold.ceil)
  exact ⟨hkept.cap.trans hcap, hkept.vmin.trans hvmin, hkept.wait rfl, h1, h2, by rw [h3, hkept.ceil]⟩

/-- A slow round that ends HOLDUP_SET. -/
theorem housekeepingRound_of_holdupSet {x : Readings} {s : State} {r : MbxRun} (hrun : s.mbx.run = some r) (hopc : r.opc = 0x0502)
    (hpaused : r.paused = false) (hwait : s.hold.waitHoldup = true) (hmode : s.md.cur = .run) (hedge : s.clk.edge = true)
    (hdue : s.hk.roundAt + 1638 ≤ s.clk.ticks) : Answers (.housekeepingRound x) s fun t =>
      t.hold.cap = argN r 0 ∧ t.hold.vmin = argN r 1 ∧ t.hold.waitHoldup = false ∧ t.mbx.run = none ∧ t.mbx.st = .done ∧
      tget 0 t.mbx.results 0 = w32 t.hold.ceil ∧ t.nss = s.nss ∧ t.vault = s.vault := by
  refine ⟨thermStep (x.ch.getD 0 0).toInt (ceilRound (putReadings x { s with hk := { s.hk with roundAt := s.clk.ticks } })), ?_, ?_⟩
  · change execHousekeepingRound x s = _
    unfold execHousekeepingRound ticksPast
    rw [if_neg (by simp [hmode, hedge, hdue])]
  · obtain ⟨-, cnss, cvault, -⟩ := ceilRound_ceilRound (putReadings x { s with hk := { s.hk with roundAt := s.clk.ticks } })
    obtain ⟨c1, c2, c3, c4, c5, c6⟩ := ceilRound_of_holdupSet (s := putReadings x { s with hk := { s.hk with roundAt := s.clk.ticks } })
      hrun hopc hpaused hwait
    generalize ceilRound (putReadings x { s with hk := { s.hk with roundAt := s.clk.ticks } }) = u at *
    obtain ⟨-, -, hnss, -, hvault, hcap, hvmin, hceil, hwait', hmbx⟩ := reading_thermStep (x.ch.getD 0 0).toInt u
    have hm := hmbx c4
    generalize thermStep (x.ch.getD 0 0).toInt u = t at *
    rw [hm]
    exact ⟨hcap.trans c1, hvmin.trans c2, hwait' c3, c4, c5, by rw [c6, hceil], hnss.trans cnss, hvault.trans cvault⟩

/-! ### O59 -/

/-- The registers of an issued command are those of before it, but for the mailbox's own. -/
theorem regFld_issued {opc : Nat} {r : MbxReq} {met : List SramMet} {test : Option SelfTest} {s a : State} {m : MbxRun}
    (h : Issued opc r met test s a m) {o : Nat} (ho : o < 0x20000 ∨ 0x20058 < o) (hi lo : Nat) : regFld a o hi lo = regFld s o hi lo := by
  obtain ⟨-, -, -, -, -, -, rfl, -⟩ := h
  unfold regFld
  rw [regGet_mbxAccept, regGet_reqDone_outside ho]

theorem mbPowerStateSet_of_state {m : MbxRun} {u : State} (h : argN m 0 ≤ 4) :
    mbPowerStateSet m u = psRequest (argN m 0) (some .mbx) u := by
  unfold mbPowerStateSet
  exact mbxDo_of_pass (by simp [h]) _ _

/-- The ceiling does not follow what an issue writes. -/
theorem ceilOf_issued {opc : Nat} {r : MbxReq} {met : List SramMet} {test : Option SelfTest} {s a : State} {m : MbxRun}
    (h : Issued opc r met test s a m) (cap vmin : Nat) : ceilOf { a with hold := { a.hold with cap := cap, vmin := vmin } } =
      ceilOf { s with hold := { s.hold with cap := cap, vmin := vmin } } := by
  have h1 := regFld_issued h (o := 0x30214) (.inr (by decide)) 31 16
  have h2 := regFld_issued h (o := 0x30214) (.inr (by decide)) 15 0
  obtain ⟨-, -, -, -, -, -, ha, -⟩ := h
  rw [mbxAccept_frame] at ha
  unfold ceilOf
  rw [show regFld { a with hold := { a.hold with cap := cap, vmin := vmin } } 0x30214 31 16 = regFld a 0x30214 31 16 from rfl, h1,
    show regFld { a with hold := { a.hold with cap := cap, vmin := vmin } } 0x30214 15 0 = regFld a 0x30214 15 0 from rfl, h2, ha]
  rfl

/-- Nor does what VENT_TEST may ask. -/
theorem ventTestTooMuch_issued {opc : Nat} {r : MbxReq} {met : List SramMet} {test : Option SelfTest} {s a : State} {m : MbxRun}
    (h : Issued opc r met test s a m) (mib : Nat) : ventTestTooMuch a mib = ventTestTooMuch s mib := by
  have h1 := regFld_issued h (o := 0x30214) (.inr (by decide)) 31 16
  have h2 := regFld_issued h (o := 0x30214) (.inr (by decide)) 15 0
  obtain ⟨-, -, -, -, -, -, ha, -⟩ := h
  rw [mbxAccept_frame] at ha
  unfold ventTestTooMuch
  rw [h1, h2, ha]
  rfl

/-- Settles O59: each command passes its checks and acts, and the round that ends HOLDUP_SET decides nothing else of the mailbox. -/
theorem powerMemoryAndFleet : Obligations.PowerMemoryAndFleet := by
  unfold Obligations.PowerMemoryAndFleet
  refine ⟨?power, ?holdup, ?round, ?vent, ?watch, ?scrub, ?migrate, ?repair, ?row, ?setId, ?expected, ?key⟩
  case power =>
    intro r s a m h h1
    obtain ⟨hopc, -, -, -, -, hrun, -⟩ := issued_latch h
    have hmode : s.md.cur = .run := h.2.1
    obtain ⟨g, v, x, rfl, e⟩ := exec_issued (.powerStateSet r) mbPowerStateSet h
    have hbody := e.trans (next_congr (mbPowerStateSet_of_state h1))
    refine ⟨hbody, fun htrans hwait => ⟨fun hn hc hne => ?_, fun hsame => ?_⟩⟩
    · exact hbody.trans (next_congr (psRequest_of_light hmode htrans hwait hn hc hne))
    · rw [hbody, hsame]
      exact next_congr (psRequest_of_same hrun hopc htrans hwait)
  case holdup =>
    intro r s a m h h1 h2 h3
    have hfits : dDump a ≤ ceilOf { a with hold := { a.hold with cap := argN m 0, vmin := argN m 1 } } * 2 ^ 20 := by
      have hceil : ceilOf { a with hold := { a.hold with cap := argN m 0, vmin := argN m 1 } } =
          ceilOf { s with hold := { s.hold with cap := argN m 0, vmin := argN m 1 } } := ceilOf_issued h _ _
      rw [hceil]
      obtain ⟨-, -, -, -, -, -, rfl, -⟩ := h
      rw [mbxAccept_frame]
      exact h3
    obtain ⟨g, v, x, -, e⟩ := exec_issued (.holdupSet r) mbHoldupSet h
    exact e.trans (next_congr (mbHoldupSet_of_fits h1 h2 hfits))
  case round =>
    intro x s r hrun hopc hpaused hwait hmode hedge hdue
    exact housekeepingRound_of_holdupSet hrun hopc hpaused hwait hmode hedge hdue
  case vent =>
    intro r s a m h h1 h2 h3 h4 h5
    have hbusy : a.mbx.st = .busy := by
      obtain ⟨-, -, -, -, -, -, rfl, -⟩ := h
      rfl
    have hfits : ventTestTooMuch a (argN m 0) = false := (ventTestTooMuch_issued h _).trans h4
    obtain ⟨g, v, x, rfl, e⟩ := exec_issued (.ventTest r) mbVentTest h
    refine ⟨_, e.trans (next_congr (mbVentTest_of_fits h1 h2 h3 hfits h5)), rfl, hbusy, rfl, rfl, fun ht => ⟨?_, ?_⟩, rfl, rfl⟩
    · change (!s.hold.testRun && s.pin.holdupTest) = false
      rw [ht]
      rfl
    · change (s.hold.testRun || s.hold.testDue) = true
      rw [ht]
      rfl
  case watch =>
    intro r s a m h h1 h2 h3 h4 h5
    have hregs : ∀ c, c < 12 → wakeRegs a c = wakeRegs s c := fun c hc => by
      unfold wakeRegs
      rw [regFld_issued h (.inr (by omega)), regFld_issued h (.inr (by omega))]
    obtain ⟨-, hpaused, -, -, -, hrun, hlong⟩ := issued_latch h
    obtain ⟨g, v, x, ha, e⟩ := exec_issued (.watchConfig r) mbWatchConfig h
    have hbody := e.trans (next_congr (mbWatchConfig_of_ordered h1 h2 h3 h4 fun c hc => by rw [hregs c hc]; exact h5 c hc))
    have hpwr : (mbxDone [] { a with pwr := watchValues m a }).pwr = watchValues m a := by
      rw [mbxDone_of_short (m := m) (by exact hrun) hpaused (by exact hlong), mbxStop_frame]
    have hapwr : a.pwr = s.pwr := by rw [ha]
    refine ⟨_, hbody, ?_, ?_, ?_, fun c hc => ?_, ?_, ?_⟩
    · rw [hpwr]
    · rw [hpwr]
      rfl
    · rw [hpwr]
      rfl
    · rw [hpwr, ← hregs c hc]
      exact tget_watchThr (wakeRegs a) 12 a.pwr.thr hc
    · rw [hpwr, ← hapwr]
      rfl
    · rw [hpwr, ← hapwr]
      rfl
  case scrub =>
    intro r met s a m h h1 h2 h3
    obtain ⟨-, -, -, hmet, -, -, -⟩ := issued_latch h
    obtain ⟨g, v, x, rfl, e⟩ := exec_issued (.scrub r met) mbScrub h
    have hbody := e.trans (next_congr (mbScrub_of_range h1 h2 h3))
    refine ⟨hbody, fun hnone => hbody.trans (next_congr ?_)⟩
    unfold scrubStart
    rw [hmet, hnone]
    rfl
  case migrate =>
    intro r s a m h h1 h2 h3 h4
    obtain ⟨g, v, x, rfl, e⟩ := exec_issued (.rankMigrate r) mbRankMigrate h
    exact e.trans (next_congr (mbRankMigrate_of_spare h1 h2 h3 h4))
  case repair =>
    intro r s a m h h1 h2 rep h3 h4 u w
    obtain ⟨g, v, x, rfl, e⟩ := exec_issued (.repairAdd r) mbRepairAdd h
    exact e.trans (next_congr (mbRepairAdd_of_new h1 h2 h3 h4))
  case row =>
    intro e k s
    obtain ⟨v, hcells, hclean⟩ := repairRow_cells e k s
    refine ⟨fun he => ?_, fun i hi => ?_, repairRow_frame e k s⟩
    · rw [hcells, tget_tset_same]
      exact hclean he
    · rw [hcells, tget_tset_ne _ _ (Ne.symm hi)]
  case setId =>
    intro r s a m h h1
    obtain ⟨g, v, x, -, e⟩ := exec_issued (.fleetSetId r) mbFleetSetId h
    exact e.trans (next_congr (mbFleetSetId_of_member h1))
  case expected =>
    intro r s a m h
    obtain ⟨-, hpaused, -, -, -, hrun, -⟩ := issued_latch h
    have hreg := regFld_issued h (o := 0x60028) (.inr (by decide)) 7 0
    obtain ⟨g, v, x, rfl, e⟩ := exec_issued (.fleetSetExpected r) mbFleetSetExpected h
    obtain ⟨h1, h2, h3, h4, h5, h6, h7, h8⟩ := mbFleetSetExpected_spec hrun hpaused
    refine ⟨_, e, h1, h2, h3, h4.trans ?_, h5, h6, h7, h8⟩
    exact witnessMark_congr rfl hreg rfl
  case key =>
    intro r s a m key h hb h1 h2 h3 h4
    obtain ⟨g, v, x, rfl, e⟩ := exec_issued (.fleetLoadMigrationKey r) mbFleetLoadMigrationKey h
    exact e.trans (next_congr (mbFleetLoadMigrationKey_of_unwraps hb h1 h2 h3 h4))

end Sys2Proof.Machine


/-!
PROOFS. Power states and WATCH (R331, R347 to R360, R379, R401): what a slow edge keeps, the self-tests that pass, and O45.
-/
namespace Sys2Proof.Machine

open Sys2Proof

/-! ### What posted writes keep at a slow edge (R51 to R53, R352) -/

/-- What an edge keeps of the device around the always-on registers. -/
structure EdgeKept (s t : State) : Prop where
  clk : t.clk = s.clk
  sec : t.sec = s.sec
  co : t.co = s.co
  pwr : t.pwr = s.pwr

namespace EdgeKept

theorem refl (s : State) : EdgeKept s s := ⟨rfl, rfl, rfl, rfl⟩

theorem trans {s t u : State} (h : EdgeKept s t) (k : EdgeKept t u) : EdgeKept s u :=
  ⟨k.clk.trans h.clk, k.sec.trans h.sec, k.co.trans h.co, k.pwr.trans h.pwr⟩

/-- `trans` with the later part first, which names the state between. -/
theorem after {s t u : State} (k : EdgeKept t u) (h : EdgeKept s t) : EdgeKept s u := h.trans k

theorem foldl {α : Type} {g : State → α → State} (hg : ∀ s x, EdgeKept s (g s x)) (l : List α) (s : State) : EdgeKept s (l.foldl g s) := by
  induction l generalizing s with
  | nil => exact refl s
  | cons x l ih => exact (hg s x).trans (ih _)

end EdgeKept

theorem edgeKept_regWrite (al : RegAlias) (off : Nat) (v : W32) (s : State) : EdgeKept s (regWrite s al off v) := by
  rw [regWrite_frame]
  exact ⟨rfl, rfl, rfl, rfl⟩

theorem edgeKept_regSetFld (off hi lo v : Nat) (s : State) : EdgeKept s (regSetFld s off hi lo v) := by
  rw [regSetFld_frame]
  exact ⟨rfl, rfl, rfl, rfl⟩

theorem edgeKept_witness (s : State) : EdgeKept s (witness s) := by
  rw [witness_frame]
  exact ⟨rfl, rfl, rfl, rfl⟩

theorem edgeKept_fuaCheck (s : State) : EdgeKept s (fuaCheck s) := by
  rw [fuaCheck_decideFrame]
  exact ⟨rfl, rfl, rfl, rfl⟩

/-- A gate keeps what its acceptance keeps. -/
theorem edgeKept_gateRun {base off bit obj : Nat} {owned : Bool} {checks : GateFail} {ok : State → State}
    (hok : ∀ s, EdgeKept s (ok s)) (s : State) : EdgeKept s (gateRun base off bit obj owned checks ok s) := by
  unfold gateRun
  split
  · exact ⟨rfl, rfl, rfl, rfl⟩
  · split
    · exact ⟨rfl, rfl, rfl, rfl⟩
    · cases checks with
      | some f => exact ⟨rfl, rfl, rfl, rfl⟩
      | none => exact (hok _).after ⟨rfl, rfl, rfl, rfl⟩

theorem edgeKept_thermGate (s : State) : EdgeKept s (thermGate s) := by
  refine edgeKept_gateRun (fun u => ?_) s
  unfold thermAccept
  exact (edgeKept_witness _).after ((edgeKept_regSetFld ..).after ⟨rfl, rfl, rfl, rfl⟩)

theorem edgeKept_ventGate (s : State) : EdgeKept s (ventGate s) := by
  refine edgeKept_gateRun (fun u => ?_) s
  unfold ventAccept
  exact (edgeKept_fuaCheck _).after ((edgeKept_regSetFld ..).after ⟨rfl, rfl, rfl, rfl⟩)

theorem edgeKept_gatedWrite {gate : State → State} (hgate : ∀ s, EdgeKept s (gate s)) (al : RegAlias) (off bit : Nat) (v : W32) (s : State) :
    EdgeKept s (gatedWrite al off bit v gate s) := by
  unfold gatedWrite
  dsimp only
  split
  · exact (hgate _).after (edgeKept_regWrite ..)
  · split
    · exact (edgeKept_regSetFld ..).after (edgeKept_regWrite ..)
    · exact edgeKept_regWrite ..

theorem edgeKept_capTest (s : State) : EdgeKept s (capTest s) := by
  unfold capTest
  split
  · exact .refl s
  · split <;> exact ⟨rfl, rfl, rfl, rfl⟩

/-- No posted write reaches the clock, the security state, the Crypto Officer's role or the power state. -/
theorem edgeKept_aonApply (w : AonWrite) (s : State) : EdgeKept s (aonApply w s) := by
  unfold aonApply
  split
  · exact edgeKept_gatedWrite edgeKept_thermGate ..
  · split
    · exact edgeKept_gatedWrite edgeKept_ventGate ..
    · split
      · split
        · exact edgeKept_capTest s
        · exact .refl s
      · exact edgeKept_regWrite ..

theorem edgeKept_aonRefresh (s : State) : EdgeKept s (aonRefresh s) := by
  rw [aonRefresh_frame]
  generalize (aonRefresh s).hk.copies = c
  exact ⟨rfl, rfl, rfl, rfl⟩

theorem edgeKept_aonEdge (s : State) : EdgeKept s (aonEdge s) := by
  unfold aonEdge
  extract_lets q u
  have hu : EdgeKept s u := ⟨rfl, rfl, rfl, rfl⟩
  have hfold : EdgeKept u (q.foldl (fun s w => aonApply w s) u) := .foldl (fun s w => edgeKept_aonApply w s) _ _
  exact (edgeKept_aonRefresh _).after (hu.trans hfold)

/-- With nothing in the queue an edge takes in what is held and completes the snapshots that wait. -/
theorem aonEdge_of_empty_queue {s : State} (h : s.aonQ = []) : aonEdge s = { s with
    aonQ := (aonEdge s).aonQ, aonHeld := (aonEdge s).aonHeld, wvTop := (aonEdge s).wvTop, wvVf := (aonEdge s).wvVf,
    hk := { s.hk with copies := (aonEdge s).hk.copies } } := by
  have hedge : aonEdge s = aonRefresh (wvEdge { s with aonQ := s.aonHeld.take 8, aonHeld := s.aonHeld.drop 8 }) := by
    unfold aonEdge
    rw [h]
    rfl
  rw [hedge, aonRefresh_frame]
  generalize (aonRefresh _).hk.copies = c
  rfl

/-! ### The commit point of WATCH (R352, R353) -/

/-- The always-on domain's part of the entry to WATCH. -/
def watchStored (s : State) : State := storeP (aonEdge (coEnd (sessionsEnd s)))

/-- What firmware stores and ends before the core supply goes off. -/
structure WatchStored (s t : State) : Prop where
  clk : t.clk = s.clk
  sec : t.sec = { s.sec with sessions := [] }
  co : t.co = { s.co with role := false }
  pwr : t.pwr = s.pwr
  pPend : t.pPend = []

theorem watchStored_of_edge {s u : State} (h : EdgeKept (coEnd (sessionsEnd s)) u) : WatchStored s (storeP u) :=
  ⟨h.clk, h.sec, h.co, h.pwr, rfl⟩

theorem watchStored_watchStored (s : State) : WatchStored s (watchStored s) := watchStored_of_edge (edgeKept_aonEdge _)

/-- With no write posted, all that is stored is what the registers and the configuration held. -/
theorem watchStored_of_empty_queue {s : State} (h : s.aonQ = []) : (watchStored s).nor = (storeP s).nor ∧ (watchStored s).norCfg = cfgOf s ∧
    watchStored s = { s with
      sec := (watchStored s).sec, co := (watchStored s).co, nor := (watchStored s).nor, norCfg := (watchStored s).norCfg, pPend := [],
      aonQ := (watchStored s).aonQ, aonHeld := (watchStored s).aonHeld, wvTop := (watchStored s).wvTop, wvVf := (watchStored s).wvVf,
      hk := { s.hk with copies := (watchStored s).hk.copies } } := by
  have hedge := aonEdge_of_empty_queue (s := coEnd (sessionsEnd s)) h
  rw [show watchStored s = storeP (aonEdge (coEnd (sessionsEnd s))) from rfl]
  generalize aonEdge (coEnd (sessionsEnd s)) = u at hedge ⊢
  generalize u.aonQ = a, u.aonHeld = b, u.wvTop = c, u.wvVf = d, u.hk.copies = e at hedge
  subst hedge
  exact ⟨rfl, rfl, rfl⟩

theorem timeSlow_frame (s : State) : timeSlow s = { s with clk := (timeSlow s).clk } := by
  unfold timeSlow
  split <;> rfl

/-- Device time goes on from its value as the slow counter takes it over. -/
theorem timeSlow_clk (s : State) : (timeSlow s).clk.refOn = false ∧ now (timeSlow s) = now s := by
  unfold timeSlow
  split
  · next h => simp [now, h, ticksNs]
  · next h => exact ⟨by simpa using h, rfl⟩

/-- The core supply off, with L1.2 asked for and the DRBG gone (R353, R401). -/
def coreSupplyOff (s : State) : State :=
  { s with
    pwr := { s.pwr with coreOff := true, retained := true, cyclesNow := 0, cycleAt := s.clk.ticks, since := now s, zerDone := false },
    pin := { s.pin with l12 := true }, pace := { s.pace with vset := 0, avsOut := none },
    sec := { s.sec with drbg := false, lastBit := none, rep := 0, winPos := 0, winCount := 0, startUp := 0, fill := 0, waits := [] } }

/-- What WATCH leaves of a state whose writes are stored. -/
theorem enterWatch_eq (s : State) : let u := coreSupplyOff (ranksSleep (timeSlow (watchStored s)))
    enterWatch s = { u with md := (enterWatch s).md, therm := { u.therm with fast := false } } ∧ (enterWatch s).md.cur = .watch := by
  extract_lets u
  have heq : enterWatch s = fastSet (setMode .watch u) := rfl
  rw [heq]
  clear_value u
  have hmode := setMode_frame .watch u
  have hcur := setMode_cur .watch u
  generalize setMode .watch u = v at hmode hcur ⊢
  refine ⟨?_, hcur⟩
  unfold fastSet
  rw [hcur, hmode]
  rfl

/-! ### The end of a transition (R350 to R352, R358, R361) -/

/-- In a table of ranks put to sleep each that is in use is in self-refresh. -/
theorem tget_tmap_selfRef {t : Table Rank} {r : Nat} (h : (tget {} t r).st ≠ 0) :
    (tget {} (tmap {} (fun _ x => { x with selfRef := decide (x.st ≠ 0) }) t) r).selfRef = true := by
  induction t with
  | nil => exact absurd rfl h
  | cons p t ih =>
    obtain ⟨k, v⟩ := p
    rw [tget_cons] at h
    unfold tmap at ih ⊢
    rw [List.map_cons]
    by_cases hk : k = r
    · rw [if_pos hk] at h
      have hkept : ({ v with selfRef := decide (v.st ≠ 0) } : Rank) ≠ {} := fun he => by
        simpa [h] using congrArg Rank.selfRef he
      rw [List.filter_cons_of_pos (by exact decide_eq_true hkept), tget_cons, if_pos hk]
      simpa using h
    · rw [if_neg hk] at h
      by_cases hkept : ({ v with selfRef := decide (v.st ≠ 0) } : Rank) ≠ {}
      · rw [List.filter_cons_of_pos (by exact decide_eq_true hkept), tget_cons, if_neg hk]
        exact ih h
      · rw [List.filter_cons_of_neg (by rw [decide_eq_true_iff]; exact hkept)]
        exact ih h

/-- The power state that a transition without owner reaches. -/
def reachedPwr (u : Trans) (s : State) : Pwr :=
  { s.pwr with trans := none, cur := u.target, lastOp := if u.target < 3 then u.target else s.pwr.lastOp }

theorem psReach_of_no_owner {u : Trans} (h : u.owner = none) (s : State) : psReach u s = { s with pwr := reachedPwr u s } := by
  unfold psReach
  rw [h]
  rfl

/-- With nothing pending and nobody waiting the core domain's end of a transition tells nobody. -/
theorem psNext_of_nobody {s : State} (hpend : s.pwr.pend = 7) (hwait : s.pwr.waiters = []) (hon : s.pwr.coreOff = false) :
    psNext s = { s with pwr := { s.pwr with pend := 7, waiters := [], wakeReq := none } } := by
  unfold psNext psTellAll
  rw [if_neg (by simp [hpend]), if_neg (by simp [hon]), hwait]
  rfl

theorem psNext_of_coreOff {s : State} (hpend : s.pwr.pend = 7) (hoff : s.pwr.coreOff = true) :
    psNext s = { s with pwr := { s.pwr with pend := 7, waiters := [], wakeReq := none,
                                            owed := s.pwr.owed ++ s.pwr.waiters.map fun w => (w, s.pwr.cur) } } := by
  unfold psNext
  rw [if_neg (by simp [hpend]), if_pos hoff]

theorem foldl_thermalLog_frame (l : List TEnt) (s : State) : l.foldl (fun s x => thermalLog x s) s =
    { s with rep := (l.foldl (fun s x => thermalLog x s) s).rep } := by
  induction l generalizing s with
  | nil => rfl
  | cons x l ih =>
    rw [List.foldl_cons, ih (thermalLog x s)]
    rfl

/-- With no event and no completion owed an exit passes on the Thermal History entries only. -/
theorem exitOwed_of_quiet {s : State} (hev : s.therm.evOwed = []) (hps : s.pwr.owed = []) :
    exitOwed s = { s with therm := { s.therm with held := [], evOwed := [] }, pwr := { s.pwr with owed := [] }, rep := (exitOwed s).rep } ∧
    (s.therm.held = [] → (exitOwed s).rep = s.rep) := by
  unfold exitOwed
  rw [hev, hps]
  dsimp only [List.foldl_nil]
  refine ⟨?_, fun h => ?_⟩
  · rw [foldl_thermalLog_frame]
  · rw [h]
    rfl

/-- What an exit to RUN leaves. -/
structure ExitedToRun (s t : State) : Prop where
  frame : t = { s with
    md := t.md, pwr := { s.pwr with ventAfter := false, shutAfter := false, owed := [] }, hold := t.hold, pin := t.pin,
    qos := { s.qos with epoch := t.qos.epoch }, rep := t.rep, therm := { s.therm with fast := t.therm.fast, held := [], evOwed := [] } }
  mode : t.md.cur = .run
  fast : t.therm.fast = fastOf s.therm s.therm.last
  rep : s.therm.held = [] → t.rep = s.rep

/-- An exit that nothing diverts leads to RUN. -/
theorem exitMode_of_plain {s : State} (hvent : s.pwr.ventAfter = false) (hshut : s.pwr.shutAfter = false) (hhalt : s.pwr.haltRec = false)
    (hsec : s.sec.st ≠ 2) (hmode : s.md.cur ≠ .halt) (hev : s.therm.evOwed = []) (hps : s.pwr.owed = []) : ExitedToRun s (exitMode s) := by
  have heq : exitMode s = epochSync (fastSet (exitOwed (enterRun { s with pwr := { s.pwr with ventAfter := false, shutAfter := false } }))) := by
    unfold exitMode
    simp [hvent, hshut, hhalt, hsec, hmode]
  obtain ⟨hcur, -, -, hrun⟩ := enterRun_spec { s with pwr := { s.pwr with ventAfter := false, shutAfter := false } }
  rw [heq]
  generalize enterRun { s with pwr := { s.pwr with ventAfter := false, shutAfter := false } } = v at *
  have hv : v.therm = s.therm ∧ v.pwr.owed = s.pwr.owed ∧ v.rep = s.rep := by
    rw [hrun]
    exact ⟨rfl, rfl, rfl⟩
  obtain ⟨htherm, howed, hrep⟩ := hv
  obtain ⟨howe, hlog⟩ := exitOwed_of_quiet (s := v) (by rw [htherm]; exact hev) (by rw [howed]; exact hps)
  have hmd : (exitOwed v).md.cur = .run := by
    rw [howe]
    exact hcur
  have hlog' : s.therm.held = [] → (exitOwed v).rep = s.rep := fun h => (hlog (by rw [htherm]; exact h)).trans hrep
  generalize exitOwed v = w at *
  refine ⟨?_, hmd, ?_, hlog'⟩
  · unfold epochSync fastSet
    rw [howe, hrun]
  · unfold epochSync fastSet
    dsimp only
    rw [hmd, howe, htherm]
    rfl

/-! ### WATCH (R355 to R359) -/

/-- What a reading in WATCH leaves alone. -/
structure WatchRead (x : Int) (s t : State) : Prop where
  mode : t.md.cur = .watch
  pwr : t.pwr = { s.pwr with haltRec := t.pwr.haltRec }
  pin : t.pin = { s.pin with pwrOff := t.pin.pwrOff }
  hk : t.hk = s.hk
  last : t.therm.last = x

theorem watchRead_thermStep {s : State} (h : s.md.cur = .watch) (x : Int) : WatchRead x s (thermStep x s) := by
  obtain ⟨u, hu, hstep⟩ := thermStep_shape x s
  have hmd : u.md = { s.md with hot := u.md.hot } := (congrArg State.md hu :)
  have hpin : u.pin = { s.pin with pwrOff := u.pin.pwrOff } := (congrArg State.pin hu :)
  have hpwr : u.pwr = s.pwr := (congrArg State.pwr hu :)
  have hhk : u.hk = s.hk := (congrArg State.hk hu :)
  have hlast : u.therm.last = x := (congrArg (fun s => s.therm.last) hu :)
  have hcur : u.md.cur = .watch := by
    rw [hmd]
    exact h
  rcases hstep with hstep | hstep
  · have hshut : shutDown u = { u with pwr := { u.pwr with haltRec := true }, pin := { u.pin with pwrOff := true } } := by
      unfold shutDown
      rw [hcur]
    rw [hstep, hshut]
    refine ⟨hcur, ?_, ?_, hhk, hlast⟩
    · rw [hpwr]
    · rw [hpin]
  · rw [hstep]
    refine ⟨hcur, ?_, hpin, hhk, hlast⟩
    rw [hpwr]

/-- A Watch cycle before its compare of the limits. -/
def watchCycled (r : Readings) (s : State) : State :=
  let u := thermStep (r.ch.getD 0 0).toInt (putReadings { r with ch := r.ch.set 4 0 } s)
  { u with pwr := { u.pwr with cyclesNow := u.pwr.cyclesNow + 1, cycleAt := u.clk.ticks } }

/-- What a Watch cycle leaves before its compare. -/
structure WatchCycled (r : Readings) (s t : State) : Prop where
  mode : t.md.cur = .watch
  cycles : t.pwr.cyclesNow = s.pwr.cyclesNow + 1
  trans : t.pwr.trans = s.pwr.trans
  lastOp : t.pwr.lastOp = s.pwr.lastOp
  perst : perstLow t = perstLow s
  vcore : tget 0 t.hk.ch 4 = 0
  readings : ∀ c, c < 12 → c ≠ 4 → tget 0 t.hk.ch c = r.ch.getD c 0
  last : t.therm.last = (r.ch.getD 0 0).toInt

theorem watchCycled_watchCycled {s : State} (h : s.md.cur = .watch) (r : Readings) : WatchCycled r s (watchCycled r s) := by
  obtain ⟨hmode, hpwr, hpin, hhk, hlast⟩ := watchRead_thermStep (s := putReadings { r with ch := r.ch.set 4 0 } s) h (r.ch.getD 0 0).toInt
  unfold watchCycled
  generalize thermStep _ _ = u at *
  have hch (c : Nat) (hc : c < 12) : tget 0 u.hk.ch c = (r.ch.set 4 0).getD c 0 := by
    rw [hhk]
    exact tget_channels (fun c => (r.ch.set 4 0).getD c 0) 12 s.hk.ch c hc
  refine ⟨hmode, ?_, ?_, ?_, ?_, ?_, fun c hc hne => ?_, hlast⟩
  · change u.pwr.cyclesNow + 1 = _
    rw [hpwr]
    rfl
  · change u.pwr.trans = _
    rw [hpwr]
    rfl
  · change u.pwr.lastOp = _
    rw [hpwr]
    rfl
  · unfold perstLow
    dsimp only
    rw [hpin]
    rfl
  · exact (hch 4 (by decide)).trans (by simp [List.getD_eq_getElem?_getD, List.getElem?_set]; split <;> rfl)
  · exact (hch c hc).trans (by simp [List.getD_eq_getElem?_getD, Ne.symm hne])

/-- A wake leaves what the limits are compared with. -/
theorem breach_wakeWatch (src ch : Nat) (s : State) : breach (wakeWatch src ch s) = breach s := by
  unfold wakeWatch
  split <;> rfl

theorem exec_watchCycle {s : State} (h : s.md.cur = .watch) (ht : s.pwr.trans = none)
    (hdue : ticksPast s s.pwr.cycleAt (s.pwr.watchPeriod * 32768 / 1000) = true) (r : Readings) :
    exec (.watchCycle r) s = .next ((breach (watchCycled r s)).elim (watchCycled r s) fun c => wakeWatch 3 c (watchCycled r s)) := by
  change execWatchCycle r s = _
  unfold execWatchCycle
  rw [if_neg (by simp [h, ht, hdue])]
  extract_lets u v p w
  rw [show watchCycled r s = w from rfl]
  cases breach w with
  | none => rfl
  | some c => rfl

/-! ### VCORE good (R69, R358, R401) -/

/-- The DRBG instantiated where it was not, or had failed. -/
def drbgReady (s : State) : State :=
  if s.sec.drbg ∧ ¬ s.sec.drbgFailed then s else
    { s with sec := { s.sec with drbg := true, drbgFailed := false, drbgReqs := 0, drbgSince := now s } }

theorem drbgReady_frame (s : State) : drbgReady s = { s with sec := (drbgReady s).sec } := by
  unfold drbgReady
  split <;> rfl

theorem drbgReady_drbg (s : State) : (drbgReady s).sec.drbg = true := by
  unfold drbgReady
  split
  · next h => exact h.1
  · rfl

/-- With every test and every engine passed the device is approved, and nothing is fenced. -/
theorem runTests_of_passed {p : SelfTest} (hpass : firstFailed p = 0) (heng : ∀ k, k < 8 → p.gcmOk.getD k false = true) (s : State) :
    runTests p s = { s with sec := (runTests p s).sec } ∧ (runTests p s).sec.st = 1 ∧ (runTests p s).sec.drbg = true := by
  have hnone : ((List.range 8).filter fun k => !(p.gcmOk.getD k false) && !(cipOf s k).fenced) = [] := by
    refine List.filter_eq_nil_iff.mpr fun k hk => ?_
    rw [heng k (List.mem_range.mp hk)]
    simp
  have heq : runTests p s = { drbgReady s with sec := { (drbgReady s).sec with st := 1, fail := 0, engine := 0, passEng := [] } } := by
    unfold runTests
    rw [hnone, hpass, if_neg (by simp), List.foldl_nil, ite_self]
    rfl
  have hready := drbgReady_frame s
  have hdrbg := drbgReady_drbg s
  rw [heq]
  generalize drbgReady s = u at *
  exact ⟨by rw [hready], rfl, hdrbg⟩

/-- A wake whose retention image and ranks are good, before the self-tests. -/
def wakeRestored (u : Trans) (s : State) : State :=
  let s := exitBegin (timeBack s)
  vDefaults { s with pwr := { s.pwr with coreOff := false, retained := false, copied := false, trans := some { u with drained := true } },
                     pin := { s.pin with l12 := false }, pace := { s.pace with vset := 750, avsOut := none },
                     sram := { s.sram with cells := [] } }

/-- What a wake restores beside the defaults of class V. -/
structure WakeRestored (u : Trans) (s t : State) : Prop where
  pwr : t.pwr = { s.pwr with coreOff := false, retained := false, copied := false, trans := some { u with drained := true } }
  vset : t.pace.vset = 750
  cells : t.sram.cells = []
  md : t.md = s.md
  cache : t.cache = s.cache
  vault : t.vault = s.vault
  nss : t.nss = s.nss

theorem wakeRestored_wakeRestored (u : Trans) (s : State) : WakeRestored u s (wakeRestored u s) := by
  have hback := timeBack_frame s
  unfold wakeRestored
  generalize timeBack s = v at *
  generalize v.clk = c at hback
  subst hback
  exact ⟨rfl, rfl, rfl, rfl, rfl, rfl, rfl⟩

theorem exec_vcoreGood {p : WakeProbe} {u : Trans} {s : State} (ht : s.pwr.trans = some u) (hoff : s.pwr.coreOff = true)
    (hmode : s.md.cur = .watch) (hret : p.retentionOk = true) (hcopy : p.dramCopyOk = true) (hranks : p.ranksOk = true)
    (hzer : s.pwr.zerDone = false) : exec (.vcoreGood p) s = .next (witness (runTests p.tests (wakeRestored u s))) := by
  have hkept : (wakeRestored u s).pwr.zerDone = false := by
    rw [(wakeRestored_wakeRestored u s).pwr]
    exact hzer
  change execVcoreGood p s = _
  unfold execVcoreGood
  rw [ht]
  dsimp only
  rw [if_neg (by simp [hoff, hmode]), if_neg (by simp [hret]), if_neg (by simp [hcopy, hranks])]
  refine next_congr ?_
  rw [if_neg (by exact fun h => by simp [show (wakeRestored u s).pwr.zerDone = true from h] at hkept)]
  rfl

theorem execVcoreGood_of_bad_image {p : WakeProbe} {u : Trans} {s : State} (ht : s.pwr.trans = some u) (hoff : s.pwr.coreOff = true)
    (hmode : s.md.cur = .watch) (hret : p.retentionOk = false) : exec (.vcoreGood p) s = .next (watchRestart true s) := by
  change execVcoreGood p s = _
  unfold execVcoreGood
  rw [ht]
  dsimp only
  rw [if_neg (by simp [hoff, hmode]), if_pos (by simp [hret])]

/-- START begins again after a retention image that is bad. -/
theorem watchRestart_spec (s : State) : let t := watchRestart true s
    t.md.cur = .start ∧ t.md.stage = 1 ∧ t.md.reason = 8 ∧ t.md.fail = true ∧ t.pwr.coreOff = false ∧ t.pwr.trans = none ∧
    t.fns = [] ∧ QueuesGone t ∧ t.cache = [] ∧ t.vault.live = {} ∧ t.nss = (cfgReload s).nss := by
  have hlost := coreLost_coreLost (mbxEmpty (psDrop s))
  have htrans : (coreLost (mbxEmpty (psDrop s))).pwr.trans = none := rfl
  have hnss : (cfgReload (mbxEmpty (psDrop s))).nss = (cfgReload s).nss := rfl
  unfold watchRestart
  generalize coreLost (mbxEmpty (psDrop s)) = c at *
  have hcur : c.md.cur = .start := by rw [hlost.mode]
  have hvault : c.vault.live = {} := by rw [hlost.vault]
  unfold enterStage1
  rw [startLockout_frame]
  exact ⟨hcur, rfl, rfl, rfl, rfl, htrans, hlost.fns, hlost.queues, hlost.cache, hvault, hlost.nss.trans hnss⟩

/-! ### O45 -/

/-- A transition's end, once its drain is over. -/
theorem exec_powerTransitionEnd {s : State} {u : Trans} (ht : s.pwr.trans = some u) (hdrained : u.drained = true) (hon : s.pwr.coreOff = false)
    (hchecked : u.exiting = true → exitChecked s = true) :
    (u.target = 4 → exec .powerTransitionEnd s = .next (psNext (enterWatch (psReach u s)))) ∧
    (u.target = 3 → exec .powerTransitionEnd s = .next (psNext (enterDoze (psReach u s)))) ∧
    (u.target < 3 → u.exiting = false → exec .powerTransitionEnd s = .next (psNext (psReach u s))) ∧
    (u.target < 3 → u.exiting = true → exec .powerTransitionEnd s = .next (psNext (exitMode (timeBack (psReach u s))))) := by
  have hgo : ¬ (¬ u.drained = true ∨ s.pwr.coreOff = true ∨ (u.exiting = true ∧ ¬ exitChecked s = true)) := by
    simp only [hdrained, hon, not_true_eq_false, Bool.false_eq_true, false_or, not_and, Decidable.not_not]
    exact hchecked
  have hexec : exec .powerTransitionEnd s = execPowerTransitionEnd s := rfl
  rw [hexec, execPowerTransitionEnd, ht]
  dsimp only
  rw [if_neg hgo]
  refine ⟨fun h => if_pos h, fun h => ?_, fun h he => ?_, fun h he => ?_⟩
  · rw [if_neg (by omega), if_pos h]
  · rw [if_neg (by omega), if_neg (by omega), he]
    rfl
  · rw [if_neg (by omega), if_neg (by omega), if_pos he]

/-- DOZE: the ranks sleep, and nothing but the mode and the power state changes with them. -/
theorem dozeEnd_spec {s : State} {u : Trans} (howner : u.owner = none) (hpend : s.pwr.pend = 7) (hwait : s.pwr.waiters = [])
    (hon : s.pwr.coreOff = false) (h3 : u.target = 3) : let t := psNext (enterDoze (psReach u s))
    t.md.cur = .doze ∧ t.pwr.cur = 3 ∧ t.pwr.trans = none ∧ t.pwr.lastOp = s.pwr.lastOp ∧
    (∀ r, (rankOf s r).st ≠ 0 → (rankOf t r).selfRef = true) ∧ t = { s with md := t.md, pwr := t.pwr, dram := t.dram } := by
  rw [psReach_of_no_owner howner]
  have hmode := setMode_frame .doze (ranksSleep { s with pwr := reachedPwr u s })
  have hcur := setMode_cur .doze (ranksSleep { s with pwr := reachedPwr u s })
  unfold enterDoze
  generalize setMode .doze _ = v at hmode hcur ⊢
  have hpwr : v.pwr = reachedPwr u s := by
    rw [hmode]
    rfl
  have hdram : v.dram = (ranksSleep s).dram := by
    rw [hmode]
    rfl
  have hframe : v = { s with md := v.md, pwr := v.pwr, dram := v.dram } := by
    rw [hpwr, hdram]
    exact hmode
  rw [psNext_of_nobody (s := v) (by rw [hpwr]; exact hpend) (by rw [hpwr]; exact hwait) (by rw [hpwr]; exact hon)]
  rw [hpwr]
  refine ⟨hcur, h3, rfl, if_neg (by omega), fun r hr => ?_, ?_⟩
  · unfold rankOf
    dsimp only
    rw [hdram]
    exact tget_tmap_selfRef hr
  · rw [hframe]

/-- WATCH: the commit point's state, with the waiters' ends owed (R353, R361). -/
theorem watchEnd_spec {s : State} {u : Trans} (howner : u.owner = none) (hpend : s.pwr.pend = 7) (h4 : u.target = 4) :
    let t := psNext (enterWatch (psReach u s))
    t.md.cur = .watch ∧ t.pwr.cur = 4 ∧ t.pwr.coreOff = true ∧ t.pwr.retained = true ∧
    t.sec.sessions = [] ∧ t.sec.drbg = false ∧ t.co.role = false ∧ t.pwr.since = now s ∧ now t = now s ∧ t.clk.refOn = false ∧ t.pPend = [] ∧
    t.pin.l12 = true ∧ t.pace.vset = 0 ∧ t.therm.fast = false ∧
    (s.aonQ = [] → t.nor = (storeP s).nor ∧ t.norCfg = cfgOf s ∧ t = { s with
      md := t.md, pwr := t.pwr, sec := t.sec, co := t.co, clk := t.clk, nor := t.nor, norCfg := t.norCfg, pPend := [], aonQ := t.aonQ,
      aonHeld := t.aonHeld, wvTop := t.wvTop, wvVf := t.wvVf, hk := { s.hk with copies := t.hk.copies }, dram := t.dram,
      pin := { s.pin with l12 := true }, pace := { s.pace with vset := 0, avsOut := none }, therm := { s.therm with fast := false } }) := by
  rw [psReach_of_no_owner howner]
  obtain ⟨heq, hcur⟩ := enterWatch_eq { s with pwr := reachedPwr u s }
  have hstored := watchStored_watchStored { s with pwr := reachedPwr u s }
  have hempty := fun h => watchStored_of_empty_queue (s := { s with pwr := reachedPwr u s }) h
  generalize watchStored { s with pwr := reachedPwr u s } = v at *
  obtain ⟨hclk, hsec, hco, hpwr, hpp⟩ := hstored
  have hslow := timeSlow_frame v
  obtain ⟨hoff, hnow⟩ := timeSlow_clk v
  have hnowv : now v = now s := congrArg (fun c : Clk => if c.refOn then c.time else c.lossTime + ticksNs c.lossTicks) hclk
  generalize timeSlow v = x at *
  have hnowx : now x = now s := hnow.trans hnowv
  have hxpwr : x.pwr = reachedPwr u s := by rw [hslow, hpwr]
  have hxpend : (coreSupplyOff (ranksSleep x)).pwr.pend = 7 := by
    change x.pwr.pend = 7
    rw [hxpwr]
    exact hpend
  have hxcur : (coreSupplyOff (ranksSleep x)).pwr.cur = 4 := by
    change x.pwr.cur = 4
    rw [hxpwr]
    exact h4
  have hxsec : x.sec = { s.sec with sessions := [] } := by rw [hslow, hsec]
  have hxco : x.co = { s.co with role := false } := by rw [hslow, hco]
  have hxpp : x.pPend = [] := by rw [hslow, hpp]
  generalize enterWatch { s with pwr := reachedPwr u s } = y at *
  have hyframe := psNext_of_coreOff (s := y) (by rw [heq]; exact hxpend) (by rw [heq]; rfl)
  rw [hyframe]
  generalize y.md = m at heq hcur
  subst heq
  refine ⟨hcur, hxcur, rfl, rfl, ?_, rfl, ?_, hnowx, hnowx, hoff, hxpp, rfl, rfl, rfl, fun hq => ?_⟩
  · exact congrArg Sec.sessions hxsec
  · exact congrArg Co.role hxco
  · obtain ⟨hnor, hcfg, hv⟩ := hempty hq
    refine ⟨?_, ?_, ?_⟩
    · exact (congrArg State.nor hslow :).trans hnor
    · exact (congrArg State.norCfg hslow :).trans hcfg
    · have hx : x = { s with
          pwr := x.pwr, sec := x.sec, co := x.co, clk := x.clk, nor := x.nor, norCfg := x.norCfg, pPend := [],
          aonQ := x.aonQ, aonHeld := x.aonHeld, wvTop := x.wvTop, wvVf := x.wvVf, hk := { s.hk with copies := x.hk.copies } } := by
        rw [hslow, hv]
      generalize x.pwr = a, x.sec = b, x.co = c, x.clk = d, x.nor = e, x.norCfg = f, x.aonQ = g, x.aonHeld = h, x.wvTop = i, x.wvVf = j,
        x.hk.copies = k at hx
      subst hx
      rfl

/-- An exit to a state of RUN (R351, R358, R379). -/
theorem exitEnd_spec {s : State} {u : Trans} (howner : u.owner = none) (hpend : s.pwr.pend = 7) (hwait : s.pwr.waiters = [])
    (hon : s.pwr.coreOff = false) (hvent : s.pwr.ventAfter = false) (hshut : s.pwr.shutAfter = false)
    (hhalt : s.pwr.haltRec = false) (hsec : s.sec.st ≠ 2) (hmode : s.md.cur ≠ .halt) (hps : s.pwr.owed = []) (hev : s.therm.evOwed = []) :
    let t := psNext (exitMode (timeBack (psReach u s)))
    t.md.cur = .run ∧ t.pwr.cur = u.target ∧ (s.clk.refPin = true → t.clk.refOn = true) ∧
    (t.therm.fast = fastOf s.therm s.therm.last) ∧ t.therm.held = [] ∧ (s.therm.held = [] → t.rep = s.rep) ∧
    t = { s with
      md := t.md, pwr := t.pwr, hold := t.hold, pin := t.pin, clk := t.clk, qos := { s.qos with epoch := t.qos.epoch }, rep := t.rep,
      therm := { s.therm with fast := t.therm.fast, held := [] } } := by
  rw [psReach_of_no_owner howner]
  have hback := timeBack_frame { s with pwr := reachedPwr u s }
  have hclk := timeBack_clk { s with pwr := reachedPwr u s }
  generalize timeBack { s with pwr := reachedPwr u s } = v at *
  have hvpwr : v.pwr = reachedPwr u s := by rw [hback]
  have hvtherm : v.therm = s.therm := by rw [hback]
  have hvrep : v.rep = s.rep := by rw [hback]
  have hexit := exitMode_of_plain (s := v) (by rw [hvpwr]; exact hvent) (by rw [hvpwr]; exact hshut) (by rw [hvpwr]; exact hhalt)
    (by rw [hback]; exact hsec) (by rw [hback]; exact hmode) (by rw [hvtherm]; exact hev) (by rw [hvpwr]; exact hps)
  generalize exitMode v = w at *
  obtain ⟨hw, hrun, hfast, hrep⟩ := hexit
  have hwpwr : w.pwr = { reachedPwr u s with ventAfter := false, shutAfter := false, owed := [] } := by rw [hw, hvpwr]
  have hwtherm : w.therm = { s.therm with fast := w.therm.fast, held := [] } := by
    rw [hw, hvtherm, ← hev]
  have hwclk : w.clk = v.clk := by rw [hw]
  rw [psNext_of_nobody (s := w) (by rw [hwpwr]; exact hpend) (by rw [hwpwr]; exact hwait) (by rw [hwpwr]; exact hon)]
  refine ⟨hrun, ?_, fun href => ?_, ?_, ?_, fun hheld => ?_, ?_⟩
  · change w.pwr.cur = _
    rw [hwpwr]
    rfl
  · change w.clk.refOn = true
    rw [hwclk, hclk]
    by_cases hon : s.clk.refOn = true
    · rw [if_pos (.inl hon)]
      exact hon
    · rw [if_neg (not_or.mpr ⟨hon, not_not_intro href⟩)]
  · change w.therm.fast = _
    rw [hfast, hvtherm]
  · change w.therm.held = _
    rw [hwtherm]
  · change w.rep = _
    rw [hrep (by rw [hvtherm]; exact hheld), hvrep]
  · rw [hback] at hw
    generalize w.md = a, w.hold = b, w.pin = c, w.qos.epoch = d, w.rep = e, w.therm.fast = f at hw hwtherm ⊢
    rw [← hwtherm]
    subst hw
    rfl

/-- Settles O45: a transition's end by its target, and WATCH by its cycle, its wakes and the two ends of a wake. -/
theorem powerStates : Obligations.PowerStates := by
  unfold Obligations.PowerStates
  refine ⟨⟨?drain, ?drainWatch, ?unchecked, ?ends, ?shutdown⟩, ?cycle, ?timer, ?host, ?sideband, ?waking, ?good, ?bad⟩
  case drain =>
    intro s u ht hd hm hdr h4
    change execPowerEntryDrainEnd s = _
    unfold execPowerEntryDrainEnd
    rw [ht]
    dsimp only
    rw [if_neg (by simp [hd, hm, hdr]), if_neg h4]
  case drainWatch =>
    intro s u ht hd hm hdr h4 v
    change execPowerEntryDrainEnd s = _
    unfold execPowerEntryDrainEnd
    rw [ht]
    dsimp only
    rw [if_neg (by simp [hd, hm, hdr]), if_pos h4]
  case unchecked =>
    intro s u ht hd hon he hc
    change execPowerTransitionEnd s = _
    unfold execPowerTransitionEnd
    rw [ht]
    dsimp only
    rw [if_pos (.inr (.inr ⟨he, by simp [hc]⟩))]
  case ends =>
    intro s u ht hd hon howner hpend hwait hchecked
    obtain ⟨e4, e3, eEnter, eExit⟩ := exec_powerTransitionEnd ht hd hon hchecked
    refine ⟨fun h3 => ⟨_, e3 h3, dozeEnd_spec howner hpend hwait hon h3⟩, fun h4 => ⟨_, e4 h4, watchEnd_spec howner hpend h4⟩,
      fun hl he => ⟨_, eEnter hl he, ?_⟩, fun hl he hvent hshut hhalt hsec hmode hps hev => ⟨_, eExit hl he,
        exitEnd_spec howner hpend hwait hon hvent hshut hhalt hsec hmode hps hev⟩⟩
    rw [psReach_of_no_owner howner, psNext_of_nobody (s := { s with pwr := reachedPwr u s }) hpend hwait hon]
    exact ⟨rfl, if_pos hl, rfl, rfl⟩
  case shutdown =>
    intro s h
    exact if_neg (by simp [h])
  case cycle =>
    intro r s hm ht hdue
    have hexec := exec_watchCycle hm ht hdue r
    obtain ⟨hmode, hcycles, htrans, hlastOp, hperst, hvcore, hch, hlast⟩ := watchCycled_watchCycled hm r
    generalize watchCycled r s = v at *
    have hvt : v.pwr.trans = none := htrans.trans ht
    cases hb : breach v with
    | none =>
      rw [hb] at hexec
      exact ⟨v, hexec, hcycles, hvcore, hch, hmode, hlast, fun _ => hvt, fun _ => hvt, fun c hc => absurd (hb.symm.trans hc) (by simp)⟩
    | some c =>
      rw [hb] at hexec
      refine ⟨wakeWatch 3 c v, hexec, ?_⟩
      have hbreach := (breach_wakeWatch 3 c v).trans hb
      cases hp : perstLow s with
      | true =>
        rw [wakeWatch_of_waking (.inr (hperst.trans hp))]
        exact ⟨hcycles, hvcore, hch, hmode, hlast, fun _ => hvt, fun _ => hvt, fun _ _ h => absurd h (by simp)⟩
      | false =>
        dsimp only
        rw [hbreach, wakeWatch_of_asleep hmode hvt (hperst.trans hp)]
        refine ⟨hcycles, hvcore, hch, hmode, hlast, fun h => absurd h (by simp), fun h => absurd h (by simp), fun c' hc _ => ?_⟩
        obtain rfl := Option.some.inj hc
        exact ⟨congrArg (fun n => some (⟨n, true, true, none⟩ : Trans)) hlastOp, rfl, rfl, rfl⟩
  case timer =>
    intro s hm ht hp n hn hdue
    have hexec : exec .wakeTimerExpiry s = .next (wakeWatch 4 0 s) :=
      next_congr (if_neg (not_or.mpr ⟨hn, Nat.not_lt.mpr hdue⟩))
    exact ⟨_, hexec.trans (next_congr (wakeWatch_of_asleep hm ht hp 4 0)), rfl, rfl, rfl, rfl⟩
  case host =>
    intro s hm ht hp
    exact ⟨_, next_congr (wakeWatch_of_asleep hm ht hp 1 0), rfl, rfl, rfl⟩
  case sideband =>
    intro s hm ht hp
    exact ⟨_, next_congr (wakeWatch_of_asleep hm ht hp 5 0), rfl, rfl, rfl⟩
  case waking =>
    intro s c hc hw
    simp only [List.mem_cons, List.not_mem_nil, or_false] at hc
    rcases hc with rfl | rfl | rfl
    · exact next_congr (wakeWatch_of_waking hw.symm 1 0)
    · exact next_congr (wakeWatch_of_waking hw.symm 5 0)
    · refine next_congr ?_
      rw [wakeWatch_of_waking hw.symm, ite_self]
  case good =>
    intro p s u ht hoff hm hret hcopy hranks hpass heng hzer
    refine ⟨_, exec_vcoreGood ht hoff hm hret hcopy hranks hzer, ?_⟩
    obtain ⟨hpwr, hvset, hcells, hmd, hcache, hvault, hnss⟩ := wakeRestored_wakeRestored u s
    generalize wakeRestored u s = v at *
    obtain ⟨htests, hst, -⟩ := runTests_of_passed hpass heng v
    generalize runTests p.tests v = w at *
    rw [witness_frame, htests, hpwr, hvset, hcells, hmd, hcache, hvault, hnss]
    exact ⟨rfl, rfl, rfl, rfl, hst, hm, rfl, rfl, rfl⟩
  case bad =>
    intro p s u ht hoff hm hret
    exact ⟨_, execVcoreGood_of_bad_image ht hoff hm hret, watchRestart_spec s⟩

end Sys2Proof.Machine


/-!
PROOFS. The first stages of START (R70 to R74, R277 to R282, R311, R317, R373, R398, R399): what each leaves, from the straps to the LUNs.
-/
namespace Sys2Proof.Machine

open Sys2Proof

theorem atStage_cur {s : State} {n : Nat} (h : atStage s n = true) : s.md.cur = .start := by
  unfold atStage at h
  simp only [Bool.and_eq_true, decide_eq_true_eq] at h
  exact h.1.1

theorem atStage_stage {s : State} {n : Nat} (h : atStage s n = true) : s.md.stage = n := by
  unfold atStage at h
  simp only [Bool.and_eq_true, decide_eq_true_eq] at h
  exact h.1.2

/-! ### Stages 0 to 3 -/

theorem execStartBegin_of_released {s : State} (h : atStage s 0 = true) (hporst : s.pin.porst = false) (hzer : s.pin.zeroize = false) :
    exec .startBegin s = .next (enterStage1 (sampleStraps s)) := by
  have hpin : (sampleStraps s).pin.zeroize = false := hzer
  change execStartBegin s = _
  unfold execStartBegin
  rw [if_neg (by simp [h])]
  dsimp only
  rw [if_neg (fun hz : (sampleStraps s).pin.zeroize = true ∧ _ => by simp [hpin] at hz),
    if_neg (by simp [show (sampleStraps s).pin.porst = false from hporst])]

/-- With port 0 up it is the port that serves. -/
theorem execLinkTrained_of_port0 {s : State} (h : atStage s 1 = true) (hperst : s.pin.perst = false) (hserving : s.pin.serving = 0) :
    exec (.linkTrained 0) s = .next (toStage 2 { s with pin := { s.pin with p0Up := true } }) := by
  have hsettle : portSettle (setLink 0 true s) = { s with pin := { s.pin with p0Up := true } } := by
    have hport : servingOf { s with pin := { s.pin with p0Up := true } } = s.pin.serving := by
      unfold servingOf
      simp [hserving]
    change portSettle { s with pin := { s.pin with p0Up := true } } = _
    unfold portSettle
    exact if_pos hport
  change execLinkTrained 0 s = _
  unfold execLinkTrained
  rw [if_neg (by simp [hperst, atStage_stage h])]
  dsimp only
  rw [hsettle, if_pos (by exact h)]

/-- The self-tests end stage 1 or 2. -/
theorem execPowerOnSelfTests_cases {p : SelfTest} {s : State} (h : (atStage s 1 || atStage s 2) = true) :
    exec (.powerOnSelfTests p) s = .next (if firstFailed p = 0 then toStage 3 (runTests p { s with sram := { s.sram with fused := true } })
      else startFail 1 (toStage 3 (runTests p { s with sram := { s.sram with fused := true } }))) := by
  change execPowerOnSelfTests p s = _
  unfold execPowerOnSelfTests
  rw [if_neg (not_not_intro h)]

/-- A boot ROM that fails its test ends in the cryptographic error state with FAIL 01h. -/
theorem runTests_of_bad_rom {p : SelfTest} (h : p.romOk = false) (s : State) :
    (runTests p s).sec.st = 2 ∧ (runTests p s).sec.fail = 1 ∧ (runTests p s).co.role = false := by
  have hfirst : firstFailed p = 1 := by
    unfold firstFailed
    rw [if_pos (by simp [h])]
  unfold runTests
  rw [hfirst, if_pos (by decide)]
  exact ⟨by rw [cryptoError_sec], by rw [cryptoError_sec], (cryptoError_kept ..).2.2.2⟩

theorem execImageAuthentication_of_found {s : State} {n : Nat} {i : Img} (h : atStage s 3 = true) (hrun : s.mbx.run = none)
    (hfind : (startImages s).find? (fun e => imgOk s e.2) = some (n, i)) : exec .imageAuthentication s = .next (toStage 4 { s with
      fw := { s.fw with running := some i }, md := { s.md with slot := n, loaded := true }, pace := { s.pace with vset := 750 } }) := by
  change execImageAuthentication s = _
  unfold execImageAuthentication
  rw [if_neg (not_not_intro h), hfind]
  exact next_congr (mbxGo_of_no_run hrun)

theorem enterHalt_spec (why : Nat) (s : State) : (enterHalt why s).md.cur = .halt ∧ (enterHalt why s).md.haltWhy = why ∧
    (enterHalt why s).md.fail = s.md.fail ∧ (enterHalt why s).md.reason = s.md.reason := by
  unfold enterHalt setMode
  dsimp only
  split
  · next h => exact ⟨h, rfl, rfl, rfl⟩
  · exact ⟨rfl, rfl, rfl, rfl⟩

/-- HALT after a stage of START that failed. -/
theorem startHalt_spec (why reason : Nat) (s : State) : let t := enterHalt why (startFail reason s)
    t.md.cur = .halt ∧ t.md.haltWhy = why ∧ t.md.reason = reason ∧ t.md.fail = true ∧ t = { s with md := t.md } := by
  obtain ⟨h1, h2, h3, h4⟩ := enterHalt_spec why (startFail reason s)
  exact ⟨h1, h2, h4, h3, enterHalt_frame why (startFail reason s)⟩

theorem execImageAuthentication_of_none {s : State} (h : atStage s 3 = true) (hrun : s.mbx.run = none)
    (hfind : (startImages s).find? (fun e => imgOk s e.2) = none) : exec .imageAuthentication s =
      .next (enterHalt 3 (startFail (if (startImages s).any (·.2.authentic) then 3 else 2) s)) := by
  change execImageAuthentication s = _
  unfold execImageAuthentication
  rw [if_neg (not_not_intro h), hfind]
  refine next_congr (mbxGo_of_no_run ?_)
  rw [enterHalt_frame]
  exact hrun

/-! ### Stage 4: DRAM -/

/-- What the failed ranks change. -/
def TrainFrame (s t : State) : Prop :=
  t = { s with regs := t.regs, nor := t.nor, rep := t.rep, md := { s.md with reason := t.md.reason, fail := t.md.fail } }

theorem trainFrame_trainFailed (r : Nat) (s : State) : TrainFrame s (trainFailed r s) := by
  unfold trainFailed
  dsimp only
  split
  · rfl
  · rfl

theorem trainFrame_foldl (l : List Nat) (s : State) : TrainFrame s (l.foldl (fun s r => trainFailed r s) s) := by
  induction l generalizing s with
  | nil => rfl
  | cons r l ih =>
    have h1 := trainFrame_trainFailed r s
    have h2 := ih (trainFailed r s)
    rw [List.foldl_cons]
    generalize trainFailed r s = u at *
    exact Eq.trans h2 (by rw [h1])

/-- The DRAM found, before its failed ranks are retired. -/
def dramFound (p : DramProbe) (s : State) : State :=
  let cs := usedChans s p
  let d := (cs.map fun c => (dataRanks s p c).length).foldl min (((cs.head?.map fun c => (dataRanks s p c).length)).getD 0)
  let ranks := tgen ({} : Rank) 16 fun r =>
    let (st, cause) := rankStart s p d r
    if st = 0 then {} else { st := st, cause := cause, lastTj := s.therm.last, lastCheck := now s, refAt := now s }
  let m := startMap s cs.length
  { s with dram := { ({} : Dram) with
    density := p.density, chans := cs, dranks := d, capGib := cs.length * d * rankGib p.density, modeCur := m.1, map := m.2.1,
    fellBack := m.2.2, ranks := ranks } }

/-- What DRAM training found, its failed ranks retired. -/
def dramTrained (p : DramProbe) (s : State) : State :=
  ((List.range 16).filter fun r => p.populated.getLsbD r && !rankPasses p r).foldl (fun s r => trainFailed r s) (dramFound p s)

/-- What training leaves, the failed ranks' records apart. -/
structure DramTrained (p : DramProbe) (s t : State) : Prop where
  chans : t.dram.chans = usedChans s p
  density : t.dram.density = p.density
  cap : t.dram.capGib = t.dram.chans.length * t.dram.dranks * rankGib p.density
  mode : t.md.cur = s.md.cur
  nss : t.nss = s.nss
  vault : t.vault = s.vault

theorem dramTrained_dramTrained (p : DramProbe) (s : State) : DramTrained p s (dramTrained p s) := by
  have hframe := trainFrame_foldl ((List.range 16).filter fun r => p.populated.getLsbD r && !rankPasses p r) (dramFound p s)
  rw [show ((List.range 16).filter fun r => p.populated.getLsbD r && !rankPasses p r).foldl (fun s r => trainFailed r s) (dramFound p s) =
    dramTrained p s from rfl] at hframe
  generalize dramTrained p s = t at *
  have hdram : t.dram = (dramFound p s).dram := (congrArg State.dram hframe :)
  refine ⟨?_, ?_, ?_, (congrArg (fun s => s.md.cur) hframe :), (congrArg State.nss hframe :), (congrArg State.vault hframe :)⟩
  all_goals rw [hdram]; rfl

/-- The capacitance test of START, with the DRAM out of reset (R366, R453). -/
def dramReleased (s : State) : State :=
  { s with hold := { s.hold with testRun := true, lastTest := now s }, pin := { s.pin with holdupTest := true, dramReset := false } }

/-- The loss of a map is logged. -/
def mapLogged (fell : Bool) (s : State) : State := if fell then healthLog { time := now s, typ := 5 } s else s

theorem mapLogged_frame (fell : Bool) (s : State) : mapLogged fell s = { s with rep := (mapLogged fell s).rep } := by
  unfold mapLogged
  split <;> rfl

theorem execDramTraining_cases {p : DramProbe} {s : State} (h : atStage s 4 = true) : exec (.dramTraining p) s =
    if usedChans s p = [] then
      .next (enterHalt 4 (startFail 5 { dramTrained p s with pin := { (dramTrained p s).pin with dramReset := false } }))
    else .next (toStage 5 (setCeil (dramReleased (mapLogged (startMap s (usedChans s p).length).2.2 (dramTrained p s))))) := by
  change execDramTraining p s = _
  unfold execDramTraining
  rw [if_neg (not_not_intro h)]
  rfl

theorem dramTraining_of_chans {p : DramProbe} {s : State} (h : atStage s 4 = true) (hcs : usedChans s p ≠ []) :
    Answers (.dramTraining p) s fun t =>
      t.md.stage = 5 ∧ t.md.cur = .start ∧ t.dram.chans = usedChans s p ∧ t.dram.density = p.density ∧
      t.dram.capGib = t.dram.chans.length * t.dram.dranks * rankGib p.density ∧ t.hold.testRun = true ∧ t.pin.holdupTest = true ∧
      t.pin.dramReset = false ∧ t.nss = s.nss ∧ t.vault = s.vault := by
  refine ⟨_, (execDramTraining_cases h).trans (if_neg hcs), ?_⟩
  obtain ⟨h1, h2, h3, h4, h5, h6⟩ := dramTrained_dramTrained p s
  have hlog := mapLogged_frame (startMap s (usedChans s p).length).2.2 (dramTrained p s)
  generalize mapLogged (startMap s (usedChans s p).length).2.2 (dramTrained p s) = v at *
  generalize dramTrained p s = u at *
  rw [hlog]
  exact ⟨rfl, h4.trans (atStage_cur h), h1, h2, h3, rfl, rfl, rfl, h5, h6⟩

theorem dramTraining_of_none {p : DramProbe} {s : State} (h : atStage s 4 = true) (hcs : usedChans s p = []) :
    Answers (.dramTraining p) s fun t =>
      t.md.cur = .halt ∧ t.md.haltWhy = 4 ∧ t.md.reason = 5 ∧ t.md.fail = true ∧ t.pin.dramReset = false := by
  refine ⟨_, (execDramTraining_cases h).trans (if_pos hcs), ?_⟩
  generalize dramTrained p s = u
  obtain ⟨h1, h2, h3, h4, h5⟩ := startHalt_spec 4 5 { u with pin := { u.pin with dramReset := false } }
  refine ⟨h1, h2, h3, h4, ?_⟩
  rw [h5]

/-! ### Stage 5: the LUNs -/

/-- A LUN that discovery trains runs at what its die offers. -/
def zqAligned (u : Lun) : Lun := { u with zqDone := u.zq, dutyDone := u.duty }

theorem lunOf_modLun_same (l : Nat) (g : Lun → Lun) (s : State) : lunOf (modLun l g s) l = g (lunOf s l) := tget_tset_same ..

theorem lunOf_modLun_ne {l k : Nat} (g : Lun → Lun) (s : State) (h : l ≠ k) : lunOf (modLun l g s) k = lunOf s k := tget_tset_ne _ _ h

/-- The dies of a channel trained up to the `n`th. -/
def zqUpTo (c n : Nat) (s : State) : State :=
  (List.range n).foldl (fun s i => if lunOk s (lunNo c i) then modLun (lunNo c i) (fun u => { u with zqDone := u.zq, dutyDone := u.duty }) s else s) s

theorem zqUpTo_succ (c n : Nat) (s : State) : zqUpTo c (n + 1) s =
    if lunOk (zqUpTo c n s) (lunNo c n) then modLun (lunNo c n) zqAligned (zqUpTo c n s) else zqUpTo c n s := by
  unfold zqUpTo
  rw [List.range_succ, List.foldl_append]
  rfl

theorem zqUpTo_frame (c n : Nat) (s : State) : zqUpTo c n s = { s with luns := (zqUpTo c n s).luns } := by
  induction n with
  | zero => rfl
  | succ n ih =>
    rw [zqUpTo_succ]
    generalize zqUpTo c n s = u at *
    split
    · unfold modLun
      rw [ih]
    · exact ih

theorem lunOf_zqUpTo_above {c n l : Nat} (s : State) (h : lunNo c n ≤ l) : lunOf (zqUpTo c n s) l = lunOf s l := by
  induction n with
  | zero => rfl
  | succ n ih =>
    unfold lunNo at h ih
    rw [zqUpTo_succ]
    split
    · rw [lunOf_modLun_ne _ _ (by unfold lunNo; omega)]
      exact ih (by omega)
    · exact ih (by omega)

theorem lunOf_zqUpTo {c n i : Nat} {s : State} (h : i < n) (hok : lunOk s (lunNo c i) = true) :
    lunOf (zqUpTo c n s) (lunNo c i) = zqAligned (lunOf s (lunNo c i)) := by
  induction n with
  | zero => omega
  | succ n ih =>
    rw [zqUpTo_succ]
    by_cases hi : i = n
    · subst hi
      have hkept := lunOf_zqUpTo_above s (Nat.le_refl (lunNo c i))
      have hok' : lunOk (zqUpTo c i s) (lunNo c i) = true := by
        unfold lunOk at hok ⊢
        rw [hkept]
        exact hok
      rw [if_pos hok', lunOf_modLun_same, hkept]
    · have hbefore := ih (by omega)
      split
      · rw [lunOf_modLun_ne _ _ (by unfold lunNo; omega)]
        exact hbefore
      · exact hbefore

/-- Of the LUNs of a channel the probe of a single one finds that one. -/
theorem filterMap_single {x : LunProbe} {c n : Nat} (h : x.lun < lunNo c n) (hc : lunNo c 0 ≤ x.lun) :
    (List.range n).filterMap (fun i => [x].find? fun y => y.lun = lunNo c i) = [x] := by
  unfold lunNo at *
  induction n with
  | zero => omega
  | succ n ih =>
    rw [List.range_succ, List.filterMap_append]
    by_cases hn : x.lun = c * 128 + n
    · have hnone : (List.range n).filterMap (fun i => [x].find? fun y => y.lun = c * 128 + i) = [] := by
        refine List.filterMap_eq_nil_iff.mpr fun i hi => ?_
        have := List.mem_range.mp hi
        simp [show x.lun ≠ c * 128 + i by omega]
      rw [hnone]
      simp [hn]
    · rw [ih (by omega)]
      simp [List.find?_cons, hn]

/-- A LUN before its channel is probed. -/
def lunSilent (u : Lun) : Lun := if u.reason = 12 then u else { u with reason := 1 }

/-- The LUNs before their channels are probed. -/
def lunsSilent (s : State) : State := { s with luns := tmap {} (fun _ u => lunSilent u) s.luns }

theorem reason_lunSilent (u : Lun) : (lunSilent u).reason = 1 ∨ (lunSilent u).reason = 12 := by
  unfold lunSilent
  split
  · next h => exact .inr h
  · exact .inl rfl

theorem lunsSilent_reason (s : State) (l : Nat) : (lunOf (lunsSilent s) l).reason = 1 ∨ (lunOf (lunsSilent s) l).reason = 12 := by
  unfold lunOf lunsSilent
  rcases tget_tmap_cases {} (fun _ u => lunSilent u) s.luns l with h | ⟨u, h⟩
  · rw [h]
    exact .inl rfl
  · rw [h]
    exact reason_lunSilent u

theorem goodLuns_lunsSilent (s : State) : goodLuns (lunsSilent s) = [] := by
  unfold goodLuns lunsSilent
  rw [List.map_eq_nil_iff, List.filter_eq_nil_iff]
  intro e he hr
  obtain ⟨q, -, hq⟩ := mem_tmap (F := fun _ u => lunSilent u) he
  rw [hq, decide_eq_true_eq] at hr
  rcases reason_lunSilent q.2 with h | h <;> rw [h] at hr <;> exact absurd hr (by decide)

theorem execFlashDiscovery_cases {p : FlashProbe} {s : State} (h : atStage s 5 = true) :
    let u := ((p.luns.map fun x => lunChan x.lun).foldl (fun l c => insNat c l) []).foldl (fun s c => discoverChan p c s) (lunsSilent s)
    exec (.flashDiscovery p) s = .next (toStage 6 (if goodLuns u = [] then startFail 6 u else poolSize (journalHomes u))) := by
  intro u
  change execFlashDiscovery p s = _
  unfold execFlashDiscovery
  rw [if_neg (not_not_intro h)]
  rfl

theorem flashDiscovery_of_no_lun {p : FlashProbe} {s : State} (h : atStage s 5 = true) (hnone : p.luns = []) :
    Answers (.flashDiscovery p) s fun t =>
      t.md.stage = 6 ∧ t.md.reason = 6 ∧ t.md.fail = true ∧ ∀ l, (lunOf t l).reason = 1 ∨ (lunOf t l).reason = 12 := by
  have hexec := execFlashDiscovery_cases (p := p) h
  rw [hnone] at hexec
  exact ⟨_, hexec.trans (next_congr (congrArg (toStage 6) (if_pos (goodLuns_lunsSilent s)))), rfl, rfl, rfl, lunsSilent_reason s⟩

/-! ### A first LUN -/

/-- A value other than the default is an entry of its table. -/
theorem mem_of_tget {α : Type} {d : α} {t : Table α} {i : Nat} (h : tget d t i ≠ d) : (i, tget d t i) ∈ t := by
  induction t with
  | nil => exact absurd rfl h
  | cons p t ih =>
    obtain ⟨k, v⟩ := p
    rw [tget_cons] at h ⊢
    by_cases hk : k = i
    · rw [if_pos hk, hk]
      exact List.mem_cons_self
    · rw [if_neg hk] at h ⊢
      exact List.mem_cons_of_mem _ (ih h)

theorem mem_goodLuns {s : State} {l : Nat} (h : lunOk s l = true) : l ∈ goodLuns s := by
  have hreason : (lunOf s l).reason = 0 := of_decide_eq_true h
  have hne : lunOf s l ≠ {} := fun he => by rw [he] at hreason; exact absurd hreason (by decide)
  exact List.mem_map.mpr ⟨(l, lunOf s l), List.mem_filter.mpr ⟨mem_of_tget hne, by simpa using hreason⟩, rfl⟩

/-- A channel whose eye passes at 4,800 MT/s. -/
def chanFast (tj : Int) (t : Nat) (p : ChanProbe) : Chan :=
  { ({} : Chan) with lastTj := tj, lastCheck := t, checkDue := false, gated := false, trained := true, fallback := false, margin := p.eye4800, rateCur := 1 }

/-- The record of a single LUN, and its channel's. -/
def lunRecorded (x : LunProbe) (c : ChanProbe) (u : State) : State :=
  modLun x.lun (lunRecord x 0) (modChan c.chan (fun _ => chanFast u.therm.last (now u) c) u)

/-- A single probed LUN that passes every check is recorded, and its channel runs at 4,800 MT/s. -/
theorem discoverChan_of_single {x : LunProbe} {c : ChanProbe} {u : State} (hluns : u.luns = []) (hreason : lunReason x = 0)
    (hchan : c.chan = lunChan x.lun) (hdq : x.dqTraining = true) (hrate : regFld u (chuBase c.chan) 1 0 = 1)
    (heye : eyePass c.eye4800 c.height4800 = true) : discoverChan ⟨[x], [c]⟩ c.chan u =
      lunsTrained c.chan (lunRecorded x c u) := by
  have hps : (List.range 128).filterMap (fun i => [x].find? fun y => y.lun = lunNo c.chan i) = [x] := by
    refine filterMap_single ?_ ?_ <;> rw [hchan] <;> unfold lunNo lunChan <;> omega
  have hnew : (lunOf u x.lun).reason = 1 := by
    unfold lunOf
    rw [hluns]
    rfl
  have hrs (ok : Bool) : chanReasons u ok [x] none = [(x, if ok then 0 else 0x0B)] := by
    unfold chanReasons
    rw [if_neg (by rw [hnew]; decide), hreason, if_neg (by decide), if_neg (by simp)]
    rfl
  have htrain : trainChan 1 true u.therm.last (now u) c {} = chanFast u.therm.last (now u) c := by
    unfold trainChan
    exact if_pos ⟨rfl, rfl, heye⟩
  have hfind : (([c].find? fun y => y.chan = c.chan).getD ⟨c.chan, 0, 0, 0, 0⟩) = c := by simp
  unfold discoverChan
  extract_lets ps dq tr rs a b
  have hdies : dq = true := by
    simp only [dq, ps, hps, hrs true, List.all_cons, List.all_nil, hdq, Bool.or_true, Bool.and_true]
  have htr : tr = chanFast u.therm.last (now u) c := by
    simp only [tr]
    rw [hdies, hrate, hfind, htrain]
  have hfast : tr.trained = true := by rw [htr]; rfl
  have hjudged : rs = [(x, 0)] := by
    simp only [rs, ps]
    rw [hps, hfast, hrs true]
    rfl
  rw [if_pos hfast]
  simp only [b, a]
  rw [hjudged, htr]
  rfl

/-- A first LUN accepted: its record, with its die trained (R276, R280 to R282). -/
def firstLun (x : LunProbe) : Lun := zqAligned (lunRecord x 0 {})

/-- What discovery leaves of a first LUN, before the pool is sized. -/
structure FirstLun (x : LunProbe) (c : ChanProbe) (s t : State) : Prop where
  lun : lunOf t x.lun = firstLun x
  chan : chanOf t c.chan = chanFast s.therm.last (now s) c
  frame : t = { s with luns := t.luns, chans := t.chans }

theorem firstLun_discoverChan {x : LunProbe} {c : ChanProbe} {s : State} (hluns : s.luns = []) (hreason : lunReason x = 0)
    (hchan : c.chan = lunChan x.lun) (hdq : x.dqTraining = true) (hrate : regFld s (chuBase c.chan) 1 0 = 1)
    (heye : eyePass c.eye4800 c.height4800 = true) : FirstLun x c s (discoverChan ⟨[x], [c]⟩ c.chan (lunsSilent s)) := by
  have hsilent : (lunsSilent s).luns = [] := by
    unfold lunsSilent
    rw [hluns]
    rfl
  have hplace : lunNo c.chan (x.lun % 128) = x.lun := by
    rw [hchan]
    unfold lunNo lunChan
    omega
  rw [discoverChan_of_single hsilent hreason hchan hdq hrate heye]
  have hold : lunOf (modChan c.chan (fun _ => chanFast s.therm.last (now s) c) (lunsSilent s)) x.lun = {} := by
    change tget {} (lunsSilent s).luns x.lun = {}
    rw [hsilent]
    rfl
  have hrec : lunOf (lunRecorded x c (lunsSilent s)) x.lun = lunRecord x 0 {} := by
    rw [← hold]
    exact lunOf_modLun_same ..
  have hchans : chanOf (lunRecorded x c (lunsSilent s)) c.chan = chanFast s.therm.last (now s) c :=
    tget_tset_same (d := ({} : Chan)) (lunsSilent s).chans c.chan (chanFast s.therm.last (now s) c)
  have hframe : lunRecorded x c (lunsSilent s) =
      { s with luns := (lunRecorded x c (lunsSilent s)).luns, chans := (lunRecorded x c (lunsSilent s)).chans } := rfl
  generalize lunRecorded x c (lunsSilent s) = w at *
  have hok : lunOk w (lunNo c.chan (x.lun % 128)) = true := by
    unfold lunOk
    rw [hplace, hrec]
    rfl
  have htrained := lunOf_zqUpTo (n := 128) (Nat.mod_lt x.lun (by decide)) hok
  rw [hplace, hrec] at htrained
  have hzq := zqUpTo_frame c.chan 128 w
  rw [show lunsTrained c.chan w = zqUpTo c.chan 128 w from rfl]
  generalize zqUpTo c.chan 128 w = v at *
  refine ⟨htrained, ?_, ?_⟩
  · unfold chanOf at hchans ⊢
    rw [hzq]
    exact hchans
  · rw [hzq, hframe]

theorem poolSize_of_good {s : State} (h : goodLuns s ≠ []) : poolSize s =
    { s with hold := { s.hold with poolCap := if s.hold.poolCap = 0 then 72 * 2 ^ 18 else s.hold.poolCap } } := by
  unfold poolSize
  by_cases hcap : s.hold.poolCap = 0
  · rw [if_pos ⟨hcap, h⟩, if_pos hcap]
  · rw [if_neg (fun hk => hcap hk.1), if_neg hcap]

theorem journalHomes_frame (s : State) : journalHomes s = { s with journal := (journalHomes s).journal } := rfl

theorem flashDiscovery_of_first {x : LunProbe} {c : ChanProbe} {s : State} (h : atStage s 5 = true) (hluns : s.luns = []) (hreason : lunReason x = 0)
    (hchan : c.chan = lunChan x.lun) (hdq : x.dqTraining = true) (hrate : regFld s (chuBase c.chan) 1 0 = 1)
    (heye : eyePass c.eye4800 c.height4800 = true) : Answers (.flashDiscovery ⟨[x], [c]⟩) s fun t =>
      t.md.stage = 6 ∧ t.md.fail = s.md.fail ∧ lunOf t x.lun = firstLun x ∧ chanOf t c.chan = chanFast s.therm.last (now s) c ∧
      t.hold.poolCap = (if s.hold.poolCap = 0 then 72 * 2 ^ 18 else s.hold.poolCap) ∧
      t = { s with md := t.md, luns := t.luns, chans := t.chans, journal := t.journal, hold := { s.hold with poolCap := t.hold.poolCap } } := by
  obtain ⟨hlun, hfast, hframe⟩ := firstLun_discoverChan hluns hreason hchan hdq hrate heye
  have hexec := execFlashDiscovery_cases (p := ⟨[x], [c]⟩) h
  rw [show ([x].map fun y => lunChan y.lun).foldl (fun l k => insNat k l) [] = [c.chan] by rw [hchan]; rfl] at hexec
  rw [List.foldl_cons, List.foldl_nil] at hexec
  generalize discoverChan ⟨[x], [c]⟩ c.chan (lunsSilent s) = v at *
  have hok : lunOk v x.lun = true := by
    unfold lunOk
    rw [hlun]
    rfl
  have hgood : goodLuns v ≠ [] := List.ne_nil_of_mem (mem_goodLuns hok)
  refine ⟨_, hexec.trans (next_congr (congrArg (toStage 6) ((if_neg hgood).trans (poolSize_of_good (s := journalHomes v) hgood)))), ?_⟩
  have hcap : v.hold = s.hold := by rw [hframe]
  have hmd : v.md = s.md := by rw [hframe]
  rw [journalHomes_frame]
  generalize (journalHomes v).journal = j
  refine ⟨rfl, (congrArg Md.fail hmd :), hlun, hfast, ?_, ?_⟩
  · dsimp only [toStage]
    rw [hcap]
  · unfold toStage
    dsimp only
    rw [hcap]
    generalize v.luns = a, v.chans = b at hframe
    subst hframe
    rfl

end Sys2Proof.Machine


/-!
PROOFS. What the write path and the replay keep (R75, R77, R285 to R304): the mode, the namespaces, the security functions and, but where
a lease is granted, the vault.
-/
namespace Sys2Proof.Machine

open Sys2Proof

/-- What the write path keeps wherever it binds a key. -/
structure StoreKept (s t : State) : Prop where
  md : t.md = s.md
  nss : t.nss = s.nss
  sec : t.sec = s.sec

/-- What the write path and the replay keep apart from that. -/
structure ReplayKept (s t : State) : Prop where
  md : t.md = s.md
  nss : t.nss = s.nss
  sec : t.sec = s.sec
  vault : t.vault = s.vault

namespace StoreKept

theorem refl (s : State) : StoreKept s s := ⟨rfl, rfl, rfl⟩

theorem trans {s t u : State} (h : StoreKept s t) (k : StoreKept t u) : StoreKept s u :=
  ⟨k.md.trans h.md, k.nss.trans h.nss, k.sec.trans h.sec⟩

/-- `trans` with the later part first, which names the state between. -/
theorem after {s t u : State} (k : StoreKept t u) (h : StoreKept s t) : StoreKept s u := h.trans k

theorem foldl {α : Type} {g : State → α → State} (hg : ∀ s x, StoreKept s (g s x)) (l : List α) (s : State) : StoreKept s (l.foldl g s) := by
  induction l generalizing s with
  | nil => exact refl s
  | cons x l ih => exact (hg s x).trans (ih _)

end StoreKept

namespace ReplayKept

theorem refl (s : State) : ReplayKept s s := ⟨rfl, rfl, rfl, rfl⟩

theorem trans {s t u : State} (h : ReplayKept s t) (k : ReplayKept t u) : ReplayKept s u :=
  ⟨k.md.trans h.md, k.nss.trans h.nss, k.sec.trans h.sec, k.vault.trans h.vault⟩

/-- `trans` with the later part first, which names the state between. -/
theorem after {s t u : State} (k : ReplayKept t u) (h : ReplayKept s t) : ReplayKept s u := h.trans k

theorem foldl {α : Type} {g : State → α → State} (hg : ∀ s x, ReplayKept s (g s x)) (l : List α) (s : State) : ReplayKept s (l.foldl g s) := by
  induction l generalizing s with
  | nil => exact refl s
  | cons x l ih => exact (hg s x).trans (ih _)

theorem ite {c : Prop} [Decidable c] {s t : State} (h : ReplayKept s t) : ReplayKept s (if c then t else s) := by
  split
  · exact h
  · exact refl s

theorem of_settle {s t : State} (h : SettleFrame s t) : ReplayKept s t :=
  ⟨(congrArg State.md h :), (congrArg State.nss h :), (congrArg State.sec h :), (congrArg State.vault h :)⟩

theorem of_decide {s t : State} (h : DecideFrame s t) : ReplayKept s t :=
  ⟨(congrArg State.md h :), (congrArg State.nss h :), (congrArg State.sec h :), (congrArg State.vault h :)⟩

theorem stored {s t : State} (h : ReplayKept s t) : StoreKept s t := ⟨h.md, h.nss, h.sec⟩

end ReplayKept

/-! ### Blocks, positions and relocations -/

theorem replayKept_queueOp (o : Op) (s : State) : ReplayKept s (queueOp o s) := ⟨rfl, rfl, rfl, rfl⟩

theorem replayKept_queueErase (l b : Nat) (s : State) : ReplayKept s (queueErase l b s) := ⟨rfl, rfl, rfl, rfl⟩

theorem replayKept_giveBlk (l b : Nat) (s : State) : ReplayKept s (giveBlk l b s) := ⟨rfl, rfl, rfl, rfl⟩

theorem replayKept_modZone (ns z : Nat) (g : Zone → Zone) (s : State) : ReplayKept s (modZone ns z g s) := ⟨rfl, rfl, rfl, rfl⟩

theorem replayKept_modConv (ns lba : Nat) (g : Conv → Conv) (s : State) : ReplayKept s (modConv ns lba g s) := ⟨rfl, rfl, rfl, rfl⟩

theorem replayKept_modJob (n : Nat) (g : Job → Job) (s : State) : ReplayKept s (modJob n g s) := ⟨rfl, rfl, rfl, rfl⟩

theorem replayKept_setPos (ns z p : Nat) (nb : Nat × Nat) (s : State) : ReplayKept s (setPos ns z p nb s) := by
  unfold setPos
  extract_lets u moved
  have hu : ReplayKept s u := (replayKept_modZone ..).after ⟨rfl, rfl, rfl, rfl⟩
  clear_value moved u
  exact hu.trans ⟨rfl, rfl, rfl, rfl⟩

theorem replayKept_relDrop (n : Nat) (s : State) : ReplayKept s (relDrop n s) := ⟨rfl, rfl, rfl, rfl⟩

theorem replayKept_rebStart (ns z row p : Nat) (who : RebFor) (o : Op) (s : State) : ReplayKept s (rebStart ns z row p who o s) := by
  unfold rebStart
  split
  · exact .refl s
  · dsimp only
    exact (ReplayKept.foldl (fun _ _ => replayKept_queueOp ..) _ _).after ⟨rfl, rfl, rfl, rfl⟩

theorem replayKept_losePages (ns z : Nat) (gone : Nat → Bool) (s : State) : ReplayKept s (losePages ns z gone s) := by
  unfold losePages
  dsimp only
  split
  · exact .refl s
  · exact ⟨rfl, rfl, rfl, rfl⟩

theorem replayKept_zoneOffline (ns z : Nat) (s : State) : ReplayKept s (zoneOffline ns z s) :=
  (ReplayKept.of_settle (zoneChanged_settleFrame ..)).after (replayKept_modZone ..)

theorem replayKept_offlineCheck (ns z : Nat) (s : State) : ReplayKept s (offlineCheck ns z s) := (replayKept_zoneOffline ..).ite

theorem replayKept_rowLost (ns z row p : Nat) (s : State) : ReplayKept s (rowLost ns z row p s) := by
  unfold rowLost
  split
  · exact (replayKept_offlineCheck ..).after (replayKept_losePages ..)
  · exact .refl s

theorem replayKept_relRowProg (n row : Nat) (s : State) : ReplayKept s (relRowProg n row s) := by
  unfold relRowProg
  split
  · exact .refl s
  · exact ⟨rfl, rfl, rfl, rfl⟩

theorem replayKept_relNext (n : Nat) (s : State) : ReplayKept s (relNext n s) := by
  unfold relNext
  split
  · exact .refl s
  · split
    · dsimp only
      split
      · split
        · exact .refl s
        · exact ⟨rfl, rfl, rfl, rfl⟩
      · split
        · exact (replayKept_relRowProg ..).after (replayKept_rowLost ..)
        · split
          · exact replayKept_relRowProg ..
          · exact replayKept_rebStart ..
    · exact .refl s

theorem replayKept_relStart (r : Rel) (s : State) : ReplayKept s (relStart r s) :=
  (replayKept_relNext ..).after ⟨rfl, rfl, rfl, rfl⟩

theorem replayKept_relocate (ns z p : Nat) (kind : RelKind) (nb : Nat × Nat) (s : State) : ReplayKept s (relocate ns z p kind nb s) := by
  unfold relocate
  split
  · exact .refl s
  · extract_lets old f u rows v
    have hu : ReplayKept s u := by
      clear_value f old
      simp only [u]
      split
      · exact replayKept_relDrop ..
      · exact .refl s
    have hv : ReplayKept u v := replayKept_setPos ..
    refine (hu.trans hv).trans ?_
    split
    · exact (replayKept_giveBlk ..).ite
    · exact replayKept_relStart ..

/-! ### Conventional blocks -/

/-- The band that takes a conventional block. -/
theorem replayKept_poolBand {ns : Nat} {n : Ns} {pno : Nat} {s : State} {r : Nat × State} (h : poolBand ns n pno s = some r) :
    ReplayKept s r.2 := by
  unfold poolBand at h
  dsimp only at h
  split at h
  · obtain rfl := Option.some.inj h
    exact .refl s
  · split at h
    · exact nomatch h
    · obtain ⟨⟨ps, v⟩, hv, rfl⟩ := Option.map_eq_some_iff.1 h
      have hfull := ReplayKept.foldl (fun s i => replayKept_modZone ns i (fun z => { z with st := .full }) s) (poolBands s ns) s
      have htaken : ReplayKept _ v := .of_settle (by rw [takeBand_frame hv]; rfl)
      exact (ReplayKept.foldl (fun s i => .of_settle (issueZone_settleFrame ns i s)) _ _).after
        ((replayKept_modZone ..).after (hfull.trans htaken))

theorem replayKept_orderConv (ns : Nat) (s : State) : ReplayKept s (orderConv ns s) := by
  unfold orderConv
  split
  · exact .refl s
  · refine .foldl (fun u e => ?_) _ _
    split
    · exact .refl u
    · split
      · exact .refl u
      · next hp => exact (ReplayKept.of_settle (orderJob_settleFrame ..)).after ((replayKept_modJob ..).after (replayKept_poolBand hp))

theorem replayKept_convCut (j : Job) (s : State) : ReplayKept s (convCut j s) :=
  (replayKept_orderConv ..).after ⟨rfl, rfl, rfl, rfl⟩

theorem replayKept_convJob (ns lba ver : Nat) (s : State) : ReplayKept s (convJob ns lba ver s) := by
  unfold convJob
  split
  · split
    · exact .refl s
    · exact replayKept_convCut ..
  · exact .refl s

/-! ### Replacement of a position -/

theorem replayKept_zoneReadOnly (ns z : Nat) (s : State) : ReplayKept s (zoneReadOnly ns z s) := by
  unfold zoneReadOnly
  split
  · exact .refl s
  · exact (ReplayKept.of_settle (zoneChanged_settleFrame ..)).after
      ((ReplayKept.of_settle (finishData_settleFrame ..)).after (replayKept_modZone ..))

theorem replayKept_posDead (ns z p : Nat) (s : State) : ReplayKept s (posDead ns z p s) := by
  unfold posDead
  extract_lets a b c d
  have hb : ReplayKept s b := by
    have ha : ReplayKept s a := replayKept_modZone ..
    simp only [b]
    split
    · exact (replayKept_relDrop ..).after ha
    · exact ha
  have hc : ReplayKept b c := ⟨rfl, rfl, rfl, rfl⟩
  have hd : ReplayKept s d := (replayKept_zoneReadOnly ..).after (hb.trans hc)
  refine hd.trans ?_
  split
  · exact .refl d
  · refine .foldl (fun u e => ?_) _ _
    extract_lets j v w
    have hv : ReplayKept u v := ⟨rfl, rfl, rfl, rfl⟩
    split
    · exact (replayKept_convCut ..).after hv
    · refine (ReplayKept.of_settle (cutFrame_settleFrame ..)).after (hv.trans ?_)
      simp only [w]
      split
      · exact .refl v
      · exact replayKept_modZone ..

theorem replayKept_replacePos (ns z p : Nat) (kind : RelKind) (s : State) : ReplayKept s (replacePos ns z p kind s) := by
  unfold replacePos
  split
  · exact .refl s
  · split
    · exact replayKept_posDead ..
    · exact replayKept_relocate ..

theorem replayKept_loseFrames (ns z p : Nat) (s : State) : ReplayKept s (loseFrames ns z p s) := by
  unfold loseFrames
  dsimp only
  split
  · exact .refl s
  · split
    · exact .refl s
    · exact replayKept_losePages ..

theorem replayKept_lunGone (l : Nat) (s : State) : ReplayKept s (lunGone l s) := by
  unfold lunGone
  dsimp only
  exact (ReplayKept.foldl (fun _ _ => replayKept_offlineCheck ..) _ _).after
    ((ReplayKept.foldl (fun _ _ => replayKept_replacePos ..) _ _).after (.foldl (fun _ _ => replayKept_loseFrames ..) _ _))

/-! ### Confirmed programs -/

theorem replayKept_movedIn (n : Nat) (s : State) : ReplayKept s (movedIn n s) := by
  unfold movedIn
  split
  · exact .refl s
  · dsimp only
    split
    · exact ⟨rfl, rfl, rfl, rfl⟩
    · exact (replayKept_orderConv ..).after (replayKept_modJob ..)

theorem replayKept_moveGot (n k : Nat) (s : State) : ReplayKept s (moveGot n k s) :=
  (replayKept_movedIn ..).ite.after (replayKept_modJob ..)

theorem replayKept_moveLost (n : Nat) (s : State) : ReplayKept s (moveLost n s) := by
  unfold moveLost
  split
  · exact .refl s
  · exact ⟨rfl, rfl, rfl, rfl⟩

theorem replayKept_moveIssue (n k : Nat) (s : State) : ReplayKept s (moveIssue n k s) := by
  unfold moveIssue
  split
  · exact .refl s
  · split
    · exact replayKept_moveLost ..
    · dsimp only
      split
      · exact ⟨rfl, rfl, rfl, rfl⟩
      · split
        · exact (replayKept_moveLost ..).after (replayKept_rowLost ..)
        · split
          · exact replayKept_moveGot ..
          · exact replayKept_rebStart ..

theorem replayKept_moveConv (ns lba : Nat) (s : State) : ReplayKept s (moveConv ns lba s) := by
  unfold moveConv
  dsimp only
  split
  · split
    · exact .refl s
    · exact (ReplayKept.foldl (fun _ _ => replayKept_moveIssue ..) _ _).after ⟨rfl, rfl, rfl, rfl⟩
  · exact .refl s

theorem replayKept_dropBand (b : Band) (s : State) : ReplayKept s (dropBand b s) := .foldl (fun _ _ => (replayKept_giveBlk ..).ite) _ _

theorem replayKept_reclaim (ns : Nat) (s : State) : ReplayKept s (reclaim ns s) := by
  unfold reclaim
  split
  · exact .refl s
  · split
    · exact .refl s
    · extract_lets closed reads u
      have hu : ReplayKept s u := by
        refine .foldl (fun v i => ?_) _ _
        split
        · exact (replayKept_modZone ..).after (replayKept_dropBand ..)
        · exact .refl v
      refine hu.trans ?_
      clear_value u
      split
      · exact .refl u
      · split
        · exact .refl u
        · dsimp only
          split
          · exact .refl u
          · split
            · exact .foldl (fun _ _ => replayKept_moveConv ..) _ _
            · exact .refl u

theorem replayKept_poisonList (ns : Nat) (s : State) (lba : Nat) : ReplayKept s (poisonList ns s lba) := by
  unfold poisonList
  split
  · exact .refl s
  · split
    · split
      · exact replayKept_modZone ..
      · exact replayKept_modConv ..
    · exact .refl s

theorem replayKept_poolRelease (ns : Nat) (lbas : List Nat) (s : State) : ReplayKept s (poolRelease ns lbas s) := by
  unfold poolRelease
  dsimp only
  split
  · exact .refl s
  · exact ⟨rfl, rfl, rfl, rfl⟩

theorem replayKept_wbUpdate (s : State) : ReplayKept s (wbUpdate s) := by
  obtain ⟨q, hq⟩ := wbUpdate_shape s
  rw [hq]
  exact ⟨rfl, rfl, rfl, rfl⟩

theorem replayKept_releaseBlks (ns : Nat) (takes : List (Nat × Nat)) (s : State) : ReplayKept s (releaseBlks ns takes s) := by
  unfold releaseBlks
  dsimp only
  exact (replayKept_wbUpdate _).after ((ReplayKept.foldl (fun _ _ => replayKept_poisonList ..) _ _).after
    ((replayKept_poolRelease ..).after ⟨rfl, rfl, rfl, rfl⟩))

theorem replayKept_countMedia (ns bytes : Nat) (s : State) : ReplayKept s (countMedia ns bytes s) := by
  unfold countMedia
  split
  · exact ⟨rfl, rfl, rfl, rfl⟩
  · exact .refl s

theorem replayKept_confirmJob (n : Nat) (j : Job) (s : State) : ReplayKept s (confirmJob n j s) := by
  unfold confirmJob
  exact (replayKept_countMedia ..).after ((replayKept_releaseBlks ..).after ⟨rfl, rfl, rfl, rfl⟩)

theorem replayKept_confirmConv (n : Nat) (j : Job) (s : State) : ReplayKept s (confirmConv n j s) := by
  unfold confirmConv
  exact (replayKept_orderConv ..).after ((replayKept_reclaim ..).after ((replayKept_countMedia ..).after
    ((replayKept_releaseBlks ..).after ⟨rfl, rfl, rfl, rfl⟩)))

theorem replayKept_confirmZone (ns z : Nat) (s : State) : ReplayKept s (confirmZone ns z s) := by
  unfold confirmZone
  split
  · exact .refl s
  · refine (ReplayKept.of_decide (fuaCheck_decideFrame _)).after (.foldl (fun u e => ?_) _ _)
    split
    · exact replayKept_confirmConv ..
    · exact replayKept_confirmJob ..

theorem replayKept_confirmAll (ns z : Nat) (s : State) : ReplayKept s (confirmAll ns z s) :=
  (replayKept_confirmZone ..).after ⟨rfl, rfl, rfl, rfl⟩

/-! ### Storing at once (R77) -/

theorem storeKept_modCip (k : Nat) (g : Cip → Cip) (s : State) : StoreKept s (modCip k g s) := ⟨rfl, rfl, rfl⟩

theorem storeKept_modSlot (k : Nat) (g : Slot → Slot) (s : State) : StoreKept s (modSlot k g s) := ⟨rfl, rfl, rfl⟩

theorem storeKept_recordVault (s : State) : StoreKept s (recordVault s) := ⟨rfl, rfl, rfl⟩

theorem storeKept_askLease (sec k : Nat) (s : State) : StoreKept s (askLease sec k s) := storeKept_modCip ..

theorem storeKept_giveLease (sec k : Nat) (s : State) : StoreKept s (giveLease sec k s) := by
  unfold giveLease
  dsimp only
  split
  · exact .refl s
  · split
    · exact .refl s
    · exact (storeKept_recordVault _).after ((storeKept_modCip ..).after (storeKept_modSlot ..))

theorem storeKept_takeValue {s : State} {sec k : Nat} {r : Nat × State} (h : takeValue s sec k = some r) : StoreKept s r.2 := by
  unfold takeValue at h
  split at h
  · exact nomatch h
  · obtain rfl := Option.some.inj h
    dsimp only
    split
    · exact (storeKept_askLease ..).after (storeKept_modCip ..)
    · exact storeKept_modCip ..

theorem storeKept_bindJob {n sec : Nat} {s t : State} (h : bindJob n sec s = some t) : StoreKept s t := by
  unfold bindJob at h
  split at h
  · exact nomatch h
  · split at h
    · exact nomatch h
    · split at h
      · next hv =>
        obtain rfl := Option.some.inj h
        exact (replayKept_modJob ..).stored.after (storeKept_takeValue hv)
      · exact nomatch h

theorem storeKept_bindNow {n : Nat} {s t : State} (h : bindNow n s = some t) : StoreKept s t := by
  unfold bindNow at h
  obtain ⟨j, -, hj⟩ := Option.bind_eq_some_iff.mp h
  split at hj
  · next hb =>
    obtain rfl := Option.some.inj hj
    exact storeKept_bindJob hb
  · obtain ⟨k, -, hk⟩ := Option.bind_eq_some_iff.mp hj
    exact (storeKept_bindJob hk).after (storeKept_giveLease ..)

theorem replayKept_encrypted (n : Nat) (s : State) : ReplayKept s (encrypted n s) := by
  unfold encrypted
  split
  · exact .refl s
  · refine (ReplayKept.of_settle (zoneSettle_settleFrame ..)).after ((ReplayKept.of_settle (placeFrame_settleFrame ..)).after ?_)
    split
    · exact .refl s
    · exact replayKept_modZone ..

theorem replayKept_encoded (n : Nat) (coded : Option (List Byte)) (s : State) : ReplayKept s (encoded n coded s) := by
  unfold encoded
  split
  · exact .refl s
  · exact (ReplayKept.of_settle (zoneSettle_settleFrame ..)).after
      ((ReplayKept.of_settle (orderJobs_settleFrame ..)).after (replayKept_modJob ..))

theorem storeKept_storeJob (n : Nat) (s : State) : StoreKept s (storeJob n s) := by
  unfold storeJob
  split
  · exact .refl s
  · split
    · exact (replayKept_movedIn ..).stored
    · exact (replayKept_encoded ..).stored
    · split
      · exact (replayKept_orderConv ..).stored
      · exact (ReplayKept.of_settle (orderJobs_settleFrame ..)).stored
    · cases h : bindNow n s with
      | none => exact .refl s
      | some t => exact (replayKept_encrypted ..).stored.after (storeKept_bindNow h)
    · exact ((ReplayKept.of_settle (issueZone_settleFrame ..)).after (.of_settle (storeReady_settleFrame ..))).stored
    · exact (replayKept_confirmAll ..).stored

theorem storeKept_storeJobs (n : Nat) (s : State) : StoreKept s (storeJobs n s) := by
  induction n generalizing s with
  | zero => exact ⟨rfl, rfl, rfl⟩
  | succ n ih => exact (ih _).after (.foldl (fun _ _ => storeKept_storeJob ..) _ _)

end Sys2Proof.Machine


/-!
PROOFS. The last stages of START (R71, R74 to R77, R98, R348, R375, R376, R419, R444): replay, the vent pool, the end of START, and O12.
-/
namespace Sys2Proof.Machine

open Sys2Proof

/-! ### Stage 6: replay -/

theorem replayKept_cutZone (ns : Nat) (n : Ns) (z : Nat) (s : State) : ReplayKept s (cutZone ns n z s) := by
  unfold cutZone
  extract_lets zn fb per lost wp below cnt cut u
  have hu : ReplayKept s u := replayKept_modZone ..
  clear_value u
  split
  · exact hu
  · exact hu.trans ⟨rfl, rfl, rfl, rfl⟩

theorem replayKept_replayErases (s : State) : ReplayKept s (replayErases s) := by
  unfold replayErases
  refine .foldl (fun u e => ?_) _ _
  split
  · exact .refl u
  · exact .foldl (fun _ _ => replayKept_queueErase ..) _ _

theorem replayKept_relAgain (s : State) (r : Rel) : ReplayKept s (relAgain s r) := by
  unfold relAgain
  extract_lets u here
  have hu : ReplayKept s u := replayKept_replacePos ..
  clear_value here u
  split
  · exact hu
  · exact (replayKept_giveBlk ..).after hu

theorem replayKept_refreshPos (ns z : Nat) (s : State) (p : Nat) : ReplayKept s (refreshPos ns z s p) := by
  unfold refreshPos
  split
  · exact .refl s
  · exact replayKept_replacePos ..

theorem replayKept_copyAgain (ns z : Nat) (s : State) : ReplayKept s (copyAgain ns z s) :=
  (ReplayKept.of_settle (copyIndex_settleFrame ..)).ite

/-- Replay brings the keys back from their record, and the namespaces are those that were. -/
theorem metadataReplay_of_readable {s : State} (h : atStage s 6 = true) (hpend : s.zer.pend = false) : Answers (.metadataReplay true) s fun t =>
    t.md.stage = 7 ∧ t.vault = { live := unwrapKeys s.vault.recd, recd := s.vault.recd, nor := s.vault.recd, staged := none, words := [] } ∧
    t.nss = s.nss := by
  generalize ho : exec (.metadataReplay true) s = o
  unfold Answers
  rw [ho]
  change execMetadataReplay true s = o at ho
  unfold execMetadataReplay at ho
  rw [if_neg (not_not_intro h), if_neg (not_not_intro rfl)] at ho
  extract_lets lossy recd a keys bad b c d e f g at ho
  have hrecd : recd = s.vault.recd := if_neg (by simp [hpend])
  have hb : ReplayKept a b := by
    simp only [b]
    split
    · refine .foldl (fun u k => ?_) _ _
      split
      · exact replayKept_cutZone ..
      · exact .refl u
    · exact .refl a
  have hc : ReplayKept b c := (replayKept_replayErases _).after ⟨rfl, rfl, rfl, rfl⟩
  have hd : ReplayKept c d := .foldl (fun _ _ => replayKept_relAgain ..) _ _
  have he : ReplayKept d e := by
    simp only [e]
    split
    · exact .foldl (fun _ _ => .foldl (fun _ _ => replayKept_refreshPos ..) _ _) _ _
    · exact .refl d
  have hf : ReplayKept e f := .foldl (fun _ _ => replayKept_copyAgain ..) _ _
  have hg : ReplayKept f g := .foldl (fun _ _ => replayKept_lunGone ..) _ _
  have hkept := ((hb.trans hc).trans hd).trans ((he.trans hf).trans hg)
  refine ⟨toStage 7 g, ho.symm, rfl, ?_, ?_⟩
  · change g.vault = _
    rw [hkept.vault, ← hrecd]
  · exact hkept.nss

theorem execMetadataReplay_of_unreadable {s : State} (h : atStage s 6 = true) :
    exec (.metadataReplay false) s = .next (enterHalt 4 (startFail 7 s)) := by
  change execMetadataReplay false s = _
  unfold execMetadataReplay
  rw [if_neg (not_not_intro h), if_pos (by decide)]

/-! ### Stage 7: the vent pool -/

theorem storeKept_recLost (r : VentRec) (s : State) : StoreKept s (recLost r s) := by
  unfold recLost
  split
  · exact .refl s
  · dsimp only
    split
    · exact ⟨rfl, rfl, rfl⟩
    · exact (StoreKept.foldl (fun _ _ => (replayKept_modConv ..).stored) _ _).after ⟨rfl, rfl, rfl⟩

theorem storeKept_recZeroized (r : VentRec) (s : State) : StoreKept s (recZeroized r s) := by
  unfold recZeroized
  split
  · exact .refl s
  · split
    · exact ⟨rfl, rfl, rfl⟩
    · exact .foldl (fun _ _ => (replayKept_modConv ..).stored) _ _

theorem storeKept_recFound (r : VentRec) (s : State) : StoreKept s (recFound r s) := by
  unfold recFound
  split
  · exact .refl s
  · split
    · exact ⟨rfl, rfl, rfl⟩
    · exact .foldl (fun _ _ => (replayKept_modConv ..).ite.stored) _ _

theorem storeKept_cachePut (b : CBlk) (s : State) : StoreKept s (cachePut b s) := ⟨rfl, rfl, rfl⟩

theorem storeKept_recRestore (r : VentRec) (s : State) : StoreKept s (recRestore r s) := by
  unfold recRestore
  split
  · exact .refl s
  · split
    · exact storeKept_recZeroized ..
    · split
      · exact storeKept_recLost ..
      · exact (StoreKept.foldl (fun _ _ => storeKept_cachePut ..) _ _).after (storeKept_recFound ..)

theorem storeKept_recOne (unreadable : List Nat) (s : State) (e : VentRec × Nat) : StoreKept s (recOne unreadable s e) := by
  unfold recOne
  split
  · exact storeKept_recLost ..
  · exact storeKept_recRestore ..

theorem storeKept_ventLog (e : VEnt) (s : State) : StoreKept s (ventLog e s) := ⟨rfl, rfl, rfl⟩

theorem storeKept_finishData (ns z : Nat) (s : State) : StoreKept s (finishData ns z s) :=
  (ReplayKept.of_settle (finishData_settleFrame ..)).stored

theorem storeKept_cutFull (ns z : Nat) (s : State) : StoreKept s (cutFull ns z s) := (ReplayKept.of_settle (cutFull_settleFrame ..)).stored

theorem storeKept_restorePlace (s : State) (k : Nat × Nat) : StoreKept s (restorePlace s k) := by
  unfold restorePlace
  split
  · exact .refl s
  · split
    · exact (replayKept_convJob ..).stored
    · split
      · exact (storeKept_finishData ..).after (storeKept_cutFull ..)
      · exact (ReplayKept.of_settle (sealZone_settleFrame ..)).stored.after (storeKept_cutFull ..)

theorem ventPoolRestore_of_served {u : List Nat} {s : State} (h : atStage s 7 = true) (hreplayed : s.replayed = false) (hsec : s.sec.st ≠ 2) :
    Answers (.ventPoolRestore u) s fun t => t.replayed = true ∧ t.hold.pool = [] ∧ t.md = s.md ∧ t.nss = s.nss := by
  generalize ho : exec (.ventPoolRestore u) s = o
  unfold Answers
  rw [ho]
  change execVentPoolRestore u s = o at ho
  unfold execVentPoolRestore at ho
  rw [if_neg (by simp [h, hreplayed])] at ho
  extract_lets all todo bad good a b fin c blocks d at ho
  have ha : StoreKept s a := .foldl (fun _ _ => storeKept_recOne ..) _ _
  have hb : StoreKept a b := .foldl (fun _ _ => storeKept_restorePlace ..) _ _
  have hc : StoreKept b c := (storeKept_storeJobs ..).after (.foldl (fun _ _ => storeKept_finishData ..) _ _)
  have hd : StoreKept c d := by
    simp only [d]
    split
    · exact .refl c
    · exact storeKept_ventLog ..
  have hkept := (ha.trans hb).trans (hc.trans hd)
  have hserved : ∀ r, recServed d r = true := fun r => by
    unfold recServed
    rw [hkept.sec]
    simp [hsec]
  refine ⟨_, ho.symm, rfl, ?_, hkept.md, hkept.nss⟩
  change (all.filter fun e => !recServed d e.1).map Prod.fst = []
  rw [List.map_eq_nil_iff, List.filter_eq_nil_iff]
  intro e _
  rw [hserved]
  decide

/-! ### The end of START -/

/-- What the end of START keeps once its mode is entered. -/
structure EndKept (s t : State) : Prop where
  md : t.md = s.md
  zones : t.zones = s.zones
  cur : t.pwr.cur = s.pwr.cur
  san : t.san = s.san

namespace EndKept

theorem refl (s : State) : EndKept s s := ⟨rfl, rfl, rfl, rfl⟩

theorem trans {s t u : State} (h : EndKept s t) (k : EndKept t u) : EndKept s u :=
  ⟨k.md.trans h.md, k.zones.trans h.zones, k.cur.trans h.cur, k.san.trans h.san⟩

/-- `trans` with the later part first, which names the state between. -/
theorem after {s t u : State} (k : EndKept t u) (h : EndKept s t) : EndKept s u := h.trans k

theorem foldl {α : Type} {g : State → α → State} (hg : ∀ s x, EndKept s (g s x)) (l : List α) (s : State) : EndKept s (l.foldl g s) := by
  induction l generalizing s with
  | nil => exact refl s
  | cons x l ih => exact (hg s x).trans (ih _)

theorem ite {c : Prop} [Decidable c] {s t : State} (h : EndKept s t) : EndKept s (if c then t else s) := by
  split
  · exact h
  · exact refl s

end EndKept

theorem endKept_postEvent (ty i l f : Nat) (s : State) : EndKept s (postEvent ty i l f s) := by
  rw [postEvent_frame]
  exact ⟨rfl, rfl, rfl, rfl⟩

theorem endKept_exitOwed {s : State} (h : s.pwr.owed = []) : EndKept s (exitOwed s) := by
  unfold exitOwed
  rw [h]
  dsimp only [List.foldl_nil]
  refine (EndKept.foldl (fun _ _ => endKept_postEvent ..) _ _).after ?_
  rw [foldl_thermalLog_frame]
  exact ⟨rfl, rfl, rfl, rfl⟩

theorem endKept_causeOn (n : Nat) (s : State) : EndKept s (causeOn n s) := by
  rw [causeOn_frame]
  exact ⟨rfl, rfl, rfl, rfl⟩

theorem endKept_causeOff (n : Nat) (s : State) : EndKept s (causeOff n s) := by
  rw [causeOff_frame]
  exact ⟨rfl, rfl, rfl, rfl⟩

theorem endKept_spareCheck (s : State) : EndKept s (spareCheck s) := by
  unfold spareCheck
  split
  · split
    · exact .refl s
    · rw [postEventAll_frame]
      exact (endKept_causeOn 3 s).trans ⟨rfl, rfl, rfl, rfl⟩
  · exact endKept_causeOff ..

theorem endKept_lunCheck (s : State) : EndKept s (lunCheck s) := (endKept_causeOn ..).ite

/-- A cause that is raised or cleared. -/
theorem endKept_cause (c : Prop) [Decidable c] (n : Nat) (s : State) : EndKept s (if c then causeOn n s else causeOff n s) := by
  split
  · exact endKept_causeOn ..
  · exact endKept_causeOff ..

theorem endKept_causesAgain (s : State) : EndKept s (causesAgain s) := by
  unfold causesAgain
  extract_lets a b c d
  have ha : EndKept s a := endKept_cause ..
  have hb : EndKept a b := (endKept_causeOn ..).ite
  have hc : EndKept b c := endKept_spareCheck _
  have hd : EndKept c d := (endKept_causeOn ..).ite
  exact ((ha.trans hb).trans (hc.trans hd)).trans ((endKept_lunCheck _).after (endKept_cause ..))

theorem endKept_enableFn (f ams : Nat) (s : State) : EndKept s (enableFn f ams s) := by
  unfold enableFn
  split
  · exact ⟨rfl, rfl, rfl, rfl⟩
  · dsimp only
    split
    · unfold fnReady fuseRaise
      split
      · split <;> exact ⟨rfl, rfl, rfl, rfl⟩
      · exact ⟨rfl, rfl, rfl, rfl⟩
    · exact ⟨rfl, rfl, rfl, rfl⟩

theorem endKept_witness (s : State) : EndKept s (witness s) := by
  rw [witness_frame]
  exact ⟨rfl, rfl, rfl, rfl⟩

/-- Opened zones are Closed. -/
theorem closed_of_tmap {t : Table Zone} (k : Nat) :
    openSt (tget {} (tmap {} (fun _ z => if openSt z.st then { z with st := .closed } else z) t) k).st = false := by
  rcases tget_tmap_cases {} (fun _ z => if openSt z.st then { z with st := .closed } else z) t k with h | ⟨z, h⟩
  · rw [h]
    rfl
  · rw [h]
    split
    · rfl
    · next hz => exact Bool.eq_false_iff.mpr hz

/-- The mode at the end of START. -/
def startMode (s : State) : State := if s.sec.st = 2 then enterHalt 1 s else enterRun s

/-- What the mode at the end of START leaves. -/
structure StartMode (s t : State) : Prop where
  stage : t.md.stage = s.md.stage
  frame : t = { s with md := t.md, hold := t.hold, pin := t.pin }
  run : s.sec.st ≠ 2 → t.md.cur = .run
  halt : s.sec.st = 2 → t.md.cur = .halt ∧ t.md.haltWhy = 1

theorem setMode_stage (m : Mode) (s : State) : (setMode m s).md.stage = s.md.stage := by
  unfold setMode
  split <;> rfl

theorem startMode_startMode (s : State) : StartMode s (startMode s) := by
  unfold startMode
  by_cases h : s.sec.st = 2
  · rw [if_pos h]
    obtain ⟨h1, h2, -⟩ := enterHalt_spec 1 s
    refine ⟨setMode_stage .halt s, ?_, fun k => absurd h k, fun _ => ⟨h1, h2⟩⟩
    rw [enterHalt_frame]
  · rw [if_neg h]
    obtain ⟨h1, -, -, h4⟩ := enterRun_spec s
    refine ⟨?_, h4, fun _ => h1, fun k => absurd k h⟩
    unfold enterRun
    rw [capTestKept_frame]
    exact setMode_stage .run s

theorem startComplete_of_idle {s : State} (h : atStage s 7 = true) (hreplayed : s.replayed = true) (hsan : s.san.running = false)
    (howed : s.pwr.owed = []) : Answers .startComplete s fun t =>
      t.md.stage = 8 ∧ t.pwr.cur = s.pwr.lastOp ∧ (∀ ns z, openSt (zoneOf t ns z).st = false) ∧
      (s.sec.st ≠ 2 → t.md.cur = .run) ∧ (s.sec.st = 2 → t.md.cur = .halt ∧ t.md.haltWhy = 1) := by
  generalize ho : exec .startComplete s = o
  unfold Answers
  rw [ho]
  change execStartComplete s = o at ho
  unfold execStartComplete at ho
  rw [if_neg (by simp [h, hreplayed])] at ho
  extract_lets p a b c d e at ho
  have hb : b.md.stage = 8 ∧ b.sec.st = s.sec.st ∧ b.pwr.cur = s.pwr.lastOp ∧ b.pwr.owed = [] ∧ b.san.running = false ∧
      ∀ ns z, openSt (zoneOf b ns z).st = false := ⟨rfl, rfl, rfl, howed, hsan, fun ns z => closed_of_tmap _⟩
  obtain ⟨bstage, bsec, bcur, bowed, bsan, bzones⟩ := hb
  have hc : StartMode b c := startMode_startMode b
  obtain ⟨cstage, cframe, crun, chalt⟩ := hc
  have howed' : c.pwr.owed = [] := by rw [cframe, bowed]
  have hsan' : (exitOwed c).san.running = false := by
    rw [(endKept_exitOwed howed').san, cframe]
    exact bsan
  have hagain : sanAgain (exitOwed c) = exitOwed c := if_pos (by rw [hsan']; decide)
  have hd : EndKept c d := by
    have hsync (u : State) : EndKept u (epochSync u) := ⟨rfl, rfl, rfl, rfl⟩
    simp only [d]
    rw [hagain]
    exact (hsync _).after ((endKept_causesAgain _).after (endKept_exitOwed howed'))
  have he : EndKept d e := .foldl (fun _ _ => endKept_enableFn ..) _ _
  have hkept := (hd.trans he).trans (endKept_witness e)
  refine ⟨witness e, ho.symm, ?_, ?_, fun ns z => ?_, fun hs => ?_, fun hs => ?_⟩
  · rw [hkept.md, cstage, bstage]
  · rw [hkept.cur, cframe, bcur]
  · unfold zoneOf at bzones ⊢
    rw [hkept.zones, cframe]
    exact bzones ns z
  · rw [hkept.md]
    exact crun (by rw [bsec]; exact hs)
  · rw [hkept.md]
    exact chalt (by rw [bsec]; exact hs)

/-! ### O12 -/

/-- The self-tests that pass, with nothing else changed (R398, R399). -/
theorem powerOnSelfTests_of_passed {p : SelfTest} {s : State} (h : (atStage s 1 || atStage s 2) = true) (hpass : firstFailed p = 0)
    (heng : ∀ k, k < 8 → p.gcmOk.getD k false = true) : Answers (.powerOnSelfTests p) s fun t =>
      t.md.stage = 3 ∧ t.sec.st = 1 ∧ t.sec.drbg = true ∧ t.md.fail = s.md.fail ∧
      t = { s with md := t.md, sec := t.sec, sram := { s.sram with fused := true } } := by
  refine ⟨_, (execPowerOnSelfTests_cases h).trans (next_congr (if_pos hpass)), ?_⟩
  obtain ⟨htests, hst, hdrbg⟩ := runTests_of_passed hpass heng { s with sram := { s.sram with fused := true } }
  generalize runTests p { s with sram := { s.sram with fused := true } } = u at *
  generalize u.sec = x at *
  subst htests
  exact ⟨rfl, hst, hdrbg, rfl, rfl⟩

theorem powerOnSelfTests_of_bad_rom {p : SelfTest} {s : State} (h : (atStage s 1 || atStage s 2) = true) (hrom : p.romOk = false) :
    Answers (.powerOnSelfTests p) s fun t =>
      t.md.stage = 3 ∧ t.sec.st = 2 ∧ t.sec.fail = 1 ∧ t.md.fail = true ∧ t.md.reason = 1 ∧ t.co.role = false := by
  have hfirst : ¬ firstFailed p = 0 := by
    unfold firstFailed
    rw [if_pos (by simp [hrom])]
    decide
  obtain ⟨hst, hfail, hrole⟩ := runTests_of_bad_rom hrom { s with sram := { s.sram with fused := true } }
  exact ⟨_, (execPowerOnSelfTests_cases h).trans (next_congr (if_neg hfirst)), rfl, hst, hfail, rfl, rfl, hrole⟩

/-- Settles O12: each stage by the state that it leaves; replay and the vent pool by what the write path keeps. -/
theorem startUp : Obligations.StartUp := by
  unfold Obligations.StartUp
  refine ⟨⟨?begin, ?link, ?passed, ?rom, ?image, ?noImage⟩, ?dram, ?noDram, ?noLun, ?lun, ?replay, ?unreadable, ?pool, ?complete⟩
  case begin =>
    intro s h hporst hzer
    have hcur := atStage_cur h
    refine ⟨_, execStartBegin_of_released h hporst hzer, ?_⟩
    unfold enterStage1
    rw [startLockout_frame]
    exact ⟨hcur, rfl, rfl, rfl, rfl, rfl⟩
  case link =>
    intro s h hperst hserving
    have hcur := atStage_cur h
    exact ⟨_, execLinkTrained_of_port0 h hperst hserving, rfl, rfl, hcur, rfl⟩
  case passed =>
    intro p s h hpass heng
    exact powerOnSelfTests_of_passed h hpass heng
  case rom =>
    intro p s h hrom
    exact powerOnSelfTests_of_bad_rom h hrom
  case image =>
    intro s n i h hrun hfind
    have hcur := atStage_cur h
    exact ⟨_, execImageAuthentication_of_found h hrun hfind, rfl, rfl, rfl, rfl, rfl, hcur, rfl⟩
  case noImage =>
    intro s h hrun hfind
    obtain ⟨h1, h2, -, h4, h5⟩ := startHalt_spec 3 (if (startImages s).any (·.2.authentic) then 3 else 2) s
    exact ⟨_, execImageAuthentication_of_none h hrun hfind, h1, h2, h4, h5⟩
  case dram =>
    intro p s h hcs
    exact dramTraining_of_chans h hcs
  case noDram =>
    intro p s h hcs
    exact dramTraining_of_none h hcs
  case noLun =>
    intro p s h hnone
    exact flashDiscovery_of_no_lun h hnone
  case lun =>
    intro x c s h hluns _ hreason hchan hdq hrate heye
    obtain ⟨t, hexec, hstage, hfail, hlun, hfast, hcap, hframe⟩ := flashDiscovery_of_first h hluns hreason hchan hdq hrate heye
    refine ⟨t, hexec, hstage, hfail, ?_⟩
    rw [hlun, hfast]
    exact ⟨rfl, rfl, rfl, rfl, rfl, rfl, rfl, rfl, hcap, hframe⟩
  case replay =>
    intro s h hpend
    obtain ⟨t, hexec, hstage, hvault, hnss⟩ := metadataReplay_of_readable h hpend
    refine ⟨t, hexec, hstage, ?_⟩
    rw [hvault]
    exact ⟨rfl, rfl, rfl, rfl, hnss⟩
  case unreadable =>
    intro s h
    exact ⟨_, execMetadataReplay_of_unreadable h, startHalt_spec 4 7 s⟩
  case pool =>
    intro u s h hreplayed hsec
    exact ventPoolRestore_of_served h hreplayed hsec
  case complete =>
    intro s h hreplayed hsan howed
    exact startComplete_of_idle h hreplayed hsan howed

end Sys2Proof.Machine
